-- ==== Sys2Proof/Word.lean ====
section
/-! DEFINITION. The word types of the module and the plainest arithmetic over them: bytes, 32-bit register words (00 R4),
bit ranges written [msb:lsb] (00, Registers), and sparse tables with one canonical form. -/

namespace Sys2Proof

/-- One byte of the byte-addressed module address space (01 R16). -/
abbrev Byte := BitVec 8

/-- A register word: registers are 32 bits wide (00 R4). -/
abbrev Word := BitVec 32

/-- Bits [hi:lo] of a number. -/
def bitsOf (hi lo n : Nat) : Nat := n / 2 ^ lo % 2 ^ (hi + 1 - lo)

/-- Bit k of a number. -/
def bitOf (k n : Nat) : Bool := n / 2 ^ k % 2 == 1

/-- The number with bit k set. -/
def setBit (k n : Nat) : Nat := if bitOf k n then n else n + 2 ^ k

/-- The number with bit k cleared. -/
def clearBit (k n : Nat) : Nat := if bitOf k n then n - 2 ^ k else n

/-- 1 for true, 0 for false. -/
def b2n (b : Bool) : Nat := if b then 1 else 0

/-- How many of the low w bits of n are set. -/
def popCount : Nat → Nat → Nat
  | 0, _ => 0
  | w + 1, n => n % 2 + popCount w (n / 2)

/-- The lowest set bit position of the low w bits of n, counting from base. -/
def lowestSet : Nat → Nat → Nat → Option Nat
  | 0, _, _ => none
  | w + 1, base, n => if n % 2 = 1 then some base else lowestSet w (base + 1) (n / 2)

/-- The signed value of a w-bit two's-complement code. -/
def toSigned (w n : Nat) : Int :=
  if n % 2 ^ w < 2 ^ (w - 1) then (n % 2 ^ w : Nat) else ((n % 2 ^ w : Nat) : Int) - (2 ^ w : Nat)

/-- The w-bit two's-complement code of an integer. -/
def ofSigned (w : Nat) (i : Int) : Nat := (i % ((2 ^ w : Nat) : Int)).toNat

/-- A sparse table: pairs of a key and a value. In canonical form the keys rise strictly and no entry holds the default. -/
abbrev SMap (α : Type) := List (Nat × α)

/-- The value at a key, the default where none is listed. -/
def SMap.get {α : Type} (d : α) (k : Nat) : SMap α → α
  | [] => d
  | (k', v) :: m => if k' = k then v else SMap.get d k m

/-- The table with a key removed. -/
def SMap.erase {α : Type} (k : Nat) : SMap α → SMap α
  | [] => []
  | (k', v) :: m => if k' = k then SMap.erase k m else (k', v) :: SMap.erase k m

/-- The table with an entry placed where its key keeps the order. -/
def SMap.insert {α : Type} (k : Nat) (v : α) : SMap α → SMap α
  | [] => [(k, v)]
  | (k', v') :: m =>
    if k < k' then (k, v) :: (k', v') :: m
    else if k = k' then (k, v) :: m
    else (k', v') :: SMap.insert k v m

/-- Writing a key: the default removes the entry, so equal tables are equal data. -/
def SMap.put {α : Type} [DecidableEq α] (d : α) (k : Nat) (v : α) (m : SMap α) : SMap α :=
  if v = d then SMap.erase k m else SMap.insert k v m

/-- Keys from b upward rise strictly and no entry holds the default. -/
def SMap.wfFrom {α : Type} [DecidableEq α] (d : α) : Nat → SMap α → Bool
  | _, [] => true
  | b, (k, v) :: m => decide (b ≤ k) && decide (v ≠ d) && SMap.wfFrom d (k + 1) m

/-- The canonical form. -/
def SMap.wf {α : Type} [DecidableEq α] (d : α) (m : SMap α) : Bool := SMap.wfFrom d 0 m

/-- The element at an index, with a default (a table read whose index the caller has checked). -/
def nth {α : Type} (d : α) : List α → Nat → α
  | [], _ => d
  | a :: _, 0 => a
  | _ :: l, n + 1 => nth d l n

/-- The list with the element at an index replaced. -/
def setNth {α : Type} : List α → Nat → α → List α
  | [], _, _ => []
  | _ :: l, 0, b => b :: l
  | a :: l, n + 1, b => a :: setNth l n b

/-- The list without the element at an index. -/
def dropNth {α : Type} : List α → Nat → List α
  | [], _ => []
  | _ :: l, 0 => l
  | a :: l, n + 1 => a :: dropNth l n

/-- The index of the first element a test accepts. -/
def findIdx {α : Type} (p : α → Bool) : List α → Option Nat
  | [] => none
  | a :: l => if p a then some 0 else (findIdx p l).map (· + 1)

/-- The numbers a, a+1, …, a+n-1. -/
def upFrom : Nat → Nat → List Nat
  | _, 0 => []
  | a, n + 1 => a :: upFrom (a + 1) n

/-- The little-endian number of a byte list (00 R4: registers and words are little-endian). -/
def leNat : List Byte → Nat
  | [] => 0
  | b :: l => b.toNat + 256 * leNat l

/-- The n little-endian bytes of a number. -/
def leBytes : Nat → Nat → List Byte
  | 0, _ => []
  | n + 1, v => BitVec.ofNat 8 v :: leBytes n (v / 256)

/-- An integer clamped to a range. -/
def clampInt (lo hi i : Int) : Int := if i < lo then lo else if hi < i then hi else i

end Sys2Proof
end

