-- ==== Sys2Proof/Syntax.lean ====
section
/-! DEFINITION. The commands of the block: one constructor of Instr per row of spec/opcode_table.json, with the row's operands,
and the types of those operands. -/

namespace Sys2Proof

/-- An engine die, 0 to 5 (00 R1). -/
abbrev DieNo := Fin 6
/-- A die, 0 to 6; the keeper die is 6 (00 R1). -/
abbrev AnyDie := Fin 7
/-- A cluster of the module: d × 10 + c (05 Table 5-2). -/
abbrev ClusterNo := Fin 60
/-- A global tile number: d × 160 + c × 16 + t (00 R1). -/
abbrev TileNo := Fin 960
/-- A global bank number: d × 160 + c × 16 + b. -/
abbrev BankNo := Fin 960
/-- A K-block of a plane (03 R60). -/
abbrev BlockNo := Fin 3
/-- A logical column (00 R2). -/
abbrev ColNo := Fin 48

/-- The units that hold a trap latch (05 R113). -/
inductive TrapUnit
  | tile (t : TileNo)
  | ve (c : ClusterNo)
  deriving DecidableEq, Repr

/-- What a bank access does (06 R126, R134): a read, a write with its byte enables, or an atomic of 4 or 8 bytes at a byte
offset of the word. -/
inductive BankOp
  | read
  | write (data : List Byte) (en : List Bool)
  | add (wide : Bool) (off : Nat) (v : Nat)
  | swap (wide : Bool) (off : Nat) (v : Nat)
  deriving DecidableEq, Repr

/-- An arbiter instance (09 Table 9-6). -/
inductive ArbId
  | bankA (b : BankNo)
  | bankB (b : BankNo)
  | far (h : Fin 24)
  | proxy
  deriving DecidableEq, Repr

/-- What a requester asks for under one grant (09 R213): a bank transfer of n words, a far transfer of bytes at a channel
offset, or segments of the proxy's request pipe. -/
inductive ArbBody
  | bank (word : Nat) (n : Nat) (op : BankOp)
  | far (p : Nat) (len : Nat) (data : Option (List Byte × List Bool))
  | proxy (segs : Nat)
  deriving DecidableEq, Repr

/-- A request at an arbiter in one cycle: the requester's index, the master identity of its transfer and the transfer. The
port A indices are the LOCAL bit numbers (06 R129); port B's are 0 read, 1 write, 2 atomic queue. -/
structure ArbReq where
  idx : Nat
  id : Nat
  body : ArbBody
  deriving DecidableEq, Repr

/-- A firmware processor (16 Table 16-1): 0 RING, 1 ALMANAC, 2 LINK, 3 HEALTH, 4 + d STEWARD_d. -/
abbrev ProcNo := Fin 10

/-- A location ALMANAC chooses for a page (07 R153): tier 0 near or 1 far and address bits [47:21]. -/
structure PagePick where
  tier : Nat
  loc : Nat
  deriving DecidableEq, Repr

/-- ALMANAC's choice for a tensor of a plan (07 R151, R152): its slot, its first page-table entry and its pages. -/
structure TenPlace where
  slot : Nat
  ptBase : Nat
  pages : List PagePick
  deriving DecidableEq, Repr

/-- A share ALMANAC places (07 R161): the split segment it serves, its cluster and its OP_TAG. -/
structure SharePick where
  split : Nat
  cluster : ClusterNo
  tag : Nat
  deriving DecidableEq, Repr

/-- A command or descriptor a steward expands from an operation's body (07): the tile, or none for the vector engine, the template
it comes from, and the words that hold its placement. -/
structure WorkPick where
  tile : Option (Fin 16)
  tmpl : Nat
  words : List Word
  deriving DecidableEq, Repr

/-- An access or message a master hands its network interface (10 R224, R225): the SNP kinds are 0x31 INVALIDATE, 0x32 INVALIDATE_ACK
and 0x33 DOORBELL, to a destination of R221. -/
inductive NetReq
  | read (addr : Nat) (len : Nat)
  | write (addr : Nat) (data : List Byte) (en : List Bool) (noAck : Bool)
  | atomic (swap : Bool) (wide : Bool) (addr : Nat) (v : Nat)
  | regRead (addr : Nat)
  | regWrite (addr : Nat) (data : Word)
  | mail (mb : Nat) (words : List Nat)
  | snp (kind : Fin 3) (dest : Fin 512) (data : List Byte)
  deriving DecidableEq, Repr

/-- A write of a vector engine that has not landed (04 R83): the engine's cluster, and which of its writes, oldest 0. -/
structure VeLanding where
  cluster : ClusterNo
  k : Nat
  deriving DecidableEq, Repr

/-- An arbiter whose holder ends, and the 64-byte segments of a transfer through the proxy pipe that have moved (09 R213, R216, R217). -/
structure ArbStop where
  arb : ArbId
  segs : Nat
  deriving DecidableEq, Repr

/-- Port A beside an atomic (06 R133, R134): whether its next access reaches the array in the atomic's read cycle, and in its write cycle. -/
structure PortABeside where
  inRead : Bool
  inWrite : Bool
  deriving DecidableEq, Repr

/-- Who arms a descriptor (08 R175): the master, and the job for whose share the die's steward arms, where it is the steward that does. -/
structure Armer where
  who : Nat
  job : Option Nat
  deriving DecidableEq, Repr

/-- The job and the cluster of a detached receiver whose data a unicast transfer completes (08 R191). -/
structure Completion where
  job : Nat
  cluster : ClusterNo
  deriving DecidableEq, Repr

/-- The signals a regional clock edge finds at a P-block: its 38 inputs and its CE, SET and RESET inputs (11 R246, R249). An input that the
configuration routes from a P-block, a RAM port or a pin of the region takes that level instead. -/
structure PIn where
  p : Nat
  ins : Nat
  ce : Bool
  set : Bool
  reset : Bool
  deriving DecidableEq, Repr

/-- An enabled access of a fabric RAM port at an edge of its clock (11 R252, R253). near: an edge of the other port's different clock lies
less than t_COLL away, with an access to the same word: 0 none, 1 it writes, 2 it reads. -/
structure RamIn where
  block : Nat
  portB : Bool
  addr : Nat
  data : Nat
  we : Nat
  near : Nat
  deriving DecidableEq, Repr

/-- What a regional clock edge finds beside the P-blocks: its RAM ports, and the pins of the region's I/O banks that stand high, each as
24 × bank + pin (11 R252, R270). -/
structure EdgeIn where
  rams : List RamIn
  pads : List (Fin 192)
  deriving DecidableEq, Repr

/-- The parity upsets an LPC finds in its pointer load and in its circular load (12 R287, R290). -/
structure LpcUpset where
  load : Bool
  circ : Bool
  deriving DecidableEq, Repr

/-- The first operand of a host message, with the message's TAG (15 Table 15-2). -/
structure Tagged (α : Type) where
  val : α
  tag : Fin 65536
  deriving DecidableEq, Repr

/-- The commands. -/
inductive Instr where
  -- Registers (chapter 0)
  /-- REGISTER_WRITE (R6): master, address, size in bytes, data, and the w1c bits hardware sets in the same cycle (R7). -/
  | registerWrite (who : Nat) (addr : Nat) (size : Nat) (data : Word) (hwSet : Word)
  /-- READ_CLEAR (R8): master, address, and the events counted in the same cycle. -/
  | readClear (who : Nat) (addr : Nat) (events : Nat)
  -- Matrix tiles (chapter 3)
  | tileCmdEnqueue (t : TileNo) (who : Nat) (w7 : Word)
  | tileCmdHeldRelease (t : TileNo)
  | mm (t : TileNo)
  | drain (t : TileNo)
  | zeroAcc (t : TileNo)
  | planeLoadStart (t : TileNo)
  /-- upset: the bank lanes (cluster word × 16 + lane) whose stored parity has gone bad since they were written. -/
  | planeReady (t : TileNo) (upset : List Nat)
  | rowPush (t : TileNo) (m : Nat) (elems : List Nat) (bx8 : List Nat)
  | batchWindowExpiry (t : TileNo)
  | rowIssue (t : TileNo) (upset : List Nat)
  /-- row: the place of the row among the rows in flight, oldest first; parityBad: the accumulator read of J_0 fails parity. -/
  | blockJunction (t : TileNo) (row : Nat) (b : BlockNo) (n : ColNo) (parityBad : Bool)
  /-- disagree: one of the row's three comparisons disagrees. -/
  | rowCommit (t : TileNo) (disagree : Bool)
  | factorFormation (t : TileNo) (upset : List Nat)
  | drainRead (t : TileNo) (parityBad : Bool)
  | tileFlush (t : TileNo)
  | flushAbortReport (t : TileNo)
  | tileCtrlRun (t : TileNo) (run : Bool)
  | tileRepairWrite (t : TileNo) (data : Word)
  | trapLatchClear (u : TrapUnit)
  -- The vector engine (chapter 4)
  | veDescEnqueue (c : ClusterNo) (who : Nat) (w15 : Word)
  | veDescHeldRelease (c : ClusterNo)
  | descriptorDecode (c : ClusterNo)
  /-- A step of the executing descriptor; upset: operand-cache lanes whose stored parity has gone bad. -/
  | veCopy (c : ClusterNo) (upset : List Nat)
  /-- upset: bank lanes gone bad. -/
  | veLoad (c : ClusterNo) (upset : List Nat)
  | veStore (c : ClusterNo) (upset : List Nat)
  | veAdd (c : ClusterNo) (upset : List Nat)
  | veSub (c : ClusterNo) (upset : List Nat)
  | veMul (c : ClusterNo) (upset : List Nat)
  | veFma (c : ClusterNo) (upset : List Nat)
  | veMax (c : ClusterNo) (upset : List Nat)
  | veMin (c : ClusterNo) (upset : List Nat)
  | veAbs (c : ClusterNo) (upset : List Nat)
  | veNeg (c : ClusterNo) (upset : List Nat)
  | veExp2 (c : ClusterNo) (upset : List Nat)
  | veLog2 (c : ClusterNo) (upset : List Nat)
  | veRcp (c : ClusterNo) (upset : List Nat)
  | veRsqrt (c : ClusterNo) (upset : List Nat)
  | vePerm (c : ClusterNo) (upset : List Nat)
  | veGather (c : ClusterNo) (upset : List Nat)
  | veRsum (c : ClusterNo) (upset : List Nat)
  | veRmax (c : ClusterNo) (upset : List Nat)
  | veRmin (c : ClusterNo) (upset : List Nat)
  | veArgmax (c : ClusterNo) (upset : List Nat)
  | veArgmin (c : ClusterNo) (upset : List Nat)
  | veSample (c : ClusterNo) (upset : List Nat)
  | veAccept (c : ClusterNo) (upset : List Nat)
  | veBlockq (c : ClusterNo) (upset : List Nat)
  | veWriteLand (x : VeLanding)
  | descEndReport (c : ClusterNo)
  | veFlush (c : ClusterNo)
  | veCtrlRun (c : ClusterNo) (run : Bool)
  -- Numeric trouble (chapter 5)
  | stewardTrapTake (d : DieNo) (u : TrapUnit)
  | trapJobEnd (job : Nat)
  /-- where2: the cluster ALMANAC chooses for a second recomputation (05 R121). -/
  | shareRecompute (share : Nat) (where2 : ClusterNo)
  -- Arbiters and banks (chapters 6 and 9)
  | arbiterGrant (a : ArbId) (reqs : List ArbReq)
  | backoffExpiry (a : ArbId) (idx : Nat)
  | holdMaxCutoff (a : ArbStop)
  /-- take = true: the emergency requester asks; false: it is done. -/
  | emergencyHold (a : ArbId) (take : Bool)
  | requesterMask (a : ArbStop) (idx : Nat) (on : Bool)
  /-- pair: an aligned pair moves; same: the other port's outstanding access reaches its word in the same array cycle. -/
  | bankRead (b : BankNo) (portB : Bool) (pair : Bool) (same : Bool) (upset : List Nat)
  | bankWrite (b : BankNo) (portB : Bool) (pair : Bool) (same : Bool) (upset : List Nat)
  | atomicAdd (b : BankNo) (beside : PortABeside) (upset : List Nat)
  | atomicSwap (b : BankNo) (beside : PortABeside) (upset : List Nat)
  | bankOwnerWrite (b : BankNo) (group : Nat)
  | handoverDone (b : BankNo)
  -- The near tier (chapter 6); crcBad: the stored or read burst fails its CRC this time
  | nearBurstRead (who : Nat) (addr : Nat) (crcBad : Bool)
  | nearBurstWrite (who : Nat) (addr : Nat) (data : List Byte) (en : List Bool) (crcBad : Bool)
  | nearReread (d : DieNo) (crcBad : Bool)
  | nearRefresh (d : DieNo) (h : Fin 256)
  | nearHotRestore (d : DieNo)
  -- The far tier (chapter 9); a channel is 4 d + h
  | farAdmit (h : Fin 24)
  | farBurstIssue (h : Fin 24)
  /-- crcBad: the read fails its checks. -/
  | farWindowPass (h : Fin 24) (crcBad : Bool)
  | farReread (h : Fin 24) (crcBad : Bool)
  | farRefresh (h : Fin 24) (rank : Fin 2)
  /-- above: some device reports a rate above the normal one; calm: all have reported the normal rate for 100 ms. -/
  | mr4Poll (h : Fin 24) (above : Bool) (calm : Bool)
  | farTrain (h : Fin 24)
  | trainStepDone (h : Fin 24)
  | trainStepTimeout (h : Fin 24) (noWindow : Bool)
  | periodicRetrain (h : Fin 24)
  | periodicRetrainEnd (h : Fin 24) (drift : Bool)
  | fullRetrain (h : Fin 24)
  | caAlert (h : Fin 24)
  | alertRise (h : Fin 24)
  -- Self-test (chapter 18)
  | marchGo (c : ClusterNo) (who : Nat) (data : Word)
  | marchTransfer (c : ClusterNo) (upset : List Nat)
  | marchAbort (c : ClusterNo) (who : Nat)
  | tileFenceWrite (t : TileNo) (who : Nat) (on : Bool)
  | tileSelftestGo (t : TileNo) (who : Nat) (useRepair : Bool)
  /-- rows: the physical rows found faulty; junction: a fault outside the rows. -/
  | tileSelftestEnd (t : TileNo) (rows : BitVec 50) (junction : Bool)
  | tileRetire (t : TileNo)
  | repairAssign (t : TileNo)
  -- Almanac (chapter 7)
  | translate (d : DieNo) (who : Nat) (slot : Nat) (off : Nat) (write : Bool)
  /-- codes: the 32 slab codes where the destination is a slab list. -/
  | migrationStart (slot : Nat) (page : Nat) (tier : Fin 3) (loc : Nat) (codes : List Nat) (tag : Nat)
  | invalidate (d : DieNo) (slot : Nat) (page : Nat)
  | migrationFinish (slot : Nat) (page : Nat)
  | evacuation (slot : Nat) (page : Nat) (dst : PagePick)
  | pmCmdEnqueue (d : DieNo) (k : Fin 4) (who : Nat) (w3 : Word)
  | pmCmdHeldRelease (d : DieNo) (k : Fin 4)
  | pmCmdEnd (d : DieNo) (k : Fin 4)
  | opPlace (job : Nat) (op : Nat) (shares : List SharePick)
  /-- work: the expansion of the share's body, taken at its first dispatch. -/
  | shareDispatch (share : Nat) (work : List WorkPick)
  /-- fl: flags of bits 6 to 11 that arose for the operation (05 Table 5-1a); lost: data of it was lost. -/
  | opComplete (job : Nat) (op : Nat) (fl : BitVec 12) (lost : Bool)
  /-- pref: the order in which ALMANAC takes clusters into STREAM sets. -/
  | capacityReevaluation (pref : List ClusterNo)
  /-- ok: the frame event's STATUS is OK (14 R350). -/
  | streamFrameEvent (job : Nat) (ok : Bool)
  | reserveRequest (c : ClusterNo) (who : Nat)
  | reserveGrant (c : ClusterNo)
  | reserveRelease (c : ClusterNo) (who : Nat)
  | reserveReturn (c : ClusterNo) (group : Fin 8)
  | almCtrlRun (who : Nat) (run : Bool)
  -- Stream engines (chapter 8)
  | seArm (d : DieNo) (e : Fin 16) (n : Fin 8) (by_ : Armer)
  | transferStart (d : DieNo) (e : Fin 16)
  | listFetch (d : DieNo) (e : Fin 16)
  /-- reread: a source burst of this cycle was re-read and passed (06 R144). -/
  | entryIssue (d : DieNo) (e : Fin 16) (reread : Bool)
  | entryComplete (d : DieNo) (e : Fin 16) (idx : Nat)
  | transferComplete (d : DieNo) (e : Fin 16)
  | transferError (d : DieNo) (e : Fin 16)
  | wheelAdvance (d : DieNo) (e : Fin 16)
  | seSlotWrite (d : DieNo) (e : Fin 16) (i : Fin 64) (who : Nat) (data : Word)
  | seSlotHeldRelease (d : DieNo) (e : Fin 16)
  | multicastDeliver (d : DieNo) (e : Fin 16) (r : Fin 16)
  /-- The notice by its receiver and its CAUSE (08 R188). -/
  | detachNotice (d : DieNo) (e : Fin 16) (r : Fin 16) (cause : Nat)
  | seCtrlRun (d : DieNo) (e : Fin 16) (who : Nat) (run : Bool)
  | seFlush (d : DieNo) (e : Fin 16) (who : Nat)
  /-- The unicast transfer a steward arms for the cluster of a detached receiver: the descriptor, its list, COUNT, NOTIFY and TAG. -/
  | multicastCompletionUnicast (x : Completion) (d : DieNo) (e : Fin 16) (n : Fin 8) (list : Nat) (count : Nat) (notify : Nat) (tag : Nat)
  -- The module network and Lantern (chapter 10); a network is 0 REQ, 1 RSP, 2 SNP, 3 DAT
  | packetInject (who : Nat) (r : NetReq)
  /-- out: 0 E, 1 W, 2 N, 3 S, 4 OFF, 5 to 8 EJECT at L0 to L3; on the keeper 0 to 5 the control links, 6 to 13 the ports. waited: the cycles
  since the output forwarded last in which heads for it waited; risen: those of them that URGENCY_RISE has brought. -/
  | routerForward (die : AnyDie) (net : Fin 4) (n : Fin 24) (out : Fin 14) (waited : Nat) (risen : Nat)
  /-- q: 64 to 67 the east, west, north and south bridge ingresses, 68 the control-link ingress. -/
  | ingressRelookup (d : DieNo) (q : Fin 5) (net : Fin 4)
  /-- The packet at a place of a router input's queue, or, at inputs 9 to 12, of the injection queue of the NI at L0 to L3. -/
  | urgencyRise (d : DieNo) (net : Fin 4) (n : Fin 24) (input : Fin 13) (i : Nat)
  | responseArrive (die : AnyDie) (port : Fin 64)
  | requestTimeout (die : AnyDie) (port : Fin 64) (txn : Fin 4096)
  /-- The bridge ingress, 0 E, 1 W, 2 N, 3 S, whose flit failed its CRC. -/
  | bridgeRetry (d : DieNo) (link : Fin 4)
  | nocCtrlRun (d : DieNo) (who : Nat) (run : Bool)
  | traceWrite (d : DieNo)
  | traceRunWrite (d : DieNo) (who : Nat) (run : Bool)
  -- The fabric (chapter 11)
  /-- An edge of regional clock k, rising or falling, what it finds at the P-blocks and RAM ports that take it, and the pins of the
  region's I/O banks that stand high, each as 24 × bank + pin. -/
  | regionalClockEdge (d : DieNo) (r : Fin 24) (k : Fin 16) (rising : Bool) (blocks : List PIn) (x : EdgeIn)
  | asynchronousSetReset (d : DieNo) (r : Fin 24) (p : Fin 704) (set : Bool) (reset : Bool)
  /-- sig: the input the region signals name; runs: the new source has run for the edges the switch needs. -/
  | clockSwitch (d : DieNo) (r : Fin 24) (k : Fin 16) (sig : Fin 4) (runs : Bool)
  | deadSrc (d : DieNo) (r : Fin 24) (k : Fin 16)
  | clockDividerWrite (d : DieNo) (r : Fin 24) (k : Fin 16) (who : Nat) (div : Fin 256)
  | clockMonitorWindow (d : DieNo) (r : Fin 24) (k : Fin 16) (edges : Nat)
  | frClkgateWrite (d : DieNo) (r : Fin 24) (who : Nat) (en : Fin 65536)
  | fniRequest (d : DieNo) (f : Fin 32) (kind : Fin 8) (addr : Nat) (len : Nat) (tag : Fin 256) (noAck : Bool) (data : List Byte) (en : List Bool)
  /-- kind: the packet type of 10 Table 10-4; word: ADDR[11:2]. -/
  | fniTargetAccess (d : DieNo) (f : Fin 32) (who : Nat) (kind : Nat) (word : Fin 1024) (data : Word)
  | fniTargetReply (d : DieNo) (f : Fin 32) (data : Word) (refuse : Bool)
  | fniMessageArrive (d : DieNo) (f : Fin 32)
  /-- kind: the packet type; off: the byte offset in the window. -/
  | rowPushWindow (t : TileNo) (who : Nat) (kind : Nat) (off : Nat) (data : List Byte) (en : List Bool)
  /-- sensed: the code of the supply after the fall. -/
  | vioLoss (b : Fin 8) (sensed : Fin 4)
  | ioPinSlewWrite (d : DieNo) (b : Fin 8) (i : Fin 24) (who : Nat) (slew : Fin 4)
  | messageSinkTransfer (d : DieNo) (f : Fin 32)
  | holdPuChange (level : Bool)
  -- Signal slices (chapter 12)
  /-- up: the surroundings have upset the fetched bundle's parity. -/
  | slBundleIssue (d : DieNo) (s : Fin 64) (up : Bool)
  | slResultLand (d : DieNo) (s : Fin 64)
  /- One operation of the bundle issued last, in its slot. A load's up: the word at its pointer or its circular unit has been upset. -/
  | slNop (d : DieNo) (s : Fin 64)
  | slMac (d : DieNo) (s : Fin 64)
  | slMacc (d : DieNo) (s : Fin 64)
  | slMsu (d : DieNo) (s : Fin 64)
  | slMacz (d : DieNo) (s : Fin 64)
  | slAclr (d : DieNo) (s : Fin 64)
  | slMacn (d : DieNo) (s : Fin 64)
  | slLp (d : DieNo) (s : Fin 64) (up : Bool)
  | slLc (d : DieNo) (s : Fin 64) (up : Bool)
  | slLpc (d : DieNo) (s : Fin 64) (up : LpcUpset)
  | slSp (d : DieNo) (s : Fin 64)
  | slSc (d : DieNo) (s : Fin 64)
  | slLcsp (d : DieNo) (s : Fin 64) (up : Bool)
  | slHalt (d : DieNo) (s : Fin 64)
  | slWait (d : DieNo) (s : Fin 64)
  | slReti (d : DieNo) (s : Fin 64)
  | slBr (d : DieNo) (s : Fin 64)
  | slBz (d : DieNo) (s : Fin 64)
  | slBnz (d : DieNo) (s : Fin 64)
  | slBlt (d : DieNo) (s : Fin 64)
  | slBge (d : DieNo) (s : Fin 64)
  | slLoop (d : DieNo) (s : Fin 64)
  | slLoopi (d : DieNo) (s : Fin 64)
  | slAdd (d : DieNo) (s : Fin 64)
  | slSub (d : DieNo) (s : Fin 64)
  | slAnd (d : DieNo) (s : Fin 64)
  | slOr (d : DieNo) (s : Fin 64)
  | slXor (d : DieNo) (s : Fin 64)
  | slSha (d : DieNo) (s : Fin 64)
  | slCadd (d : DieNo) (s : Fin 64)
  | slCsub (d : DieNo) (s : Fin 64)
  | slAddi (d : DieNo) (s : Fin 64)
  | slMovi (d : DieNo) (s : Fin 64)
  | slMovhi (d : DieNo) (s : Fin 64)
  | slNorm (d : DieNo) (s : Fin 64)
  | slNormv (d : DieNo) (s : Fin 64)
  | slExp (d : DieNo) (s : Fin 64)
  | slMtc (d : DieNo) (s : Fin 64)
  | slMfc (d : DieNo) (s : Fin 64)
  | slAadd (d : DieNo) (s : Fin 64)
  | slFrd (d : DieNo) (s : Fin 64)
  | slFclr (d : DieNo) (s : Fin 64)
  | slArst (d : DieNo) (s : Fin 64)
  | slAgetv (d : DieNo) (s : Fin 64)
  | slAgeti (d : DieNo) (s : Fin 64)
  | slAfeed (d : DieNo) (s : Fin 64)
  | slOut (d : DieNo) (s : Fin 64)
  | slXfer (d : DieNo) (s : Fin 64)
  | xferEnd (d : DieNo) (s : Fin 64)
  | slInterrupt (d : DieNo) (s : Fin 64)
  /-- words: what the ingress port has carried since; same: in the cycle of the bundle issued last. -/
  | slIngressWord (d : DieNo) (s : Fin 64) (words : List Word) (same : Bool)
  | slTimerExpiry (d : DieNo) (s : Fin 64)
  | slFabricIrq (d : DieNo) (s : Fin 64) (line : Fin 2)
  | slIrqRaise (d : DieNo) (s : Fin 64) (who : Nat) (mask : Fin 256)
  | slCtrlRun (d : DieNo) (s : Fin 64) (who : Nat) (run : Bool)
  /-- off: the byte offset from the slice's base; len: bytes to read; data and enables: bytes to write, none for a read. -/
  | slExternalAccess (d : DieNo) (s : Fin 64) (who : Nat) (off : Fin 0x20000) (len : Nat) (write : Option (List Byte × List Bool)) (same : Bool)
  | sliceEgressTransfer (d : DieNo) (s : Fin 64)
  -- The test port and configuration (chapter 13): an instruction's command loads it and makes its shift
  | tapReset
  /-- shift: what is shifted in; pins: what the cells capture. -/
  | extest (shift : BitVec 576) (pins : BitVec 576)
  | samplePreload (shift : BitVec 576) (pins : BitVec 576)
  | idcode
  | clamp
  | highz
  /-- Any code that Table 13-1 does not list acts as BYPASS. -/
  | bypass (code : Fin 256)
  /-- enter: Shift-DR is entered anew. -/
  | cfgLoad (enter : Bool) (bits : List Bool)
  | cfgWide (enter : Bool) (halfwords : List (BitVec 16))
  | retry (bits : List Bool)
  | cfgStatus
  | cfgAbort
  | harvestSel (sel : Word)
  | harvest
  | netAccess (addr : BitVec 48) (data : Word) (write : Bool)
  | streamHeader
  | configFrame
  | frameVerified
  | gapTimeout
  | tckBackstop
  /-- vio: the sensed code of each I/O bank; loads: the measured load of a bank's pins, in pF. -/
  | configStartup (vio : List (Fin 4)) (loads : List (Fin 8 × Fin 24 × Fin 64))
  | partialRegionStart (vio : List (Fin 4)) (loads : List (Fin 8 × Fin 24 × Fin 64))
  -- Serial lanes and frame ports (chapter 14)
  | laneEnable (d : DieNo) (i : Fin 48) (who : Nat)
  | laneDisable (d : DieNo) (i : Fin 48) (who : Nat)
  | laneRecal (d : DieNo) (i : Fin 48) (who : Nat)
  | recalDone (d : DieNo) (i : Fin 48)
  | detectPoll (d : DieNo) (i : Fin 48) (found : Bool)
  /-- loss: the estimate in 0.5 dB steps. -/
  | trainSettled (d : DieNo) (i : Fin 48) (loss : Fin 81)
  | bitLockHeld (d : DieNo) (i : Fin 48)
  | blockLockAcquired (d : DieNo) (i : Fin 48)
  | blockLockLost (d : DieNo) (i : Fin 48)
  | bringupTimeout (d : DieNo) (i : Fin 48)
  | capsTimeout (d : DieNo) (i : Fin 48)
  | stepQuietEnd (d : DieNo) (i : Fin 48)
  | downRestart (d : DieNo) (i : Fin 48)
  | los (d : DieNo) (i : Fin 48)
  /-- ref: REFCLK_Ld is absent or out of its range, for every lane of the die. -/
  | lol (d : DieNo) (i : Fin 48) (ref : Bool)
  | idleBlock (d : DieNo) (i : Fin 48)
  | alignBlock (d : DieNo) (i : Fin 48) (index : Fin 8) (size : Fin 4)
  /-- b: bytes 1 to 4 of the block. -/
  | capability (d : DieNo) (i : Fin 48) (b : Word)
  | step (d : DieNo) (i : Fin 48) (target : Fin 8)
  /-- bad: the header is invalid; errs: the bit errors a PRBS31 checker finds in it (18 R432). -/
  | dataBlock (d : DieNo) (i : Fin 48) (payload : BitVec 64) (bad : Bool) (errs : Nat)
  /-- A control block of type 0x78, or of a reserved type, in byte 0. -/
  | user (d : DieNo) (i : Fin 48) (payload : BitVec 64)
  | rawSlip (d : DieNo) (i : Fin 48)
  | laneWake (d : DieNo) (i : Fin 48)
  | frameStart (d : DieNo) (i : Fin 48) (no : Word)
  | lineStart (d : DieNo) (i : Fin 48) (line : Fin 65536)
  | frameEnd (d : DieNo) (i : Fin 48) (crc : Word)
  /-- The line returned; shape: its TP_IN_EOL came early or late. -/
  | tapLineReturn (d : DieNo) (k : Fin 6) (data : List Byte) (shape : Bool)
  | frameEvent (d : DieNo) (k : Fin 6)
  | fpRdWrite (d : DieNo) (k : Fin 6) (who : Nat) (v : Fin 65536)
  | fpCtrlEn (d : DieNo) (k : Fin 6) (who : Nat) (en : Bool)
  | rxbTransfer (d : DieNo) (i : Fin 48)
  /-- A word of blocks, each with its TXB_CTRL bit. -/
  | txbTransfer (d : DieNo) (i : Fin 48) (blocks : List (Bool × BitVec 64))
  -- The host link (chapter 15); ok: the message's TYPE and LEN are good
  | usbBusReset
  | usbResume
  | readReq (idx : Fin 4)
  | writeReq (idx : Fin 4)
  | readData (tag : Nat) (status : Nat) (data : List Byte) (ok : Bool)
  | writeAck (tag : Nat) (status : Nat) (ok : Bool)
  | keepalive (ok : Bool)
  | hello (version : Tagged Word)
  | windowSet (w : Tagged (Fin 16)) (size : Nat) (read write : Bool)
  | windowClear (w : Tagged (Fin 16))
  | sqDoorbell (r : Tagged (Fin 64)) (index : Word)
  | cqDoorbell (r : Tagged (Fin 64)) (index : Word)
  | regRead (addr : Tagged Nat)
  | regWrite (addr : Tagged Nat) (data : Word)
  | heldRead (n : Tagged Nat)
  | descriptorFetch
  | nop
  | job (pref : List ClusterNo)
  | planLoad (places : List TenPlace)
  | planUnload
  | jobStop
  | tensorWrite
  | tensorRead
  | jobEventStart (job : Nat)
  | jobEventEnd (job : Nat)
  | completionRecordWrite
  | trapRecordWrite (job : Nat)
  | event
  | hostAbsent
  | usbAttach (speed : Fin 5)
  -- Firmware processors and mailboxes (chapter 16)
  | boot (p : ProcNo)
  | watchdogExpiry (p : ProcNo) (pc : Word)
  /-- cause: 2 illegal instruction, 3 memory parity at addr, 4 the abort service. -/
  | processorCrash (p : ProcNo) (cause : Fin 3) (pc : Word) (addr : Word)
  | fwCtrlRestart (p : ProcNo) (who : Nat) (pc : Word)
  | fwCtrlReleaseHold (p : ProcNo) (who : Nat)
  | fwKick (p : ProcNo) (who : Nat)
  /-- i: which of the messages on their way arrives. -/
  | mailbox (i : Nat)
  | mailboxReadWord0 (n : Nat) (who : Nat)
  | mailboxReadWord15 (n : Nat) (who : Nat)
  | sendPortSend (port : Fin 2) (who : Nat) (w15 : Word)
  | fwUpdate (role : Fin 5) (win : Fin 16) (off : Nat) (len : Nat)
  | attestGo (who : Nat)
  | attestReady
  | intKeyFuse (who : Nat)
  -- Power, clocks, start-up (chapter 17) and 15 R356
  | standbyPowerOn
  | railPowerUp
  /-- input: 0 VIN54, 1 VSTBY. -/
  | brownOut (input : Fin 2)
  | mresetN
  | swReset (who : Nat) (key : BitVec 16)
  | setState (state : Fin 4) (wake : Fin 64) (ms : Word)
  | setCap (limit : BitVec 16) (nMax : Byte)
  | releaseHold (banks : Byte)
  | powerStateEnter
  /-- also: further wake sources of the same VIGIL cycle, bit c − 1 for source c. -/
  | wakeIn (also : Fin 64)
  | wakeCounterExpiry
  | testPortWake
  | ioHoldRelease (who : Nat) (banks : Byte)
  /-- watts: the window's mean VIN54 power. -/
  | capWindowEnd (watts : Fin 65536)
  /-- temp: the sensor's reading, in 0.125 °C. -/
  | thermalTrip (sensor : Fin 31) (temp : BitVec 16)
  | pllLockLost (d : DieNo) (pll : Fin 6)
  | pllLockReturn (d : DieNo) (pll : Fin 6)
  | pllEnable (d : DieNo) (who : Nat) (pllEn : Fin 64)
  /-- rails: mV and 100 mA of each; temps: each sensor's reading; what fails: PLLs, near layers (engine × 4 + layer), far channels, with the
  training step less one and whether it found no usable window. -/
  | startupSequence (rails : List (Fin 65536 × Fin 65536)) (temps : List (BitVec 16)) (plls : List (DieNo × Fin 5)) (nears : List (Fin 24))
      (fars : List (Fin 24 × Fin 8 × Bool))
  | sensorSample (rails : List (Fin 65536 × Fin 65536)) (temps : List (BitVec 16))
  | i2cWrite (bytes : List Byte)
  | i2cRead
  /-- found: the keeper PLLs find REFCLK_M. -/
  | refclkRetry (found : Bool)
  deriving DecidableEq, Repr

end Sys2Proof
end

