-- ==== Sys2Proof/Machine/Flags.lean ====
section
/-! DEFINITION. The event flags of Tables 5-1 and 5-1a, the completion status codes of Table 5-1b and the response status codes of
Table 10-7, as the numbers the spec gives them. -/

namespace Sys2Proof.Machine

/-- NAN_SEEN, flag bit 0 (05 R109). -/
def flNan : Nat := 0x1
/-- INVALID_PRODUCT, flag bit 1 (05 R109). -/
def flInvalid : Nat := 0x2
/-- SCALE_HI, flag bit 2 (05 R109). -/
def flScaleHi : Nat := 0x4
/-- SCALE_LO, flag bit 3 (05 R109). -/
def flScaleLo : Nat := 0x8
/-- SATURATED, flag bit 4 (05 R109). -/
def flSat : Nat := 0x10
/-- LANE_INDEX_RANGE, flag bit 5 (05 R109). -/
def flRange : Nat := 0x20
/-- RECOMPUTED, flag bit 6 (05 R111). -/
def flRecomputed : Nat := 0x40
/-- REREAD, flag bit 7 (05 R111). -/
def flReread : Nat := 0x80
/-- PAGE_RETIRED, flag bit 8 (05 R111). -/
def flPageRetired : Nat := 0x100
/-- YIELD_TIME_NONZERO, flag bit 9 (05 R111). -/
def flYield : Nat := 0x200
/-- MULTICAST_LAG, flag bit 10 (05 R111). -/
def flMcLag : Nat := 0x400
/-- REARM_OVERRUN, flag bit 11 (05 R111). -/
def flRearm : Nat := 0x800

/-- The OR of two flag words. -/
def flOr (a b : Nat) : Nat := a ||| b

/-- Completion statuses (05 Table 5-1b). -/
def stOk : Nat := 0x00
def stOkEvents : Nat := 0x01
def stYielded : Nat := 0x10
def stFrameDropped : Nat := 0x11
def stNanTrap : Nat := 0x20
def stScaleTrap : Nat := 0x21
def stDataLost : Nat := 0x30
def stAborted : Nat := 0x40
def stRefused : Nat := 0x41
def stDetached : Nat := 0x50
def stPlanInvalid : Nat := 0x60
def stPlanMismatch : Nat := 0x61

/-- The precedence number of a status (05 Table 5-1b): the lowest wins. A status with no precedence of its own ranks last. -/
def statusPrec (s : Nat) : Nat :=
  if s = stDataLost then 1
  else if s = stNanTrap then 2
  else if s = stScaleTrap then 2
  else if s = stFrameDropped then 3
  else if s = stDetached then 4
  else if s = stYielded then 5
  else if s = stOkEvents then 6
  else if s = stOk then 7
  else 8

/-- Of two statuses, the one a record carries (05 R112). -/
def statusMin (a b : Nat) : Nat := if statusPrec b < statusPrec a then b else a

/-- OK_WITH_EVENTS applies when any of flag bits 0 to 5 is set (05 R112). -/
def statusOfFlags (fl : Nat) : Nat := if fl % 64 = 0 then stOk else stOkEvents

/-- Response statuses (10 Table 10-7). -/
def rsOk : Nat := 0x00
def rsRefused : Nat := 0x01
def rsDecode : Nat := 0x02
def rsNoRoute : Nat := 0x03
def rsTimeout : Nat := 0x04
def rsMalformed : Nat := 0x05
def rsUnavailable : Nat := 0x06

/-- Trap causes (05 Table 5-2). -/
def cauInvalid : Nat := 0x01
def cauNan : Nat := 0x02
def cauInfInf : Nat := 0x03
def cauScaleHi : Nat := 0x04
def cauScaleLo : Nat := 0x05
def cauNegArg : Nat := 0x06

/-- The status a job ends with for a trap cause (05 R115). -/
def trapStatus (cause : Nat) : Nat :=
  if cause = cauScaleHi then stScaleTrap else if cause = cauScaleLo then stScaleTrap else stNanTrap

/-- Saturating and wrapping 32-bit counters. -/
def satAdd32 (a b : Nat) : Nat := if 0xFFFFFFFF < a + b then 0xFFFFFFFF else a + b
def satAdd16 (a b : Nat) : Nat := if 0xFFFF < a + b then 0xFFFF else a + b

end Sys2Proof.Machine
end

