-- ==== Sys2Proof/Machine/Operands.lean ====
section
/-! DEFINITION. The Gumin number formats of chapter 2: every code, its value, every conversion and every rounding, on exact
dyadic values. -/

namespace Sys2Proof.Machine

/-- The formats of Table 2-1 (02 R26). BX8 has no format code. -/
inductive Fmt | g4 | g8e | g8m | g16 | g36 | gs32 | i4 | i8 | i16 | i32
  deriving DecidableEq, Repr

/-- Table 2-1's format codes; none where the code is reserved. -/
def fmtOfCode (c : Nat) : Option Fmt :=
  if c = 0 then some .g4 else if c = 1 then some .g8e else if c = 2 then some .g8m else if c = 3 then some .g16
  else if c = 4 then some .g36 else if c = 5 then some .gs32 else if c = 8 then some .i4 else if c = 9 then some .i8
  else if c = 10 then some .i16 else if c = 11 then some .i32 else none

/-- Bits of a code. -/
def Fmt.width : Fmt → Nat
  | .g4 => 4 | .g8e => 8 | .g8m => 8 | .g16 => 16 | .g36 => 36 | .gs32 => 32
  | .i4 => 4 | .i8 => 8 | .i16 => 16 | .i32 => 32

/-- Bits an element takes in memory (02 R27): a G36 element has an 8-byte container. -/
def Fmt.storeBits : Fmt → Nat
  | .g36 => 64
  | f => f.width

/-- Whether the format is an integer format. -/
def Fmt.isInt : Fmt → Bool
  | .i4 => true | .i8 => true | .i16 => true | .i32 => true | _ => false

/-- Exponent bits, mantissa bits and bias (02 Table 2-2). -/
def Fmt.expBits : Fmt → Nat
  | .g4 => 2 | .g8e => 4 | .g8m => 5 | .g16 => 8 | .g36 => 9 | .gs32 => 9 | _ => 0
def Fmt.manBits : Fmt → Nat
  | .g4 => 1 | .g8e => 3 | .g8m => 2 | .g16 => 7 | .g36 => 26 | .gs32 => 22 | _ => 0
def Fmt.bias : Fmt → Nat
  | .g4 => 1 | .g8e => 7 | .g8m => 15 | .g16 => 127 | .g36 => 255 | .gs32 => 255 | _ => 0

/-- Whether the format has infinities (02 Table 2-2). -/
def Fmt.hasInf : Fmt → Bool
  | .g8m => true | .g16 => true | .g36 => true | .gs32 => true | _ => false

/-- Whether the format has subnormals (02 Table 2-2). -/
def Fmt.hasSub : Fmt → Bool
  | .g36 => false | .gs32 => false | _ => true

/-- An exact value: a NaN, an infinity, or m × 2^e. -/
inductive Val
  | nan
  | inf (neg : Bool)
  | fin (m : Int) (e : Int)
  deriving DecidableEq, Repr

/-- +0. -/
def Val.zero : Val := .fin 0 0

/-- 1.0. -/
def Val.one : Val := .fin 1 0

/-- The canonical NaN of a float format: S = 1 and all other bits 0 (02 R29). -/
def Fmt.canonNan (f : Fmt) : Nat := 2 ^ (f.width - 1)

/-- The value of a code of a float format (02 R28 to R33). -/
def decodeFloat (f : Fmt) (c : Nat) : Val :=
  let neg := bitOf (f.width - 1) c
  let e := bitsOf (f.width - 2) f.manBits c
  let m := bitsOf (f.manBits - 1) 0 c
  if c % 2 ^ f.width = f.canonNan then .nan
  else if f.hasInf && e == 2 ^ f.expBits - 1 then (if m = 0 then .inf neg else .nan)
  else if f = .g8e ∧ e = 15 ∧ m = 7 then .fin (if neg then -448 else 448) 0
  else if e = 0 then
    if f.hasSub then
      .fin (if neg then -(m : Int) else (m : Int)) (1 - (f.bias : Int) - (f.manBits : Int))
    else .zero
  else
    let s : Nat := 2 ^ f.manBits + m
    .fin (if neg then -(s : Int) else (s : Int)) ((e : Int) - (f.bias : Int) - (f.manBits : Int))

/-- The value of a code (02 R28, R34). -/
def decodeVal (f : Fmt) (c : Nat) : Val :=
  if f.isInt then .fin (toSigned f.width c) 0 else decodeFloat f c

/-- Whether a code is a NaN code (02 R30). -/
def isNanCode (f : Fmt) (c : Nat) : Bool := decodeVal f c == .nan

/-- The rounding mode of a unit (02 R44): false is round to nearest, ties to even; true is truncation toward zero. -/
abbrev Trunc := Bool

/-- The integer nearest to n × 2^k in a mode, for a magnitude n (02 R44). -/
def roundShift (tr : Trunc) (n : Nat) (k : Int) : Nat :=
  if 0 ≤ k then n * 2 ^ k.toNat
  else
    let s := (-k).toNat
    let q := n / 2 ^ s
    let r := n % 2 ^ s
    if tr then q
    else if 2 ^ s < 2 * r then q + 1
    else if 2 * r < 2 ^ s then q
    else q + q % 2

/-- The code of a float format's infinity. -/
def Fmt.infCode (f : Fmt) (neg : Bool) : Nat :=
  (if neg then 2 ^ (f.width - 1) else 0) + (2 ^ f.expBits - 1) * 2 ^ f.manBits

/-- The code of a float format's largest finite magnitude (02 Table 2-4, R28). -/
def Fmt.maxCode (f : Fmt) (neg : Bool) : Nat :=
  (if neg then 2 ^ (f.width - 1) else 0) +
    (if f = .g4 then 7 else if f = .g8e then 0x7E
     else (2 ^ f.expBits - 2) * 2 ^ f.manBits + (2 ^ f.manBits - 1))

/-- The largest biased exponent of a finite value, and the largest significand at that exponent. -/
def Fmt.maxExp (f : Fmt) : Nat := if f.hasInf then 2 ^ f.expBits - 2 else 2 ^ f.expBits - 1
def Fmt.maxSig (f : Fmt) : Nat := if f = .g8e then 14 else 2 ^ (f.manBits + 1) - 1

/-- A code and the event flags its forming raised. -/
abbrev Coded := Nat × Nat

/-- A finite magnitude a × 2^e with a sign, written in a float format (02 R31, R33, R44, R45). -/
def encodeFloatFin (f : Fmt) (tr : Trunc) (neg : Bool) (a : Nat) (e : Int) : Coded :=
  if a = 0 then (0, 0)
  else
    let top : Int := e + (Nat.log2 a : Nat)
    let emin : Int := 1 - (f.bias : Int)
    let q : Int := if f.hasSub && decide (top < emin) then emin - (f.manBits : Int) else top - (f.manBits : Int)
    let r0 := roundShift tr a (e - q)
    let carry := decide (2 ^ (f.manBits + 1) ≤ r0)
    let r := if carry then r0 / 2 else r0
    let q' : Int := if carry then q + 1 else q
    if r = 0 then (0, 0)
    else
      let sgn := if neg then 2 ^ (f.width - 1) else 0
      if r < 2 ^ f.manBits then
        if f.hasSub then (sgn + r, 0) else (0, 0)
      else
        let be : Int := q' + (f.manBits : Int) + (f.bias : Int)
        if be < 1 then (0, 0)
        else if (f.maxExp : Int) < be ∨ (be = (f.maxExp : Int) ∧ f.maxSig < r) then
          (if f.hasInf && !tr then f.infCode neg else f.maxCode neg, flSat)
        else (sgn + be.toNat * 2 ^ f.manBits + (r - 2 ^ f.manBits), 0)

/-- The range ends of an integer format (02 R34). -/
def Fmt.intMax (f : Fmt) : Int := ((2 ^ (f.width - 1) : Nat) : Int) - 1
def Fmt.intMin (f : Fmt) : Int := -((2 ^ (f.width - 1) : Nat) : Int)

/-- An integer written in an integer format: saturated to the nearer end of its range (02 R34). -/
def encodeInt (f : Fmt) (i : Int) : Coded :=
  if f.intMax < i then (ofSigned f.width f.intMax, flSat)
  else if i < f.intMin then (ofSigned f.width f.intMin, flSat)
  else (ofSigned f.width i, 0)

/-- A value written in a format, in a mode (02 Table 2-11, R46, R47). A NaN written raises NAN_SEEN, and so does a NaN that
becomes an integer (05 R109). -/
def encodeVal (f : Fmt) (tr : Trunc) : Val → Coded
  | .nan => if f.isInt then (0, flNan) else (f.canonNan, flNan)
  | .inf neg =>
    if f.isInt then (ofSigned f.width (if neg then f.intMin else f.intMax), flSat)
    else if f.hasInf then (f.infCode neg, 0)
    else (f.maxCode neg, flSat)
  | .fin m e =>
    if f.isInt then
      let a := roundShift tr m.natAbs e
      encodeInt f (if m < 0 then -(a : Int) else (a : Int))
    else encodeFloatFin f tr (decide (m < 0)) m.natAbs e

/-- A conversion between formats (02 R46): the bits pass unchanged where the formats are the same (04 R79). -/
def convert (src dst : Fmt) (tr : Trunc) (c : Nat) : Coded :=
  if src = dst then (c, 0) else encodeVal dst tr (decodeVal src c)

/-- Exact arithmetic on finite values. -/
def finAdd (m1 e1 m2 e2 : Int) : Val :=
  if e1 ≤ e2 then .fin (m1 + m2 * ((2 ^ (e2 - e1).toNat : Nat) : Int)) e1
  else .fin (m1 * ((2 ^ (e1 - e2).toNat : Nat) : Int) + m2) e2

/-- Whether a value is zero. -/
def Val.isZero : Val → Bool
  | .fin m _ => m == 0
  | _ => false

/-- Whether a value is below zero. -/
def Val.isNeg : Val → Bool
  | .fin m _ => decide (m < 0)
  | .inf n => n
  | .nan => false

/-- −x (04 Table 4-4). -/
def Val.neg : Val → Val
  | .nan => .nan
  | .inf n => .inf (!n)
  | .fin m e => .fin (-m) e

/-- |x|. -/
def Val.abs : Val → Val
  | .nan => .nan
  | .inf _ => .inf false
  | .fin m e => .fin (m.natAbs : Int) e

/-- A result and the cause of the NaN the operation produced, if it produced one (05 R108). -/
abbrev Produced := Val × Option Nat

/-- a + b, with the difference of two like-signed infinities a produced NaN (05 R106, 04 Table 4-4). -/
def valAdd (a b : Val) : Produced :=
  match a, b with
  | .inf x, .inf y => if x = y then (.inf x, none) else (.nan, some cauInfInf)
  | .nan, _ => (.nan, none)
  | _, .nan => (.nan, none)
  | .inf x, _ => (.inf x, none)
  | _, .inf y => (.inf y, none)
  | .fin m1 e1, .fin m2 e2 => (finAdd m1 e1 m2 e2, none)

/-- a × b, with zero times infinity a produced NaN (05 R107, 04 Table 4-4). -/
def valMul (a b : Val) : Produced :=
  match a, b with
  | .nan, _ => (.nan, none)
  | _, .nan => (.nan, none)
  | .inf x, .inf y => (.inf (x != y), none)
  | .inf x, .fin m _ => if m = 0 then (.nan, some cauInvalid) else (.inf (x != decide (m < 0)), none)
  | .fin m _, .inf x => if m = 0 then (.nan, some cauInvalid) else (.inf (x != decide (m < 0)), none)
  | .fin m1 e1, .fin m2 e2 => (.fin (m1 * m2) (e1 + e2), none)

/-- Order of two values that are not NaN. -/
def valLt (a b : Val) : Bool :=
  match a, b with
  | .inf true, .inf true => false
  | .inf true, .inf false => true
  | .inf false, _ => false
  | .inf true, .fin _ _ => true
  | .fin _ _, .inf x => !x
  | .fin m1 e1, .fin m2 e2 =>
    if e1 ≤ e2 then decide (m1 < m2 * ((2 ^ (e2 - e1).toNat : Nat) : Int))
    else decide (m1 * ((2 ^ (e1 - e2).toNat : Nat) : Int) < m2)
  | .nan, _ => false
  | _, .nan => false

/-- floor(log2 |x|) of a finite non-zero value. -/
def floorLog2 (m e : Int) : Int := e + (Nat.log2 m.natAbs : Nat)

/-- 1 / x with the special operands of Table 4-5, exact but for a sticky last bit far below every rounding point. -/
def valRecip : Val → Val
  | .nan => .nan
  | .inf _ => .zero
  | .fin m e =>
    if m = 0 then .inf false
    else
      let a := m.natAbs
      let k := Nat.log2 a + 64
      let q := 2 ^ k / a
      let st := if 2 ^ k % a = 0 then 0 else 1
      let s : Nat := 2 * q + st
      .fin (if m < 0 then -(s : Int) else (s : Int)) (-e - (k : Int) - 1)

/-- The G36 add of the tile: the exact sum truncated to 27 significant bits (02 R40, 05 R106). The flags are those of the
write; the cause is that of a NaN the addition produced. -/
def g36Add (a b : Val) : Coded × Option Nat :=
  let r := valAdd a b
  (encodeVal .g36 true r.1, r.2)

/-- The combined factor F of a DRAIN from the three GS32 scales, truncated to GS32 at each step (02 R43). It raises no event
(05 R107). -/
def factorF (sa sb so : Nat) : Nat :=
  let vo := decodeVal .gs32 so
  let r := (encodeVal .gs32 true (match vo with
    | .fin m e => if m = 0 then Val.inf false else valRecip (.fin m e)
    | .inf _ => Val.zero
    | .nan => Val.nan)).1
  let f := (encodeVal .gs32 true (valMul (decodeVal .gs32 sa) (decodeVal .gs32 sb)).1).1
  (encodeVal .gs32 true (valMul (decodeVal .gs32 f) (decodeVal .gs32 r)).1).1

/-- acc × F, truncated to G36 (02 R43, 05 R107): the code, the flags and the cause of a NaN that was produced. -/
def drainScale (acc f : Nat) : Nat × Nat × Option Nat :=
  let va := decodeVal .g36 acc
  let vf := decodeVal .gs32 f
  match va, vf with
  | .nan, _ => (Fmt.g36.canonNan, flNan, none)
  | _, .nan => (Fmt.g36.canonNan, flNan, some cauNan)
  | a, b =>
    let r := valMul a b
    let c := encodeVal .g36 true r.1
    match r.2 with
    | some cu => (c.1, c.2 ||| flInvalid, some cu)
    | none => (c.1, c.2, none)

end Sys2Proof.Machine
end

