-- ==== Sys2Proof/Machine/Special.lean ====
section
/-! DEFINITION. The special functions and reductions of the vector engine on values (04 R90 to R99): each gives the exact result,
rounded once. An irrational result is held as an interval's floor with a sticky last bit far below every rounding point. -/

namespace Sys2Proof.Machine

/-- Newton's iteration for the integer square root, from above. -/
def sqrtFrom (n : Nat) : Nat → Nat → Nat
  | 0, g => g
  | fuel + 1, g =>
    let g' := (g + n / g) / 2
    if g' < g then sqrtFrom n fuel g' else g

/-- The integer square root. -/
def isqrt (n : Nat) : Nat := if n = 0 then 0 else sqrtFrom n 400 (2 ^ (Nat.log2 n / 2 + 1))

/-- A positive value known to lie strictly between n and n+1 in units of 2^e, or to be exactly n. -/
def sticky (neg : Bool) (n : Nat) (exact : Bool) (e : Int) : Val :=
  let s : Int := ((2 * n + (if exact then 0 else 1) : Nat) : Int)
  .fin (if neg then -s else s) (e - 1)

/-- 1 / √x of a positive finite value. -/
def rsqrtFin (m : Nat) (e : Int) : Val :=
  let odd := e % 2 != 0
  let a := if odd then 2 * m else m
  let f : Int := if odd then e - 1 else e
  let k := Nat.log2 a + 80
  let q := isqrt (2 ^ (2 * k) / a)
  sticky false q (q * q * a == 2 ^ (2 * k)) (-(f / 2) - (k : Int))

/-- The next n bits of log2 y below the point, for y in [2^400, 2^401), by repeated squaring. -/
def log2Bits : Nat → Nat → Nat → Nat
  | 0, _, acc => acc
  | n + 1, y, acc =>
    let z := y * y / 2 ^ 400
    if 2 ^ 401 ≤ z then log2Bits n (z / 2) (2 * acc + 1) else log2Bits n z (2 * acc)

/-- log2 of a positive finite value. -/
def log2Fin (m : Nat) (e : Int) : Val :=
  let l := Nat.log2 m
  let p : Int := e + (l : Int)
  if m = 2 ^ l then .fin p 0
  else
    let y := m * 2 ^ 400 / 2 ^ l
    let r : Int := p * ((2 ^ 160 : Nat) : Int) + (log2Bits 160 y 0 : Int)
    .fin (2 * r + 1) (-161)

/-- The product of the powers 2^(2^-i) for the bits of F below the point, most significant first: fixed point with 320 bits. -/
def exp2Prod (f : Nat) : Nat → Nat → Nat → Nat
  | 0, _, acc => acc
  | n + 1, c, acc =>
    let c' := isqrt (c * 2 ^ 320)
    exp2Prod f n c' (if bitOf n f then acc * c' / 2 ^ 320 else acc)

/-- 2^x of a finite value. -/
def exp2Fin (m : Int) (e : Int) : Val :=
  if 12 < floorLog2 m e ∧ m ≠ 0 then .fin 1 (if m < 0 then -10000 else 10000)
  else
    let n : Int := if 0 ≤ e then m * ((2 ^ e.toNat : Nat) : Int) else m / ((2 ^ (-e).toNat : Nat) : Int)
    let rem : Nat := if 0 ≤ e then 0 else (m % ((2 ^ (-e).toNat : Nat) : Int)).toNat
    if rem = 0 then .fin 1 n
    else
      let s := (-e).toNat
      let f := rem * 2 ^ 256 / 2 ^ s
      let r := exp2Prod f 256 (2 ^ 321) (2 ^ 320) / 2 ^ 120
      sticky false r false (n - 200)

/-- EXP2, LOG2, RCP and RSQRT with the cases of Table 4-5 (04 R90). -/
inductive Special | exp2 | log2 | rcp | rsqrt
  deriving DecidableEq, Repr

def special (op : Special) (x : Val) : Produced :=
  match op, x with
  | _, .nan => (.nan, none)
  | .exp2, .inf n => (if n then .zero else .inf false, none)
  | .exp2, .fin m e => (exp2Fin m e, none)
  | .log2, .inf n => if n then (.nan, some cauNegArg) else (.inf false, none)
  | .log2, .fin m e =>
    if m = 0 then (.inf true, none) else if m < 0 then (.nan, some cauNegArg) else (log2Fin m.natAbs e, none)
  | .rcp, v => (valRecip v, none)
  | .rsqrt, .inf n => if n then (.nan, some cauNegArg) else (.zero, none)
  | .rsqrt, .fin m e =>
    if m = 0 then (.inf false, none) else if m < 0 then (.nan, some cauNegArg) else (rsqrtFin m.natAbs e, none)

/-- A lane's result: its code, its flags and the cause of a NaN it produced. -/
abbrev LaneOut := Nat × Nat × Option Nat

/-- A produced value rounded once into a format (04 R44, R89). -/
def roundOut (f : Fmt) (tr : Trunc) (p : Produced) : LaneOut :=
  let c := encodeVal f tr p.1
  (c.1, c.2, p.2)

/-- The arithmetic operations of Table 4-4. -/
inductive Arith | add | sub | mul | fma | max | min | abs | neg
  deriving DecidableEq, Repr

def arithVal (op : Arith) (a b c : Val) : Produced :=
  match op with
  | .add => valAdd a b
  | .sub => valAdd a b.neg
  | .mul => valMul a b
  | .fma =>
    let p := valMul a b
    match p.2 with
    | some k => (.nan, some k)
    | none => valAdd p.1 c
  | .max => if a == .nan || b == .nan then (.nan, none) else (if valLt a b then b else a, none)
  | .min => if a == .nan || b == .nan then (.nan, none) else (if valLt b a then b else a, none)
  | .abs => (a.abs, none)
  | .neg => (a.neg, none)

/-- A partial sum of RSUM's lane tree: its code and the lowest lane it covers. -/
abbrev Part := Nat × Nat

/-- What additions raised: flags, and the lanes and causes of the NaNs they produced. -/
abbrev SumLog := Nat × List (Nat × Nat)

/-- One addition of RSUM, rounded to the working format; a produced NaN's event lane is the right operand's lowest (04 R91). -/
def sumStep (f : Fmt) (tr : Trunc) (x y : Part) (log : SumLog) : Part × SumLog :=
  let r := roundOut f tr (valAdd (decodeVal f x.1) (decodeVal f y.1))
  ((r.1, x.2), (log.1 ||| (r.2.1 &&& flSat), match r.2.2 with
    | some k => log.2 ++ [(y.2, k)]
    | none => log.2))

/-- One level of the lane tree: neighbours are added. -/
def treeLevel (f : Fmt) (tr : Trunc) : List Part → SumLog → List Part × SumLog
  | x :: y :: l, log =>
    let r := sumStep f tr x y log
    let rest := treeLevel f tr l r.2
    (r.1 :: rest.1, rest.2)
  | l, log => (l, log)

def treeSum (f : Fmt) (tr : Trunc) : Nat → List Part → SumLog → List Part × SumLog
  | 0, l, log => (l, log)
  | n + 1, l, log =>
    let r := treeLevel f tr l log
    treeSum f tr n r.1 r.2

/-- Index of the best of (i0, code) pairs: the lowest i0 among equals (04 R92). -/
def bestOf (f : Fmt) (big : Bool) : Nat × Nat → List (Nat × Nat) → Nat × Nat
  | b, [] => b
  | b, x :: l =>
    let vb := decodeVal f b.2
    let vx := decodeVal f x.2
    if (if big then valLt vb vx else valLt vx vb) then bestOf f big x l else bestOf f big b l

/-- mix64, the SplitMix64 finaliser (04 R98). -/
def mix64 (x : Nat) : Nat :=
  let m := 2 ^ 64
  let z := (x + 0x9E3779B97F4A7C15) % m
  let z1 := ((z ^^^ (z / 2 ^ 30)) * 0xBF58476D1CE4E5B9) % m
  let z2 := ((z1 ^^^ (z1 / 2 ^ 27)) * 0x94D049BB133111EB) % m
  z2 ^^^ (z2 / 2 ^ 31)

/-- The cumulative sums of SAMPLE, each truncated to G36, in order, with their flags (04 R98). -/
def sampleSums : Nat → Nat → List Nat → List Nat × Nat
  | _, fl, [] => ([], fl)
  | acc, fl, w :: l =>
    let v := decodeVal .g36 w
    let add : Val := match v with
      | .fin m e => if 0 < m then .fin m e else .zero
      | _ => .zero
    let c := encodeVal .g36 true (valAdd (decodeVal .g36 acc) add).1
    let rest := sampleSums c.1 (fl ||| c.2) l
    (c.1 :: rest.1, rest.2)

/-- SAMPLE over the G36 weights of one outer index: the I32 code drawn and its flags (04 R98). -/
def sample (weights : List Nat) (seed counter : Nat) : Coded :=
  if weights.any (isNanCode .g36) then (0xFFFFFFFF, flNan)
  else
    let s := sampleSums 0 0 weights
    let total := s.1.getLastD 0
    if total = 0 then (0xFFFFFFFF, s.2)
    else
      let u := bitsOf 63 37 (mix64 (seed % 2 ^ 32 * 2 ^ 32 + counter % 2 ^ 32))
      let t := encodeVal .g36 true (valMul (decodeVal .g36 total) (.fin (u : Int) (-27))).1
      match findIdx (fun c => valLt (decodeVal .g36 t.1) (decodeVal .g36 c)) s.1 with
      | some i => (i, s.2 ||| t.2)
      | none => (0xFFFFFFFF, s.2 ||| t.2)

/-- The targets of Table 4-8 (04 R99). -/
def blockqEmax : Fmt → Int
  | .g4 => 1 | .g8e => 7 | .g8m => 14 | .i4 => 2 | .i8 => 6 | _ => 0

/-- The largest floor(log2) of the finite non-zero values of a block. -/
def blockTop (f : Fmt) : List Nat → Option Int
  | [] => none
  | c :: l =>
    match decodeVal f c with
    | .fin m e =>
      if m = 0 then blockTop f l
      else match blockTop f l with
        | none => some (floorLog2 m e)
        | some t => some (if t < floorLog2 m e then floorLog2 m e else t)
    | _ => blockTop f l

/-- BLOCKQ of one K-block: the element codes with their flags, and the BX8 byte (04 R99). -/
def blockqBlock (f dst : Fmt) (tr : Trunc) (l : List Nat) : List Coded × Nat :=
  match blockTop f l with
  | some t =>
    let k := clampInt (-127) 127 (t - blockqEmax dst)
    (l.map (fun c => match decodeVal f c with
      | .fin m e => encodeVal dst tr (.fin m (e - k))
      | v => encodeVal dst tr v), ofSigned 8 k)
  | none =>
    if l.all (fun c => (decodeVal f c).isZero) then (l.map (fun _ => (0, 0)), 0x80)
    else (l.map (fun c => encodeVal dst tr (decodeVal f c)), 0)

/-- The acceptance walker (04 R97): parents, node count, draft and target tokens; the fuel is the node count. -/
def acceptWalk (par a b : List Nat) (nodes : Nat) : Nat → Nat → List Nat → Nat × List Nat
  | 0, cur, path => (cur, path)
  | fuel + 1, cur, path =>
    match (upFrom 1 (nodes - 1)).find? (fun i => nth 0xFF par i == cur && nth 0 a i == nth 1 b cur) with
    | none => (cur, path)
    | some c => acceptWalk par a b nodes fuel c (path ++ [c])

/-- The walk record of Table 4-7. -/
def walkRecord (par a b : List Nat) (nodes : Nat) : List Nat :=
  let r := acceptWalk par a b nodes nodes 0 [0]
  let le (v : Nat) : List Nat := (leBytes 4 v).map (fun x => x.toNat)
  le (r.2.length - 1) ++ le (nth 0 b r.1) ++ le r.1 ++ le 0 ++ r.2 ++ List.replicate (48 - r.2.length) 0xFF

/-- Whether node j is row r or an ancestor of r (04 R95): walked up from r, at most 48 times. -/
def isAncestor (par : List Nat) (j : Nat) : Nat → Nat → Bool
  | 0, _ => false
  | fuel + 1, r => if r = j then true else if r = 0 then false else isAncestor par j fuel (nth 0 par r)

/-- Whether the key in lane i0 reads normally for query row r (04 R95). -/
def treeReads (rec : List Nat) (r i0 : Nat) : Bool :=
  let nodes := nth 0 rec 48
  let key0 := toSigned 32 (nth 0 rec 52 + 256 * nth 0 rec 53 + 65536 * nth 0 rec 54 + 16777216 * nth 0 rec 55)
  if (i0 : Int) < key0 then true
  else if key0 + (nodes : Int) ≤ (i0 : Int) then false
  else decide (r < nodes) && isAncestor rec ((i0 : Int) - key0).toNat 49 r

/-- Validity of a tree record (04 R96). -/
def treeValid (rec : List Nat) : Bool :=
  let nodes := nth 0 rec 48
  nth 0 rec 0 == 0xFF && decide (1 ≤ nodes) && decide (nodes ≤ 48) && decide (1 ≤ nth 0 rec 49) && decide (nth 0 rec 49 ≤ 4) &&
    (upFrom 1 (nodes - 1)).all (fun i => decide (nth 0 rec i < i))

end Sys2Proof.Machine
end

