-- ==== Sys2Proof/Config.lean ====
section
/-! DEFINITION. What an implementation fixes and the spec leaves open: the free values. -/

namespace Sys2Proof

/-- The free values (log 7): the n-th value, of w bits, that the spec says is undefined or does not state. It has no body, so
nothing can be proved of a value it gives. -/
opaque Config.freeBits (w : Nat) (n : Nat) : BitVec w

/-- Whether an Ed25519 signature of a message verifies under a key (16 R378): 1 where it does. The spec names the published scheme
and does not give it; it is left uninterpreted (log 10). -/
opaque Config.verify (key msg sig : List Byte) : BitVec 1

/-- The signature of a message under the module's identity key, whose private half never leaves the keys block (16 R392; log 10). -/
opaque Config.identitySign (msg : List Byte) : BitVec 512

/-- The vendor key that is fused at manufacture (16 R378; log 10). -/
opaque Config.vendorKey : BitVec 256

/-- Where an item of the fabric's configuration stands in the frames of its type (13 R306 names what each type holds and gives no layout):
the frame within its element and the bit, as frame × 4096 + bit (log 11). -/
opaque Config.cfgPlace (type item : Nat) : Nat

/-- Template k of an operation's body (07, before R147): the command or descriptor the stewards expand it into, 16 words and the
declared duration above them. The spec gives bodies no format (log 130). -/
opaque Config.template (body : List Byte) (k : Nat) : BitVec 544

end Sys2Proof
end

