-- ==== Sys2Proof/Machine/RegMap.lean ====
section
/-! DEFINITION. The register map: every field of every register table of the spec, with the addresses it stands at, its bits,
its access code (00 R6), its reset value and the values its table does not mark reserved (00 R5). -/

namespace Sys2Proof.Machine

/-- The access codes of Table 0-6 (00 R6). -/
inductive Acc | rw | ro | wo | w1c | rc | rws
  deriving DecidableEq, Repr

/-- Where a field's reset value comes from: a number of its table, or what the table names instead of one. -/
inductive Rst
  | const (n : Nat)
  | dieIndex      -- Table 1-6: equal to d
  | farGib        -- Table 1-8: 0x30 or 0x18 by ordering code
  | ranks         -- Table 9-5: 2 or 1 by ordering code
  | serialLo | serialHi   -- Table 1-8: from fuses
  | slotKind      -- 08 R196
  | niClass       -- 10 R244
  | intKeyPresent | idPub -- Table 16-10: from fuses
  deriving DecidableEq, Repr

/-- One place of a register array: keeper die or engine die, the offset in the die's register space, and the strides and
counts of its indices. -/
structure Home where
  keeper : Bool
  off : Nat
  dims : List (Nat × Nat)
  deriving DecidableEq, Repr

/-- A register field. -/
structure Fld where
  id : Nat
  name : String
  homes : List Home
  hi : Nat
  lo : Nat
  acc : Acc
  rst : Rst
  /-- The ranges of values that are not reserved; the empty list where no value is. -/
  legal : List (Nat × Nat)
  deriving DecidableEq, Repr

/-- How many bits the field has. -/
def Fld.width (f : Fld) : Nat := f.hi + 1 - f.lo

/-- Whether a value is one its table does not mark reserved (00 R5). -/
def Fld.isLegal (f : Fld) (v : Nat) : Bool :=
  f.legal.isEmpty || f.legal.any (fun r => decide (r.1 ≤ v) && decide (v ≤ r.2))

namespace F

/-- ENGINE.DIE_ID.KIND (01 R21). -/
def engineDieIdKind : Fld := ⟨0, "ENGINE.DIE_ID.KIND", [⟨false, 0x0, []⟩], 31, 24, .ro, (.const 0x1), []⟩

/-- ENGINE.DIE_ID.DIE_INDEX (01 R21). -/
def engineDieIdDieIndex : Fld := ⟨1, "ENGINE.DIE_ID.DIE_INDEX", [⟨false, 0x0, []⟩], 23, 16, .ro, .dieIndex, []⟩

/-- ENGINE.DIE_ID.STEPPING (01 R21). -/
def engineDieIdStepping : Fld := ⟨2, "ENGINE.DIE_ID.STEPPING", [⟨false, 0x0, []⟩], 15, 8, .ro, (.const 0x1), []⟩

/-- ENGINE.DIE_CAPS.SLICES (01 R21). -/
def engineDieCapsSlices : Fld := ⟨3, "ENGINE.DIE_CAPS.SLICES", [⟨false, 0x4, []⟩], 31, 24, .ro, (.const 0x40), []⟩

/-- ENGINE.DIE_CAPS.FRAME_PORTS (01 R21). -/
def engineDieCapsFramePorts : Fld := ⟨4, "ENGINE.DIE_CAPS.FRAME_PORTS", [⟨false, 0x4, []⟩], 23, 16, .ro, (.const 0x6), []⟩

/-- ENGINE.DIE_CAPS.LANE_QUADS (01 R21). -/
def engineDieCapsLaneQuads : Fld := ⟨5, "ENGINE.DIE_CAPS.LANE_QUADS", [⟨false, 0x4, []⟩], 15, 8, .ro, (.const 0xC), []⟩

/-- ENGINE.DIE_CAPS.CLUSTERS (01 R21). -/
def engineDieCapsClusters : Fld := ⟨6, "ENGINE.DIE_CAPS.CLUSTERS", [⟨false, 0x4, []⟩], 7, 0, .ro, (.const 0xA), []⟩

/-- DIE_ID.KIND (01 R22). -/
def keeperDieIdKind : Fld := ⟨7, "DIE_ID.KIND", [⟨true, 0x0, []⟩], 31, 24, .ro, (.const 0x2), []⟩

/-- DIE_ID.DIE_INDEX (01 R22). -/
def keeperDieIdDieIndex : Fld := ⟨8, "DIE_ID.DIE_INDEX", [⟨true, 0x0, []⟩], 23, 16, .ro, (.const 0x6), []⟩

/-- DIE_ID.STEPPING (01 R22). -/
def keeperDieIdStepping : Fld := ⟨9, "DIE_ID.STEPPING", [⟨true, 0x0, []⟩], 15, 8, .ro, (.const 0x1), []⟩

/-- MODULE_CODE.ENGINES (01 R22). -/
def keeperModuleCodeEngines : Fld := ⟨10, "MODULE_CODE.ENGINES", [⟨true, 0x4, []⟩], 19, 16, .ro, (.const 0x6), []⟩

/-- MODULE_CODE.NEAR_GIB_PER_LAYER (01 R22). -/
def keeperModuleCodeNearGibPerLayer : Fld := ⟨11, "MODULE_CODE.NEAR_GIB_PER_LAYER", [⟨true, 0x4, []⟩], 15, 8, .ro, (.const 0x18), []⟩

/-- MODULE_CODE.FAR_GIB_PER_CH (01 R22). -/
def keeperModuleCodeFarGibPerCh : Fld := ⟨12, "MODULE_CODE.FAR_GIB_PER_CH", [⟨true, 0x4, []⟩], 7, 0, .ro, .farGib, []⟩

/-- SERIAL_LO (01 R22). -/
def keeperSerialLo : Fld := ⟨13, "SERIAL_LO", [⟨true, 0x8, []⟩], 31, 0, .ro, .serialLo, []⟩

/-- SERIAL_HI (01 R22). -/
def keeperSerialHi : Fld := ⟨14, "SERIAL_HI", [⟨true, 0xC, []⟩], 31, 0, .ro, .serialHi, []⟩

/-- TILE_CTRL.RUN (03 R76). -/
def tileCtrlRun : Fld := ⟨15, "TILE_CTRL.RUN", [⟨false, 0x1000000, [(0x100000, 10), (0x1000, 16)]⟩], 0, 0, .rw, (.const 0x0), []⟩

/-- TILE_CTRL.FLUSH (03 R76). -/
def tileCtrlFlush : Fld := ⟨16, "TILE_CTRL.FLUSH", [⟨false, 0x1000000, [(0x100000, 10), (0x1000, 16)]⟩], 1, 1, .wo, (.const 0x0), []⟩

/-- TILE_STATUS.IDLE (03 R76). -/
def tileStatusIdle : Fld := ⟨17, "TILE_STATUS.IDLE", [⟨false, 0x1000004, [(0x100000, 10), (0x1000, 16)]⟩], 0, 0, .ro, (.const 0x1), []⟩

/-- TILE_STATUS.STOPPED (03 R76). -/
def tileStatusStopped : Fld := ⟨18, "TILE_STATUS.STOPPED", [⟨false, 0x1000004, [(0x100000, 10), (0x1000, 16)]⟩], 1, 1, .ro, (.const 0x1), []⟩

/-- TILE_STATUS.PLANE_READY (03 R76). -/
def tileStatusPlaneReady : Fld := ⟨19, "TILE_STATUS.PLANE_READY", [⟨false, 0x1000004, [(0x100000, 10), (0x1000, 16)]⟩], 2, 2, .ro, (.const 0x0), []⟩

/-- TILE_STATUS.QUEUE_FILL (03 R76). -/
def tileStatusQueueFill : Fld := ⟨20, "TILE_STATUS.QUEUE_FILL", [⟨false, 0x1000004, [(0x100000, 10), (0x1000, 16)]⟩], 11, 8, .ro, (.const 0x0), []⟩

/-- TILE_LATENCY.LATENCY (03 R76). -/
def tileLatencyLatency : Fld := ⟨21, "TILE_LATENCY.LATENCY", [⟨false, 0x1000008, [(0x100000, 10), (0x1000, 16)]⟩], 7, 0, .ro, (.const 0x66), []⟩

/-- TILE_LATENCY.LEAP_COUNT (03 R76). -/
def tileLatencyLeapCount : Fld := ⟨22, "TILE_LATENCY.LEAP_COUNT", [⟨false, 0x1000008, [(0x100000, 10), (0x1000, 16)]⟩], 9, 8, .ro, (.const 0x0), []⟩

/-- TILE_REPAIR.SPARE0_PHYS (03 R76). -/
def tileRepairSpare0Phys : Fld := ⟨23, "TILE_REPAIR.SPARE0_PHYS", [⟨false, 0x100000C, [(0x100000, 10), (0x1000, 16)]⟩], 5, 0, .rws, (.const 0x3F), [(0, 48), (63, 63)]⟩

/-- TILE_REPAIR.SPARE1_PHYS (03 R76). -/
def tileRepairSpare1Phys : Fld := ⟨24, "TILE_REPAIR.SPARE1_PHYS", [⟨false, 0x100000C, [(0x100000, 10), (0x1000, 16)]⟩], 13, 8, .rws, (.const 0x3F), [(0, 48), (63, 63)]⟩

/-- TILE_BATCH.BATCH_FILL (03 R76). -/
def tileBatchBatchFill : Fld := ⟨25, "TILE_BATCH.BATCH_FILL", [⟨false, 0x1000010, [(0x100000, 10), (0x1000, 16)]⟩], 5, 0, .rw, (.const 0x30), [(1, 48)]⟩

/-- TILE_BATCH.BATCH_WINDOW (03 R76). -/
def tileBatchBatchWindow : Fld := ⟨26, "TILE_BATCH.BATCH_WINDOW", [⟨false, 0x1000010, [(0x100000, 10), (0x1000, 16)]⟩], 23, 8, .rw, (.const 0x40), [(1, 65535)]⟩

/-- TILE_EVENTS.NAN_SEEN (03 R76). -/
def tileEventsNanSeen : Fld := ⟨27, "TILE_EVENTS.NAN_SEEN", [⟨false, 0x1000018, [(0x100000, 10), (0x1000, 16)]⟩], 0, 0, .w1c, (.const 0x0), []⟩

/-- TILE_EVENTS.INVALID_PRODUCT (03 R76). -/
def tileEventsInvalidProduct : Fld := ⟨28, "TILE_EVENTS.INVALID_PRODUCT", [⟨false, 0x1000018, [(0x100000, 10), (0x1000, 16)]⟩], 1, 1, .w1c, (.const 0x0), []⟩

/-- TILE_EVENTS.SCALE_HI (03 R76). -/
def tileEventsScaleHi : Fld := ⟨29, "TILE_EVENTS.SCALE_HI", [⟨false, 0x1000018, [(0x100000, 10), (0x1000, 16)]⟩], 2, 2, .w1c, (.const 0x0), []⟩

/-- TILE_EVENTS.SCALE_LO (03 R76). -/
def tileEventsScaleLo : Fld := ⟨30, "TILE_EVENTS.SCALE_LO", [⟨false, 0x1000018, [(0x100000, 10), (0x1000, 16)]⟩], 3, 3, .w1c, (.const 0x0), []⟩

/-- TILE_EVENTS.SATURATED (03 R76). -/
def tileEventsSaturated : Fld := ⟨31, "TILE_EVENTS.SATURATED", [⟨false, 0x1000018, [(0x100000, 10), (0x1000, 16)]⟩], 4, 4, .w1c, (.const 0x0), []⟩

/-- TILE_EVENTS.CHECK_FAIL (03 R76). -/
def tileEventsCheckFail : Fld := ⟨32, "TILE_EVENTS.CHECK_FAIL", [⟨false, 0x1000018, [(0x100000, 10), (0x1000, 16)]⟩], 16, 16, .w1c, (.const 0x0), []⟩

/-- TILE_EVENTS.CMD_REJECT (03 R76). -/
def tileEventsCmdReject : Fld := ⟨33, "TILE_EVENTS.CMD_REJECT", [⟨false, 0x1000018, [(0x100000, 10), (0x1000, 16)]⟩], 17, 17, .w1c, (.const 0x0), []⟩

/-- TILE_REJECT.CAUSE (03 R76). -/
def tileRejectCause : Fld := ⟨34, "TILE_REJECT.CAUSE", [⟨false, 0x100001C, [(0x100000, 10), (0x1000, 16)]⟩], 7, 0, .ro, (.const 0x0), []⟩

/-- TILE_REJECT.OP_TAG (03 R76). -/
def tileRejectOpTag : Fld := ⟨35, "TILE_REJECT.OP_TAG", [⟨false, 0x100001C, [(0x100000, 10), (0x1000, 16)]⟩], 20, 8, .ro, (.const 0x0), []⟩

/-- TILE_CHECK_FAILS (03 R76). -/
def tileCheckFails : Fld := ⟨36, "TILE_CHECK_FAILS", [⟨false, 0x1000020, [(0x100000, 10), (0x1000, 16)]⟩], 31, 0, .rc, (.const 0x0), []⟩

/-- TILE_ISSUED (03 R76). -/
def tileIssued : Fld := ⟨37, "TILE_ISSUED", [⟨false, 0x1000024, [(0x100000, 10), (0x1000, 16)]⟩], 31, 0, .ro, (.const 0x0), []⟩

/-- TILE_BUBBLES (03 R76). -/
def tileBubbles : Fld := ⟨38, "TILE_BUBBLES", [⟨false, 0x1000028, [(0x100000, 10), (0x1000, 16)]⟩], 31, 0, .ro, (.const 0x0), []⟩

/-- TILE_CMD (03 R76). -/
def tileCmd : Fld := ⟨39, "TILE_CMD", [⟨false, 0x1000100, [(0x100000, 10), (0x1000, 16), (0x4, 8)]⟩], 31, 0, .wo, (.const 0x0), []⟩

/-- VE_CTRL.RUN (04 R102). -/
def veCtrlRun : Fld := ⟨40, "VE_CTRL.RUN", [⟨false, 0x1010000, [(0x100000, 10)]⟩], 0, 0, .rw, (.const 0x0), []⟩

/-- VE_CTRL.FLUSH (04 R102). -/
def veCtrlFlush : Fld := ⟨41, "VE_CTRL.FLUSH", [⟨false, 0x1010000, [(0x100000, 10)]⟩], 1, 1, .wo, (.const 0x0), []⟩

/-- VE_STATUS.IDLE (04 R102). -/
def veStatusIdle : Fld := ⟨42, "VE_STATUS.IDLE", [⟨false, 0x1010004, [(0x100000, 10)]⟩], 0, 0, .ro, (.const 0x1), []⟩

/-- VE_STATUS.STOPPED (04 R102). -/
def veStatusStopped : Fld := ⟨43, "VE_STATUS.STOPPED", [⟨false, 0x1010004, [(0x100000, 10)]⟩], 1, 1, .ro, (.const 0x1), []⟩

/-- VE_STATUS.QUEUE_FILL (04 R102). -/
def veStatusQueueFill : Fld := ⟨44, "VE_STATUS.QUEUE_FILL", [⟨false, 0x1010004, [(0x100000, 10)]⟩], 8, 4, .ro, (.const 0x0), []⟩

/-- VE_STATUS.DRAIN_TILE (04 R102). -/
def veStatusDrainTile : Fld := ⟨45, "VE_STATUS.DRAIN_TILE", [⟨false, 0x1010004, [(0x100000, 10)]⟩], 15, 12, .ro, (.const 0x0), []⟩

/-- VE_STATUS.DRAIN_ACTIVE (04 R102). -/
def veStatusDrainActive : Fld := ⟨46, "VE_STATUS.DRAIN_ACTIVE", [⟨false, 0x1010004, [(0x100000, 10)]⟩], 16, 16, .ro, (.const 0x0), []⟩

/-- VE_EVENTS.NAN_SEEN (04 R102). -/
def veEventsNanSeen : Fld := ⟨47, "VE_EVENTS.NAN_SEEN", [⟨false, 0x1010008, [(0x100000, 10)]⟩], 0, 0, .w1c, (.const 0x0), []⟩

/-- VE_EVENTS.SATURATED (04 R102). -/
def veEventsSaturated : Fld := ⟨48, "VE_EVENTS.SATURATED", [⟨false, 0x1010008, [(0x100000, 10)]⟩], 4, 4, .w1c, (.const 0x0), []⟩

/-- VE_EVENTS.LANE_INDEX_RANGE (04 R102). -/
def veEventsLaneIndexRange : Fld := ⟨49, "VE_EVENTS.LANE_INDEX_RANGE", [⟨false, 0x1010008, [(0x100000, 10)]⟩], 5, 5, .w1c, (.const 0x0), []⟩

/-- VE_EVENTS.DESC_REJECT (04 R102). -/
def veEventsDescReject : Fld := ⟨50, "VE_EVENTS.DESC_REJECT", [⟨false, 0x1010008, [(0x100000, 10)]⟩], 16, 16, .w1c, (.const 0x0), []⟩

/-- VE_EVENTS.CACHE_PARITY (04 R102). -/
def veEventsCacheParity : Fld := ⟨51, "VE_EVENTS.CACHE_PARITY", [⟨false, 0x1010008, [(0x100000, 10)]⟩], 17, 17, .w1c, (.const 0x0), []⟩

/-- VE_EVENTS.POISON_IN (04 R102). -/
def veEventsPoisonIn : Fld := ⟨52, "VE_EVENTS.POISON_IN", [⟨false, 0x1010008, [(0x100000, 10)]⟩], 18, 18, .w1c, (.const 0x0), []⟩

/-- VE_EVENTS.BANK_REFUSED (04 R102). -/
def veEventsBankRefused : Fld := ⟨53, "VE_EVENTS.BANK_REFUSED", [⟨false, 0x1010008, [(0x100000, 10)]⟩], 19, 19, .w1c, (.const 0x0), []⟩

/-- VE_EVENTS.PUSH_REFUSED (04 R102). -/
def veEventsPushRefused : Fld := ⟨54, "VE_EVENTS.PUSH_REFUSED", [⟨false, 0x1010008, [(0x100000, 10)]⟩], 20, 20, .w1c, (.const 0x0), []⟩

/-- VE_REJECT.CAUSE (04 R102). -/
def veRejectCause : Fld := ⟨55, "VE_REJECT.CAUSE", [⟨false, 0x101000C, [(0x100000, 10)]⟩], 7, 0, .ro, (.const 0x0), []⟩

/-- VE_REJECT.OP_TAG (04 R102). -/
def veRejectOpTag : Fld := ⟨56, "VE_REJECT.OP_TAG", [⟨false, 0x101000C, [(0x100000, 10)]⟩], 20, 8, .ro, (.const 0x0), []⟩

/-- VE_STEPS (04 R102). -/
def veSteps : Fld := ⟨57, "VE_STEPS", [⟨false, 0x1010010, [(0x100000, 10)]⟩], 31, 0, .ro, (.const 0x0), []⟩

/-- VE_DRAIN_ROWS (04 R102). -/
def veDrainRows : Fld := ⟨58, "VE_DRAIN_ROWS", [⟨false, 0x1010014, [(0x100000, 10)]⟩], 31, 0, .ro, (.const 0x0), []⟩

/-- VE_PARITY_ERRS (04 R102). -/
def veParityErrs : Fld := ⟨59, "VE_PARITY_ERRS", [⟨false, 0x1010018, [(0x100000, 10)]⟩], 31, 0, .rc, (.const 0x0), []⟩

/-- VE_DESC (04 R102). -/
def veDesc : Fld := ⟨60, "VE_DESC", [⟨false, 0x1010100, [(0x100000, 10), (0x4, 16)]⟩], 31, 0, .wo, (.const 0x0), []⟩

/-- TILE_TRAP.VALID (05 R117). -/
def tileTrapValid : Fld := ⟨61, "TILE_TRAP.VALID", [⟨false, 0x1000030, [(0x100000, 10), (0x1000, 16)]⟩], 0, 0, .w1c, (.const 0x0), []⟩

/-- TILE_TRAP.CAUSE (05 R117). -/
def tileTrapCause : Fld := ⟨62, "TILE_TRAP.CAUSE", [⟨false, 0x1000030, [(0x100000, 10), (0x1000, 16)]⟩], 15, 8, .ro, (.const 0x0), []⟩

/-- TILE_TRAP.OP_TAG (05 R117). -/
def tileTrapOpTag : Fld := ⟨63, "TILE_TRAP.OP_TAG", [⟨false, 0x1000030, [(0x100000, 10), (0x1000, 16)]⟩], 28, 16, .ro, (.const 0x0), []⟩

/-- TILE_TRAP_POS.ACC_ROW (05 R117). -/
def tileTrapPosAccRow : Fld := ⟨64, "TILE_TRAP_POS.ACC_ROW", [⟨false, 0x1000034, [(0x100000, 10), (0x1000, 16)]⟩], 9, 0, .ro, (.const 0x0), []⟩

/-- TILE_TRAP_POS.COLUMN (05 R117). -/
def tileTrapPosColumn : Fld := ⟨65, "TILE_TRAP_POS.COLUMN", [⟨false, 0x1000034, [(0x100000, 10), (0x1000, 16)]⟩], 21, 16, .ro, (.const 0x0), []⟩

/-- TILE_TRAP_BLK.KBLK (05 R117). -/
def tileTrapBlkKblk : Fld := ⟨66, "TILE_TRAP_BLK.KBLK", [⟨false, 0x1000038, [(0x100000, 10), (0x1000, 16)]⟩], 15, 0, .ro, (.const 0x0), []⟩

/-- TILE_TRAP_BLK.MORE (05 R117). -/
def tileTrapBlkMore : Fld := ⟨67, "TILE_TRAP_BLK.MORE", [⟨false, 0x1000038, [(0x100000, 10), (0x1000, 16)]⟩], 31, 16, .ro, (.const 0x0), []⟩

/-- TILE_TRAP_CYCLE (05 R117). -/
def tileTrapCycle : Fld := ⟨68, "TILE_TRAP_CYCLE", [⟨false, 0x100003C, [(0x100000, 10), (0x1000, 16)]⟩], 31, 0, .ro, (.const 0x0), []⟩

/-- VE_TRAP.VALID (05 R117). -/
def veTrapValid : Fld := ⟨69, "VE_TRAP.VALID", [⟨false, 0x1010020, [(0x100000, 10)]⟩], 0, 0, .w1c, (.const 0x0), []⟩

/-- VE_TRAP.CAUSE (05 R117). -/
def veTrapCause : Fld := ⟨70, "VE_TRAP.CAUSE", [⟨false, 0x1010020, [(0x100000, 10)]⟩], 15, 8, .ro, (.const 0x0), []⟩

/-- VE_TRAP.OP_TAG (05 R117). -/
def veTrapOpTag : Fld := ⟨71, "VE_TRAP.OP_TAG", [⟨false, 0x1010020, [(0x100000, 10)]⟩], 28, 16, .ro, (.const 0x0), []⟩

/-- VE_TRAP_POS.I0 (05 R117). -/
def veTrapPosI0 : Fld := ⟨72, "VE_TRAP_POS.I0", [⟨false, 0x1010024, [(0x100000, 10)]⟩], 15, 0, .ro, (.const 0x0), []⟩

/-- VE_TRAP_POS.MORE (05 R117). -/
def veTrapPosMore : Fld := ⟨73, "VE_TRAP_POS.MORE", [⟨false, 0x1010024, [(0x100000, 10)]⟩], 31, 16, .ro, (.const 0x0), []⟩

/-- VE_TRAP_OUTER (05 R117). -/
def veTrapOuter : Fld := ⟨74, "VE_TRAP_OUTER", [⟨false, 0x1010028, [(0x100000, 10)]⟩], 31, 0, .ro, (.const 0x0), []⟩

/-- VE_TRAP_CYCLE (05 R117). -/
def veTrapCycle : Fld := ⟨75, "VE_TRAP_CYCLE", [⟨false, 0x101002C, [(0x100000, 10)]⟩], 31, 0, .ro, (.const 0x0), []⟩

/-- OWNER_GROUP.LOCAL (06 R138). -/
def ownerGroupLocal : Fld := ⟨76, "OWNER_GROUP.LOCAL", [⟨false, 0x1020000, [(0x100000, 10), (0x20, 8)]⟩], 17, 0, .rws, (.const 0x0), []⟩

/-- OWNER_GROUP.REMOTE_EN (06 R138). -/
def ownerGroupRemoteEn : Fld := ⟨77, "OWNER_GROUP.REMOTE_EN", [⟨false, 0x1020000, [(0x100000, 10), (0x20, 8)]⟩], 31, 28, .rws, (.const 0x0), []⟩

/-- OWNER_GROUP.VALUE_i (06 R138). -/
def ownerGroupValue : Fld := ⟨78, "OWNER_GROUP.VALUE_i", [⟨false, 0x1020004, [(0x100000, 10), (0x20, 8), (0x4, 4)]⟩], 15, 0, .rws, (.const 0x0), []⟩

/-- OWNER_GROUP.IGNORE_i (06 R138). -/
def ownerGroupIgnore : Fld := ⟨79, "OWNER_GROUP.IGNORE_i", [⟨false, 0x1020004, [(0x100000, 10), (0x20, 8), (0x4, 4)]⟩], 31, 16, .rws, (.const 0x0), []⟩

/-- BANK_OWNER.GROUP (06 R138). -/
def bankOwnerGroup : Fld := ⟨80, "BANK_OWNER.GROUP", [⟨false, 0x1020100, [(0x100000, 10), (0x10, 16)]⟩], 3, 0, .rw, (.const 0xF), [(0, 7), (15, 15)]⟩

/-- BANK_OWNER.CURRENT (06 R138). -/
def bankOwnerCurrent : Fld := ⟨81, "BANK_OWNER.CURRENT", [⟨false, 0x1020100, [(0x100000, 10), (0x10, 16)]⟩], 7, 4, .ro, (.const 0xF), []⟩

/-- BANK_OWNER.PENDING (06 R138). -/
def bankOwnerPending : Fld := ⟨82, "BANK_OWNER.PENDING", [⟨false, 0x1020100, [(0x100000, 10), (0x10, 16)]⟩], 8, 8, .ro, (.const 0x0), []⟩

/-- BANK_OWNER.HANDOVER_DONE (06 R138). -/
def bankOwnerHandoverDone : Fld := ⟨83, "BANK_OWNER.HANDOVER_DONE", [⟨false, 0x1020100, [(0x100000, 10), (0x10, 16)]⟩], 9, 9, .w1c, (.const 0x0), []⟩

/-- BANK_REFUSED (06 R138). -/
def bankRefused : Fld := ⟨84, "BANK_REFUSED", [⟨false, 0x1020104, [(0x100000, 10), (0x10, 16)]⟩], 31, 0, .rc, (.const 0x0), []⟩

/-- BANK_COLLIDE (06 R138). -/
def bankCollide : Fld := ⟨85, "BANK_COLLIDE", [⟨false, 0x1020108, [(0x100000, 10), (0x10, 16)]⟩], 31, 0, .rc, (.const 0x0), []⟩

/-- BANK_PARITY_ERRS (06 R138). -/
def bankParityErrs : Fld := ⟨86, "BANK_PARITY_ERRS", [⟨false, 0x102010C, [(0x100000, 10), (0x10, 16)]⟩], 31, 0, .rc, (.const 0x0), []⟩

/-- BANK_LAST_REFUSED.ID (06 R138). -/
def bankLastRefusedId : Fld := ⟨87, "BANK_LAST_REFUSED.ID", [⟨false, 0x1020200, [(0x100000, 10)]⟩], 15, 0, .ro, (.const 0x0), []⟩

/-- BANK_LAST_REFUSED.BANK (06 R138). -/
def bankLastRefusedBank : Fld := ⟨88, "BANK_LAST_REFUSED.BANK", [⟨false, 0x1020200, [(0x100000, 10)]⟩], 19, 16, .ro, (.const 0x0), []⟩

/-- BANK_LAST_PARITY.WORD (06 R138). -/
def bankLastParityWord : Fld := ⟨89, "BANK_LAST_PARITY.WORD", [⟨false, 0x1020204, [(0x100000, 10)]⟩], 14, 0, .ro, (.const 0x0), []⟩

/-- BANK_LAST_PARITY.BANK (06 R138). -/
def bankLastParityBank : Fld := ⟨90, "BANK_LAST_PARITY.BANK", [⟨false, 0x1020204, [(0x100000, 10)]⟩], 18, 15, .ro, (.const 0x0), []⟩

/-- BANK_LAST_PARITY.LANE (06 R138). -/
def bankLastParityLane : Fld := ⟨91, "BANK_LAST_PARITY.LANE", [⟨false, 0x1020204, [(0x100000, 10)]⟩], 22, 19, .ro, (.const 0x0), []⟩

/-- BANK_CUTOFF.ID (06 R138). -/
def bankCutoffId : Fld := ⟨92, "BANK_CUTOFF.ID", [⟨false, 0x1020208, [(0x100000, 10)]⟩], 15, 0, .ro, (.const 0x0), []⟩

/-- BANK_CUTOFF.BANK (06 R138). -/
def bankCutoffBank : Fld := ⟨93, "BANK_CUTOFF.BANK", [⟨false, 0x1020208, [(0x100000, 10)]⟩], 19, 16, .ro, (.const 0x0), []⟩

/-- BANK_CUTOFF.VALID (06 R138). -/
def bankCutoffValid : Fld := ⟨94, "BANK_CUTOFF.VALID", [⟨false, 0x1020208, [(0x100000, 10)]⟩], 20, 20, .w1c, (.const 0x0), []⟩

/-- BANK_CUTOFF.PORT (06 R138). -/
def bankCutoffPort : Fld := ⟨95, "BANK_CUTOFF.PORT", [⟨false, 0x1020208, [(0x100000, 10)]⟩], 21, 21, .ro, (.const 0x0), []⟩

/-- BANK_RANK.TILE (06 R138). -/
def bankRankTile : Fld := ⟨96, "BANK_RANK.TILE", [⟨false, 0x1020210, [(0x100000, 10)]⟩], 2, 0, .rw, (.const 0x4), []⟩

/-- BANK_RANK.VE (06 R138). -/
def bankRankVe : Fld := ⟨97, "BANK_RANK.VE", [⟨false, 0x1020210, [(0x100000, 10)]⟩], 6, 4, .rw, (.const 0x5), []⟩

/-- BANK_RANK.MARCH (06 R138). -/
def bankRankMarch : Fld := ⟨98, "BANK_RANK.MARCH", [⟨false, 0x1020210, [(0x100000, 10)]⟩], 10, 8, .rw, (.const 0x1), []⟩

/-- BANK_RANK.B_READ (06 R138). -/
def bankRankBRead : Fld := ⟨99, "BANK_RANK.B_READ", [⟨false, 0x1020210, [(0x100000, 10)]⟩], 14, 12, .rw, (.const 0x4), []⟩

/-- BANK_RANK.B_WRITE (06 R138). -/
def bankRankBWrite : Fld := ⟨100, "BANK_RANK.B_WRITE", [⟨false, 0x1020210, [(0x100000, 10)]⟩], 18, 16, .rw, (.const 0x4), []⟩

/-- BANK_RANK.B_ATOMIC (06 R138). -/
def bankRankBAtomic : Fld := ⟨101, "BANK_RANK.B_ATOMIC", [⟨false, 0x1020210, [(0x100000, 10)]⟩], 22, 20, .rw, (.const 0x6), []⟩

/-- BANK_HOLD_MAX.HOLD_MAX (06 R138). -/
def bankHoldMaxHoldMax : Fld := ⟨102, "BANK_HOLD_MAX.HOLD_MAX", [⟨false, 0x1020214, [(0x100000, 10)]⟩], 15, 0, .rw, (.const 0x200), [(16, 65535)]⟩

/-- BANK_LOST_i (06 R138). -/
def bankLost : Fld := ⟨103, "BANK_LOST_i", [⟨false, 0x1020220, [(0x100000, 10), (0x4, 18)]⟩], 31, 0, .rc, (.const 0x0), []⟩

/-- NEAR_CTRL.ACCEPT (06 R146). -/
def nearCtrlAccept : Fld := ⟨104, "NEAR_CTRL.ACCEPT", [⟨false, 0x3000000, []⟩], 0, 0, .rw, (.const 0x0), []⟩

/-- NEAR_STATUS.READY (06 R146). -/
def nearStatusReady : Fld := ⟨105, "NEAR_STATUS.READY", [⟨false, 0x3000004, []⟩], 0, 0, .ro, (.const 0x0), []⟩

/-- NEAR_STATUS.IDLE (06 R146). -/
def nearStatusIdle : Fld := ⟨106, "NEAR_STATUS.IDLE", [⟨false, 0x3000004, []⟩], 1, 1, .ro, (.const 0x1), []⟩

/-- NEAR_STATUS.HOT (06 R146). -/
def nearStatusHot : Fld := ⟨107, "NEAR_STATUS.HOT", [⟨false, 0x3000004, []⟩], 2, 2, .ro, (.const 0x0), []⟩

/-- NEAR_STATUS.LAYER_OK (06 R146). -/
def nearStatusLayerOk : Fld := ⟨108, "NEAR_STATUS.LAYER_OK", [⟨false, 0x3000004, []⟩], 11, 8, .ro, (.const 0x0), []⟩

/-- NEAR_REFRESH.INTERVAL (06 R146). -/
def nearRefreshInterval : Fld := ⟨109, "NEAR_REFRESH.INTERVAL", [⟨false, 0x3000008, []⟩], 15, 0, .rws, (.const 0xF3C), [(1000, 65535)]⟩

/-- NEAR_REFRESH.HOT_C (06 R146). -/
def nearRefreshHot : Fld := ⟨110, "NEAR_REFRESH.HOT_C", [⟨false, 0x3000008, []⟩], 23, 16, .rws, (.const 0x55), [(60, 95)]⟩

/-- NEAR_EVENTS.REREAD_OK (06 R146). -/
def nearEventsRereadOk : Fld := ⟨111, "NEAR_EVENTS.REREAD_OK", [⟨false, 0x300000C, []⟩], 0, 0, .w1c, (.const 0x0), []⟩

/-- NEAR_EVENTS.CRC_FAIL2 (06 R146). -/
def nearEventsCrcFail2 : Fld := ⟨112, "NEAR_EVENTS.CRC_FAIL2", [⟨false, 0x300000C, []⟩], 1, 1, .w1c, (.const 0x0), []⟩

/-- NEAR_EVENTS.RETIRED_ACCESS (06 R146). -/
def nearEventsRetiredAccess : Fld := ⟨113, "NEAR_EVENTS.RETIRED_ACCESS", [⟨false, 0x300000C, []⟩], 2, 2, .w1c, (.const 0x0), []⟩

/-- NEAR_EVENTS.RETIRE_FULL (06 R146). -/
def nearEventsRetireFull : Fld := ⟨114, "NEAR_EVENTS.RETIRE_FULL", [⟨false, 0x300000C, []⟩], 3, 3, .w1c, (.const 0x0), []⟩

/-- NEAR_REREADS (06 R146). -/
def nearRereads : Fld := ⟨115, "NEAR_REREADS", [⟨false, 0x3000010, []⟩], 31, 0, .rc, (.const 0x0), []⟩

/-- NEAR_FAILS (06 R146). -/
def nearFails : Fld := ⟨116, "NEAR_FAILS", [⟨false, 0x3000014, []⟩], 31, 0, .rc, (.const 0x0), []⟩

/-- NEAR_FAIL_ADDR_LO.OFFSET (06 R146). -/
def nearFailAddrLoOffset : Fld := ⟨117, "NEAR_FAIL_ADDR_LO.OFFSET", [⟨false, 0x3000018, []⟩], 31, 0, .ro, (.const 0x0), []⟩

/-- NEAR_FAIL_ADDR_HI.OFFSET (06 R146). -/
def nearFailAddrHiOffset : Fld := ⟨118, "NEAR_FAIL_ADDR_HI.OFFSET", [⟨false, 0x300001C, []⟩], 4, 0, .ro, (.const 0x0), []⟩

/-- NEAR_FAIL_ADDR_HI.CHANNEL (06 R146). -/
def nearFailAddrHiChannel : Fld := ⟨119, "NEAR_FAIL_ADDR_HI.CHANNEL", [⟨false, 0x300001C, []⟩], 15, 8, .ro, (.const 0x0), []⟩

/-- NEAR_RETIRE_COUNT.COUNT (06 R146). -/
def nearRetireCountCount : Fld := ⟨120, "NEAR_RETIRE_COUNT.COUNT", [⟨false, 0x3000020, []⟩], 8, 0, .ro, (.const 0x0), []⟩

/-- NEAR_RETIRE.PAGE (06 R146). -/
def nearRetirePage : Fld := ⟨121, "NEAR_RETIRE.PAGE", [⟨false, 0x3001000, [(0x4, 256)]⟩], 15, 0, .rws, (.const 0x0), [(0, 49151)]⟩

/-- NEAR_RETIRE.VALID (06 R146). -/
def nearRetireValid : Fld := ⟨122, "NEAR_RETIRE.VALID", [⟨false, 0x3001000, [(0x4, 256)]⟩], 31, 31, .rws, (.const 0x0), []⟩

/-- PM_CTRL.RUN (07 R160). -/
def pmCtrlRun : Fld := ⟨123, "PM_CTRL.RUN", [⟨false, 0x2800000, []⟩], 3, 0, .rw, (.const 0x0), []⟩

/-- PM_STATUS.IDLE (07 R160). -/
def pmStatusIdle : Fld := ⟨124, "PM_STATUS.IDLE", [⟨false, 0x2800004, []⟩], 3, 0, .ro, (.const 0xF), []⟩

/-- PM_FAILS (07 R160). -/
def pmFails : Fld := ⟨125, "PM_FAILS", [⟨false, 0x2800008, []⟩], 31, 0, .rc, (.const 0x0), []⟩

/-- PM_FAIL_ADDR_LO (07 R160). -/
def pmFailAddrLo : Fld := ⟨126, "PM_FAIL_ADDR_LO", [⟨false, 0x280000C, []⟩], 31, 0, .ro, (.const 0x0), []⟩

/-- PM_FAIL_ADDR_HI.ADDR (07 R160). -/
def pmFailAddrHiAddr : Fld := ⟨127, "PM_FAIL_ADDR_HI.ADDR", [⟨false, 0x2800010, []⟩], 15, 0, .ro, (.const 0x0), []⟩

/-- PM_CMD_m word 0 (07 R160). -/
def pmCmdWord0 : Fld := ⟨128, "PM_CMD_m word 0", [⟨false, 0x2800100, [(0x20, 4)]⟩], 31, 0, .wo, (.const 0x0), []⟩

/-- PM_CMD_m word 1 (07 R160). -/
def pmCmdWord1 : Fld := ⟨129, "PM_CMD_m word 1", [⟨false, 0x2800104, [(0x20, 4)]⟩], 31, 0, .wo, (.const 0x0), []⟩

/-- PM_CMD_m word 2 (07 R160). -/
def pmCmdWord2 : Fld := ⟨130, "PM_CMD_m word 2", [⟨false, 0x2800108, [(0x20, 4)]⟩], 31, 0, .wo, (.const 0x0), []⟩

/-- PM_CMD_m word 3 (07 R160). -/
def pmCmdWord3 : Fld := ⟨131, "PM_CMD_m word 3", [⟨false, 0x280010C, [(0x20, 4)]⟩], 31, 0, .wo, (.const 0x0), []⟩

/-- ALM_CTRL.RUN (07 R172). -/
def almCtrlRun : Fld := ⟨132, "ALM_CTRL.RUN", [⟨true, 0x2200000, []⟩], 0, 0, .rw, (.const 0x0), []⟩

/-- ALM_STATUS.STOPPED (07 R172). -/
def almStatusStopped : Fld := ⟨133, "ALM_STATUS.STOPPED", [⟨true, 0x2200004, []⟩], 0, 0, .ro, (.const 0x1), []⟩

/-- ALM_STATUS.BROKEN (07 R172). -/
def almStatusBroken : Fld := ⟨134, "ALM_STATUS.BROKEN", [⟨true, 0x2200004, []⟩], 1, 1, .ro, (.const 0x0), []⟩

/-- ALM_STATUS.MIGRATING (07 R172). -/
def almStatusMigrating : Fld := ⟨135, "ALM_STATUS.MIGRATING", [⟨true, 0x2200004, []⟩], 2, 2, .ro, (.const 0x0), []⟩

/-- ALM_STATUS.ADMITTED (07 R172). -/
def almStatusAdmitted : Fld := ⟨136, "ALM_STATUS.ADMITTED", [⟨true, 0x2200004, []⟩], 31, 16, .ro, (.const 0x0), []⟩

/-- ALM_ADMIT.ADMIT_PCT (07 R172). -/
def almAdmitAdmitPct : Fld := ⟨137, "ALM_ADMIT.ADMIT_PCT", [⟨true, 0x2200008, []⟩], 6, 0, .rws, (.const 0x5A), [(50, 100)]⟩

/-- ALM_ADMIT.BLOCK_US (07 R172). -/
def almAdmitBlockUs : Fld := ⟨138, "ALM_ADMIT.BLOCK_US", [⟨true, 0x2200008, []⟩], 23, 8, .rws, (.const 0x2), [(1, 1000)]⟩

/-- ALM_CAP.NEAR_GBPS (07 R172). -/
def almCapNearGbps : Fld := ⟨139, "ALM_CAP.NEAR_GBPS", [⟨true, 0x220000C, []⟩], 15, 0, .rws, (.const 0x1F40), [(1000, 8192)]⟩

/-- ALM_CAP.FAR_GBPS (07 R172). -/
def almCapFarGbps : Fld := ⟨140, "ALM_CAP.FAR_GBPS", [⟨true, 0x220000C, []⟩], 23, 16, .rws, (.const 0x28), [(8, 51)]⟩

/-- ALM_MIGRATE.EN (07 R172). -/
def almMigrateEn : Fld := ⟨141, "ALM_MIGRATE.EN", [⟨true, 0x2200010, []⟩], 0, 0, .rws, (.const 0x1), []⟩

/-- ALM_MIGRATE.FAR_BACKING (07 R172). -/
def almMigrateFarBacking : Fld := ⟨142, "ALM_MIGRATE.FAR_BACKING", [⟨true, 0x2200010, []⟩], 1, 1, .rws, (.const 0x1), []⟩

/-- ALM_MIGRATE.COLD_MS (07 R172). -/
def almMigrateColdMs : Fld := ⟨143, "ALM_MIGRATE.COLD_MS", [⟨true, 0x2200010, []⟩], 31, 16, .rws, (.const 0x3E8), [(10, 65535)]⟩

/-- ALM_RESERVE_LO (07 R172). -/
def almReserveLo : Fld := ⟨144, "ALM_RESERVE_LO", [⟨true, 0x2200014, []⟩], 31, 0, .rw, (.const 0x0), []⟩

/-- ALM_RESERVE_HI (07 R172). -/
def almReserveHi : Fld := ⟨145, "ALM_RESERVE_HI", [⟨true, 0x2200018, []⟩], 27, 0, .rw, (.const 0x0), []⟩

/-- ALM_RESERVED_LO (07 R172). -/
def almReservedLo : Fld := ⟨146, "ALM_RESERVED_LO", [⟨true, 0x220001C, []⟩], 31, 0, .ro, (.const 0x0), []⟩

/-- ALM_RESERVED_HI (07 R172). -/
def almReservedHi : Fld := ⟨147, "ALM_RESERVED_HI", [⟨true, 0x2200020, []⟩], 27, 0, .ro, (.const 0x0), []⟩

/-- ALM_RESERVE_CTRL.FORCE (07 R172). -/
def almReserveCtrlForce : Fld := ⟨148, "ALM_RESERVE_CTRL.FORCE", [⟨true, 0x2200024, []⟩], 0, 0, .rw, (.const 0x0), []⟩

/-- ALM_RESERVE_CTRL.REFUSED (07 R172). -/
def almReserveCtrlRefused : Fld := ⟨149, "ALM_RESERVE_CTRL.REFUSED", [⟨true, 0x2200024, []⟩], 1, 1, .w1c, (.const 0x0), []⟩

/-- ALM_EVALS (07 R172). -/
def almEvals : Fld := ⟨150, "ALM_EVALS", [⟨true, 0x2200028, []⟩], 31, 0, .rc, (.const 0x0), []⟩

/-- ALM_REFUSALS (07 R172). -/
def almRefusals : Fld := ⟨151, "ALM_REFUSALS", [⟨true, 0x220002C, []⟩], 31, 0, .rc, (.const 0x0), []⟩

/-- SE_CTRL.RUN (08 R196). -/
def seCtrlRun : Fld := ⟨152, "SE_CTRL.RUN", [⟨false, 0x2000000, [(0x10000, 16)]⟩], 0, 0, .rw, (.const 0x0), []⟩

/-- SE_CTRL.FLUSH (08 R196). -/
def seCtrlFlush : Fld := ⟨153, "SE_CTRL.FLUSH", [⟨false, 0x2000000, [(0x10000, 16)]⟩], 1, 1, .wo, (.const 0x0), []⟩

/-- SE_STATUS.IDLE (08 R196). -/
def seStatusIdle : Fld := ⟨154, "SE_STATUS.IDLE", [⟨false, 0x2000004, [(0x10000, 16)]⟩], 0, 0, .ro, (.const 0x1), []⟩

/-- SE_STATUS.STOPPED (08 R196). -/
def seStatusStopped : Fld := ⟨155, "SE_STATUS.STOPPED", [⟨false, 0x2000004, [(0x10000, 16)]⟩], 1, 1, .ro, (.const 0x1), []⟩

/-- SE_STATUS.RUNNING (08 R196). -/
def seStatusRunning : Fld := ⟨156, "SE_STATUS.RUNNING", [⟨false, 0x2000004, [(0x10000, 16)]⟩], 2, 2, .ro, (.const 0x0), []⟩

/-- SE_STATUS.RUN_DESC (08 R196). -/
def seStatusRunDesc : Fld := ⟨157, "SE_STATUS.RUN_DESC", [⟨false, 0x2000004, [(0x10000, 16)]⟩], 6, 4, .ro, (.const 0x0), []⟩

/-- SE_STATUS.RUNQ_FILL (08 R196). -/
def seStatusRunqFill : Fld := ⟨158, "SE_STATUS.RUNQ_FILL", [⟨false, 0x2000004, [(0x10000, 16)]⟩], 11, 8, .ro, (.const 0x0), []⟩

/-- SE_STATUS.ENTRY_FILL (08 R196). -/
def seStatusEntryFill : Fld := ⟨159, "SE_STATUS.ENTRY_FILL", [⟨false, 0x2000004, [(0x10000, 16)]⟩], 24, 16, .ro, (.const 0x0), []⟩

/-- SE_WHEEL.SLOT_LEN (08 R196). -/
def seWheelSlotLen : Fld := ⟨160, "SE_WHEEL.SLOT_LEN", [⟨false, 0x2000008, [(0x10000, 16)]⟩], 15, 0, .rws, (.const 0x100), [(16, 65535)]⟩

/-- SE_WHEEL.LEND (08 R196). -/
def seWheelLend : Fld := ⟨161, "SE_WHEEL.LEND", [⟨false, 0x2000008, [(0x10000, 16)]⟩], 16, 16, .rws, (.const 0x1), []⟩

/-- SE_WHEEL_POS.SLOT (08 R196). -/
def seWheelPosSlot : Fld := ⟨162, "SE_WHEEL_POS.SLOT", [⟨false, 0x200000C, [(0x10000, 16)]⟩], 5, 0, .ro, (.const 0x0), []⟩

/-- SE_MC.LAG_MAX (08 R196). -/
def seMcLagMax : Fld := ⟨163, "SE_MC.LAG_MAX", [⟨false, 0x2000010, [(0x10000, 16)]⟩], 6, 0, .rw, (.const 0x8), [(1, 64)]⟩

/-- SE_MC.ENABLE (08 R196). -/
def seMcEnable : Fld := ⟨164, "SE_MC.ENABLE", [⟨false, 0x2000010, [(0x10000, 16)]⟩], 31, 16, .rw, (.const 0x0), []⟩

/-- SE_EVENTS.ERROR (08 R196). -/
def seEventsError : Fld := ⟨165, "SE_EVENTS.ERROR", [⟨false, 0x2000014, [(0x10000, 16)]⟩], 0, 0, .w1c, (.const 0x0), []⟩

/-- SE_EVENTS.REREAD (08 R196). -/
def seEventsReread : Fld := ⟨166, "SE_EVENTS.REREAD", [⟨false, 0x2000014, [(0x10000, 16)]⟩], 1, 1, .w1c, (.const 0x0), []⟩

/-- SE_EVENTS.MULTICAST_LAG (08 R196). -/
def seEventsMulticastLag : Fld := ⟨167, "SE_EVENTS.MULTICAST_LAG", [⟨false, 0x2000014, [(0x10000, 16)]⟩], 2, 2, .w1c, (.const 0x0), []⟩

/-- SE_EVENTS.DETACHED (08 R196). -/
def seEventsDetached : Fld := ⟨168, "SE_EVENTS.DETACHED", [⟨false, 0x2000014, [(0x10000, 16)]⟩], 3, 3, .w1c, (.const 0x0), []⟩

/-- SE_EVENTS.REARM_OVERRUN (08 R196). -/
def seEventsRearmOverrun : Fld := ⟨169, "SE_EVENTS.REARM_OVERRUN", [⟨false, 0x2000014, [(0x10000, 16)]⟩], 4, 4, .w1c, (.const 0x0), []⟩

/-- SE_ERR.CAUSE (08 R196). -/
def seErrCause : Fld := ⟨170, "SE_ERR.CAUSE", [⟨false, 0x2000018, [(0x10000, 16)]⟩], 7, 0, .ro, (.const 0x0), []⟩

/-- SE_ERR.DESC (08 R196). -/
def seErrDesc : Fld := ⟨171, "SE_ERR.DESC", [⟨false, 0x2000018, [(0x10000, 16)]⟩], 10, 8, .ro, (.const 0x0), []⟩

/-- SE_ERR_ENTRY (08 R196). -/
def seErrEntry : Fld := ⟨172, "SE_ERR_ENTRY", [⟨false, 0x200001C, [(0x10000, 16)]⟩], 31, 0, .ro, (.const 0x0), []⟩

/-- SE_WRITTEN (08 R196). -/
def seWritten : Fld := ⟨173, "SE_WRITTEN", [⟨false, 0x2000020, [(0x10000, 16)]⟩], 31, 0, .ro, (.const 0x0), []⟩

/-- SE_LENT (08 R196). -/
def seLent : Fld := ⟨174, "SE_LENT", [⟨false, 0x2000024, [(0x10000, 16)]⟩], 31, 0, .ro, (.const 0x0), []⟩

/-- MC_BASE_i.ADDR_LO (08 R196). -/
def mcBaseAddrLo : Fld := ⟨175, "MC_BASE_i.ADDR_LO", [⟨false, 0x2000100, [(0x10000, 16), (0x8, 16)]⟩], 31, 0, .rw, (.const 0x0), []⟩

/-- MC_BASE_i.ADDR_HI (08 R196). -/
def mcBaseAddrHi : Fld := ⟨176, "MC_BASE_i.ADDR_HI", [⟨false, 0x2000104, [(0x10000, 16), (0x8, 16)]⟩], 15, 0, .rw, (.const 0x0), []⟩

/-- SE_DESC_n.LIST_LO (08 R196). -/
def seDescListLo : Fld := ⟨177, "SE_DESC_n.LIST_LO", [⟨false, 0x2000200, [(0x10000, 16), (0x20, 8)]⟩], 31, 6, .rw, (.const 0x0), []⟩

/-- SE_DESC_n.LIST_HI (08 R196). -/
def seDescListHi : Fld := ⟨178, "SE_DESC_n.LIST_HI", [⟨false, 0x2000204, [(0x10000, 16), (0x20, 8)]⟩], 15, 0, .rw, (.const 0x0), []⟩

/-- SE_DESC_n.COUNT (08 R196). -/
def seDescCount : Fld := ⟨179, "SE_DESC_n.COUNT", [⟨false, 0x2000208, [(0x10000, 16), (0x20, 8)]⟩], 23, 0, .rw, (.const 0x0), []⟩

/-- SE_DESC_n.NOTIFY (08 R196). -/
def seDescNotify : Fld := ⟨180, "SE_DESC_n.NOTIFY", [⟨false, 0x200020C, [(0x10000, 16), (0x20, 8)]⟩], 15, 0, .rw, (.const 0x0), []⟩

/-- SE_DESC_n.TAG (08 R196). -/
def seDescTag : Fld := ⟨181, "SE_DESC_n.TAG", [⟨false, 0x2000210, [(0x10000, 16), (0x20, 8)]⟩], 31, 0, .rw, (.const 0x0), []⟩

/-- SE_DESC_n.ARM.ARM (08 R196). -/
def seDescArmArm : Fld := ⟨182, "SE_DESC_n.ARM.ARM", [⟨false, 0x2000214, [(0x10000, 16), (0x20, 8)]⟩], 0, 0, .wo, (.const 0x0), []⟩

/-- SE_DESC_n.STATE.STATE (08 R196). -/
def seDescStateState : Fld := ⟨183, "SE_DESC_n.STATE.STATE", [⟨false, 0x2000218, [(0x10000, 16), (0x20, 8)]⟩], 1, 0, .ro, (.const 0x0), []⟩

/-- SE_DESC_n.STATE.PENDING (08 R196). -/
def seDescStatePending : Fld := ⟨184, "SE_DESC_n.STATE.PENDING", [⟨false, 0x2000218, [(0x10000, 16), (0x20, 8)]⟩], 2, 2, .ro, (.const 0x0), []⟩

/-- SE_DESC_n.DONE (08 R196). -/
def seDescDone : Fld := ⟨185, "SE_DESC_n.DONE", [⟨false, 0x200021C, [(0x10000, 16), (0x20, 8)]⟩], 23, 0, .ro, (.const 0x0), []⟩

/-- SE_SLOT_i.KIND (08 R196). -/
def seSlotKind : Fld := ⟨186, "SE_SLOT_i.KIND", [⟨false, 0x2000400, [(0x10000, 16), (0x4, 64)]⟩], 1, 0, .rw, .slotKind, [(0, 2)]⟩

/-- FAR_CTRL.ACCEPT (09 R212). -/
def farCtrlAccept : Fld := ⟨187, "FAR_CTRL.ACCEPT", [⟨false, 0x4000000, [(0x10000, 4)]⟩], 0, 0, .rw, (.const 0x0), []⟩

/-- FAR_CTRL.TRAIN (09 R212). -/
def farCtrlTrain : Fld := ⟨188, "FAR_CTRL.TRAIN", [⟨false, 0x4000000, [(0x10000, 4)]⟩], 1, 1, .rws, (.const 0x0), []⟩

/-- FAR_STATUS.READY (09 R212). -/
def farStatusReady : Fld := ⟨189, "FAR_STATUS.READY", [⟨false, 0x4000004, [(0x10000, 4)]⟩], 0, 0, .ro, (.const 0x0), []⟩

/-- FAR_STATUS.IDLE (09 R212). -/
def farStatusIdle : Fld := ⟨190, "FAR_STATUS.IDLE", [⟨false, 0x4000004, [(0x10000, 4)]⟩], 1, 1, .ro, (.const 0x1), []⟩

/-- FAR_STATUS.TRAINING (09 R212). -/
def farStatusTraining : Fld := ⟨191, "FAR_STATUS.TRAINING", [⟨false, 0x4000004, [(0x10000, 4)]⟩], 2, 2, .ro, (.const 0x0), []⟩

/-- FAR_STATUS.FAILED (09 R212). -/
def farStatusFailed : Fld := ⟨192, "FAR_STATUS.FAILED", [⟨false, 0x4000004, [(0x10000, 4)]⟩], 3, 3, .ro, (.const 0x0), []⟩

/-- FAR_STATUS.HOT (09 R212). -/
def farStatusHot : Fld := ⟨193, "FAR_STATUS.HOT", [⟨false, 0x4000004, [(0x10000, 4)]⟩], 4, 4, .ro, (.const 0x0), []⟩

/-- FAR_STATUS.RECOVERING (09 R212). -/
def farStatusRecovering : Fld := ⟨194, "FAR_STATUS.RECOVERING", [⟨false, 0x4000004, [(0x10000, 4)]⟩], 5, 5, .ro, (.const 0x0), []⟩

/-- FAR_STATUS.RANKS (09 R212). -/
def farStatusRanks : Fld := ⟨195, "FAR_STATUS.RANKS", [⟨false, 0x4000004, [(0x10000, 4)]⟩], 9, 8, .ro, .ranks, []⟩

/-- FAR_REFRESH.TREFI (09 R212). -/
def farRefreshTrefi : Fld := ⟨196, "FAR_REFRESH.TREFI", [⟨false, 0x4000008, [(0x10000, 4)]⟩], 15, 0, .rws, (.const 0x30C0), [(6240, 12480)]⟩

/-- FAR_REFRESH.TRFC (09 R212). -/
def farRefreshTrfc : Fld := ⟨197, "FAR_REFRESH.TRFC", [⟨false, 0x4000008, [(0x10000, 4)]⟩], 27, 16, .rws, (.const 0x520), [(1312, 4095)]⟩

/-- FAR_ALERT.ALERT_WIN (09 R212). -/
def farAlertAlertWin : Fld := ⟨198, "FAR_ALERT.ALERT_WIN", [⟨false, 0x400000C, [(0x10000, 4)]⟩], 7, 0, .rws, (.const 0x80), [(32, 128)]⟩

/-- FAR_RETRAIN.FULL_THRESH (09 R212). -/
def farRetrainFullThresh : Fld := ⟨199, "FAR_RETRAIN.FULL_THRESH", [⟨false, 0x4000010, [(0x10000, 4)]⟩], 15, 0, .rws, (.const 0x40), [(1, 65535)]⟩

/-- FAR_EVENTS.CA_ALERT (09 R212). -/
def farEventsCaAlert : Fld := ⟨200, "FAR_EVENTS.CA_ALERT", [⟨false, 0x4000014, [(0x10000, 4)]⟩], 0, 0, .w1c, (.const 0x0), []⟩

/-- FAR_EVENTS.REPLAY_FAIL (09 R212). -/
def farEventsReplayFail : Fld := ⟨201, "FAR_EVENTS.REPLAY_FAIL", [⟨false, 0x4000014, [(0x10000, 4)]⟩], 1, 1, .w1c, (.const 0x0), []⟩

/-- FAR_EVENTS.REREAD_OK (09 R212). -/
def farEventsRereadOk : Fld := ⟨202, "FAR_EVENTS.REREAD_OK", [⟨false, 0x4000014, [(0x10000, 4)]⟩], 2, 2, .w1c, (.const 0x0), []⟩

/-- FAR_EVENTS.READ_LOST (09 R212). -/
def farEventsReadLost : Fld := ⟨203, "FAR_EVENTS.READ_LOST", [⟨false, 0x4000014, [(0x10000, 4)]⟩], 3, 3, .w1c, (.const 0x0), []⟩

/-- FAR_EVENTS.FULL_RETRAIN (09 R212). -/
def farEventsFullRetrain : Fld := ⟨204, "FAR_EVENTS.FULL_RETRAIN", [⟨false, 0x4000014, [(0x10000, 4)]⟩], 4, 4, .w1c, (.const 0x0), []⟩

/-- FAR_EVENTS.TRAIN_FAIL (09 R212). -/
def farEventsTrainFail : Fld := ⟨205, "FAR_EVENTS.TRAIN_FAIL", [⟨false, 0x4000014, [(0x10000, 4)]⟩], 5, 5, .w1c, (.const 0x0), []⟩

/-- FAR_EVENTS.WRITE_LOST (09 R212). -/
def farEventsWriteLost : Fld := ⟨206, "FAR_EVENTS.WRITE_LOST", [⟨false, 0x4000014, [(0x10000, 4)]⟩], 6, 6, .w1c, (.const 0x0), []⟩

/-- FAR_ALERTS (09 R212). -/
def farAlerts : Fld := ⟨207, "FAR_ALERTS", [⟨false, 0x4000018, [(0x10000, 4)]⟩], 31, 0, .rc, (.const 0x0), []⟩

/-- FAR_REREADS (09 R212). -/
def farRereads : Fld := ⟨208, "FAR_REREADS", [⟨false, 0x400001C, [(0x10000, 4)]⟩], 31, 0, .rc, (.const 0x0), []⟩

/-- FAR_LOST (09 R212). -/
def farLost : Fld := ⟨209, "FAR_LOST", [⟨false, 0x4000020, [(0x10000, 4)]⟩], 31, 0, .rc, (.const 0x0), []⟩

/-- FAR_LOST_ADDR_LO (09 R212). -/
def farLostAddrLo : Fld := ⟨210, "FAR_LOST_ADDR_LO", [⟨false, 0x4000024, [(0x10000, 4)]⟩], 31, 0, .ro, (.const 0x0), []⟩

/-- FAR_LOST_ADDR_HI.OFFSET (09 R212). -/
def farLostAddrHiOffset : Fld := ⟨211, "FAR_LOST_ADDR_HI.OFFSET", [⟨false, 0x4000028, [(0x10000, 4)]⟩], 3, 0, .ro, (.const 0x0), []⟩

/-- FAR_RETRAINS (09 R212). -/
def farRetrains : Fld := ⟨212, "FAR_RETRAINS", [⟨false, 0x400002C, [(0x10000, 4)]⟩], 31, 0, .rc, (.const 0x0), []⟩

/-- FAR_TRAIN_RESULT.STEP (09 R212). -/
def farTrainResultStep : Fld := ⟨213, "FAR_TRAIN_RESULT.STEP", [⟨false, 0x4000030, [(0x10000, 4)]⟩], 3, 0, .ro, (.const 0x0), []⟩

/-- FAR_TRAIN_RESULT.CODE (09 R212). -/
def farTrainResultCode : Fld := ⟨214, "FAR_TRAIN_RESULT.CODE", [⟨false, 0x4000030, [(0x10000, 4)]⟩], 7, 4, .ro, (.const 0x0), []⟩

/-- FAR_ARB_RANK.READ (09 R212). -/
def farArbRankRead : Fld := ⟨215, "FAR_ARB_RANK.READ", [⟨false, 0x4000040, [(0x10000, 4)]⟩], 2, 0, .rw, (.const 0x4), []⟩

/-- FAR_ARB_RANK.WRITE (09 R212). -/
def farArbRankWrite : Fld := ⟨216, "FAR_ARB_RANK.WRITE", [⟨false, 0x4000040, [(0x10000, 4)]⟩], 6, 4, .rw, (.const 0x4), []⟩

/-- FAR_ARB_RANK.DIAG (09 R212). -/
def farArbRankDiag : Fld := ⟨217, "FAR_ARB_RANK.DIAG", [⟨false, 0x4000040, [(0x10000, 4)]⟩], 10, 8, .rw, (.const 0x1), []⟩

/-- FAR_ARB_HOLD.HOLD_MAX (09 R212). -/
def farArbHoldHoldMax : Fld := ⟨218, "FAR_ARB_HOLD.HOLD_MAX", [⟨false, 0x4000044, [(0x10000, 4)]⟩], 15, 0, .rw, (.const 0x200), [(16, 65535)]⟩

/-- FAR_CUTOFF.ID (09 R212). -/
def farCutoffId : Fld := ⟨219, "FAR_CUTOFF.ID", [⟨false, 0x4000048, [(0x10000, 4)]⟩], 15, 0, .ro, (.const 0x0), []⟩

/-- FAR_CUTOFF.VALID (09 R212). -/
def farCutoffValid : Fld := ⟨220, "FAR_CUTOFF.VALID", [⟨false, 0x4000048, [(0x10000, 4)]⟩], 16, 16, .w1c, (.const 0x0), []⟩

/-- FAR_ARB_WAIT_i (09 R212). -/
def farArbWait : Fld := ⟨221, "FAR_ARB_WAIT_i", [⟨false, 0x4000050, [(0x10000, 4), (0x4, 3)]⟩], 31, 0, .rc, (.const 0x0), []⟩

/-- NOC_CTRL.RUN (10 R244). -/
def nocCtrlRun : Fld := ⟨222, "NOC_CTRL.RUN", [⟨false, 0x5000000, []⟩], 0, 0, .rw, (.const 0x0), []⟩

/-- NOC_STATUS.STOPPED (10 R244). -/
def nocStatusStopped : Fld := ⟨223, "NOC_STATUS.STOPPED", [⟨false, 0x5000004, []⟩], 0, 0, .ro, (.const 0x1), []⟩

/-- NOC_URG_BASE.CTRL (10 R244). -/
def nocUrgBaseCtrl : Fld := ⟨224, "NOC_URG_BASE.CTRL", [⟨false, 0x5000008, []⟩], 3, 0, .rws, (.const 0xC), []⟩

/-- NOC_URG_BASE.STREAM (10 R244). -/
def nocUrgBaseStream : Fld := ⟨225, "NOC_URG_BASE.STREAM", [⟨false, 0x5000008, []⟩], 7, 4, .rws, (.const 0xA), []⟩

/-- NOC_URG_BASE.GEN (10 R244). -/
def nocUrgBaseGen : Fld := ⟨226, "NOC_URG_BASE.GEN", [⟨false, 0x5000008, []⟩], 11, 8, .rws, (.const 0x8), []⟩

/-- NOC_URG_BASE.BULK (10 R244). -/
def nocUrgBaseBulk : Fld := ⟨227, "NOC_URG_BASE.BULK", [⟨false, 0x5000008, []⟩], 15, 12, .rws, (.const 0x3), []⟩

/-- NOC_URG_BASE.DIAG (10 R244). -/
def nocUrgBaseDiag : Fld := ⟨228, "NOC_URG_BASE.DIAG", [⟨false, 0x5000008, []⟩], 19, 16, .rws, (.const 0x1), []⟩

/-- NOC_TIMEOUT.LOG2 (10 R244). -/
def nocTimeoutLog2 : Fld := ⟨229, "NOC_TIMEOUT.LOG2", [⟨false, 0x500000C, []⟩], 4, 0, .rws, (.const 0x14), [(12, 30)]⟩

/-- NOC_EVENTS.MISROUTE (10 R244). -/
def nocEventsMisroute : Fld := ⟨230, "NOC_EVENTS.MISROUTE", [⟨false, 0x5000010, []⟩], 0, 0, .w1c, (.const 0x0), []⟩

/-- NOC_EVENTS.NOROUTE (10 R244). -/
def nocEventsNoroute : Fld := ⟨231, "NOC_EVENTS.NOROUTE", [⟨false, 0x5000010, []⟩], 1, 1, .w1c, (.const 0x0), []⟩

/-- NOC_EVENTS.TIMEOUT (10 R244). -/
def nocEventsTimeout : Fld := ⟨232, "NOC_EVENTS.TIMEOUT", [⟨false, 0x5000010, []⟩], 2, 2, .w1c, (.const 0x0), []⟩

/-- NOC_EVENTS.LATE_RSP (10 R244). -/
def nocEventsLateRsp : Fld := ⟨233, "NOC_EVENTS.LATE_RSP", [⟨false, 0x5000010, []⟩], 3, 3, .w1c, (.const 0x0), []⟩

/-- NOC_EVENTS.BRIDGE_RETRY (10 R244). -/
def nocEventsBridgeRetry : Fld := ⟨234, "NOC_EVENTS.BRIDGE_RETRY", [⟨false, 0x5000010, []⟩], 4, 4, .w1c, (.const 0x0), []⟩

/-- NOC_EVENTS.BRIDGE_DOWN (10 R244). -/
def nocEventsBridgeDown : Fld := ⟨235, "NOC_EVENTS.BRIDGE_DOWN", [⟨false, 0x5000010, []⟩], 5, 5, .w1c, (.const 0x0), []⟩

/-- NOC_EVENTS.TRACE_DROP (10 R244). -/
def nocEventsTraceDrop : Fld := ⟨236, "NOC_EVENTS.TRACE_DROP", [⟨false, 0x5000010, []⟩], 6, 6, .w1c, (.const 0x0), []⟩

/-- NOC_EVENTS.TRACE_ERR (10 R244). -/
def nocEventsTraceErr : Fld := ⟨237, "NOC_EVENTS.TRACE_ERR", [⟨false, 0x5000010, []⟩], 7, 7, .w1c, (.const 0x0), []⟩

/-- NOC_MISROUTES (10 R244). -/
def nocMisroutes : Fld := ⟨238, "NOC_MISROUTES", [⟨false, 0x5000014, []⟩], 31, 0, .rc, (.const 0x0), []⟩

/-- NOC_TIMEOUTS (10 R244). -/
def nocTimeouts : Fld := ⟨239, "NOC_TIMEOUTS", [⟨false, 0x5000018, []⟩], 31, 0, .rc, (.const 0x0), []⟩

/-- NOC_LATE_RSP (10 R244). -/
def nocLateRsp : Fld := ⟨240, "NOC_LATE_RSP", [⟨false, 0x500001C, []⟩], 31, 0, .rc, (.const 0x0), []⟩

/-- NOC_BRIDGE_RETRIES (10 R244). -/
def nocBridgeRetries : Fld := ⟨241, "NOC_BRIDGE_RETRIES", [⟨false, 0x5000020, []⟩], 31, 0, .rc, (.const 0x0), []⟩

/-- NOC_LAST_ERR.SRC_PORT (10 R244). -/
def nocLastErrSrcPort : Fld := ⟨242, "NOC_LAST_ERR.SRC_PORT", [⟨false, 0x5000024, []⟩], 8, 0, .ro, (.const 0x0), []⟩

/-- NOC_LAST_ERR.DEST (10 R244). -/
def nocLastErrDest : Fld := ⟨243, "NOC_LAST_ERR.DEST", [⟨false, 0x5000024, []⟩], 24, 16, .ro, (.const 0x0), []⟩

/-- LANTERN_TIME_LO (10 R244). -/
def lanternTimeLo : Fld := ⟨244, "LANTERN_TIME_LO", [⟨false, 0x5000030, []⟩], 31, 0, .ro, (.const 0x0), []⟩

/-- LANTERN_TIME_HI (10 R244). -/
def lanternTimeHi : Fld := ⟨245, "LANTERN_TIME_HI", [⟨false, 0x5000034, []⟩], 15, 0, .ro, (.const 0x0), []⟩

/-- NI_CLASS_p.CLASS (10 R244). -/
def niClassClass : Fld := ⟨246, "NI_CLASS_p.CLASS", [⟨false, 0x5000100, [(0x4, 64)]⟩], 2, 0, .rw, .niClass, [(0, 4)]⟩

/-- ROUTE_q_i.ROUTE_LO (10 R244). -/
def routeRouteLo : Fld := ⟨247, "ROUTE_q_i.ROUTE_LO", [⟨false, 0x5010000, [(0x400, 69), (0x10, 64)]⟩], 31, 0, .rws, (.const 0x0), []⟩

/-- ROUTE_q_i.ROUTE_HI (10 R244). -/
def routeRouteHi : Fld := ⟨248, "ROUTE_q_i.ROUTE_HI", [⟨false, 0x5010004, [(0x400, 69), (0x10, 64)]⟩], 15, 0, .rws, (.const 0x0), []⟩

/-- ROUTE_q_i.MATCH (10 R244). -/
def routeMatch : Fld := ⟨249, "ROUTE_q_i.MATCH", [⟨false, 0x5010004, [(0x400, 69), (0x10, 64)]⟩], 24, 16, .rws, (.const 0x0), []⟩

/-- ROUTE_q_i.VALID (10 R244). -/
def routeValid : Fld := ⟨250, "ROUTE_q_i.VALID", [⟨false, 0x5010004, [(0x400, 69), (0x10, 64)]⟩], 31, 31, .rws, (.const 0x0), []⟩

/-- ROUTE_q_i.MASK (10 R244). -/
def routeMask : Fld := ⟨251, "ROUTE_q_i.MASK", [⟨false, 0x5010008, [(0x400, 69), (0x10, 64)]⟩], 8, 0, .rws, (.const 0x0), []⟩

/-- LP_CTRL.EN (10 R244). -/
def lpCtrlEn : Fld := ⟨252, "LP_CTRL.EN", [⟨false, 0x5028000, [(0x40, 16)]⟩], 0, 0, .rw, (.const 0x0), []⟩

/-- LP_CTRL.TRACE (10 R244). -/
def lpCtrlTrace : Fld := ⟨253, "LP_CTRL.TRACE", [⟨false, 0x5028000, [(0x40, 16)]⟩], 1, 1, .rw, (.const 0x0), []⟩

/-- LP_CTRL.NET (10 R244). -/
def lpCtrlNet : Fld := ⟨254, "LP_CTRL.NET", [⟨false, 0x5028000, [(0x40, 16)]⟩], 3, 2, .rw, (.const 0x0), []⟩

/-- LP_CTRL.ROUTER (10 R244). -/
def lpCtrlRouter : Fld := ⟨255, "LP_CTRL.ROUTER", [⟨false, 0x5028000, [(0x40, 16)]⟩], 8, 4, .rw, (.const 0x0), [(0, 23)]⟩

/-- LP_CTRL.PORT (10 R244). -/
def lpCtrlPort : Fld := ⟨256, "LP_CTRL.PORT", [⟨false, 0x5028000, [(0x40, 16)]⟩], 11, 9, .rw, (.const 0x0), [(0, 6)]⟩

/-- LP_CTRL.URG_MIN (10 R244). -/
def lpCtrlUrgMin : Fld := ⟨257, "LP_CTRL.URG_MIN", [⟨false, 0x5028000, [(0x40, 16)]⟩], 15, 12, .rw, (.const 0x0), []⟩

/-- LP_CTRL.TYPE (10 R244). -/
def lpCtrlType : Fld := ⟨258, "LP_CTRL.TYPE", [⟨false, 0x5028000, [(0x40, 16)]⟩], 23, 16, .rw, (.const 0x0), []⟩

/-- LP_SRC.VALUE (10 R244). -/
def lpSrcValue : Fld := ⟨259, "LP_SRC.VALUE", [⟨false, 0x5028004, [(0x40, 16)]⟩], 15, 0, .rw, (.const 0x0), []⟩

/-- LP_SRC.IGNORE (10 R244). -/
def lpSrcIgnore : Fld := ⟨260, "LP_SRC.IGNORE", [⟨false, 0x5028004, [(0x40, 16)]⟩], 31, 16, .rw, (.const 0xFFFF), []⟩

/-- LP_DEST.VALUE (10 R244). -/
def lpDestValue : Fld := ⟨261, "LP_DEST.VALUE", [⟨false, 0x5028008, [(0x40, 16)]⟩], 8, 0, .rw, (.const 0x0), []⟩

/-- LP_DEST.IGNORE (10 R244). -/
def lpDestIgnore : Fld := ⟨262, "LP_DEST.IGNORE", [⟨false, 0x5028008, [(0x40, 16)]⟩], 24, 16, .rw, (.const 0x1FF), []⟩

/-- LP_MATCHED (10 R244). -/
def lpMatched : Fld := ⟨263, "LP_MATCHED", [⟨false, 0x502800C, [(0x40, 16)]⟩], 31, 0, .rc, (.const 0x0), []⟩

/-- LP_UNITS (10 R244). -/
def lpUnits : Fld := ⟨264, "LP_UNITS", [⟨false, 0x5028010, [(0x40, 16)]⟩], 31, 0, .rc, (.const 0x0), []⟩

/-- LP_BLOCKED (10 R244). -/
def lpBlocked : Fld := ⟨265, "LP_BLOCKED", [⟨false, 0x5028014, [(0x40, 16)]⟩], 31, 0, .rc, (.const 0x0), []⟩

/-- LP_URG15 (10 R244). -/
def lpUrg15 : Fld := ⟨266, "LP_URG15", [⟨false, 0x5028018, [(0x40, 16)]⟩], 31, 0, .rc, (.const 0x0), []⟩

/-- LT_BASE_LO (10 R244). -/
def ltBaseLo : Fld := ⟨267, "LT_BASE_LO", [⟨false, 0x5030000, []⟩], 31, 0, .rw, (.const 0x0), []⟩

/-- LT_BASE_HI (10 R244). -/
def ltBaseHi : Fld := ⟨268, "LT_BASE_HI", [⟨false, 0x5030004, []⟩], 15, 0, .rw, (.const 0x0), []⟩

/-- LT_SIZE.LOG2 (10 R244). -/
def ltSizeLog2 : Fld := ⟨269, "LT_SIZE.LOG2", [⟨false, 0x5030008, []⟩], 4, 0, .rw, (.const 0xC), [(12, 30)]⟩

/-- LT_SIZE.WRAP (10 R244). -/
def ltSizeWrap : Fld := ⟨270, "LT_SIZE.WRAP", [⟨false, 0x5030008, []⟩], 8, 8, .rw, (.const 0x1), []⟩

/-- LT_WRITE_PTR (10 R244). -/
def ltWritePtr : Fld := ⟨271, "LT_WRITE_PTR", [⟨false, 0x503000C, []⟩], 25, 0, .ro, (.const 0x0), []⟩

/-- LT_DROPPED (10 R244). -/
def ltDropped : Fld := ⟨272, "LT_DROPPED", [⟨false, 0x5030010, []⟩], 31, 0, .rc, (.const 0x0), []⟩

/-- LT_CTRL.TRACE_RUN (10 R244). -/
def ltCtrlTraceRun : Fld := ⟨273, "LT_CTRL.TRACE_RUN", [⟨false, 0x5030014, []⟩], 0, 0, .rw, (.const 0x0), []⟩

/-- FR_STATUS.CONFIGURED (11 R273). -/
def frStatusConfigured : Fld := ⟨274, "FR_STATUS.CONFIGURED", [⟨false, 0x7000000, [(0x1000, 24)]⟩], 0, 0, .ro, (.const 0x0), []⟩

/-- FR_STATUS.FENCED (11 R273). -/
def frStatusFenced : Fld := ⟨275, "FR_STATUS.FENCED", [⟨false, 0x7000000, [(0x1000, 24)]⟩], 1, 1, .ro, (.const 0x1), []⟩

/-- FR_STATUS.STARTED (11 R273). -/
def frStatusStarted : Fld := ⟨276, "FR_STATUS.STARTED", [⟨false, 0x7000000, [(0x1000, 24)]⟩], 2, 2, .ro, (.const 0x0), []⟩

/-- FR_CLKGATE.EN (11 R273). -/
def frClkgateEn : Fld := ⟨277, "FR_CLKGATE.EN", [⟨false, 0x7000004, [(0x1000, 24)]⟩], 15, 0, .rw, (.const 0x0), []⟩

/-- FR_CLKGATED.GATED (11 R273). -/
def frClkgatedGated : Fld := ⟨278, "FR_CLKGATED.GATED", [⟨false, 0x7000008, [(0x1000, 24)]⟩], 15, 0, .ro, (.const 0xFFFF), []⟩

/-- FR_EVENTS.FREQ_HIGH (11 R273). -/
def frEventsFreqHigh : Fld := ⟨279, "FR_EVENTS.FREQ_HIGH", [⟨false, 0x700000C, [(0x1000, 24)]⟩], 0, 0, .w1c, (.const 0x0), []⟩

/-- FR_EVENTS.DEAD_SRC (11 R273). -/
def frEventsDeadSrc : Fld := ⟨280, "FR_EVENTS.DEAD_SRC", [⟨false, 0x700000C, [(0x1000, 24)]⟩], 1, 1, .w1c, (.const 0x0), []⟩

/-- FR_RAM_COLLIDE (11 R273). -/
def frRamCollide : Fld := ⟨281, "FR_RAM_COLLIDE", [⟨false, 0x7000010, [(0x1000, 24)]⟩], 31, 0, .rc, (.const 0x0), []⟩

/-- FR_CLK_k.SRC0 (11 R273). -/
def frClkSrc0 : Fld := ⟨282, "FR_CLK_k.SRC0", [⟨false, 0x7000040, [(0x1000, 24), (0x4, 16)]⟩], 4, 0, .rws, (.const 0x15), [(0, 21)]⟩

/-- FR_CLK_k.SRC1 (11 R273). -/
def frClkSrc1 : Fld := ⟨283, "FR_CLK_k.SRC1", [⟨false, 0x7000040, [(0x1000, 24), (0x4, 16)]⟩], 12, 8, .rws, (.const 0x15), [(0, 21)]⟩

/-- FR_CLK_k.SRC2 (11 R273). -/
def frClkSrc2 : Fld := ⟨284, "FR_CLK_k.SRC2", [⟨false, 0x7000040, [(0x1000, 24), (0x4, 16)]⟩], 20, 16, .rws, (.const 0x15), [(0, 21)]⟩

/-- FR_CLK_k.SRC3 (11 R273). -/
def frClkSrc3 : Fld := ⟨285, "FR_CLK_k.SRC3", [⟨false, 0x7000040, [(0x1000, 24), (0x4, 16)]⟩], 28, 24, .rws, (.const 0x15), [(0, 21)]⟩

/-- FR_CLKSEL_k.SEL (11 R273). -/
def frClkselSel : Fld := ⟨286, "FR_CLKSEL_k.SEL", [⟨false, 0x7000080, [(0x1000, 24), (0x4, 16)]⟩], 1, 0, .rw, (.const 0x0), []⟩

/-- FR_CLKSEL_k.SEL_FABRIC (11 R273). -/
def frClkselSelFabric : Fld := ⟨287, "FR_CLKSEL_k.SEL_FABRIC", [⟨false, 0x7000080, [(0x1000, 24), (0x4, 16)]⟩], 2, 2, .rw, (.const 0x0), []⟩

/-- FR_CLKSEL_k.ACTIVE (11 R273). -/
def frClkselActive : Fld := ⟨288, "FR_CLKSEL_k.ACTIVE", [⟨false, 0x7000080, [(0x1000, 24), (0x4, 16)]⟩], 4, 3, .ro, (.const 0x0), []⟩

/-- FR_CLKSEL_k.SWITCHING (11 R273). -/
def frClkselSwitching : Fld := ⟨289, "FR_CLKSEL_k.SWITCHING", [⟨false, 0x7000080, [(0x1000, 24), (0x4, 16)]⟩], 5, 5, .ro, (.const 0x0), []⟩

/-- FR_CLKSEL_k.DIV (11 R273). -/
def frClkselDiv : Fld := ⟨290, "FR_CLKSEL_k.DIV", [⟨false, 0x7000080, [(0x1000, 24), (0x4, 16)]⟩], 15, 8, .rw, (.const 0x0), []⟩

/-- FR_CLKMON_k.EDGES (11 R273). -/
def frClkmonEdges : Fld := ⟨291, "FR_CLKMON_k.EDGES", [⟨false, 0x70000C0, [(0x1000, 24), (0x4, 16)]⟩], 15, 0, .ro, (.const 0x0), []⟩

/-- FNI_CTRL.EN (11 R273). -/
def fniCtrlEn : Fld := ⟨292, "FNI_CTRL.EN", [⟨false, 0x7600000, [(0x40, 32)]⟩], 0, 0, .rw, (.const 0x0), []⟩

/-- FNI_CTRL.ACCEPT_TARGET (11 R273). -/
def fniCtrlAcceptTarget : Fld := ⟨293, "FNI_CTRL.ACCEPT_TARGET", [⟨false, 0x7600000, [(0x40, 32)]⟩], 1, 1, .rw, (.const 0x0), []⟩

/-- FNI_STATUS.FENCED (11 R273). -/
def fniStatusFenced : Fld := ⟨294, "FNI_STATUS.FENCED", [⟨false, 0x7600004, [(0x40, 32)]⟩], 0, 0, .ro, (.const 0x1), []⟩

/-- FNI_STATUS.OUTSTANDING (11 R273). -/
def fniStatusOutstanding : Fld := ⟨295, "FNI_STATUS.OUTSTANDING", [⟨false, 0x7600004, [(0x40, 32)]⟩], 16, 8, .ro, (.const 0x0), []⟩

/-- FNI_STATUS.SINK_FILL (11 R273). -/
def fniStatusSinkFill : Fld := ⟨296, "FNI_STATUS.SINK_FILL", [⟨false, 0x7600004, [(0x40, 32)]⟩], 21, 17, .ro, (.const 0x0), []⟩

/-- FNI_EVENTS.DISCARDED (11 R273). -/
def fniEventsDiscarded : Fld := ⟨297, "FNI_EVENTS.DISCARDED", [⟨false, 0x7600008, [(0x40, 32)]⟩], 0, 0, .w1c, (.const 0x0), []⟩

/-- FNI_EVENTS.SINK_COLLIDE (11 R273). -/
def fniEventsSinkCollide : Fld := ⟨298, "FNI_EVENTS.SINK_COLLIDE", [⟨false, 0x7600008, [(0x40, 32)]⟩], 1, 1, .w1c, (.const 0x0), []⟩

/-- FNI_EVENTS.MALFORMED (11 R273). -/
def fniEventsMalformed : Fld := ⟨299, "FNI_EVENTS.MALFORMED", [⟨false, 0x7600008, [(0x40, 32)]⟩], 2, 2, .w1c, (.const 0x0), []⟩

/-- FNI_EVENTS.TIMEOUT (11 R273). -/
def fniEventsTimeout : Fld := ⟨300, "FNI_EVENTS.TIMEOUT", [⟨false, 0x7600008, [(0x40, 32)]⟩], 3, 3, .w1c, (.const 0x0), []⟩

/-- FNI_DISCARDED (11 R273). -/
def fniDiscarded : Fld := ⟨301, "FNI_DISCARDED", [⟨false, 0x760000C, [(0x40, 32)]⟩], 31, 0, .rc, (.const 0x0), []⟩

/-- IO_BANK_STATUS.VIO (11 R273). -/
def ioBankStatusVio : Fld := ⟨302, "IO_BANK_STATUS.VIO", [⟨false, 0x7400000, [(0x400, 8)]⟩], 1, 0, .ro, (.const 0x0), []⟩

/-- IO_BANK_STATUS.VIO_DECL (11 R273). -/
def ioBankStatusVioDecl : Fld := ⟨303, "IO_BANK_STATUS.VIO_DECL", [⟨false, 0x7400000, [(0x400, 8)]⟩], 3, 2, .ro, (.const 0x0), []⟩

/-- IO_BANK_STATUS.MISMATCH (11 R273). -/
def ioBankStatusMismatch : Fld := ⟨304, "IO_BANK_STATUS.MISMATCH", [⟨false, 0x7400000, [(0x400, 8)]⟩], 4, 4, .ro, (.const 0x0), []⟩

/-- IO_BANK_STATUS.RELEASED (11 R273). -/
def ioBankStatusReleased : Fld := ⟨305, "IO_BANK_STATUS.RELEASED", [⟨false, 0x7400000, [(0x400, 8)]⟩], 5, 5, .ro, (.const 0x0), []⟩

/-- IO_EVENTS.VIO_MISMATCH (11 R273). -/
def ioEventsVioMismatch : Fld := ⟨306, "IO_EVENTS.VIO_MISMATCH", [⟨false, 0x7400004, [(0x400, 8)]⟩], 0, 0, .w1c, (.const 0x0), []⟩

/-- IO_EVENTS.SLEW_SHORT (11 R273). -/
def ioEventsSlewShort : Fld := ⟨307, "IO_EVENTS.SLEW_SHORT", [⟨false, 0x7400004, [(0x400, 8)]⟩], 1, 1, .w1c, (.const 0x0), []⟩

/-- IO_PIN_i.SLEW (11 R273). -/
def ioPinSlew : Fld := ⟨308, "IO_PIN_i.SLEW", [⟨false, 0x7400100, [(0x400, 8), (0x4, 24)]⟩], 1, 0, .rw, (.const 0x0), []⟩

/-- IO_PIN_i.AUTO (11 R273). -/
def ioPinAuto : Fld := ⟨309, "IO_PIN_i.AUTO", [⟨false, 0x7400100, [(0x400, 8), (0x4, 24)]⟩], 2, 2, .ro, (.const 0x0), []⟩

/-- IO_PIN_i.LOAD_VALID (11 R273). -/
def ioPinLoadValid : Fld := ⟨310, "IO_PIN_i.LOAD_VALID", [⟨false, 0x7400100, [(0x400, 8), (0x4, 24)]⟩], 3, 3, .ro, (.const 0x0), []⟩

/-- IO_PIN_i.LOAD_PF (11 R273). -/
def ioPinLoadPf : Fld := ⟨311, "IO_PIN_i.LOAD_PF", [⟨false, 0x7400100, [(0x400, 8), (0x4, 24)]⟩], 9, 4, .ro, (.const 0x0), []⟩

/-- SL_CTRL.RUN (12 R299). -/
def slCtrlRun : Fld := ⟨312, "SL_CTRL.RUN", [⟨false, 0x8000000, [(0x20000, 64)]⟩], 0, 0, .rw, (.const 0x0), []⟩

/-- SL_STATUS.IDLE (12 R299). -/
def slStatusIdle : Fld := ⟨313, "SL_STATUS.IDLE", [⟨false, 0x8000004, [(0x20000, 64)]⟩], 0, 0, .ro, (.const 0x1), []⟩

/-- SL_STATUS.STOPPED (12 R299). -/
def slStatusStopped : Fld := ⟨314, "SL_STATUS.STOPPED", [⟨false, 0x8000004, [(0x20000, 64)]⟩], 1, 1, .ro, (.const 0x1), []⟩

/-- SL_STATUS.IN_HANDLER (12 R299). -/
def slStatusInHandler : Fld := ⟨315, "SL_STATUS.IN_HANDLER", [⟨false, 0x8000004, [(0x20000, 64)]⟩], 2, 2, .ro, (.const 0x0), []⟩

/-- SL_STATUS.WAITING (12 R299). -/
def slStatusWaiting : Fld := ⟨316, "SL_STATUS.WAITING", [⟨false, 0x8000004, [(0x20000, 64)]⟩], 3, 3, .ro, (.const 0x0), []⟩

/-- SL_STATUS.PC (12 R299). -/
def slStatusPc : Fld := ⟨317, "SL_STATUS.PC", [⟨false, 0x8000004, [(0x20000, 64)]⟩], 26, 16, .ro, (.const 0x0), []⟩

/-- SL_START.PC (12 R299). -/
def slStartPc : Fld := ⟨318, "SL_START.PC", [⟨false, 0x8000008, [(0x20000, 64)]⟩], 10, 0, .rws, (.const 0x0), []⟩

/-- SL_HALT.CAUSE (12 R299). -/
def slHaltCause : Fld := ⟨319, "SL_HALT.CAUSE", [⟨false, 0x800000C, [(0x20000, 64)]⟩], 3, 0, .ro, (.const 0x0), []⟩

/-- SL_HALT.PC (12 R299). -/
def slHaltPc : Fld := ⟨320, "SL_HALT.PC", [⟨false, 0x800000C, [(0x20000, 64)]⟩], 26, 16, .ro, (.const 0x0), []⟩

/-- SL_EVENTS.AOV (12 R299). -/
def slEventsAov : Fld := ⟨321, "SL_EVENTS.AOV", [⟨false, 0x8000010, [(0x20000, 64)]⟩], 0, 0, .w1c, (.const 0x0), []⟩

/-- SL_EVENTS.NSAT (12 R299). -/
def slEventsNsat : Fld := ⟨322, "SL_EVENTS.NSAT", [⟨false, 0x8000010, [(0x20000, 64)]⟩], 1, 1, .w1c, (.const 0x0), []⟩

/-- SL_EVENTS.ILLEGAL (12 R299). -/
def slEventsIllegal : Fld := ⟨323, "SL_EVENTS.ILLEGAL", [⟨false, 0x8000010, [(0x20000, 64)]⟩], 2, 2, .w1c, (.const 0x0), []⟩

/-- SL_EVENTS.DMEM_PARITY (12 R299). -/
def slEventsDmemParity : Fld := ⟨324, "SL_EVENTS.DMEM_PARITY", [⟨false, 0x8000010, [(0x20000, 64)]⟩], 3, 3, .w1c, (.const 0x0), []⟩

/-- SL_EVENTS.EGRESS_DROP (12 R299). -/
def slEventsEgressDrop : Fld := ⟨325, "SL_EVENTS.EGRESS_DROP", [⟨false, 0x8000010, [(0x20000, 64)]⟩], 4, 4, .w1c, (.const 0x0), []⟩

/-- SL_EVENTS.ING_FULL (12 R299). -/
def slEventsIngFull : Fld := ⟨326, "SL_EVENTS.ING_FULL", [⟨false, 0x8000010, [(0x20000, 64)]⟩], 5, 5, .w1c, (.const 0x0), []⟩

/-- SL_EVENTS.XFER_BUSY (12 R299). -/
def slEventsXferBusy : Fld := ⟨327, "SL_EVENTS.XFER_BUSY", [⟨false, 0x8000010, [(0x20000, 64)]⟩], 6, 6, .w1c, (.const 0x0), []⟩

/-- SL_IRQ.ENABLE (12 R299). -/
def slIrqEnable : Fld := ⟨328, "SL_IRQ.ENABLE", [⟨false, 0x8000014, [(0x20000, 64)]⟩], 7, 0, .rw, (.const 0x0), []⟩

/-- SL_IRQ.IE (12 R299). -/
def slIrqIe : Fld := ⟨329, "SL_IRQ.IE", [⟨false, 0x8000014, [(0x20000, 64)]⟩], 8, 8, .rw, (.const 0x0), []⟩

/-- SL_IRQ.PENDING (12 R299). -/
def slIrqPending : Fld := ⟨330, "SL_IRQ.PENDING", [⟨false, 0x8000014, [(0x20000, 64)]⟩], 23, 16, .ro, (.const 0x0), []⟩

/-- SL_IRQ_RAISE.RAISE (12 R299). -/
def slIrqRaiseRaise : Fld := ⟨331, "SL_IRQ_RAISE.RAISE", [⟨false, 0x8000018, [(0x20000, 64)]⟩], 7, 0, .wo, (.const 0x0), []⟩

/-- SL_FLAG_IRQ.MASK (12 R299). -/
def slFlagIrqMask : Fld := ⟨332, "SL_FLAG_IRQ.MASK", [⟨false, 0x800001C, [(0x20000, 64)]⟩], 6, 0, .rw, (.const 0x0), []⟩

/-- SL_CYCLES (12 R299). -/
def slCycles : Fld := ⟨333, "SL_CYCLES", [⟨false, 0x8000020, [(0x20000, 64)]⟩], 31, 0, .ro, (.const 0x0), []⟩

/-- SL_DMEM_ERRS (12 R299). -/
def slDmemErrs : Fld := ⟨334, "SL_DMEM_ERRS", [⟨false, 0x8000024, [(0x20000, 64)]⟩], 31, 0, .rc, (.const 0x0), []⟩

/-- SL_DMEM_COLLIDE (12 R299). -/
def slDmemCollide : Fld := ⟨335, "SL_DMEM_COLLIDE", [⟨false, 0x8000028, [(0x20000, 64)]⟩], 31, 0, .rc, (.const 0x0), []⟩

/-- SL_IRET.PC (12 R299). -/
def slIretPc : Fld := ⟨336, "SL_IRET.PC", [⟨false, 0x800002C, [(0x20000, 64)]⟩], 10, 0, .ro, (.const 0x0), []⟩

/-- SL_IVEC_j.PC (12 R299). -/
def slIvecPc : Fld := ⟨337, "SL_IVEC_j.PC", [⟨false, 0x8000040, [(0x20000, 64), (0x4, 8)]⟩], 10, 0, .rws, (.const 0x0), []⟩

/-- P_k (12 R299). -/
def slP : Fld := ⟨338, "P_k", [⟨false, 0x8000080, [(0x20000, 64), (0x4, 4)]⟩], 15, 0, .rws, (.const 0x0), []⟩

/-- O_k (12 R299). -/
def slO : Fld := ⟨339, "O_k", [⟨false, 0x8000090, [(0x20000, 64), (0x4, 4)]⟩], 15, 0, .rws, (.const 0x0), []⟩

/-- CB_k (12 R299). -/
def slCb : Fld := ⟨340, "CB_k", [⟨false, 0x80000A0, [(0x20000, 64), (0x4, 4)]⟩], 15, 0, .rws, (.const 0x0), []⟩

/-- CL_k (12 R299). -/
def slCl : Fld := ⟨341, "CL_k", [⟨false, 0x80000B0, [(0x20000, 64), (0x4, 4)]⟩], 15, 0, .rws, (.const 0x4), []⟩

/-- CI_k (12 R299). -/
def slCi : Fld := ⟨342, "CI_k", [⟨false, 0x80000C0, [(0x20000, 64), (0x4, 4)]⟩], 15, 0, .rws, (.const 0x0), []⟩

/-- CS_k (12 R299). -/
def slCs : Fld := ⟨343, "CS_k", [⟨false, 0x80000D0, [(0x20000, 64), (0x4, 4)]⟩], 15, 0, .rws, (.const 0x0), []⟩

/-- NSH (12 R299). -/
def slNsh : Fld := ⟨344, "NSH", [⟨false, 0x80000E0, [(0x20000, 64)]⟩], 5, 0, .rws, (.const 0x0), []⟩

/-- SL_ING_BASE (12 R299). -/
def slIngBase : Fld := ⟨345, "SL_ING_BASE", [⟨false, 0x80000E4, [(0x20000, 64)]⟩], 15, 0, .rws, (.const 0x0), []⟩

/-- SL_ING_LEN (12 R299). -/
def slIngLen : Fld := ⟨346, "SL_ING_LEN", [⟨false, 0x80000E8, [(0x20000, 64)]⟩], 16, 0, .rws, (.const 0x400), []⟩

/-- SL_ING_WR (12 R299). -/
def slIngWr : Fld := ⟨347, "SL_ING_WR", [⟨false, 0x80000EC, [(0x20000, 64)]⟩], 15, 0, .ro, (.const 0x0), []⟩

/-- SL_ING_RD (12 R299). -/
def slIngRd : Fld := ⟨348, "SL_ING_RD", [⟨false, 0x80000F0, [(0x20000, 64)]⟩], 15, 0, .rw, (.const 0x0), []⟩

/-- SL_ING_THRESH (12 R299). -/
def slIngThresh : Fld := ⟨349, "SL_ING_THRESH", [⟨false, 0x80000F4, [(0x20000, 64)]⟩], 15, 0, .rw, (.const 0x10), [(1, 65535)]⟩

/-- SL_TIMER (12 R299). -/
def slTimer : Fld := ⟨350, "SL_TIMER", [⟨false, 0x80000F8, [(0x20000, 64)]⟩], 31, 0, .rw, (.const 0x0), []⟩

/-- XFER_k.SRC (12 R299). -/
def xferSrc : Fld := ⟨351, "XFER_k.SRC", [⟨false, 0x8000100, [(0x20000, 64), (0x10, 4)]⟩], 15, 6, .rw, (.const 0x0), []⟩

/-- XFER_k.LEN (12 R299). -/
def xferLen : Fld := ⟨352, "XFER_k.LEN", [⟨false, 0x8000100, [(0x20000, 64), (0x10, 4)]⟩], 26, 16, .rw, (.const 0x1), [(1, 1024)]⟩

/-- XFER_k.MODE (12 R299). -/
def xferMode : Fld := ⟨353, "XFER_k.MODE", [⟨false, 0x8000100, [(0x20000, 64), (0x10, 4)]⟩], 28, 28, .rw, (.const 0x0), []⟩

/-- XFER_k.DST_LO (12 R299). -/
def xferDstLo : Fld := ⟨354, "XFER_k.DST_LO", [⟨false, 0x8000104, [(0x20000, 64), (0x10, 4)]⟩], 31, 6, .rw, (.const 0x0), []⟩

/-- XFER_k.DST_HI (12 R299). -/
def xferDstHi : Fld := ⟨355, "XFER_k.DST_HI", [⟨false, 0x8000108, [(0x20000, 64), (0x10, 4)]⟩], 15, 0, .rw, (.const 0x0), []⟩

/-- XFER_k.STATE (12 R299). -/
def xferState : Fld := ⟨356, "XFER_k.STATE", [⟨false, 0x800010C, [(0x20000, 64), (0x10, 4)]⟩], 1, 0, .ro, (.const 0x0), []⟩

/-- XFER_k.RSP (12 R299). -/
def xferRsp : Fld := ⟨357, "XFER_k.RSP", [⟨false, 0x800010C, [(0x20000, 64), (0x10, 4)]⟩], 15, 8, .ro, (.const 0x0), []⟩

/-- CFG_STATUS.STATE (13 R327). -/
def cfgStatusState : Fld := ⟨358, "CFG_STATUS.STATE", [⟨true, 0x4000000, []⟩], 3, 0, .ro, (.const 0x0), []⟩

/-- CFG_STATUS.DONE_OUT (13 R327). -/
def cfgStatusDoneOut : Fld := ⟨359, "CFG_STATUS.DONE_OUT", [⟨true, 0x4000000, []⟩], 4, 4, .ro, (.const 0x0), []⟩

/-- CFG_STATUS.DONE_IN (13 R327). -/
def cfgStatusDoneIn : Fld := ⟨360, "CFG_STATUS.DONE_IN", [⟨true, 0x4000000, []⟩], 5, 5, .ro, (.const 0x0), []⟩

/-- CFG_STATUS.RETRY_WANTED (13 R327). -/
def cfgStatusRetryWanted : Fld := ⟨361, "CFG_STATUS.RETRY_WANTED", [⟨true, 0x4000000, []⟩], 6, 6, .ro, (.const 0x0), []⟩

/-- CFG_STATUS.WIDE (13 R327). -/
def cfgStatusWide : Fld := ⟨362, "CFG_STATUS.WIDE", [⟨true, 0x4000000, []⟩], 7, 7, .ro, (.const 0x0), []⟩

/-- CFG_STATUS.DIES_CONFIGURED (13 R327). -/
def cfgStatusDiesConfigured : Fld := ⟨363, "CFG_STATUS.DIES_CONFIGURED", [⟨true, 0x4000000, []⟩], 13, 8, .ro, (.const 0x0), []⟩

/-- CFG_STATUS.HARVEST_READY (13 R327). -/
def cfgStatusHarvestReady : Fld := ⟨364, "CFG_STATUS.HARVEST_READY", [⟨true, 0x4000000, []⟩], 14, 14, .ro, (.const 0x0), []⟩

/-- CFG_ERROR.CODE (13 R327). -/
def cfgErrorCode : Fld := ⟨365, "CFG_ERROR.CODE", [⟨true, 0x4000004, []⟩], 7, 0, .ro, (.const 0x0), []⟩

/-- CFG_FAIL_ADDR (13 R327). -/
def cfgFailAddr : Fld := ⟨366, "CFG_FAIL_ADDR", [⟨true, 0x4000008, []⟩], 31, 0, .ro, (.const 0x0), []⟩

/-- CFG_FRAMES_OK.COUNT (13 R327). -/
def cfgFramesOkCount : Fld := ⟨367, "CFG_FRAMES_OK.COUNT", [⟨true, 0x400000C, []⟩], 23, 0, .ro, (.const 0x0), []⟩

/-- CFG_GAP_MAX.CYCLES (13 R327). -/
def cfgGapMaxCycles : Fld := ⟨368, "CFG_GAP_MAX.CYCLES", [⟨true, 0x4000010, []⟩], 31, 0, .rws, (.const 0x1000000), [(4096, 4294967295)]⟩

/-- CFG_DESIGN_ID (13 R327). -/
def cfgDesignId : Fld := ⟨369, "CFG_DESIGN_ID", [⟨true, 0x4000014, []⟩], 31, 0, .ro, (.const 0x0), []⟩

/-- CFG_RETRIES (13 R327). -/
def cfgRetries : Fld := ⟨370, "CFG_RETRIES", [⟨true, 0x4000018, []⟩], 31, 0, .rc, (.const 0x0), []⟩

/-- LN_CTRL.ENABLE (14 R352). -/
def lnCtrlEnable : Fld := ⟨371, "LN_CTRL.ENABLE", [⟨false, 0x6000000, [(0x100, 48)]⟩], 0, 0, .rw, (.const 0x0), []⟩

/-- LN_CTRL.RECAL (14 R352). -/
def lnCtrlRecal : Fld := ⟨372, "LN_CTRL.RECAL", [⟨false, 0x6000000, [(0x100, 48)]⟩], 1, 1, .wo, (.const 0x0), []⟩

/-- LN_CFG.MODE (14 R352). -/
def lnCfgMode : Fld := ⟨373, "LN_CFG.MODE", [⟨false, 0x6000004, [(0x100, 48)]⟩], 1, 0, .rws, (.const 0x0), [(0, 2)]⟩

/-- LN_CFG.RATE_MASK (14 R352). -/
def lnCfgRateMask : Fld := ⟨374, "LN_CFG.RATE_MASK", [⟨false, 0x6000004, [(0x100, 48)]⟩], 8, 2, .rws, (.const 0x7F), []⟩

/-- LN_CFG.BASE_RATE (14 R352). -/
def lnCfgBaseRate : Fld := ⟨375, "LN_CFG.BASE_RATE", [⟨false, 0x6000004, [(0x100, 48)]⟩], 11, 9, .rws, (.const 0x3), [(0, 6)]⟩

/-- LN_CFG.RAW_RATE (14 R352). -/
def lnCfgRawRate : Fld := ⟨376, "LN_CFG.RAW_RATE", [⟨false, 0x6000004, [(0x100, 48)]⟩], 14, 12, .rws, (.const 0x3), [(0, 6)]⟩

/-- LN_CFG.RAW_WIDTH (14 R352). -/
def lnCfgRawWidth : Fld := ⟨377, "LN_CFG.RAW_WIDTH", [⟨false, 0x6000004, [(0x100, 48)]⟩], 16, 15, .rws, (.const 0x1), []⟩

/-- LN_CFG.PRECODE_REQ (14 R352). -/
def lnCfgPrecodeReq : Fld := ⟨378, "LN_CFG.PRECODE_REQ", [⟨false, 0x6000004, [(0x100, 48)]⟩], 17, 17, .rws, (.const 0x0), []⟩

/-- LN_CFG.NO_DETECT (14 R352). -/
def lnCfgNoDetect : Fld := ⟨379, "LN_CFG.NO_DETECT", [⟨false, 0x6000004, [(0x100, 48)]⟩], 18, 18, .rws, (.const 0x0), []⟩

/-- LN_CFG.AUTO_RESTART (14 R352). -/
def lnCfgAutoRestart : Fld := ⟨380, "LN_CFG.AUTO_RESTART", [⟨false, 0x6000004, [(0x100, 48)]⟩], 19, 19, .rws, (.const 0x1), []⟩

/-- LN_CFG.WAKE (14 R352). -/
def lnCfgWake : Fld := ⟨381, "LN_CFG.WAKE", [⟨false, 0x6000004, [(0x100, 48)]⟩], 20, 20, .rws, (.const 0x0), []⟩

/-- LN_CFG.RX_INVERT (14 R352). -/
def lnCfgRxInvert : Fld := ⟨382, "LN_CFG.RX_INVERT", [⟨false, 0x6000004, [(0x100, 48)]⟩], 21, 21, .rws, (.const 0x0), []⟩

/-- LN_CFG.TX_INVERT (14 R352). -/
def lnCfgTxInvert : Fld := ⟨383, "LN_CFG.TX_INVERT", [⟨false, 0x6000004, [(0x100, 48)]⟩], 22, 22, .rws, (.const 0x0), []⟩

/-- LN_STATUS.STATE (14 R352). -/
def lnStatusState : Fld := ⟨384, "LN_STATUS.STATE", [⟨false, 0x6000008, [(0x100, 48)]⟩], 3, 0, .ro, (.const 0x0), []⟩

/-- LN_STATUS.RATE (14 R352). -/
def lnStatusRate : Fld := ⟨385, "LN_STATUS.RATE", [⟨false, 0x6000008, [(0x100, 48)]⟩], 6, 4, .ro, (.const 0x0), []⟩

/-- LN_STATUS.PRECODE_TX (14 R352). -/
def lnStatusPrecodeTx : Fld := ⟨386, "LN_STATUS.PRECODE_TX", [⟨false, 0x6000008, [(0x100, 48)]⟩], 7, 7, .ro, (.const 0x0), []⟩

/-- LN_STATUS.PRECODE_RX (14 R352). -/
def lnStatusPrecodeRx : Fld := ⟨387, "LN_STATUS.PRECODE_RX", [⟨false, 0x6000008, [(0x100, 48)]⟩], 8, 8, .ro, (.const 0x0), []⟩

/-- LN_STATUS.LOS (14 R352). -/
def lnStatusLos : Fld := ⟨388, "LN_STATUS.LOS", [⟨false, 0x6000008, [(0x100, 48)]⟩], 9, 9, .ro, (.const 0x0), []⟩

/-- LN_STATUS.LOL (14 R352). -/
def lnStatusLol : Fld := ⟨389, "LN_STATUS.LOL", [⟨false, 0x6000008, [(0x100, 48)]⟩], 10, 10, .ro, (.const 0x0), []⟩

/-- LN_STATUS.BLOCK_LOCK (14 R352). -/
def lnStatusBlockLock : Fld := ⟨390, "LN_STATUS.BLOCK_LOCK", [⟨false, 0x6000008, [(0x100, 48)]⟩], 11, 11, .ro, (.const 0x0), []⟩

/-- LN_STATUS.FAILED_MASK (14 R352). -/
def lnStatusFailedMask : Fld := ⟨391, "LN_STATUS.FAILED_MASK", [⟨false, 0x6000008, [(0x100, 48)]⟩], 18, 12, .ro, (.const 0x0), []⟩

/-- LN_STATUS.REF_OK (14 R352). -/
def lnStatusRefOk : Fld := ⟨392, "LN_STATUS.REF_OK", [⟨false, 0x6000008, [(0x100, 48)]⟩], 19, 19, .ro, (.const 0x0), []⟩

/-- LN_PARTNER (14 R352). -/
def lnPartner : Fld := ⟨393, "LN_PARTNER", [⟨false, 0x600000C, [(0x100, 48)]⟩], 31, 0, .ro, (.const 0x0), []⟩

/-- LN_LOSS.DB_X2 (14 R352). -/
def lnLossDbX2 : Fld := ⟨394, "LN_LOSS.DB_X2", [⟨false, 0x6000010, [(0x100, 48)]⟩], 7, 0, .ro, (.const 0xFF), []⟩

/-- LN_EVENTS.LOS (14 R352). -/
def lnEventsLos : Fld := ⟨395, "LN_EVENTS.LOS", [⟨false, 0x6000014, [(0x100, 48)]⟩], 0, 0, .w1c, (.const 0x0), []⟩

/-- LN_EVENTS.LOL (14 R352). -/
def lnEventsLol : Fld := ⟨396, "LN_EVENTS.LOL", [⟨false, 0x6000014, [(0x100, 48)]⟩], 1, 1, .w1c, (.const 0x0), []⟩

/-- LN_EVENTS.BLOCK_LOST (14 R352). -/
def lnEventsBlockLost : Fld := ⟨397, "LN_EVENTS.BLOCK_LOST", [⟨false, 0x6000014, [(0x100, 48)]⟩], 2, 2, .w1c, (.const 0x0), []⟩

/-- LN_EVENTS.TRAIN_FAIL (14 R352). -/
def lnEventsTrainFail : Fld := ⟨398, "LN_EVENTS.TRAIN_FAIL", [⟨false, 0x6000014, [(0x100, 48)]⟩], 3, 3, .w1c, (.const 0x0), []⟩

/-- LN_EVENTS.STEP_DOWN (14 R352). -/
def lnEventsStepDown : Fld := ⟨399, "LN_EVENTS.STEP_DOWN", [⟨false, 0x6000014, [(0x100, 48)]⟩], 4, 4, .w1c, (.const 0x0), []⟩

/-- LN_EVENTS.RX_OVERFLOW (14 R352). -/
def lnEventsRxOverflow : Fld := ⟨400, "LN_EVENTS.RX_OVERFLOW", [⟨false, 0x6000014, [(0x100, 48)]⟩], 5, 5, .w1c, (.const 0x0), []⟩

/-- LN_EVENTS.RECAL_REFUSED (14 R352). -/
def lnEventsRecalRefused : Fld := ⟨401, "LN_EVENTS.RECAL_REFUSED", [⟨false, 0x6000014, [(0x100, 48)]⟩], 6, 6, .w1c, (.const 0x0), []⟩

/-- LN_EVENTS.CFG_REFUSED (14 R352). -/
def lnEventsCfgRefused : Fld := ⟨402, "LN_EVENTS.CFG_REFUSED", [⟨false, 0x6000014, [(0x100, 48)]⟩], 7, 7, .w1c, (.const 0x0), []⟩

/-- LN_EVENTS.ACTIVE (14 R352). -/
def lnEventsActive : Fld := ⟨403, "LN_EVENTS.ACTIVE", [⟨false, 0x6000014, [(0x100, 48)]⟩], 8, 8, .w1c, (.const 0x0), []⟩

/-- LN_HDR_ERRS (14 R352). -/
def lnHdrErrs : Fld := ⟨404, "LN_HDR_ERRS", [⟨false, 0x6000018, [(0x100, 48)]⟩], 31, 0, .rc, (.const 0x0), []⟩

/-- LN_SLIPS (14 R352). -/
def lnSlips : Fld := ⟨405, "LN_SLIPS", [⟨false, 0x600001C, [(0x100, 48)]⟩], 31, 0, .rc, (.const 0x0), []⟩

/-- LN_LOS_THRESH.MV10 (14 R352). -/
def lnLosThreshMv10 : Fld := ⟨406, "LN_LOS_THRESH.MV10", [⟨false, 0x6000020, [(0x100, 48)]⟩], 5, 0, .rw, (.const 0x8), [(2, 40)]⟩

/-- LN_TIMERS.TRAIN_MS (14 R352). -/
def lnTimersTrainMs : Fld := ⟨407, "LN_TIMERS.TRAIN_MS", [⟨false, 0x6000024, [(0x100, 48)]⟩], 7, 0, .rws, (.const 0x64), [(1, 255)]⟩

/-- LN_TIMERS.CAPS_MS (14 R352). -/
def lnTimersCapsMs : Fld := ⟨408, "LN_TIMERS.CAPS_MS", [⟨false, 0x6000024, [(0x100, 48)]⟩], 15, 8, .rws, (.const 0xA), [(1, 255)]⟩

/-- LN_TIMERS.RESTART_US (14 R352). -/
def lnTimersRestartUs : Fld := ⟨409, "LN_TIMERS.RESTART_US", [⟨false, 0x6000024, [(0x100, 48)]⟩], 31, 16, .rws, (.const 0x3E8), []⟩

/-- FP_CTRL.EN (14 R353). -/
def fpCtrlEn : Fld := ⟨410, "FP_CTRL.EN", [⟨false, 0x6040000, [(0x100, 6)]⟩], 0, 0, .rw, (.const 0x0), []⟩

/-- FP_CTRL.TAP_EN (14 R353). -/
def fpCtrlTapEn : Fld := ⟨411, "FP_CTRL.TAP_EN", [⟨false, 0x6040000, [(0x100, 6)]⟩], 1, 1, .rws, (.const 0x0), []⟩

/-- FP_CTRL.LANES (14 R353). -/
def fpCtrlLanes : Fld := ⟨412, "FP_CTRL.LANES", [⟨false, 0x6040000, [(0x100, 6)]⟩], 3, 2, .rws, (.const 0x0), []⟩

/-- FP_SHAPE.LINE_WORDS (14 R353). -/
def fpShapeLineWords : Fld := ⟨413, "FP_SHAPE.LINE_WORDS", [⟨false, 0x6040004, [(0x100, 6)]⟩], 15, 0, .rws, (.const 0x1), [(1, 65535)]⟩

/-- FP_SHAPE.LINES (14 R353). -/
def fpShapeLines : Fld := ⟨414, "FP_SHAPE.LINES", [⟨false, 0x6040004, [(0x100, 6)]⟩], 31, 16, .rws, (.const 0x1), [(1, 65535)]⟩

/-- FP_BUF_BASE_LO (14 R353). -/
def fpBufBaseLo : Fld := ⟨415, "FP_BUF_BASE_LO", [⟨false, 0x6040008, [(0x100, 6)]⟩], 31, 6, .rws, (.const 0x0), []⟩

/-- FP_BUF_BASE_HI (14 R353). -/
def fpBufBaseHi : Fld := ⟨416, "FP_BUF_BASE_HI", [⟨false, 0x604000C, [(0x100, 6)]⟩], 15, 0, .rws, (.const 0x0), []⟩

/-- FP_BUF_STRIDE (14 R353). -/
def fpBufStride : Fld := ⟨417, "FP_BUF_STRIDE", [⟨false, 0x6040010, [(0x100, 6)]⟩], 31, 6, .rws, (.const 0x0), []⟩

/-- FP_BUF_COUNT (14 R353). -/
def fpBufCount : Fld := ⟨418, "FP_BUF_COUNT", [⟨false, 0x6040014, [(0x100, 6)]⟩], 4, 0, .rws, (.const 0x0), [(0, 16)]⟩

/-- FP_WR (14 R353). -/
def fpWr : Fld := ⟨419, "FP_WR", [⟨false, 0x6040018, [(0x100, 6)]⟩], 15, 0, .ro, (.const 0x0), []⟩

/-- FP_RD (14 R353). -/
def fpRd : Fld := ⟨420, "FP_RD", [⟨false, 0x604001C, [(0x100, 6)]⟩], 15, 0, .rw, (.const 0x0), []⟩

/-- FP_EVENT.MAILBOX (14 R353). -/
def fpEventMailbox : Fld := ⟨421, "FP_EVENT.MAILBOX", [⟨false, 0x6040020, [(0x100, 6)]⟩], 15, 0, .rw, (.const 0x0), []⟩

/-- FP_EVENT.TAG (14 R353). -/
def fpEventTag : Fld := ⟨422, "FP_EVENT.TAG", [⟨false, 0x6040020, [(0x100, 6)]⟩], 31, 16, .rw, (.const 0x0), []⟩

/-- FP_STATUS.IDLE (14 R353). -/
def fpStatusIdle : Fld := ⟨423, "FP_STATUS.IDLE", [⟨false, 0x6040024, [(0x100, 6)]⟩], 0, 0, .ro, (.const 0x1), []⟩

/-- FP_STATUS.IN_FRAME (14 R353). -/
def fpStatusInFrame : Fld := ⟨424, "FP_STATUS.IN_FRAME", [⟨false, 0x6040024, [(0x100, 6)]⟩], 1, 1, .ro, (.const 0x0), []⟩

/-- FP_STATUS.ALIGNED (14 R353). -/
def fpStatusAligned : Fld := ⟨425, "FP_STATUS.ALIGNED", [⟨false, 0x6040024, [(0x100, 6)]⟩], 2, 2, .ro, (.const 0x0), []⟩

/-- FP_EVENTS.CRC_FAIL (14 R353). -/
def fpEventsCrcFail : Fld := ⟨426, "FP_EVENTS.CRC_FAIL", [⟨false, 0x6040028, [(0x100, 6)]⟩], 0, 0, .w1c, (.const 0x0), []⟩

/-- FP_EVENTS.SHAPE (14 R353). -/
def fpEventsShape : Fld := ⟨427, "FP_EVENTS.SHAPE", [⟨false, 0x6040028, [(0x100, 6)]⟩], 1, 1, .w1c, (.const 0x0), []⟩

/-- FP_EVENTS.OVERFLOW (14 R353). -/
def fpEventsOverflow : Fld := ⟨428, "FP_EVENTS.OVERFLOW", [⟨false, 0x6040028, [(0x100, 6)]⟩], 2, 2, .w1c, (.const 0x0), []⟩

/-- FP_EVENTS.OVERRUN (14 R353). -/
def fpEventsOverrun : Fld := ⟨429, "FP_EVENTS.OVERRUN", [⟨false, 0x6040028, [(0x100, 6)]⟩], 3, 3, .w1c, (.const 0x0), []⟩

/-- FP_EVENTS.LOCK_LOST (14 R353). -/
def fpEventsLockLost : Fld := ⟨430, "FP_EVENTS.LOCK_LOST", [⟨false, 0x6040028, [(0x100, 6)]⟩], 4, 4, .w1c, (.const 0x0), []⟩

/-- FP_EVENTS.DESKEW (14 R353). -/
def fpEventsDeskew : Fld := ⟨431, "FP_EVENTS.DESKEW", [⟨false, 0x6040028, [(0x100, 6)]⟩], 5, 5, .w1c, (.const 0x0), []⟩

/-- FP_EVENTS.CFG_REFUSED (14 R353). -/
def fpEventsCfgRefused : Fld := ⟨432, "FP_EVENTS.CFG_REFUSED", [⟨false, 0x6040028, [(0x100, 6)]⟩], 6, 6, .w1c, (.const 0x0), []⟩

/-- FP_FRAMES (14 R353). -/
def fpFrames : Fld := ⟨433, "FP_FRAMES", [⟨false, 0x604002C, [(0x100, 6)]⟩], 31, 0, .ro, (.const 0x0), []⟩

/-- FP_OVERRUNS (14 R353). -/
def fpOverruns : Fld := ⟨434, "FP_OVERRUNS", [⟨false, 0x6040030, [(0x100, 6)]⟩], 31, 0, .rc, (.const 0x0), []⟩

/-- FP_BAD (14 R353). -/
def fpBad : Fld := ⟨435, "FP_BAD", [⟨false, 0x6040034, [(0x100, 6)]⟩], 31, 0, .rc, (.const 0x0), []⟩

/-- HL_CTRL.RUN (15 R375). -/
def hlCtrlRun : Fld := ⟨436, "HL_CTRL.RUN", [⟨true, 0x1000000, []⟩], 0, 0, .rw, (.const 0x0), []⟩

/-- HL_CTRL.U1U2_EN (15 R375). -/
def hlCtrlU1u2En : Fld := ⟨437, "HL_CTRL.U1U2_EN", [⟨true, 0x1000000, []⟩], 1, 1, .rw, (.const 0x0), []⟩

/-- HL_STATUS.ATTACHED (15 R375). -/
def hlStatusAttached : Fld := ⟨438, "HL_STATUS.ATTACHED", [⟨true, 0x1000004, []⟩], 0, 0, .ro, (.const 0x0), []⟩

/-- HL_STATUS.HOST_ABSENT (15 R375). -/
def hlStatusHostAbsent : Fld := ⟨439, "HL_STATUS.HOST_ABSENT", [⟨true, 0x1000004, []⟩], 1, 1, .ro, (.const 0x0), []⟩

/-- HL_STATUS.RINGS_IDLE (15 R375). -/
def hlStatusRingsIdle : Fld := ⟨440, "HL_STATUS.RINGS_IDLE", [⟨true, 0x1000004, []⟩], 2, 2, .ro, (.const 0x1), []⟩

/-- HL_STATUS.STOPPED (15 R375). -/
def hlStatusStopped : Fld := ⟨441, "HL_STATUS.STOPPED", [⟨true, 0x1000004, []⟩], 3, 3, .ro, (.const 0x1), []⟩

/-- HL_STATUS.SPEED (15 R375). -/
def hlStatusSpeed : Fld := ⟨442, "HL_STATUS.SPEED", [⟨true, 0x1000004, []⟩], 6, 4, .ro, (.const 0x0), []⟩

/-- HL_STATUS.HELD (15 R375). -/
def hlStatusHeld : Fld := ⟨443, "HL_STATUS.HELD", [⟨true, 0x1000004, []⟩], 28, 16, .ro, (.const 0x0), []⟩

/-- HL_PROXY_TIMEOUT.MS (15 R375). -/
def hlProxyTimeoutMs : Fld := ⟨444, "HL_PROXY_TIMEOUT.MS", [⟨true, 0x1000008, []⟩], 12, 0, .rw, (.const 0xC8), [(20, 5000)]⟩

/-- HL_STREAM_GRACE.FRAMES (15 R375). -/
def hlStreamGraceFrames : Fld := ⟨445, "HL_STREAM_GRACE.FRAMES", [⟨true, 0x100000C, []⟩], 15, 0, .rw, (.const 0x0), []⟩

/-- HL_ABSENT_MS (15 R375). -/
def hlAbsentMs : Fld := ⟨446, "HL_ABSENT_MS", [⟨true, 0x1000010, []⟩], 31, 0, .ro, (.const 0x0), []⟩

/-- HL_HELD_LOST (15 R375). -/
def hlHeldLost : Fld := ⟨447, "HL_HELD_LOST", [⟨true, 0x1000014, []⟩], 31, 0, .rc, (.const 0x0), []⟩

/-- HL_EVENTS.HOST_ABSENT (15 R375). -/
def hlEventsHostAbsent : Fld := ⟨448, "HL_EVENTS.HOST_ABSENT", [⟨true, 0x1000018, []⟩], 0, 0, .w1c, (.const 0x0), []⟩

/-- HL_EVENTS.BAD_DOORBELL (15 R375). -/
def hlEventsBadDoorbell : Fld := ⟨449, "HL_EVENTS.BAD_DOORBELL", [⟨true, 0x1000018, []⟩], 1, 1, .w1c, (.const 0x0), []⟩

/-- HL_EVENTS.BAD_RESPONSE (15 R375). -/
def hlEventsBadResponse : Fld := ⟨450, "HL_EVENTS.BAD_RESPONSE", [⟨true, 0x1000018, []⟩], 2, 2, .w1c, (.const 0x0), []⟩

/-- HL_EVENTS.RING_NO_WINDOW (15 R375). -/
def hlEventsRingNoWindow : Fld := ⟨451, "HL_EVENTS.RING_NO_WINDOW", [⟨true, 0x1000018, []⟩], 3, 3, .w1c, (.const 0x0), []⟩

/-- HL_EVENTS.HELD_OVERFLOW (15 R375). -/
def hlEventsHeldOverflow : Fld := ⟨452, "HL_EVENTS.HELD_OVERFLOW", [⟨true, 0x1000018, []⟩], 4, 4, .w1c, (.const 0x0), []⟩

/-- HL_EVENTS.BUS_RESET (15 R375). -/
def hlEventsBusReset : Fld := ⟨453, "HL_EVENTS.BUS_RESET", [⟨true, 0x1000018, []⟩], 5, 5, .w1c, (.const 0x0), []⟩

/-- HL_ARB_RANK.RING (15 R375). -/
def hlArbRankRing : Fld := ⟨454, "HL_ARB_RANK.RING", [⟨true, 0x1000020, []⟩], 2, 0, .rw, (.const 0x6), []⟩

/-- HL_ARB_RANK.ALMANAC (15 R375). -/
def hlArbRankAlmanac : Fld := ⟨455, "HL_ARB_RANK.ALMANAC", [⟨true, 0x1000020, []⟩], 6, 4, .rw, (.const 0x5), []⟩

/-- HL_ARB_RANK.XFER (15 R375). -/
def hlArbRankXfer : Fld := ⟨456, "HL_ARB_RANK.XFER", [⟨true, 0x1000020, []⟩], 10, 8, .rw, (.const 0x4), []⟩

/-- HL_ARB_RANK.HEALTH (15 R375). -/
def hlArbRankHealth : Fld := ⟨457, "HL_ARB_RANK.HEALTH", [⟨true, 0x1000020, []⟩], 14, 12, .rw, (.const 0x2), []⟩

/-- HL_ARB_HOLD.HOLD_MAX (15 R375). -/
def hlArbHoldHoldMax : Fld := ⟨458, "HL_ARB_HOLD.HOLD_MAX", [⟨true, 0x1000024, []⟩], 15, 0, .rw, (.const 0x200), [(16, 65535)]⟩

/-- HL_CUTOFF.ID (15 R375). -/
def hlCutoffId : Fld := ⟨459, "HL_CUTOFF.ID", [⟨true, 0x1000028, []⟩], 15, 0, .ro, (.const 0x0), []⟩

/-- HL_CUTOFF.VALID (15 R375). -/
def hlCutoffValid : Fld := ⟨460, "HL_CUTOFF.VALID", [⟨true, 0x1000028, []⟩], 16, 16, .w1c, (.const 0x0), []⟩

/-- HL_WIN_w.VALID (15 R375). -/
def hlWinValid : Fld := ⟨461, "HL_WIN_w.VALID", [⟨true, 0x1000100, [(0x4, 16)]⟩], 0, 0, .ro, (.const 0x0), []⟩

/-- HL_WIN_w.READ (15 R375). -/
def hlWinRead : Fld := ⟨462, "HL_WIN_w.READ", [⟨true, 0x1000100, [(0x4, 16)]⟩], 1, 1, .ro, (.const 0x0), []⟩

/-- HL_WIN_w.WRITE (15 R375). -/
def hlWinWrite : Fld := ⟨463, "HL_WIN_w.WRITE", [⟨true, 0x1000100, [(0x4, 16)]⟩], 2, 2, .ro, (.const 0x0), []⟩

/-- HL_WIN_w.SIZE_4K (15 R375). -/
def hlWinSize4k : Fld := ⟨464, "HL_WIN_w.SIZE_4K", [⟨true, 0x1000100, [(0x4, 16)]⟩], 28, 8, .ro, (.const 0x0), []⟩

/-- SQ_r.OFF (15 R375). -/
def sqOff : Fld := ⟨465, "SQ_r.OFF", [⟨true, 0x1000400, [(0x10, 64)]⟩], 31, 6, .rws, (.const 0x0), []⟩

/-- SQ_r.WIN (15 R375). -/
def sqWin : Fld := ⟨466, "SQ_r.WIN", [⟨true, 0x1000404, [(0x10, 64)]⟩], 3, 0, .rws, (.const 0x0), []⟩

/-- SQ_r.LOG2 (15 R375). -/
def sqLog2 : Fld := ⟨467, "SQ_r.LOG2", [⟨true, 0x1000404, [(0x10, 64)]⟩], 12, 8, .rws, (.const 0x6), [(6, 16)]⟩

/-- SQ_r.EN (15 R375). -/
def sqEn : Fld := ⟨468, "SQ_r.EN", [⟨true, 0x1000404, [(0x10, 64)]⟩], 16, 16, .rw, (.const 0x0), []⟩

/-- SQ_r.TAIL (15 R375). -/
def sqTail : Fld := ⟨469, "SQ_r.TAIL", [⟨true, 0x1000408, [(0x10, 64)]⟩], 31, 0, .ro, (.const 0x0), []⟩

/-- SQ_r.HEAD (15 R375). -/
def sqHead : Fld := ⟨470, "SQ_r.HEAD", [⟨true, 0x100040C, [(0x10, 64)]⟩], 31, 0, .ro, (.const 0x0), []⟩

/-- CQ_r.OFF (15 R375). -/
def cqOff : Fld := ⟨471, "CQ_r.OFF", [⟨true, 0x1000800, [(0x10, 64)]⟩], 31, 6, .rws, (.const 0x0), []⟩

/-- CQ_r.WIN (15 R375). -/
def cqWin : Fld := ⟨472, "CQ_r.WIN", [⟨true, 0x1000804, [(0x10, 64)]⟩], 3, 0, .rws, (.const 0x0), []⟩

/-- CQ_r.LOG2 (15 R375). -/
def cqLog2 : Fld := ⟨473, "CQ_r.LOG2", [⟨true, 0x1000804, [(0x10, 64)]⟩], 12, 8, .rws, (.const 0x6), [(6, 16)]⟩

/-- CQ_r.EN (15 R375). -/
def cqEn : Fld := ⟨474, "CQ_r.EN", [⟨true, 0x1000804, [(0x10, 64)]⟩], 16, 16, .rw, (.const 0x0), []⟩

/-- CQ_r.EVENT_EN (15 R375). -/
def cqEventEn : Fld := ⟨475, "CQ_r.EVENT_EN", [⟨true, 0x1000804, [(0x10, 64)]⟩], 17, 17, .rw, (.const 0x0), []⟩

/-- CQ_r.TAIL (15 R375). -/
def cqTail : Fld := ⟨476, "CQ_r.TAIL", [⟨true, 0x1000808, [(0x10, 64)]⟩], 31, 0, .ro, (.const 0x0), []⟩

/-- CQ_r.HEAD (15 R375). -/
def cqHead : Fld := ⟨477, "CQ_r.HEAD", [⟨true, 0x100080C, [(0x10, 64)]⟩], 31, 0, .ro, (.const 0x0), []⟩

/-- FW_CTRL.RESTART (16 R393). -/
def fwCtrlRestart : Fld := ⟨478, "FW_CTRL.RESTART", [⟨true, 0x2000000, [(0x1000, 4)]⟩, ⟨false, 0x9000000, [(0x1000, 1)]⟩], 0, 0, .wo, (.const 0x0), []⟩

/-- FW_CTRL.RELEASE_HOLD (16 R393). -/
def fwCtrlReleaseHold : Fld := ⟨479, "FW_CTRL.RELEASE_HOLD", [⟨true, 0x2000000, [(0x1000, 4)]⟩, ⟨false, 0x9000000, [(0x1000, 1)]⟩], 1, 1, .wo, (.const 0x0), []⟩

/-- FW_STATUS.STATE (16 R393). -/
def fwStatusState : Fld := ⟨480, "FW_STATUS.STATE", [⟨true, 0x2000004, [(0x1000, 4)]⟩, ⟨false, 0x9000004, [(0x1000, 1)]⟩], 2, 0, .ro, (.const 0x0), []⟩

/-- FW_STATUS.READY (16 R393). -/
def fwStatusReady : Fld := ⟨481, "FW_STATUS.READY", [⟨true, 0x2000004, [(0x1000, 4)]⟩, ⟨false, 0x9000004, [(0x1000, 1)]⟩], 3, 3, .rw, (.const 0x0), []⟩

/-- FW_STATUS.SLOT (16 R393). -/
def fwStatusSlot : Fld := ⟨482, "FW_STATUS.SLOT", [⟨true, 0x2000004, [(0x1000, 4)]⟩, ⟨false, 0x9000004, [(0x1000, 1)]⟩], 4, 4, .ro, (.const 0x0), []⟩

/-- FW_STATUS.FAIL (16 R393). -/
def fwStatusFail : Fld := ⟨483, "FW_STATUS.FAIL", [⟨true, 0x2000004, [(0x1000, 4)]⟩, ⟨false, 0x9000004, [(0x1000, 1)]⟩], 7, 5, .ro, (.const 0x0), []⟩

/-- FW_VERSION (16 R393). -/
def fwVersion : Fld := ⟨484, "FW_VERSION", [⟨true, 0x2000008, [(0x1000, 4)]⟩, ⟨false, 0x9000008, [(0x1000, 1)]⟩], 31, 0, .ro, (.const 0x0), []⟩

/-- FW_RESTARTS (16 R393). -/
def fwRestarts : Fld := ⟨485, "FW_RESTARTS", [⟨true, 0x200000C, [(0x1000, 4)]⟩, ⟨false, 0x900000C, [(0x1000, 1)]⟩], 31, 0, .rc, (.const 0x0), []⟩

/-- FW_WDT.MS (16 R393). -/
def fwWdtMs : Fld := ⟨486, "FW_WDT.MS", [⟨true, 0x2000010, [(0x1000, 4)]⟩, ⟨false, 0x9000010, [(0x1000, 1)]⟩], 9, 0, .rw, (.const 0x64), [(1, 1000)]⟩

/-- FW_KICK (16 R393). -/
def fwKick : Fld := ⟨487, "FW_KICK", [⟨true, 0x2000014, [(0x1000, 4)]⟩, ⟨false, 0x9000014, [(0x1000, 1)]⟩], 31, 0, .wo, (.const 0x0), []⟩

/-- FW_TRACE (16 R393). -/
def fwTrace : Fld := ⟨488, "FW_TRACE", [⟨true, 0x2000018, [(0x1000, 4)]⟩, ⟨false, 0x9000018, [(0x1000, 1)]⟩], 31, 0, .wo, (.const 0x0), []⟩

/-- MB_DATA_0..15 (16 R394). -/
def mbData : Fld := ⟨489, "MB_DATA_0..15", [⟨true, 0x3000000, [(0x80, 32), (0x4, 16)]⟩, ⟨false, 0x9001000, [(0x80, 8), (0x4, 16)]⟩], 31, 0, .ro, (.const 0x0), []⟩

/-- MB_STATUS.FULL (16 R394). -/
def mbStatusFull : Fld := ⟨490, "MB_STATUS.FULL", [⟨true, 0x3000040, [(0x80, 32)]⟩, ⟨false, 0x9001040, [(0x80, 8)]⟩], 0, 0, .ro, (.const 0x0), []⟩

/-- MB_STATUS.COLLIDE (16 R394). -/
def mbStatusCollide : Fld := ⟨491, "MB_STATUS.COLLIDE", [⟨true, 0x3000040, [(0x80, 32)]⟩, ⟨false, 0x9001040, [(0x80, 8)]⟩], 1, 1, .w1c, (.const 0x0), []⟩

/-- MB_STATUS.OPEN (16 R394). -/
def mbStatusOpen : Fld := ⟨492, "MB_STATUS.OPEN", [⟨true, 0x3000040, [(0x80, 32)]⟩, ⟨false, 0x9001040, [(0x80, 8)]⟩], 2, 2, .ro, (.const 0x0), []⟩

/-- MB_STATUS.SENDER (16 R394). -/
def mbStatusSender : Fld := ⟨493, "MB_STATUS.SENDER", [⟨true, 0x3000040, [(0x80, 32)]⟩, ⟨false, 0x9001040, [(0x80, 8)]⟩], 31, 16, .ro, (.const 0x0), []⟩

/-- MB_OVERWRITES (16 R394). -/
def mbOverwrites : Fld := ⟨494, "MB_OVERWRITES", [⟨true, 0x3000044, [(0x80, 32)]⟩, ⟨false, 0x9001044, [(0x80, 8)]⟩], 31, 0, .rc, (.const 0x0), []⟩

/-- MB_OPEN (16 R394). -/
def mbOpen : Fld := ⟨495, "MB_OPEN", [⟨true, 0x3001000, []⟩, ⟨false, 0x9001400, []⟩], 31, 0, .rw, (.const 0x0), []⟩

/-- MB_DOORBELL (16 R394). -/
def mbDoorbell : Fld := ⟨496, "MB_DOORBELL", [⟨true, 0x3001004, []⟩, ⟨false, 0x9001404, []⟩], 31, 0, .w1c, (.const 0x0), []⟩

/-- MB_DOORBELL_EN (16 R394). -/
def mbDoorbellEn : Fld := ⟨497, "MB_DOORBELL_EN", [⟨true, 0x3001008, []⟩, ⟨false, 0x9001408, []⟩], 31, 0, .rw, (.const 0x0), []⟩

/-- MB_SEND_s.DATA_0..15 (16 R394). -/
def mbSendData : Fld := ⟨498, "MB_SEND_s.DATA_0..15", [⟨true, 0x3002000, [(0x80, 2), (0x4, 16)]⟩], 31, 0, .wo, (.const 0x0), []⟩

/-- MB_SEND_s.DEST (16 R394). -/
def mbSendDest : Fld := ⟨499, "MB_SEND_s.DEST", [⟨true, 0x3002040, [(0x80, 2)]⟩], 15, 0, .rw, (.const 0x0), []⟩

/-- MB_SEND_s.STATE (16 R394). -/
def mbSendState : Fld := ⟨500, "MB_SEND_s.STATE", [⟨true, 0x3002044, [(0x80, 2)]⟩], 1, 0, .ro, (.const 0x0), []⟩

/-- KEY_STATUS.INT_KEY_PRESENT (16 R395). -/
def keyStatusIntKeyPresent : Fld := ⟨501, "KEY_STATUS.INT_KEY_PRESENT", [⟨true, 0x7000000, []⟩], 0, 0, .ro, .intKeyPresent, []⟩

/-- FW_RELEASE_REF (16 R395). -/
def fwReleaseRef : Fld := ⟨502, "FW_RELEASE_REF", [⟨true, 0x7000004, []⟩], 31, 0, .ro, (.const 0x0), []⟩

/-- HOST_VERSION (16 R395). -/
def hostVersion : Fld := ⟨503, "HOST_VERSION", [⟨true, 0x7000008, []⟩], 31, 0, .ro, (.const 0x0), []⟩

/-- FW_UPDATE_STATUS.STATE (16 R395). -/
def fwUpdateStatusState : Fld := ⟨504, "FW_UPDATE_STATUS.STATE", [⟨true, 0x700000C, []⟩], 1, 0, .ro, (.const 0x0), []⟩

/-- FW_UPDATE_STATUS.REASON (16 R395). -/
def fwUpdateStatusReason : Fld := ⟨505, "FW_UPDATE_STATUS.REASON", [⟨true, 0x700000C, []⟩], 15, 8, .ro, (.const 0x0), []⟩

/-- DIGEST_p word w (16 R395). -/
def digest : Fld := ⟨506, "DIGEST_p word w", [⟨true, 0x7000040, [(0x40, 10), (0x4, 16)]⟩], 31, 0, .ro, (.const 0x0), []⟩

/-- ID_PUB word w (16 R395). -/
def idPub : Fld := ⟨507, "ID_PUB word w", [⟨true, 0x7000300, [(0x4, 8)]⟩], 31, 0, .ro, .idPub, []⟩

/-- INT_KEY word w (16 R395). -/
def intKey : Fld := ⟨508, "INT_KEY word w", [⟨true, 0x7000320, [(0x4, 8)]⟩], 31, 0, .rw, (.const 0x0), []⟩

/-- INT_KEY_CTRL.FUSE (16 R395). -/
def intKeyCtrlFuse : Fld := ⟨509, "INT_KEY_CTRL.FUSE", [⟨true, 0x7000340, []⟩], 0, 0, .wo, (.const 0x0), []⟩

/-- ATTEST_NONCE word w (16 R395). -/
def attestNonce : Fld := ⟨510, "ATTEST_NONCE word w", [⟨true, 0x7000400, [(0x4, 8)]⟩], 31, 0, .rw, (.const 0x0), []⟩

/-- ATTEST_CTRL.GO (16 R395). -/
def attestCtrlGo : Fld := ⟨511, "ATTEST_CTRL.GO", [⟨true, 0x7000420, []⟩], 0, 0, .wo, (.const 0x0), []⟩

/-- ATTEST_STATUS.BUSY (16 R395). -/
def attestStatusBusy : Fld := ⟨512, "ATTEST_STATUS.BUSY", [⟨true, 0x7000424, []⟩], 0, 0, .ro, (.const 0x0), []⟩

/-- ATTEST_STATUS.READY (16 R395). -/
def attestStatusReady : Fld := ⟨513, "ATTEST_STATUS.READY", [⟨true, 0x7000424, []⟩], 1, 1, .ro, (.const 0x0), []⟩

/-- ATTEST_REPORT (16 R395). -/
def attestReport : Fld := ⟨514, "ATTEST_REPORT", [⟨true, 0x7001000, [(0x4, 200)]⟩], 31, 0, .ro, (.const 0x0), []⟩

/-- VIGIL.MODE.STATE (17 R418). -/
def vigilModeState : Fld := ⟨515, "VIGIL.MODE.STATE", [⟨true, 0x5000000, []⟩], 1, 0, .rw, (.const 0x0), []⟩

/-- VIGIL.MODE.WAKE_EN (17 R418). -/
def vigilModeWakeEn : Fld := ⟨516, "VIGIL.MODE.WAKE_EN", [⟨true, 0x5000000, []⟩], 13, 8, .rw, (.const 0x0), []⟩

/-- VIGIL.STATUS.STATE (17 R418). -/
def vigilStatusState : Fld := ⟨517, "VIGIL.STATUS.STATE", [⟨true, 0x5000004, []⟩], 1, 0, .ro, (.const 0x0), []⟩

/-- VIGIL.STATUS.TRANSITION (17 R418). -/
def vigilStatusTransition : Fld := ⟨518, "VIGIL.STATUS.TRANSITION", [⟨true, 0x5000004, []⟩], 2, 2, .ro, (.const 0x0), []⟩

/-- VIGIL.STATUS.WAITING (17 R418). -/
def vigilStatusWaiting : Fld := ⟨519, "VIGIL.STATUS.WAITING", [⟨true, 0x5000004, []⟩], 3, 3, .ro, (.const 0x0), []⟩

/-- VIGIL.LAST_WAKE.SOURCE (17 R418). -/
def vigilLastWakeSource : Fld := ⟨520, "VIGIL.LAST_WAKE.SOURCE", [⟨true, 0x5000008, []⟩], 2, 0, .ro, (.const 0x7), []⟩

/-- VIGIL.LAST_WAKE.SOURCES (17 R418). -/
def vigilLastWakeSources : Fld := ⟨521, "VIGIL.LAST_WAKE.SOURCES", [⟨true, 0x5000008, []⟩], 13, 8, .ro, (.const 0x0), []⟩

/-- VIGIL.WAKE_MS (17 R418). -/
def vigilWakeMs : Fld := ⟨522, "VIGIL.WAKE_MS", [⟨true, 0x500000C, []⟩], 31, 0, .rw, (.const 0x0), []⟩

/-- VIGIL.IO_HOLD.HELD (17 R418). -/
def vigilIoHoldHeld : Fld := ⟨523, "VIGIL.IO_HOLD.HELD", [⟨true, 0x5000010, []⟩], 7, 0, .ro, (.const 0x0), []⟩

/-- VIGIL.IO_HOLD_RELEASE.BANKS (17 R418). -/
def vigilIoHoldReleaseBanks : Fld := ⟨524, "VIGIL.IO_HOLD_RELEASE.BANKS", [⟨true, 0x5000014, []⟩], 7, 0, .wo, (.const 0x0), []⟩

/-- VIGIL.RESET_CAUSE.CAUSE (17 R418). -/
def vigilResetCauseCause : Fld := ⟨525, "VIGIL.RESET_CAUSE.CAUSE", [⟨true, 0x5000018, []⟩], 3, 0, .ro, (.const 0x1), []⟩

/-- VIGIL.RESET_CAUSE.TRIPPED (17 R418). -/
def vigilResetCauseTripped : Fld := ⟨526, "VIGIL.RESET_CAUSE.TRIPPED", [⟨true, 0x5000018, []⟩], 4, 4, .w1c, (.const 0x0), []⟩

/-- VIGIL.SW_RESET.KEY (17 R418). -/
def vigilSwResetKey : Fld := ⟨527, "VIGIL.SW_RESET.KEY", [⟨true, 0x500001C, []⟩], 15, 0, .wo, (.const 0x0), []⟩

/-- VIGIL.CAP.LIMIT_W (17 R418). -/
def vigilCapLimit : Fld := ⟨528, "VIGIL.CAP.LIMIT_W", [⟨true, 0x5000020, []⟩], 11, 0, .rw, (.const 0x9C4), [(1600, 2500)]⟩

/-- VIGIL.CAP.N_MAX (17 R418). -/
def vigilCapNMax : Fld := ⟨529, "VIGIL.CAP.N_MAX", [⟨true, 0x5000020, []⟩], 20, 16, .rw, (.const 0x10), [(1, 16)]⟩

/-- VIGIL.CAP.N (17 R418). -/
def vigilCapN : Fld := ⟨530, "VIGIL.CAP.N", [⟨true, 0x5000020, []⟩], 28, 24, .ro, (.const 0x10), []⟩

/-- VIGIL.CAP.POWER (17 R418). -/
def vigilCapPower : Fld := ⟨531, "VIGIL.CAP.POWER", [⟨true, 0x5000020, []⟩], 29, 29, .ro, (.const 0x0), []⟩

/-- VIGIL.CAP.THERMAL (17 R418). -/
def vigilCapThermal : Fld := ⟨532, "VIGIL.CAP.THERMAL", [⟨true, 0x5000020, []⟩], 30, 30, .ro, (.const 0x0), []⟩

/-- VIGIL.CAP_CFG.HYST_W (17 R418). -/
def vigilCapCfgHyst : Fld := ⟨533, "VIGIL.CAP_CFG.HYST_W", [⟨true, 0x5000024, []⟩], 11, 0, .rw, (.const 0x7D), [(25, 500)]⟩

/-- VIGIL.CAP_CFG.THERM_CAP_C (17 R418). -/
def vigilCapCfgThermCap : Fld := ⟨534, "VIGIL.CAP_CFG.THERM_CAP_C", [⟨true, 0x5000024, []⟩], 23, 16, .rw, (.const 0x64), [(80, 105)]⟩

/-- VIGIL.CAP_CFG.NEAR_CAP_C (17 R418). -/
def vigilCapCfgNearCap : Fld := ⟨535, "VIGIL.CAP_CFG.NEAR_CAP_C", [⟨true, 0x5000024, []⟩], 31, 24, .rw, (.const 0x5A), [(70, 95)]⟩

/-- VIGIL.THERM_WAKE.WAKE_C (17 R418). -/
def vigilThermWakeWake : Fld := ⟨536, "VIGIL.THERM_WAKE.WAKE_C", [⟨true, 0x5000028, []⟩], 7, 0, .rw, (.const 0x32), [(30, 80)]⟩

/-- VIGIL.CAP_STEPS (17 R418). -/
def vigilCapSteps : Fld := ⟨537, "VIGIL.CAP_STEPS", [⟨true, 0x500002C, []⟩], 31, 0, .rc, (.const 0x0), []⟩

/-- VIGIL.REQ_RESULT.CODE (17 R418). -/
def vigilReqResultCode : Fld := ⟨538, "VIGIL.REQ_RESULT.CODE", [⟨true, 0x5000030, []⟩], 7, 0, .rw, (.const 0x0), []⟩

/-- VIGIL.REQ_RESULT.KIND (17 R418). -/
def vigilReqResultKind : Fld := ⟨539, "VIGIL.REQ_RESULT.KIND", [⟨true, 0x5000030, []⟩], 15, 8, .rw, (.const 0x0), []⟩

/-- VIGIL.KPLL.SPREAD (17 R418). -/
def vigilKpllSpread : Fld := ⟨540, "VIGIL.KPLL.SPREAD", [⟨true, 0x5000034, []⟩], 3, 0, .rw, (.const 0x2), [(0, 8)]⟩

/-- SENS_RAIL_i.MV (17 R419). -/
def sensRailMv : Fld := ⟨541, "SENS_RAIL_i.MV", [⟨true, 0x6000000, [(0x4, 12)]⟩], 15, 0, .ro, (.const 0x0), []⟩

/-- SENS_RAIL_i.CURRENT (17 R419). -/
def sensRailCurrent : Fld := ⟨542, "SENS_RAIL_i.CURRENT", [⟨true, 0x6000000, [(0x4, 12)]⟩], 31, 16, .ro, (.const 0x0), []⟩

/-- SENS_TEMP_j.TEMP (17 R419). -/
def sensTempTemp : Fld := ⟨543, "SENS_TEMP_j.TEMP", [⟨true, 0x6000100, [(0x4, 34)]⟩], 15, 0, .ro, (.const 0x8000), []⟩

/-- SENS_POWER.W (17 R419). -/
def sensPowerW : Fld := ⟨544, "SENS_POWER.W", [⟨true, 0x6000200, []⟩], 15, 0, .ro, (.const 0x0), []⟩

/-- SENS_FLOW.FLOW (17 R419). -/
def sensFlowFlow : Fld := ⟨545, "SENS_FLOW.FLOW", [⟨true, 0x6000204, []⟩], 15, 0, .ro, (.const 0xFFFF), []⟩

/-- SENS_ALERT.ALERTS (17 R419). -/
def sensAlertAlerts : Fld := ⟨546, "SENS_ALERT.ALERTS", [⟨true, 0x6000208, []⟩], 8, 0, .w1c, (.const 0x0), []⟩

/-- CLK_CTRL.PLL_EN (17 R420). -/
def clkCtrlPllEn : Fld := ⟨547, "CLK_CTRL.PLL_EN", [⟨false, 0x100, []⟩], 5, 0, .rw, (.const 0x0), []⟩

/-- CLK_STATUS.LOCKED (17 R420). -/
def clkStatusLocked : Fld := ⟨548, "CLK_STATUS.LOCKED", [⟨false, 0x104, []⟩], 5, 0, .ro, (.const 0x0), []⟩

/-- CLK_STATUS.FPLL_BAD (17 R420). -/
def clkStatusFpllBad : Fld := ⟨549, "CLK_STATUS.FPLL_BAD", [⟨false, 0x104, []⟩], 6, 6, .ro, (.const 0x0), []⟩

/-- CLK_EVENTS.LOCK_LOST (17 R420). -/
def clkEventsLockLost : Fld := ⟨550, "CLK_EVENTS.LOCK_LOST", [⟨false, 0x108, []⟩], 5, 0, .w1c, (.const 0x0), []⟩

/-- CLK_SPREAD.SPREAD_i (17 R420). -/
def clkSpreadSpread : Fld := ⟨551, "CLK_SPREAD.SPREAD_i", [⟨false, 0x10C, []⟩], 23, 0, .rws, (.const 0x202222), []⟩

/-- FPLL_CFG.FB (17 R420). -/
def fpllCfgFb : Fld := ⟨552, "FPLL_CFG.FB", [⟨false, 0x110, []⟩], 5, 0, .rws, (.const 0x10), [(16, 32)]⟩

/-- FPLL_ODIV.ODIV0 (17 R420). -/
def fpllOdivOdiv0 : Fld := ⟨553, "FPLL_ODIV.ODIV0", [⟨false, 0x114, []⟩], 5, 0, .rws, (.const 0x2), [(2, 63)]⟩

/-- FPLL_ODIV.ODIV1 (17 R420). -/
def fpllOdivOdiv1 : Fld := ⟨554, "FPLL_ODIV.ODIV1", [⟨false, 0x114, []⟩], 13, 8, .rws, (.const 0x2), [(2, 63)]⟩

/-- FPLL_ODIV.ODIV2 (17 R420). -/
def fpllOdivOdiv2 : Fld := ⟨555, "FPLL_ODIV.ODIV2", [⟨false, 0x114, []⟩], 21, 16, .rws, (.const 0x2), [(2, 63)]⟩

/-- FPLL_ODIV.ODIV3 (17 R420). -/
def fpllOdivOdiv3 : Fld := ⟨556, "FPLL_ODIV.ODIV3", [⟨false, 0x114, []⟩], 29, 24, .rws, (.const 0x2), [(2, 63)]⟩

/-- MARCH_CTRL.GO (18 R427). -/
def marchCtrlGo : Fld := ⟨557, "MARCH_CTRL.GO", [⟨false, 0x1030000, [(0x100000, 10)]⟩], 0, 0, .wo, (.const 0x0), []⟩

/-- MARCH_CTRL.ABORT (18 R427). -/
def marchCtrlAbort : Fld := ⟨558, "MARCH_CTRL.ABORT", [⟨false, 0x1030000, [(0x100000, 10)]⟩], 1, 1, .wo, (.const 0x0), []⟩

/-- MARCH_CTRL.MODE (18 R427). -/
def marchCtrlMode : Fld := ⟨559, "MARCH_CTRL.MODE", [⟨false, 0x1030000, [(0x100000, 10)]⟩], 3, 2, .rw, (.const 0x0), [(0, 2)]⟩

/-- MARCH_CTRL.ALG (18 R427). -/
def marchCtrlAlg : Fld := ⟨560, "MARCH_CTRL.ALG", [⟨false, 0x1030000, [(0x100000, 10)]⟩], 5, 4, .rw, (.const 0x0), [(0, 1)]⟩

/-- MARCH_CTRL.BG (18 R427). -/
def marchCtrlBg : Fld := ⟨561, "MARCH_CTRL.BG", [⟨false, 0x1030000, [(0x100000, 10)]⟩], 7, 6, .rw, (.const 0x0), []⟩

/-- MARCH_CTRL.BANKS (18 R427). -/
def marchCtrlBanks : Fld := ⟨562, "MARCH_CTRL.BANKS", [⟨false, 0x1030000, [(0x100000, 10)]⟩], 31, 16, .rw, (.const 0x0), []⟩

/-- MARCH_STATUS.BUSY (18 R427). -/
def marchStatusBusy : Fld := ⟨563, "MARCH_STATUS.BUSY", [⟨false, 0x1030004, [(0x100000, 10)]⟩], 0, 0, .ro, (.const 0x0), []⟩

/-- MARCH_STATUS.LAST (18 R427). -/
def marchStatusLast : Fld := ⟨564, "MARCH_STATUS.LAST", [⟨false, 0x1030004, [(0x100000, 10)]⟩], 7, 4, .ro, (.const 0x0), []⟩

/-- MARCH_STATUS.BANK (18 R427). -/
def marchStatusBank : Fld := ⟨565, "MARCH_STATUS.BANK", [⟨false, 0x1030004, [(0x100000, 10)]⟩], 11, 8, .ro, (.const 0x0), []⟩

/-- MARCH_STATUS.NOT_PASSED (18 R427). -/
def marchStatusNotPassed : Fld := ⟨566, "MARCH_STATUS.NOT_PASSED", [⟨false, 0x1030004, [(0x100000, 10)]⟩], 31, 16, .ro, (.const 0x0), []⟩

/-- MARCH_FAIL.WORD (18 R427). -/
def marchFailWord : Fld := ⟨567, "MARCH_FAIL.WORD", [⟨false, 0x1030008, [(0x100000, 10)]⟩], 14, 0, .ro, (.const 0x0), []⟩

/-- MARCH_FAIL.BANK (18 R427). -/
def marchFailBank : Fld := ⟨568, "MARCH_FAIL.BANK", [⟨false, 0x1030008, [(0x100000, 10)]⟩], 18, 15, .ro, (.const 0x0), []⟩

/-- MARCH_FAIL.LANE (18 R427). -/
def marchFailLane : Fld := ⟨569, "MARCH_FAIL.LANE", [⟨false, 0x1030008, [(0x100000, 10)]⟩], 22, 19, .ro, (.const 0x0), []⟩

/-- MARCH_FAIL.OP (18 R427). -/
def marchFailOp : Fld := ⟨570, "MARCH_FAIL.OP", [⟨false, 0x1030008, [(0x100000, 10)]⟩], 27, 23, .ro, (.const 0x0), []⟩

/-- MARCH_FAILS (18 R427). -/
def marchFails : Fld := ⟨571, "MARCH_FAILS", [⟨false, 0x103000C, [(0x100000, 10)]⟩], 31, 0, .rc, (.const 0x0), []⟩

/-- MARCH_CYCLES (18 R427). -/
def marchCycles : Fld := ⟨572, "MARCH_CYCLES", [⟨false, 0x1030010, [(0x100000, 10)]⟩], 31, 0, .ro, (.const 0x0), []⟩

/-- TILE_FENCE.FENCED (18 R431). -/
def tileFenceFenced : Fld := ⟨573, "TILE_FENCE.FENCED", [⟨false, 0x1000040, [(0x100000, 10), (0x1000, 16)]⟩], 0, 0, .rw, (.const 0x0), []⟩

/-- TILE_SELFTEST.GO (18 R431). -/
def tileSelftestGo : Fld := ⟨574, "TILE_SELFTEST.GO", [⟨false, 0x1000044, [(0x100000, 10), (0x1000, 16)]⟩], 0, 0, .wo, (.const 0x0), []⟩

/-- TILE_SELFTEST.USE_REPAIR (18 R431). -/
def tileSelftestUseRepair : Fld := ⟨575, "TILE_SELFTEST.USE_REPAIR", [⟨false, 0x1000044, [(0x100000, 10), (0x1000, 16)]⟩], 1, 1, .rw, (.const 0x0), []⟩

/-- TILE_SELFTEST.RESULT (18 R431). -/
def tileSelftestResult : Fld := ⟨576, "TILE_SELFTEST.RESULT", [⟨false, 0x1000044, [(0x100000, 10), (0x1000, 16)]⟩], 6, 4, .ro, (.const 0x0), []⟩

/-- TILE_ST_ROWS_LO (18 R431). -/
def tileStRowsLo : Fld := ⟨577, "TILE_ST_ROWS_LO", [⟨false, 0x1000048, [(0x100000, 10), (0x1000, 16)]⟩], 31, 0, .ro, (.const 0x0), []⟩

/-- TILE_ST_ROWS_HI.ROWS (18 R431). -/
def tileStRowsHiRows : Fld := ⟨578, "TILE_ST_ROWS_HI.ROWS", [⟨false, 0x100004C, [(0x100000, 10), (0x1000, 16)]⟩], 17, 0, .ro, (.const 0x0), []⟩

/-- TILE_ST_ROWS_HI.JUNCTION_FAIL (18 R431). -/
def tileStRowsHiJunctionFail : Fld := ⟨579, "TILE_ST_ROWS_HI.JUNCTION_FAIL", [⟨false, 0x100004C, [(0x100000, 10), (0x1000, 16)]⟩], 18, 18, .ro, (.const 0x0), []⟩

/-- LN_LOOP.MODE (18 R432). -/
def lnLoopMode : Fld := ⟨580, "LN_LOOP.MODE", [⟨false, 0x6000028, [(0x100, 48)]⟩], 1, 0, .rws, (.const 0x0), [(0, 2)]⟩

/-- LN_LOOP.CHECK_EN (18 R432). -/
def lnLoopCheckEn : Fld := ⟨581, "LN_LOOP.CHECK_EN", [⟨false, 0x6000028, [(0x100, 48)]⟩], 2, 2, .rws, (.const 0x0), []⟩

/-- LN_PRBS_ERRS (18 R432). -/
def lnPrbsErrs : Fld := ⟨582, "LN_PRBS_ERRS", [⟨false, 0x600002C, [(0x100, 48)]⟩], 31, 0, .rc, (.const 0x0), []⟩

/-- The fields of Table 1-6. -/
def table1_6 : List Fld :=
  [engineDieIdKind, engineDieIdDieIndex, engineDieIdStepping]

/-- The fields of Table 1-7. -/
def table1_7 : List Fld :=
  [engineDieCapsSlices, engineDieCapsFramePorts, engineDieCapsLaneQuads, engineDieCapsClusters]

/-- The fields of Table 1-8. -/
def table1_8 : List Fld :=
  [keeperDieIdKind, keeperDieIdDieIndex, keeperDieIdStepping, keeperModuleCodeEngines, keeperModuleCodeNearGibPerLayer, keeperModuleCodeFarGibPerCh, keeperSerialLo, keeperSerialHi]

/-- The fields of Table 3-6. -/
def table3_6 : List Fld :=
  [tileCtrlRun, tileCtrlFlush, tileStatusIdle, tileStatusStopped, tileStatusPlaneReady, tileStatusQueueFill, tileLatencyLatency, tileLatencyLeapCount, tileRepairSpare0Phys, tileRepairSpare1Phys, tileBatchBatchFill, tileBatchBatchWindow, tileEventsNanSeen, tileEventsInvalidProduct, tileEventsScaleHi, tileEventsScaleLo, tileEventsSaturated, tileEventsCheckFail, tileEventsCmdReject, tileRejectCause, tileRejectOpTag, tileCheckFails, tileIssued, tileBubbles, tileCmd]

/-- The fields of Table 4-10. -/
def table4_10 : List Fld :=
  [veCtrlRun, veCtrlFlush, veStatusIdle, veStatusStopped, veStatusQueueFill, veStatusDrainTile, veStatusDrainActive, veEventsNanSeen, veEventsSaturated, veEventsLaneIndexRange, veEventsDescReject, veEventsCacheParity, veEventsPoisonIn, veEventsBankRefused, veEventsPushRefused, veRejectCause, veRejectOpTag, veSteps, veDrainRows, veParityErrs, veDesc]

/-- The fields of Table 5-3. -/
def table5_3 : List Fld :=
  [tileTrapValid, tileTrapCause, tileTrapOpTag, tileTrapPosAccRow, tileTrapPosColumn, tileTrapBlkKblk, tileTrapBlkMore, tileTrapCycle, veTrapValid, veTrapCause, veTrapOpTag, veTrapPosI0, veTrapPosMore, veTrapOuter, veTrapCycle]

/-- The fields of Table 6-4. -/
def table6_4 : List Fld :=
  [ownerGroupLocal, ownerGroupRemoteEn, ownerGroupValue, ownerGroupIgnore, bankOwnerGroup, bankOwnerCurrent, bankOwnerPending, bankOwnerHandoverDone, bankRefused, bankCollide, bankParityErrs, bankLastRefusedId, bankLastRefusedBank, bankLastParityWord, bankLastParityBank, bankLastParityLane, bankCutoffId, bankCutoffBank, bankCutoffValid, bankCutoffPort, bankRankTile, bankRankVe, bankRankMarch, bankRankBRead, bankRankBWrite, bankRankBAtomic, bankHoldMaxHoldMax, bankLost]

/-- The fields of Table 6-6. -/
def table6_6 : List Fld :=
  [nearCtrlAccept, nearStatusReady, nearStatusIdle, nearStatusHot, nearStatusLayerOk, nearRefreshInterval, nearRefreshHot, nearEventsRereadOk, nearEventsCrcFail2, nearEventsRetiredAccess, nearEventsRetireFull, nearRereads, nearFails, nearFailAddrLoOffset, nearFailAddrHiOffset, nearFailAddrHiChannel, nearRetireCountCount, nearRetirePage, nearRetireValid]

/-- The fields of Table 7-7. -/
def table7_7 : List Fld :=
  [pmCtrlRun, pmStatusIdle, pmFails, pmFailAddrLo, pmFailAddrHiAddr, pmCmdWord0, pmCmdWord1, pmCmdWord2, pmCmdWord3]

/-- The fields of Table 7-10. -/
def table7_10 : List Fld :=
  [almCtrlRun, almStatusStopped, almStatusBroken, almStatusMigrating, almStatusAdmitted, almAdmitAdmitPct, almAdmitBlockUs, almCapNearGbps, almCapFarGbps, almMigrateEn, almMigrateFarBacking, almMigrateColdMs, almReserveLo, almReserveHi, almReservedLo, almReservedHi, almReserveCtrlForce, almReserveCtrlRefused, almEvals, almRefusals]

/-- The fields of Table 8-5. -/
def table8_5 : List Fld :=
  [seCtrlRun, seCtrlFlush, seStatusIdle, seStatusStopped, seStatusRunning, seStatusRunDesc, seStatusRunqFill, seStatusEntryFill, seWheelSlotLen, seWheelLend, seWheelPosSlot, seMcLagMax, seMcEnable, seEventsError, seEventsReread, seEventsMulticastLag, seEventsDetached, seEventsRearmOverrun, seErrCause, seErrDesc, seErrEntry, seWritten, seLent, mcBaseAddrLo, mcBaseAddrHi, seDescListLo, seDescListHi, seDescCount, seDescNotify, seDescTag, seDescArmArm, seDescStateState, seDescStatePending, seDescDone, seSlotKind]

/-- The fields of Table 9-5. -/
def table9_5 : List Fld :=
  [farCtrlAccept, farCtrlTrain, farStatusReady, farStatusIdle, farStatusTraining, farStatusFailed, farStatusHot, farStatusRecovering, farStatusRanks, farRefreshTrefi, farRefreshTrfc, farAlertAlertWin, farRetrainFullThresh, farEventsCaAlert, farEventsReplayFail, farEventsRereadOk, farEventsReadLost, farEventsFullRetrain, farEventsTrainFail, farEventsWriteLost, farAlerts, farRereads, farLost, farLostAddrLo, farLostAddrHiOffset, farRetrains, farTrainResultStep, farTrainResultCode, farArbRankRead, farArbRankWrite, farArbRankDiag, farArbHoldHoldMax, farCutoffId, farCutoffValid, farArbWait]

/-- The fields of Table 10-9. -/
def table10_9 : List Fld :=
  [nocCtrlRun, nocStatusStopped, nocUrgBaseCtrl, nocUrgBaseStream, nocUrgBaseGen, nocUrgBaseBulk, nocUrgBaseDiag, nocTimeoutLog2, nocEventsMisroute, nocEventsNoroute, nocEventsTimeout, nocEventsLateRsp, nocEventsBridgeRetry, nocEventsBridgeDown, nocEventsTraceDrop, nocEventsTraceErr, nocMisroutes, nocTimeouts, nocLateRsp, nocBridgeRetries, nocLastErrSrcPort, nocLastErrDest, lanternTimeLo, lanternTimeHi, niClassClass, routeRouteLo, routeRouteHi, routeMatch, routeValid, routeMask, lpCtrlEn, lpCtrlTrace, lpCtrlNet, lpCtrlRouter, lpCtrlPort, lpCtrlUrgMin, lpCtrlType, lpSrcValue, lpSrcIgnore, lpDestValue] ++
  [lpDestIgnore, lpMatched, lpUnits, lpBlocked, lpUrg15, ltBaseLo, ltBaseHi, ltSizeLog2, ltSizeWrap, ltWritePtr, ltDropped, ltCtrlTraceRun]

/-- The fields of Table 11-7. -/
def table11_7 : List Fld :=
  [frStatusConfigured, frStatusFenced, frStatusStarted, frClkgateEn, frClkgatedGated, frEventsFreqHigh, frEventsDeadSrc, frRamCollide, frClkSrc0, frClkSrc1, frClkSrc2, frClkSrc3, frClkselSel, frClkselSelFabric, frClkselActive, frClkselSwitching, frClkselDiv, frClkmonEdges, fniCtrlEn, fniCtrlAcceptTarget, fniStatusFenced, fniStatusOutstanding, fniStatusSinkFill, fniEventsDiscarded, fniEventsSinkCollide, fniEventsMalformed, fniEventsTimeout, fniDiscarded, ioBankStatusVio, ioBankStatusVioDecl, ioBankStatusMismatch, ioBankStatusReleased, ioEventsVioMismatch, ioEventsSlewShort, ioPinSlew, ioPinAuto, ioPinLoadValid, ioPinLoadPf]

/-- The fields of Table 12-5. -/
def table12_5 : List Fld :=
  [slCtrlRun, slStatusIdle, slStatusStopped, slStatusInHandler, slStatusWaiting, slStatusPc, slStartPc, slHaltCause, slHaltPc, slEventsAov, slEventsNsat, slEventsIllegal, slEventsDmemParity, slEventsEgressDrop, slEventsIngFull, slEventsXferBusy, slIrqEnable, slIrqIe, slIrqPending, slIrqRaiseRaise, slFlagIrqMask, slCycles, slDmemErrs, slDmemCollide, slIretPc, slIvecPc, slP, slO, slCb, slCl, slCi, slCs, slNsh, slIngBase, slIngLen, slIngWr, slIngRd, slIngThresh, slTimer, xferSrc] ++
  [xferLen, xferMode, xferDstLo, xferDstHi, xferState, xferRsp]

/-- The fields of Table 13-8. -/
def table13_8 : List Fld :=
  [cfgStatusState, cfgStatusDoneOut, cfgStatusDoneIn, cfgStatusRetryWanted, cfgStatusWide, cfgStatusDiesConfigured, cfgStatusHarvestReady, cfgErrorCode, cfgFailAddr, cfgFramesOkCount, cfgGapMaxCycles, cfgDesignId, cfgRetries]

/-- The fields of Table 14-9. -/
def table14_9 : List Fld :=
  [lnCtrlEnable, lnCtrlRecal, lnCfgMode, lnCfgRateMask, lnCfgBaseRate, lnCfgRawRate, lnCfgRawWidth, lnCfgPrecodeReq, lnCfgNoDetect, lnCfgAutoRestart, lnCfgWake, lnCfgRxInvert, lnCfgTxInvert, lnStatusState, lnStatusRate, lnStatusPrecodeTx, lnStatusPrecodeRx, lnStatusLos, lnStatusLol, lnStatusBlockLock, lnStatusFailedMask, lnStatusRefOk, lnPartner, lnLossDbX2, lnEventsLos, lnEventsLol, lnEventsBlockLost, lnEventsTrainFail, lnEventsStepDown, lnEventsRxOverflow, lnEventsRecalRefused, lnEventsCfgRefused, lnEventsActive, lnHdrErrs, lnSlips, lnLosThreshMv10, lnTimersTrainMs, lnTimersCapsMs, lnTimersRestartUs]

/-- The fields of Table 14-10. -/
def table14_10 : List Fld :=
  [fpCtrlEn, fpCtrlTapEn, fpCtrlLanes, fpShapeLineWords, fpShapeLines, fpBufBaseLo, fpBufBaseHi, fpBufStride, fpBufCount, fpWr, fpRd, fpEventMailbox, fpEventTag, fpStatusIdle, fpStatusInFrame, fpStatusAligned, fpEventsCrcFail, fpEventsShape, fpEventsOverflow, fpEventsOverrun, fpEventsLockLost, fpEventsDeskew, fpEventsCfgRefused, fpFrames, fpOverruns, fpBad]

/-- The fields of Table 15-8. -/
def table15_8 : List Fld :=
  [hlCtrlRun, hlCtrlU1u2En, hlStatusAttached, hlStatusHostAbsent, hlStatusRingsIdle, hlStatusStopped, hlStatusSpeed, hlStatusHeld, hlProxyTimeoutMs, hlStreamGraceFrames, hlAbsentMs, hlHeldLost, hlEventsHostAbsent, hlEventsBadDoorbell, hlEventsBadResponse, hlEventsRingNoWindow, hlEventsHeldOverflow, hlEventsBusReset, hlArbRankRing, hlArbRankAlmanac, hlArbRankXfer, hlArbRankHealth, hlArbHoldHoldMax, hlCutoffId, hlCutoffValid, hlWinValid, hlWinRead, hlWinWrite, hlWinSize4k, sqOff, sqWin, sqLog2, sqEn, sqTail, sqHead, cqOff, cqWin, cqLog2, cqEn, cqEventEn] ++
  [cqTail, cqHead]

/-- The fields of Table 16-8. -/
def table16_8 : List Fld :=
  [fwCtrlRestart, fwCtrlReleaseHold, fwStatusState, fwStatusReady, fwStatusSlot, fwStatusFail, fwVersion, fwRestarts, fwWdtMs, fwKick, fwTrace]

/-- The fields of Table 16-9. -/
def table16_9 : List Fld :=
  [mbData, mbStatusFull, mbStatusCollide, mbStatusOpen, mbStatusSender, mbOverwrites, mbOpen, mbDoorbell, mbDoorbellEn, mbSendData, mbSendDest, mbSendState]

/-- The fields of Table 16-10. -/
def table16_10 : List Fld :=
  [keyStatusIntKeyPresent, fwReleaseRef, hostVersion, fwUpdateStatusState, fwUpdateStatusReason, digest, idPub, intKey, intKeyCtrlFuse, attestNonce, attestCtrlGo, attestStatusBusy, attestStatusReady, attestReport]

/-- The fields of Table 17-10. -/
def table17_10 : List Fld :=
  [vigilModeState, vigilModeWakeEn, vigilStatusState, vigilStatusTransition, vigilStatusWaiting, vigilLastWakeSource, vigilLastWakeSources, vigilWakeMs, vigilIoHoldHeld, vigilIoHoldReleaseBanks, vigilResetCauseCause, vigilResetCauseTripped, vigilSwResetKey, vigilCapLimit, vigilCapNMax, vigilCapN, vigilCapPower, vigilCapThermal, vigilCapCfgHyst, vigilCapCfgThermCap, vigilCapCfgNearCap, vigilThermWakeWake, vigilCapSteps, vigilReqResultCode, vigilReqResultKind, vigilKpllSpread]

/-- The fields of Table 17-11. -/
def table17_11 : List Fld :=
  [sensRailMv, sensRailCurrent, sensTempTemp, sensPowerW, sensFlowFlow, sensAlertAlerts]

/-- The fields of Table 17-12. -/
def table17_12 : List Fld :=
  [clkCtrlPllEn, clkStatusLocked, clkStatusFpllBad, clkEventsLockLost, clkSpreadSpread, fpllCfgFb, fpllOdivOdiv0, fpllOdivOdiv1, fpllOdivOdiv2, fpllOdivOdiv3]

/-- The fields of Table 18-3. -/
def table18_3 : List Fld :=
  [marchCtrlGo, marchCtrlAbort, marchCtrlMode, marchCtrlAlg, marchCtrlBg, marchCtrlBanks, marchStatusBusy, marchStatusLast, marchStatusBank, marchStatusNotPassed, marchFailWord, marchFailBank, marchFailLane, marchFailOp, marchFails, marchCycles]

/-- The fields of Table 18-4. -/
def table18_4 : List Fld :=
  [tileFenceFenced, tileSelftestGo, tileSelftestUseRepair, tileSelftestResult, tileStRowsLo, tileStRowsHiRows, tileStRowsHiJunctionFail]

/-- The fields of Table 18-5. -/
def table18_5 : List Fld :=
  [lnLoopMode, lnLoopCheckEn, lnPrbsErrs]

end F

/-- Every register field of the module. -/
def allFields : List Fld :=
  F.table1_6 ++ F.table1_7 ++ F.table1_8 ++ F.table3_6 ++ F.table4_10 ++ F.table5_3 ++ F.table6_4 ++ F.table6_6 ++ F.table7_7 ++ F.table7_10 ++ F.table8_5 ++ F.table9_5 ++ F.table10_9 ++ F.table11_7 ++ F.table12_5 ++ F.table13_8 ++ F.table14_9 ++ F.table14_10 ++ F.table15_8 ++ F.table16_8 ++ F.table16_9 ++ F.table16_10 ++ F.table17_10 ++ F.table17_11 ++ F.table17_12 ++ F.table18_3 ++ F.table18_4 ++ F.table18_5

end Sys2Proof.Machine
end

