-- ==== Sys2Proof/Machine/State.lean ====
section
/-! DEFINITION. The state of the module as plain data: the register fields of the register map, memory, and everything the spec's
text gives the machine beside its register tables. -/

namespace Sys2Proof.Machine

/-- Who gave a tile command or vector descriptor: the cluster work queue, which the steward fills, or a master of raw cluster
mode (03 R74, 04 R103). -/
inductive CmdSrc
  | work
  | raw (id : Nat)
  deriving DecidableEq, Repr

/-- A queued tile command or vector descriptor: the order it came in, its source and its words (03 R72, 04 R80). -/
structure QCmd where
  seq : Nat
  src : CmdSrc
  w : List Nat
  deriving DecidableEq, Repr

/-- The tag beside a partial sum (05 R104). -/
structure Tag where
  pos : Bool
  neg : Bool
  inv : Bool
  nan : Bool
  deriving DecidableEq, Repr

/-- What reaches one block junction of one column: the exact block sum, its weight 2^exp (both block exponents and both
integer-domain weights), whether an operand block is absent, and the tag (02 R38, R39; 05 R104). -/
structure BlockIn where
  sum : Int
  exp : Int
  absent : Bool
  tag : Tag
  deriving DecidableEq, Repr

/-- A trap-eligible event (05 R113): its cycle, cause, column and K-block. -/
structure Cand where
  cycle : Nat
  cause : Nat
  col : Nat
  kblk : Nat
  deriving DecidableEq, Repr

/-- A weight plane of a tile (03 R50 to R52): the command it is for, where it stands, its 48 × 48 element codes, its 144 BX8
codes, whether a word of it was bad or refused, and the check column's weight c_k of each logical row, as its high and its low
slice (R63). -/
structure Plane where
  seq : Nat
  ready : Bool
  active : Bool
  codes : List Nat
  bx8 : List Nat
  bad : Bool
  check : List (Int × Int)
  deriving DecidableEq, Repr

/-- A row between its issue and its commit (03 R60, R64). -/
structure Flight where
  seq : Nat
  acc : Nat
  accZero : Bool
  kbase : Nat
  opTag : Nat
  nanTrap : Bool
  scaleTrap : Bool
  /-- three K-blocks of 48 columns -/
  blocks : List (List BlockIn)
  /-- the three block sums of the check column (R63) -/
  check : List Int
  /-- the running sums, G36 codes -/
  run : List Nat
  /-- the next junction of each column; 3 when all three have acted -/
  next : List Nat
  flags : Nat
  cands : List Cand
  /-- the row computes but does not commit (R60; Table 5-5) -/
  blocked : Bool
  deriving DecidableEq, Repr

/-- What a command has still to report (03 R65, R75): filled in while its rows are in flight. -/
structure Prog where
  seq : Nat
  src : CmdSrc
  opTag : Nat
  last : Bool
  flags : Nat
  poisoned : List Nat
  issuedAll : Bool
  aborted : Bool
  deriving DecidableEq, Repr

/-- A row of the row staging (03 R55): its element codes and its three BX8 codes. -/
structure PushRow where
  elems : List Nat
  bx8 : List Nat
  deriving DecidableEq, Repr

/-- What a row of the row staging holds after reset (log 2). -/
def PushRow.init : PushRow := { elems := List.replicate 48 0, bx8 := [0, 0, 0] }

/-- A row push (03 R55, 04 R88, 11 R267): the tile, the row index, the lanes that are written, one bit each, and the row. -/
structure RowPush where
  tile : Nat
  row : Nat
  lanes : Nat
  data : PushRow
  deriving DecidableEq, Repr

/-- The factor of a DRAIN (03 R70). -/
structure Factor where
  seq : Nat
  code : Nat
  bad : Bool
  deriving DecidableEq, Repr

/-- A row the drain stage holds (03 R70). -/
structure DrainRow where
  seq : Nat
  vals : List Nat
  poison : Bool
  deriving DecidableEq, Repr

/-- The last BX8 word a tile has read for a command (03 R55). -/
structure BxWord where
  seq : Nat
  word : Nat
  bytes : List Nat
  bad : Bool
  deriving DecidableEq, Repr

/-- A matrix tile, but for its registers (chapter 3). -/
structure Tile where
  queue : List QCmd
  nextSeq : Nat
  /-- words 0 to 6 of TILE_CMD as last written (R74) -/
  staging : List Nat
  /-- the write of word 7 that a full queue holds, with its master (R74) -/
  held : Option (Nat × Nat)
  /-- the command at the head has started (R71) -/
  started : Bool
  /-- the rows of the head command that have issued, been drained or been zeroed, one bit each -/
  done : Nat
  /-- the row staging (R55), by row index: what each row holds, and the rows that are staged, one bit each -/
  rows : SMap PushRow
  staged : Nat
  winOpen : Bool
  winDue : Bool
  /-- the rows of the batch that is issuing, one bit each (R56) -/
  batch : Nat
  planes : List Plane
  bx : Option BxWord
  flights : List Flight
  progs : List Prog
  /-- accumulator rows written since epoch began; an unlisted row is undefined -/
  acc : SMap (List Nat)
  /-- how often the accumulator buffer has become undefined -/
  epoch : Nat
  /-- poison marks, one bit per accumulator row (R65) -/
  poison : Nat
  factors : List Factor
  drained : List DrainRow
  /-- the cycle of the latched event, not wrapped (05 R113) -/
  trapCycle : Nat
  /-- a self-test is running; whether under TILE_REPAIR, as GO gave it; who wrote GO; a write of 0 to FENCED that waits for its end (18 R429) -/
  testing : Bool
  testRepair : Bool
  tester : Nat
  unfence : Bool
  deriving DecidableEq, Repr

/-- A tile at reset. -/
def Tile.init : Tile :=
  { queue := [], nextSeq := 0, staging := [0, 0, 0, 0, 0, 0, 0], held := none, started := false, done := 0, rows := [], staged := 0,
    winOpen := false, winDue := false, batch := 0, planes := [], bx := none, flights := [], progs := [], acc := [], epoch := 0,
    poison := 0, factors := [], drained := [], trapCycle := 0, testing := false, testRepair := false, tester := 0, unfence := false }

/-- A byte a step writes: its cache address, its value and the bits of it that are written. -/
structure CacheByte where
  addr : Nat
  val : Nat
  mask : Nat
  deriving DecidableEq, Repr

/-- A write of a vector-engine step that has not landed (04 R83): bytes of one operand-cache line, or a row pushed into a tile of
the cluster (04 R88). The step's number within its descriptor stands beside it. -/
structure VeWrite where
  seq : Nat
  step : Nat
  bytes : List CacheByte
  push : Option RowPush
  deriving DecidableEq, Repr

/-- The executing descriptor of a vector engine (04 R77): the steps issued, the tree record copied at the end of its decode
(R96), the running result of a reduction over the current outer index, and what its end report will carry (R101). -/
structure VeExec where
  cmd : QCmd
  step : Nat
  tree : List Nat
  /-- the running sum of RSUM, once a step has formed it -/
  runSum : Option Nat
  /-- the lanes kept so far for the other reductions and SAMPLE: i0 and code -/
  runVals : List (Nat × Nat)
  events : Nat
  poison : Nat
  deriving DecidableEq, Repr

/-- A vector-engine end report that waits for the descriptor's last write to land (04 R101). -/
structure VeEnd where
  seq : Nat
  src : CmdSrc
  opTag : Nat
  status : Nat
  events : Nat
  poison : Nat
  deriving DecidableEq, Repr

/-- A vector engine, but for its registers (chapter 4). -/
structure Ve where
  queue : List QCmd
  nextSeq : Nat
  staging : List Nat
  held : Option (Nat × Nat)
  exec : Option VeExec
  /-- operand-cache bytes; 256 stands for a byte nothing has written since epoch began -/
  cache : SMap Nat
  epoch : Nat
  /-- 32-bit lanes of the cache whose stored parity is bad -/
  badLanes : SMap Nat
  writes : List VeWrite
  ends : List VeEnd
  trapCycle : Nat
  deriving DecidableEq, Repr

/-- A vector engine at reset. -/
def Ve.init : Ve :=
  { queue := [], nextSeq := 0, staging := [0, 0, 0, 0, 0, 0, 0, 0, 0, 0, 0, 0, 0, 0, 0], held := none, exec := none, cache := [],
    epoch := 0, badLanes := [], writes := [], ends := [], trapCycle := 0 }

/-- A granted bank access that is outstanding (06 R126, R131): who holds it and whether it was granted under the group that
a handover is taking the bank from. -/
structure BankAcc where
  idx : Nat
  id : Nat
  word : Nat
  n : Nat
  op : BankOp
  oldGroup : Bool
  deriving DecidableEq, Repr

/-- A transfer that holds an arbiter's resource (09 R213). -/
structure Holder where
  idx : Nat
  id : Nat
  deriving DecidableEq, Repr

/-- An arbiter instance (09 R213 to R218). Masks of requesters have one bit per index. -/
structure Arb where
  holder : Option Holder
  suspended : Option Holder
  emergency : Bool
  /-- per rank: 1 + the index last granted, 0 before the first grant (R214) -/
  lastAt : SMap Nat
  /-- consecutive losses per requester (R215) -/
  losses : SMap Nat
  backoff : Nat
  masked : Nat
  deriving DecidableEq, Repr

/-- An arbiter after reset. -/
def Arb.init : Arb :=
  { holder := none, suspended := none, emergency := false, lastAt := [], losses := [], backoff := 0, masked := 0 }

/-- A burst in a near channel's queue (06 R139, R141, R144): a read, or an accepted write with its enables; reread where it is a read
that failed its CRC and is to be re-read. -/
structure NearWait where
  die : Nat
  who : Nat
  addr : Nat
  data : Option (List Byte × List Bool)
  reread : Bool
  deriving DecidableEq, Repr

/-- The near tiers, but for their registers and contents (06 R139 to R145): by address / 64, the stored CRC of a burst, held as its
exclusive or with the CRC of the stored burst (R143); bursts in the channel queues, oldest first; the DRAM bank each channel refreshes
next; and by engine the pages of its retired table that HEALTH holds in the keeper's flash (R145). -/
structure NearSt where
  bad : SMap Nat
  waits : List NearWait
  turn : SMap Nat
  kept : SMap (List Nat)
  deriving DecidableEq, Repr

/-- A march run (18 R421 to R427): what GO named, the banks not yet ended, whether the first is under way, the transfer it stands
at, and a preserving run's save store. -/
structure March where
  mode : Nat
  alg : Nat
  bg : Nat
  banks : List Nat
  /-- the element, and the words it has done -/
  elem : Nat
  pos : Nat
  /-- PRESERVING: the segment and the step, 1 to 4, of R425 -/
  seg : Nat
  step : Nat
  save : List (List Byte)
  saveBad : List (List Nat)
  /-- a read of this bank failed; a failing read of the run is recorded; the test port has had this bank -/
  failed : Bool
  recorded : Bool
  invalid : Bool
  cycles : Nat
  deriving DecidableEq, Repr

def March.idle : March :=
  { mode := 0, alg := 0, bg := 0, banks := [], elem := 0, pos := 0, seg := 0, step := 1, save := [], saveBad := [], failed := false,
    recorded := false, invalid := false, cycles := 0 }

/-- A repair record of the flash (18 R433): entries of 16 bits per tile, retired banks, and the returns of R431. -/
structure RepairRec where
  seq : Nat
  tiles : SMap Nat
  banks : SMap Nat
  returns : SMap Nat
  deriving DecidableEq, Repr

/-- What self-test keeps outside registers: the march runs, the flash's two copies of the repair record, F of a tile's last
assignment plus 1 (0: none since reset), and the tiles that R121 reported. -/
structure TestSt where
  march : SMap March
  copyA : Option RepairRec
  copyB : Option RepairRec
  lastF : SMap Nat
  reported : SMap Nat
  deriving DecidableEq, Repr

/-- A burst of a far channel (09 R200, R202): who asked, the channel offset of its first unit, one unit (BC8) or two (BL16), a
write's data and enables, and whether it is a read of its unit followed by a merged write. -/
structure FarBurst where
  id : Nat
  p : Nat
  units : Nat
  data : Option (List Byte × List Bool)
  merged : Bool
  deriving DecidableEq, Repr

/-- What stands in a command queue. -/
inductive FarCmd
  | burst (b : FarBurst)
  | refresh (rank : Nat)
  deriving DecidableEq, Repr

/-- What is left of the transfer that holds a far channel. -/
structure FarXfer where
  id : Nat
  p : Nat
  left : Nat
  data : Option (List Byte × List Bool)
  deriving DecidableEq, Repr

/-- Parity recovery of a far channel (09 R207, R208). -/
inductive FarMode
  | normal
  /-- the replay set waits for ALERT_n to rise -/
  | waitRise
  /-- the replay set is held again -/
  | replaying
  /-- writes of a failed replay are re-issued one at a time: the next waits for the rise, or is held -/
  | singleRise
  | singleHeld
  deriving DecidableEq, Repr

/-- A far channel, but for its registers (chapter 9). -/
structure FarCh where
  xfer : Option FarXfer
  queue : List FarCmd
  retry : List FarBurst
  mode : FarMode
  singles : List FarBurst
  /-- alerts on the first of singles -/
  attempts : Nat
  /-- a read that failed its checks, with the re-reads made -/
  reread : Option (FarBurst × Nat)
  /-- re-reads since the last periodic pause -/
  rereads : Nat
  pause : Bool
  pauseDue : Bool
  needFull : Bool
  /-- the running training step, 0 for none; whether it is full retraining -/
  step : Nat
  full : Bool
  deriving DecidableEq, Repr

def FarCh.init : FarCh :=
  { xfer := none, queue := [], retry := [], mode := .normal, singles := [], attempts := 0, reread := none, rereads := 0, pause := false,
    pauseDue := false, needFull := false, step := 0, full := false }

/-- The far tiers: channels by 4d + h, and by address / 64 the stored checks of a unit's two quarters (09 R209), held as their
exclusive or with the checks of the stored bytes. -/
structure FarSt where
  ch : SMap FarCh
  bad : SMap Nat
  deriving DecidableEq, Repr

/-- A firmware image in a flash slot (16 R377): its signed message, bytes 0 to 23 of the header and the body, whether the vendor's
signature verifies, and the integrator's signature. -/
structure FwImage where
  msg : List Byte
  vendorOk : Bool
  integSig : List Byte
  deriving DecidableEq, Repr

/-- What a flash slot of a role holds when the module is delivered (log 9): an image with no body, VERSION and RELEASE 0. -/
def factoryImage (role : Nat) : FwImage :=
  { msg := [0x54, 0x36, 0x46, 0x57, BitVec.ofNat 8 role, 1, 0, 0] ++ List.replicate 16 (0 : Byte), vendorOk := true, integSig := [] }

/-- Slot A of each of the five roles (log 9). -/
def factoryFlash : SMap (Option FwImage) :=
  [(0, some (factoryImage 0)), (2, some (factoryImage 1)), (4, some (factoryImage 2)), (6, some (factoryImage 3)), (8, some (factoryImage 4))]

/-- A mailbox message on its way (16 R384): the identity stamped on it, its destination number and its 16 words; a notice's own loss
brings no further notice. -/
structure Mail where
  src : Nat
  dest : Nat
  words : List Nat
  notice : Bool
  deriving DecidableEq, Repr

/-- A mailbox's read latch (16 R385) and whether a message has arrived since word 0 was read. -/
structure MbLatch where
  words : List Nat
  sender : Nat
  since : Bool
  deriving DecidableEq, Repr

/-- A processor, but for its registers: when its image started, when it crashed (in microseconds, newest first), the last words
written to FW_TRACE (newest last), whether the next boot uses the slot that last booted, when its watchdog was last restarted, and its
crashes since module reset. -/
structure Proc where
  started : Nat
  crashes : List Nat
  trace : List Nat
  useLast : Bool
  kicked : Nat
  total : Nat
  deriving DecidableEq, Repr

def Proc.init : Proc := { started := 0, crashes := [], trace := [], useLast := false, kicked := 0, total := 0 }

/-- The firmware processors' part of the machine (chapter 16): flash slots by 2 × role + slot, preferred and last booted slots by
role, whether a release reference is latched, messages that have reached their port, read latches by mailbox number, words 0 to 14 and a held
word 15 of the send ports, the crash log and its next SEQ, and the attestation nonce and report. -/
structure FwSt where
  flash : SMap (Option FwImage)
  prefer : SMap Nat
  lastSlot : SMap Nat
  refLatched : Bool
  mails : List Mail
  latches : SMap MbLatch
  sendHeld : SMap (List Nat)
  procs : SMap Proc
  crashSeq : Nat
  log : SMap (List Nat)
  nonce : List Nat
  report : List Nat
  deriving DecidableEq, Repr

/-- Where a page or a part of it lies (07 R153): tier 0 near, 1 far, 2 slab, 3 none, and the location of the tier's kind. -/
structure PageLoc where
  tier : Nat
  loc : Nat
  deriving DecidableEq, Repr

/-- A tensor of a loaded plan (07 Table 7-2), with the slot and the first page-table entry ALMANAC gave it, the page that stands
behind each of its pages (log 131), and when it was last used, in microseconds (Table 7-6). -/
structure Tensor where
  handle : Nat
  fmt : Nat
  kind : Nat
  hint : Nat
  pin : Bool
  bytes : Nat
  bx8 : Nat
  scale : Nat
  firstOp : Nat
  lastOp : Nat
  slot : Nat
  ptBase : Nat
  pages : List PageLoc
  used : Nat
  deriving DecidableEq, Repr

/-- An operation record (07 Table 7-3): splits as KBLK_FIRST, KBLK_COUNT, PARTIAL; the body as it stands in the image. -/
structure OpRec where
  kind : Nat
  flags : Nat
  deps : List Nat
  ins : List Nat
  outs : List Nat
  splits : List (Nat × Nat × Nat)
  body : List Byte
  deriving DecidableEq, Repr

/-- A loaded plan (07 Table 7-1). unload: the submission ring, completion ring, DESC_ID and flags of a PLAN_UNLOAD that waits. -/
structure Plan where
  id : Nat
  classes : Nat
  maxpar : Nat
  span : Nat
  work : Nat
  nearb : Nat
  farb : Nat
  tensors : List Tensor
  ops : List OpRec
  unload : Option (Nat × Nat × Nat × Nat)
  deriving DecidableEq, Repr

/-- A binding of a job (15 R367). -/
structure Binding where
  handle : Nat
  dir : Nat
  win : Nat
  off : Nat
  deriving DecidableEq, Repr

/-- A trap record taken for a job (05 R114, R116), without the job's own fields. -/
structure TrapRec where
  op : Nat
  unit : Nat
  cause : Nat
  die : Nat
  loc : Nat
  row : Nat
  col : Nat
  kblk : Nat
  more : Nat
  cycle : Nat
  deriving DecidableEq, Repr

/-- The running event of a job: its number, the operations completed, its flags and the statuses that apply, and whether an
output was not delivered; where its input and output copying stands. -/
structure Event where
  no : Nat
  done : List Nat
  flags : Nat
  statuses : List Nat
  undelivered : Bool
  /-- 0 inputs asked for, 1 running, 2 outputs asked to be written, 4 lost -/
  phase : Nat
  trapWritten : Bool
  deriving DecidableEq, Repr

/-- A job (07, 15). -/
structure Job where
  id : Nat
  plan : Nat
  cls : Nat
  rate : Nat
  deadline : Nat
  burst : Nat
  seed : Nat
  events : Nat
  sq : Nat
  cq : Nat
  descId : Nat
  onEnd : Bool
  trapWin : Nat
  trapOff : Nat
  bindings : List Binding
  /-- the guarantee is held (R166); the STREAM set (R163), and the set it is to become cluster by cluster (R166); bytes a retired
  page added to FARB (Table 7-9) -/
  held : Bool
  set : List Nat
  nextSet : List Nat
  extraFar : Nat
  nextEv : Nat
  run : Option Event
  /-- frame events that wait (R167) -/
  frames : Nat
  stop : Bool
  grace : Option Nat
  /-- the statuses and flags of its EVENT records; the last completion or the admission, in microseconds -/
  statuses : List Nat
  flags : Nat
  last : Nat
  traps : List TrapRec
  deriving DecidableEq, Repr

/-- One command or descriptor of a share (05 R120): its unit's tile, or none for the vector engine, the template of the body it
comes from, its words and its declared duration (07). -/
structure WorkItem where
  tile : Option Nat
  tmpl : Nat
  words : List Nat
  dur : Nat
  deriving DecidableEq, Repr

/-- A share (05 R120, R121; 07 R161). -/
structure Share where
  id : Nat
  job : Nat
  op : Nat
  split : Nat
  cluster : Nat
  /-- clusters it ran on before (05 R121) -/
  before : List Nat
  tag : Nat
  work : List WorkItem
  todo : List WorkItem
  expanded : Bool
  /-- what stands in a unit's queue: the unit, the sequence number there and the declared duration -/
  sent : List (Option Nat × Nat × Nat)
  /-- commands and descriptors sent that have not reported -/
  waits : Nat
  failed : Bool
  runs : Nat
  /-- tiles that poisoned rows in this run and in earlier runs -/
  poisonNow : List Nat
  poisonBefore : List Nat
  ended : Bool
  deriving DecidableEq, Repr

/-- A migration in flight (07 R156): its page, where it goes, the slab codes where that is a slab list, the mover commands' TAG, the
translators that have acknowledged, the 64 KiB parts that have been copied, and whether it makes a backing copy (Table 7-6). -/
structure Mig where
  slot : Nat
  page : Nat
  dst : PageLoc
  codes : List Nat
  tag : Nat
  acks : Nat
  copied : List Nat
  backing : Bool
  deriving DecidableEq, Repr

/-- An access a translator holds (07 R154). -/
structure XlatHold where
  who : Nat
  slot : Nat
  off : Nat
  write : Bool
  deriving DecidableEq, Repr

/-- A page mover (07 R159, R160): words 0 to 2 as last written, its queue of commands with their commanders, a held write of word
3. -/
structure Mover where
  staging : List Nat
  queue : List (Nat × List Nat)
  held : Option (Nat × Nat)
  deriving DecidableEq, Repr

def Mover.init : Mover := { staging := [0, 0, 0], queue := [], held := none }

/-- A detached receiver's cluster whose data a job's multicast transfer has left out, until a unicast transfer has completed it
(08 R191). -/
structure Owed where
  job : Nat
  cluster : Nat
  deriving DecidableEq, Repr

/-- Almanac (chapter 7), but for its registers: plans, jobs in order of admission, shares, migrations, slabs in use by slab code,
per engine the cached entries by die × 2^20 + index, the holds and the movers by 4 × die + m, and by 32 × die + page the pages that
parts of a table area were evacuated to, one more than the location (R158); and what detached receivers are owed. -/
structure AlmSt where
  plans : List Plan
  jobs : List Job
  shares : List Share
  nextJob : Nat
  nextShare : Nat
  migs : List Mig
  slabs : SMap Nat
  cache : SMap Nat
  holds : SMap (List XlatHold)
  movers : SMap Mover
  tabs : SMap Nat
  owed : List Owed
  deriving DecidableEq, Repr

/-- The snapshot an arming takes (08 R175), with the TAG it replaced (R177); the job of the share a steward armed it for, and the cluster
whose data, lost by a detached receiver, it completes (R191). -/
structure Arming where
  desc : Nat
  list : Nat
  count : Nat
  notify : Nat
  tag : Nat
  lagMax : Nat
  enable : Nat
  bases : List Nat
  replaced : Option Nat
  job : Option Nat
  serves : Option Nat
  deriving DecidableEq, Repr

/-- An endpoint after fetch (08 R179): an address, or a slot's offset with the place of each 64 KiB unit. -/
structure SeEnd where
  base : Nat
  units : Option (SMap Nat)
  deriving DecidableEq, Repr

/-- An entry in the entry queue (08 R180 to R183, R187): its kind 0 READ, 1 WRITE, 2 REMOTE; the 64-byte units issued, of a multicast
block those read, its bytes, the units issued to each receiver and the receivers that have delivered it; and whether a read or write
of it failed. -/
structure SeEntry where
  idx : Nat
  kind : Nat
  src : SeEnd
  dst : SeEnd
  rowLen : Nat
  rows : Nat
  srcPitch : Nat
  dstPitch : Nat
  dep : Bool
  mcast : Bool
  notify : Bool
  etag : Nat
  issued : Nat
  data : List Byte
  sent : SMap Nat
  delivered : Nat
  bad : Bool
  complete : Bool
  deriving DecidableEq, Repr

/-- A running transfer (08 R176 to R195): the entries fetched, those of them that have not left the queue, its flags, attached and
detached receivers, D_i, the cause and entry met first, whether it has failed or been flushed, detach notices to send, and the 64-byte
units it has written, each with one more than the index of the latest entry in the list that wrote it. -/
structure Transfer where
  arm : Arming
  fetched : Nat
  entries : List SeEntry
  flags : Nat
  attached : Nat
  detached : Nat
  delivered : SMap Nat
  met : Option (Nat × Nat)
  failed : Bool
  flushed : Bool
  notices : List (Nat × Nat)
  wrote : SMap Nat
  deriving DecidableEq, Repr

/-- A stream engine, but for its registers (chapter 8): the running transfer, the run queue, pending armings by descriptor, and held
slot writes: slot, master, value. -/
structure StreamEng where
  run : Option Transfer
  queue : List Arming
  pending : List Arming
  slots : List (Nat × Nat × Nat)
  deriving DecidableEq, Repr

def StreamEng.init : StreamEng := { run := none, queue := [], pending := [], slots := [] }

/-- A packet of the module network (10 Table 10-5): its header fields; here counts the cycles it has waited at its router; marks hold
REREAD, FAILED, LOST and the SAT bit of ATOMIC_RESULT in bits 0 to 3; mb is the mailbox a MAILBOX message names. -/
structure Packet where
  type : Nat
  urg : Nat
  base : Nat
  wait : Nat
  here : Nat
  src : Nat
  srcPort : Nat
  dest : Nat
  hop : Nat
  noAck : Bool
  route : Nat
  txn : Nat
  addr : Nat
  len : Nat
  status : Nat
  marks : Nat
  data : List Byte
  en : List Bool
  mb : Nat
  deriving DecidableEq, Repr

/-- A request an NI has outstanding (10 R225, R231): its transaction number, its master, and whether it has timed out. -/
structure Pending where
  txn : Nat
  who : Nat
  late : Bool
  deriving DecidableEq, Repr

/-- A die's trace writer (10 R242, R243): the records that wait, the next SEQ, and the base, size and wrap taken when TRACE_RUN was
set. -/
structure Tracer where
  store : List (List Byte)
  seq : Nat
  base : Nat
  log2 : Nat
  wrap : Bool
  deriving DecidableEq, Repr

def Tracer.init : Tracer := { store := [], seq := 0, base := 0, log2 := 12, wrap := true }

/-- The module network (chapter 10): the queues of router inputs, of ingresses, requests outstanding and responses arrived by NI, the
input each output served last, bridge flits failed in a row by ingress, bridges that are down, and the trace writers. -/
structure NetSt where
  queues : SMap (List Packet)
  ingress : SMap (List Packet)
  outst : SMap (List Pending)
  arrived : SMap (List Packet)
  /-- by 4 × NI + network: packets handed to an NI that have not entered its router -/
  waits : SMap (List Packet)
  served : SMap Nat
  fails : SMap Nat
  down : SMap Nat
  tracers : SMap Tracer
  deriving DecidableEq, Repr

/-- A request user logic has handed an FNI (11 R261, R262). -/
structure FniReq where
  kind : Nat
  addr : Nat
  len : Nat
  tag : Nat
  noAck : Bool
  data : List Byte
  en : List Bool
  deriving DecidableEq, Repr

/-- An FNI, but for its registers (11 R262 to R265): the requests that wait for injection; the tags of requests outstanding with their
transaction numbers, none before injection; the messages held; and the target accesses passed to user logic and not answered, each with
its requester, whether it writes, and the packet that asked, if any. -/
structure Fni where
  reqs : List FniReq
  tags : List (Nat × Option Nat)
  sink : List (Nat × List Nat)
  targets : List (Nat × Bool × Option Packet)
  deriving DecidableEq, Repr

def Fni.init : Fni := { reqs := [], tags := [], sink := [], targets := [] }

/-- A fabric I/O pin's registers (11 R270, R271): the output and output-enable registers' levels, the input registers' levels of the last
rising and falling edge, and the slew setting in effect. -/
structure IoPin where
  out : Bool
  oe : Bool
  inRise : Bool
  inFall : Bool
  slew : Nat
  deriving DecidableEq, Repr

def IoPin.init : IoPin := { out := false, oe := false, inRise := false, inFall := false, slew := 0 }

/-- The fabric (chapter 11), but for its registers. Regions are numbered 24 × d + r. -/
structure FabSt where
  /-- configuration memory: the 4,096 bits of a frame, by address word (13 R306); and, at 2^32 above their addresses, the REGION frames
  that stood when a region's fences closed, which choose what its closed fences drive (R260; 13 R319) -/
  frames : SMap Nat
  /-- where a region's start-up stands: 0 in the hold state, 1 to 4 the steps of Table 13-6 that have run -/
  step : SMap Nat
  /-- the 16 flip-flops of a P-block that differ from INIT, by 1024 × region + p -/
  ffs : SMap Nat
  /-- words of memory-mode P-blocks, and 9-bit bytes of fabric RAM, that differ from their configured contents -/
  mems : SMap Nat
  rams : SMap Nat
  /-- the output and the output register of a RAM port, by 4 × (64 × region + block) + 2 × port + stage -/
  outs : SMap Nat
  /-- the divider in effect, by 16 × region + k (R258) -/
  divs : SMap Nat
  /-- 1 for a regional clock whose multiplexer's output has stopped and stays low, in a switch (R257), by 16 × region + k -/
  low : SMap Nat
  /-- pins of the I/O banks, by 32 × bank + pin -/
  pins : SMap IoPin
  /-- FNIs by 32 × d + f -/
  fnis : SMap Fni
  /-- the level of the HOLD_PU pin, and the banks whose held pins have the pull-up -/
  holdPu : Bool
  pulls : Nat
  deriving DecidableEq, Repr

/-- What a result in flight does when it lands (12 R279 to R286): a register of the bank it was issued in; an accumulator operation, whose
product replaces or joins the accumulator, with MACN's register and shift; a control register; events to clear; ARST's mode; AFEED's element. -/
inductive SlWhat
  | reg (x : Nat) (v : Nat)
  | acc (a : Nat) (zero : Bool) (re im : Int) (norm : Option (Nat × Nat))
  | ctl (i : Nat) (v : Nat)
  | fclr (mask : Nat)
  | arst (mode : Nat)
  | feed (v : Nat)
  deriving DecidableEq, Repr

/-- A result in flight: the cycle it lands in, its place in the order of R280, and whether it is of the shadow bank. -/
structure SlRes where
  due : Nat
  order : Nat
  shadow : Bool
  what : SlWhat
  deriving DecidableEq, Repr

/-- The bundle issued last (12 R276, R278): its slots still to act (bit 0 AUX, 1 M, 2 L, 3 C), WBASE and the loops as they stood, and
the data-memory words it stored to as they were before. -/
structure SlIssued where
  pc : Nat
  word : Nat
  base : Nat
  cycle : Nat
  shadow : Bool
  todo : Nat
  loops : List (Nat × Nat × Nat)
  stores : List (Nat × Nat × Bool)
  deriving DecidableEq, Repr

/-- A signal slice, but for its registers (12 Table 12-1): general registers (0 to 31 main, 32 to 47 shadow), accumulators (0 to 3 main, 4 to 7
shadow), the loops as first bundle, last bundle and iterations left, innermost first, the auxiliary state, the cycle of its next bundle, its
memories and their words of bad parity, its image as configured, its queues and its outbox: which, whether its packets are sent, and the status
of its first ERROR. -/
structure Slice where
  g : SMap Nat
  acc : SMap (Int × Int)
  wbase : Nat
  loops : List (Nat × Nat × Nat)
  frozen : List (Nat × Nat × Nat)
  auxMode : Nat
  auxBest : Option (Int × Nat)
  auxCount : Nat
  now : Nat
  flight : List SlRes
  issued : Option SlIssued
  dmem : SMap Nat
  dbad : SMap Nat
  pmem : SMap Nat
  pbad : SMap Nat
  image : Option (List Nat)
  epoch : Nat
  ingress : List Nat
  ingCount : Nat
  egress : List Nat
  outbox : Option (Nat × Bool × Nat)
  deriving DecidableEq, Repr

def Slice.init : Slice :=
  { g := [], acc := [], wbase := 0, loops := [], frozen := [], auxMode := 0, auxBest := none, auxCount := 0, now := 0, flight := [], issued := none,
    dmem := [], dbad := [], pmem := [], pbad := [], image := none, epoch := 0, ingress := [], ingCount := 0, egress := [], outbox := none }

/-- A configuration stream's header (13 Table 13-2). -/
structure CfgHdr where
  part : Bool
  dies : Nat
  count : Nat
  regions : Nat
  design : Nat
  deriving DecidableEq, Repr

/-- The test port and the configuration controller, but for their registers (chapter 13): the instruction register and the boundary
register; stream bits taken and how many; the state a load began in; the accepted header; frames written in this load, by address, and those
of them not yet verified, oldest first, with whether they were resent; verified frames by region; the last verified frame; the frame whose
CRC failed, the bits discarded since, and whether RETRY has been loaded; the Harvest capture; the test-port master's last access: whether it is
out, how many outputs there were when it went out, its data, its status and whether there was one. -/
structure CfgSt where
  ir : Nat
  boundary : Nat
  buf : Nat
  len : Nat
  base : Nat
  hdr : Option CfgHdr
  seen : SMap Nat
  waits : List (Nat × Bool)
  got : SMap Nat
  lastOk : Option Nat
  failed : Nat
  dropped : Nat
  resend : Bool
  harvest : Option (Nat × Nat × List Nat)
  netBusy : Bool
  netAt : Nat
  netData : Nat
  netStatus : Nat
  netDone : Bool
  deriving DecidableEq, Repr

def CfgSt.init : CfgSt :=
  { ir := 0x02, boundary := 0, buf := 0, len := 0, base := 0, hdr := none, seen := [], waits := [], got := [], lastOk := none, failed := 0, dropped := 0,
    resend := false, harvest := none, netBusy := false, netAt := 0, netData := 0, netStatus := 0, netDone := false }

/-- A block of the vendor lane protocol (14 R333): a data or a control block with its 64 payload bits, an ALIGN, or one whose header was
invalid. -/
inductive LnBlk
  | data (v : Nat)
  | ctrl (v : Nat)
  | align (index size : Nat)
  | bad
  deriving DecidableEq, Repr

/-- A lane, but for its registers (chapter 14): whether it sends ACK, the last CAPABILITY with ACK and how many in a row, STEP's target, what
was asked of its transmitter, its receive queue to the fabric and its blocks on the way to a frame port; the headers of the last 64 blocks
received, 1 for an invalid one, and how many valid ones came in a row (R335); the scrambler's state, the level sent last, and the blocks sent
since an IDLE (R332, R333). -/
structure Lane where
  ack : Bool
  caps : Nat
  same : Nat
  target : Nat
  asked : Bool
  slip : Bool
  rx : List (Bool × Nat)
  fifo : List LnBlk
  hdrs : Nat
  run : Nat
  scr : Nat
  level : Nat
  sent : Nat
  deriving DecidableEq, Repr

def Lane.init : Lane :=
  { ack := false, caps := 0, same := 0, target := 0, asked := false, slip := false, rx := [], fifo := [], hdrs := 0, run := 0, scr := 0, level := 0,
    sent := 0 }

/-- A frame that a port receives or has received (14 R346 to R349): its number, FP_WR, and LANTERN_TIME at its start and end; the next line,
the data blocks seen of the current one and whether it has begun; its payload's running CRC; its status; whether a header was invalid; the
bytes written; for the tap, the current line. -/
structure Frame where
  no : Nat
  buf : Nat
  start : Nat
  stop : Nat
  line : Nat
  words : Nat
  inLine : Bool
  crc : Nat
  status : Nat
  hdrBad : Bool
  bytes : Nat
  cur : List Byte
  deriving DecidableEq, Repr

/-- A frame port, but for its registers: the lane order ALIGN gives and the place in it of the next block; the frame in progress; frames that
have ended; bytes that wait to be written: their frame's FP_WR, their address and the bytes; lines that wait for the tap and lines the
fabric holds, with their frame and number; frames discarded since the last event. -/
structure FramePort where
  order : List Nat
  turn : Nat
  frame : Option Frame
  ended : List Frame
  writes : List (Nat × Nat × List Byte)
  tapQ : List (Nat × Nat × List Byte)
  tapOut : List (Nat × Nat)
  overruns : Nat
  deriving DecidableEq, Repr

def FramePort.init : FramePort := { order := [], turn := 0, frame := none, ended := [], writes := [], tapQ := [], tapOut := [], overruns := 0 }

/-- What a proxy request is for (15 R362): a submission descriptor of a ring, a completion record, or bytes for or of a store kept
under a key: 2 × a descriptor's ticket, or 2 × a job + 1, or of firmware. -/
inductive ReqFor
  | fetch (ring : Nat)
  | record (ring : Nat)
  | io (key : Nat)
  deriving DecidableEq, Repr

/-- A request to host memory: the requester of Table 15-4, the window and its offset, the bytes to write or none, how many bytes. -/
structure HostReq where
  idx : Nat
  win : Nat
  off : Nat
  write : Option (List Byte)
  len : Nat
  why : ReqFor
  deriving DecidableEq, Repr

/-- Bytes read for a store, requests not yet answered, and whether one failed. -/
structure Io where
  buf : List Byte
  waits : Nat
  fail : Bool
  deriving DecidableEq, Repr

def Io.none : Io := { buf := [], waits := 0, fail := false }

/-- A descriptor that RING has fetched and that has not completed (15 R366); begun: its bytes have been asked for. -/
structure Ticket where
  no : Nat
  sq : Nat
  bytes : List Byte
  begun : Bool
  deriving DecidableEq, Repr

/-- A completion record that has been formed (15 R369): its ring, its 32 bytes with PHASE 0, and whether its END asks for an
event. -/
structure CRec where
  ring : Nat
  bytes : List Byte
  endEvent : Bool
  deriving DecidableEq, Repr

/-- An event that waits for the interrupt endpoint (15 R372). -/
structure HostEvent where
  kind : Nat
  tag : Nat
  arg : Nat
  deriving DecidableEq, Repr

/-- The host link (chapter 15), but for its registers: requests waiting in front of the proxy pipe, requests outstanding with their
tags, oldest first, fetched descriptors, bytes by key, records formed and held, rings whose COMPLETION event is sent and not
answered by a doorbell, events, when absence began, and the ring last served. -/
structure HlSt where
  waiting : List HostReq
  outst : List (Nat × HostReq)
  recs : List CRec
  nextTag : Nat
  tickets : List Ticket
  nextTicket : Nat
  io : SMap Io
  formed : List CRec
  held : List CRec
  evSent : Nat
  events : List HostEvent
  absentAt : Option Nat
  lastRing : Nat
  deriving DecidableEq, Repr

/-- A pin's pull (11 R270). -/
inductive PinPull | none | up | down | keeper
  deriving DecidableEq, Repr

/-- What stands at a pad from the module's side (13 R302, R315; 11 R270, R271): it floats, is pulled, is driven from the boundary register, or
is driven by user logic, single-ended with its drive strength and slew, or as a differential pair's true or complement side. -/
inductive Pad
  | floats (pull : PinPull) (hyst term : Bool)
  | scanned
  | single (level : Bool) (milliamps slew : Nat)
  | pair (level : Bool)
  deriving DecidableEq, Repr

/-- Vigil and HEALTH's power part (chapter 17), but for their registers.
* pending: enabled wake sources that are pending, as WAKE_EN; wakeAt: when the wake counter was loaded (R404).
* windows, warm: consecutive windows that let n rise, and whether a reading of this window was not cool (R407, R408).
* tripped, tripBy: whether a trip entered the last SOLSTICE and source 5 is ignored; the sensor of the last trip (R410).
* i2c: the I2C word pointer. browned: the rail of a brown-out not yet reported. refLost: REFCLK_M is missing (19 R439).
* hotMax: N_MAX as it was before a hot inlet lowered it, 0 while none has; started: the start-up of Table 17-8 has run since the last
  module reset; check: a wake's step 2 takes the next readings (R414).
* fenced, batches, lanesOn: tiles that were fenced, TILE_BATCH of every tile and lanes that were enabled when NAP was entered (R405).
* kspread: the SPREAD the KEEPER PLL runs with (R412). watts, wattsN, heat, heatN: sums and counts of the window powers and of the
  outlet's minus the inlet's temperature over this second (R415).
* pads: what every pin of every bank was latched at when its domain powered down (R406).
* rails: 0 not even VAON is up, 1 VAON, 2 those of the 54 V input too (R398). -/
structure PowSt where
  pending : Nat
  wakeAt : Nat
  windows : Nat
  warm : Bool
  tripped : Bool
  tripBy : Nat
  i2c : Nat
  browned : Option Nat
  refLost : Bool
  hotMax : Nat
  started : Bool
  check : Bool
  fenced : List Nat
  batches : List (Nat × Nat)
  lanesOn : List Nat
  kspread : Nat
  watts : Nat
  wattsN : Nat
  heat : Int
  heatN : Nat
  pads : List Pad
  rails : Nat
  deriving DecidableEq, Repr

/-- Vigil as VSTBY's arrival leaves it, once the rails are up; the KEEPER PLL spreads by 0.5 % (R412, Table 17-7). -/
def PowSt.init : PowSt :=
  { pending := 0, wakeAt := 0, windows := 0, warm := false, tripped := false, tripBy := 0, i2c := 0, browned := none, refLost := false,
    hotMax := 0, started := false, check := false, fenced := [], batches := [], lanesOn := [], kspread := 2, watts := 0, wattsN := 0,
    heat := 0, heatN := 0, pads := [], rails := 2 }

/-- What a unit tells a processor, where the spec names the message's contents and not its layout. -/
inductive Tell
  /-- a page of engine d's near tier has been retired for a requester's burst (06 R144) -/
  | pageRetired (d page who : Nat)
  /-- a far channel starts or ends full retraining (09 R206) -/
  | farRetrain (ch : Nat) (ended : Bool)
  /-- far writes were lost at these channel offsets (09 R208) -/
  | farWritesLost (ch : Nat) (ps : List Nat)
  /-- a tile or its bank is to be taken out of use, or FENCED cleared (18 R430, R431) -/
  | tileRetired (t : Nat)
  | clearFence (t : Nat)

  deriving DecidableEq, Repr

/-- The end report of a tile command or a vector descriptor (03 R65, R73; 04 R101): status 0 OK, 1 ABORTED, 2 REJECTED. -/
structure EndReport where
  unit : TrapUnit
  src : CmdSrc
  opTag : Nat
  status : Nat
  cause : Nat
  flags : Nat
  poisoned : List Nat
  last : Bool
  deriving DecidableEq, Repr

/-- What units send out of the block, in order (log 6). -/
inductive Output
  /-- A response to a master: status of Table 10-7, data, and the marks REREAD (bit 0), FAILED (bit 1), LOST (bit 2), SAT
  (bit 3) and the error mark of a bank word (bit 4). -/
  | resp (dest : Nat) (status : Nat) (data : List Byte) (marks : Nat)
  /-- An end report to a command's source. -/
  | ended (r : EndReport)
  /-- A message to a processor (log 6). -/
  | tell (t : Tell)
  /-- An INVALIDATE, INVALIDATE_ACK or DOORBELL packet, delivered to the port DEST names (10 Table 10-4; the spec gives its payload no layout). -/
  | snp (dest type src : Nat) (data : List Byte)
  /-- The user port of FNI f of die d (11 Table 11-6): a response, an access to its target window, a message. -/
  | fniResp (d f tag status : Nat) (data : List Byte) (marks : Nat)
  | fniTarget (d f : Nat) (write : Bool) (addr data src : Nat)
  | fniMessage (d f : Nat) (words : List Nat) (sender : Nat)
  /-- A word of slice s's egress queue, to user logic (12 R292). -/
  | sliceOut (d s : Nat) (word : Nat)
  /-- What TDO presents: so many bits, first bit least significant (13 R301). -/
  | tdo (bits : Nat) (value : Nat)
  /-- Blocks lane i passes to the fabric, each with its control bit, or a RAW word with RX_SLIP; blocks it sends, and the symbols they are on
  the line, first sent first; a line of frame port k on its tap (14 Tables 14-5, 14-7). -/
  | laneRx (d i : Nat) (blocks : List (Bool × Nat))
  | laneTx (d i : Nat) (blocks : List (Bool × Nat)) (line : List Nat)
  | tapLine (d k : Nat) (data : List Byte)
  /-- A Peneb message to the host (15 Table 15-2): TYPE, STATUS, TAG, WINDOW, ARG and payload. -/
  | peneb (type status tag win : Nat) (arg : Nat) (data : List Byte)
  /-- What the I2C target answers: an acknowledged or refused byte, or a word (17 R417). -/
  | i2cAck (ok : Bool)
  | i2cWord (value : Nat)
  deriving DecidableEq, Repr

/-- The module's fuses: the ordering code, the serial number and the keys (01 R22; 16 R395). -/
structure Fuses where
  /-- GiB of far tier per channel: 48 for TXC6-A1152-L, 24 for TXC6-A0576-L. -/
  farGib : Nat
  serial : Nat
  /-- the integrator key as fused, none while it is not (16 R395) -/
  intKey : Option (List Nat)
  idPub : List Nat
  /-- factory entries of tiles (16 bits, as Table 18-6) and retired banks (18 R433) -/
  tileEntry : SMap Nat
  bankRetired : SMap Nat
  deriving DecidableEq, Repr

/-- The machine, but for the queue of commands. -/
structure Mach where
  fuses : Fuses
  /-- the register fields that differ from their reset values, by field and place (00 R6) -/
  fields : SMap Nat
  /-- the bytes of the near tier, the far tier and the banks that are not 0, by module address (01 R16) -/
  mem : List Host.Cell
  /-- 32-bit lanes of banks whose stored parity is bad, by lane address (06 R127) -/
  bankBad : SMap Nat
  tiles : SMap Tile
  ves : SMap Ve
  arbs : SMap Arb
  /-- granted bank accesses that are outstanding, per bank port, oldest first -/
  bankOut : SMap (List BankAcc)
  /-- ARRAY cycles of each engine die since its reset; the trap timer is its low 32 bits (05 R114) -/
  arrayCycle : SMap Nat
  /-- by die: NOC cycles since power came -/
  nocCycle : SMap Nat
  near : NearSt
  test : TestSt
  far : FarSt
  alm : AlmSt
  /-- the stream engines, by 16 × d + e -/
  ses : SMap StreamEng
  net : NetSt
  fab : FabSt
  /-- the signal slices, by 64 × d + s -/
  slices : SMap Slice
  cfg : CfgSt
  /-- lanes by 48 × d + i, frame ports by 6 × d + k -/
  lanes : SMap Lane
  ports : SMap FramePort
  hl : HlSt
  fw : FwSt
  /-- time since module reset in 400 ps steps, the ARRAY cycle at full clock (the model's own, log 1) -/
  ticks : Nat
  pow : PowSt
  /-- what was sent out of the block, oldest first (the model's own, log 6) -/
  out : List Output
  /-- how many free values have been used (the model's own, log 7) -/
  free : Nat
  deriving DecidableEq, Repr

/-- The state: the machine and the commands that wait, first in first out. -/
structure State where
  m : Mach
  pending : List Instr
  deriving DecidableEq, Repr

/-- The machine right after reset: every register at its reset value, memory with nothing listed. -/
def Mach.reset : Mach :=
  { fuses := { farGib := 48, serial := 0, intKey := none, idPub := [], tileEntry := [], bankRetired := [] }, fields := [], mem := [], bankBad := [], tiles := [], ves := [],
    arbs := [], bankOut := [], arrayCycle := [], nocCycle := [],
    near := ⟨[], [], [], []⟩, test := ⟨[], none, none, [], []⟩, far := ⟨[], []⟩,
    alm := { plans := [], jobs := [], shares := [], nextJob := 0, nextShare := 0, migs := [], slabs := [], cache := [], holds := [], movers := [],
             tabs := [], owed := [] },
    ses := [],
    net := { queues := [], ingress := [], outst := [], arrived := [], waits := [], served := [], fails := [], down := [], tracers := [] },
    fab := { frames := [], step := [], ffs := [], mems := [], rams := [], outs := [], divs := [], low := [], pins := [], fnis := [], holdPu := false, pulls := 0 },
    slices := [],
    cfg := CfgSt.init,
    lanes := [], ports := [],
    hl := { waiting := [], outst := [], recs := [], nextTag := 0, tickets := [], nextTicket := 0, io := [], formed := [], held := [], evSent := 0,
            events := [], absentAt := none, lastRing := 63 },
    fw := { flash := factoryFlash, prefer := [], lastSlot := [], refLatched := false, mails := [], latches := [], sendHeld := [], procs := [],
            crashSeq := 0, log := [], nonce := [], report := [] },
    ticks := 0,
    pow := PowSt.init,
    out := [], free := 0 }

/-- The state right after reset. -/
def State.reset : State := { m := Mach.reset, pending := [] }

/-- Why the machine stops with a fault. -/
inductive Fault
  /-- Raised by no command so far as the spec goes: an access outside the address space gets an error response (01 R19), so
  nothing in this block stops it. Kept so that Fault is inhabited. Safe: it stops. -/
  | noSuchUnit
  deriving DecidableEq, Repr

/-- Why a command has no meaning. -/
inductive Refusal
  /-- The command's meaning is not written. Raised in Dispatch.lean alone. Safe: it stops. -/
  | notModelled (mnemonic : String)
  deriving DecidableEq, Repr

end Sys2Proof.Machine
end

