-- ==== Sys2Proof/Machine/Ops.lean ====
section
/-! DEFINITION. The named operations over registers, memory and units that the meanings share. -/

namespace Sys2Proof.Machine

/-! Register fields -/

/-- The place of a register: die and up to three indices. -/
def ix (die i j k : Nat) : Nat := die + 8 * (i + 128 * (j + 512 * k))

/-- The places of a tile's, a cluster's and a bank's registers. -/
def tileIx (t : Nat) : Nat := ix (t / 160) (t / 16 % 10) (t % 16) 0
def clIx (c : Nat) : Nat := ix (c / 10) (c % 10) 0 0
def bankIx (b : Nat) : Nat := ix (b / 160) (b / 16 % 10) (b % 16) 0
def clSub (c i : Nat) : Nat := ix (c / 10) (c % 10) i 0

/-- The key of a field at a place. -/
def fkey (f : Fld) (p : Nat) : Nat := f.id * 2 ^ 24 + p

/-- A field's value at reset, at a place (00 R6 and the register tables). -/
def resetOf (fu : Fuses) (f : Fld) (p : Nat) : Nat :=
  match f.rst with
  | .const n => n
  | .dieIndex => p % 8
  | .farGib => fu.farGib
  | .ranks => if fu.farGib = 48 then 2 else 1
  | .serialLo => fu.serial % 2 ^ 32
  | .serialHi => fu.serial / 2 ^ 32 % 2 ^ 32
  | .slotKind =>
    let i := p / 1024 % 512 % 8
    if i = 6 then 1 else if i = 7 then 2 else 0
  | .niClass =>
    let q := p / 8 % 128
    if q = 61 then 0 else if 54 ≤ q ∧ q ≤ 59 then 1 else if q = 63 then 4 else 3
  | .intKeyPresent => b2n fu.intKey.isSome
  | .idPub => nth 0 fu.idPub (p / 8 % 128)

/-- Reading a field. -/
def Mach.rd (m : Mach) (f : Fld) (p : Nat) : Nat := SMap.get (resetOf m.fuses f p) (fkey f p) m.fields

/-- Writing a field: the value is cut to the field's bits. -/
def Mach.wr (m : Mach) (f : Fld) (p v : Nat) : Mach :=
  { m with fields := SMap.put (resetOf m.fuses f p) (fkey f p) (v % 2 ^ f.width) m.fields }

/-- Whether a one-bit field is set. -/
def Mach.on (m : Mach) (f : Fld) (p : Nat) : Bool := m.rd f p != 0

/-- Setting an event bit. -/
def Mach.ev (m : Mach) (f : Fld) (p : Nat) : Mach := m.wr f p 1

/-- Counting into a register that saturates, and into one that wraps. -/
def Mach.cnt (m : Mach) (f : Fld) (p n : Nat) : Mach := m.wr f p (satAdd32 (m.rd f p) n)
def Mach.wrap (m : Mach) (f : Fld) (p n : Nat) : Mach := m.wr f p (m.rd f p + n)

/-- ORing into a field. -/
def Mach.orIn (m : Mach) (f : Fld) (p v : Nat) : Mach := m.wr f p (m.rd f p ||| v)

/-! Power and clock domains (17 R400, R412) -/

/-- The domains of Table 17-3, with the clock of a die that moves each: the keeper; tiles and vector engines; banks; the network, stream engines,
movers and translators; slices; near and far controllers; what else is of the uncore, the fabric and the lanes; the DRAM's refresh; and Vigil with
what is always on. -/
inductive Dom
  | keeper | core (d : Nat) | sram (d : Nat) | noc (d : Nat) | slice (d : Nat) | near (d : Nat) | far (d : Nat) | uncore | refresh | vigil
  deriving DecidableEq, Repr

/-- The power state: 0 ACTIVE, 1 IDLE, 2 NAP, 3 SOLSTICE. -/
def Mach.power (m : Mach) : Nat := m.rd F.vigilStatusState 6

/-- An enabled PLL of a die has lost lock: its domain's clock on the die is stopped (17 R412). -/
def Mach.clockLost (m : Mach) (d i : Nat) : Bool := bitOf i (m.rd F.clkCtrlPllEn d) && !bitOf i (m.rd F.clkStatusLocked d)

/-- The highest power state a domain runs in (17 Table 17-3), and its PLL (Table 17-7). -/
def Dom.upTo : Dom → Nat
  | .vigil => 3
  | .keeper | .refresh => 2
  | .core _ => 0
  | _ => 1

def Dom.pll : Dom → Option (Nat × Nat)
  | .core d | .sram d => some (d, 0)
  | .noc d => some (d, 1)
  | .slice d => some (d, 2)
  | .near d => some (d, 3)
  | .far d => some (d, 4)
  | _ => none

/-- Whether a domain runs: its rails are up, its power and clock are not taken, and its dies are not held in reset for want of REFCLK_M
(17 R398, 19 R439). -/
def Mach.alive (m : Mach) (x : Dom) : Bool :=
  (x == .vigil && m.pow.rails != 0) || (m.pow.rails == 2 && !m.pow.refLost && decide (m.power ≤ x.upTo) && (match x.pll with
    | some (d, i) => !m.clockLost d i
    | none => true))

/-- A meaning that changes the machine and leaves the queue alone; a command to a domain that does not run changes nothing (log 5). -/
def State.on (s : State) (x : Dom) (f : Mach → Mach) : Host.Outcome State Fault Refusal := .next (if s.m.alive x then { s with m := f s.m } else s)

/-- The domain of a processor, and of a die's network. -/
def procDom (p : Nat) : Dom := if p < 4 then .keeper else .noc (p - 4)
def dieDom (die : Nat) : Dom := if die < 6 then .noc die else .keeper

/-! What leaves the block -/

def Mach.send (m : Mach) (o : Output) : Mach := { m with out := m.out ++ [o] }

/-- A response to a master (10 R239). -/
def Mach.respond (m : Mach) (who status : Nat) : Mach := m.send (.resp who status [] 0)

/-- The cluster of a unit, and its tile number where it is a tile. -/
def unitCluster : TrapUnit → Nat
  | .tile t => t.val / 16
  | .ve c => c.val

def unitTile : TrapUnit → Option Nat
  | .tile t => some t.val
  | .ve _ => none

/-- Whether a report says that its work has to be done again: poisoned rows, or work aborted or rejected (05 R119, R120). -/
def EndReport.bad (r : EndReport) : Bool :=
  r.status != 0 || (match r.unit with
    | .tile _ => !r.poisoned.isEmpty
    | .ve _ => r.poisoned.any (fun x => x != 0))

/-- What a share learns from the end report of one of its commands or descriptors (05 R112, R120). -/
def Share.hear (s : Share) (r : EndReport) : Share :=
  let tiles := match unitTile r.unit with
    | some t => if r.poisoned.isEmpty then [] else [t]
    | none => []
  let w := s.waits - 1
  let f := s.failed || r.bad
  { s with waits := w, failed := f, poisonNow := s.poisonNow ++ tiles, ended := s.ended || (w == 0 && s.todo.isEmpty && !f) }

/-- The steward hears the report of work it queued: the share counts it and its flags join the event's (05 R112). -/
def AlmSt.hear (a : AlmSt) (r : EndReport) : AlmSt :=
  match a.shares.find? (fun s => s.cluster == unitCluster r.unit && s.tag == r.opTag && decide (0 < s.waits)) with
  | none => a
  | some s =>
    { a with shares := a.shares.map (fun x => if x.id = s.id then x.hear r else x),
             jobs := a.jobs.map (fun j => if j.id = s.job then { j with run := j.run.map (fun e => { e with flags := e.flags ||| r.flags % 64 }) } else j) }

/-- An end report goes to the command's source (03 R65, 04 R101): the steward, or the master in raw cluster mode. -/
def Mach.ended (m : Mach) (r : EndReport) : Mach :=
  let m1 := m.send (.ended r)
  match r.src with
  | .work => { m1 with alm := m1.alm.hear r }
  | .raw _ => m1

/-! Free values (log 7) -/

/-- A fresh free value of w bits: numbered by the counter, which it advances. -/
def Mach.fresh (m : Mach) (w : Nat) : Nat × Mach :=
  ((Config.freeBits w (8 * m.free)).toNat, { m with free := m.free + 1 })

/-- The free value that a place of a store holds while nothing has written it since the epoch began. -/
def freeAt (w kind epoch place : Nat) : Nat := (Config.freeBits w (8 * (epoch * 2 ^ 40 + place) + kind)).toNat

/-! Memory (01 R16 to R19) -/

/-- What an address that nothing has written reads as (log 4). -/
def memDefault : Byte := 0

/-- The canonical form of memory: addresses rise strictly and no byte is the default. -/
def Memory.wf (mem : List Host.Cell) : Bool := SMap.wf memDefault mem

def Mach.byte (m : Mach) (a : Nat) : Byte := SMap.get memDefault a m.mem

def Mach.putByte (m : Mach) (a : Nat) (b : Byte) : Mach := { m with mem := SMap.put memDefault a b m.mem }

/-- n bytes from an address up. -/
def Mach.bytes (m : Mach) (a : Nat) : Nat → List Byte
  | 0 => []
  | n + 1 => m.byte a :: m.bytes (a + 1) n

/-- Bytes written from an address up. -/
def Mach.putBytes (m : Mach) (a : Nat) : List Byte → Mach
  | [] => m
  | b :: l => (m.putByte a b).putBytes (a + 1) l

/-- Bytes written where their enable is set. -/
def Mach.putEn (m : Mach) (a : Nat) : List Byte → List Bool → Mach
  | b :: l, e :: es => (if e then m.putByte a b else m).putEn (a + 1) l es
  | _, _ => m

/-- The 32-bit little-endian word at an address. -/
def Mach.word32 (m : Mach) (a : Nat) : Nat := leNat (m.bytes a 4)

/-- A 64-bit little-endian number at an address. -/
def Mach.word64 (m : Mach) (a : Nat) : Nat := leNat (m.bytes a 8)

/-! Address map (01 Table 1-3, R17, R18) -/

def nearBase (d : Nat) : Nat := 0x200000000000 + d * 0x1800000000
def nearSize : Nat := 0x1800000000
def farSize (fu : Fuses) : Nat := 2 ^ 32 * fu.farGib
def farBase (fu : Fuses) (d : Nat) : Nat := d * farSize fu
def clusterBase (c : Nat) : Nat := 0x300000000000 + c / 10 * 0x100000000 + c % 10 * 0x2000000
def clusterSize : Nat := 20 * 2 ^ 20
def bankBase (b : Nat) : Nat := clusterBase (b / 16) + b % 16 * 0x140000
/-- A cluster word index (03 R72). -/
def wordAddr (c cw : Nat) : Nat := clusterBase c + cw * 64
def regBase (die : Nat) : Nat := 0x3F0000000000 + die * 0x1000000000

/-- The store an address belongs to (01 R19): the far or near tier of an engine, a cluster's banks, a die's registers. -/
inductive Place
  | far (d : Nat) (o : Nat)
  | near (d : Nat) (o : Nat)
  | sram (c : Nat) (o : Nat)
  | reg (die : Nat) (o : Nat)
  | none
  deriving DecidableEq, Repr

def placeOf (fu : Fuses) (a : Nat) : Place :=
  if a < 6 * farSize fu then .far (a / farSize fu) (a % farSize fu)
  else if 0x200000000000 ≤ a ∧ a < nearBase 6 then .near ((a - 0x200000000000) / nearSize) ((a - 0x200000000000) % nearSize)
  else if 0x300000000000 ≤ a ∧ a < 0x300600000000 then
    let r := a - 0x300000000000
    let c := r % 0x100000000 / 0x2000000
    let o := r % 0x2000000
    if c < 10 ∧ o < clusterSize then .sram (r / 0x100000000 * 10 + c) o else .none
  else if 0x3F0000000000 ≤ a ∧ a < regBase 7 then .reg ((a - 0x3F0000000000) / 0x1000000000) ((a - 0x3F0000000000) % 0x1000000000)
  else .none

/-! Units -/

def Mach.tile (m : Mach) (t : Nat) : Tile := SMap.get Tile.init t m.tiles
def Mach.setTile (m : Mach) (t : Nat) (x : Tile) : Mach := { m with tiles := SMap.put Tile.init t x m.tiles }
def Mach.ve (m : Mach) (c : Nat) : Ve := SMap.get Ve.init c m.ves
def Mach.setVe (m : Mach) (c : Nat) (x : Ve) : Mach := { m with ves := SMap.put Ve.init c x m.ves }

/-- The ARRAY cycles of a die since its reset (05 R114). -/
def Mach.cycles (m : Mach) (d : Nat) : Nat := SMap.get 0 d m.arrayCycle

/-! Master identities (10 Table 10-3) -/

def idHost : Nat := 0x0000
def idRing : Nat := 0x1000
def idAlmanac : Nat := 0x1001
def idLink : Nat := 0x1002
def idHealth : Nat := 0x1003
def idSteward (d : Nat) : Nat := 0x2000 + d
def idSlice (d s : Nat) : Nat := 0x3000 + d * 64 + s
def idFni (d f : Nat) : Nat := 0x4000 + d * 32 + f
def idSe (d e : Nat) : Nat := 0x5000 + d * 16 + e
def idTest : Nat := 0x6000
def idMover (d k : Nat) : Nat := 0x7000 + d * 4 + k
def idTranslator (d : Nat) : Nat := 0x8000 + d
def idFrame (d k : Nat) : Nat := 0x9000 + d * 6 + k
def idLantern (d : Nat) : Nat := 0xA000 + d

/-! Banks (chapter 6) -/

/-- Who asks a bank: a port A requester by its LOCAL bit number, a network master by its identity, or the test port. -/
inductive BankWho
  | local (bit : Nat)
  | remote (id : Nat)
  | test
  deriving DecidableEq, Repr

/-- Whether remote entry i of a group matches an identity (06 R129). -/
def remoteMatch (m : Mach) (c g id : Nat) (i : Nat) : Bool :=
  let p := ix (c / 10) (c % 10) g i
  bitOf i (m.rd F.ownerGroupRemoteEn (clSub c g)) &&
    ((id ^^^ m.rd F.ownerGroupValue p) &&& (0xFFFF - m.rd F.ownerGroupIgnore p)) == 0

/-- Membership of an owner group (06 R129). No one but the test port is a member of the missing group 0xF. -/
def isMember (m : Mach) (c g : Nat) : BankWho → Bool
  | .test => true
  | .local bit => decide (g < 8) && bitOf bit (m.rd F.ownerGroupLocal (clSub c g))
  | .remote id => decide (g < 8) && (upFrom 0 4).any (remoteMatch m c g id)

/-- How a bank answers an access in its arbitration cycle (06 R130, R131). -/
inductive Adm | ok | refused | held
  deriving DecidableEq, Repr

/-- Admission at bank b, by its current group and, during a handover, its target (06 R130, R131 step 2). -/
def bankAdm (m : Mach) (b : Nat) (w : BankWho) : Adm :=
  let c := b / 16
  let p := bankIx b
  let cur := isMember m c (m.rd F.bankOwnerCurrent p) w
  if m.on F.bankOwnerPending p then
    if isMember m c (m.rd F.bankOwnerGroup p) w then (if cur then .ok else .held) else .refused
  else if cur then .ok else .refused

def BankWho.code : BankWho → Nat
  | .local bit => bit
  | .remote id => id
  | .test => idTest

/-- A refusal is counted and recorded (06 R130). -/
def Mach.bankRefuse (m : Mach) (b : Nat) (w : BankWho) : Mach :=
  ((m.cnt F.bankRefused (bankIx b) 1).wr F.bankLastRefusedId (clIx (b / 16)) w.code).wr F.bankLastRefusedBank (clIx (b / 16)) (b % 16)

/-- The number of a 32-bit lane, by its address. -/
def laneOf (a : Nat) : Nat := a / 4

def Mach.laneBad (m : Mach) (l : Nat) : Bool := SMap.get 0 l m.bankBad != 0
def Mach.setLaneBad (m : Mach) (l : Nat) (bad : Bool) : Mach := { m with bankBad := SMap.put 0 l (b2n bad) m.bankBad }

/-- Lanes of the word at an address whose parity is bad, counting from lane i. -/
def badLanes (m : Mach) (a : Nat) : Nat → Nat → List Nat
  | _, 0 => []
  | i, n + 1 => if m.laneBad (laneOf a + i) then i :: badLanes m a (i + 1) n else badLanes m a (i + 1) n

/-- One failing word is counted once and recorded with its lowest failing lane (06 R127). -/
def Mach.parityFail (m : Mach) (b a lane : Nat) : Mach :=
  let p := clIx (b / 16)
  (((m.cnt F.bankParityErrs (bankIx b) 1).wr F.bankLastParityWord p ((a - bankBase b) / 64)).wr F.bankLastParityBank p (b % 16)).wr
    F.bankLastParityLane p lane

/-- The bank of an address of cluster c. -/
def bankOfAddr (c a : Nat) : Nat := c * 16 + (a - clusterBase c) / 0x140000

/-- A word read with its parity checked (06 R127): its bytes, whether it carries an error mark, and the machine after. -/
def Mach.readWord (m : Mach) (b a : Nat) : List Byte × Bool × Mach :=
  match badLanes m a 0 16 with
  | [] => (m.bytes a 64, false, m)
  | l :: _ => (m.bytes a 64, true, m.parityFail b a l)

/-- How many of the four enables of lane i are set. -/
def laneEn (en : List Bool) (i : Nat) : Nat :=
  b2n (nth false en (4 * i)) + b2n (nth false en (4 * i + 1)) + b2n (nth false en (4 * i + 2)) + b2n (nth false en (4 * i + 3))

/-- The lanes of a word that a write leaves bad: those it enables in part and finds bad (06 R127). -/
def badMerge (m : Mach) (a : Nat) (en : List Bool) : List Nat :=
  (upFrom 0 16).filter (fun i => m.laneBad (laneOf a + i) && decide (0 < laneEn en i) && decide (laneEn en i < 4))

/-- Fresh parity for the lanes a write covers. -/
def Mach.freshLanes (m : Mach) (a : Nat) (en : List Bool) : List Nat → Mach
  | [] => m
  | i :: l => (if laneEn en i = 4 then m.setLaneBad (laneOf a + i) false else m).freshLanes a en l

/-- A word write with byte enables, merged lane by lane (06 R127). -/
def Mach.writeWord (m : Mach) (b a : Nat) (data : List Byte) (en : List Bool) : Mach :=
  let bad := badMerge m a en
  let m1 := ((m.putEn a data en).freshLanes a en (upFrom 0 16))
  match bad with
  | [] => m1
  | l :: _ => m1.parityFail b a l

/-- Parity upsets the surroundings brought: lanes of cluster c by cluster word × 16 + lane. -/
def Mach.upsetLanes (m : Mach) (c : Nat) : List Nat → Mach
  | [] => m
  | l :: ls => ((m.setLaneBad (laneOf (clusterBase c) + l) true).upsetLanes c ls)

/-- The cluster words that n bytes from byte offset o of the cluster lie in. -/
def wordsOf (o n : Nat) : List Nat := if n = 0 then [] else upFrom (o / 64) ((o + n - 1) / 64 + 1 - o / 64)

/-- The arbiter of bank b's port A (06 R128). -/
def Mach.arbA (m : Mach) (b : Nat) : Arb := SMap.get Arb.init (4 * b) m.arbs

/-- Whether port A of bank b grants its requester i nothing in a cycle: the emergency requester or a transfer holds the port, or the requester is
masked or backs off (09 R215, R217, R218). -/
def Mach.portBusy (m : Mach) (b i : Nat) : Bool :=
  let x := m.arbA b
  x.emergency || x.holder.isSome || bitOf i x.masked || bitOf i x.backoff

/-- Whether a word's access is given no grant in this cycle: a handover holds it, or the port is busy (06 R128, R131). -/
def Mach.accessWaits (m : Mach) (c : Nat) (w : BankWho) (cword : Nat) : Bool :=
  let b := c * 16 + cword / 20480
  bankAdm m b w == .held || (match w with
    | .local i => m.portBusy b i
    | _ => false)

/-- Whether any of the words is given no grant in this cycle. -/
def anyHeld (m : Mach) (c : Nat) (w : BankWho) (cws : List Nat) : Bool := cws.any (m.accessWaits c w)

/-- A cycle in which port A's requester i of cluster c had a request and no grant (06 R136). -/
def Mach.lostA (m : Mach) (c i : Nat) : Mach := m.cnt F.bankLost (clSub c i) 1

/-- One access: an aligned pair, or one word (06 R126). A refused access reads as words with an error mark and is counted once (R130); a read
checks each word's parity (R127). -/
def Mach.readAccess (m : Mach) (c : Nat) (w : BankWho) (cws : List Nat) : List (List Byte × Bool) × Mach :=
  let b := c * 16 + nth 0 cws 0 / 20480
  if bankAdm m b w = .ok then
    cws.foldl (fun (a : List (List Byte × Bool) × Mach) cword =>
      let r := a.2.readWord b (wordAddr c cword)
      (a.1 ++ [(r.1, r.2.1)], r.2.2)) ([], m)
  else (cws.map (fun _ => (List.replicate 64 (0 : Byte), true)), m.bankRefuse b w)

/-- Cluster words as port accesses: an aligned pair that follows in the list goes in one (06 R126). -/
def accesses : List Nat → List (List Nat)
  | a :: b :: l => if b = a + 1 ∧ a % 2 = 0 then [a, b] :: accesses l else [a] :: accesses (b :: l)
  | [a] => [[a]]
  | [] => []

/-- Reading cluster words in turn: each word's bytes, with whether it was refused or bad, and the machine after (06 R126, R127, R130). -/
def Mach.readEach (m : Mach) (c : Nat) (w : BankWho) (cws : List Nat) : List (List Byte × Bool) × Mach :=
  (accesses cws).foldl (fun (a : List (List Byte × Bool) × Mach) g =>
    let r := a.2.readAccess c w g
    (a.1 ++ r.1, r.2)) ([], m)

/-- The same as one run of bytes, with whether any word was refused or bad (05 Table 5-5). -/
def Mach.readWords (m : Mach) (c : Nat) (w : BankWho) (cws : List Nat) : List Byte × Bool × Mach :=
  let r := m.readEach c w cws
  (r.1.flatMap (fun x => x.1), r.1.any (fun x => x.2), r.2)

/-- n bytes from byte offset o of cluster c, read word by word. -/
def Mach.readSpan (m : Mach) (c : Nat) (w : BankWho) (o n : Nat) : List Byte × Bool × Mach :=
  let r := m.readWords c w (wordsOf o n)
  ((r.1.drop (o % 64)).take n, r.2.1, r.2.2)

/-- Elements of w bits packed little-endian (02 R27). -/
def unpack (w : Nat) (v : Nat) : Nat → List Nat
  | 0 => []
  | n + 1 => v % 2 ^ w :: unpack w (v / 2 ^ w) n

/-- The distinct numbers of a list. -/
def distinct : List Nat → List Nat
  | [] => []
  | a :: l => if l.contains a then distinct l else a :: distinct l

/-! Trap latches (05 R113, R117) -/

/-- Whether a cluster is reserved for raw cluster mode, and by whom, is held in ALMANAC's registers (07 R170). -/
def Mach.isRaw (m : Mach) (c : Nat) : Bool :=
  if c < 32 then bitOf c (m.rd F.almReservedLo 6) else bitOf (c - 32) (m.rd F.almReservedHi 6)

end Sys2Proof.Machine
end

