-- ==== Sys2Proof/Machine/Tiles.lean ====
section
/-! DEFINITION. The matrix tiles of chapter 3, with the tags, events and trap candidates of chapter 5. -/

namespace Sys2Proof.Machine

/-! Command words (03 Table 3-4) -/

def cw (w : List Nat) (i hi lo : Nat) : Nat := bitsOf hi lo (nth 0 w i)

def tcOpcode (w : List Nat) : Nat := cw w 0 7 0
def tcFmtA (w : List Nat) : Nat := cw w 0 11 8
def tcFmtB (w : List Nat) : Nat := cw w 0 15 12
def tcPasses (w : List Nat) : Nat := cw w 0 17 16
def tcAccZero (w : List Nat) : Bool := cw w 0 18 18 == 1
def tcScaleTrap (w : List Nat) : Bool := cw w 0 19 19 == 1
def tcNanTrap (w : List Nat) : Bool := cw w 0 20 20 == 1
def tcBx8A (w : List Nat) : Bool := cw w 0 21 21 == 1 && tcFmtA w != 3
def tcBx8B (w : List Nat) : Bool := cw w 0 22 22 == 1 && tcFmtB w != 3
def tcLast (w : List Nat) : Bool := cw w 0 23 23 == 1
def tcRows (w : List Nat) : Nat := cw w 0 29 24
def tcPush (w : List Nat) : Bool := cw w 0 30 30 == 1
def tcMasked (w : List Nat) (m : Nat) : Bool := if m < 32 then bitOf m (nth 0 w 1) else bitOf (m - 32) (cw w 2 15 0)
def tcAccBase (w : List Nat) : Nat := cw w 2 25 16
def tcPlane (w : List Nat) : Nat := cw w 3 18 0
def tcKblk (w : List Nat) : Nat := cw w 3 31 19
def tcAWord (w : List Nat) : Nat := cw w 4 18 0
def tcStride (w : List Nat) : Nat := cw w 4 26 19
def tcBx8AWord (w : List Nat) : Nat := cw w 5 18 0
def tcBx8BWord (w : List Nat) : Nat := cw w 6 18 0
def tcScale (w : List Nat) : Nat := cw w 7 18 0
def tcTag (w : List Nat) : Nat := cw w 7 31 19

/-- The unmasked rows below M_COUNT, in ascending order (03 R57). -/
def tcUnmasked (w : List Nat) : List Nat := (upFrom 0 (tcRows w)).filter (fun m => !tcMasked w m)

/-- A pairing of Table 2-5 (02 R36), by format codes. -/
def isPairing (a b : Nat) : Bool :=
  (a == 0 && b == 0) || ((a == 1 || a == 2) && (b == 1 || b == 2)) || (a == 9 && b == 9) || (a == 8 && b == 8) || (a == 3 && b == 3)

/-- Bytes of one row or K row of 48 elements of a format (03 Table 3-2). -/
def rowBytes (fmt : Nat) : Nat := if fmt = 3 then 96 else if fmt = 0 ∨ fmt = 8 then 24 else 48

/-- The last cluster word index (03 R72). -/
def lastWord : Nat := 327679

/-- Whether n bytes from a bank word stay within the cluster (03 Table 3-5). -/
def fits (word n : Nat) : Bool := decide (word ≤ lastWord) && decide (word + (n - 1) / 64 ≤ lastWord)

/-- The test of cause 0x06 (03 Table 3-5). -/
def wordsOk (w : List Nat) : Bool :=
  if tcOpcode w = 1 then
    fits (tcPlane w) (48 * rowBytes (tcFmtB w)) &&
    (!tcBx8B w || fits (tcBx8BWord w) 144) &&
    (tcPush w || (tcUnmasked w).all (fun m => fits (tcAWord w + m * tcStride w) (rowBytes (tcFmtA w)))) &&
    (tcPush w || !tcBx8A w || (tcUnmasked w).all (fun m => decide ((tcBx8AWord w * 64 + 3 * m + 2) / 64 ≤ lastWord)))
  else if tcOpcode w = 2 then fits (tcScale w) 12
  else true

/-- The first cause of Table 3-5 that applies; 0 where none does (03 R73). -/
def tcReject (w : List Nat) : Nat :=
  let mm := tcOpcode w == 1
  if tcOpcode w = 0 ∨ 3 < tcOpcode w then 1
  else if mm && !isPairing (tcFmtA w) (tcFmtB w) then 2
  else if mm && (tcPasses w == 0 || (tcPasses w != 1 && tcFmtA w != 3)) then 3
  else if tcRows w = 0 ∨ 48 < tcRows w then 4
  else if 1024 < tcAccBase w + tcRows w then 5
  else if !wordsOk w then 6
  else if mm && !tcPush w && ((decide (1 < tcRows w) && tcStride w == 0) || (tcFmtA w == 3 && tcStride w == 1)) then 7
  else 0

/-! The integer domain and the block sums (02 R35 to R42, 05 R104) -/

/-- The integer-domain weight of Table 2-6; a G16 block's depends on its Emax. -/
def qOf (fmt : Nat) : Int := if fmt = 0 then -1 else if fmt = 1 then -9 else if fmt = 2 then -16 else 0

/-- X = x / 2^q of a finite element; 0 for an infinity or a NaN, which do not enter the sum (02 R37). -/
def toX (f : Fmt) (q : Int) (c : Nat) : Int :=
  match decodeVal f c with
  | .fin m e => if m = 0 then 0 else m * ((2 ^ (e - q).toNat : Nat) : Int)
  | _ => 0

/-- The exponent field that G16 alignment uses; none for an infinity or a NaN (02 R41). -/
def g16Exp (c : Nat) : Option Nat :=
  match decodeVal .g16 c with
  | .fin _ _ => some (let e := bitsOf 14 7 c; if e = 0 then 1 else e)
  | _ => none

/-- Emax of a block (02 R41 step 1). -/
def g16Emax : List Nat → Nat
  | [] => 1
  | c :: l => match g16Exp c with
    | some e => max e (g16Emax l)
    | none => g16Emax l

/-- An element's aligned magnitude and sign (02 R41). -/
def g16X (emax : Nat) (c : Nat) : Nat × Bool :=
  match g16Exp c with
  | none => (0, false)
  | some e =>
    let sig := bitsOf 6 0 c + (if bitsOf 14 7 c = 0 then 0 else 128)
    (sig / 2 ^ (emax - e), bitOf 15 c)

/-- The product a G16 pass mode forms (02 Table 2-7). -/
def passProduct (passes a b : Nat) : Nat :=
  let ha := a / 16; let la := a % 16; let hb := b / 16; let lb := b % 16
  ha * hb * 256 + (if 2 ≤ passes then (ha * lb + la * hb) * 16 else 0) + (if 3 ≤ passes then la * lb else 0)

/-- One G16 product with its sign. -/
def g16Product (passes ea eb a b : Nat) : Int :=
  let x := g16X ea a
  let y := g16X eb b
  let p := passProduct passes x.1 y.1
  if x.2 == y.2 then (p : Int) else -(p : Int)

def Tag.none : Tag := ⟨false, false, false, false⟩
def Tag.or (a b : Tag) : Tag := ⟨a.pos || b.pos, a.neg || b.neg, a.inv || b.inv, a.nan || b.nan⟩

/-- What a PE ORs into the tag for one pair of elements (05 R104). -/
def peTag (a b : Val) : Tag :=
  match a, b with
  | .nan, _ => ⟨false, false, false, true⟩
  | _, .nan => ⟨false, false, false, true⟩
  | .inf x, .inf y => ⟨x == y, x != y, false, false⟩
  | .inf x, .fin m _ =>
    if m = 0 then ⟨false, false, true, false⟩ else ⟨x == decide (m < 0), x != decide (m < 0), false, false⟩
  | .fin m _, .inf x =>
    if m = 0 then ⟨false, false, true, false⟩ else ⟨x == decide (m < 0), x != decide (m < 0), false, false⟩
  | .fin _ _, .fin _ _ => Tag.none

def tagBlock (f g : Fmt) : List Nat → List Nat → Tag
  | a :: as, b :: bs => (peTag (decodeVal f a) (decodeVal g b)).or (tagBlock f g as bs)
  | _, _ => Tag.none

def sumPlain (f g : Fmt) (qa qb : Int) : List Nat → List Nat → Int
  | a :: as, b :: bs => toX f qa a * toX g qb b + sumPlain f g qa qb as bs
  | _, _ => 0

def sumG16 (passes ea eb : Nat) : List Nat → List Nat → Int
  | a :: as, b :: bs => g16Product passes ea eb a b + sumG16 passes ea eb as bs
  | _, _ => 0

/-- The signed value of a BX8 code (02 R35). -/
def bxVal (c : Nat) : Int := toSigned 8 c

/-- What junction b of one column receives: the K-block of A, the column's K-block of B and their BX8 codes (02 R38, R39). -/
def blockIn (fa fb : Nat) (passes : Nat) (as bs : List Nat) (bxa bxb : Nat) : BlockIn :=
  match fmtOfCode fa, fmtOfCode fb with
  | some f, some g =>
    let absent := bxa == 0x80 || bxb == 0x80
    if fa = 3 then
      let ea := g16Emax as
      let eb := g16Emax bs
      { sum := sumG16 passes ea eb as bs, exp := ((ea : Int) - 134) + ((eb : Int) - 134), absent := absent, tag := tagBlock f g as bs }
    else
      { sum := sumPlain f g (qOf fa) (qOf fb) as bs, exp := bxVal bxa + bxVal bxb + qOf fa + qOf fb, absent := absent,
        tag := tagBlock f g as bs }
  | _, _ => { sum := 0, exp := 0, absent := true, tag := Tag.none }

/-- The 16 elements of K-block b, column n, of a plane: element (k, n) stands at 48k + n. -/
def planeCol (codes : List Nat) (b n : Nat) : List Nat := (upFrom 0 16).map (fun k => nth 0 codes ((16 * b + k) * 48 + n))

/-- The three K-blocks of 48 columns of a row against a plane. -/
def rowBlocks (w : List Nat) (elems bxa : List Nat) (p : Plane) : List (List BlockIn) :=
  (upFrom 0 3).map (fun b => (upFrom 0 48).map (fun n =>
    blockIn (tcFmtA w) (tcFmtB w) (tcPasses w) ((elems.drop (16 * b)).take 16) (planeCol p.codes b n)
      (if tcBx8A w then nth 0 bxa b else 0) (if tcBx8B w then nth 0 p.bx8 (48 * b + n) else 0)))

/-! The check column (R63) -/

/-- c_k of each logical row: the sum over the columns of X_B, for each weight slice. Infinite and NaN weights count as 0 (R63; 02 R41, R42). -/
def planeCheck (fmt : Nat) (codes : List Nat) : List (Int × Int) :=
  if fmt = 3 then
    let emax := (upFrom 0 3).map (fun b => (upFrom 0 48).map (fun n => g16Emax (planeCol codes b n)))
    (upFrom 0 48).map (fun k => ((codes.drop (48 * k)).take 48).zip (nth [] emax (k / 16)) |>.foldl (fun (a : Int × Int) x =>
      let y := g16X x.2 x.1
      let s (v : Nat) : Int := if y.2 then -(v : Int) else (v : Int)
      (a.1 + s (y.1 / 16), a.2 + s (y.1 % 16))) (0, 0))
  else match fmtOfCode fmt with
    | some f => (upFrom 0 48).map (fun k => (((codes.drop (48 * k)).take 48).foldl (fun (a : Int) x => a + toX f (qOf fmt) x) 0, 0))
    | none => []

/-- The check column's sum of X_A × c_k over one K-block, with the passes of the array (R63; 02 Table 2-7). -/
def checkSum (fmt passes : Nat) (as : List Nat) (cs : List (Int × Int)) : Int :=
  if fmt = 3 then
    let emax := g16Emax as
    (as.zip cs).foldl (fun (a : Int) x =>
      let y := g16X emax x.1
      let h : Int := (y.1 / 16 : Nat)
      let l : Int := (y.1 % 16 : Nat)
      let p := h * x.2.1 * 256 + (if 2 ≤ passes then (h * x.2.2 + l * x.2.1) * 16 else 0) + (if 3 ≤ passes then l * x.2.2 else 0)
      a + (if y.2 then -p else p)) 0
  else match fmtOfCode fmt with
    | some f => (as.zip cs).foldl (fun (a : Int) x => a + toX f (qOf fmt) x.1 * x.2.1) 0
    | none => 0

/-- The three block sums of the check column for a row. -/
def rowCheck (w : List Nat) (elems : List Nat) (p : Plane) : List Int :=
  (upFrom 0 3).map (fun b => checkSum (tcFmtA w) (tcPasses w) ((elems.drop (16 * b)).take 16) ((p.check.drop (16 * b)).take 16))

/-- The comparisons of a row: at each junction the check column's block sum against the sum of the 48 columns' (R63). -/
def Flight.agrees (f : Flight) : Bool :=
  (upFrom 0 3).all (fun b => nth 0 f.check b == (nth [] f.blocks b).foldl (fun (a : Int) x => a + x.sum) 0)

/-- A block's contribution, the flags its forming raises and its cause (02 R39, 05 R105). -/
def contribution (x : BlockIn) : Val × Nat × Option Nat :=
  if x.absent then (.zero, 0, none)
  else if x.tag.inv then (.nan, flInvalid, some cauInvalid)
  else if x.tag.nan then (.nan, 0, some cauNan)
  else if x.tag.pos && x.tag.neg then (.nan, 0, some cauInfInf)
  else if x.tag.pos then (.inf false, 0, none)
  else if x.tag.neg then (.inf true, 0, none)
  else if x.sum = 0 then (.zero, 0, none)
  else
    let t : Int := x.exp + (Nat.log2 x.sum.natAbs : Nat)
    if 255 < t then (decodeVal .g36 (Fmt.g36.maxCode (decide (x.sum < 0))), flScaleHi, some cauScaleHi)
    else if t < -254 then (.zero, flScaleLo, some cauScaleLo)
    else (decodeVal .g36 (encodeFloatFin .g36 true (decide (x.sum < 0)) x.sum.natAbs x.exp).1, 0, none)

/-- A junction: the running sum after it, the flags, and the cause of its trap-eligible event under the two enables
(02 R40; 05 R105, R106, R108, R113). -/
def junction (nanTrap scaleTrap : Bool) (run : Nat) (x : BlockIn) : Nat × Nat × Option Nat :=
  let c := contribution x
  let before := decodeVal .g36 run
  let r := g36Add before c.1
  let produced := before != .nan && decodeVal .g36 r.1.1 == .nan
  let nanCause := match c.2.2 with
    | some k => some k
    | none => r.2
  let cause :=
    if produced then (if nanTrap then nanCause else none)
    else if (c.2.1 &&& (flScaleHi ||| flScaleLo)) != 0 then (if scaleTrap then c.2.2 else none)
    else none
  (r.1.1, c.2.1 ||| r.1.2, cause)

/-! Accumulator rows -/

/-- The 48 codes of an accumulator row; free values where nothing has written it (18 R429; log 8). -/
def accRow (t : Nat) (x : Tile) (r : Nat) : List Nat :=
  match SMap.get [] r x.acc with
  | [] => (upFrom 0 48).map (fun n => freeAt 36 1 x.epoch ((t * 1024 + r) * 48 + n))
  | l => l

def Tile.setAcc (x : Tile) (r : Nat) (l : List Nat) : Tile := { x with acc := SMap.put [] r l x.acc }
def Tile.poisoned (x : Tile) (r : Nat) : Bool := bitOf r x.poison
def Tile.mark (x : Tile) (r : Nat) : Tile := { x with poison := setBit r x.poison }
def Tile.unmark (x : Tile) (r : Nat) : Tile := { x with poison := clearBit r x.poison }

def zeroRow : List Nat := List.replicate 48 0

/-! Events, the trap latch and the end reports -/

/-- Raising the event flags of Table 5-1 in TILE_EVENTS (05 R112). -/
def Mach.tileFlags (m : Mach) (t fl : Nat) : Mach :=
  let p := tileIx t
  let set (m : Mach) (f : Fld) (b : Nat) : Mach := if fl &&& b = 0 then m else m.ev f p
  set (set (set (set (set m F.tileEventsNanSeen flNan) F.tileEventsInvalidProduct flInvalid) F.tileEventsScaleHi flScaleHi)
    F.tileEventsScaleLo flScaleLo) F.tileEventsSaturated flSat

/-- Whether an event comes before the latched one: by cycle, then lowest column, then lowest K-block (05 R113). -/
def trapBefore (c1 a1 b1 c2 a2 b2 : Nat) : Bool :=
  decide (c1 < c2) || (c1 == c2 && (decide (a1 < a2) || (a1 == a2 && decide (b1 < b2))))

/-- Offering a tile's candidate to its latch (05 R113): the earlier event stays, the other is counted in MORE. -/
def Mach.tileTrap (m : Mach) (t opTag acc : Nat) (c : Cand) : Mach :=
  let p := tileIx t
  let x := m.tile t
  let put (m : Mach) : Mach :=
    ((((((m.wr F.tileTrapValid p 1).wr F.tileTrapCause p c.cause).wr F.tileTrapOpTag p opTag).wr F.tileTrapPosAccRow p acc).wr
      F.tileTrapPosColumn p c.col).wr F.tileTrapBlkKblk p c.kblk).wr F.tileTrapCycle p c.cycle |>.setTile t { x with trapCycle := c.cycle }
  let more (m : Mach) : Mach := m.wr F.tileTrapBlkMore p (satAdd16 (m.rd F.tileTrapBlkMore p) 1)
  if m.on F.tileTrapValid p then
    if trapBefore c.cycle c.col c.kblk x.trapCycle (m.rd F.tileTrapPosColumn p) (m.rd F.tileTrapBlkKblk p) then more (put m)
    else more m
  else put m

def Mach.tileTraps (m : Mach) (t opTag acc : Nat) : List Cand → Mach
  | [] => m
  | c :: l => (m.tileTrap t opTag acc c).tileTraps t opTag acc l

/-- The rows of a command that are in flight. -/
def Tile.inFlight (x : Tile) (seq : Nat) : Nat := (x.flights.filter (fun f => f.seq == seq)).length

/-- Sending the end report of a command (03 R65). -/
def Mach.tileReport (m : Mach) (t : Nat) (p : Prog) : Mach :=
  m.ended ({ unit := .tile (Fin.ofNat 960 t), src := p.src, opTag := p.opTag, status := b2n p.aborted, cause := 0, flags := p.flags,
                   poisoned := p.poisoned, last := p.last })

/-- The ordinary end of commands: those that have issued everything and have no row in flight report (03 R65). -/
def Mach.tileEnds (m : Mach) (t : Nat) : Mach :=
  let x := m.tile t
  let fin := fun (p : Prog) => p.issuedAll && !p.aborted && x.inFlight p.seq == 0
  (x.progs.filter fin).foldl (fun m p => m.tileReport t p) (m.setTile t { x with progs := x.progs.filter (fun p => !fin p) })

def newProg (q : QCmd) : Prog :=
  { seq := q.seq, src := q.src, opTag := tcTag q.w, last := tcLast q.w, flags := 0, poisoned := [], issuedAll := false, aborted := false }

/-- A command's record of what it has to report, changed. -/
def Tile.onProg (x : Tile) (seq : Nat) (f : Prog → Prog) : Tile :=
  { x with progs := x.progs.map (fun p => if p.seq = seq then f p else p) }

/-- The head command has issued its last: it leaves the queue (03 R71). -/
def Tile.popHead (x : Tile) : Tile :=
  match x.queue with
  | [] => x
  | q :: l => { (x.onProg q.seq (fun p => { p with issuedAll := true })) with queue := l, started := false, done := 0, batch := 0 }

/-- The command that pushed rows go to: the earliest MM with ROW_SRC = 1 that has not issued its last row (03 R55, 04 R88). A command that will be
rejected, or whose rows are all masked, has no row to issue and takes none (log 118). -/
def Tile.pushTarget (x : Tile) : Option (QCmd × Bool) :=
  match x.queue with
  | [] => none
  | q :: l =>
    if tcOpcode q.w = 1 ∧ tcPush q.w ∧ tcReject q.w = 0 ∧ tcUnmasked q.w ≠ [] then some (q, true)
    else (l.find? (fun q => tcOpcode q.w == 1 && tcPush q.w && tcReject q.w == 0 && !(tcUnmasked q.w).isEmpty)).map (·, false)

/-! Commands of the queue -/

/-- Whether the tile may start the head command (03 R71, R75). -/
def Mach.tileRun (m : Mach) (t : Nat) : Bool := m.on F.tileCtrlRun (tileIx t)

/-- IDLE (03 R75): nothing queued and nothing in flight. -/
def Tile.idle (x : Tile) : Bool :=
  x.queue.isEmpty && x.flights.isEmpty && x.drained.isEmpty && x.planes.all (fun p => p.ready)

def Mach.tileStopped (m : Mach) (t : Nat) : Bool := !m.tileRun t && (m.tile t).idle

/-- A place of the queue taken (03 R71). -/
def Tile.enqueue (x : Tile) (src : CmdSrc) (w : List Nat) : Tile :=
  { x with queue := x.queue ++ [⟨x.nextSeq, src, w⟩], nextSeq := x.nextSeq + 1 }

/-- Whether TILE_CMD refuses a write (03 R74, 18 R428). -/
def Mach.tileCmdRefused (m : Mach) (t : Nat) : Bool := !m.isRaw (t / 16) || m.on F.tileFenceFenced (tileIx t)

/-- A write of word 7 of TILE_CMD (03 R74): refused, held by a full queue, or a command enqueued. A second write of word 7 while one is held changes
nothing and gets no answer, and the held command takes words 0 to 6 as they stand at its release (log 119). -/
def opTileCmdEnqueue (t who w7 : Nat) (m : Mach) : Mach :=
  let x := m.tile t
  if m.tileCmdRefused t then m.respond who rsRefused
  else if x.held.isSome then m
  else if 8 ≤ x.queue.length then m.setTile t { x with held := some (who, w7) }
  else (m.setTile t (x.enqueue (.raw who) (x.staging ++ [w7]))).respond who rsOk

def opTileCmdHeldRelease (t : Nat) (m : Mach) : Mach :=
  let x := m.tile t
  match x.held with
  | none => m
  | some (who, w7) =>
    if 8 ≤ x.queue.length then m
    else (m.setTile t { (x.enqueue (.raw who) (x.staging ++ [w7])) with held := none }).respond who rsOk

/-- A rejected command does nothing but be recorded and reported (03 R73). -/
def Mach.tileRejectHead (m : Mach) (t : Nat) (q : QCmd) (cause : Nat) : Mach :=
  let p := tileIx t
  let x := m.tile t
  let x' := { x with queue := x.queue.drop 1, started := false, done := 0, batch := 0 }
  ((((m.setTile t x').ev F.tileEventsCmdReject p).wr F.tileRejectCause p cause).wr F.tileRejectOpTag p (tcTag q.w)).ended
    ({ unit := .tile (Fin.ofNat 960 t), src := q.src, opTag := tcTag q.w, status := 2, cause := cause, flags := 0, poisoned := [],
              last := tcLast q.w })

/-- The head command, when the tile may start it: it has not started and RUN is 1. -/
def Mach.tileHead (m : Mach) (t : Nat) : Option QCmd :=
  let x := m.tile t
  if x.started || !m.tileRun t then none else x.queue.head?

/-- The head command starts (03 R71). -/
def Mach.tileStart (m : Mach) (t : Nat) (q : QCmd) : Mach :=
  let x := m.tile t
  m.setTile t { x with started := true, done := 0, batch := 0, progs := x.progs ++ [newProg q] }

/-- A started command that has nothing to issue ends (03 R57). -/
def Mach.tilePopEnd (m : Mach) (t : Nat) : Mach := (m.setTile t (m.tile t).popHead).tileEnds t

/-- MM: the command reaches the head and is checked (03 R72, R73, R57). From here on it is the current command, though no row of it has issued: with
RUN cleared it goes on issuing, and its bubbles count (log 120). -/
def opMm (t : Nat) (m : Mach) : Mach :=
  match m.tileHead t with
  | none => m
  | some q =>
    if tcOpcode q.w = 2 ∨ tcOpcode q.w = 3 then m
    else if tcReject q.w ≠ 0 then m.tileRejectHead t q (tcReject q.w)
    else if (tcUnmasked q.w).isEmpty then (m.tileStart t q).tilePopEnd t
    else m.tileStart t q

/-- DRAIN: it starts once its factor is complete (03 R69, R70). One whose rows are all masked forms its factor too, and then ends with an ordinary
report (log 121). -/
def opDrain (t : Nat) (m : Mach) : Mach :=
  match m.tileHead t with
  | none => m
  | some q =>
    if tcOpcode q.w ≠ 2 then m
    else if tcReject q.w ≠ 0 then m.tileRejectHead t q (tcReject q.w)
    else if (m.tile t).factors.any (fun f => f.seq == q.seq) then
      if (tcUnmasked q.w).isEmpty then
        let x := m.tile t
        ((m.setTile t { x with factors := x.factors.filter (fun f => f.seq != q.seq) }).tileStart t q).tilePopEnd t
      else m.tileStart t q
    else m

/-- Whether a row in flight goes to an accumulator row (03 R70). -/
def Tile.rowPending (x : Tile) (r : Nat) : Bool := x.flights.any (fun f => f.acc == r)

def zeroRows (x : Tile) : List Nat → Tile
  | [] => x
  | r :: l => zeroRows ((x.setAcc r zeroRow).unmark r) l

/-- ZERO_ACC: +0 into the unmasked rows, poison marks cleared, once no row is pending into them (03 R72). -/
def opZeroAcc (t : Nat) (m : Mach) : Mach :=
  match m.tileHead t with
  | none => m
  | some q =>
    if tcOpcode q.w ≠ 3 then m
    else if tcReject q.w ≠ 0 then m.tileRejectHead t q (tcReject q.w)
    else
      let rows := (tcUnmasked q.w).map (fun r => tcAccBase q.w + r)
      if rows.any (m.tile t).rowPending then m
      else
        let m1 := m.tileStart t q
        (m1.setTile t (zeroRows (m1.tile t) rows)).tilePopEnd t

/-! Planes -/

/-- The next command that needs a plane and has none (03 R52, R57). -/
def Tile.wantsPlane (x : Tile) : Option QCmd :=
  x.queue.find? (fun q => tcOpcode q.w == 1 && tcReject q.w == 0 && !(tcUnmasked q.w).isEmpty && !x.planes.any (fun p => p.seq == q.seq))

/-- A plane load starts when no plane is loading or waiting (03 R52). -/
def opPlaneLoadStart (t : Nat) (m : Mach) : Mach :=
  let x := m.tile t
  if !m.tileRun t || x.planes.any (fun p => !p.active) then m
  else match x.wantsPlane with
    | none => m
    | some q => m.setTile t { x with planes := x.planes ++ [⟨q.seq, false, false, [], [], false, []⟩] }

/-- The command of a sequence number. -/
def Tile.cmdOf (x : Tile) (seq : Nat) : Option QCmd := x.queue.find? (fun q => q.seq == seq)

/-! Row staging and the batcher (03 R55, R56) -/

def stagedRow (x : Tile) (r : Nat) : Bool := bitOf r x.staged

/-- The lanes a push writes replace what the staging row holds; the others keep it (04 R95). -/
def mergeRow (lanes : Nat) (old new : PushRow) : PushRow :=
  { elems := (upFrom 0 48).map (fun i => if bitOf i lanes then nth 0 new.elems i else nth 0 old.elems i), bx8 := new.bx8 }

/-- All 48 lanes. -/
def allLanes : Nat := 2 ^ 48 - 1

/-- A pushed row: discarded, or staged in the earliest ROW_SRC = 1 command. The answer says whether such a command was
there (03 R55, 04 R88, 11 R267). -/
def pushRow (p : RowPush) (m : Mach) : Bool × Mach :=
  let x := m.tile p.tile
  let r := p.row
  match x.pushTarget with
  | none => (false, m)
  | some (q, head) =>
    if tcMasked q.w r || decide (tcRows q.w ≤ r) || decide (48 ≤ r) || (head && bitOf r x.done) then (true, m)
    else
      let x1 := { x with rows := SMap.put PushRow.init r (mergeRow p.lanes (SMap.get PushRow.init r x.rows) p.data) x.rows, staged := setBit r x.staged }
      if stagedRow x r then (true, m.setTile p.tile x1)
      else (true, m.setTile p.tile { x1 with winOpen := true, winDue := if x.winOpen then x.winDue else false })

def opRowPush (t r : Nat) (elems bx8 : List Nat) (m : Mach) : Mach := (pushRow ⟨t, r, allLanes, ⟨elems, bx8⟩⟩ m).2

def opBatchWindowExpiry (t : Nat) (m : Mach) : Mach :=
  let x := m.tile t
  if x.winOpen then m.setTile t { x with winDue := true } else m

/-- The staged rows of the next batch: staged and not in the batch that is issuing. -/
def Tile.waiting (x : Tile) : List Nat := (upFrom 0 48).filter (fun r => stagedRow x r && !bitOf r x.batch)

/-- The batch is due (03 R56): the fill count, all unmasked rows, or the window. -/
def batchDue (m : Mach) (t : Nat) (q : QCmd) : Bool :=
  let x := m.tile t
  let w := x.waiting
  !w.isEmpty && (decide (m.rd F.tileBatchBatchFill (tileIx t) ≤ w.length)
    || (tcUnmasked q.w).all (fun r => bitOf r x.done || stagedRow x r) || x.winDue)

def maskOf : List Nat → Nat
  | [] => 0
  | r :: l => setBit r (maskOf l)

/-- The rows the feeder may issue next, in ascending order, with the tile after a batch was fixed (03 R55, R56). -/
def nextRows (m : Mach) (t : Nat) (q : QCmd) : List Nat × Tile :=
  let x := m.tile t
  if tcPush q.w then
    let x' := if x.batch = 0 && batchDue m t q then { x with batch := maskOf x.waiting, winOpen := false, winDue := false } else x
    ((upFrom 0 48).filter (fun r => bitOf r x'.batch), x')
  else ((tcUnmasked q.w).filter (fun r => !bitOf r x.done), x)

/-- A's BX8 codes of row r: the kept word is not read again (03 R55). -/
def readBx (m : Mach) (c t : Nat) (q : QCmd) (r : Nat) : List Nat × Bool × Mach :=
  let o := tcBx8AWord q.w * 64 + 3 * r
  let x := m.tile t
  let step (acc : List Nat × Bool × Mach) (cword : Nat) : List Nat × Bool × Mach :=
    let y := acc.2.2.tile t
    match y.bx with
    | some k =>
      if k.seq = q.seq ∧ k.word = cword then (acc.1 ++ k.bytes, acc.2.1 || k.bad, acc.2.2)
      else
        let z := acc.2.2.readWords c (.local (t % 16)) [cword]
        let bs := z.1.map (fun b => b.toNat)
        (acc.1 ++ bs, acc.2.1 || z.2.1, z.2.2.setTile t { (z.2.2.tile t) with bx := some ⟨q.seq, cword, bs, z.2.1⟩ })
    | none =>
      let z := acc.2.2.readWords c (.local (t % 16)) [cword]
      let bs := z.1.map (fun b => b.toNat)
      (acc.1 ++ bs, acc.2.1 || z.2.1, z.2.2.setTile t { (z.2.2.tile t) with bx := some ⟨q.seq, cword, bs, z.2.1⟩ })
  let res := (wordsOf o 3).foldl step ([], false, m.setTile t x)
  ((res.1.drop (o % 64)).take 3, res.2.1, res.2.2)

/-- The bank words of row r's elements, and of its BX8 bytes (03 R55). -/
def rowOwn (q : QCmd) (r : Nat) : List Nat := if tcPush q.w then [] else wordsOf ((tcAWord q.w + r * tcStride q.w) * 64) (rowBytes (tcFmtA q.w))
def rowBx (q : QCmd) (r : Nat) : List Nat := if !tcPush q.w && tcBx8A q.w then wordsOf (tcBx8AWord q.w * 64 + 3 * r) 3 else []

/-- The words a row's STAGE reads. -/
def rowWords (q : QCmd) (r : Nat) : List Nat := rowOwn q r ++ rowBx q r

/-- How many BX8 words are read, beyond the one the tile keeps (03 R55). -/
def bxReads : Option Nat → List Nat → Nat
  | _, [] => 0
  | kept, w :: l => (if kept = some w then 0 else 1) + bxReads (some w) l

/-- The port A cycles that STAGE of the rows of one slot takes: their words as single words or aligned pairs, and BX8 words that are not kept
(03 R53, R55). -/
def stageCycles (x : Tile) (q : QCmd) (rows : List Nat) : Nat :=
  let kept := match x.bx with
    | some k => if k.seq = q.seq then some k.word else none
    | none => none
  max 1 ((accesses (rows.flatMap (rowOwn q))).length + bxReads kept (rows.flatMap (rowBx q)))

/-- The words of each row of a slot among those read for the slot. -/
def splitRows (q : QCmd) : List Nat → List (List Byte × Bool) → List (Nat × List Byte × Bool)
  | [], _ => []
  | r :: l, ws =>
    let k := (rowOwn q r).length
    (r, (ws.take k).flatMap (fun x => x.1), (ws.take k).any (fun x => x.2)) :: splitRows q l (ws.drop k)

/-- The elements and BX8 codes of a row, from its bank words or from the row staging: with whether a word was bad or refused. -/
def readRow (m : Mach) (t : Nat) (q : QCmd) (x : Nat × List Byte × Bool) : List Nat × List Nat × Bool × Mach :=
  if tcPush q.w then
    let row := SMap.get PushRow.init x.1 (m.tile t).rows
    (row.elems, row.bx8, false, m)
  else
    let w := match fmtOfCode (tcFmtA q.w) with
      | some f => f.width
      | none => 8
    let bx := if tcBx8A q.w then readBx m (t / 16) t q x.1 else ([0, 0, 0], false, m)
    (unpack w (leNat (x.2.1.take (rowBytes (tcFmtA q.w)))) 48, bx.1, x.2.2 || bx.2.1, bx.2.2)

/-- One row enters the array (03 R53, R60): its block sums, the check column's and its tags are formed against the plane. -/
def issueOne (t : Nat) (q : QCmd) (p : Plane) (m : Mach) (row : Nat × List Byte × Bool) : Mach :=
  let r := row.1
  let a := readRow m t q row
  let x := a.2.2.2.tile t
  let fl : Flight :=
    { seq := q.seq, acc := tcAccBase q.w + r, accZero := tcAccZero q.w, kbase := tcKblk q.w, opTag := tcTag q.w, nanTrap := tcNanTrap q.w,
      scaleTrap := tcScaleTrap q.w, blocks := rowBlocks q.w a.1 a.2.1 p, check := rowCheck q.w a.1 p, run := zeroRow, next := zeroRow, flags := 0,
      cands := [], blocked := a.2.2.1 || p.bad }
  a.2.2.2.setTile t { x with flights := x.flights ++ [fl], done := setBit r x.done, batch := clearBit r x.batch, staged := clearBit r x.staged }

/-- The gap of R62: a row with ACC_ZERO = 0 issues no earlier than TILE_LATENCY − 18 ARRAY cycles after the last row into its accumulator row. By R60
the earlier row's J_2 of column 31 acts TILE_LATENCY − 19 cycles after its issue, so the gap has passed once that junction has acted (log 122). -/
def Tile.gapHolds (x : Tile) (q : QCmd) (r : Nat) : Bool :=
  !tcAccZero q.w && x.flights.any (fun f => f.acc == tcAccBase q.w + r && nth 3 f.next 31 != 3)

/-- The rows of the next issue slot: one, or a G4 pair (03 R54, R58). -/
def slotRows (m : Mach) (t : Nat) (q : QCmd) : List Nat := (nextRows m t q).1.take (if tcFmtA q.w = 0 then 2 else 1)

/-- Words that the row stage has a read pending for: those of the slot the head command would issue (06 R128). -/
def Mach.stagePending (m : Mach) (t : Nat) : List Nat :=
  let x := m.tile t
  match x.queue with
  | [] => []
  | q :: _ =>
    if tcOpcode q.w = 1 ∧ x.started ∧ x.planes.any (fun p => p.seq == q.seq && p.ready) ∧ ¬ (slotRows m t q).any (x.gapHolds q) then
      (slotRows m t q).flatMap (rowWords q)
    else []

/-- Whether the tile's requester presents the row stage's read first, at an arbiter where one of these words is asked for too (06 R128). -/
def Mach.stageFirst (m : Mach) (t : Nat) (cws : List Nat) : Bool :=
  cws.any (fun w => (m.stagePending t).any (fun v => v / 20480 == w / 20480))

/-- The loading plane's last K row has arrived: its words, and the BX8 array's, are read and checked (03 R51, R52; Table 5-5). A
plane whose command was flushed is dropped. -/
def opPlaneReady (t : Nat) (upset : List Nat) (m : Mach) : Mach :=
  let c := t / 16
  let x := m.tile t
  match x.planes.find? (fun p => !p.ready) with
  | none => m
  | some p =>
    match x.cmdOf p.seq with
    | none => m.setTile t { x with planes := x.planes.filter (fun q => q.seq != p.seq) }
    | some q =>
      let n := 48 * rowBytes (tcFmtB q.w)
      let cws := wordsOf (tcPlane q.w * 64) n
      let bws := if tcBx8B q.w then wordsOf (tcBx8BWord q.w * 64) 144 else []
      if m.stageFirst t (cws ++ bws) then m
      else if anyHeld m c (.local (t % 16)) (cws ++ bws) then m.lostA c (t % 16)
      else
        let m0 := m.upsetLanes c upset
        let r := m0.readWords c (.local (t % 16)) cws
        let s := r.2.2.readWords c (.local (t % 16)) bws
        let w := match fmtOfCode (tcFmtB q.w) with
          | some f => f.width
          | none => 8
        let codes := unpack w (leNat (r.1.take n)) 2304
        let p' : Plane := { p with ready := true, codes := codes, bx8 := (s.1.take 144).map (fun b => b.toNat), bad := r.2.1 || s.2.1,
                                   check := planeCheck (tcFmtB q.w) codes }
        s.2.2.setTile t { x with planes := x.planes.map (fun q => if q.seq = p.seq then p' else q) }

/-- The plane of a command becomes active: the one before it is let go (03 R52). -/
def Tile.activate (x : Tile) (seq : Nat) : Tile :=
  let kept := x.planes.filter (fun p => p.seq == seq || !p.active)
  { x with planes := kept.map (fun p => if p.seq = seq then { p with active := true } else p) }

/-- ROW_ISSUE: one issue slot of the feeder. A row, or a G4 pair, issues, after the bubbles of a STAGE that takes several port cycles; otherwise a
bubble: the plane is not ready, the batcher holds, R62 holds, or an arbiter gives no grant (03 R53, R54, R58). A DRAIN or a ZERO_ACC at the head
makes no bubble, for it has no row to issue (log 26). -/
def opRowIssue (t : Nat) (upset : List Nat) (m : Mach) : Mach :=
  let c := t / 16
  let p := tileIx t
  let x := m.tile t
  match x.queue with
  | [] => m
  | q :: _ =>
    if tcOpcode q.w ≠ 1 ∨ tcReject q.w ≠ 0 ∨ (¬ x.started ∧ ¬ m.tileRun t) then m
    else if !x.started then m.wrap F.tileBubbles p 1
    else
      match x.planes.find? (fun pl => pl.seq == q.seq && pl.ready) with
      | none => m.wrap F.tileBubbles p 1
      | some pl =>
        let rows := slotRows m t q
        if rows.isEmpty || rows.any (x.gapHolds q) then m.wrap F.tileBubbles p 1
        else if anyHeld m c (.local (t % 16)) (rows.flatMap (rowWords q)) then (m.wrap F.tileBubbles p 1).lostA c (t % 16)
        else
          let m1 := (m.upsetLanes c upset).setTile t ((nextRows m t q).2.activate q.seq)
          let r := m1.readEach c (.local (t % 16)) (rows.flatMap (rowOwn q))
          let m2 := (splitRows q rows r.1).foldl (issueOne t q pl) r.2
          let m3 := (m2.wrap F.tileIssued p (if tcFmtA q.w = 3 then tcPasses q.w else 1)).wrap F.tileBubbles p (stageCycles x q rows - 1)
          let y := m3.tile t
          if (tcUnmasked q.w).all (fun r => bitOf r y.done) then
            m3.setTile t { y.popHead with staged := if tcPush q.w then 0 else y.staged, winOpen := if tcPush q.w then false else y.winOpen,
                                          winDue := if tcPush q.w then false else y.winDue }
          else m3

/-! Junctions and commit -/

/-- Replacing the row in flight at a place. -/
def Tile.setFlight (x : Tile) (i : Nat) (f : Flight) : Tile := { x with flights := setNth x.flights i f }

/-- BLOCK_JUNCTION: junction b of column n acts on a row in flight (02 R39, R40; 03 R60; 05 R105, R106). J_0 with ACC_ZERO = 0
waits until every earlier row into the same accumulator row has committed, as the gap of R62 makes certain. -/
def opBlockJunction (t i b n : Nat) (parityBad : Bool) (m : Mach) : Mach :=
  let x := m.tile t
  match x.flights[i]? with
  | none => m
  | some f =>
    if nth 3 f.next n ≠ b then m
    else if b = 0 ∧ ¬ f.accZero ∧ (x.flights.take i).any (fun g => g.acc == f.acc) then m
    else
      let start := if b = 0 then (if f.accZero then 0 else nth 0 (accRow t x f.acc) n) else nth 0 f.run n
      let j := junction f.nanTrap f.scaleTrap start (nth (BlockIn.mk 0 0 true Tag.none) (nth [] f.blocks b) n)
      let cand : List Cand := match j.2.2 with
        | none => []
        | some cause => [⟨m.cycles (t / 160), cause, n, f.kbase + b⟩]
      let f' := { f with run := setNth f.run n j.1, next := setNth f.next n (b + 1), flags := f.flags ||| j.2.1, cands := f.cands ++ cand,
                         blocked := f.blocked || (b == 0 && !f.accZero && parityBad) }
      m.setTile t (x.setFlight i f')

/-- ROW_COMMIT: the block-2 comparison of the oldest row in flight (03 R64, R65; 05 R110, R113). A fault of the surroundings makes a comparison
disagree. -/
def opRowCommit (t : Nat) (disagree : Bool) (m : Mach) : Mach :=
  let p := tileIx t
  let x := m.tile t
  match x.flights with
  | [] => m
  | f :: l =>
    if f.next.any (fun k => k != 3) then m
    else
      let x1 := { x with flights := l }
      let differs := disagree || !f.agrees
      if differs || f.blocked || (x.poisoned f.acc && !f.accZero) then
        let x2 := (x1.mark f.acc).onProg f.seq (fun g => { g with poisoned := if g.poisoned.contains f.acc then g.poisoned else g.poisoned ++ [f.acc] })
        let m1 := m.setTile t x2
        (if differs then (m1.ev F.tileEventsCheckFail p).cnt F.tileCheckFails p 1 else m1).tileEnds t
      else
        let x2 := ((x1.setAcc f.acc f.run).unmark f.acc).onProg f.seq (fun g => { g with flags := g.flags ||| f.flags })
        ((((m.setTile t x2).tileFlags t f.flags).tileTraps t f.opTag f.acc f.cands)).tileEnds t

/-! The drain-and-scale stage -/

/-- FACTOR_FORMATION: the scales of the next DRAIN without a factor are read and F is formed (02 R43; 03 R70). -/
def opFactorFormation (t : Nat) (upset : List Nat) (m : Mach) : Mach :=
  let c := t / 16
  let x := m.tile t
  if !m.tileRun t || decide (2 ≤ x.factors.length) then m
  else match x.queue.find? (fun q => tcOpcode q.w == 2 && tcReject q.w == 0 && !x.factors.any (fun f => f.seq == q.seq)) with
    | none => m
    | some q =>
      if x.started && (x.queue.head?.map (fun h => h.seq)) == some q.seq then m
      else if m.stageFirst t [tcScale q.w] then m
      else if anyHeld m c (.local (t % 16)) [tcScale q.w] then m.lostA c (t % 16)
      else
        let r := (m.upsetLanes c upset).readSpan c (.local (t % 16)) (tcScale q.w * 64) 12
        let f := factorF (leNat (r.1.take 4)) (leNat ((r.1.drop 4).take 4)) (leNat ((r.1.drop 8).take 4))
        r.2.2.setTile t { x with factors := x.factors ++ [⟨q.seq, f, r.2.1⟩] }

/-- The candidates of a drained row, in ascending column order. -/
def drainCands (nanTrap : Bool) (cyc : Nat) (n : Nat) : List (Nat × Nat × Option Nat) → List Cand
  | [] => []
  | r :: l =>
    match r.2.2 with
    | some cause => if nanTrap then ⟨cyc, cause, n, 0xFFFF⟩ :: drainCands nanTrap cyc (n + 1) l else drainCands nanTrap cyc (n + 1) l
    | none => drainCands nanTrap cyc (n + 1) l

/-- DRAIN_READ: the next unmasked row is read, scaled and held for the drain port (03 R69, R70; 05 R107, R110, R113). -/
def opDrainRead (t : Nat) (parityBad : Bool) (m : Mach) : Mach :=
  let x := m.tile t
  match x.queue with
  | [] => m
  | q :: _ =>
    if tcOpcode q.w ≠ 2 ∨ ¬ x.started ∨ 4 ≤ x.drained.length then m
    else match (tcUnmasked q.w).find? (fun r => !bitOf r x.done), x.factors.find? (fun f => f.seq == q.seq) with
      | some r, some f =>
        let a := tcAccBase q.w + r
        if x.rowPending a then m
        else
          let vals := (accRow t x a).map (fun v => drainScale v f.code)
          let codes := vals.map (fun v => v.1)
          let poison := x.poisoned a || parityBad || f.bad
          let fl := if poison then 0 else vals.foldl (fun s v => s ||| v.2.1) 0
          let x1 := if poison then x.mark a else if tcAccZero q.w then x.setAcc a zeroRow else x
          let x2 := { x1 with drained := x1.drained ++ [DrainRow.mk q.seq codes poison], done := setBit r x1.done }
          let x3 := x2.onProg q.seq (fun g =>
            { g with flags := g.flags ||| fl, poisoned := if poison && !g.poisoned.contains a then g.poisoned ++ [a] else g.poisoned })
          let m1 := (m.setTile t x3).tileFlags t fl
          let m2 := if poison then m1 else m1.tileTraps t (tcTag q.w) a (drainCands (tcNanTrap q.w) (m.cycles (t / 160) + 1) 0 vals)
          let y := m2.tile t
          if (tcUnmasked q.w).all (fun r => bitOf r y.done) then
            (m2.setTile t { y.popHead with factors := y.factors.filter (fun f => f.seq != q.seq) }).tileEnds t
          else m2
      | _, _ => m

/-- The drain port takes the row that is visible (04 R86). -/
def drainTake (t : Nat) (m : Mach) : Mach :=
  let x := m.tile t
  m.setTile t { x with drained := x.drained.drop 1 }

/-! Control -/

/-- TILE_FLUSH: queued commands and unissued work are discarded and reported ABORTED (03 R75). -/
def opTileFlush (t : Nat) (m : Mach) : Mach :=
  let x := m.tile t
  let gone := if x.started then x.queue.drop 1 else x.queue
  let x1 := match x.queue with
    | q :: _ => if x.started then x.onProg q.seq (fun p => { p with issuedAll := true, aborted := true }) else x
    | [] => x
  let x2 := { x1 with queue := [], started := false, done := 0, batch := 0, staged := 0, winOpen := false, winDue := false,
                      factors := [], planes := x1.planes.filter (fun p => p.active || !p.ready) }
  gone.foldl (fun m q => m.ended ({ unit := .tile (Fin.ofNat 960 t), src := q.src, opTag := tcTag q.w, status := 1, cause := 0, flags := 0,
                                          poisoned := [], last := tcLast q.w })) (m.setTile t x2)

/-- FLUSH_ABORT_REPORT: the ABORTED report of the flushed command, once its rows have committed or failed and its read rows
have been taken (03 R75). -/
def opFlushAbortReport (t : Nat) (m : Mach) : Mach :=
  let x := m.tile t
  match x.progs.find? (fun p => p.aborted && x.inFlight p.seq == 0 && !x.drained.any (fun d => d.seq == p.seq)) with
  | none => m
  | some p => (m.setTile t { x with progs := x.progs.filter (fun q => q.seq != p.seq) }).tileReport t p

/-- TILE_CTRL_RUN; ignored while a self-test runs (03 R75, 18 R429). -/
def opTileCtrlRun (t : Nat) (run : Bool) (m : Mach) : Mach :=
  if (m.tile t).testing then m else m.wr F.tileCtrlRun (tileIx t) (b2n run)

/-- LEAP_COUNT: the spare fields in use (03 R66). -/
def leapCount (s0 s1 : Nat) : Nat := b2n (s0 != 0x3F) + b2n (s1 != 0x3F)

/-- TILE_REPAIR_WRITE: lands only while the tile is stopped, and only with SPARE1_PHYS above SPARE0_PHYS when both are used
(03 R66, R67; 00 R5, R9; 18 R429). -/
def opTileRepairWrite (t data : Nat) (m : Mach) : Mach :=
  let p := tileIx t
  if !m.tileStopped t || (m.tile t).testing then m
  else
    let v0 := bitsOf 5 0 data
    let v1 := bitsOf 13 8 data
    let s0 := if F.tileRepairSpare0Phys.isLegal v0 then v0 else m.rd F.tileRepairSpare0Phys p
    let s1 := if F.tileRepairSpare1Phys.isLegal v1 then v1 else m.rd F.tileRepairSpare1Phys p
    if s0 ≠ 0x3F ∧ s1 ≠ 0x3F ∧ s1 ≤ s0 then m
    else (((m.wr F.tileRepairSpare0Phys p s0).wr F.tileRepairSpare1Phys p s1).wr F.tileLatencyLeapCount p (leapCount s0 s1)).wr
      F.tileLatencyLatency p (102 + leapCount s0 s1)

/-- TRAP_LATCH_CLEAR: the record and MORE are cleared and the latch is re-armed (05 R117). -/
def opTrapLatchClear (u : TrapUnit) (m : Mach) : Mach :=
  match u with
  | .tile t =>
    let p := tileIx t.val
    let m1 := ((((((((m.wr F.tileTrapValid p 0).wr F.tileTrapCause p 0).wr F.tileTrapOpTag p 0).wr F.tileTrapPosAccRow p 0).wr
      F.tileTrapPosColumn p 0).wr F.tileTrapBlkKblk p 0).wr F.tileTrapBlkMore p 0).wr F.tileTrapCycle p 0)
    m1.setTile t.val { (m1.tile t.val) with trapCycle := 0 }
  | .ve c =>
    let p := clIx c.val
    let m1 := (((((((m.wr F.veTrapValid p 0).wr F.veTrapCause p 0).wr F.veTrapOpTag p 0).wr F.veTrapPosI0 p 0).wr
      F.veTrapPosMore p 0).wr F.veTrapOuter p 0).wr F.veTrapCycle p 0)
    m1.setVe c.val { (m1.ve c.val) with trapCycle := 0 }

/-! The meanings -/

def execTileCmdEnqueue (t : TileNo) (who : Nat) (w7 : Word) (s : State) := s.on (.core (t.val / 160)) (opTileCmdEnqueue t.val who w7.toNat)
def execTileCmdHeldRelease (t : TileNo) (s : State) := s.on (.core (t.val / 160)) (opTileCmdHeldRelease t.val)
def execMm (t : TileNo) (s : State) := s.on (.core (t.val / 160)) (opMm t.val)
def execDrain (t : TileNo) (s : State) := s.on (.core (t.val / 160)) (opDrain t.val)
def execZeroAcc (t : TileNo) (s : State) := s.on (.core (t.val / 160)) (opZeroAcc t.val)
def execPlaneLoadStart (t : TileNo) (s : State) := s.on (.core (t.val / 160)) (opPlaneLoadStart t.val)
def execPlaneReady (t : TileNo) (upset : List Nat) (s : State) := s.on (.core (t.val / 160)) (opPlaneReady t.val upset)
def execRowPush (t : TileNo) (r : Nat) (elems bx8 : List Nat) (s : State) := s.on (.core (t.val / 160)) (opRowPush t.val r elems bx8)
def execBatchWindowExpiry (t : TileNo) (s : State) := s.on (.core (t.val / 160)) (opBatchWindowExpiry t.val)
def execRowIssue (t : TileNo) (upset : List Nat) (s : State) := s.on (.core (t.val / 160)) (opRowIssue t.val upset)
def execBlockJunction (t : TileNo) (i : Nat) (b : BlockNo) (n : ColNo) (bad : Bool) (s : State) :=
  s.on (.core (t.val / 160)) (opBlockJunction t.val i b.val n.val bad)
def execRowCommit (t : TileNo) (disagree : Bool) (s : State) := s.on (.core (t.val / 160)) (opRowCommit t.val disagree)
def execFactorFormation (t : TileNo) (upset : List Nat) (s : State) := s.on (.core (t.val / 160)) (opFactorFormation t.val upset)
def execDrainRead (t : TileNo) (bad : Bool) (s : State) := s.on (.core (t.val / 160)) (opDrainRead t.val bad)
def execTileFlush (t : TileNo) (s : State) := s.on (.core (t.val / 160)) (opTileFlush t.val)
def execFlushAbortReport (t : TileNo) (s : State) := s.on (.core (t.val / 160)) (opFlushAbortReport t.val)
def execTileCtrlRun (t : TileNo) (run : Bool) (s : State) := s.on (.core (t.val / 160)) (opTileCtrlRun t.val run)
def execTileRepairWrite (t : TileNo) (data : Word) (s : State) := s.on (.core (t.val / 160)) (opTileRepairWrite t.val data.toNat)
def execTrapLatchClear (u : TrapUnit) (s : State) := s.on (.core (unitCluster u / 10)) (opTrapLatchClear u)

end Sys2Proof.Machine
end

