-- ==== Sys2Proof/Machine/Vector.lean ====
section
/-! DEFINITION. The vector engines of chapter 4. -/

namespace Sys2Proof.Machine

/-! Descriptor words (04 Tables 4-2, 4-3) -/

/-- An operand record. -/
structure Opnd where
  kind : Nat
  fmt : Nat
  base : Nat
  s1 : Int
  s2 : Int
  s3 : Int
  s4 : Int
  imm : Nat
  deriving DecidableEq, Repr

def opndAt (w : List Nat) (i : Nat) : Opnd :=
  { kind := cw w i 2 0, fmt := cw w i 6 3, base := cw w i 31 7, s1 := toSigned 16 (cw w (i + 1) 15 0), s2 := toSigned 16 (cw w (i + 1) 31 16),
    s3 := toSigned 16 (cw w (i + 2) 15 0), s4 := toSigned 16 (cw w (i + 2) 31 16), imm := nth 0 w (i + 1) }

def dOp (w : List Nat) : Nat := cw w 0 7 0
def dWork (w : List Nat) : Nat := cw w 0 11 8
def dTrunc (w : List Nat) : Trunc := cw w 0 12 12 == 1
def dNanTrap (w : List Nat) : Bool := cw w 0 13 13 == 1
def dMask (w : List Nat) : Nat := cw w 0 15 14
def dNdim (w : List Nat) : Nat := cw w 0 18 16
def dTag (w : List Nat) : Nat := cw w 0 31 19
def dMaskLine (w : List Nat) : Nat := cw w 3 28 16
def dBcast (w : List Nat) (i : Nat) : Bool := cw w 3 (29 + i) (29 + i) == 1

def dRawLen (w : List Nat) (i : Nat) : Nat :=
  if i = 0 then cw w 1 15 0 else if i = 1 then cw w 1 31 16 else if i = 2 then cw w 2 15 0 else if i = 3 then cw w 2 31 16 else cw w 3 15 0

/-- A dimension's length; at or above NDIM it counts as 1 (04 R80). -/
def dLen (w : List Nat) (i : Nat) : Nat := if i < dNdim w then dRawLen w i else 1

def dA (w : List Nat) : Opnd := opndAt w 4
def dB (w : List Nat) : Opnd := opndAt w 7
def dC (w : List Nat) : Opnd := opndAt w 10
def dD (w : List Nat) : Opnd := opndAt w 13

/-- Lanes of a step in a working format (04 Table 4-1). -/
def lanesOf : Fmt → Nat
  | .g4 => 256 | .i4 => 256 | .g8e => 256 | .g8m => 256 | .i8 => 256 | .g16 => 128 | .i16 => 128 | .gs32 => 64 | .g36 => 64 | .i32 => 64

/-- Whether arithmetic accepts a working format (04 Table 4-1). -/
def isArith : Fmt → Bool
  | .i8 => true | .g16 => true | .i16 => true | .gs32 => true | .g36 => true | .i32 => true | _ => false

/-- The kinds of operation of Table 4-4. -/
inductive VKind | move | load | store | arith | special | perm | gather | reduce | sample | accept | blockq
  deriving DecidableEq, Repr

def kindOf (op : Nat) : Option VKind :=
  if op = 0x01 then some .move else if op = 0x02 then some .load else if op = 0x03 then some .store
  else if 0x10 ≤ op ∧ op ≤ 0x17 then some .arith else if 0x20 ≤ op ∧ op ≤ 0x23 then some .special
  else if op = 0x30 then some .perm else if op = 0x31 then some .gather else if 0x40 ≤ op ∧ op ≤ 0x44 then some .reduce
  else if op = 0x50 then some .sample else if op = 0x51 then some .accept else if op = 0x60 then some .blockq else none

/-- Whether an operation accepts a working format (04 R78, Table 4-4). -/
def workOk (k : VKind) (f : Fmt) : Bool :=
  match k with
  | .move => true | .load => true | .store => true | .perm => true | .gather => true
  | .arith => isArith f
  | .reduce => isArith f
  | .special => f == .g16 || f == .gs32 || f == .g36
  | .sample => f == .g36
  | .accept => f == .i32
  | .blockq => f == .g16 || f == .g36

def usesB (op : Nat) : Bool :=
  (0x10 ≤ op && op ≤ 0x15) || op == 0x30 || op == 0x31 || op == 0x50 || op == 0x51
def usesC (op : Nat) : Bool := op == 0x13 || op == 0x50 || op == 0x60

def isIndexFmt (f : Nat) : Bool := f == 9 || f == 10 || f == 11
def isTileFmt (f : Nat) : Bool := f == 0 || f == 1 || f == 2 || f == 3 || f == 8 || f == 9
def isBlockqFmt (f : Nat) : Bool := f == 0 || f == 1 || f == 2 || f == 8 || f == 9

/-- A used operand whose format code is reserved, of any KIND (02 R26, cause 0x02 of 04 Table 4-9). -/
def fmtBad (o : Opnd) : Bool := (fmtOfCode o.fmt).isNone

/-- Whether an operand KIND is allowed in its position and for the operation (04 R81). -/
def kindsOk (k : VKind) (op : Nat) (w : List Nat) : Bool :=
  let a := (dA w).kind; let b := (dB w).kind; let c := (dC w).kind; let d := (dD w).kind
  let aOk := match k with
    | .load => a == 2
    | .store => a == 1
    | _ => a == 1 || a == 3
  let bOk := if usesB op then b == 1 || b == 4 else b == 0 || b == 1 || b == 4
  let cOk := match k with
    | .blockq => c == 1
    | .sample => c == 4
    | _ => if usesC op then c == 1 || c == 4 else c == 0 || c == 1 || c == 4
  let dOk := match k with
    | .load => d == 1
    | .store => d == 2
    | .reduce => d == 1 | .sample => d == 1 | .accept => d == 1 | .blockq => d == 1
    | _ => d == 1 || d == 5
  aOk && bOk && cOk && dOk

/-- Bits of an element in storage. -/
def elemBits (fmt : Nat) : Nat := match fmtOfCode fmt with
  | some f => f.storeBits
  | none => 8

/-- The lowest and highest element offsets a nest of lengths and strides reaches (04 R84). -/
def reach (ns : List Nat) (ss : List Int) : Int × Int :=
  (ns.zip ss).foldl (fun a x =>
    let t := ((x.1 - 1 : Nat) : Int) * x.2
    (a.1 + (if t < 0 then t else 0), a.2 + (if t < 0 then 0 else t))) (0, 0)

/-- The byte of an element offset of an operand of bits-wide elements. -/
def elemByte (base bits : Nat) (off : Int) : Int := (base : Int) + off * (bits : Int) / 8

/-- Whether every byte of a nest lies from 0 to limit - 1. -/
def nestFits (o : Opnd) (bits : Nat) (ns : List Nat) (u : Int) (limit : Nat) : Bool :=
  let r := reach ns [u, o.s1, o.s2, o.s3, o.s4]
  decide (0 ≤ elemByte o.base bits r.1) && decide (elemByte o.base bits r.2 + ((max (bits / 8) 1 : Nat) : Int) ≤ (limit : Int))

def cacheBytes : Nat := 524288
def bankBytes : Nat := 327680 * 64

def operandFits (o : Opnd) (bits : Nat) (ns : List Nat) (u : Int) : Bool :=
  if o.kind = 1 then nestFits o bits ns u cacheBytes else if o.kind = 2 then nestFits o bits ns u bankBytes else true

/-- The test of cause 0x05 (04 R84, R94, R95, R97). nodes is the tree record's, for ACCEPT. -/
def rangesOk (k : VKind) (op : Nat) (w : List Nat) (nodes : Nat) : Bool :=
  let ns := [dLen w 0, dLen w 1, dLen w 2, dLen w 3, dLen w 4]
  let outer := [1, dLen w 1, dLen w 2, dLen w 3, dLen w 4]
  let u (i : Nat) : Int := if dBcast w i then 0 else 1
  let a := dA w; let b := dB w; let c := dC w; let d := dD w
  let flat (o : Opnd) : Opnd := { o with s1 := 0, s2 := 0, s3 := 0, s4 := 0 }
  let tableLen := cw w 6 31 16
  let aOk := match k with
    | .gather => operandFits { a with s4 := 0 } (elemBits a.fmt) [max tableLen 1, dLen w 1, dLen w 2, dLen w 3, 1] (u 0)
    | .accept => operandFits (flat a) (elemBits a.fmt) [max nodes 1, 1, 1, 1, 1] 1
    | _ => operandFits a (elemBits a.fmt) ns (u 0)
  let bOk := match k with
    | .accept => operandFits (flat b) (elemBits b.fmt) [max nodes 1, 1, 1, 1, 1] 1
    | _ => !usesB op || operandFits b (elemBits b.fmt) ns (u 1)
  let cOk := match k with
    | .blockq => operandFits c 8 [(dLen w 0 + 15) / 16, dLen w 1, dLen w 2, dLen w 3, dLen w 4] (u 2)
    | _ =>
      (!usesC op || operandFits c (elemBits c.fmt) ns (u 2)) &&
        (d.kind != 5 || operandFits c 8 [3, dLen w 1, dLen w 2, dLen w 3, dLen w 4] (u 2))
  let dOk := match k with
    | .reduce => operandFits d (elemBits d.fmt) outer 1
    | .sample => operandFits d (elemBits d.fmt) outer 1
    | .accept => operandFits (flat d) 8 [64, 1, 1, 1, 1] 1
    | _ => operandFits d (elemBits d.fmt) ns 1
  aOk && bOk && cOk && dOk &&
    (k == .accept || dMask w != 1 || decide (dMaskLine w * 64 + (dLen w 0 - 1) / 8 < cacheBytes))

/-- The first cause of Table 4-9 that applies, 0 where none does (04 R100); tree is the record at MASK_LINE. -/
def dReject (w : List Nat) (tree : List Nat) : Nat :=
  match kindOf (dOp w) with
  | none => 1
  | some k =>
    match fmtOfCode (dWork w) with
    | none => 2
    | some f =>
      let op := dOp w
      let push := (dD w).kind == 5
      if !workOk k f || fmtBad (dA w) || (usesB op && fmtBad (dB w)) || (usesC op && k != .blockq && fmtBad (dC w)) || fmtBad (dD w)
        || (push && !isTileFmt (dD w).fmt) || (k == .blockq && !isBlockqFmt (dD w).fmt)
        || ((k == .perm || k == .gather) && !isIndexFmt (dB w).fmt) then 2
      else if dNdim w = 0 ∨ 5 < dNdim w ∨ (upFrom 0 (dNdim w)).any (fun i => dRawLen w i == 0) then 3
      else if !kindsOk k op w then 4
      else if !rangesOk k op w (nth 0 tree 48) then 5
      else if (k != .accept && (dA w).kind == 3 && decide (48 < dLen w 0)) || (push && dLen w 0 != 48) then 6
      else if (k != .accept && dMask w == 3) || (k != .accept && dMask w == 2 && f.isInt)
        || ((k == .accept || dMask w == 2) && !treeValid tree) then 7
      else 0

/-! The operand cache (04 R84) -/

/-- A byte of the operand cache: a free value where nothing has written it. -/
def cacheByte (c : Nat) (v : Ve) (a : Nat) : Nat :=
  let b := SMap.get 256 a v.cache
  if b = 256 then freeAt 8 2 v.epoch (c * 524288 + a) else b

def cacheSpan (c : Nat) (v : Ve) (a n : Nat) : List Nat := (upFrom a n).map (cacheByte c v)

/-- Where an element lies: its byte, the bit it starts at, and its bits. -/
structure Loc where
  byte : Nat
  bit : Nat
  bits : Nat
  deriving DecidableEq, Repr

/-- The location of element (i0, outer) of an operand (04 R81). -/
def locAt (o : Opnd) (bits : Nat) (off : Int) : Loc :=
  { byte := (elemByte o.base bits off).toNat, bit := if bits = 4 then (off % 2).toNat * 4 else 0, bits := bits }

def outerOff (o : Opnd) (ou : List Nat) : Int :=
  ((nth 0 ou 0 : Nat) : Int) * o.s1 + ((nth 0 ou 1 : Nat) : Int) * o.s2 + ((nth 0 ou 2 : Nat) : Int) * o.s3 + ((nth 0 ou 3 : Nat) : Int) * o.s4

def Loc.size (l : Loc) : Nat := (l.bits + 7) / 8

/-- The code at a location of the cache; a G36 container's upper bits are ignored (02 R27). -/
def readLoc (c : Nat) (v : Ve) (l : Loc) : Nat :=
  let n := (cacheSpan c v l.byte l.size).foldr (fun b s => b + 256 * s) 0
  n / 2 ^ l.bit % 2 ^ (if l.bits = 64 then 36 else l.bits)

/-- The 32-bit lanes and the lines that locations lie in. -/
def Loc.lanes (l : Loc) : List Nat := upFrom (l.byte / 4) ((l.byte + l.size - 1) / 4 + 1 - l.byte / 4)
def Loc.lines (l : Loc) : List Nat := upFrom (l.byte / 64) ((l.byte + l.size - 1) / 64 + 1 - l.byte / 64)

def laneFails (v : Ve) (ls : List Loc) : Bool := ls.any (fun l => l.lanes.any (fun k => SMap.get 0 k v.badLanes != 0))

/-- Whether a line is written by a write that has not landed (04 R83). -/
def linePending (v : Ve) (line : Nat) : Bool := v.writes.any (fun wr => wr.bytes.any (fun b => b.addr / 64 == line))

def waitsOn (v : Ve) (ls : List Loc) : Bool := ls.any (fun l => l.lines.any (linePending v))

/-- The bytes that writing a code at a location writes. -/
def locBytes (l : Loc) (code : Nat) : List CacheByte :=
  if l.bits = 4 then [⟨l.byte, code % 16 * 2 ^ l.bit, 15 * 2 ^ l.bit⟩]
  else (upFrom 0 l.size).map (fun i => ⟨l.byte + i, code / 2 ^ (8 * i) % 256, 255⟩)

/-- A byte merged into the bytes a step writes: bits written later win. -/
def mergeByte (b : CacheByte) : List CacheByte → List CacheByte
  | [] => [b]
  | x :: l =>
    if x.addr = b.addr then ⟨x.addr, (x.val &&& (255 - b.mask)) ||| b.val, x.mask ||| b.mask⟩ :: l else x :: mergeByte b l

def mergeBytes (bs : List CacheByte) : List CacheByte := bs.foldl (fun acc b => mergeByte b acc) []

def linesOf : List CacheByte → List Nat
  | [] => []
  | b :: l => let r := linesOf l; if r.contains (b.addr / 64) then r else (b.addr / 64) :: r

/-- A step's bytes as one write per line (04 R83, R84). -/
def lineWrites (seq step : Nat) (bs : List CacheByte) : List VeWrite :=
  let m := mergeBytes bs
  (linesOf m).map (fun ln => { seq := seq, step := step, bytes := m.filter (fun b => b.addr / 64 == ln), push := none })

/-- Bytes landing in the cache, merged bit by bit; a lane covered whole gets fresh parity (04 R84). -/
def landBytes (c : Nat) (v : Ve) (bs : List CacheByte) : Ve :=
  let v1 := bs.foldl (fun (v : Ve) b =>
    { v with cache := SMap.put 256 b.addr (if b.mask = 255 then b.val else (cacheByte c v b.addr &&& (255 - b.mask)) ||| b.val) v.cache }) v
  let whole := bs.filter (fun b => b.addr % 4 == 0 && (upFrom 0 4).all (fun i => bs.any (fun x => x.addr == b.addr + i && x.mask == 255)))
  { v1 with badLanes := whole.foldl (fun m b => SMap.put 0 (b.addr / 4) 0 m) v1.badLanes }

/-! Events and ends -/

/-- Raising VE_EVENTS bits; the mask has the register's bit numbers, which for bits 0, 4 and 5 are the flags' (04 Table 4-10). -/
def Mach.veEvents (m : Mach) (c ev : Nat) : Mach :=
  let p := clIx c
  let set (m : Mach) (f : Fld) (b : Nat) : Mach := if ev &&& b = 0 then m else m.ev f p
  set (set (set (set (set (set (set (set m F.veEventsNanSeen flNan) F.veEventsSaturated flSat) F.veEventsLaneIndexRange flRange)
    F.veEventsDescReject 0x10000) F.veEventsCacheParity 0x20000) F.veEventsPoisonIn 0x40000) F.veEventsBankRefused 0x80000)
    F.veEventsPushRefused 0x100000

/-- Offering an event to the vector engine's latch (05 R113). -/
def Mach.veTrap (m : Mach) (c opTag outer : Nat) (cyc i0 cause : Nat) : Mach :=
  let p := clIx c
  let v := m.ve c
  let put (m : Mach) : Mach :=
    (((((m.wr F.veTrapValid p 1).wr F.veTrapCause p cause).wr F.veTrapOpTag p opTag).wr F.veTrapPosI0 p i0).wr F.veTrapOuter p outer).wr
      F.veTrapCycle p cyc |>.setVe c { v with trapCycle := cyc }
  let more (m : Mach) : Mach := m.wr F.veTrapPosMore p (satAdd16 (m.rd F.veTrapPosMore p) 1)
  if m.on F.veTrapValid p then
    if trapBefore cyc outer i0 v.trapCycle (m.rd F.veTrapOuter p) (m.rd F.veTrapPosI0 p) then more (put m) else more m
  else put m

/-- The executing descriptor ends with a status: its report waits for its last write (04 R101). -/
def Ve.finish (v : Ve) (e : VeExec) (status : Nat) : Ve :=
  { v with queue := v.queue.filter (fun q => q.seq != e.cmd.seq), exec := none,
           ends := v.ends ++ [⟨e.cmd.seq, e.cmd.src, dTag e.cmd.w, status, e.events, e.poison⟩] }

/-- A descriptor stops at a step: an event is set and it is to be reported ABORTED (04 R85, R88). -/
def Mach.veAbort (m : Mach) (c : Nat) (e : VeExec) (ev : Nat) : Mach :=
  let m1 := m.veEvents c ev
  m1.setVe c ((m1.ve c).finish { e with events := e.events ||| ev } 1)

/-! Decode (04 R77, R96, R100) -/

def opVeDescEnqueue (c who w15 : Nat) (m : Mach) : Mach :=
  let v := m.ve c
  if !m.isRaw c then m.respond who rsRefused
  else if v.held.isSome then m
  else if 16 ≤ v.queue.length then m.setVe c { v with held := some (who, w15) }
  else (m.setVe c { v with queue := v.queue ++ [⟨v.nextSeq, .raw who, v.staging ++ [w15]⟩], nextSeq := v.nextSeq + 1 }).respond who rsOk

def opVeDescHeldRelease (c : Nat) (m : Mach) : Mach :=
  let v := m.ve c
  match v.held with
  | none => m
  | some (who, w15) =>
    if 16 ≤ v.queue.length then m
    else
      let q : QCmd := ⟨v.nextSeq, .raw who, v.staging ++ [w15]⟩
      (m.setVe c { v with queue := v.queue ++ [q], nextSeq := v.nextSeq + 1, held := none }).respond who rsOk

/-- Whether a descriptor reads a tree record: MASK_MODE = TREE, and every ACCEPT (04 R96). -/
def readsTree (w : List Nat) : Bool := dMask w == 2 || dOp w == 0x51

/-- DESCRIPTOR_DECODE: the head descriptor's tree record is read once no write to its line is pending, and it is checked. -/
def opDescriptorDecode (c : Nat) (m : Mach) : Mach :=
  let v := m.ve c
  if v.exec.isSome || !m.on F.veCtrlRun (clIx c) then m
  else match v.queue with
    | [] => m
    | q :: l =>
      if readsTree q.w && linePending v (dMaskLine q.w) then m
      else
        let tree := cacheSpan c v (64 * dMaskLine q.w) 64
        let cause := dReject q.w tree
        if cause = 0 then
          m.setVe c { v with exec := some { cmd := q, step := 0, tree := if readsTree q.w then tree else [], runSum := none, runVals := [],
                                            events := 0, poison := 0 } }
        else
          let p := clIx c
          (((m.veEvents c 0x10000).wr F.veRejectCause p cause).wr F.veRejectOpTag p (dTag q.w)).setVe c { v with queue := l } |>.ended
            ({ unit := .ve (Fin.ofNat 60 c), src := q.src, opTag := dTag q.w, status := 2, cause := cause, flags := 0, poisoned := [],
                      last := false })

/-! One step (04 R82, R83) -/

/-- Steps of one outer index, and all steps. -/
def stepsPer (w : List Nat) (l : Nat) : Nat := (dLen w 0 + l - 1) / l
def stepsAll (w : List Nat) (k : VKind) (l : Nat) : Nat :=
  if k = .accept then 1 else stepsPer w l * dLen w 1 * dLen w 2 * dLen w 3 * dLen w 4

/-- The outer indices i1 to i4 of an outer number. -/
def outerOf (w : List Nat) (n : Nat) : List Nat :=
  [n % dLen w 1, n / dLen w 1 % dLen w 2, n / (dLen w 1 * dLen w 2) % dLen w 3, n / (dLen w 1 * dLen w 2 * dLen w 3)]

/-- The outer index of a trap record (05 Table 5-2 COL). -/
def outerIndex (w : List Nat) (n : Nat) : Nat := n % (dLen w 1 * dLen w 2 * dLen w 3 * dLen w 4)

/-- What a step works on: lanes s to s + p - 1 of an outer index. -/
structure StepAt where
  s : Nat
  p : Nat
  outer : Nat
  deriving DecidableEq, Repr

def stepAt (w : List Nat) (k : VKind) (l nodes n : Nat) : StepAt :=
  if k = .accept then ⟨0, nodes, 0⟩
  else
    let i := n % stepsPer w l
    ⟨i * l, min l (dLen w 0 - i * l), n / stepsPer w l⟩

/-- Locations of an operand's lanes in a step. -/
def laneLocs (w : List Nat) (o : Opnd) (bits : Nat) (bcast : Bool) (at_ : StepAt) : List Loc :=
  (upFrom at_.s at_.p).map (fun (i : Nat) => locAt o bits ((if bcast then 0 else ((i : Nat) : Int)) + outerOff o (outerOf w at_.outer)))

/-- The mask bit of lane i0 (04 R95 BITS). -/
def maskLoc (w : List Nat) (i0 : Nat) : Loc := ⟨64 * dMaskLine w + i0 / 8, 0, 8⟩

def maskLocs (w : List Nat) (at_ : StepAt) : List Loc := (upFrom at_.s at_.p).map (maskLoc w)

/-- An operand's code converted on its way in (04 R79): a NaN that is only read raises nothing, unless it becomes an integer. -/
def convIn (src dst : Fmt) (tr : Trunc) (code : Nat) : Coded :=
  let r := convert src dst tr code
  if dst.isInt then r else (r.1, r.2 &&& flSat)

/-- A result's code converted on its way out (04 R79). What is written is a code that units write, also where the formats are the same: the canonical
NaN, the all-zero zero, 0x7E or 0xFE in G8e (02 R30, R31, R33; log 31). A NaN written raises NAN_SEEN (05 R109). -/
def convOut (src dst : Fmt) (tr : Trunc) (code : Nat) : Coded := encodeVal dst tr (decodeVal src code)

/-- What a step read and worked out before it acts. -/
structure StepIn where
  w : List Nat
  kind : VKind
  work : Fmt
  tr : Trunc
  at_ : StepAt
  /-- lane offsets that a BITS mask keeps -/
  act : List Nat
  /-- A's codes in the working format, with the flags of their reading -/
  a : List Coded
  tree : List Nat
  /-- B's signed indices (PERM) -/
  idx : List Int
  /-- a GATHER's table elements by lane, none where the index is out of range -/
  got : List (Option Coded)
  deriving DecidableEq, Repr

/-- Codes of an operand's lanes as stored: from the cache or an immediate. An immediate has the 32 bits of word 1; one in G36 is read with its four
upper bits 0 (log 123). -/
def rawCodes (c : Nat) (v : Ve) (w : List Nat) (o : Opnd) (bcast : Bool) (at_ : StepAt) : List Nat :=
  if o.kind = 4 then List.replicate at_.p (o.imm % 2 ^ (match fmtOfCode o.fmt with
    | some f => min f.width 32
    | none => 32))
  else (laneLocs w o (elemBits o.fmt) bcast at_).map (readLoc c v)

/-- Lanes converted in. -/
def lanesIn (fmt : Nat) (work : Fmt) (tr : Trunc) (codes : List Nat) : List Coded :=
  match fmtOfCode fmt with
  | some f => codes.map (convIn f work tr)
  | none => codes.map (fun c => (c, 0))

/-- −∞ in the working format: in one without infinities, the largest negative finite value, and no event (02 R45; log 124). -/
def minusInf (f : Fmt) : Nat := (encodeVal f false (.inf true)).1

/-- The TREE mask on A's lanes (04 R95): hidden keys read as −∞ and raise nothing. -/
def treeMask (w tree : List Nat) (work : Fmt) (at_ : StepAt) (a : List Coded) : List Coded :=
  if dMask w = 2 then
    let r := nth 0 (outerOf w at_.outer) (nth 0 tree 49 - 1)
    (a.zip (upFrom at_.s at_.p)).map (fun x => if treeReads tree r x.2 then x.1 else (minusInf work, 0))
  else a

/-- The TREE mask on the elements a GATHER reads, by the lane's i0. -/
def gatherTree (w tree : List Nat) (work : Fmt) (at_ : StepAt) (g : List (Option Coded)) : List (Option Coded) :=
  if dMask w = 2 then
    let r := nth 0 (outerOf w at_.outer) (nth 0 tree 49 - 1)
    (g.zip (upFrom at_.s at_.p)).map (fun x => if treeReads tree r x.2 then x.1 else some (minusInf work, 0))
  else g

def flagsAt (act : List Nat) (cs : List Coded) : Nat := act.foldl (fun s j => s ||| (nth (0, 0) cs j).2) 0

/-- The cycle in which a lane issues: a step of several cycles issues its lanes in ascending groups (05 R113, Table 4-4). -/
def laneCycle (k : VKind) (work : Fmt) (now j : Nat) : Nat :=
  match k with
  | .special => now + j / (if work = .g16 then 32 else 16)
  | .gather => now + j / 16
  | .sample => now + j / 16
  | _ => now

/-- What a step does: codes for lanes of its destination (in a format, at locations), other bytes it writes, flags, and the NaNs
it produced as (i0, cause). -/
structure StepOut where
  lanes : List Nat
  codes : List Nat
  fmt : Fmt
  /-- true where the result is one element per outer index -/
  single : Bool
  bytes : List CacheByte
  flags : Nat
  produced : List (Nat × Nat)
  runSum : Option Nat
  runVals : List (Nat × Nat)
  deriving DecidableEq, Repr

def outNone : StepOut :=
  { lanes := [], codes := [], fmt := .i32, single := false, bytes := [], flags := 0, produced := [], runSum := none, runVals := [] }

/-- The operation codes of arithmetic and of special functions. -/
def arithOf (op : Nat) : Arith :=
  if op = 0x10 then .add else if op = 0x11 then .sub else if op = 0x12 then .mul else if op = 0x13 then .fma
  else if op = 0x14 then .max else if op = 0x15 then .min else if op = 0x16 then .abs else .neg
def specialOf (op : Nat) : Special :=
  if op = 0x20 then .exp2 else if op = 0x21 then .log2 else if op = 0x22 then .rcp else .rsqrt

/-- Results of one value per lane: codes, flags and produced NaNs. -/
def perLane (i : StepIn) (f : Nat → LaneOut) : StepOut :=
  let rs := i.act.map (fun j => (j, f j))
  { outNone with lanes := i.act, codes := rs.map (fun r => r.2.1), fmt := i.work, flags := rs.foldl (fun s r => s ||| r.2.2.1) 0,
                 produced := rs.filterMap (fun r => r.2.2.2.map (fun k => (i.at_.s + r.1, k))) }

/-- COPY (04 Table 4-4). -/
def stepCopy (i : StepIn) : StepOut :=
  { outNone with lanes := i.act, codes := i.act.map (fun j => (nth (0, 0) i.a j).1), fmt := i.work }

/-- ADD to NEG (04 R89, R92). -/
def stepArith (i : StepIn) (op : Arith) (b c : List Coded) : StepOut :=
  perLane i (fun j => roundOut i.work i.tr (arithVal op (decodeVal i.work (nth (0, 0) i.a j).1) (decodeVal i.work (nth (0, 0) b j).1)
    (decodeVal i.work (nth (0, 0) c j).1)))

/-- EXP2 to RSQRT (04 R90). -/
def stepSpecial (i : StepIn) (op : Special) : StepOut :=
  perLane i (fun j => roundOut i.work i.tr (special op (decodeVal i.work (nth (0, 0) i.a j).1)))

/-- PERM (04 R93). -/
def stepPerm (i : StepIn) : StepOut :=
  let idx := i.idx
  let good (j : Nat) : Bool := decide (0 ≤ nth 0 idx j) && decide (nth 0 idx j < (i.at_.p : Int))
  { outNone with
    lanes := i.act, fmt := i.work,
    codes := i.act.map (fun j => if good j then (nth (0, 0) i.a (nth 0 idx j).toNat).1 else 0),
    flags := i.act.foldl (fun s j => s ||| (if good j then (nth (0, 0) i.a (nth 0 idx j).toNat).2 else flRange)) 0 }

/-- GATHER (04 R94). -/
def stepGather (i : StepIn) : StepOut :=
  let got := i.got
  { outNone with
    lanes := i.act, fmt := i.work,
    codes := i.act.map (fun j => match nth none got j with
      | some x => x.1
      | none => 0),
    flags := i.act.foldl (fun s j => s ||| (match nth none got j with
      | some x => x.2
      | none => flRange)) 0 }

/-- The number of levels of the lane tree. -/
def treeLevels (l : Nat) : Nat := Nat.log2 l

/-- One step of RSUM (04 R91, R95): lanes left out, and lanes at or above the present length, count as +0. -/
def stepRsum (i : StepIn) (run : Option Nat) (last : Bool) : StepOut :=
  let l := lanesOf i.work
  let parts : List Part := (upFrom 0 l).map (fun (j : Nat) => (if i.act.contains j then (nth (0, 0) i.a j).1 else 0, i.at_.s + j))
  let t := treeSum i.work i.tr (treeLevels l) parts (0, [])
  let top : Part := nth (0, i.at_.s) t.1 0
  let r : Part × SumLog := match run with
    | none => (top, t.2)
    | some acc => sumStep i.work i.tr (acc, 0) (top.1, i.at_.s) t.2
  { outNone with lanes := if last then [0] else [], codes := if last then [r.1.1] else [], fmt := i.work, single := true, flags := r.2.1,
                 produced := r.2.2, runSum := if last then none else some r.1.1 }

/-- The kept lanes of a step, as (i0, code). -/
def keptLanes (i : StepIn) : List (Nat × Nat) := i.act.map (fun j => (i.at_.s + j, (nth (0, 0) i.a j).1))

/-- RMAX, RMIN, ARGMAX and ARGMIN over the kept lanes of one outer index (04 R92, R95). -/
def reduceBest (f : Fmt) (big arg : Bool) (vals : List (Nat × Nat)) : Coded :=
  match vals with
  | [] =>
    if arg then (0xFFFFFFFF, 0)
    else if f.isInt then (ofSigned f.width (if big then f.intMin else f.intMax), 0)
    else ((encodeVal f false (.inf big)).1, 0)
  | x :: l =>
    match vals.find? (fun y => isNanCode f y.2) with
    | some y => if arg then (y.1, flNan) else (f.canonNan, flNan)
    | none =>
      let b := bestOf f big x l
      if arg then (b.1, 0) else ((encodeVal f false (decodeVal f b.2)).1, 0)

/-- One step of RMAX, RMIN, ARGMAX or ARGMIN. An index is I32, converted to D's FMT as any result is (04 R79, R92; log 125). -/
def stepBest (i : StepIn) (big arg : Bool) (sofar : List (Nat × Nat)) (last : Bool) : StepOut :=
  let vals := sofar ++ keptLanes i
  let r := reduceBest i.work big arg vals
  if last then { outNone with lanes := [0], codes := [r.1], fmt := if arg then .i32 else i.work, single := true, flags := r.2 }
  else { outNone with single := true, runVals := vals }

/-- SAMPLE (04 R98): a lane left out counts as weight +0; the index is I32, converted to D's FMT (log 125). -/
def stepSample (i : StepIn) (seed counter : Nat) (sofar : List (Nat × Nat)) (last : Bool) : StepOut :=
  let vals := sofar ++ (upFrom 0 i.at_.p).map (fun j => (i.at_.s + j, if i.act.contains j then (nth (0, 0) i.a j).1 else 0))
  let r := sample (vals.map (fun x => x.2)) seed counter
  if last then { outNone with lanes := [0], codes := [r.1], fmt := .i32, single := true, flags := r.2 }
  else { outNone with single := true, runVals := vals }

/-- ACCEPT (04 R97). -/
def stepAccept (i : StepIn) (b : List Coded) : StepOut :=
  let rec_ := walkRecord i.tree (i.a.map (fun x => x.1)) (b.map (fun x => x.1)) (nth 0 i.tree 48)
  { outNone with bytes := (rec_.zip (upFrom (dD i.w).base 64)).map (fun x => ⟨x.2, x.1, 255⟩) }

/-- BLOCKQ (04 R99): element codes for D and one BX8 byte per K-block for C, whose strides count bytes (log 126). A lane that a BITS mask leaves
out still counts in its block's magnitude, and every block's BX8 byte is written (log 127). -/
def stepBlockq (i : StepIn) (dst : Fmt) : StepOut :=
  let blocks := (upFrom 0 ((i.at_.p + 15) / 16)).map (fun k => blockqBlock i.work dst i.tr (((i.a.drop (16 * k)).take 16).map (fun x => x.1)))
  let codes := blocks.flatMap (fun b => b.1)
  let c := dC i.w
  { outNone with
    lanes := i.act, codes := i.act.map (fun j => (nth (0, 0) codes j).1), fmt := dst, flags := flagsAt i.act codes,
    bytes := (blocks.zip (upFrom (i.at_.s / 16) blocks.length)).map (fun x =>
      ⟨(elemByte c.base 8 ((if dBcast i.w 2 then 0 else (x.2 : Int)) + outerOff c (outerOf i.w i.at_.outer))).toNat, x.1.2, 255⟩) }

/-! Issuing a step -/

/-- The locations a step reads in the cache, but for a GATHER's table (04 R83). -/
def stepReads (w : List Nat) (k : VKind) (at_ : StepAt) : List Loc :=
  let op := dOp w
  let bc (i : Nat) : Bool := k != .accept && dBcast w i
  let flat (o : Opnd) : Opnd := if k = .accept then { o with s1 := 0, s2 := 0, s3 := 0, s4 := 0 } else o
  let la := if (dA w).kind = 1 ∧ k ≠ .gather then laneLocs w (flat (dA w)) (elemBits (dA w).fmt) (bc 0) at_ else []
  let lb := if usesB op && (dB w).kind == 1 then
      (if k = .sample then laneLocs w (dB w) (elemBits (dB w).fmt) true ⟨at_.s, 1, at_.outer⟩
       else laneLocs w (flat (dB w)) (elemBits (dB w).fmt) (bc 1) at_)
    else []
  let lc := if op = 0x13 ∧ (dC w).kind = 1 then laneLocs w (dC w) (elemBits (dC w).fmt) (bc 2) at_ else []
  let lx := if (dD w).kind = 5 ∧ (dC w).kind = 1 then laneLocs w (dC w) 8 (bc 2) ⟨0, 3, at_.outer⟩ else []
  let lm := if k ≠ .accept ∧ dMask w = 1 then maskLocs w at_ else []
  la ++ lb ++ lc ++ lx ++ lm

/-- Signed indices of B. -/
def signedB (c : Nat) (v : Ve) (w : List Nat) (at_ : StepAt) : List Int :=
  let wd := match fmtOfCode (dB w).fmt with
    | some f => f.width
    | none => 32
  (rawCodes c v w (dB w) (dBcast w 1) at_).map (fun x => toSigned wd x)

/-- A GATHER's table locations by lane, none where the index is out of range (04 R94); BCAST_A holds for the index that stands for i0 (R81). -/
def gatherLocs (c : Nat) (v : Ve) (w : List Nat) (at_ : StepAt) : List (Option Loc) :=
  let a := dA w
  let u : Int := if dBcast w 0 then 0 else 1
  (signedB c v w at_).map (fun n =>
    if 0 ≤ n ∧ n < (cw w 6 31 16 : Int) then some (locAt { a with s4 := 0 } (elemBits a.fmt) (n * u + outerOff { a with s4 := 0 } (outerOf w at_.outer)))
    else none)

/-- The lanes a BITS mask keeps (04 R95). -/
def actLanes (c : Nat) (v : Ve) (w : List Nat) (k : VKind) (at_ : StepAt) : List Nat :=
  if k ≠ .accept ∧ dMask w = 1 then
    (upFrom 0 at_.p).filter (fun j => bitOf ((at_.s + j) % 8) (readLoc c v (maskLoc w (at_.s + j))))
  else upFrom 0 at_.p

/-- Whether the step is the last of its outer index. -/
def isLast (w : List Nat) (at_ : StepAt) : Bool := at_.s + at_.p == dLen w 0

/-- The destination's locations for lanes of a step. -/
def destLocs (w : List Nat) (at_ : StepAt) (single : Bool) (lanes : List Nat) : List Loc :=
  let d := dD w
  lanes.map (fun j => locAt d (elemBits d.fmt) ((if single then 0 else ((at_.s + j : Nat) : Int)) + outerOff d (outerOf w at_.outer)))

/-- A step has issued: its writes are pending, its counters and events are set, and the descriptor ends with its last
step (04 R77, R102). -/
def Mach.veIssued (m : Mach) (c : Nat) (e : VeExec) (total : Nat) (ev : Nat) (ws : List VeWrite) : Mach :=
  let m1 := (m.wrap F.veSteps (clIx c) 1).veEvents c ev
  let v := m1.ve c
  let e' := { e with step := e.step + 1, events := e.events ||| ev }
  let v' := { v with writes := v.writes ++ ws }
  m1.setVe c (if total ≤ e.step + 1 then v'.finish e' 0 else { v' with exec := some e' })

/-- The row a push writes (04 R88): the codes of the lanes that a mask keeps, and three BX8 bytes, for which C's strides count bytes (log 126). -/
def pushOf (c : Nat) (v : Ve) (w : List Nat) (at_ : StepAt) (row : Nat) (lanes codes : List Nat) : RowPush :=
  let full := (lanes.zip codes).foldl (fun l x => setNth l x.1 x.2) (List.replicate 48 0)
  let bx := if (dC w).kind = 1 then (laneLocs w (dC w) 8 (dBcast w 2) ⟨0, 3, at_.outer⟩).map (readLoc c v) else [0, 0, 0]
  ⟨c * 16 + (dD w).base % 16, row, maskOf lanes, ⟨full, bx⟩⟩

/-- Bytes that two results of one step both name hold a free value (log 7): the spec orders reads and writes, and not two writes of a step. -/
def Mach.freeBytes (m : Mach) : List Nat → List CacheByte × Mach
  | [] => ([], m)
  | a :: l =>
    let x := m.fresh 8
    let r := x.2.freeBytes l
    (⟨a, x.1, 255⟩ :: r.1, r.2)

/-- The addresses among a step's further bytes that another byte of the step has too. -/
def clashes (elems bytes : List CacheByte) : List Nat :=
  (distinct (bytes.map (fun b => b.addr))).filter (fun a =>
    elems.any (fun b => b.addr == a) || decide (1 < (bytes.filter (fun b => b.addr == a)).length))

/-- Writing a step's result (04 R79, R87, R88): a poisoned row's step writes nothing. -/
def Mach.veWriteOut (m : Mach) (c : Nat) (e : VeExec) (i : StepIn) (o : StepOut) (total readFlags : Nat) : Mach :=
  let w := i.w
  let v := m.ve c
  let dst := match fmtOfCode (dD w).fmt with
    | some f => f
    | none => .i8
  let outs := o.codes.map (convOut o.fmt dst i.tr)
  let codes := outs.map (fun x => x.1)
  let fl0 := outs.foldl (fun s x => s ||| x.2) (o.flags ||| readFlags)
  let row := (dD w).base / 16 % 64 + nth 0 (outerOf w i.at_.outer) 0
  let push := (dD w).kind == 5
  let fl := if push && decide (48 ≤ row) then fl0 ||| flRange else fl0
  let elems := if push then [] else ((destLocs w i.at_ o.single o.lanes).zip codes).flatMap (fun x => locBytes x.1 x.2)
  let fb := m.freeBytes (clashes elems o.bytes)
  let ws : List VeWrite :=
    if push then
      (if 48 ≤ row then [] else [{ seq := e.cmd.seq, step := e.step, bytes := [], push := some (pushOf c v w i.at_ row o.lanes codes) }])
    else lineWrites e.cmd.seq e.step (elems ++ o.bytes ++ fb.1)
  let now := m.cycles (c / 10)
  let m1 := if dNanTrap w then o.produced.foldl (fun m x =>
      m.veTrap c (dTag w) (outerIndex w i.at_.outer) (laneCycle i.kind i.work now (x.1 - i.at_.s)) x.1 x.2) fb.2 else fb.2
  m1.veIssued c { e with runSum := o.runSum, runVals := o.runVals } total (fl &&& (flNan ||| flSat ||| flRange)) ws

/-- Which operation a step issue command names. -/
def Mach.veReady (m : Mach) (c op : Nat) : Option VeExec :=
  match (m.ve c).exec with
  | none => none
  | some e => if dOp e.cmd.w = op then some e else none

/-- Cache lanes whose stored parity the surroundings upset. -/
def Ve.upset (v : Ve) (ls : List Nat) : Ve := { v with badLanes := ls.foldl (fun m l => SMap.put 0 l 1 m) v.badLanes }

/-- What a step computes from its lanes. -/
abbrev StepFn := StepIn → List Coded → List Coded → VeExec → Bool → StepOut

/-- The cache places that GATHER's lanes read (04 R94); a drained row is no place of the cache. -/
def gatherTable (c : Nat) (v : Ve) (w : List Nat) (k : VKind) (at_ : StepAt) : List (Option Loc) :=
  if k = .gather ∧ (dA w).kind ≠ 3 then gatherLocs c v w at_ else []

/-- A GATHER's elements of a drained row: the table is columns 0 to 47, so an index is out of range at the table length or at 48 (04 R86, R94; log 128). -/
def gatherDrained (c : Nat) (v : Ve) (w : List Nat) (at_ : StepAt) (work : Fmt) (row : DrainRow) : List (Option Coded) :=
  (signedB c v w at_).map (fun n => if 0 ≤ n ∧ n < (cw w 6 31 16 : Int) ∧ n < 48 then
    some (convIn .g36 work (dTrunc w) (nth 0 row.vals n.toNat)) else none)

/-- What a step writes once its operands may be read (04 R86 to R99): the A lanes from the cache or from a drained row, B and C from the
cache, GATHER's elements, then the operation's outcome. -/
def Mach.veOutcome (m1 : Mach) (c op : Nat) (e : VeExec) (k : VKind) (work : Fmt) (v : Ve) (at_ : StepAt) (act : List Nat)
    (table : List (Option Loc)) (row : DrainRow) (f : StepFn) : Mach :=
  let w := e.cmd.w
  let drain := (dA w).kind == 3
  let aCodes := if drain then (row.vals.drop at_.s).take at_.p else rawCodes c v w (dA w) (k != .accept && dBcast w 0) at_
  let a0 := if k = .gather then [] else if drain then aCodes.map (convIn .g36 work (dTrunc w)) else lanesIn (dA w).fmt work (dTrunc w) aCodes
  let a := if k = .accept ∨ k = .gather then a0 else treeMask w e.tree work at_ a0
  let b := if usesB op && k != .perm && k != .gather then
      (if k = .sample then lanesIn (dB w).fmt .i32 (dTrunc w) (rawCodes c v w (dB w) true ⟨at_.s, 1, at_.outer⟩)
       else lanesIn (dB w).fmt work (dTrunc w) (rawCodes c v w (dB w) (k != .accept && dBcast w 1) at_))
    else []
  let cc := if op = 0x13 then lanesIn (dC w).fmt work (dTrunc w) (rawCodes c v w (dC w) (dBcast w 2) at_) else []
  let got0 := if k ≠ .gather then [] else if drain then gatherDrained c v w at_ work row
    else table.map (fun x => match x, fmtOfCode (dA w).fmt with
      | some lc, some sf => some (convIn sf work (dTrunc w) (readLoc c v lc))
      | _, _ => none)
  let got := gatherTree w e.tree work at_ got0
  let i : StepIn := { w := w, kind := k, work := work, tr := dTrunc w, at_ := at_, act := act, a := a, tree := e.tree,
                       idx := if k = .perm then signedB c v w at_ else [], got := got }
  let rf := (if k = .perm ∨ k = .gather then 0 else flagsAt act a) ||| flagsAt (if k = .sample then [0] else act) b ||| flagsAt act cc
  m1.veWriteOut c e i (f i b cc e (isLast w at_)) (stepsAll w k (lanesOf work)) rf

/-- A step that reads the drain port takes the tile's oldest drained row; a poisoned row writes nothing (04 R85). -/
def Mach.veTakeRow (m0 : Mach) (c op : Nat) (e : VeExec) (k : VKind) (work : Fmt) (v : Ve) (at_ : StepAt) (act : List Nat)
    (table : List (Option Loc)) (row : DrainRow) (f : StepFn) : Mach :=
  let w := e.cmd.w
  let drain := (dA w).kind == 3
  let m1 := if drain then (drainTake (c * 16 + (dA w).base % 16) m0).wrap F.veDrainRows (clIx c) 1 else m0
  if drain && row.poison then m1.veIssued c { e with poison := e.poison + 1 } (stepsAll w k (lanesOf work)) 0x40000 []
  else m1.veOutcome c op e k work v at_ act table row f

/-- One step of the executing descriptor, for the operations that read the cache or the drain port (04 R82 to R99): it waits for
pending writes to the lines it reads and for its drained row; a bad cache lane aborts; a poisoned row writes nothing. -/
def Mach.veStep (m : Mach) (c op : Nat) (upset : List Nat) (f : StepFn) : Mach :=
  match m.veReady c op, kindOf op with
  | some e, some k =>
    let w := e.cmd.w
    match fmtOfCode (dWork w) with
    | none => m
    | some work =>
      let m0 := m.setVe c ((m.ve c).upset upset)
      let v := m0.ve c
      let at_ := stepAt w k (lanesOf work) (nth 0 e.tree 48) e.step
      let reads := stepReads w k at_
      let drain := (dA w).kind == 3
      let act := actLanes c v w k at_
      let table := gatherTable c v w k at_
      let tlocs := act.filterMap (fun j => nth none table j)
      if waitsOn v reads then m
      else if laneFails v reads then (m0.cnt F.veParityErrs (clIx c) 1).veAbort c e 0x20000
      else if waitsOn v tlocs then m
      else if laneFails v tlocs then (m0.cnt F.veParityErrs (clIx c) 1).veAbort c e 0x20000
      else match drain, (m0.tile (c * 16 + (dA w).base % 16)).drained.head? with
        | true, none => m
        | _, none => m0.veTakeRow c op e k work v at_ act table ⟨0, [], false⟩ f
        | _, some row => m0.veTakeRow c op e k work v at_ act table row f
  | _, _ => m

end Sys2Proof.Machine
end

