-- ==== Sys2Proof/Machine/VectorMem.lean ====
section
/-! DEFINITION. The vector engine's steps that touch banks, the landing of its writes, its end reports and control, and the
meanings of the commands of chapter 4. -/

namespace Sys2Proof.Machine

/-- Distinct lines (or cluster words) of locations, in the order they are first met. -/
def wordsOfLocs : List Loc → List Nat
  | [] => []
  | l :: ls =>
    let r := wordsOfLocs ls
    l.lines.filter (fun x => !r.contains x) ++ r

/-- The first word a bank refuses. -/
def firstRefused (m : Mach) (c : Nat) (cws : List Nat) : Option Nat :=
  cws.find? (fun w => bankAdm m (c * 16 + w / 20480) (.local 16) != .ok)

/-- The vector engine stops at a refused access (04 R85). -/
def Mach.veRefused (m : Mach) (c : Nat) (e : VeExec) (cwd : Nat) : Mach :=
  (m.bankRefuse (c * 16 + cwd / 20480) (.local 16)).veAbort c e 0x80000

/-- The code of an element in a bank. -/
def bankCode (m : Mach) (c : Nat) (l : Loc) : Nat :=
  leNat (m.bytes (clusterBase c + l.byte) l.size) / 2 ^ l.bit % 2 ^ (if l.bits = 64 then 36 else l.bits)

/-- VE_LOAD (04 R85): a step reads its bank words, converts them and writes the cache. -/
def opVeLoad (c : Nat) (upset : List Nat) (m : Mach) : Mach :=
  match m.veReady c 0x02 with
  | none => m
  | some e =>
    let w := e.cmd.w
    match fmtOfCode (dWork w), fmtOfCode (dA w).fmt with
    | some work, some src =>
      let v := m.ve c
      let at_ := stepAt w .load (lanesOf work) 0 e.step
      let masks := if dMask w = 1 then maskLocs w at_ else []
      let locs := laneLocs w (dA w) (elemBits (dA w).fmt) (dBcast w 0) at_
      let cws := wordsOfLocs locs
      if waitsOn v masks then m
      else if anyHeld m c (.local 16) cws then m.lostA c 16
      else if laneFails v masks then (m.cnt F.veParityErrs (clIx c) 1).veAbort c e 0x20000
      else match firstRefused m c cws with
        | some x => m.veRefused c e x
        | none =>
          let r := (m.upsetLanes c upset).readWords c (.local 16) cws
          if r.2.1 then r.2.2.veAbort c e 0
          else
            let act := actLanes c v w .load at_
            let a := treeMask w e.tree work at_ (locs.map (fun l => convIn src work (dTrunc w) (bankCode m c l)))
            let i : StepIn := { w := w, kind := .load, work := work, tr := dTrunc w, at_ := at_, act := act, a := a, tree := e.tree, idx := [],
                                got := [] }
            r.2.2.veWriteOut c e i (stepCopy i) (stepsAll w .load (lanesOf work)) (flagsAt act a)
    | _, _ => m

/-- The bytes and the enables a step writes in one cluster word: a byte of which only one 4-bit element is written keeps the
other element (04 R85). -/
def mergedWord (old : List Byte) (cwd : Nat) (bs : List CacheByte) : List Byte × List Bool :=
  let at_ (i : Nat) := bs.find? (fun b => b.addr == cwd * 64 + i)
  ((upFrom 0 64).map (fun i => match at_ i with
     | some b => if b.mask = 255 then BitVec.ofNat 8 b.val else BitVec.ofNat 8 (((nth 0 old i).toNat &&& (255 - b.mask)) ||| b.val)
     | none => nth 0 old i),
   (upFrom 0 64).map (fun i => (at_ i).isSome))

def Mach.storeWords (m : Mach) (c : Nat) (bs : List CacheByte) : List Nat → Mach
  | [] => m
  | x :: l =>
    let a := wordAddr c x
    let d := mergedWord (m.bytes a 64) x bs
    (m.writeWord (c * 16 + x / 20480) a d.1 d.2).storeWords c bs l

/-- VE_STORE (04 R85): a step reads the cache, converts and writes bank words; a word with a byte written in part is read
first. Nothing of a step is written that a bank refuses or whose merge read fails parity. -/
def opVeStore (c : Nat) (upset : List Nat) (m : Mach) : Mach :=
  match m.veReady c 0x03 with
  | none => m
  | some e =>
    let w := e.cmd.w
    match fmtOfCode (dWork w), fmtOfCode (dD w).fmt with
    | some work, some dst =>
      let m0 := m.setVe c ((m.ve c).upset upset)
      let v := m0.ve c
      let at_ := stepAt w .store (lanesOf work) 0 e.step
      let reads := stepReads w .store at_
      if waitsOn v reads then m
      else if laneFails v reads then (m0.cnt F.veParityErrs (clIx c) 1).veAbort c e 0x20000
      else
        let act := actLanes c v w .store at_
        let a := treeMask w e.tree work at_ (lanesIn (dA w).fmt work (dTrunc w) (rawCodes c v w (dA w) (dBcast w 0) at_))
        let outs := act.map (fun j => convOut work dst (dTrunc w) (nth (0, 0) a j).1)
        let locs := destLocs w at_ false act
        let cws := wordsOfLocs locs
        if anyHeld m0 c (.local 16) cws then m.lostA c 16
        else match firstRefused m0 c cws with
          | some x => m0.veRefused c e x
          | none =>
            let bs := mergeBytes ((locs.zip outs).flatMap (fun x => locBytes x.1 x.2.1))
            let part := (linesOf bs).filter (fun ln => bs.any (fun b => b.addr / 64 == ln && b.mask != 255))
            let r := m0.readWords c (.local 16) part
            if r.2.1 then r.2.2.veAbort c e 0
            else
              let fl := outs.foldl (fun s x => s ||| x.2) (flagsAt act a)
              (r.2.2.storeWords c bs (linesOf bs)).veIssued c e (stepsAll w .store (lanesOf work)) (fl &&& (flNan ||| flSat ||| flRange)) []
    | _, _ => m

/-- A push that finds no command stops its descriptor at its step (04 R88): the step and those after it write nothing, and the
descriptor is reported ABORTED. -/
def Mach.pushRefused (m : Mach) (c seq step : Nat) : Mach :=
  let m1 := m.veEvents c 0x100000
  let v := m1.ve c
  let kept := v.writes.filter (fun x => x.seq != seq || decide (x.step < step))
  let v1 := { v with writes := kept }
  match v.exec with
  | some e =>
    if e.cmd.seq = seq then m1.setVe c (v1.finish { e with events := e.events ||| 0x100000 } 1)
    else m1.setVe c { v1 with ends := v.ends.map (fun x => if x.seq = seq then { x with status := 1, events := x.events ||| 0x100000 } else x) }
  | none => m1.setVe c { v1 with ends := v.ends.map (fun x => if x.seq = seq then { x with status := 1, events := x.events ||| 0x100000 } else x) }

/-- Whether a write has to land before another: it goes to the same operand-cache line (04 R83), or both are pushes of one descriptor, whose latency
is one. -/
def VeWrite.before (x y : VeWrite) : Bool :=
  x.bytes.any (fun a => y.bytes.any (fun b => a.addr / 64 == b.addr / 64)) || (x.push.isSome && y.push.isSome && x.seq == y.seq)

/-- The k-th of the engine's writes, when no earlier one has to land before it. -/
def Ve.landable (v : Ve) (k : Nat) : Option VeWrite :=
  match v.writes[k]? with
  | none => none
  | some x => if (v.writes.take k).any (fun y => y.before x) then none else some x

/-- VE_WRITE_LAND: a write lands, in the cache or in the row staging of a tile. Writes to one line land in issue order; others land as their
latencies have it (04 R83, R88). -/
def opVeWriteLand (c k : Nat) (m : Mach) : Mach :=
  let v := m.ve c
  match v.landable k with
  | none => m
  | some x =>
    let v1 := { v with writes := dropNth v.writes k }
    match x.push with
    | none => m.setVe c (landBytes c v1 x.bytes)
    | some r =>
      let p := pushRow r (m.setVe c v1)
      if p.1 then p.2 else p.2.pushRefused c x.seq x.step

/-- DESC_END_REPORT: the first descriptor that has ended and whose last write has landed is reported (04 R101). -/
def opDescEndReport (c : Nat) (m : Mach) : Mach :=
  let v := m.ve c
  match v.ends.find? (fun e => !v.writes.any (fun x => x.seq == e.seq)) with
  | none => m
  | some e =>
    (m.setVe c { v with ends := v.ends.filter (fun x => x.seq != e.seq) }).ended
      { unit := .ve (Fin.ofNat 60 c), src := e.src, opTag := e.opTag, status := e.status, cause := 0, flags := e.events,
        poisoned := [e.poison], last := false }

/-- VE_FLUSH: queued descriptors and the unissued steps of the executing one are discarded (04 R103). -/
def opVeFlush (c : Nat) (m : Mach) : Mach :=
  let v := m.ve c
  let v1 := match v.exec with
    | some e => v.finish e 1
    | none => v
  v1.queue.foldl (fun m q => m.ended { unit := .ve (Fin.ofNat 60 c), src := q.src, opTag := dTag q.w, status := 1, cause := 0, flags := 0,
                                       poisoned := [], last := false }) (m.setVe c { v1 with queue := [] })

def opVeCtrlRun (c : Nat) (run : Bool) (m : Mach) : Mach := m.wr F.veCtrlRun (clIx c) (b2n run)

/-- A vector engine has nothing queued, issuing or pending (04 Table 4-10). -/
def Ve.idle (v : Ve) : Bool := v.queue.isEmpty && v.exec.isNone && v.writes.isEmpty

/-! The meanings -/

def execVeDescEnqueue (c : ClusterNo) (who : Nat) (w15 : Word) (s : State) := s.on (.core (c.val / 10)) (opVeDescEnqueue c.val who w15.toNat)
def execVeDescHeldRelease (c : ClusterNo) (s : State) := s.on (.core (c.val / 10)) (opVeDescHeldRelease c.val)
def execDescriptorDecode (c : ClusterNo) (s : State) := s.on (.core (c.val / 10)) (opDescriptorDecode c.val)
def execVeCopy (c : ClusterNo) (u : List Nat) (s : State) := s.on (.core (c.val / 10)) (fun m => m.veStep c.val 0x01 u (fun i _ _ _ _ => stepCopy i))
def execVeLoad (c : ClusterNo) (u : List Nat) (s : State) := s.on (.core (c.val / 10)) (opVeLoad c.val u)
def execVeStore (c : ClusterNo) (u : List Nat) (s : State) := s.on (.core (c.val / 10)) (opVeStore c.val u)
def execVeAdd (c : ClusterNo) (u : List Nat) (s : State) := s.on (.core (c.val / 10)) (fun m => m.veStep c.val 0x10 u (fun i b x _ _ => stepArith i .add b x))
def execVeSub (c : ClusterNo) (u : List Nat) (s : State) := s.on (.core (c.val / 10)) (fun m => m.veStep c.val 0x11 u (fun i b x _ _ => stepArith i .sub b x))
def execVeMul (c : ClusterNo) (u : List Nat) (s : State) := s.on (.core (c.val / 10)) (fun m => m.veStep c.val 0x12 u (fun i b x _ _ => stepArith i .mul b x))
def execVeFma (c : ClusterNo) (u : List Nat) (s : State) := s.on (.core (c.val / 10)) (fun m => m.veStep c.val 0x13 u (fun i b x _ _ => stepArith i .fma b x))
def execVeMax (c : ClusterNo) (u : List Nat) (s : State) := s.on (.core (c.val / 10)) (fun m => m.veStep c.val 0x14 u (fun i b x _ _ => stepArith i .max b x))
def execVeMin (c : ClusterNo) (u : List Nat) (s : State) := s.on (.core (c.val / 10)) (fun m => m.veStep c.val 0x15 u (fun i b x _ _ => stepArith i .min b x))
def execVeAbs (c : ClusterNo) (u : List Nat) (s : State) := s.on (.core (c.val / 10)) (fun m => m.veStep c.val 0x16 u (fun i b x _ _ => stepArith i .abs b x))
def execVeNeg (c : ClusterNo) (u : List Nat) (s : State) := s.on (.core (c.val / 10)) (fun m => m.veStep c.val 0x17 u (fun i b x _ _ => stepArith i .neg b x))
def execVeExp2 (c : ClusterNo) (u : List Nat) (s : State) := s.on (.core (c.val / 10)) (fun m => m.veStep c.val 0x20 u (fun i _ _ _ _ => stepSpecial i .exp2))
def execVeLog2 (c : ClusterNo) (u : List Nat) (s : State) := s.on (.core (c.val / 10)) (fun m => m.veStep c.val 0x21 u (fun i _ _ _ _ => stepSpecial i .log2))
def execVeRcp (c : ClusterNo) (u : List Nat) (s : State) := s.on (.core (c.val / 10)) (fun m => m.veStep c.val 0x22 u (fun i _ _ _ _ => stepSpecial i .rcp))
def execVeRsqrt (c : ClusterNo) (u : List Nat) (s : State) := s.on (.core (c.val / 10)) (fun m => m.veStep c.val 0x23 u (fun i _ _ _ _ => stepSpecial i .rsqrt))
def execVePerm (c : ClusterNo) (u : List Nat) (s : State) := s.on (.core (c.val / 10)) (fun m => m.veStep c.val 0x30 u (fun i _ _ _ _ => stepPerm i))
def execVeGather (c : ClusterNo) (u : List Nat) (s : State) := s.on (.core (c.val / 10)) (fun m => m.veStep c.val 0x31 u (fun i _ _ _ _ => stepGather i))
def execVeRsum (c : ClusterNo) (u : List Nat) (s : State) := s.on (.core (c.val / 10)) (fun m => m.veStep c.val 0x40 u (fun i _ _ e l => stepRsum i e.runSum l))
def execVeRmax (c : ClusterNo) (u : List Nat) (s : State) :=
  s.on (.core (c.val / 10)) (fun m => m.veStep c.val 0x41 u (fun i _ _ e l => stepBest i true false e.runVals l))
def execVeRmin (c : ClusterNo) (u : List Nat) (s : State) :=
  s.on (.core (c.val / 10)) (fun m => m.veStep c.val 0x42 u (fun i _ _ e l => stepBest i false false e.runVals l))
def execVeArgmax (c : ClusterNo) (u : List Nat) (s : State) :=
  s.on (.core (c.val / 10)) (fun m => m.veStep c.val 0x43 u (fun i _ _ e l => stepBest i true true e.runVals l))
def execVeArgmin (c : ClusterNo) (u : List Nat) (s : State) :=
  s.on (.core (c.val / 10)) (fun m => m.veStep c.val 0x44 u (fun i _ _ e l => stepBest i false true e.runVals l))
def execVeSample (c : ClusterNo) (u : List Nat) (s : State) :=
  s.on (.core (c.val / 10)) (fun m => m.veStep c.val 0x50 u (fun i b _ e l => stepSample i (dC i.w).imm (nth (0, 0) b 0).1 e.runVals l))
def execVeAccept (c : ClusterNo) (u : List Nat) (s : State) := s.on (.core (c.val / 10)) (fun m => m.veStep c.val 0x51 u (fun i b _ _ _ => stepAccept i b))
def execVeBlockq (c : ClusterNo) (u : List Nat) (s : State) :=
  s.on (.core (c.val / 10)) (fun m => m.veStep c.val 0x60 u (fun i _ _ _ _ => stepBlockq i ((fmtOfCode (dD i.w).fmt).getD .i8)))
def execVeWriteLand (x : VeLanding) (s : State) := s.on (.core (x.cluster.val / 10)) (opVeWriteLand x.cluster.val x.k)
def execDescEndReport (c : ClusterNo) (s : State) := s.on (.core (c.val / 10)) (opDescEndReport c.val)
def execVeFlush (c : ClusterNo) (s : State) := s.on (.core (c.val / 10)) (opVeFlush c.val)
def execVeCtrlRun (c : ClusterNo) (run : Bool) (s : State) := s.on (.core (c.val / 10)) (opVeCtrlRun c.val run)

end Sys2Proof.Machine
end

