-- ==== Sys2Proof/Machine/Banks.lean ====
section
/-! DEFINITION. The shared-resource arbiter of chapter 9 and the cluster banks of chapter 6. -/

namespace Sys2Proof.Machine

/-! The arbiter (09 R213 to R219) -/

def arbKey : ArbId → Nat
  | .bankA b => 4 * b.val
  | .bankB b => 4 * b.val + 1
  | .far h => 4 * h.val + 2
  | .proxy => 3

/-- How many requesters an arbiter has (Table 9-6). -/
def arbSize : ArbId → Nat
  | .bankA _ => 18
  | .bankB _ => 3
  | .far _ => 3
  | .proxy => 4

def Mach.arb (m : Mach) (a : ArbId) : Arb := SMap.get Arb.init (arbKey a) m.arbs
def Mach.setArb (m : Mach) (a : ArbId) (x : Arb) : Mach := { m with arbs := SMap.put Arb.init (arbKey a) x m.arbs }

/-- The place of a far channel's registers. -/
def farIx (h : Nat) : Nat := ix (h / 4) (h % 4) 0 0

/-- A requester's rank (06 Table 6-1, 09 Table 9-5, 15 Table 15-4). -/
def Mach.rank (m : Mach) : ArbId → Nat → Nat
  | .bankA b, i => m.rd (if i < 16 then F.bankRankTile else if i = 16 then F.bankRankVe else F.bankRankMarch) (clIx (b.val / 16))
  | .bankB b, i => m.rd (if i = 0 then F.bankRankBRead else if i = 1 then F.bankRankBWrite else F.bankRankBAtomic) (clIx (b.val / 16))
  | .far h, i => m.rd (if i = 0 then F.farArbRankRead else if i = 1 then F.farArbRankWrite else F.farArbRankDiag) (farIx h.val)
  | .proxy, i => m.rd (if i = 0 then F.hlArbRankRing else if i = 1 then F.hlArbRankAlmanac else if i = 2 then F.hlArbRankXfer else F.hlArbRankHealth) 6

/-- A cycle in which a requester waited without a grant (06 R136; 09 R218). A march run counts it too (18 R425). -/
def Mach.waited (m : Mach) (a : ArbId) (i : Nat) : Mach :=
  match a with
  | .bankA b =>
    let c := b.val / 16
    let m1 := m.cnt F.bankLost (clSub c i) 1
    let r := SMap.get March.idle c m.test.march
    if i = 17 ∧ r.banks ≠ [] then
      { m1 with test := { m1.test with march := SMap.put March.idle c { r with cycles := r.cycles + 1 } m1.test.march } }
    else m1
  | .bankB _ => m
  | .far h => m.cnt F.farArbWait (ix (h.val / 4) (h.val % 4) i 0) 1
  | .proxy => m

/-- Who asks a bank under a network identity. -/
def bankWhoOf (id : Nat) : BankWho := if id = idTest then .test else .remote id

/-- Whether an atomic is aligned within one word (06 R134). -/
def opAligned : BankOp → Bool
  | .add wide off _ => off % (if wide then 8 else 4) == 0 && decide (off < 64)
  | .swap wide off _ => off % (if wide then 8 else 4) == 0 && decide (off < 64)
  | _ => true

/-- Whether a request is one its requester can make (06 R126, Table 6-1; 09 Table 9-6): within the bank's 20,480 words; tiles read one word
or an aligned pair; atomics come from port B's queue for them. -/
def reqFits (a : ArbId) (r : ArbReq) : Bool :=
  match a, r.body with
  | .bankA _, .bank word n op => decide (word + max n 1 ≤ 20480) && (match op with
      | .read => decide (r.idx < 18) && (decide (16 ≤ r.idx) || decide (n ≤ 1) || (n == 2 && word % 2 == 0))
      | .write _ _ => r.idx == 16 || r.idx == 17
      | _ => false)
  | .bankB _, .bank word n op => decide (word + max n 1 ≤ 20480) && (match op with
      | .read => r.idx == 0
      | .write _ _ => r.idx == 1
      | _ => r.idx == 2)
  | .far _, .far _ _ d => decide (r.idx < 3) && (r.idx == 2 || (if d.isSome then r.idx == 1 else r.idx == 0))
  | .proxy, _ => decide (r.idx < 4)
  | _, _ => false

/-- How an instance answers a request in its arbitration cycle: a bank by owner group (06 R130, R131) and alignment (R134), a
far channel by its registers and its training (09 R204, R206, R211), with the status of Table 10-7. -/
inductive ArbSay | go | refuse (status : Nat) | wait
  deriving DecidableEq, Repr

def Mach.arbSay (m : Mach) (a : ArbId) (r : ArbReq) : ArbSay :=
  let bank (b : Nat) (w : BankWho) : ArbSay :=
    match r.body with
    | .bank _ _ op =>
      if !opAligned op then .refuse rsMalformed
      else (match bankAdm m b w with
        | .ok => .go
        | .refused => .refuse rsRefused
        | .held => .wait)
    | _ => .wait
  match a with
  | .bankA b => bank b.val (.local r.idx)
  | .bankB b => bank b.val (bankWhoOf r.id)
  | .far h =>
    let p := farIx h.val
    if m.on F.farStatusFailed p then .refuse rsUnavailable
    else if !m.on F.farCtrlAccept p && r.id != idHealth && r.id != idTest then .refuse rsUnavailable
    else if m.on F.farStatusTraining p then .wait else .go
  | .proxy => if m.hl.waiting.any (fun q => q.idx == r.idx) then .go else .wait

/-- The cycles a requester does not request for after its n-th consecutive loss (09 R215). -/
def backoffCycles (n : Nat) : Nat := min (4 * 2 ^ (n - 1)) 4096

/-- A consecutive loss: the requester backs off (09 R215). -/
def Arb.lose (x : Arb) (i : Nat) : Arb :=
  { x with losses := SMap.put 0 i (SMap.get 0 i x.losses + 1) x.losses, backoff := setBit i x.backoff }

/-- The winner: the highest rank, and among equals the lowest index above the last granted at that rank (09 R214). -/
def Mach.winner (m : Mach) (a : ArbId) (rs : List ArbReq) : Option ArbReq :=
  let top := rs.foldl (fun t r => max t (m.rank a r.idx)) 0
  let eq := rs.filter (fun r => m.rank a r.idx == top)
  let from_ := SMap.get 0 top (m.arb a).lastAt
  let dist (r : ArbReq) : Nat := if from_ ≤ r.idx then r.idx - from_ else r.idx + 64 - from_
  eq.foldl (fun b r => match b with
    | none => some r
    | some x => if dist r < dist x then some r else some x) none

/-- The port of a bank's outstanding accesses. -/
def outKey (b : Nat) (portB : Bool) : Nat := 2 * b + b2n portB

def Mach.bankQ (m : Mach) (b : Nat) (portB : Bool) : List BankAcc := SMap.get [] (outKey b portB) m.bankOut
def Mach.setBankQ (m : Mach) (b : Nat) (portB : Bool) (l : List BankAcc) : Mach :=
  { m with bankOut := SMap.put [] (outKey b portB) l m.bankOut }

/-- Whether a bank transfer holds its port beyond the cycle of its grant: more than one word or aligned pair, or an atomic. -/
def holdsPort (word n : Nat) : BankOp → Bool
  | .add _ _ _ => true
  | .swap _ _ _ => true
  | _ => !(decide (n ≤ 1) || (n == 2 && word % 2 == 0))

def FarSt.get (f : FarSt) (h : Nat) : FarCh := SMap.get FarCh.init h f.ch
def Mach.farCh (m : Mach) (h : Nat) : FarCh := m.far.get h
def Mach.setFar (m : Mach) (h : Nat) (x : FarCh) : Mach := { m with far := { m.far with ch := SMap.put FarCh.init h x m.far.ch } }

/-- A grant: the winner's transfer begins (09 R214). -/
def Mach.grant (m : Mach) (a : ArbId) (r : ArbReq) : Mach :=
  let x := m.arb a
  let won : Arb := { x with losses := SMap.put 0 r.idx 0 x.losses, lastAt := SMap.put 0 (m.rank a r.idx) (r.idx + 1) x.lastAt }
  let held : Arb := { won with holder := some ⟨r.idx, r.id⟩ }
  let bank (b : Nat) (portB : Bool) : Mach := match r.body with
    | .bank word n op =>
      (m.setArb a (if holdsPort word n op then held else won)).setBankQ b portB
        (m.bankQ b portB ++ [⟨r.idx, r.id, word, max n 1, op, false⟩])
    | _ => m
  match a with
  | .bankA b => bank b.val false
  | .bankB b => bank b.val true
  | .far h => (match r.body with
    | .far p len data => (m.setArb a held).setFar h.val { m.farCh h.val with xfer := some ⟨r.id, p, len, data⟩ }
    | _ => m)
  | .proxy => m.setArb a held

def Mach.refuse (m : Mach) (a : ArbId) (status : Nat) (r : ArbReq) : Mach :=
  let m1 := m.respond r.id status
  if status = rsRefused then (match a with
    | .bankA b => m1.bankRefuse b.val (.local r.idx)
    | .bankB b => m1.bankRefuse b.val (bankWhoOf r.id)
    | _ => m1) else m1

/-- A request that is not in the arbitration: refused, or it waits (06 R130, R131; 09 R204, R206, R211). -/
def Mach.turnAway (m : Mach) (a : ArbId) (r : ArbReq) : Mach :=
  match m.arbSay a r with
  | .refuse k => m.refuse a k r
  | .wait => m.waited a r.idx
  | .go => m

/-- One cycle of an arbiter with the requests of that cycle (09 R214, R215, R218; 06 R130, R131, R136). -/
def opArbiterGrant (a : ArbId) (reqs : List ArbReq) (m : Mach) : Mach :=
  let x := m.arb a
  let live := reqs.filter (fun r => reqFits a r && !bitOf r.idx x.masked)
  if x.holder.isSome || x.emergency then live.foldl (fun m r => m.waited a r.idx) m
  else
    let off := live.filter (fun r => bitOf r.idx x.backoff)
    let asking := live.filter (fun r => !bitOf r.idx x.backoff)
    let m1 := off.foldl (fun m r => m.waited a r.idx) m
    let m2 := asking.foldl (fun m r => m.turnAway a r) m1
    let good := asking.filter (fun r => m.arbSay a r == .go)
    match m2.winner a good with
    | none => m2
    | some w =>
      let losers := good.filter (fun r => r.idx != w.idx)
      let m3 := losers.foldl (fun m r => (m.setArb a ((m.arb a).lose r.idx)).waited a r.idx) m2
      m3.grant a w

def opBackoffExpiry (a : ArbId) (i : Nat) (m : Mach) : Mach :=
  let x := m.arb a
  m.setArb a { x with backoff := clearBit i x.backoff }

/-- What is dropped with a transfer that ends at a beat boundary. -/
def Mach.dropXfer (m : Mach) (a : ArbId) (h : Holder) : Mach :=
  match a with
  | .bankA b => m.setBankQ b.val false ((m.bankQ b.val false).filter (fun q => q.idx != h.idx))
  | .bankB b => m.setBankQ b.val true ((m.bankQ b.val true).filter (fun q => q.idx != h.idx))
  | .far c => m.setFar c.val { m.farCh c.val with xfer := none }
  | .proxy => m

/-- A cut-off (09 R216): the rest of the holder's transfer stays with it, and it is recorded. A far channel does not count cycles of
training, recovery or a pause. -/
def Mach.cutOff (m : Mach) (a : ArbId) : Mach :=
  let x := m.arb a
  match x.holder with
  | none => m
  | some h =>
    let m1 := (m.setArb a (({ x with holder := none } : Arb).lose h.idx)).dropXfer a h
    match a with
    | .bankA b =>
      let p := clIx (b.val / 16)
      (((m1.wr F.bankCutoffId p h.idx).wr F.bankCutoffBank p (b.val % 16)).wr F.bankCutoffValid p 1).wr F.bankCutoffPort p 0
    | .bankB b =>
      let p := clIx (b.val / 16)
      (((m1.wr F.bankCutoffId p h.id).wr F.bankCutoffBank p (b.val % 16)).wr F.bankCutoffValid p 1).wr F.bankCutoffPort p 1
    | .far c =>
      let ch := m.farCh c.val
      if ch.step ≠ 0 ∨ ch.mode ≠ .normal ∨ ch.pause then m
      else (m1.wr F.farCutoffId (farIx c.val) h.id).wr F.farCutoffValid (farIx c.val) 1
    | .proxy => (m1.wr F.hlCutoffId 6 h.id).wr F.hlCutoffValid 6 1

/-- The test port takes a bank from a march run in progress on it (18 R427). -/
def Mach.marchTouched (m : Mach) (b : Nat) : Mach :=
  let c := b / 16
  let r := SMap.get March.idle c m.test.march
  if r.banks.head? = some (b % 16) then
    { m with test := { m.test with march := SMap.put March.idle c { r with invalid := true } m.test.march } }
  else m

/-- EMERGENCY_HOLD (09 R218): the holder is suspended, and resumes when the emergency requester is done. -/
def opEmergencyHold (a : ArbId) (take : Bool) (m : Mach) : Mach :=
  let x := m.arb a
  if take then
    if x.emergency then m
    else
      let m1 := m.setArb a { x with emergency := true, suspended := x.holder, holder := none }
      match a with
      | .bankA b => m1.marchTouched b.val
      | .bankB b => m1.marchTouched b.val
      | _ => m1
  else if x.emergency then m.setArb a { x with emergency := false, holder := x.suspended, suspended := none } else m

/-- Masking (09 R217): a masked requester's transfer ends and its loss count and back-off clear. -/
def Mach.mask (m : Mach) (a : ArbId) (i : Nat) (on : Bool) : Mach :=
  let x := m.arb a
  if on then
    let x1 : Arb := { x with masked := setBit i x.masked, backoff := clearBit i x.backoff, losses := SMap.put 0 i 0 x.losses }
    match x.holder, x.suspended with
    | some h, _ => if h.idx = i then (m.setArb a { x1 with holder := none }).dropXfer a h else m.setArb a x1
    | none, some h => if h.idx = i then (m.setArb a { x1 with suspended := none }).dropXfer a h else m.setArb a x1
    | none, none => m.setArb a x1
  else m.setArb a { x with masked := clearBit i x.masked }

/-! Bank accesses (06 R126, R127, R133, R134) -/

/-- The transfer's holder lets the port go. -/
def Mach.release (m : Mach) (a : ArbId) (i : Nat) : Mach :=
  let x := m.arb a
  match x.holder with
  | some h => if h.idx = i then m.setArb a { x with holder := none } else m
  | none => m

/-- A sum of two's-complement values of w bits, saturated at the range of its width (06 R134, 02 R34), and whether it saturated. -/
def satSum (w a b : Nat) : Nat × Bool :=
  let s := toSigned w a + toSigned w b
  let hi : Int := (2 ^ (w - 1) : Nat) - 1
  let lo : Int := -((2 ^ (w - 1) : Nat) : Int)
  (ofSigned w (clampInt lo hi s), decide (s < lo) || decide (hi < s))

/-- The words a beat moves: one, or an aligned pair where it is asked for and left. -/
def beatWords (q : BankAcc) (pair : Bool) : Nat := if pair && q.word % 2 == 0 && decide (2 ≤ q.n) then 2 else 1

/-- What the front access of a port does in this array cycle: the words it reaches, whether it writes. -/
structure Beat where
  acc : BankAcc
  k : Nat
  deriving DecidableEq, Repr

def Mach.beat (m : Mach) (b : Nat) (portB pair : Bool) : Option Beat :=
  (m.bankQ b portB).head?.map (fun q => ⟨q, beatWords q pair⟩)

def isRead : BankOp → Bool
  | .read => true
  | _ => false
def isWrite : BankOp → Bool
  | .write _ _ => true
  | _ => false
def isAtomic : BankOp → Bool
  | .add _ _ _ => true
  | .swap _ _ _ => true
  | _ => false

/-- Reading k words from a word of a bank, one response to the reader; bit 4 of its marks is the error mark. -/
def Mach.readBeat (m : Mach) (b : Nat) (id word : Nat) : Nat → List Byte → Bool → Mach
  | 0, data, bad => m.send (.resp id rsOk data (if bad then 16 else 0))
  | k + 1, data, bad =>
    let r := m.readWord b (bankBase b + 64 * word)
    r.2.2.readBeat b id (word + 1) k (data ++ r.1) (bad || r.2.1)

/-- Writing k words. -/
def Mach.writeBeat (m : Mach) (b word : Nat) (data : List Byte) (en : List Bool) : Nat → Mach
  | 0 => m
  | k + 1 => (m.writeWord b (bankBase b + 64 * word) (data.take 64) (en.take 64)).writeBeat b (word + 1) (data.drop 64) (en.drop 64) k

/-- An atomic: the old value goes to its master, with SAT where an addition saturated. -/
def Mach.atomic (m : Mach) (b : Nat) (q : BankAcc) : Mach :=
  let a := bankBase b + 64 * q.word
  let r := m.readWord b a
  let run (wide : Bool) (off v : Nat) (add : Bool) : Mach :=
    let n := if wide then 8 else 4
    let old := leNat ((r.1.drop off).take n)
    let s := if add then satSum (8 * n) old v else (v % 2 ^ (8 * n), false)
    let data := (List.replicate off (0 : Byte)) ++ leBytes n s.1 ++ List.replicate (64 - off - n) (0 : Byte)
    let en := (List.replicate off false) ++ List.replicate n true ++ List.replicate (64 - off - n) false
    (r.2.2.writeWord b a data en).send (.resp q.id rsOk (leBytes n old) ((if s.2 then 8 else 0) + (if r.2.1 then 16 else 0)))
  match q.op with
  | .add wide off v => run wide off v true
  | .swap wide off v => run wide off v false
  | _ => r.2.2

/-- The front access of a port after its beat: done, or with what is left. -/
def Mach.beatDone (m : Mach) (b : Nat) (portB : Bool) (x : Beat) : Mach :=
  let a : ArbId := if portB then .bankB (Fin.ofNat 960 b) else .bankA (Fin.ofNat 960 b)
  let l := (m.bankQ b portB).drop 1
  if x.acc.n ≤ x.k then (m.setBankQ b portB l).release a x.acc.idx
  else
    let op := match x.acc.op with
      | .write d e => .write (d.drop (64 * x.k)) (e.drop (64 * x.k))
      | o => o
    m.setBankQ b portB ({ x.acc with word := x.acc.word + x.k, n := x.acc.n - x.k, op := op } :: l)

/-- How many words two beats share. -/
def sharedWords (x y : Beat) : Nat :=
  ((upFrom x.acc.word x.k).filter (fun w => decide (y.acc.word ≤ w) && decide (w < y.acc.word + y.k))).length

def Mach.doRead (m : Mach) (b : Nat) (x : Beat) : Mach :=
  if isRead x.acc.op then m.readBeat b x.acc.id x.acc.word x.k [] false else m

def Mach.doWrite (m : Mach) (b : Nat) (x : Beat) : Mach :=
  match x.acc.op with
  | .write d e => m.writeBeat b x.acc.word d e x.k
  | _ => m

/-- One array cycle of a bank: reads first, then port B's write, then port A's, so that a read returns the word before the other port's
write and port A's bytes win (06 Table 6-3). -/
def Mach.bankCycle (m : Mach) (b : Nat) (xa xb : Option Beat) : Mach :=
  let rd (m : Mach) (x : Option Beat) : Mach := match x with
    | some x => m.doRead b x
    | none => m
  let m1 := rd (rd m xa) xb
  let m2 := match xb with
    | some x => m1.doWrite b x
    | none => m1
  let m3 := match xa with
    | some x => m2.doWrite b x
    | none => m2
  let m4 := match xa, xb with
    | some x, some y =>
      if isWrite x.acc.op && !isRead y.acc.op then m3.cnt F.bankCollide (bankIx b) (sharedWords x y) else m3
    | _, _ => m3
  let fin (m : Mach) (portB : Bool) (x : Option Beat) : Mach := match x with
    | some x => m.beatDone b portB x
    | none => m
  fin (fin m4 false xa) true xb

/-- A port's front access is the suspended holder's: its beats do not move during the emergency hold (09 R218). -/
def Mach.suspendedFront (m : Mach) (b : Nat) (portB : Bool) : Bool :=
  let x := m.arb (if portB then .bankB (Fin.ofNat 960 b) else .bankA (Fin.ofNat 960 b))
  match (m.bankQ b portB).head?, x.suspended with
  | some q, some h => x.emergency && q.idx == h.idx
  | _, _ => false

/-- What a port's front access does in a cycle, unless it is suspended. -/
def Mach.beatNow (m : Mach) (b : Nat) (portB pair : Bool) : Option Beat :=
  if m.suspendedFront b portB then none else m.beat b portB pair

/-- The array cycle of a port's front access, when it is of the kind the command names; with same, the other port's front access
reaches the array in the same cycle, unless it is an atomic, which has cycles of its own. -/
def Mach.bankOp (m : Mach) (b : Nat) (portB pair same : Bool) (upset : List Nat) (kind : BankOp → Bool) : Mach :=
  match m.beatNow b portB pair with
  | none => m
  | some x =>
    if kind x.acc.op then
      let m0 := m.upsetLanes (b / 16) upset
      let other := if same then (m.beatNow b (!portB) pair).filter (fun y => !isAtomic y.acc.op) else none
      if portB then m0.bankCycle b other (some x) else m0.bankCycle b (some x) other
    else m

def opBankRead (b : Nat) (portB pair same : Bool) (u : List Nat) (m : Mach) : Mach := m.bankOp b portB pair same u isRead
def opBankWrite (b : Nat) (portB pair same : Bool) (u : List Nat) (m : Mach) : Mach := m.bankOp b portB pair same u isWrite

/-- A port A write of an atomic's cycles, after the atomic's write: its bytes win, and one on the same word is counted (06 R134). -/
def Mach.lateWrite (m : Mach) (b : Nat) (y : Beat) (x : Option Beat) : Mach :=
  match x with
  | some x => if isWrite x.acc.op then (m.doWrite b x).cnt F.bankCollide (bankIx b) (sharedWords x y) else m
  | none => m

/-- A port A access in one of an atomic's cycles: what it reads is from before the atomic, and it leaves its port. -/
def Mach.earlyBeat (m : Mach) (b : Nat) (x : Option Beat) : Mach :=
  match x with
  | some x => (m.doRead b x).beatDone b false x
  | none => m

/-- The two array cycles of an atomic at the front of port B (06 R134); inR and inW: port A's next access reaches the array in its read
cycle, and in its write cycle. -/
def Mach.atomicOp (m : Mach) (b : Nat) (inR inW : Bool) (upset : List Nat) (kind : BankOp → Bool) : Mach :=
  match m.beatNow b true false with
  | none => m
  | some y =>
    if kind y.acc.op then
      let m0 := m.upsetLanes (b / 16) upset
      let x1 := if inR then m0.beatNow b false false else none
      let m1 := m0.earlyBeat b x1
      let x2 := if inW then m1.beatNow b false false else none
      let m2 := (m1.earlyBeat b x2).atomic b y.acc
      ((m2.lateWrite b y x1).lateWrite b y x2).beatDone b true y
    else m

def opAtomicAdd (b : Nat) (inR inW : Bool) (u : List Nat) (m : Mach) : Mach :=
  m.atomicOp b inR inW u (fun o => match o with
    | .add _ _ _ => true
    | _ => false)
def opAtomicSwap (b : Nat) (inR inW : Bool) (u : List Nat) (m : Mach) : Mach :=
  m.atomicOp b inR inW u (fun o => match o with
    | .swap _ _ _ => true
    | _ => false)

/-! Handover (06 R131) -/

/-- Raising a processor's doorbell bits at the place of its common registers (16 R390). -/
def Mach.doorbell (m : Mach) (die bit : Nat) : Mach := m.orIn F.mbDoorbell die (2 ^ bit)

/-- HANDOVER_DONE sets, and the steward's doorbell bit 8 + c with it (06 R131, 16 R390). -/
def Mach.handedOver (m : Mach) (b : Nat) : Mach :=
  (m.wr F.bankOwnerHandoverDone (bankIx b) 1).doorbell (b / 160) (8 + b / 16 % 10)

/-- Every access of a bank that is outstanding counts as granted under the old group. -/
def Mach.markOld (m : Mach) (b : Nat) : Mach :=
  let old (l : List BankAcc) : List BankAcc := l.map (fun q => { q with oldGroup := true })
  (m.setBankQ b false (old (m.bankQ b false))).setBankQ b true (old (m.bankQ b true))

/-- BANK_OWNER_WRITE: 0 to 7 or 0xF; other values are reserved and kept out (06 R131; 00 R5). -/
def opBankOwnerWrite (b g : Nat) (m : Mach) : Mach :=
  let p := bankIx b
  if !F.bankOwnerGroup.isLegal g then m
  else
    let m1 := m.wr F.bankOwnerGroup p g
    if m.on F.bankOwnerPending p then m1
    else if g = m.rd F.bankOwnerCurrent p then m1.handedOver b
    else (m1.wr F.bankOwnerPending p 1).markOld b

/-- HANDOVER_DONE: once no access granted under the old group is outstanding (06 R131 step 3). -/
def opHandoverDone (b : Nat) (m : Mach) : Mach :=
  let p := bankIx b
  if m.on F.bankOwnerPending p && !(m.bankQ b false ++ m.bankQ b true).any (fun q => q.oldGroup) then
    ((m.wr F.bankOwnerCurrent p (m.rd F.bankOwnerGroup p)).wr F.bankOwnerPending p 0).handedOver b
  else m

/-- The domain an arbiter runs in. -/
def arbDom : ArbId → Dom
  | .bankA b => .sram (b.val / 160)
  | .bankB b => .sram (b.val / 160)
  | .far h => .far (h.val / 4)
  | .proxy => .keeper

/-! The meanings -/

def execArbiterGrant (a : ArbId) (rs : List ArbReq) (s : State) := s.on (arbDom a) (opArbiterGrant a rs)
def execBackoffExpiry (a : ArbId) (i : Nat) (s : State) := s.on (arbDom a) (opBackoffExpiry a i)
def execEmergencyHold (a : ArbId) (take : Bool) (s : State) := s.on (arbDom a) (opEmergencyHold a take)
def execBankRead (b : BankNo) (pb pair same : Bool) (u : List Nat) (s : State) := s.on (.sram (b.val / 160)) (opBankRead b.val pb pair same u)
def execBankWrite (b : BankNo) (pb pair same : Bool) (u : List Nat) (s : State) := s.on (.sram (b.val / 160)) (opBankWrite b.val pb pair same u)
def execAtomicAdd (b : BankNo) (r : PortABeside) (u : List Nat) (s : State) := s.on (.sram (b.val / 160)) (opAtomicAdd b.val r.inRead r.inWrite u)
def execAtomicSwap (b : BankNo) (r : PortABeside) (u : List Nat) (s : State) := s.on (.sram (b.val / 160)) (opAtomicSwap b.val r.inRead r.inWrite u)
def execBankOwnerWrite (b : BankNo) (g : Nat) (s : State) := s.on (.sram (b.val / 160)) (opBankOwnerWrite b.val g)
def execHandoverDone (b : BankNo) (s : State) := s.on (.sram (b.val / 160)) (opHandoverDone b.val)

end Sys2Proof.Machine
end

