-- ==== Sys2Proof/Machine/Hash.lean ====
section
/-! DEFINITION. The published functions the spec names: SHA-512 (07 R147, 16 R377) and the CRCs of 13 R306 and 06 R143. SHA-512 is
taken from its published definition (FIPS 180-4), log 14. -/

namespace Sys2Proof.Machine

def w64 (n : Nat) : Nat := n % 2 ^ 64

def rotr64 (k x : Nat) : Nat := (x / 2 ^ k) ||| (x * 2 ^ (64 - k) % 2 ^ 64)

/-- The round constants: the first 64 bits of the fractional parts of the cube roots of the first 80 primes. -/
def sha512K : List Nat :=
  [0x428A2F98D728AE22, 0x7137449123EF65CD, 0xB5C0FBCFEC4D3B2F, 0xE9B5DBA58189DBBC, 0x3956C25BF348B538,
   0x59F111F1B605D019, 0x923F82A4AF194F9B, 0xAB1C5ED5DA6D8118, 0xD807AA98A3030242, 0x12835B0145706FBE,
   0x243185BE4EE4B28C, 0x550C7DC3D5FFB4E2, 0x72BE5D74F27B896F, 0x80DEB1FE3B1696B1, 0x9BDC06A725C71235,
   0xC19BF174CF692694, 0xE49B69C19EF14AD2, 0xEFBE4786384F25E3, 0x0FC19DC68B8CD5B5, 0x240CA1CC77AC9C65] ++
  [0x2DE92C6F592B0275, 0x4A7484AA6EA6E483, 0x5CB0A9DCBD41FBD4, 0x76F988DA831153B5, 0x983E5152EE66DFAB,
   0xA831C66D2DB43210, 0xB00327C898FB213F, 0xBF597FC7BEEF0EE4, 0xC6E00BF33DA88FC2, 0xD5A79147930AA725,
   0x06CA6351E003826F, 0x142929670A0E6E70, 0x27B70A8546D22FFC, 0x2E1B21385C26C926, 0x4D2C6DFC5AC42AED,
   0x53380D139D95B3DF, 0x650A73548BAF63DE, 0x766A0ABB3C77B2A8, 0x81C2C92E47EDAEE6, 0x92722C851482353B] ++
  [0xA2BFE8A14CF10364, 0xA81A664BBC423001, 0xC24B8B70D0F89791, 0xC76C51A30654BE30, 0xD192E819D6EF5218,
   0xD69906245565A910, 0xF40E35855771202A, 0x106AA07032BBD1B8, 0x19A4C116B8D2D0C8, 0x1E376C085141AB53,
   0x2748774CDF8EEB99, 0x34B0BCB5E19B48A8, 0x391C0CB3C5C95A63, 0x4ED8AA4AE3418ACB, 0x5B9CCA4F7763E373,
   0x682E6FF3D6B2B8A3, 0x748F82EE5DEFB2FC, 0x78A5636F43172F60, 0x84C87814A1F0AB72, 0x8CC702081A6439EC] ++
  [0x90BEFFFA23631E28, 0xA4506CEBDE82BDE9, 0xBEF9A3F7B2C67915, 0xC67178F2E372532B, 0xCA273ECEEA26619C,
   0xD186B8C721C0C207, 0xEADA7DD6CDE0EB1E, 0xF57D4F7FEE6ED178, 0x06F067AA72176FBA, 0x0A637DC5A2C898A6,
   0x113F9804BEF90DAE, 0x1B710B35131C471B, 0x28DB77F523047D84, 0x32CAAB7B40C72493, 0x3C9EBE0A15C9BEBC,
   0x431D67C49C100D4C, 0x4CC5D4BECB3E42B6, 0x597F299CFC657E2A, 0x5FCB6FAB3AD6FAEC, 0x6C44198C4A475817]

/-- The initial hash value. -/
def sha512H : List Nat :=
  [0x6A09E667F3BCC908, 0xBB67AE8584CAA73B, 0x3C6EF372FE94F82B, 0xA54FF53A5F1D36F1, 0x510E527FADE682D1,
   0x9B05688C2B3E6C1F, 0x1F83D9ABFB41BD6B, 0x5BE0CD19137E2179]

/-- A big-endian number of bytes. -/
def beNat (l : List Byte) : Nat := l.foldl (fun s b => 256 * s + b.toNat) 0

def beBytes (n v : Nat) : List Byte := (leBytes n v).reverse

/-- The message schedule, newest word first. -/
def sha512Sched : Nat → List Nat → List Nat
  | 0, ws => ws
  | n + 1, ws =>
    let a := nth 0 ws 14
    let b := nth 0 ws 1
    let s0 := rotr64 1 a ^^^ rotr64 8 a ^^^ (a / 2 ^ 7)
    let s1 := rotr64 19 b ^^^ rotr64 61 b ^^^ (b / 2 ^ 6)
    sha512Sched n (w64 (s1 + nth 0 ws 6 + s0 + nth 0 ws 15) :: ws)

/-- One round on the eight working variables. -/
def sha512Round (v : List Nat) (kw : Nat) : List Nat :=
  match v with
  | [a, b, c, d, e, f, g, h] =>
    let t1 := h + (rotr64 14 e ^^^ rotr64 18 e ^^^ rotr64 41 e) + ((e &&& f) ^^^ ((2 ^ 64 - 1 - e) &&& g)) + kw
    let t2 := (rotr64 28 a ^^^ rotr64 34 a ^^^ rotr64 39 a) + ((a &&& b) ^^^ (a &&& c) ^^^ (b &&& c))
    [w64 (t1 + t2), a, b, c, w64 (d + t1), e, f, g]
  | _ => v

def sha512Block (h : List Nat) (block : List Byte) : List Nat :=
  let w0 := (upFrom 0 16).map (fun i => beNat ((block.drop (8 * i)).take 8))
  let ws := (sha512Sched 64 w0.reverse).reverse
  let v := (sha512K.zip ws).foldl (fun v x => sha512Round v (x.1 + x.2)) h
  (h.zip v).map (fun x => w64 (x.1 + x.2))

def sha512Blocks : Nat → List Nat → List Byte → List Nat
  | 0, h, _ => h
  | n + 1, h, l => sha512Blocks n (sha512Block h (l.take 128)) (l.drop 128)

/-- The 64 bytes of the digest. -/
def sha512 (msg : List Byte) : List Byte :=
  let n := msg.length
  let pad := (239 - n % 128) % 128
  let full := msg ++ (0x80 : Byte) :: List.replicate pad (0 : Byte) ++ beBytes 16 (8 * n)
  (sha512Blocks (full.length / 128) sha512H full).flatMap (beBytes 8)

/-- One bit of a bit-reflected CRC. -/
def crcBit (poly : Nat) : Nat → Nat → Nat
  | 0, c => c
  | k + 1, c => crcBit poly k (if c % 2 = 1 then (c / 2) ^^^ poly else c / 2)

/-- The CRC-32 of 13 R306: polynomial 0x04C1_1DB7, bit-reflected, preset to ones and inverted at the end. -/
def crc32 (l : List Byte) : Nat :=
  0xFFFFFFFF ^^^ l.foldl (fun c b => crcBit 0xEDB88320 8 (c ^^^ b.toNat)) 0xFFFFFFFF

/-- The CRC of a near burst (06 R143): polynomial x^16 + x^12 + x^5 + 1, preset to ones, over the 512 data bits and the 29-bit burst
number, bit 0 of each first, so held bit-reflected. -/
def crc16 (l : List Byte) (burst : Nat) : Nat :=
  (upFrom 0 29).foldl (fun c i => crcBit 0x8408 1 (c ^^^ (burst / 2 ^ i % 2))) (l.foldl (fun c b => crcBit 0x8408 8 (c ^^^ b.toNat)) 0xFFFF)

/-- CRC-32C (09 R209): the Castagnoli polynomial, bit-reflected, preset to ones and inverted at the end. -/
def crc32c (l : List Byte) : Nat :=
  0xFFFFFFFF ^^^ l.foldl (fun c b => crcBit 0x82F63B78 8 (c ^^^ b.toNat)) 0xFFFFFFFF

end Sys2Proof.Machine
end

