-- ==== Sys2Proof/Machine/Near.lean ====
section
/-! DEFINITION. The near tier of chapter 6. -/

namespace Sys2Proof.Machine

/-- Who is exempt from ACCEPT and from the retired pages: HEALTH and the test port (06 R145, R146). -/
def exempt (who : Nat) : Bool := who == idHealth || who == idTest

/-- Channel, channel offset, column, DRAM bank, row and page of an offset in a near tier (06 Table 6-5). -/
def nearChannel (o : Nat) : Nat := (o / 256 % 256) ^^^ (o / 65536 % 256)
def nearChOffset (o : Nat) : Nat := o / 65536 * 256 + o % 256
def nearColumn (o : Nat) : Nat := bitsOf 10 0 (nearChOffset o)
def nearBank (o : Nat) : Nat := bitsOf 14 11 (nearChOffset o)
def nearRow (o : Nat) : Nat := bitsOf 28 15 (nearChOffset o)
def nearPage (o : Nat) : Nat := o / 0x200000

/-- Whether a page stands in the table of retired pages (06 R145). -/
def Mach.isRetired (m : Mach) (d page : Nat) : Bool :=
  (upFrom 0 256).any (fun i => m.on F.nearRetireValid (ix d i 0 0) && m.rd F.nearRetirePage (ix d i 0 0) == page)

/-- Entering a page (06 R145); a page already present is not entered again. -/
def Mach.retirePage (m : Mach) (d page : Nat) : Mach :=
  if m.isRetired d page then m
  else match (upFrom 0 256).find? (fun i => !m.on F.nearRetireValid (ix d i 0 0)) with
    | none => m.ev F.nearEventsRetireFull d
    | some i =>
      let m1 : Mach := { m with near := { m.near with kept := SMap.put [] d (SMap.get [] d m.near.kept ++ [page]) m.near.kept } }
      ((m1.wr F.nearRetirePage (ix d i 0 0) page).wr F.nearRetireValid (ix d i 0 0) 1).wr F.nearRetireCountCount d
        (m.rd F.nearRetireCountCount d + 1)

/-- HEALTH reloads the table from the keeper's flash (06 R145; 17 Table 17-8 step 5). -/
def Mach.loadRetired (m : Mach) (d : Nat) : Mach :=
  let l := (SMap.get [] d m.near.kept).take 256
  ((l.zip (upFrom 0 l.length)).foldl (fun m x => (m.wr F.nearRetirePage (ix d x.2 0 0) x.1).wr F.nearRetireValid (ix d x.2 0 0) 1) m).wr
    F.nearRetireCountCount d l.length

/-- The CRC of a burst as it is stored, and as the layer holds it beside the burst (06 R143). -/
def Mach.nearCrc (m : Mach) (a : Nat) : Nat := crc16 (m.bytes (a / 64 * 64) 64) (nearChOffset ((a - nearBase 0) % nearSize) / 64)
def Mach.nearStored (m : Mach) (a : Nat) : Nat := m.nearCrc a ^^^ SMap.get 0 (a / 64) m.near.bad

/-- Whether the stored CRC of a burst fails: nearStored and nearCrc differ. -/
def Mach.nearIsBad (m : Mach) (a : Nat) : Bool := SMap.get 0 (a / 64) m.near.bad != 0

/-- A burst's stored CRC becomes the correct one, or its complement (06 R143). -/
def Mach.setNearBad (m : Mach) (a : Nat) (bad : Bool) : Mach :=
  { m with near := { m.near with bad := SMap.put 0 (a / 64) (if bad then 0xFFFF else 0) m.near.bad } }

/-- Where the table area of a near tier begins: its last 64 MiB (07 R152). -/
def tableOff : Nat := nearSize - 0x4000000

/-- Who may reach a table area: ALMANAC, HEALTH, the translators and the test port (07 R152). -/
def tableWho (who : Nat) : Bool := exempt who || who == idAlmanac || (decide (0x8000 ≤ who) && decide (who < 0x8006))

/-- Whether the controller of engine d takes an access: 0 yes, 1 refused, 2 refused for a retired page, 3 not accepting (06 R145,
R146; 07 R152; 10 Table 10-7). -/
def Mach.nearSay (m : Mach) (d o who : Nat) : Nat :=
  let table := decide (tableOff ≤ o) || m.alm.tabs.any (fun x => x.2 == (nearBase d + o) / 0x200000 + 1)
  if exempt who then 0 else if !m.on F.nearCtrlAccept d then 3 else if table && !tableWho who then 1 else if m.isRetired d (nearPage o) then 2 else 0

def Mach.nearRefuse (m : Mach) (d say who : Nat) : Mach :=
  (if say = 2 then m.ev F.nearEventsRetiredAccess d else m).respond who (if say = 3 then rsUnavailable else rsRefused)

/-- A burst that failed twice (06 R144): counted, recorded, its page retired, ALMANAC told. -/
def Mach.nearFailed (m : Mach) (d o who : Nat) : Mach :=
  let m1 := (m.ev F.nearEventsCrcFail2 d).cnt F.nearFails d 1
  let m2 := ((m1.wr F.nearFailAddrLoOffset d (o % 2 ^ 32)).wr F.nearFailAddrHiOffset d (o / 2 ^ 32)).wr F.nearFailAddrHiChannel d (nearChannel o)
  (m2.retirePage d (nearPage o)).send (.tell (.pageRetired d (nearPage o) who))

/-- A burst has to wait in its channel's queue: an earlier one of its requester, or of its address, stands there (06 R141, R144). -/
def nearBlocked (l : List NearWait) (d who a : Nat) : Bool :=
  l.any (fun w => w.die == d && ((w.who == who && nearChannel ((w.addr - nearBase 0) % nearSize) == nearChannel ((a - nearBase 0) % nearSize)) ||
    w.addr == a))

/-- The queue of a burst's channel holds 32 bursts (06 R139). -/
def nearFull (l : List NearWait) (d a : Nat) : Bool :=
  decide (32 ≤ (l.filter (fun w => w.die == d && nearChannel ((w.addr - nearBase 0) % nearSize) == nearChannel ((a - nearBase 0) % nearSize))).length)

def Mach.setWaits (m : Mach) (l : List NearWait) : Mach := { m with near := { m.near with waits := l } }

/-- The bytes of a burst written under its enables; a stored CRC that fails during a merge leaves a complemented one (06 R141, R143). -/
def Mach.nearPut (m : Mach) (a : Nat) (data : List Byte) (en : List Bool) (crcBad : Bool) : Mach :=
  let whole := (upFrom 0 64).all (fun i => nth false en i)
  let bad := !whole && (crcBad || m.nearIsBad a)
  (m.putEn a (data.take 64) (en.take 64)).setNearBad a bad

/-- NEAR_BURST_READ (06 R141, R144 to R146): a burst whose CRC fails waits for its re-read, and later bursts of the requester behind it. A full queue
takes no burst. -/
def opNearBurstRead (who addr : Nat) (crcBad : Bool) (m : Mach) : Mach :=
  match placeOf m.fuses addr with
  | .near d o =>
    let a := addr / 64 * 64
    let say := m.nearSay d o who
    if say ≠ 0 then m.nearRefuse d say who
    else if nearFull m.near.waits d a then m
    else if nearBlocked m.near.waits d who a then m.setWaits (m.near.waits ++ [⟨d, who, a, none, false⟩])
    else if crcBad || m.nearIsBad a then m.setWaits (m.near.waits ++ [⟨d, who, a, none, true⟩])
    else m.send (.resp who rsOk (m.bytes a 64) 0)
  | _ => m

/-- NEAR_BURST_WRITE: complete when the channel's queue accepts it (06 R141). -/
def opNearBurstWrite (who addr : Nat) (data : List Byte) (en : List Bool) (crcBad : Bool) (m : Mach) : Mach :=
  match placeOf m.fuses addr with
  | .near d o =>
    let a := addr / 64 * 64
    let say := m.nearSay d o who
    if say ≠ 0 then m.nearRefuse d say who
    else if nearFull m.near.waits d a then m
    else if nearBlocked m.near.waits d who a then (m.setWaits (m.near.waits ++ [⟨d, who, a, some (data, en), false⟩])).respond who rsOk
    else (m.nearPut a data en crcBad).respond who rsOk
  | _ => m

/-- Bursts that waited behind a re-read go on, in their order, but for those still behind another. kept: the ones before that stay. -/
def Mach.nearDrain (m : Mach) : List NearWait → List NearWait → Mach
  | kept, [] => m.setWaits kept
  | kept, w :: l =>
    if w.reread || nearBlocked kept w.die w.who w.addr then m.nearDrain (kept ++ [w]) l
    else match w.data with
      | some d => (m.nearPut w.addr d.1 d.2 false).nearDrain kept l
      | none =>
        if m.nearIsBad w.addr then m.nearDrain (kept ++ [{ w with reread := true }]) l
        else (m.send (.resp w.who rsOk (m.bytes w.addr 64) 0)).nearDrain kept l

/-- NEAR_REREAD (06 R144): delivered with REREAD, or FAILED. -/
def opNearReread (d : Nat) (crcBad : Bool) (m : Mach) : Mach :=
  match m.near.waits.find? (fun w => w.die == d && w.reread) with
  | none => m
  | some w =>
    let rest := m.near.waits.erase w
    let m1 := m.setWaits rest
    let o := w.addr - nearBase d
    let m2 := if crcBad || m.nearIsBad w.addr then (m1.nearFailed d o w.who).send (.resp w.who rsOk (m.bytes w.addr 64) 2)
      else ((m1.ev F.nearEventsRereadOk d).cnt F.nearRereads d 1).send (.resp w.who rsOk (m.bytes w.addr 64) 1)
    m2.nearDrain [] rest

/-- The sensor index of a near-tier layer, and its temperature in eighths of a °C, -32768 where there is no reading (17 Table 17-11). -/
def layerTemp (m : Mach) (d k : Nat) : Int := toSigned 16 (m.rd F.sensTempTemp (ix 6 (7 + 4 * d + k) 0 0))

/-- The controller halves the interval while a layer reads above HOT_C (06 R142). -/
def Mach.nearHot (m : Mach) (d : Nat) : Mach :=
  if (upFrom 0 4).any (fun k => decide (8 * (m.rd F.nearRefreshHot d : Int) < layerTemp m d k)) then m.wr F.nearStatusHot d 1 else m

/-- NEAR_REFRESH: the channel's DRAM banks are refreshed in turn (06 R142). -/
def opNearRefresh (d h : Nat) (m : Mach) : Mach :=
  let k := d * 256 + h
  ({ m with near := { m.near with turn := SMap.put 0 k ((SMap.get 0 k m.near.turn + 1) % 16) m.near.turn } } : Mach).nearHot d

/-- NEAR_HOT_RESTORE, once every layer reads 5 °C below the threshold (06 R142). -/
def opNearHotRestore (d : Nat) (m : Mach) : Mach :=
  if (upFrom 0 4).all (fun k => decide (layerTemp m d k ≠ -32768) && decide (layerTemp m d k ≤ 8 * ((m.rd F.nearRefreshHot d : Int) - 5))) then m.wr F.nearStatusHot d 0 else m

/-- The domain of the near tier at an address. -/
def nearDom (m : Mach) (a : Nat) : Dom :=
  match placeOf m.fuses a with
  | .near d _ => .near d
  | _ => .uncore

/-! The meanings -/

def execNearBurstRead (who addr : Nat) (bad : Bool) (s : State) := s.on (nearDom s.m addr) (opNearBurstRead who addr bad)
def execNearBurstWrite (who addr : Nat) (data : List Byte) (en : List Bool) (bad : Bool) (s : State) :=
  s.on (nearDom s.m addr) (opNearBurstWrite who addr data en bad)
def execNearReread (d : DieNo) (bad : Bool) (s : State) := s.on (.near d.val) (opNearReread d.val bad)
def execNearRefresh (d : DieNo) (h : Fin 256) (s : State) := s.on .refresh (opNearRefresh d.val h.val)
def execNearHotRestore (d : DieNo) (s : State) := s.on (.near d.val) (opNearHotRestore d.val)

end Sys2Proof.Machine
end

