-- ==== Sys2Proof/Machine/Far.lean ====
section
/-! DEFINITION. The far-tier controllers of chapter 9. -/

namespace Sys2Proof.Machine

/-- Channel and channel offset of an offset in a far tier (09 Table 9-2). -/
def farChannel (o : Nat) : Nat := (o / 256 % 4) ^^^ (o / 0x200000 % 4)
def farChOffset (o : Nat) : Nat := o / 1024 * 256 + o % 256

/-- Column, bank group, bank, rank and row of a channel offset (09 Table 9-2), by the ranks of the channel. -/
def farColumn (p : Nat) : Nat := bitsOf 12 7 p * 16 + bitsOf 6 6 p * 8
def farBankGroup (p : Nat) : Nat := bitsOf 15 13 p
def farBank (p : Nat) : Nat := bitsOf 17 16 p
def farRank (ranks p : Nat) : Nat := if ranks = 2 then bitsOf 18 18 p else 0
def farRow (ranks p : Nat) : Nat := if ranks = 2 then bitsOf 35 19 p else bitsOf 34 18 p

/-- The module address of offset p of channel 4d + h: o[9:8] is h xor o[22:21]. -/
def farAddr (fu : Fuses) (ch p : Nat) : Nat :=
  let o := p / 256 * 1024 + p % 256
  farBase fu (ch / 4) + o + ((ch % 4) ^^^ (o / 0x200000 % 4)) * 256

/-- The checks of a 64-byte unit's two quarters as its bytes are stored, and as the check bits hold them (09 R209): the first in bits 31
to 0. -/
def Mach.farCheck (m : Mach) (a : Nat) : Nat :=
  let n := leBytes 4 (farChOffset (a % farSize m.fuses) / 128)
  crc32c (m.bytes (a / 64 * 64) 32 ++ n) + crc32c (m.bytes (a / 64 * 64 + 32) 32 ++ n) * 2 ^ 32
def Mach.farStored (m : Mach) (a : Nat) : Nat := m.farCheck a ^^^ SMap.get 0 (a / 64) m.far.bad

/-- Whether a stored check of a unit fails: farStored and farCheck differ. -/
def Mach.farIsBad (m : Mach) (a : Nat) : Bool := SMap.get 0 (a / 64) m.far.bad != 0

/-- A unit's stored checks become the correct ones, or their complements (09 R209). -/
def Mach.setFarBad (m : Mach) (a : Nat) (bad : Bool) : Mach :=
  { m with far := { m.far with bad := SMap.put 0 (a / 64) (if bad then 2 ^ 64 - 1 else 0) m.far.bad } }

/-- The units of a burst, as module addresses. -/
def unitAddrs (m : Mach) (ch : Nat) (b : FarBurst) : List Nat := (upFrom 0 b.units).map (fun i => farAddr m.fuses ch (b.p + 64 * i))

/-- FAR_ADMIT (09 R200, R201): the holder moves its next unit, or the two units of one burst, into the command queue; the
transfer ends with its last unit, and a write is then acknowledged. -/
def opFarAdmit (ch : Nat) (m : Mach) : Mach :=
  let x := m.farCh ch
  match x.xfer with
  | none => m
  | some t =>
    if 16 ≤ x.queue.length || (m.arb (.far (Fin.ofNat 24 ch))).emergency then m
    else
      let p := t.p / 64 * 64
      let skip := t.p - p
      let n1 := min t.left (64 - skip)
      let whole (en : List Bool) (k : Nat) : Bool := decide (k = 64) && (en.take 64).all id && decide (64 ≤ en.length)
      let partial1 := match t.data with
        | some d => !whole d.2 n1
        | none => false
      let n2 := min (t.left - n1) 64
      let second := match t.data with
        | some d => whole (d.2.drop n1) n2
        | none => decide (0 < n2)
      let two := p % 128 == 0 && decide (0 < n2) && second && !partial1
      let n := if two then n1 + n2 else n1
      let pad := t.data.map (fun d => (List.replicate skip (0 : Byte) ++ d.1.take n, List.replicate skip false ++ d.2.take n))
      let b : FarBurst := { id := t.id, p := p, units := if two then 2 else 1, data := pad, merged := partial1 }
      let left := t.left - n
      let rest : FarXfer := { t with p := t.p + n, left := left, data := t.data.map (fun d => (d.1.drop n, d.2.drop n)) }
      let m1 := m.setFar ch { x with queue := x.queue ++ [.burst b], xfer := if left = 0 then none else some rest }
      if left = 0 then
        let a : ArbId := .far (Fin.ofNat 24 ch)
        let m2 := m1.setArb a { m1.arb a with holder := none }
        if t.data.isSome then m2.respond t.id rsOk else m2
      else m1

/-- Whether a channel may issue: in normal running, not pausing, not training (09 R202, R205 to R207). -/
def FarCh.issues (x : FarCh) : Bool := x.mode == .normal && !x.pause && x.step == 0 && x.reread.isNone && decide (x.retry.length < 16)

/-- The channel issues no burst of its queue: training, recovery or a pause (09 R203, R205 to R207). -/
def FarCh.blocked (x : FarCh) : Bool := x.mode != .normal || x.pause || x.step != 0

def FarCmd.isRefresh : FarCmd → Bool
  | .refresh _ => true
  | .burst _ => false

/-- FAR_BURST_ISSUE (09 R200, R202, R203): the head of the queue issues; a refresh leaves no burst behind, and issues though the retry buffer
is full or the channel issues no burst. -/
def opFarBurstIssue (ch : Nat) (m : Mach) : Mach :=
  let x := m.farCh ch
  if x.blocked then (match x.queue.find? FarCmd.isRefresh with
    | some r => m.setFar ch { x with queue := x.queue.erase r }
    | none => m)
  else match x.queue with
    | [] => m
    | .refresh _ :: l => m.setFar ch { x with queue := l }
    | .burst b :: l => if x.issues then m.setFar ch { x with queue := l, retry := x.retry ++ [b] } else m

/-- A LOST read is counted and recorded (09 R208, R210). -/
def Mach.farLost (m : Mach) (ch p : Nat) : Mach :=
  let q := farIx ch
  (((m.ev F.farEventsReadLost q).cnt F.farLost q 1).wr F.farLostAddrLo q (p % 2 ^ 32)).wr F.farLostAddrHiOffset q (p / 2 ^ 32)

/-- A read burst is delivered: bit 0 of marks REREAD, bit 2 LOST. -/
def Mach.farDeliver (m : Mach) (ch : Nat) (b : FarBurst) (marks : Nat) : Mach :=
  m.send (.resp b.id rsOk ((unitAddrs m ch b).flatMap (fun a => m.bytes a 64)) marks)

/-- A write takes place, a merge of a unit that stayed bad with complemented checks (09 R209). -/
def Mach.farWrite (m : Mach) (ch : Nat) (b : FarBurst) (stays : Bool) : Mach :=
  match b.data with
  | none => m
  | some d =>
    (unitAddrs m ch b).foldl (fun (s : Mach × List Byte × List Bool) a =>
      ((s.1.putEn a (s.2.1.take 64) (s.2.2.take 64)).setFarBad a stays, s.2.1.drop 64, s.2.2.drop 64)) (m, d.1, d.2) |>.1

/-- Whether a burst reads and its stored checks are bad. -/
def Mach.farReadsBad (m : Mach) (ch : Nat) (b : FarBurst) : Bool :=
  (b.data.isNone || b.merged) && (unitAddrs m ch b).any m.farIsBad

/-- The controller pauses late, once recovery has ended (09 R205). -/
def FarCh.settle (x : FarCh) : FarCh :=
  if x.mode = .normal ∧ x.pauseDue then { x with pause := true, pauseDue := false, rereads := 0 } else x

/-- A burst that passed has left the buffer: recovery may be over (09 R207, R208). -/
def Mach.farLeft (m : Mach) (ch : Nat) (x : FarCh) : Mach :=
  let ended : Bool := match x.mode with
    | .replaying => x.retry.isEmpty
    | .singleHeld => x.singles.isEmpty
    | _ => false
  let x1 : FarCh := match x.mode, x.singles with
    | .singleHeld, b :: _ => { x with retry := [b], attempts := 0 }
    | _, _ => x
  if ended then (m.setFar ch ({ x1 with mode := .normal, attempts := 0 } : FarCh).settle).wr F.farStatusRecovering (farIx ch) 0
  else m.setFar ch x1

/-- FAR_WINDOW_PASS (09 R202, R207, R209): the oldest burst leaves the retry buffer. A read that fails its checks is re-read first. -/
def opFarWindowPass (ch : Nat) (crcBad : Bool) (m : Mach) : Mach :=
  let x := m.farCh ch
  match x.retry, x.mode, x.reread with
  | _, .waitRise, _ => m
  | _, .singleRise, _ => m
  | _, _, some _ => m
  | [], _, none => m
  | b :: l, _, none =>
    let reads := b.data.isNone || b.merged
    let y : FarCh := { x with retry := l, singles := if x.mode = .singleHeld then x.singles.drop 1 else x.singles }
    if reads && (crcBad || m.farReadsBad ch b) then m.setFar ch { y with reread := some (b, 0) }
    else if b.data.isNone then (m.farDeliver ch b (if x.mode = .replaying then 1 else 0)).farLeft ch y
    else (m.farWrite ch b false).farLeft ch y

/-- FAR_REREAD (09 R210): at most two, then LOST; a merge goes on with a unit that stays bad. -/
def opFarReread (ch : Nat) (crcBad : Bool) (m : Mach) : Mach :=
  let x := m.farCh ch
  match x.reread with
  | none => m
  | some (b, n) =>
    let q := farIx ch
    let y : FarCh := { x with reread := none, rereads := x.rereads + 1 }
    let y1 : FarCh := if m.rd F.farRetrainFullThresh q < y.rereads then { y with needFull := true } else y
    if crcBad || m.farReadsBad ch b then
      if n = 0 then m.setFar ch { y1 with reread := some (b, 1) }
      else if b.data.isNone then ((m.farDeliver ch b 4).farLost ch b.p).farLeft ch y1
      else (m.farWrite ch b true).farLeft ch y1
    else
      let m1 := (m.ev F.farEventsRereadOk q).cnt F.farRereads q 1
      if b.data.isNone then (m1.farDeliver ch b 1).farLeft ch y1 else (m1.farWrite ch b false).farLeft ch y1

/-- The two re-reads of a unit whose stored check fails, counted toward full retraining (09 R206, R210). -/
def Mach.farReread2 (m : Mach) (ch : Nat) : Mach :=
  let x := m.farCh ch
  m.setFar ch { x with rereads := x.rereads + 2, needFull := x.needFull || decide (m.rd F.farRetrainFullThresh (farIx ch) < x.rereads + 2) }

/-- FAR_REFRESH (09 R203): enters the command queue behind the bursts already queued; while the channel issues no burst it issues at once. -/
def opFarRefresh (ch rank : Nat) (m : Mach) : Mach :=
  if m.rd F.farStatusRanks (farIx ch) ≤ rank ∨ (m.farCh ch).blocked then m
  else m.setFar ch { m.farCh ch with queue := (m.farCh ch).queue ++ [.refresh rank] }

/-- MR4_POLL (09 R203). -/
def opMr4Poll (ch : Nat) (above calm : Bool) (m : Mach) : Mach :=
  if above then m.wr F.farStatusHot (farIx ch) 1 else if calm then m.wr F.farStatusHot (farIx ch) 0 else m

/-- No unit queued and no burst in the retry buffer (09 Table 9-5): a burst that is re-read has not left it, nor the writes of a failed
replay. -/
def FarCh.idle (x : FarCh) : Bool := x.queue.all FarCmd.isRefresh && x.retry.isEmpty && x.singles.isEmpty && x.reread.isNone

/-- FAR_CTRL.TRAIN lands only while the channel is stopped (09 R205, R211). -/
def Mach.farStopped (m : Mach) (ch : Nat) : Bool := !m.on F.farCtrlAccept (farIx ch) && (m.farCh ch).idle

/-- Training begins at a step (09 R204, R206). -/
def Mach.farTrainFrom (m : Mach) (ch step : Nat) (full : Bool) : Mach :=
  let q := farIx ch
  let m1 := ((m.wr F.farStatusTraining q 1).wr F.farTrainResultStep q step).setFar ch
    { m.farCh ch with step := step, full := full, needFull := false }
  if full then ((m1.wr F.farStatusReady q 0).ev F.farEventsFullRetrain q |>.cnt F.farRetrains q 1).send
      (.tell (.farRetrain ch false)) else m1

/-- FAR_TRAIN: from step 1 at start-up, and from step 2 once the channel has been trained (09 R204, R206; 18 Table 18-7). -/
def opFarTrain (ch : Nat) (m : Mach) : Mach :=
  let q := farIx ch
  if !m.farStopped ch || (m.farCh ch).step ≠ 0 then m
  else (m.wr F.farCtrlTrain q 1).farTrainFrom ch (if m.on F.farStatusReady q then 2 else 1) (m.on F.farStatusReady q)

/-- TRAIN_STEP_DONE: the next step, or the channel in service after step 8; the writes a failed replay left are then
re-issued (09 R204, R208). -/
def opTrainStepDone (ch : Nat) (m : Mach) : Mach :=
  let x := m.farCh ch
  let q := farIx ch
  if x.step = 0 ∨ (x.step = 8 ∧ x.mode = .waitRise) then m
  else if x.step < 8 then (m.setFar ch { x with step := x.step + 1 }).wr F.farTrainResultStep q (x.step + 1)
  else
    let y : FarCh := { x with step := 0, full := false }
    let y1 : FarCh := match x.singles with
      | b :: _ => { y with mode := .singleHeld, retry := [b], attempts := 0 }
      | [] => y
    let m1 := (((m.setFar ch y1).wr F.farStatusTraining q 0).wr F.farStatusReady q 1).wr F.farCtrlTrain q 0
    let m2 := (m1.wr F.farTrainResultCode q 0).wr F.farStatusFailed q 0
    if x.full then m2.send (.tell (.farRetrain ch true)) else m2

/-- Bursts of a channel that have not been performed. -/
def FarCh.waiting (x : FarCh) : List FarBurst :=
  x.retry ++ x.singles ++ (x.reread.map (fun r => r.1)).toList ++ x.queue.filterMap (fun c => match c with
    | .burst b => some b
    | .refresh _ => none)

/-- A channel that failed holds nothing. -/
def FarCh.failed (x : FarCh) : FarCh :=
  { FarCh.init with rereads := x.rereads, pause := x.pause, pauseDue := x.pauseDue, needFull := x.needFull }

/-- The channel offsets of the writes that training's failure loses (09 R208). -/
def Mach.farLostWrites (m : Mach) (ch : Nat) : List Nat :=
  ((m.farCh ch).waiting.filter (fun b => b.data.isSome)).flatMap (fun b => (upFrom 0 b.units).map (fun i => b.p + 64 * i)) |> distinct

/-- Training stops and the channel fails: it refuses every access, those it holds and queues too, and writes not yet performed are lost (09
R204, R208). -/
def Mach.farTimeout (m : Mach) (ch : Nat) (noWindow : Bool) : Mach :=
  let x := m.farCh ch
  let q := farIx ch
  if x.step = 0 then m
  else
    let held := m.arb (.far (Fin.ofNat 24 ch))
    let m0 := (x.xfer.map (fun t => t.id)).toList.foldl (fun m i => m.respond i rsUnavailable)
      ((x.waiting.filter (fun b => b.data.isNone)).foldl (fun m b => m.respond b.id rsUnavailable) m)
    let m1 := ((((m0.setFar ch x.failed).setArb (.far (Fin.ofNat 24 ch)) { held with holder := none }).wr
      F.farStatusTraining q 0).wr F.farStatusReady q 0).wr F.farCtrlTrain q 0
    let m2 := (((m1.wr F.farTrainResultStep q x.step).wr F.farTrainResultCode q (if noWindow then 2 else 1)).ev F.farEventsTrainFail q).wr
      F.farStatusFailed q 1
    let m3 := if x.full then m2.send (.tell (.farRetrain ch true)) else m2
    let m4 := m3.wr F.farStatusRecovering q 0
    match m.farLostWrites ch with
    | [] => m4
    | l => (m4.ev F.farEventsWriteLost q).send (.tell (.farWritesLost ch l))

/-- PERIODIC_RETRAIN: the pause starts, or falls due while recovery runs (09 R205). -/
def opPeriodicRetrain (ch : Nat) (m : Mach) : Mach :=
  let x := m.farCh ch
  if !m.on F.farStatusReady (farIx ch) then m
  else if x.mode = .normal then m.setFar ch { x with pause := true, rereads := 0 }
  else m.setFar ch { x with pauseDue := true }

/-- PERIODIC_RETRAIN_END. -/
def opPeriodicRetrainEnd (ch : Nat) (drift : Bool) (m : Mach) : Mach :=
  let x := m.farCh ch
  if x.pause then m.setFar ch { x with pause := false, needFull := x.needFull || drift } else m

/-- FULL_RETRAIN (09 R206): steps 2 to 8, when drift, re-reads or R208 ask for it. -/
def opFullRetrain (ch : Nat) (m : Mach) : Mach :=
  let x := m.farCh ch
  if x.needFull && x.step == 0 && !x.pause then m.farTrainFrom ch 2 true else m

/-- CA_ALERT (09 R207, R208); parity is on from training step 7 (Table 9-1), so in its verification too. -/
def opCaAlert (ch : Nat) (m : Mach) : Mach :=
  let x := m.farCh ch
  let q := farIx ch
  if x.step ≠ 0 ∧ x.step ≠ 8 then m
  else
    let m1 := ((m.ev F.farEventsCaAlert q).cnt F.farAlerts q 1).wr F.farStatusRecovering q 1
    match x.mode with
    | .normal => m1.setFar ch { x with mode := .waitRise }
    | .waitRise => m1
    | .singleRise => m1
    | .replaying =>
      let reads := x.retry.filter (fun b => b.data.isNone)
      let writes := x.retry.filter (fun b => b.data.isSome)
      let m2 := (reads.foldl (fun m b => (m.farDeliver ch b 4).farLost ch b.p) m1).ev F.farEventsReplayFail q
      match writes with
      | [] => (m2.setFar ch ({ x with mode := .normal, retry := [], singles := [], attempts := 0 } : FarCh).settle).wr F.farStatusRecovering q 0
      | _ => m2.setFar ch { x with mode := .singleRise, retry := [], singles := writes, attempts := 0 }
    | .singleHeld =>
      if x.attempts + 1 < 4 then m1.setFar ch { x with mode := .singleRise, retry := [], attempts := x.attempts + 1 }
      else m1.setFar ch { x with mode := .singleRise, retry := [], attempts := 4, needFull := true }

/-- ALERT_RISE (09 R207, R208): the set, or the next single write, is re-issued. -/
def opAlertRise (ch : Nat) (m : Mach) : Mach :=
  let x := m.farCh ch
  match x.mode with
  | .waitRise =>
    if x.retry.isEmpty then (m.setFar ch ({ x with mode := .normal } : FarCh).settle).wr F.farStatusRecovering (farIx ch) 0
    else m.setFar ch { x with mode := .replaying }
  | .singleRise => if x.attempts = 4 then m else m.setFar ch { x with mode := .singleHeld, retry := x.singles.take 1 }
  | _ => m

/-! The meanings -/

def execFarAdmit (h : Fin 24) (s : State) := s.on (.far (h.val / 4)) (opFarAdmit h.val)
def execFarBurstIssue (h : Fin 24) (s : State) := s.on (.far (h.val / 4)) (opFarBurstIssue h.val)
def execFarWindowPass (h : Fin 24) (bad : Bool) (s : State) := s.on (.far (h.val / 4)) (opFarWindowPass h.val bad)
def execFarReread (h : Fin 24) (bad : Bool) (s : State) := s.on (.far (h.val / 4)) (opFarReread h.val bad)
def execFarRefresh (h : Fin 24) (rank : Fin 2) (s : State) := s.on .refresh (opFarRefresh h.val rank.val)
def execMr4Poll (h : Fin 24) (above calm : Bool) (s : State) := s.on (.far (h.val / 4)) (opMr4Poll h.val above calm)
def execFarTrain (h : Fin 24) (s : State) := s.on (.far (h.val / 4)) (opFarTrain h.val)
def execTrainStepDone (h : Fin 24) (s : State) := s.on (.far (h.val / 4)) (opTrainStepDone h.val)
def execPeriodicRetrain (h : Fin 24) (s : State) := s.on (.far (h.val / 4)) (opPeriodicRetrain h.val)
def execPeriodicRetrainEnd (h : Fin 24) (drift : Bool) (s : State) := s.on (.far (h.val / 4)) (opPeriodicRetrainEnd h.val drift)
def execFullRetrain (h : Fin 24) (s : State) := s.on (.far (h.val / 4)) (opFullRetrain h.val)
def execCaAlert (h : Fin 24) (s : State) := s.on (.far (h.val / 4)) (opCaAlert h.val)
def execAlertRise (h : Fin 24) (s : State) := s.on (.far (h.val / 4)) (opAlertRise h.val)

end Sys2Proof.Machine
end

