-- ==== Sys2Proof/Machine/SelfTest.lean ====
section
/-! DEFINITION. The march engines, tile self-test, repair and retirement of chapter 18. -/

namespace Sys2Proof.Machine

/-! The repair record -/

def RepairRec.empty : RepairRec := { seq := 0, tiles := [], banks := [], returns := [] }

/-- The copy with the higher SEQ, if either is valid (18 R433). -/
def TestSt.record (x : TestSt) : Option RepairRec :=
  match x.copyA, x.copyB with
  | none, b => b
  | a, none => a
  | some a, some b => if a.seq < b.seq then some b else some a

/-- Writing the record: the other copy takes it, with the next SEQ. -/
def Mach.writeRecord (m : Mach) (f : RepairRec → RepairRec) : Mach :=
  let old := (m.test.record).getD RepairRec.empty
  let new : RepairRec := { f old with seq := old.seq + 1 }
  let toA : Bool := match m.test.copyA, m.test.copyB with
    | none, _ => true
    | _, none => false
    | some a, some b => decide (a.seq < b.seq)
  { m with test := if toA then { m.test with copyA := some new } else { m.test with copyB := some new } }

/-- The fuse entry of a tile, and its entry: a valid flash entry replaces it (18 R433). -/
def fuseEntry (m : Mach) (t : Nat) : Nat := SMap.get 0x3F3F t m.fuses.tileEntry
def tileEntry (m : Mach) (t : Nat) : Nat :=
  match m.test.record with
  | some r =>
    let e := SMap.get 0x3F3F t r.tiles
    if bitOf 15 e then e else fuseEntry m t
  | none => fuseEntry m t

/-- A tile is retired in either place. -/
def tileRetired (m : Mach) (t : Nat) : Bool := bitOf 14 (fuseEntry m t) || bitOf 14 (tileEntry m t)

/-- A bank is retired in either place. -/
def bankRetired (m : Mach) (b : Nat) : Bool :=
  SMap.get 0 b m.fuses.bankRetired != 0 || (match m.test.record with
    | some r => SMap.get 0 b r.banks != 0
    | none => false)

/-- HEALTH runs. -/
def Mach.healthUp (m : Mach) : Bool := m.rd F.fwStatusState (ix 6 3 0 0) == 2

/-- HEALTH retires a bank and records it (18 R426, R433). -/
def Mach.retireBank (m : Mach) (b : Nat) : Mach :=
  if m.healthUp then m.writeRecord (fun r => { r with banks := SMap.put 0 b 1 r.banks }) else m

/-! March engines (18 R421 to R427) -/

def Mach.march (m : Mach) (c : Nat) : March := SMap.get March.idle c m.test.march
def Mach.setMarch (m : Mach) (c : Nat) (r : March) : Mach :=
  { m with test := { m.test with march := SMap.put March.idle c r m.test.march } }

/-- An element of a sequence: ascending or not, its operations (a read or a write, of the complement or of the background) and
the index of its first operation. -/
structure MarchElem where
  up : Bool
  ops : List (Bool × Bool)
  base : Nat
  deriving DecidableEq, Repr

/-- The sequences of Table 18-1. -/
def marchSeq (alg : Nat) : List MarchElem :=
  let r0 := (true, false); let r1 := (true, true); let w0 := (false, false); let w1 := (false, true)
  if alg = 0 then
    [⟨true, [w0], 0⟩, ⟨true, [r0, w1], 1⟩, ⟨true, [r1, w0], 3⟩, ⟨false, [r0, w1], 5⟩, ⟨false, [r1, w0], 7⟩, ⟨true, [r0], 9⟩]
  else
    [⟨true, [w0], 0⟩, ⟨true, [r0, w1, r1], 1⟩, ⟨true, [r1, w0, r0], 4⟩, ⟨false, [r0, w1, r1], 7⟩, ⟨false, [r1, w0, r0], 10⟩,
     ⟨true, [r0], 13⟩]

/-- The background of lane L of word w (18 R424). -/
def marchBg (bg w l : Nat) : Nat :=
  if bg = 0 then 0 else if bg = 1 then (if (w + l) % 2 = 0 then 0x55555555 else 0xAAAAAAAA)
  else if bg = 2 then (if w % 2 = 0 then 0 else 0xFFFFFFFF) else 0x00FF00FF

/-- The 64 bytes of the background, or of its complement, XORed with a saved word. -/
def marchWord (bg w : Nat) (ones : Bool) (save : List Byte) : List Byte :=
  let b := (upFrom 0 16).flatMap (fun l => leBytes 4 (if ones then 0xFFFFFFFF - marchBg bg w l else marchBg bg w l))
  if save.isEmpty then b else (b.zip save).map (fun x => x.1 ^^^ x.2)

def allEn : List Bool := List.replicate 64 true

/-- The lowest 32-bit lane in which a read word differs from the value expected or fails parity. -/
def badLane (got want : List Byte) (bad : List Nat) : Option Nat :=
  (upFrom 0 16).find? (fun l => bad.contains l || (got.drop (4 * l)).take 4 != (want.drop (4 * l)).take 4)

/-- A failing read is counted, and the first of a run recorded (18 R426). -/
def Mach.marchFail (m : Mach) (c b w lane op : Nat) : Mach :=
  let p := clIx c
  let r := m.march c
  let m1 := (m.cnt F.marchFails p 1).setMarch c { r with failed := true, recorded := true }
  if r.recorded then m1
  else (((m1.wr F.marchFailWord p w).wr F.marchFailBank p b).wr F.marchFailLane p lane).wr F.marchFailOp p op

/-- A checking read of a bank word by the march engine: the bank's own parity count, and the failure if there is one. -/
def Mach.marchRead (m : Mach) (c b w : Nat) (want : List Byte) (op : Nat) : Mach :=
  let g := c * 16 + b
  let a := bankBase g + 64 * w
  let bad := Sys2Proof.Machine.badLanes m a 0 16
  let r := m.readWord g a
  match badLane r.1 want bad with
  | none => r.2.2
  | some l => r.2.2.marchFail c b w l op

def Mach.marchWrite (m : Mach) (c b w : Nat) (v : List Byte) : Mach :=
  m.writeWord (c * 16 + b) (bankBase (c * 16 + b) + 64 * w) v allEn

/-- The operations of an element on one word. -/
def Mach.marchOps (m : Mach) (c b w bg : Nat) (save : List Byte) (op : Nat) : List (Bool × Bool) → Mach
  | [] => m
  | (rd, ones) :: l =>
    let v := marchWord bg w ones save
    (if rd then m.marchRead c b w v op else m.marchWrite c b w v).marchOps c b w bg save (op + 1) l

/-- A bank is owned by the march engine (18 R422). -/
def Mach.marchOwns (m : Mach) (c b : Nat) : Bool :=
  let p := bankIx (c * 16 + b)
  let g := m.rd F.bankOwnerCurrent p
  decide (g < 8) && m.rd F.ownerGroupLocal (clSub c g) == 0x20000 && m.rd F.ownerGroupRemoteEn (clSub c g) == 0 &&
    !m.on F.bankOwnerPending p

/-- The status of a bank that has ended (Table 18-3 LAST). -/
def Mach.marchStatus (m : Mach) (c b st : Nat) : Mach :=
  let p := clIx c
  let m1 := (m.wr F.marchStatusLast p st).wr F.marchStatusBank p b
  if st = 1 then m1 else m1.wr F.marchStatusNotPassed p (setBit b (m1.rd F.marchStatusNotPassed p))

/-- The run goes on to the first of the banks that the march engine owns; those before it are BANK_BUSY. With none left the run
ends (18 R422). -/
def Mach.marchReach (m : Mach) (c : Nat) : List Nat → Mach
  | [] =>
    let p := clIx c
    ((m.wr F.marchStatusBusy p 0).wr F.marchCycles p (m.march c).cycles).setMarch c March.idle
  | b :: l =>
    if m.marchOwns c b then
      (m.wr F.marchStatusBank (clIx c) b).setMarch c
        { m.march c with banks := b :: l, elem := 0, pos := 0, seg := 0, step := 1, save := [], saveBad := [], failed := false, invalid := false }
    else (m.marchStatus c b 3).marchReach c l

/-- The bank in progress ends with a status and the run goes on; one that fails in another mode than FILL is retired. -/
def Mach.marchBankEnd (m : Mach) (c st : Nat) : Mach :=
  match (m.march c).banks with
  | [] => m
  | b :: l =>
    let m1 := m.marchStatus c b st
    (if st = 2 ∧ (m.march c).mode ≠ 0 then m1.retireBank (16 * c + b) else m1).marchReach c l

/-- The status of a bank whose run came to its end (18 R426, R427). -/
def March.verdict (r : March) : Nat := if r.invalid then 6 else if r.failed then 2 else 1

/-- A word that a preserving run's early end leaves undefined: free bytes and free parity (18 R427). -/
def Mach.undefineWord (m : Mach) (a : Nat) : Mach :=
  let m1 := m.putBytes a ((upFrom 0 64).map (fun i => BitVec.ofNat 8 (Config.freeBits 8 (8 * (m.free * 64 + i) + 3)).toNat))
  let m2 := (upFrom 0 16).foldl (fun m i => m.setLaneBad (laneOf a + i) ((Config.freeBits 1 (8 * (m.free * 64 + i) + 4)).toNat == 1)) m1
  { m2 with free := m2.free + 1 }

/-- Every such word of a segment. -/
def Mach.undefineWords (m : Mach) (b w n : Nat) : Mach :=
  (upFrom w n).foldl (fun m i => m.undefineWord (bankBase b + 64 * i)) m

/-- A bank's run ends early: a preserving run's segment is undefined from its step 1 on (18 R427). -/
def Mach.marchEarly (m : Mach) (c : Nat) : Mach :=
  let r := m.march c
  match r.banks with
  | [] => m
  | b :: _ =>
    if r.mode = 2 ∧ r.step ≠ 1 then
      ((m.undefineWords (c * 16 + b) (256 * r.seg) 256).wr F.marchFailWord (clIx c) (256 * r.seg)).wr F.marchFailBank (clIx c) b
    else m

/-- MARCH_GO (18 R421): only HEALTH and the test port; ignored while a run is in progress. -/
def opMarchGo (c who data : Nat) (m : Mach) : Mach :=
  let p := clIx c
  if !exempt who then m.respond who rsRefused
  else
    let put (m : Mach) (f : Fld) (v : Nat) : Mach := if f.isLegal v then m.wr f p v else m
    let m0 := put (put (put (put m F.marchCtrlMode (bitsOf 3 2 data)) F.marchCtrlAlg (bitsOf 5 4 data)) F.marchCtrlBg (bitsOf 7 6 data))
      F.marchCtrlBanks (bitsOf 31 16 data)
    let m1 := m0.respond who rsOk
    if m1.on F.marchStatusBusy p then m1
    else
      let r : March := { March.idle with mode := m1.rd F.marchCtrlMode p, alg := m1.rd F.marchCtrlAlg p, bg := m1.rd F.marchCtrlBg p }
      (((m1.wr F.marchStatusBusy p 1).wr F.marchStatusNotPassed p 0).setMarch c r).marchReach c
        ((upFrom 0 16).filter (fun b => bitOf b (m1.rd F.marchCtrlBanks p)))

/-- Advancing through a sequence over n words from word lo: the next element or word, or the end. -/
def marchNext (r : March) (n : Nat) : March × Bool :=
  if r.pos + 1 < n then ({ r with pos := r.pos + 1 }, false)
  else if r.elem + 1 < (marchSeq r.alg).length then ({ r with pos := 0, elem := r.elem + 1 }, false)
  else ({ r with pos := 0, elem := 0 }, true)

/-- One element on one word of a range of n words from word lo, with the saved words of a preserving run. -/
def Mach.marchElem (m : Mach) (c b lo n : Nat) (save : List (List Byte)) : Mach × Nat :=
  let r := m.march c
  let e := nth ⟨true, [], 0⟩ (marchSeq r.alg) r.elem
  let k := if e.up then r.pos else n - 1 - r.pos
  (m.marchOps c b (lo + k) r.bg (nth [] save k) e.base e.ops, e.ops.length)

/-- A cycle in which the march engine has a transfer and no grant lengthens the run by one (18 R425; 06 R136). -/
def Mach.marchLost (m : Mach) (c : Nat) : Mach :=
  (m.lostA c 17).setMarch c { m.march c with cycles := (m.march c).cycles + 1 }

/-- MARCH_TRANSFER (18 R421, R423, R425). -/
def opMarchTransfer (c : Nat) (upset : List Nat) (m : Mach) : Mach :=
  let r := m.march c
  match r.banks with
  | [] => m
  | b :: _ =>
    let g := c * 16 + b
    if m.portBusy g 17 then m.marchLost c
    else match bankAdm m g (.local 17) with
    | .held => m.marchLost c
    | .refused => ((m.bankRefuse g (.local 17)).marchEarly c).marchBankEnd c 5
    | .ok =>
      let m0 := m.upsetLanes c upset
      let go (m : Mach) (r : March) (cy : Nat) (fin : Bool) : Mach :=
        let q := m.march c
        let m1 := m.setMarch c { r with failed := q.failed, recorded := q.recorded, cycles := r.cycles + cy }
        if fin then m1.marchBankEnd c (m1.march c).verdict else m1
      if r.mode = 0 then
        let m1 := (m0.marchWrite c b (2 * r.pos) (marchWord 0 0 false [])).marchWrite c b (2 * r.pos + 1) (marchWord 0 0 false [])
        go m1 { r with pos := r.pos + 1 } 1 (decide (10240 ≤ r.pos + 1))
      else if r.mode = 1 then
        let x := m0.marchElem c b 0 20480 []
        let n := marchNext r 20480
        go x.1 n.1 x.2 n.2
      else
        let w := 256 * r.seg + r.pos
        let a := bankBase g + 64 * w
        if r.step = 1 then
          let bad := Sys2Proof.Machine.badLanes m0 a 0 16
          let rd := m0.readWord g a
          let m1 := match bad with
            | [] => rd.2.2
            | l :: _ => rd.2.2.marchFail c b w l 0x1F
          let r1 : March := { r with save := r.save ++ [rd.1], saveBad := r.saveBad ++ [bad], pos := r.pos + 1 }
          go m1 (if r.pos + 1 = 256 then { r1 with pos := 0, step := 2 } else r1) 1 false
        else if r.step = 2 then
          let x := m0.marchElem c b (256 * r.seg) 256 r.save
          let n := marchNext r 256
          go x.1 (if n.2 then { n.1 with step := 3 } else n.1) (2 * x.2) false
        else if r.step = 3 then
          let m1 := m0.marchWrite c b w (nth [] r.save r.pos)
          let m2 := (nth [] r.saveBad r.pos).foldl (fun m l => m.setLaneBad (laneOf a + l) true) m1
          go m2 (if r.pos + 1 = 256 then { r with pos := 0, step := 4 } else { r with pos := r.pos + 1 }) 1 false
        else
          let m1 := m0.marchRead c b w (nth [] r.save r.pos) 0x1E
          if r.pos + 1 = 256 then
            go m1 { r with pos := 0, step := 1, seg := r.seg + 1, save := [], saveBad := [] } 1 (r.seg + 1 == 80)
          else go m1 { r with pos := r.pos + 1 } 1 false

/-- MARCH_ABORT (18 R427): the bank in progress is ABORTED and no further bank starts. -/
def opMarchAbort (c who : Nat) (m : Mach) : Mach :=
  if !exempt who then m.respond who rsRefused
  else
    let m1 := m.respond who rsOk
    match (m1.march c).banks with
    | [] => m1
    | b :: _ => (((m1.marchEarly c).marchStatus c b 4)).marchReach c []

/-! Tiles: fence, self-test, repair, retirement (18 R428 to R433) -/

/-- A placed share has work on a tile. -/
def Mach.tileHasShare (m : Mach) (t : Nat) : Bool :=
  m.alm.shares.any (fun s => !s.ended && s.cluster == t / 16 &&
    (s.todo.any (fun w => w.tile == some t) || s.sent.any (fun x => x.1 == some t)))

/-- A write of FENCED: ALMANAC, which sets it on a stopped tile without a placed share, or the test port; a 0 during a test takes effect at
its end. -/
def opTileFenceWrite (t who : Nat) (on : Bool) (m : Mach) : Mach :=
  if who ≠ idAlmanac ∧ who ≠ idTest then m.respond who rsRefused
  else if who = idAlmanac ∧ on ∧ (!m.tileStopped t ∨ m.tileHasShare t) then m.respond who rsOk
  else if (m.tile t).testing && !on then (m.setTile t { m.tile t with unfence := true }).respond who rsOk
  else ((m.setTile t { m.tile t with unfence := false }).wr F.tileFenceFenced (tileIx t) (b2n on)).respond who rsOk

/-- TILE_SELFTEST_GO. -/
def opTileSelftestGo (t who : Nat) (useRepair : Bool) (m : Mach) : Mach :=
  let p := tileIx t
  if !exempt who then m.respond who rsRefused
  else if (m.tile t).testing then m.respond who rsOk
  else
    let m1 := (m.wr F.tileSelftestUseRepair p (b2n useRepair)).respond who rsOk
    if m1.on F.tileFenceFenced p && m1.tileStopped t then
      (m1.setTile t { m1.tile t with testing := true, testRepair := useRepair, tester := who }).wr F.tileSelftestResult p 1
    else m1.wr F.tileSelftestResult p 4

/-- The physical rows that carry logical rows under a repair (03 R66). -/
def usedRows (s0 s1 : Nat) : List Nat := ((upFrom 0 50).filter (fun r => r != s0 && r != s1)).take 48

/-- TILE_SELFTEST_END (18 R429): the rows the test found faulty; under TILE_REPAIR only the rows in use count. HEALTH asks ALMANAC to clear
FENCED when its test under the repair passes (R430). -/
def opTileSelftestEnd (t rows : Nat) (junction : Bool) (m : Mach) : Mach :=
  let p := tileIx t
  let x := m.tile t
  if !x.testing then m
  else
    let rep := x.testRepair
    let used := if rep then usedRows (m.rd F.tileRepairSpare0Phys p) (m.rd F.tileRepairSpare1Phys p) else upFrom 0 50
    let fail := junction || used.any (fun r => bitOf r rows)
    let m1 := m.wr F.tileSelftestResult p (if fail then 3 else 2)
    let m2 := if rep then m1
      else ((m1.wr F.tileStRowsLo p (rows % 2 ^ 32)).wr F.tileStRowsHiRows p (rows / 2 ^ 32)).wr F.tileStRowsHiJunctionFail p (b2n junction)
    let m3 := m2.setTile t { x with testing := false, unfence := false, acc := [], epoch := x.epoch + 1, poison := 0 }
    let m4 := if x.unfence then m3.wr F.tileFenceFenced p 0 else m3
    if rep && !fail && x.tester == idHealth && m.healthUp then m4.send (.tell (.clearFence t)) else m4

/-- The rows an entry names. -/
def entryRows (e : Nat) : Nat :=
  let bit (v : Nat) : Nat := if v < 50 then 2 ^ v else 0
  bit (bitsOf 5 0 e) ||| bit (bitsOf 13 8 e)

/-- F: the last self-test's rows and the fuse entry's (18 R430). -/
def faultySet (m : Mach) (t : Nat) : Nat :=
  let p := tileIx t
  (m.rd F.tileStRowsLo p + m.rd F.tileStRowsHiRows p * 2 ^ 32) ||| entryRows (fuseEntry m t)

/-- F as it was found last: that of the last assignment, or the rows that the tile's entry bypasses (18 R431). -/
def lastFaulty (m : Mach) (t : Nat) : Nat :=
  match SMap.get 0 t m.test.lastF with
  | 0 => entryRows (fuseEntry m t) ||| entryRows (tileEntry m t)
  | n + 1 => n

/-- The assignment of R430's table: SPARE0 and SPARE1 (0x3F for none), or unrepairable. -/
def assignSpares (f : Nat) : Option (Nat × Nat) :=
  let a := (upFrom 0 48).filter (fun r => bitOf r f)
  let f48 := bitOf 48 f
  let f49 := bitOf 49 f
  match a with
  | [] => some (0x3F, 0x3F)
  | [x] => if !f48 then some (x, 0x3F) else if !f49 then some (x, 48) else none
  | [x, y] => if !f48 && !f49 then some (x, y) else none
  | _ => none

/-- A tile entry of the record (Table 18-6). -/
def entryOf (s0 s1 : Nat) (retired : Bool) : Nat := s0 + 256 * s1 + (if retired then 0x4000 else 0) + 0x8000

/-- Retiring a tile: it stays fenced and is recorded (18 R431, R433). -/
def Mach.retireTile (m : Mach) (t : Nat) : Mach :=
  let p := tileIx t
  let e := entryOf (m.rd F.tileRepairSpare0Phys p) (m.rd F.tileRepairSpare1Phys p) true
  ((m.wr F.tileFenceFenced p 1).writeRecord (fun r => { r with tiles := SMap.put 0x3F3F t e r.tiles })).send
    (.tell (.tileRetired t))

/-- TILE_RETIRE (18 R431): a fenced tile that is unrepairable, reports JUNCTION_FAIL or fails under its repair. -/
def opTileRetire (t : Nat) (m : Mach) : Mach :=
  let p := tileIx t
  let ended := m.rd F.tileSelftestResult p == 2 || m.rd F.tileSelftestResult p == 3
  let why := ended && ((assignSpares (faultySet m t)).isNone || m.on F.tileStRowsHiJunctionFail p ||
    ((m.tile t).testRepair && m.rd F.tileSelftestResult p == 3))
  if m.on F.tileFenceFenced p && !(m.tile t).testing && why then m.retireTile t else m

/-- REPAIR_ASSIGN (18 R430, R431): after a self-test without repair, the record and TILE_REPAIR are written and the tile is
tested again; a tile R121 reported whose F is unchanged goes back to service, the third time into retirement. -/
def opRepairAssign (t : Nat) (m : Mach) : Mach :=
  let p := tileIx t
  let ended := (m.rd F.tileSelftestResult p == 2 || m.rd F.tileSelftestResult p == 3) && !(m.tile t).testRepair
  if !(ended && m.on F.tileFenceFenced p && !(m.tile t).testing && m.tileStopped t && !m.on F.tileStRowsHiJunctionFail p) then m
  else
    let f := faultySet m t
    match assignSpares f with
    | none => m
    | some (s0, s1) =>
      if SMap.get 0 t m.test.reported ≠ 0 ∧ f = lastFaulty m t then
        let n := SMap.get 0 t ((m.test.record).getD RepairRec.empty).returns + 1
        let m1 := m.writeRecord (fun r => { r with returns := SMap.put 0 t n r.returns })
        let m2 : Mach := { m1 with test := { m1.test with reported := SMap.put 0 t 0 m1.test.reported } }
        if 3 ≤ n then m2.retireTile t else m2.send (.tell (.clearFence t))
      else
        let m1 := m.writeRecord (fun r => { r with tiles := SMap.put 0x3F3F t (entryOf s0 s1 false) r.tiles })
        let m2 : Mach := { m1 with test := { m1.test with lastF := SMap.put 0 t (f + 1) m1.test.lastF,
                                                          reported := SMap.put 0 t 0 m1.test.reported } }
        opTileSelftestGo t idHealth true (opTileRepairWrite t (s0 + 256 * s1) m2)

/-! The meanings -/

def execMarchGo (c : ClusterNo) (who : Nat) (d : Word) (s : State) := s.on (.sram (c.val / 10)) (opMarchGo c.val who d.toNat)
def execMarchTransfer (c : ClusterNo) (u : List Nat) (s : State) := s.on (.sram (c.val / 10)) (opMarchTransfer c.val u)
def execMarchAbort (c : ClusterNo) (who : Nat) (s : State) := s.on (.sram (c.val / 10)) (opMarchAbort c.val who)
def execTileFenceWrite (t : TileNo) (who : Nat) (on : Bool) (s : State) := s.on (.core (t.val / 160)) (opTileFenceWrite t.val who on)
def execTileSelftestGo (t : TileNo) (who : Nat) (r : Bool) (s : State) := s.on (.core (t.val / 160)) (opTileSelftestGo t.val who r)
def execTileSelftestEnd (t : TileNo) (rows : BitVec 50) (j : Bool) (s : State) := s.on (.core (t.val / 160)) (opTileSelftestEnd t.val rows.toNat j)
def execTileRetire (t : TileNo) (s : State) := s.on (.core (t.val / 160)) (opTileRetire t.val)
def execRepairAssign (t : TileNo) (s : State) := s.on (.core (t.val / 160)) (opRepairAssign t.val)

end Sys2Proof.Machine
end

