-- ==== Sys2Proof/Machine/Stores.lean ====
section
/-! DEFINITION. Reads and writes of the stores by network masters, whole and in order: the near tier (06), the far tier (09) and
the cluster banks (06), as one access by address. -/

namespace Sys2Proof.Machine

/-- The 64-byte units that n bytes from an address lie in. -/
def unitsOf (a n : Nat) : List Nat :=
  if n = 0 then [] else (upFrom (a / 64) ((a + n - 1) / 64 + 1 - a / 64)).map (fun i => 64 * i)

/-- Port B of a bank grants the network's queues nothing now: the emergency requester or a transfer holds it, or they are masked (06 R128;
09 R217, R218). -/
def Mach.portBBusy (m : Mach) (b : Nat) : Bool :=
  let x := m.arb (.bankB (Fin.ofNat 960 b))
  x.emergency || x.holder.isSome || x.masked % 4 != 0

/-- A network access is admitted, issued and through its window within one step: so a far channel takes it when nothing admitted before it
is left, and nothing holds its arbiter (09 R200 to R202, R207, R218; log 140). -/
def Mach.farQuiet (m : Mach) (ch : Nat) : Bool :=
  let x := m.farCh ch
  let a := m.arb (.far (Fin.ofNat 24 ch))
  x.idle && x.xfer.isNone && x.queue.isEmpty && x.mode == .normal && !x.pause && a.holder.isNone && !a.emergency

/-- How a store answers an access to a unit: it serves it, refuses it, finds no store there, or has it wait. -/
inductive Say | ok | refuse | unavail | decode | wait
  deriving DecidableEq, Repr

def Mach.unitSay (m : Mach) (who a : Nat) : Say :=
  match placeOf m.fuses a with
  | .near d o => if m.nearSay d o who = 0 then (if nearBlocked m.near.waits d who (a / 64 * 64) then .wait else .ok) else if m.nearSay d o who = 3 then .unavail else .refuse
  | .far d o =>
    let q := farIx (4 * d + farChannel o)
    if m.on F.farStatusFailed q then .unavail else if !m.on F.farCtrlAccept q && !exempt who then .unavail
    else if m.on F.farStatusTraining q || !m.farQuiet (4 * d + farChannel o) then .wait else .ok
  | .sram c o => if who ≠ idTest ∧ m.portBBusy (c * 16 + o / 0x140000) then .wait else (match bankAdm m (c * 16 + o / 0x140000) (bankWhoOf who) with
    | .ok => .ok
    | .refused => .refuse
    | .held => .wait)
  | .reg _ _ => .decode
  | .none => .decode

/-- The refusal of an access to a unit is counted and recorded where its store does so. -/
def Mach.unitRefuse (m : Mach) (who a : Nat) : Mach :=
  match placeOf m.fuses a with
  | .near d o => if m.nearSay d o who = 2 then m.ev F.nearEventsRetiredAccess d else m
  | .sram c o => m.bankRefuse (c * 16 + o / 0x140000) (bankWhoOf who)
  | _ => m

/-- How a whole access is answered: the first unit that is not served decides. -/
def Mach.spanSay (m : Mach) (who a n : Nat) : Say × Nat :=
  match (unitsOf a n).find? (fun u => m.unitSay who u != .ok) with
  | none => (.ok, 0)
  | some u => (m.unitSay who u, u)

/-- Reading a unit: its bytes, the marks REREAD 1, FAILED 2, LOST 4, error 16, and the machine after. A burst whose stored check
is bad fails its re-read too. -/
def Mach.readUnit (m : Mach) (who a : Nat) : List Byte × Nat × Mach :=
  match placeOf m.fuses a with
  | .near d o => if m.nearIsBad a then (m.bytes a 64, 2, m.nearFailed d o who) else (m.bytes a 64, 0, m)
  | .far d o => if m.farIsBad a then (m.bytes a 64, 4, (m.farReread2 (4 * d + farChannel o)).farLost (4 * d + farChannel o) (farChOffset o)) else (m.bytes a 64, 0, m)
  | .sram c o =>
    let r := m.readWord (c * 16 + o / 0x140000) a
    (r.1, if r.2.1 then 16 else 0, r.2.2)
  | _ => (m.bytes a 64, 0, m)

def Mach.readUnits (m : Mach) (who : Nat) : List Nat → List Byte × Nat × Mach
  | [] => ([], 0, m)
  | u :: l =>
    let r := m.readUnit who u
    let s := r.2.2.readUnits who l
    (r.1 ++ s.1, r.2.1 ||| s.2.1, s.2.2)

/-- n bytes from an address, once spanSay has admitted the access. -/
def Mach.readAt (m : Mach) (who a n : Nat) : List Byte × Nat × Mach :=
  let r := m.readUnits who (unitsOf a n)
  ((r.1.drop (a % 64)).take n, r.2.1, r.2.2)

/-- Writing a unit under its enables. -/
def Mach.writeUnit (m : Mach) (a : Nat) (data : List Byte) (en : List Bool) : Mach :=
  match placeOf m.fuses a with
  | .near _ _ => m.nearPut a data en false
  | .far _ _ =>
    let whole := (upFrom 0 64).all (fun i => nth false en i)
    (m.putEn a (data.take 64) (en.take 64)).setFarBad a (!whole && m.farIsBad a)
  | .sram c o => m.writeWord (c * 16 + o / 0x140000) a (data.take 64) (en.take 64)
  | _ => m

def Mach.writeUnits (m : Mach) (data : List Byte) (en : List Bool) : List Nat → Mach
  | [] => m
  | u :: l => (m.writeUnit u (data.take 64) (en.take 64)).writeUnits (data.drop 64) (en.drop 64) l

/-- Bytes written from an address up under enables, once spanSay has admitted the access. -/
def Mach.writeAtEn (m : Mach) (a : Nat) (data : List Byte) (en : List Bool) : Mach :=
  let skip := a % 64
  let n := data.length
  let tail := (64 - (skip + n) % 64) % 64
  m.writeUnits (List.replicate skip (0 : Byte) ++ data ++ List.replicate tail (0 : Byte))
    (List.replicate skip false ++ en ++ List.replicate tail false) (unitsOf a n)

def Mach.writeAt (m : Mach) (a : Nat) (data : List Byte) : Mach := m.writeAtEn a data (List.replicate data.length true)

end Sys2Proof.Machine
end

