-- ==== Sys2Proof/Machine/Inject.lean ====
section
/-! DEFINITION. How packets enter the module network (chapter 10): NIs, routes, urgency at injection, Lantern's probes, messages and the
answers that masters get. -/

namespace Sys2Proof.Machine

/-! Places of the network -/

/-- The NI a master injects from (R221, R222, Table 10-3): a die and a port. -/
def masterNi (who : Nat) : Option (Nat × Nat) :=
  let k := who % 4096
  match who / 4096 with
  | 0 => if k = 0 then some (6, 0) else none
  | 1 => if k < 4 then some (6, 1) else none
  | 2 => if k < 6 then some (k, 61) else none
  | 3 => if k < 384 then some (k / 64, 60) else none
  | 4 => if k < 192 then some (k / 32, 46 + k % 32 / 4) else none
  | 5 => if k < 96 then some (k / 16, 10 + k % 16) else none
  | 6 => if k = 0 then some (6, 7) else none
  | 7 => if k < 24 then some (k / 4, 62) else none
  | 8 => if k < 6 then some (k, 62) else none
  | 9 => if k < 36 then some (k / 6, 54 + k % 6) else none
  | 10 => if k < 6 then some (k, 63) else none
  | _ => none

/-- The port of an engine die that serves a register offset (Table 10-2); the network block has none. -/
def enginePort (o : Nat) : Option Nat :=
  match o / 0x1000000 with
  | 0 => some 61
  | 1 => if o % 0x1000000 / 0x100000 < 10 then some (o % 0x1000000 / 0x100000) else none
  | 2 => if o % 0x1000000 < 0x800000 then (if o % 0x1000000 / 0x10000 < 16 then some (10 + o % 0x1000000 / 0x10000) else none) else some 62
  | 3 => some 26
  | 4 => if o % 0x1000000 / 0x10000 < 4 then some (42 + o % 0x1000000 / 0x10000) else none
  | 6 => some 54
  | 7 => some 46
  | 8 => some 60
  | 9 => some 61
  | _ => none

/-- The keeper port that serves a register offset (R222). -/
def keeperPort (o : Nat) : Option Nat :=
  match o / 0x1000000 with
  | 0 => some 6
  | 1 => some 0
  | 2 => some 1
  | 3 => some 2
  | 4 => some 3
  | 5 => some 4
  | 6 => some 5
  | 7 => some 6
  | _ => none

/-- DEST of a module address (R221): die × 64 + port. -/
def destOf (fu : Fuses) (a : Nat) : Option Nat :=
  match placeOf fu a with
  | .near d o => some (64 * d + 26 + nearChannel o % 16)
  | .far d o => some (64 * d + 42 + farChannel o)
  | .sram c _ => some (64 * (c / 10) + c % 10)
  | .reg die o => if die = 6 then (keeperPort o).map (fun p => 384 + p) else (enginePort o).map (fun p => 64 * die + p)
  | .none => none

def niKey (die p : Nat) : Nat := 64 * die + p
def niqKey (die p net : Nat) : Nat := 4 * niKey die p + net
def qKey (die net n i : Nat) : Nat := ((die * 4 + net) * 32 + n) * 16 + i
def inKey (die q net : Nat) : Nat := (die * 8 + q) * 4 + net

def Mach.nq (m : Mach) (k : Nat) : List Packet := SMap.get [] k m.net.queues
def Mach.setNq (m : Mach) (k : Nat) (l : List Packet) : Mach := { m with net := { m.net with queues := SMap.put [] k l m.net.queues } }
def Mach.ingr (m : Mach) (k : Nat) : List Packet := SMap.get [] k m.net.ingress
def Mach.setIngr (m : Mach) (k : Nat) (l : List Packet) : Mach := { m with net := { m.net with ingress := SMap.put [] k l m.net.ingress } }
def Mach.outs (m : Mach) (k : Nat) : List Pending := SMap.get [] k m.net.outst
def Mach.setOuts (m : Mach) (k : Nat) (l : List Pending) : Mach := { m with net := { m.net with outst := SMap.put [] k l m.net.outst } }
/-- Packets that wait in an NI's injection queue, by network (R234, R240). -/
def Mach.niq (m : Mach) (k : Nat) : List Packet := SMap.get [] k m.net.waits
def Mach.setNiq (m : Mach) (k : Nat) (l : List Packet) : Mach := { m with net := { m.net with waits := SMap.put [] k l m.net.waits } }
def Mach.arrd (m : Mach) (k : Nat) : List Packet := SMap.get [] k m.net.arrived
def Mach.setArrd (m : Mach) (k : Nat) (l : List Packet) : Mach := { m with net := { m.net with arrived := SMap.put [] k l m.net.arrived } }
def Mach.tracer (m : Mach) (d : Nat) : Tracer := SMap.get Tracer.init d m.net.tracers
def Mach.setTracer (m : Mach) (d : Nat) (x : Tracer) : Mach := { m with net := { m.net with tracers := SMap.put Tracer.init d x m.net.tracers } }

/-- The network of a packet type (Table 10-4). -/
def netOf (type : Nat) : Nat := if type < 0x10 then 0 else if type < 0x20 then 3 else if type < 0x30 then 1 else 2

/-- A packet that is answered (R225). -/
def Packet.wantsRsp (p : Packet) : Bool := decide (p.type < 0x10) || (p.type == 0x10 && !p.noAck)

/-! Lantern (R241, R242) -/

/-- Payload in 64-byte units: a REQ flit carries 16 bytes, the others what LEN says. -/
def Packet.units (p : Packet) : Nat := if p.type < 0x10 then 1 else (p.len + 63) / 64

/-- Whether the bits of two numbers that are not ignored agree. -/
def agree (w a b ignore : Nat) : Bool := (a ^^^ b) &&& (2 ^ w - 1 - ignore) == 0

/-- Whether a packet matches probe k of a die at an output of a router. -/
def Mach.lanternHit (m : Mach) (d net n port : Nat) (p : Packet) (k : Nat) : Bool :=
  let q := ix d k 0 0
  m.on F.lpCtrlEn q && m.rd F.lpCtrlNet q == net && m.rd F.lpCtrlRouter q == n && m.rd F.lpCtrlPort q == port &&
  agree 16 p.src (m.rd F.lpSrcValue q) (m.rd F.lpSrcIgnore q) && agree 9 p.dest (m.rd F.lpDestValue q) (m.rd F.lpDestIgnore q) &&
  decide (m.rd F.lpCtrlUrgMin q ≤ p.urg) && (m.rd F.lpCtrlType q == 0 || m.rd F.lpCtrlType q == p.type)

/-- A trace record (Table 10-8). -/
def traceRecord (time d k net : Nat) (p : Packet) (seq : Nat) : List Byte :=
  leBytes 6 time ++ leBytes 1 (16 * d + k) ++ leBytes 1 net ++ leBytes 2 p.src ++ leBytes 2 p.dest ++ leBytes 1 p.type ++
  leBytes 1 (p.urg + 16 * p.base) ++ leBytes 2 (min 0xFFFF p.here) ++ leBytes 6 p.addr ++ leBytes 2 p.len ++ leBytes 2 p.txn ++
  leBytes 2 (p.status + 256 * (p.marks % 8)) ++ leBytes 4 seq

/-- A record enters the store of 64, or is dropped; it takes its SEQ either way (R243). -/
def Mach.traceAdd (m : Mach) (d k net : Nat) (p : Packet) : Mach :=
  let t := m.tracer d
  let time := m.rd F.lanternTimeHi d * 2 ^ 32 + m.rd F.lanternTimeLo d
  let seq := (t.seq + 1) % 2 ^ 32
  if 64 ≤ t.store.length then ((m.setTracer d { t with seq := seq }).cnt F.ltDropped d 1).ev F.nocEventsTraceDrop d
  else m.setTracer d { t with seq := seq, store := t.store ++ [traceRecord time d k net p t.seq] }

/-- A packet leaves through an output: each probe that it matches counts it (R241). -/
def Mach.lantern (m : Mach) (d net n port : Nat) (p : Packet) : Mach :=
  if 6 ≤ d then m
  else ((upFrom 0 16).filter (m.lanternHit d net n port p)).foldl (fun m k =>
    let q := ix d k 0 0
    let m1 := (m.cnt F.lpMatched q 1).cnt F.lpUnits q p.units
    let m2 := if p.urg = 15 then m1.cnt F.lpUrg15 q 1 else m1
    if m.on F.lpCtrlTrace q ∧ m.on F.ltCtrlTraceRun d then m2.traceAdd d k net p else m2) m

/-- A packet at the head of a queue for an output is not forwarded for some cycles: each probe that it matches counts them (R241). -/
def Mach.lanternWait (m : Mach) (d net n port : Nat) (p : Packet) (cycles : Nat) : Mach :=
  if 6 ≤ d then m
  else ((upFrom 0 16).filter (m.lanternHit d net n port p)).foldl (fun m k => m.cnt F.lpBlocked (ix d k 0 0) cycles) m

/-! Routes and injection (R225 to R229, R233) -/

/-- The lowest-numbered valid entry of NI q that matches DEST. -/
def Mach.routeOf (m : Mach) (d q dest : Nat) : Option Nat :=
  ((upFrom 0 64).find? (fun i => m.on F.routeValid (ix d q i 0) && agree 9 dest (m.rd F.routeMatch (ix d q i 0)) (m.rd F.routeMask (ix d q i 0)))).map
    (fun i => m.rd F.routeRouteHi (ix d q i 0) * 2 ^ 32 + m.rd F.routeRouteLo (ix d q i 0))

/-- BASE of a class. -/
def Mach.classBase (m : Mach) (d cls : Nat) : Nat :=
  if cls = 0 then m.rd F.nocUrgBaseCtrl d else if cls = 1 then m.rd F.nocUrgBaseStream d else if cls = 2 then m.rd F.nocUrgBaseGen d
  else if cls = 3 then m.rd F.nocUrgBaseBulk d else m.rd F.nocUrgBaseDiag d

/-- BASE of a packet a master injects: the class of its NI; CTRL for the keeper's processors and the host, DIAG for the test port. The
keeper die has no NOC_URG_BASE: the bases of the destination's die serve, die 0's where it has none. -/
def Mach.baseOf (m : Mach) (die port dest : Nat) : Nat :=
  if die = 6 then m.classBase (if dest / 64 < 6 then dest / 64 else 0) (if port = 7 then 4 else 0)
  else m.classBase die (m.rd F.niClassClass (ix die port 0 0))

/-- A packet a master sends. -/
def newPacket (type who srcPort dest base txn addr len : Nat) : Packet :=
  { type := type, urg := base, base := base, wait := 0, here := 0, src := who, srcPort := srcPort, dest := dest, hop := 0, noAck := false, route := 0,
    txn := txn, addr := addr, len := len, status := 0, marks := 0, data := [], en := [], mb := 0 }

/-- Pieces of an access, none across a 256-byte boundary (R225). -/
def pieces256 : Nat → Nat → Nat → List (Nat × Nat)
  | 0, _, _ => []
  | f + 1, a, len => if len = 0 then [] else let n := min len (256 - a % 256); (a, n) :: pieces256 f (a + n) (len - n)

/-- The lowest transaction numbers an NI does not use. -/
def Mach.freeTxns (m : Mach) (k n : Nat) : List Nat :=
  let used := (m.outs k).map (fun x => x.txn)
  ((upFrom 0 (used.length + n)).filter (fun t => !used.contains t)).take n

/-! Answers to masters (11 R262, R265; 12 R295) -/

def Mach.fni (m : Mach) (k : Nat) : Fni := SMap.get Fni.init k m.fab.fnis
def Mach.setFni (m : Mach) (k : Nat) (x : Fni) : Mach := { m with fab := { m.fab with fnis := SMap.put Fni.init k x m.fab.fnis } }

/-- The place of FNI k's registers. -/
def fniIx (k : Nat) : Nat := ix (k / 32) (k % 32) 0 0

/-- An FNI answers its user logic; a fenced one discards what arrives and counts it. -/
def Mach.fniAnswer (m : Mach) (k tag status : Nat) (data : List Byte) (marks : Nat) : Mach :=
  if m.on F.fniStatusFenced (fniIx k) then (m.cnt F.fniDiscarded (fniIx k) 1).ev F.fniEventsDiscarded (fniIx k)
  else
    let m1 := if status = rsTimeout then m.ev F.fniEventsTimeout (fniIx k) else m
    m1.send (.fniResp (k / 32) (k % 32) tag status data marks)

/-- A response of the network to an FNI: the tag is free again. -/
def Mach.fniRsp (m : Mach) (k txn status : Nat) (data : List Byte) (marks : Nat) : Mach :=
  let x := m.fni k
  match x.tags.find? (fun t => t.2 == some txn) with
  | none => m.send (.resp (0x4000 + k) status data marks)
  | some t => (m.setFni k { x with tags := x.tags.erase t }).fniAnswer k t.1 status data marks

/-- A slice's outbox keeps the status of its first ERROR response (12 R295). -/
def Mach.slHear (m : Mach) (k status : Nat) : Mach :=
  let x := SMap.get Slice.init k m.slices
  match x.outbox with
  | some (o, sent, 0) => { m with slices := SMap.put Slice.init k { x with outbox := some (o, sent, status) } m.slices }
  | _ => m

/-- A response to the master of a pending request; the trace writer stops on an error (R243). -/
def Mach.answer (m : Mach) (who txn status : Nat) (data : List Byte) (marks : Nat) : Mach :=
  if who / 4096 = 10 then (if status = rsOk then m else (m.wr F.ltCtrlTraceRun (who % 4096) 0).ev F.nocEventsTraceErr (who % 4096))
  else if who / 4096 = 4 then m.fniRsp (who % 4096) txn status data marks
  else if who / 4096 = 3 then (m.slHear (who % 4096) status).send (.resp who status data marks)
  else m.send (.resp who status data marks)

/-! Injection (R225, R228, R233, R235, R240) -/

/-- The queue of a router's local input that an NI feeds. -/
def localKey (die port net : Nat) : Nat := if die = 6 then qKey 6 net 0 (6 + port) else qKey die net (port / 4) (5 + port % 4)

/-- Whether a packet of an access, which takes a transaction number (R225). -/
def Packet.isAccess (p : Packet) : Bool := decide (p.type < 0x20)

/-- Whether an NI may inject a packet now: its router's input has room (R235), a request has a transaction number left (R225), and while
NOC_CTRL.RUN is 0 only responses go (R240). -/
def Mach.mayInject (m : Mach) (die port : Nat) (p : Packet) : Bool :=
  (decide (die = 6) || netOf p.type == 1 || m.on F.nocCtrlRun die) && decide ((m.nq (localKey die port (netOf p.type))).length < 8) &&
  (!p.isAccess || decide ((m.outs (niKey die port)).length < 4096))

/-- A packet enters its router's local input, its route looked up and its class's BASE taken; none where no entry matches. The transaction
number it takes stands beside. -/
def Mach.launch (m : Mach) (die port : Nat) (p : Packet) : Option (Nat × Mach) :=
  let net := netOf p.type
  let t := if p.isAccess then (m.freeTxns (niKey die port) 1).headD 0 else p.txn
  let b := if net = 1 then p.base else m.baseOf die port p.dest
  let p1 := { p with txn := t, base := b, urg := min 15 (b + (p.urg - p.base)), here := 0 }
  let k := localKey die port net
  let into (q : Packet) : Nat × Mach :=
    let m1 := m.setNq k (m.nq k ++ [q])
    (t, if p.wantsRsp then m1.setOuts (niKey die port) (m1.outs (niKey die port) ++ [⟨t, p.src, false⟩]) else m1)
  if die = 6 then some (into p1)
  else (m.routeOf die port p.dest).map (fun r =>
    let q := { p1 with route := r, hop := 0 }
    ((into q).1, (into q).2.lantern die net (port / 4) 6 q))

/-- A packet without a route is not injected: the master of a request is answered NOROUTE (R228). -/
def Mach.noRoute (m : Mach) (die : Nat) (p : Packet) : Mach :=
  let m1 := if die < 6 then m.ev F.nocEventsNoroute die else m
  if p.isAccess then m1.answer p.src p.txn rsNoRoute [] 0 else m1

/-- Packets of an NI's queue go in order, as far as they may; the rest waits. -/
def Mach.injectFrom (m : Mach) (die port : Nat) : List Packet → Mach × List Packet
  | [] => (m, [])
  | p :: l =>
    if !m.mayInject die port p then (m, p :: l)
    else match m.launch die port p with
      | none => (m.noRoute die p).injectFrom die port l
      | some (_, m1) => m1.injectFrom die port l

def Mach.niDrain (m : Mach) (die port net : Nat) : Mach :=
  let r := m.injectFrom die port (m.niq (niqKey die port net))
  r.1.setNiq (niqKey die port net) r.2

/-- A packet is handed to an NI: it joins the injection queue of its network. -/
def Mach.niSend (m : Mach) (die port : Nat) (p : Packet) : Mach :=
  let k := niqKey die port (netOf p.type)
  (m.setNiq k (m.niq k ++ [p])).niDrain die port (netOf p.type)

/-! Messages (16 R383, R384) -/

/-- A mailbox number's die, its place on that die and its owner (Table 16-4). -/
def mbOf (n : Nat) : Option (Nat × Nat × Nat) :=
  if n < 0x20 then some (6, n, n / 8)
  else if 0x100 ≤ n ∧ n < 0x130 then some ((n - 0x100) / 8, (n - 0x100) % 8, 4 + (n - 0x100) / 8)
  else none

/-- The number of an FNI's sink. -/
def isSink (n : Nat) : Bool := decide (0x8000 ≤ n) && decide (n ≤ 0x80BF)

/-- DEST of a mailbox number: the keeper's mailboxes, a steward's, an FNI's port. -/
def mailDest (n : Nat) : Option Nat :=
  match mbOf n with
  | some (d, _, _) => some (64 * d + (if d = 6 then 2 else 61))
  | none => if isSink n then some (64 * ((n - 0x8000) / 32) + 46 + (n - 0x8000) % 32 / 4) else none

/-- A packet is counted as misrouted and recorded (R230). -/
def Mach.misrouteAt (m : Mach) (d srcPort dest : Nat) : Mach :=
  (((m.cnt F.nocMisroutes d 1).wr F.nocLastErrSrcPort d srcPort).wr F.nocLastErrDest d dest).ev F.nocEventsMisroute d

/-- A message to a mailbox number sets out as one MAILBOX packet. One to a reserved number is discarded by its source NI, which counts it
as misrouted: it has no DEST, so that field of the record is a free value (log 150); the keeper's NIs have no such registers. -/
def Mach.mail (m : Mach) (src dest : Nat) (words : List Nat) : Mach :=
  match masterNi src with
  | none => m
  | some (die, port) => match mailDest dest with
    | some d => m.niSend die port { newPacket 0x30 src (niKey die port) d 0 0 0 64 with
        data := ((words ++ List.replicate 16 0).take 16).flatMap (leBytes 4), mb := dest }
    | none =>
      if die = 6 then m
      else
        let f := m.fresh 9
        f.2.misrouteAt die (niKey die port) f.1

/-- A message of a master that has not left its NI. -/
def Mach.mailWaits (m : Mach) (src : Nat) : Bool :=
  match masterNi src with
  | some (die, port) => (m.niq (niqKey die port 2)).any (fun p => p.src == src)
  | none => false

end Sys2Proof.Machine
end

