-- ==== Sys2Proof/Machine/Firmware.lean ====
section
/-! DEFINITION. The firmware processors and mailboxes of chapter 16. -/

namespace Sys2Proof.Machine

/-! What other chapters need of the host link -/

/-- Microseconds since module reset (log 1): a tick is 400 ps. -/
def Mach.usec (m : Mach) : Nat := m.ticks / 2500

/-- The microseconds of a processor's own clock (16 R376; 00 R3): a steward's is a quarter of its die's NOC clock, the others' the
KEEPER clock. -/
def Mach.procUsec (m : Mach) (p : Nat) : Nat := if p < 4 then m.usec else SMap.get 0 (p - 4) m.nocCycle / 2000

/-- An event for the host is queued, up to 64 of them (15 R372). -/
def Mach.hostEvent (m : Mach) (kind tag arg : Nat) : Mach :=
  if 64 ≤ m.hl.events.length then m else { m with hl := { m.hl with events := m.hl.events ++ [⟨kind, tag, arg⟩] } }

def Mach.io (m : Mach) (k : Nat) : Io := SMap.get Io.none k m.hl.io
def Mach.setIo (m : Mach) (k : Nat) (x : Io) : Mach := { m with hl := { m.hl with io := SMap.put Io.none k x m.hl.io } }

/-- The requests that cover len bytes of a window: at most 4,096 bytes each, none across a 4 KiB boundary (15 R358). -/
def spans : Nat → Nat → Nat → List (Nat × Nat)
  | 0, _, _ => []
  | f + 1, off, len =>
    if len = 0 then []
    else
      let n := min len (4096 - off % 4096)
      (off, n) :: spans f (off + n) (len - n)

def spansOf (off len : Nat) : List (Nat × Nat) := spans (len / 4096 + 2) off len

/-- Reads of host memory are asked for under a key. -/
def Mach.askRead (m : Mach) (idx key win off len : Nat) : Mach :=
  let rs := (spansOf off len).map (fun x => HostReq.mk idx win x.1 none x.2 (.io key))
  let m1 : Mach := { m with hl := { m.hl with waiting := m.hl.waiting ++ rs } }
  m1.setIo key { m.io key with waits := (m.io key).waits + rs.length }

/-- Writes to host memory are asked for under a key. -/
def Mach.askWrite (m : Mach) (idx key win off : Nat) (data : List Byte) : Mach :=
  let rs := (spansOf off data.length).map (fun x => HostReq.mk idx win x.1 (some ((data.drop (x.1 - off)).take x.2)) x.2 (.io key))
  let m1 : Mach := { m with hl := { m.hl with waiting := m.hl.waiting ++ rs } }
  m1.setIo key { m.io key with waits := (m.io key).waits + rs.length }

/-! Processors -/

/-- A processor's identity and its register place (16 Table 16-1). -/
def procId (p : Nat) : Nat := if p < 4 then 0x1000 + p else idSteward (p - 4)
def procIx (p : Nat) : Nat := if p < 4 then ix 6 p 0 0 else ix (p - 4) 0 0 0
def procDie (p : Nat) : Nat := if p < 4 then 6 else p - 4
def procRole (p : Nat) : Nat := if p < 4 then p else 4

def stBooting : Nat := 1
def stRunning : Nat := 2

def Mach.procUp (m : Mach) (p : Nat) : Bool := m.rd F.fwStatusState (procIx p) == stRunning
def Mach.proc (m : Mach) (p : Nat) : Proc := SMap.get Proc.init p m.fw.procs
def Mach.setProc (m : Mach) (p : Nat) (x : Proc) : Mach := { m with fw := { m.fw with procs := SMap.put Proc.init p x m.fw.procs } }

/-! Mailboxes (16 R383 to R390) -/

def mbPlace (die j : Nat) : Nat := ix die j 0 0
def mbWordPlace (die j w : Nat) : Nat := ix die j w 0

/-- Where a notice about a message of a sender goes (Table 16-5): a mailbox, or a send port. -/
inductive NoticeTo | box (n : Nat) | port (p : Nat) | none
  deriving DecidableEq, Repr

def noticeTo (src : Nat) : NoticeTo :=
  if src = idHost then .port 0 else if src = idTest then .port 1
  else if 0x1000 ≤ src ∧ src < 0x1004 then .box (8 * (src - 0x1000) + 7)
  else if 0x2000 ≤ src ∧ src < 0x2006 then .box (0x100 + 8 * (src - 0x2000) + 7)
  else if 0x4000 ≤ src ∧ src < 0x40C0 then .box (0x8000 + (src - 0x4000))
  else if 0x3000 ≤ src ∧ src < 0x3180 then .box (0x100 + 8 * ((src - 0x3000) / 64) + 7)
  else if 0x5000 ≤ src ∧ src < 0x5060 then .box (0x100 + 8 * ((src - 0x5000) / 16) + 7)
  else if 0x7000 ≤ src ∧ src < 0x7018 then .box (0x100 + 8 * ((src - 0x7000) / 4) + 7)
  else if 0x9000 ≤ src ∧ src < 0x9024 then .box (0x100 + 8 * ((src - 0x9000) / 6) + 7)
  else .none

/-- A notice's words (Table 16-6). cause: 1 RESET, 2 CLOSED. -/
def noticeWords (n cause sender : Nat) (words : List Nat) : List Nat :=
  [n + 0x200000 + cause * 0x1000000, sender] ++ words.take 8 ++ List.replicate 6 0

/-- Whether a mailbox stores what arrives (16 R387). -/
def Mach.mbOpen (m : Mach) (die j owner : Nat) : Bool := bitOf j (m.rd F.mbOpen die) && m.procUp owner

/-- The stored words of a mailbox are written. -/
def Mach.mbStore (m : Mach) (die j : Nat) : Nat → List Nat → Mach
  | _, [] => m
  | w, x :: l => (m.wr F.mbData (mbWordPlace die j w) x).mbStore die j (w + 1) l

/-- A message arrives at a processor's mailbox: 0 stored, or discarded (16 R385 to R387). -/
def Mach.mbArrive (m : Mach) (n : Nat) (src : Nat) (words : List Nat) : Mach × Bool :=
  match mbOf n with
  | none => (m, false)
  | some (die, j, owner) =>
    let p := mbPlace die j
    if !m.mbOpen die j owner then (m, false)
    else
      let m1 := if m.on F.mbStatusFull p then (m.wr F.mbStatusCollide p 1).cnt F.mbOverwrites p 1 else m
      let m2 := (((m1.mbStore die j 0 words).wr F.mbStatusSender p src).wr F.mbStatusFull p 1).orIn F.mbDoorbell die (2 ^ j)
      let l := SMap.get (MbLatch.mk [] 0 false) n m2.fw.latches
      ({ m2 with fw := { m2.fw with latches := SMap.put (MbLatch.mk [] 0 false) n { l with since := true } m2.fw.latches } }, true)

/-- A notice is delivered by hardware; one that is lost brings no further notice (16 R388). A notice for an FNI's sink goes on its
way as a message. -/
def Mach.notice (m : Mach) (n receiver cause src : Nat) (words : List Nat) : Mach :=
  match noticeTo src with
  | .none => m
  | .port p => m.wr F.mbSendState (ix 6 p 0 0) 2
  | .box b =>
    let ws := noticeWords n cause src words
    if isSink b then { m with fw := { m.fw with mails := m.fw.mails ++ [⟨receiver, b, ws, true⟩] } }
    else (m.mbArrive b receiver ws).1

/-- Whether a message that has reached its port may go to its receiver next: none before it came from its NI to its port (16 R384, 10 R238). -/
def mayArrive (l : List Mail) (i : Nat) : Bool :=
  match l[i]? with
  | none => false
  | some x => !(l.take i).any (fun y => masterNi y.src == masterNi x.src && mailDest y.dest == mailDest x.dest)

/-- The held write of word 15 of a send port goes through once its earlier message has left (16 R389). -/
def Mach.sendRelease (m : Mach) (src : Nat) : Mach :=
  let port := if src = idHost then 0 else 1
  if src ≠ idHost ∧ src ≠ idTest then m
  else match SMap.get [] port m.fw.sendHeld with
    | [] => m
    | ws =>
      if m.mailWaits src then m
      else
        let dest := m.rd F.mbSendDest (ix 6 port 0 0)
        let m1 : Mach := { m with fw := { m.fw with sendHeld := SMap.put [] port [] m.fw.sendHeld } }
        ((m1.mail src dest ws).wr F.mbSendState (ix 6 port 0 0) (if (mbOf dest).isSome || isSink dest then 1 else 3)).respond src rsOk

/-- MAILBOX (16 R385 to R388): a message that has reached a processor's port goes to its mailbox; at a closed mailbox it is lost and its sender notified. -/
def opMailbox (i : Nat) (m : Mach) : Mach :=
  if !mayArrive m.fw.mails i then m
  else match m.fw.mails[i]? with
    | none => m
    | some x =>
      match mbOf x.dest with
      | none => m
      | some (_, _, owner) =>
        let m1 : Mach := { m with fw := { m.fw with mails := dropNth m.fw.mails i } }
        let r := m1.mbArrive x.dest x.src x.words
        if r.2 || x.notice then r.1 else r.1.notice x.dest (procId owner) 2 x.src x.words

/-- MAILBOX_READ_WORD0 (16 R385): the owner's read latches the message. -/
def opMailboxReadWord0 (n who : Nat) (m : Mach) : Mach :=
  match mbOf n with
  | none => m
  | some (die, j, owner) =>
    let w0 := m.rd F.mbData (mbWordPlace die j 0)
    let out := m.send (.resp who rsOk (leBytes 4 w0) 0)
    if who = procId owner then
      let l : MbLatch := { words := (upFrom 0 16).map (fun w => m.rd F.mbData (mbWordPlace die j w)), sender := m.rd F.mbStatusSender (mbPlace die j),
                           since := false }
      { out with fw := { out.fw with latches := SMap.put (MbLatch.mk [] 0 false) n l out.fw.latches } }
    else out

/-- HEALTH has read the request of mailbox 24: a reserved KIND of Table 17-5 is REFUSED (17 R402). The other KINDs are rows of their own. -/
def Mach.kindRead (m : Mach) (n kind : Nat) : Mach :=
  if n = 24 ∧ 4 ≤ kind ∧ kind < 16 then (m.wr F.vigilReqResultCode 6 2).wr F.vigilReqResultKind 6 kind else m

/-- MAILBOX_READ_WORD15: the owner's read returns the latched word and clears FULL unless a message has arrived since. -/
def opMailboxReadWord15 (n who : Nat) (m : Mach) : Mach :=
  match mbOf n with
  | none => m
  | some (die, j, owner) =>
    let l := SMap.get (MbLatch.mk [] 0 false) n m.fw.latches
    if who = procId owner then
      let out := (m.send (.resp who rsOk (leBytes 4 (nth 0 l.words 15)) 0)).kindRead n (nth 0 l.words 0 % 256)
      if l.since then out else out.wr F.mbStatusFull (mbPlace die j) 0
    else m.send (.resp who rsOk (leBytes 4 (m.rd F.mbData (mbWordPlace die j 15))) 0)

/-- SEND_PORT_SEND (16 R389). -/
def opSendPortSend (port who w15 : Nat) (m : Mach) : Mach :=
  let src := if port = 0 then idHost else idTest
  let p := ix 6 port 0 0
  if who ≠ src then m.respond who rsRefused
  else
    let m0 := m.wr F.mbSendData (ix 6 port 15 0) w15
    let ws := (upFrom 0 16).map (fun w => m0.rd F.mbSendData (ix 6 port w 0))
    if m0.mailWaits src then
      { m0 with fw := { m0.fw with sendHeld := SMap.put [] port ws m0.fw.sendHeld } }
    else
      let dest := m0.rd F.mbSendDest p
      ((m0.mail src dest ws).wr F.mbSendState p (if (mbOf dest).isSome || isSink dest then 1 else 3)).respond who rsOk

/-! Boot and crash (16 R377 to R382) -/

def bootOrder : List Nat := [3, 0, 1, 2, 4, 5, 6, 7, 8, 9]

/-- The memory of a processor, code and data. -/
def procMem (p : Nat) : Nat := if p < 4 then 768 * 1024 else 1280 * 1024

def FwImage.version (x : FwImage) : Nat := leNat ((x.msg.drop 8).take 4)
def FwImage.release (x : FwImage) : Nat := leNat ((x.msg.drop 12).take 4)
def FwImage.len (x : FwImage) : Nat := leNat ((x.msg.drop 16).take 4)

/-- MAGIC, FORMAT and ROLE are correct and LENGTH fits. -/
def FwImage.headerOk (x : FwImage) (role mem : Nat) : Bool :=
  leNat (x.msg.take 4) == 0x57463654 && leNat ((x.msg.drop 4).take 1) == role && leNat ((x.msg.drop 5).take 1) == 1 && decide (x.len ≤ mem)

/-- The integrator key as bytes, when it is fused. -/
def Mach.sigOk (m : Mach) (x : FwImage) : Bool :=
  x.vendorOk && (match m.fuses.intKey with
    | none => true
    | some k => Config.verify (k.flatMap (leBytes 4)) x.msg x.integSig == 1)

/-- Why an image does not boot: 0 it does, 1 header, 2 signature, 3 release; ref is none while none is latched. -/
def Mach.imageFault (m : Mach) (p : Nat) (ref : Option Nat) (x : Option FwImage) : Nat :=
  match x with
  | none => 1
  | some x =>
    if !x.headerOk (procRole p) (procMem p) then 1
    else if !m.sigOk x then 2
    else match ref with
      | none => 0
      | some r => if x.release = r then 0 else 3

def Mach.slot (m : Mach) (role s : Nat) : Option FwImage := SMap.get none (2 * role + s) m.fw.flash

/-- Writing a processor's digest registers. -/
def Mach.putDigest (m : Mach) (p : Nat) (d : List Byte) : Mach :=
  (upFrom 0 16).foldl (fun m w => m.wr F.digest (ix 6 p w 0) (leNat ((d.drop (4 * w)).take 4))) m

/-- A processor runs an image from a slot. -/
def Mach.startImage (m : Mach) (p s : Nat) (x : FwImage) : Mach :=
  let q := procIx p
  let m1 := ((((m.wr F.fwStatusState q stRunning).wr F.fwStatusSlot q s).wr F.fwStatusFail q 0).wr F.fwVersion q x.version).putDigest p
    (sha512 x.msg)
  ({ m1 with fw := { m1.fw with lastSlot := SMap.put 0 (procRole p) s m1.fw.lastSlot } } : Mach).setProc p
    { m1.proc p with started := m1.procUsec p, useLast := false, trace := [], kicked := m1.procUsec p }

def Mach.bootFailed (m : Mach) (p cause : Nat) : Mach := (m.wr F.fwStatusState (procIx p) 4).wr F.fwStatusFail (procIx p) cause

/-- The processors before one in the boot engine's order have had their turn. -/
def Mach.bootTurn (m : Mach) (p : Nat) : Bool :=
  ((bootOrder.takeWhile (fun q => q != p)).all (fun q => m.rd F.fwStatusState (procIx q) != 0))

/-- The boot engine's part of BOOT (16 R378, R381): a processor in RESET, in its turn, or BOOTING after a crash. -/
def bootProc (p : Nat) (m : Mach) : Mach :=
  let q := procIx p
  let st := m.rd F.fwStatusState q
  if !((st = 0 ∧ m.bootTurn p) ∨ st = stBooting) then m
  else
    let role := procRole p
    let first := if (m.proc p).useLast then m.rd F.fwStatusSlot q else SMap.get 0 role m.fw.prefer
    let ref := if m.fw.refLatched then some (m.rd F.fwReleaseRef 6) else none
    let f1 := m.imageFault p ref (m.slot role first)
    let f2 := m.imageFault p ref (m.slot role (1 - first))
    let pick := if f1 = 0 then some (first, m.slot role first) else if f2 = 0 then some (1 - first, m.slot role (1 - first)) else none
    match pick with
    | some (s, some x) =>
      let m1 := m.startImage p s x
      if p = 3 ∧ !m.fw.refLatched then
        let m2 : Mach := { m1 with fw := { m1.fw with refLatched := true } }
        let m3 := m2.wr F.fwReleaseRef 6 x.release
        (bootOrder.drop 1).foldl (fun m r => m.wr F.fwStatusState (procIx r) 0) m3
      else m1
    | _ =>
      let m1 := m.bootFailed p f2
      if p = 3 ∧ !m.fw.refLatched then (bootOrder.drop 1).foldl (fun m r => m.bootFailed r 3) m1 else m1

/-- Full mailboxes of a processor are cleared and their senders notified (16 R381, R387); how many. -/
def Mach.clearBoxes (m : Mach) (p : Nat) : List Nat → Nat → Mach × Nat
  | [], k => (m, k)
  | n :: l, k =>
    match mbOf n with
    | none => m.clearBoxes p l k
    | some (die, j, _) =>
      let q := mbPlace die j
      if m.on F.mbStatusFull q then
        let words := (upFrom 0 16).map (fun w => m.rd F.mbData (mbWordPlace die j w))
        let m1 := (m.wr F.mbStatusFull q 0).notice n (procId p) 1 (m.rd F.mbStatusSender q) words
        m1.clearBoxes p l (k + 1)
      else m.clearBoxes p l k

/-- The mailbox numbers of a processor. -/
def boxesOf (p : Nat) : List Nat := if p < 4 then upFrom (8 * p) 8 else upFrom (0x100 + 8 * (p - 4)) 8

/-- The bits of MB_OPEN that a processor's mailboxes have. -/
def openMask (p : Nat) : Nat := if p < 4 then 0xFF * 2 ^ (8 * p) else 0xFF

/-- A crash (16 R380 to R382). -/
def Mach.crash (m : Mach) (p cause pc addr : Nat) : Mach :=
  if !m.procUp p then m
  else
    let q := procIx p
    let x := m.proc p
    let open0 := m.rd F.mbOpen (procDie p)
    let m0 := ((m.wr F.mbOpen (procDie p) (open0 - (open0 &&& openMask p))).wr F.fwStatusState q stBooting).wr F.fwStatusReady q 0
    let c := m0.clearBoxes p (boxesOf p) 0
    let trace := (List.replicate 8 0 ++ x.trace).drop x.trace.length
    let rec_ : List Nat :=
      [m.fw.crashSeq, p + 256 * cause + 65536 * m.rd F.fwStatusSlot q, pc, addr, m.rd F.fwVersion q, (m.procUsec p - x.started) / 1000,
       satAdd32 x.total 1, c.2] ++ trace
    let m1 := c.1.cnt F.fwRestarts q 1
    let m2 : Mach := { m1 with fw := { m1.fw with log := SMap.put [] (m.fw.crashSeq % 64) rec_ m1.fw.log, crashSeq := m.fw.crashSeq + 1 } }
    let m3 := (m2.hostEvent 2 p m.fw.crashSeq).putDigest p []
    let recent := (m.usec :: x.crashes).filter (fun t => decide (m.usec < t + 10000000))
    let m4 := m3.setProc p { x with crashes := recent, useLast := cause != 5, total := satAdd32 x.total 1 }
    if 4 ≤ recent.length then m4.wr F.fwStatusState q 3 else m4

/-- WATCHDOG_EXPIRY (16 R380): FW_WDT.MS ms of the processor's own clock have passed without a kick. -/
def opWatchdogExpiry (p pc : Nat) (m : Mach) : Mach :=
  if m.procUsec p < (m.proc p).kicked + 1000 * m.rd F.fwWdtMs (procIx p) then m else m.crash p 1 pc 0

def opProcessorCrash (p cause pc addr : Nat) (m : Mach) : Mach := m.crash p cause pc (if cause = 3 then addr else 0)

/-- Who may write FW_CTRL and FW_WDT (16 R393). -/
def fwWriter (who : Nat) : Bool := who == idHealth || who == idHost || who == idTest

def opFwCtrlRestart (p who pc : Nat) (m : Mach) : Mach :=
  if fwWriter who then (m.crash p 5 pc 0).respond who rsOk else m.respond who rsRefused

/-- FW_CTRL_RELEASE_HOLD (16 R378, R382): a HELD processor boots again; for HEALTH a failed boot is repeated. -/
def opFwCtrlReleaseHold (p who : Nat) (m : Mach) : Mach :=
  let q := procIx p
  if !fwWriter who then m.respond who rsRefused
  else
    let m1 := m.respond who rsOk
    if m.rd F.fwStatusState q = 3 then (m1.wr F.fwStatusState q stBooting).setProc p { m.proc p with crashes := [], useLast := false }
    else if p = 3 ∧ m.rd F.fwStatusState q = 4 then m1.wr F.fwStatusState q stBooting
    else m1

/-- FW_KICK: by the processor itself (16 R380, R393); its watchdog restarts. -/
def opFwKick (p who : Nat) (m : Mach) : Mach :=
  if who = procId p then (m.setProc p { m.proc p with kicked := m.procUsec p }).respond who rsOk else m.respond who rsRefused

/-! Updates, attestation, keys (16 R391, R392, R395) -/

def updKey (role : Nat) : Nat := 2 ^ 40 + role

/-- FW_UPDATE: HEALTH asks for the image and, when it has come, checks it and writes it to the slot that did not boot last. -/
def opFwUpdate (role win off len : Nat) (m : Mach) : Mach :=
  let q := 6
  if !m.procUp 3 then m
  else if m.rd F.fwUpdateStatusState q ≠ 1 then ((m.wr F.fwUpdateStatusState q 1).setIo (updKey role) Io.none).askRead 3 (updKey role) win off len
  else
    let x := m.io (updKey role)
    if x.waits ≠ 0 then m
    else
      let bad (m : Mach) (r : Nat) : Mach := (m.wr F.fwUpdateStatusState q 3).wr F.fwUpdateStatusReason q r
      let m0 := m.setIo (updKey role) Io.none
      if x.fail || decide (x.buf.length < 256) then bad m0 3
      else
        let body := (x.buf.drop 256)
        let msg := x.buf.take 24 ++ body
        let vsig := (x.buf.drop 24).take 64
        let img : FwImage := { msg := msg, vendorOk := Config.verify (leBytes 32 Config.vendorKey.toNat) msg vsig == 1,
                               integSig := (x.buf.drop 88).take 64 }
        let mem := if role < 4 then procMem 0 else procMem 4
        if !(img.headerOk role mem && img.len == body.length) then bad m0 1
        else if !m0.sigOk img then bad m0 2
        else
          let s := 1 - SMap.get 0 role m0.fw.lastSlot
          ({ m0 with fw := { m0.fw with flash := SMap.put none (2 * role + s) (some img) m0.fw.flash, prefer := SMap.put 0 role s m0.fw.prefer } } :
            Mach).wr F.fwUpdateStatusState q 2

/-- ATTEST_GO: ignored while BUSY; the nonce is taken as it stands. -/
def opAttestGo (who : Nat) (m : Mach) : Mach :=
  let m1 := m.respond who rsOk
  if m1.on F.attestStatusBusy 6 then m1
  else
    let n := (upFrom 0 8).map (fun w => m1.rd F.attestNonce (ix 6 w 0 0))
    ({ m1 with fw := { m1.fw with nonce := n } } : Mach).wr F.attestStatusBusy 6 1 |>.wr F.attestStatusReady 6 0

/-- The 736 signed bytes of a report (Table 16-7). -/
def attestBody (m : Mach) : List Byte :=
  leBytes 4 0x41543654 ++ leBytes 2 1 ++ leBytes 1 (b2n m.fuses.intKey.isSome) ++ leBytes 1 0 ++ leBytes 8 m.fuses.serial ++
  leBytes 1 (m.rd F.keeperDieIdStepping 6) ++ leBytes 1 m.fuses.farGib ++ leBytes 2 0 ++ leBytes 4 (m.rd F.fwReleaseRef 6) ++
  leBytes 4 (m.rd F.cfgDesignId 6) ++ leBytes 4 m.fw.crashSeq ++ m.fw.nonce.flatMap (leBytes 4) ++
  (upFrom 0 10).flatMap (fun p => (upFrom 0 16).flatMap (fun w => leBytes 4 (m.rd F.digest (ix 6 p w 0)))) ++
  (upFrom 0 8).flatMap (fun w => leBytes 4 (m.rd F.idPub (ix 6 w 0 0)))

/-- ATTEST_READY: the report is complete. -/
def opAttestReady (m : Mach) : Mach :=
  if !m.on F.attestStatusBusy 6 then m
  else
    let body := attestBody m
    let all := body ++ leBytes 64 (Config.identitySign body).toNat
    let ws := (upFrom 0 200).map (fun i => leNat ((all.drop (4 * i)).take 4))
    (({ m with fw := { m.fw with report := ws } } : Mach).wr F.attestStatusBusy 6 0).wr F.attestStatusReady 6 1

/-- INT_KEY_FUSE: the test port, once. -/
def opIntKeyFuse (who : Nat) (m : Mach) : Mach :=
  if who ≠ idTest ∨ m.fuses.intKey.isSome then m.respond who rsRefused
  else
    let k := (upFrom 0 8).map (fun w => m.rd F.intKey (ix 6 w 0 0))
    ({ m with fuses := { m.fuses with intKey := some k } } : Mach).wr F.keyStatusIntKeyPresent 6 1 |>.respond who rsOk

/-- The domains of a mailbox number and of a message on its way: its owner's. -/
def boxDom (n : Nat) : Dom :=
  match mbOf n with
  | some (_, _, owner) => procDom owner
  | none => .keeper

def mailDom (m : Mach) (i : Nat) : Dom :=
  match m.fw.mails[i]? with
  | some x => boxDom x.dest
  | none => .keeper

/-! The meanings -/

def execWatchdogExpiry (p : ProcNo) (pc : Word) (s : State) := s.on (procDom p.val) (opWatchdogExpiry p.val pc.toNat)
def execProcessorCrash (p : ProcNo) (c : Fin 3) (pc addr : Word) (s : State) := s.on (procDom p.val) (opProcessorCrash p.val (c.val + 2) pc.toNat addr.toNat)
def execFwCtrlRestart (p : ProcNo) (who : Nat) (pc : Word) (s : State) := s.on (procDom p.val) (opFwCtrlRestart p.val who pc.toNat)
def execFwCtrlReleaseHold (p : ProcNo) (who : Nat) (s : State) := s.on (procDom p.val) (opFwCtrlReleaseHold p.val who)
def execFwKick (p : ProcNo) (who : Nat) (s : State) := s.on (procDom p.val) (opFwKick p.val who)
def execMailbox (i : Nat) (s : State) := s.on (mailDom s.m i) (opMailbox i)
def execMailboxReadWord0 (n who : Nat) (s : State) := s.on (boxDom n) (opMailboxReadWord0 n who)
def execMailboxReadWord15 (n who : Nat) (s : State) := s.on (boxDom n) (opMailboxReadWord15 n who)
def execSendPortSend (p : Fin 2) (who : Nat) (w : Word) (s : State) := s.on .keeper (opSendPortSend p.val who w.toNat)
def execFwUpdate (r : Fin 5) (w : Fin 16) (off len : Nat) (s : State) := s.on .keeper (opFwUpdate r.val w.val off len)
def execAttestGo (who : Nat) (s : State) := s.on .keeper (opAttestGo who)
def execAttestReady (s : State) := s.on .keeper opAttestReady
def execIntKeyFuse (who : Nat) (s : State) := s.on .keeper (opIntKeyFuse who)

end Sys2Proof.Machine
end

