-- ==== Sys2Proof/Machine/HostLink.lean ====
section
/-! DEFINITION. The USB function, the Peneb messages, windows, proxy pipe and rings of chapter 15. -/

namespace Sys2Proof.Machine

/-- The keeper die's place, and those of a window, a submission and a completion ring. -/
def kp : Nat := 6
def winIx (w : Nat) : Nat := ix 6 w 0 0
def ringIx (r : Nat) : Nat := ix 6 r 0 0

def Mach.absent (m : Mach) : Bool := m.on F.hlStatusHostAbsent kp
def Mach.attached (m : Mach) : Bool := m.on F.hlStatusAttached kp

/-- High-Speed: management traffic alone (15 R357). -/
def Mach.highSpeed (m : Mach) : Bool := m.rd F.hlStatusSpeed kp == 1

/-- A message to the host. -/
def Mach.peneb (m : Mach) (type status tag win arg : Nat) (data : List Byte) : Mach := m.send (.peneb type status tag win arg data)

/-- A REG_ACK on the command pipe: OK 0 or REFUSED 1 or MALFORMED 2, with the command's TAG, WINDOW and ARG (15 Tables 15-2, 15-3). -/
def Mach.regAck (m : Mach) (tag win arg status : Nat) : Mach := m.peneb 0xA5 status tag win arg []

/-! Completion records (15 R369 to R371) -/

def cqSize (m : Mach) (r : Nat) : Nat := 2 ^ m.rd F.cqLog2 (ringIx r)
def sqSize (m : Mach) (r : Nat) : Nat := 2 ^ m.rd F.sqLog2 (ringIx r)

/-- Records of a ring whose write is not acknowledged. -/
def recsOut (m : Mach) (r : Nat) : Nat := (m.hl.recs.filter (fun c => c.ring == r)).length

def sub32 (a b : Nat) : Nat := (a + 2 ^ 32 - b % 2 ^ 32) % 2 ^ 32

/-- Room for one more record in a ring (15 R371). -/
def Mach.cqRoom (m : Mach) (r : Nat) : Bool :=
  decide (sub32 (m.rd F.cqTail (ringIx r) + recsOut m r) (m.rd F.cqHead (ringIx r)) < cqSize m r) && m.on F.cqEn (ringIx r)

/-- A record enters the held store, or is lost (15 R371). -/
def Mach.holdRec (m : Mach) (c : CRec) : Mach :=
  if 4096 ≤ m.hl.held.length then (m.cnt F.hlHeldLost kp 1).ev F.hlEventsHeldOverflow kp
  else { m with hl := { m.hl with held := m.hl.held ++ [c] } }

/-- RING can post: RUN, not absent, the processor up. -/
def Mach.ringPosts (m : Mach) : Bool := m.on F.hlCtrlRun kp && !m.absent && m.procUp 0

/-- A record is written to its ring: record k at position k mod SIZE, with its phase (15 R369). -/
def Mach.writeRec (m : Mach) (c : CRec) : Mach :=
  let q := ringIx c.ring
  let k := m.rd F.cqTail q + recsOut m c.ring
  let n := cqSize m c.ring
  let phase : Byte := if k / n % 2 = 0 then 1 else 0
  let r := HostReq.mk 0 (m.rd F.cqWin q) (64 * m.rd F.cqOff q + 32 * (k % n)) (some (c.bytes.take 31 ++ [phase])) 32 (.record c.ring)
  { m with hl := { m.hl with waiting := m.hl.waiting ++ [r], recs := m.hl.recs ++ [c] } }

/-- COMPLETION_RECORD_WRITE: a held record that has room goes first; else the next record formed is written or held. -/
def opCompletionRecordWrite (m : Mach) : Mach :=
  let can (m : Mach) (c : CRec) : Bool := m.ringPosts && m.cqRoom c.ring
  match m.hl.held.find? (can m) with
  | some c => ({ m with hl := { m.hl with held := m.hl.held.erase c } } : Mach).writeRec c
  | none => match m.hl.formed with
    | [] => m
    | c :: l =>
      let m1 : Mach := { m with hl := { m.hl with formed := l } }
      if can m1 c && !m.hl.held.any (fun h => h.ring == c.ring) then m1.writeRec c else m1.holdRec c

/-- A record of Table 15-6a is formed; a descriptor whose completion ring is not enabled yields none. -/
def Mach.formRec (m : Mach) (sq cq descId : Nat) (endEvent : Bool) (jobId status detail kind flags evNo lost : Nat) : Mach :=
  if decide (64 ≤ cq) || !m.on F.cqEn (ringIx cq) then m.cnt F.hlHeldLost kp 1
  else
    let b := leBytes 8 descId ++ leBytes 4 jobId ++ leBytes 1 status ++ leBytes 1 detail ++ leBytes 1 kind ++ leBytes 1 sq ++
      leBytes 4 flags ++ leBytes 4 evNo ++ leBytes 4 lost ++ leBytes 2 (m.rd F.sqHead (ringIx sq)) ++ [0, 0]
    { m with hl := { m.hl with formed := m.hl.formed ++ [⟨cq, b, endEvent⟩] } }

/-! Descriptors (15 R366) -/

def dsc (b : List Byte) (off n : Nat) : Nat := leNat ((b.drop off).take n)
def dsOpcode (b : List Byte) : Nat := dsc b 0 1
def dsCq (b : List Byte) : Nat := dsc b 2 1
def dsClass (b : List Byte) : Nat := dsc b 3 1
def dsPlan (b : List Byte) : Nat := dsc b 4 4
def dsId (b : List Byte) : Nat := dsc b 8 8
def dsRate (b : List Byte) : Nat := dsc b 16 4
def dsDeadline (b : List Byte) : Nat := dsc b 20 4
def dsBurst (b : List Byte) : Nat := dsc b 24 2
def dsWin (b : List Byte) : Nat := dsc b 26 1
def dsTrapWin (b : List Byte) : Nat := dsc b 27 1
def dsArg (b : List Byte) : Nat := dsc b 28 4
def dsEvents (b : List Byte) : Nat := dsc b 32 4
def dsCount (b : List Byte) : Nat := dsc b 36 4
def dsOff (b : List Byte) : Nat := dsc b 40 8
def dsTrapOff (b : List Byte) : Nat := dsc b 48 8
def dsOnEnd (b : List Byte) : Bool := bitOf 0 (dsc b 1 1)

/-- The byte ranges of Table 15-5 that an opcode does not use. -/
def dsUnused (b : List Byte) : List (Nat × Nat) :=
  let tail := (56, 8)
  match dsOpcode b with
  | 0 => [(3, 1), (4, 4), (16, 48)]
  | 1 =>
    (if dsClass b = 0 then [] else [(20, 4), (24, 2)]) ++ (if dsClass b = 2 then [(16, 4)] else []) ++ [tail]
  | 2 => [(3, 1), (4, 4), (16, 10), (27, 9), (48, 16)]
  | 3 => [(3, 1), (16, 48)]
  | 4 => [(3, 1), (4, 4), (16, 12), (32, 32)]
  | _ => [(3, 1), (16, 10), (27, 1), (32, 8), (48, 16)]

/-- DETAIL 0x80: a reserved OPCODE or class, or an unused field that is not 0 (Table 15-9). -/
def dsBad (b : List Byte) : Bool :=
  decide (6 < dsOpcode b) || decide (1 < dsc b 1 1) || (dsOpcode b == 1 && decide (2 < dsClass b)) ||
  (dsUnused b).any (fun r => dsc b r.1 r.2 != 0)

/-- The END record of a descriptor that is no job. -/
def Mach.endTicket (m : Mach) (t : Ticket) (jobId status detail : Nat) : Mach :=
  let b := t.bytes
  let m1 : Mach := { m with hl := { m.hl with tickets := m.hl.tickets.filter (fun x => x.no != t.no) } }
  (m1.setIo (2 * t.no) Io.none).formRec t.sq (dsCq b) (dsId b) (dsOnEnd b) jobId status detail 2 0 0xFFFFFFFF 0

/-- A fetched descriptor arrives (15 R365); one that cannot be acted on at all ends ABORTED. -/
def Mach.arriveDesc (m : Mach) (ring : Nat) (bytes : List Byte) : Mach :=
  let q := ringIx ring
  let t : Ticket := { no := m.hl.nextTicket, sq := ring, bytes := bytes, begun := false }
  let m1 := ({ m with hl := { m.hl with nextTicket := m.hl.nextTicket + 1, tickets := m.hl.tickets ++ [t] } } : Mach).wr F.sqHead q
    (m.rd F.sqHead q + 1)
  if dsBad bytes then m1.endTicket t 0 stAborted 0x80 else m1

/-- The oldest fetched descriptor of an opcode. -/
def Mach.ticketOf (m : Mach) (op : Nat) : Option Ticket := m.hl.tickets.find? (fun t => dsOpcode t.bytes == op)

/-- A ring has entries that RING may fetch (15 R365). -/
def Mach.sqPending (m : Mach) (r : Nat) : Bool :=
  m.on F.sqEn (ringIx r) && m.rd F.sqHead (ringIx r) != m.rd F.sqTail (ringIx r) &&
  !(m.hl.waiting.any (fun x => x.why == .fetch r)) && !(m.hl.outst.any (fun x => x.2.why == .fetch r))

/-- DESCRIPTOR_FETCH: the next ring in turn. -/
def opDescriptorFetch (m : Mach) : Mach :=
  if !m.ringPosts then m
  else match ((upFrom (m.hl.lastRing + 1) 64).map (fun i => i % 64)).find? m.sqPending with
    | none => m
    | some r =>
      let q := ringIx r
      let req := HostReq.mk 0 (m.rd F.sqWin q) (64 * m.rd F.sqOff q + 64 * (m.rd F.sqHead q % sqSize m r)) none 64 (.fetch r)
      { m with hl := { m.hl with waiting := m.hl.waiting ++ [req], lastRing := r } }

def opNop (m : Mach) : Mach :=
  match m.ticketOf 0 with
  | none => m
  | some t => m.endTicket t 0 stOk 0

/-! The proxy (15 R360 to R364) -/

/-- A request answered badly, refused or failed. -/
def Mach.reqFail (m : Mach) (r : HostReq) : Mach :=
  match r.why with
  | .fetch _ => m
  | .record ring =>
    (match m.hl.recs.find? (fun c => c.ring == ring) with
    | none => m
    | some c => ({ m with hl := { m.hl with recs := m.hl.recs.erase c } } : Mach).holdRec c)
  | .io k => m.setIo k { m.io k with waits := (m.io k).waits - 1, fail := true }

def Mach.reqFails (m : Mach) : List HostReq → Mach
  | [] => m
  | r :: l => (m.reqFail r).reqFails l

/-- COMPLETION events for a ring's posted record (15 R372). -/
def Mach.recEvent (m : Mach) (ring : Nat) (c : CRec) : Mach :=
  if (m.on F.cqEventEn (ringIx ring) || c.endEvent) && !bitOf ring m.hl.evSent then
    ({ m with hl := { m.hl with evSent := setBit ring m.hl.evSent } } : Mach).hostEvent 1 ring (m.rd F.cqTail (ringIx ring))
  else m

/-- A request answered well. -/
def Mach.reqDone (m : Mach) (r : HostReq) (data : List Byte) : Mach :=
  match r.why with
  | .fetch ring => m.arriveDesc ring ((data ++ List.replicate 64 0).take 64)
  | .record ring =>
    (match m.hl.recs.find? (fun c => c.ring == ring) with
    | none => m
    | some c =>
      let m1 : Mach := { m with hl := { m.hl with recs := m.hl.recs.erase c } }
      (m1.wr F.cqTail (ringIx ring) (m1.rd F.cqTail (ringIx ring) + 1)).recEvent ring c)
  | .io k =>
    let x := m.io k
    m.setIo k { x with waits := x.waits - 1, buf := if r.write.isSome then x.buf else x.buf ++ data }

/-- Whether a window takes a request (15 R360). -/
def Mach.winTakes (m : Mach) (r : HostReq) : Bool :=
  decide (r.win < 16) && m.on F.hlWinValid (winIx r.win) &&
  (if r.write.isSome then m.on F.hlWinWrite (winIx r.win) else m.on F.hlWinRead (winIx r.win)) &&
  decide (r.off + r.len ≤ 4096 * m.rd F.hlWinSize4k (winIx r.win)) && decide (r.off % 4 = 0)

/-- A request leaves the pipe: sent, or failed by the window check (15 R360). -/
def Mach.pipe (m : Mach) (r : HostReq) : Mach :=
  if m.absent || !m.attached || m.highSpeed || !m.winTakes r then m.reqFail r
  else
    let tag := m.hl.nextTag
    let m1 : Mach := { m with hl := { m.hl with outst := m.hl.outst ++ [(tag, r)], nextTag := (tag + 1) % 65536 } }
    m1.peneb (if r.write.isSome then 0x02 else 0x01) 0 tag r.win (if r.write.isSome then r.off else r.off + r.len * 2 ^ 48) (r.write.getD [])

/-- The first request of a requester leaves the pipe under its grant, its last segment moved (15 R362). -/
def Mach.reqSend (m : Mach) (idx : Nat) (write : Bool) : Mach :=
  let a := m.arb .proxy
  match m.hl.waiting.find? (fun r => r.idx == idx) with
  | none => m
  | some r =>
    if r.write.isSome != write || a.holder.map (fun h => h.idx) != some idx || decide (64 ≤ m.hl.outst.length) then m
    else
      let m1 : Mach := { m with hl := { m.hl with waiting := m.hl.waiting.erase r } }
      (m1.setArb .proxy { a with holder := none }).pipe r

/-- The first n bytes of a request, and the rest. -/
def HostReq.upTo (r : HostReq) (n : Nat) : HostReq := { r with len := min r.len n, write := r.write.map (fun d => d.take n) }
def HostReq.past (r : HostReq) (n : Nat) : HostReq := { r with off := r.off + n, len := r.len - n, write := r.write.map (fun d => d.drop n) }

/-- A request's transfer ends after its first 64-byte segments: those stand, and go out; the rest stays with the requester, or is
discarded (09 R216, R217). -/
def Mach.pipeCut (m : Mach) (idx segs : Nat) (keep : Bool) : Mach :=
  match m.hl.waiting.find? (fun r => r.idx == idx) with
  | none => m
  | some r =>
    let n := 64 * segs
    if segs = 0 then m
    else
      let left := if r.len ≤ n ∨ !keep then m.hl.waiting.erase r else m.hl.waiting.map (fun q => if q = r then r.past n else q)
      let m1 : Mach := { m with hl := { m.hl with waiting := left } }
      let m2 := match r.why with
        | .io k => if r.len ≤ n then m1 else m1.setIo k (if keep then { m1.io k with waits := (m1.io k).waits + 1 } else { m1.io k with fail := true })
        | _ => m1
      m2.pipe (r.upTo n)

/-- A masked requester's requests are withdrawn; none is answered (09 R217; log 149). -/
def Mach.withdraw (m : Mach) (idx : Nat) : Mach :=
  ({ m with hl := { m.hl with waiting := m.hl.waiting.filter (fun r => r.idx != idx) } } : Mach).reqFails (m.hl.waiting.filter (fun r => r.idx == idx))

/-- HOLD_MAX_CUTOFF (09 R216); segs counts the segments a proxy transfer has moved. -/
def opHoldMaxCutoff (a : ArbId) (segs : Nat) (m : Mach) : Mach :=
  match a, (m.arb a).holder with
  | .proxy, some h => (m.cutOff a).pipeCut h.idx segs true
  | _, _ => m.cutOff a

/-- REQUESTER_MASK (09 R217). -/
def opRequesterMask (a : ArbId) (i : Nat) (on : Bool) (segs : Nat) (m : Mach) : Mach :=
  if on ∧ a = .proxy then
    let x := m.arb a
    let m1 := m.mask a i on
    (if (x.holder.or x.suspended).any (fun h => h.idx == i) then m1.pipeCut i segs false else m1).withdraw i
  else m.mask a i on

def opReadReq (idx : Nat) (m : Mach) : Mach := m.reqSend idx false
def opWriteReq (idx : Nat) (m : Mach) : Mach := m.reqSend idx true

/-- A response on the response pipe (15 R358, R363): to the oldest outstanding request, or every outstanding request fails. -/
def Mach.hostAnswer (m : Mach) (write : Bool) (tag status : Nat) (data : List Byte) (ok : Bool) : Mach :=
  if !m.attached then m
  else if !ok then m.ev F.hlEventsBadResponse kp
  else
    let all (m : Mach) : Mach :=
      (({ m with hl := { m.hl with outst := [] } } : Mach).reqFails (m.hl.outst.map (fun x => x.2))).ev F.hlEventsBadResponse kp
    match m.hl.outst with
    | [] => m.ev F.hlEventsBadResponse kp
    | (t, r) :: l =>
      if t ≠ tag ∨ r.write.isSome ≠ write then all m
      else
        let m1 : Mach := { m with hl := { m.hl with outst := l } }
        if status = 0 then m1.reqDone r data else m1.reqFail r

def opReadData (tag status : Nat) (data : List Byte) (ok : Bool) (m : Mach) : Mach := m.hostAnswer false tag status data ok
def opWriteAck (tag status : Nat) (ok : Bool) (m : Mach) : Mach := m.hostAnswer true tag status [] ok

/-- KEEPALIVE (15 R373). -/
def opKeepalive (ok : Bool) (m : Mach) : Mach := if m.attached && !ok then m.ev F.hlEventsBadResponse kp else m

/-! The command pipe -/

/-- WINDOW_SET (15 R360). -/
def opWindowSet (w size : Nat) (r wr : Bool) (tag : Nat) (m : Mach) : Mach :=
  let arg := size + 2 ^ 33 * b2n r + 2 ^ 34 * b2n wr
  if !m.attached then m
  else if size < 4096 ∨ 2 ^ 32 < size ∨ size % 4096 ≠ 0 ∨ !(r || wr) then m.regAck tag w arg 1
  else
    let q := winIx w
    ((((m.wr F.hlWinValid q 1).wr F.hlWinRead q (b2n r)).wr F.hlWinWrite q (b2n wr)).wr F.hlWinSize4k q (size / 4096)).regAck tag w arg 0

def Mach.clearWindow (m : Mach) (w : Nat) : Mach :=
  let q := winIx w
  (((m.wr F.hlWinValid q 0).wr F.hlWinRead q 0).wr F.hlWinWrite q 0).wr F.hlWinSize4k q 0

/-- Rings based in a cleared window stop (15 R361). -/
def Mach.stopRings (m : Mach) (w : Nat) : Mach :=
  (upFrom 0 64).foldl (fun m r =>
    let q := ringIx r
    let m1 := if m.on F.sqEn q && m.rd F.sqWin q == w then (m.wr F.sqEn q 0).ev F.hlEventsRingNoWindow kp else m
    if m1.on F.cqEn q && m1.rd F.cqWin q == w then (m1.wr F.cqEn q 0).ev F.hlEventsRingNoWindow kp else m1) m

def opWindowClear (w tag : Nat) (m : Mach) : Mach :=
  if !m.attached then m else ((m.clearWindow w).stopRings w).regAck tag w 0 0

/-- A DOORBELL's ARG (15 Table 15-3). -/
def bellArg (completion r idx : Nat) : Nat := idx + 2 ^ 32 * r + 2 ^ 40 * completion

/-- SQ_DOORBELL (15 R357, R365). -/
def opSqDoorbell (r idx tag : Nat) (m : Mach) : Mach :=
  let q := ringIx r
  if !m.attached then m
  else if m.highSpeed || decide (sqSize m r < sub32 idx (m.rd F.sqHead q)) || decide (2 ^ 31 ≤ sub32 idx (m.rd F.sqTail q)) then
    (m.ev F.hlEventsBadDoorbell kp).regAck tag 0 (bellArg 0 r idx) 1
  else (m.wr F.sqTail q idx).regAck tag 0 (bellArg 0 r idx) 0

/-- CQ_DOORBELL (15 R371, R372). -/
def opCqDoorbell (r idx tag : Nat) (m : Mach) : Mach :=
  let q := ringIx r
  if !m.attached then m
  else if m.highSpeed || decide (cqSize m r < sub32 (m.rd F.cqTail q) idx) then (m.ev F.hlEventsBadDoorbell kp).regAck tag 0 (bellArg 1 r idx) 1
  else (({ m with hl := { m.hl with evSent := clearBit r m.hl.evSent } } : Mach).wr F.cqHead q idx).regAck tag 0 (bellArg 1 r idx) 0

/-- HELLO (15 R374). -/
def opHello (version tag : Nat) (m : Mach) : Mach :=
  if !m.attached then m
  else
    let ms := match m.hl.absentAt with
      | some t => (m.usec - t) / 1000
      | none => 0
    let m1 := m.wr F.hostVersion kp version
    let m2 := if m.absent then
        (({ m1 with hl := { m1.hl with absentAt := none },
                    alm := { m1.alm with jobs := m1.alm.jobs.map (fun (j : Job) => { j with grace := none }) } } : Mach).wr F.hlStatusHostAbsent kp 0).wr F.hlAbsentMs kp ms else m1
    let rel := m.rd F.fwReleaseRef kp
    m2.peneb 0xA0 0 tag 0 rel (leBytes 4 ms ++ leBytes 4 m.hl.held.length ++ leBytes 4 (m.rd F.hlHeldLost kp) ++ leBytes 4 rel ++
      List.replicate 16 0)

/-- HELD_READ: up to 64 records in held order, removed; the PHASE byte is 0 (15 R374). -/
def opHeldRead (n tag : Nat) (m : Mach) : Mach :=
  if !m.attached then m
  else if n = 0 ∨ 64 < n then m.peneb 0xA6 1 tag 0 0 []
  else
    let got := m.hl.held.take n
    ({ m with hl := { m.hl with held := m.hl.held.drop n } } : Mach).peneb 0xA6 0 tag 0 got.length (got.flatMap (fun c => c.bytes))

/-! Presence of the host (15 R356, R357, R373) -/

/-- A STREAM job's grace begins: it runs this many further frames. -/
def Mach.graceStart (m : Mach) : Mach :=
  { m with alm := { m.alm with jobs := m.alm.jobs.map (fun (j : Job) =>
      if j.cls = 0 then { j with grace := some (m.rd F.hlStreamGraceFrames kp) } else j) } }

/-- Entering HOST_ABSENT (15 R373). -/
def Mach.goAbsent (m : Mach) : Mach :=
  if m.absent then m
  else
    let reqs := m.hl.outst.map (fun x => x.2) ++ m.hl.waiting
    let m0 := m.setArb .proxy { m.arb .proxy with holder := none, suspended := none }
    let m1 : Mach := ({ m0 with hl := { m.hl with outst := [], waiting := [] } } : Mach).reqFails reqs
    let formed := m1.hl.formed
    let m2 := formed.foldl (fun m c => m.holdRec c) ({ m1 with hl := { m1.hl with formed := [] } } : Mach)
    let m3 := (upFrom 0 16).foldl (fun m w => m.clearWindow w) m2
    let m4 := (m3.wr F.hlCtrlRun kp 0).graceStart
    (({ m4 with hl := { m4.hl with absentAt := some m4.usec } } : Mach).wr F.hlStatusHostAbsent kp 1).ev F.hlEventsHostAbsent kp

def opHostAbsent (m : Mach) : Mach := m.goAbsent

/-- USB_BUS_RESET: a reset, a disconnect or the loss of VBUS. -/
def opUsbBusReset (m : Mach) : Mach :=
  let m1 := ((m.goAbsent).ev F.hlEventsBusReset kp).wr F.hlStatusAttached kp 0
  m1.wr F.hlStatusSpeed kp 0

/-- USB_ATTACH (15 R354): speed 1 High-Speed, 2 Gen 1x1, 3 Gen 2x1, 4 Gen 2x2. -/
def opUsbAttach (speed : Nat) (m : Mach) : Mach :=
  if speed = 0 then m else (m.wr F.hlStatusAttached kp 1).wr F.hlStatusSpeed kp speed

/-- EVENT: the oldest queued event is sent (15 R372). -/
def opEvent (m : Mach) : Mach :=
  if !m.attached then m
  else match m.hl.events with
    | [] => m
    | e :: l => ({ m with hl := { m.hl with events := l } } : Mach).peneb 0xC0 e.kind e.tag 0 e.arg []

/-! The meanings -/

def execHoldMaxCutoff (a : ArbStop) (s : State) := s.on (arbDom a.arb) (opHoldMaxCutoff a.arb a.segs)
def execRequesterMask (a : ArbStop) (i : Nat) (on : Bool) (s : State) := s.on (arbDom a.arb) (opRequesterMask a.arb i on a.segs)
def execUsbBusReset (s : State) := s.on .keeper opUsbBusReset
def execReadReq (i : Fin 4) (s : State) := s.on .keeper (opReadReq i.val)
def execWriteReq (i : Fin 4) (s : State) := s.on .keeper (opWriteReq i.val)
def execReadData (tag st : Nat) (d : List Byte) (ok : Bool) (s : State) := s.on .keeper (opReadData tag st d ok)
def execWriteAck (tag st : Nat) (ok : Bool) (s : State) := s.on .keeper (opWriteAck tag st ok)
def execKeepalive (ok : Bool) (s : State) := s.on .keeper (opKeepalive ok)
def execHello (v : Tagged Word) (s : State) := s.on .keeper (opHello v.val.toNat v.tag.val)
def execWindowSet (w : Tagged (Fin 16)) (size : Nat) (r wr : Bool) (s : State) := s.on .keeper (opWindowSet w.val.val size r wr w.tag.val)
def execWindowClear (w : Tagged (Fin 16)) (s : State) := s.on .keeper (opWindowClear w.val.val w.tag.val)
def execSqDoorbell (r : Tagged (Fin 64)) (i : Word) (s : State) := s.on .keeper (opSqDoorbell r.val.val i.toNat r.tag.val)
def execCqDoorbell (r : Tagged (Fin 64)) (i : Word) (s : State) := s.on .keeper (opCqDoorbell r.val.val i.toNat r.tag.val)
def execHeldRead (n : Tagged Nat) (s : State) := s.on .keeper (opHeldRead n.val n.tag.val)
def execDescriptorFetch (s : State) := s.on .keeper opDescriptorFetch
def execNop (s : State) := s.on .keeper opNop
def execCompletionRecordWrite (s : State) := s.on .keeper opCompletionRecordWrite
def execEvent (s : State) := s.on .keeper opEvent
def execHostAbsent (s : State) := s.on .keeper opHostAbsent
def execUsbAttach (sp : Fin 5) (s : State) := s.on .keeper (opUsbAttach sp.val)

end Sys2Proof.Machine
end

