-- ==== Sys2Proof/Machine/Plans.lean ====
section
/-! DEFINITION. Plan images, tensor slots, page tables, translation, migration and the page movers of chapter 7. -/

namespace Sys2Proof.Machine

/-! Plan images (07 R147 to R151) -/

/-- A little-endian field of an image. -/
def im (b : List Byte) (off n : Nat) : Nat := leNat ((b.drop off).take n)

/-- Tensor-table entry i (Table 7-2). -/
def parseTensor (b : List Byte) (o : Nat) : Tensor :=
  { handle := im b o 4, fmt := im b (o + 4) 1 % 16, kind := im b (o + 5) 1, hint := im b (o + 6) 1, pin := bitOf 0 (im b (o + 7) 1),
    bytes := im b (o + 8) 8, bx8 := im b (o + 16) 4, scale := im b (o + 20) 4, firstOp := im b (o + 24) 2, lastOp := im b (o + 26) 2,
    slot := 0, ptBase := 0, pages := [], used := 0 }

def pad8 (n : Nat) : Nat := (n + 7) / 8 * 8

/-- The parts of an operation record in bytes (07 R149). -/
def opBytes (b : List Byte) (o : Nat) : Nat :=
  16 + pad8 (2 * im b (o + 6) 1) + pad8 (4 * (im b (o + 7) 1 + im b (o + 8) 1)) + 8 * im b (o + 9) 1 + 8 * im b (o + 10) 2

def parseOp (b : List Byte) (o : Nat) : OpRec :=
  let nd := im b (o + 6) 1
  let ni := im b (o + 7) 1
  let no := im b (o + 8) 1
  let ns := im b (o + 9) 1
  let h := o + 16 + pad8 (2 * nd)
  let s := h + pad8 (4 * (ni + no))
  { kind := im b (o + 4) 1, flags := im b (o + 5) 1, deps := (upFrom 0 nd).map (fun i => im b (o + 16 + 2 * i) 2),
    ins := (upFrom 0 ni).map (fun i => im b (h + 4 * i) 4), outs := (upFrom 0 no).map (fun i => im b (h + 4 * (ni + i)) 4),
    splits := (upFrom 0 ns).map (fun i => (im b (s + 8 * i) 2, im b (s + 8 * i + 2) 2, im b (s + 8 * i + 4) 4)),
    body := (b.drop (s + 8 * ns)).take (8 * im b (o + 10) 2) }

/-- The offsets of n records from OP_OFF, by their WORDS; none where a record or one of its parts extends past the image. -/
def opOffsets (b : List Byte) (limit : Nat) : Nat → Nat → Option (List Nat)
  | 0, _ => some []
  | n + 1, o =>
    if limit < o + 16 ∨ limit < o + 8 * im b (o + 2) 2 ∨ limit < o + opBytes b o then none
    else (opOffsets b limit n (o + 8 * im b (o + 2) 2)).map (fun l => o :: l)

/-- A tensor-table entry that Table 7-4 refuses with 0x06. -/
def tensorBad (t : Tensor) : Bool :=
  t.handle == 0 || (fmtOfCode t.fmt).isNone || t.kind == 0 || decide (7 < t.kind) || decide (3 < t.hint) || t.bytes == 0 ||
  decide (t.lastOp < t.firstOp)

def repeated : List Nat → Bool
  | [] => false
  | x :: l => l.contains x || repeated l

/-- An operation record that Table 7-4 refuses with 0x07. -/
def opBad (b : List Byte) (i o : Nat) (r : OpRec) : Bool :=
  im b o 2 != i || r.kind == 0 || decide (5 < r.kind) || decide (32 < im b (o + 6) 1) || decide (16 < im b (o + 7) 1) ||
  im b (o + 8) 1 == 0 || decide (8 < im b (o + 8) 1) || decide (64 < im b (o + 9) 1) || r.deps.any (fun d => decide (i ≤ d))

/-- Split records that break R150. -/
def splitsBad : Option Nat → List (Nat × Nat × Nat) → Bool
  | _, [] => false
  | next, (f, n, _) :: l =>
    (match next with
      | none => false
      | some k => f != k) || n == 0 || decide (8192 < f + n) || splitsBad (some (f + n)) l

/-- A COMBINE sums the partials of a MATMUL before it, in split order (07 R150). -/
def combineBad (ops : List OpRec) : Bool :=
  (ops.zip (upFrom 0 ops.length)).any (fun x => x.1.kind == 3 &&
    !((ops.take x.2).any (fun o => o.kind == 1 && !o.splits.isEmpty && o.splits.map (fun s => s.2.2) == x.1.ins)))

/-- Placeable near and far capacity (07 R152, Table 7-4 0x0B). -/
def placeable (fu : Fuses) : Nat := 6 * (nearSize - 0x4000000) + 6 * farSize fu

/-- The check of Table 7-4, in table order: a detail code, or the plan. -/
def checkPlan (m : Mach) (b : List Byte) : Nat ⊕ Plan :=
  let bytes := im b 20 4
  let tn := im b 24 2
  let on_ := im b 26 2
  let tOff := im b 28 4
  let oo := im b 32 4
  if im b 0 4 ≠ 0x314E4C50 ∨ im b 4 2 ≠ 1 then .inl 1
  else if (b.drop 64).take 64 ≠ sha512 ((b.drop 128).take (bytes - 128)) ∨ b.length < bytes then .inl 2
  else if im b 12 4 ≠ 6 ∨ m.rd F.keeperDieIdStepping kp < im b 16 1 then .inl 3
  else if m.rd F.keeperModuleCodeFarGibPerCh kp < im b 17 1 then .inl 4
  else
    let offs := opOffsets b bytes on_ oo
    if im b 6 2 = 0 ∨ im b 18 2 = 0 ∨ 60 < im b 18 2 ∨ bytes < tOff + 32 * tn ∨ offs.isNone then .inl 5
    else
      let ts := (upFrom 0 tn).map (fun i => (tOff + 32 * i, parseTensor b (tOff + 32 * i)))
      let os := (offs.getD []).map (fun o => (o, parseOp b o))
      let tensors := ts.map (fun x => x.2)
      let ops := os.map (fun x => x.2)
      let has (h : Nat) : Bool := tensors.any (fun t => t.handle == h)
      let weight (h : Nat) : Bool := tensors.any (fun t => t.handle == h && t.kind == 1)
      if tn = 0 ∨ ts.any (fun x => tensorBad x.2) ∨ repeated (tensors.map (fun t => t.handle)) then .inl 6
      else if on_ = 0 ∨ (os.zip (upFrom 0 on_)).any (fun x => opBad b x.2 x.1.1 x.1.2) then .inl 7
      else if ops.any (fun o => (o.ins ++ o.outs ++ o.splits.map (fun s => s.2.2)).any (fun h => !has h)) then .inl 8
      else if ops.any (fun o => o.ins.any (fun h => o.outs.contains h) || (o.outs ++ o.splits.map (fun s => s.2.2)).any weight) then .inl 9
      else if ops.any (fun o => (!o.splits.isEmpty && o.kind != 1) || splitsBad none o.splits) ∨ combineBad ops then .inl 10
      else if placeable m.fuses < (tensors.filter (fun t => t.kind == 1 || t.kind == 4)).foldl (fun s t => s + t.bytes) 0 then .inl 11
      else if 256 ≤ m.alm.plans.length ∨ 65536 < tn + m.alm.plans.foldl (fun s p => s + p.tensors.length) 0 then .inl 12
      else .inr { id := im b 8 4, classes := im b 6 2 % 8, maxpar := im b 18 2, span := im b 36 4, work := im b 40 8, nearb := im b 48 8,
                  farb := im b 56 8, tensors := tensors, ops := ops, unload := none }

/-- The completion status of a refusal (Table 7-4). -/
def detailStatus (d : Nat) : Nat := if d = 3 ∨ d = 4 ∨ d = 11 ∨ d = 12 then stPlanMismatch else stPlanInvalid

/-! Slots and page tables (07 R152, R153) -/

def tableBase (d : Nat) : Nat := nearBase d + tableOff

/-- The address of an offset of engine d's table area: its place, or the page a retired page of it was evacuated to (R158). -/
def Mach.tabAddr (m : Mach) (d off : Nat) : Nat :=
  match SMap.get 0 (32 * d + off / 0x200000) m.alm.tabs with
  | 0 => tableBase d + off
  | l + 1 => l * 0x200000 + off % 0x200000

def Mach.slotAddr (m : Mach) (d s : Nat) : Nat := m.tabAddr d (16 * s)
def Mach.pteAddr (m : Mach) (d i : Nat) : Nat := m.tabAddr d (0x100000 + 8 * i)
def Mach.slabListAddr (m : Mach) (d l : Nat) : Nat := m.tabAddr d (0x900000 + 64 * l)

/-- Bytes written into all six copies. -/
def Mach.sixPut (m : Mach) (addr : Nat → Nat) (l : List Byte) : Mach := (upFrom 0 6).foldl (fun m d => m.putBytes (addr d) l) m

/-- Fields of a page-table entry (Table 7-5). -/
def ptePrimary (e : Nat) : Nat := bitsOf 26 0 e
def pteBacking (e : Nat) : Nat := bitsOf 53 27 e
def ptePTier (e : Nat) : Nat := bitsOf 55 54 e
def pteBTier (e : Nat) : Nat := bitsOf 57 56 e
def pteValid (e : Nat) : Bool := bitOf 58 e
def pteMoving (e : Nat) : Bool := bitOf 59 e

def mkPte (primary backing pt bt : Nat) (valid moving : Bool) : Nat :=
  primary + backing * 2 ^ 27 + pt * 2 ^ 54 + bt * 2 ^ 56 + b2n valid * 2 ^ 58 + b2n moving * 2 ^ 59

/-- Fields of a slot entry. -/
def slotPt (e : Nat) : Nat := bitsOf 19 0 e
def slotBytes (e : Nat) : Nat := bitsOf 71 32 e
def slotValid (e : Nat) : Bool := bitOf 72 e
def slotWritable (e : Nat) : Bool := bitOf 73 e
def slotLost (e : Nat) : Bool := bitOf 74 e

def mkSlot (pt bytes : Nat) (valid writable lost : Bool) (handle : Nat) : Nat :=
  pt + bytes % 2 ^ 40 * 2 ^ 32 + b2n valid * 2 ^ 72 + b2n writable * 2 ^ 73 + b2n lost * 2 ^ 74 + handle * 2 ^ 96

def Mach.slotEntry (m : Mach) (d s : Nat) : Nat := leNat (m.bytes (m.slotAddr d s) 16)
def Mach.pteEntry (m : Mach) (d i : Nat) : Nat := leNat (m.bytes (m.pteAddr d i) 8)
def Mach.putSlot (m : Mach) (s e : Nat) : Mach := m.sixPut (fun d => m.slotAddr d s) (leBytes 16 e)
def Mach.putPte (m : Mach) (i e : Nat) : Mach := m.sixPut (fun d => m.pteAddr d i) (leBytes 8 e)

/-- The SRAM address of a slab code and an offset in its slab (07 R153, R154). -/
def slabAddr (code off : Nat) : Nat :=
  clusterBase (bitsOf 15 13 code * 10 + bitsOf 12 9 code) + bitsOf 8 5 code * 0x140000 + bitsOf 4 0 code * 0x10000 + off % 0x10000

/-- Code k of a slab list, in engine d's copy. -/
def Mach.slabCode (m : Mach) (d l k : Nat) : Nat := leNat (m.bytes (m.slabListAddr d l + 2 * k) 2)

/-- Pages of a tensor. -/
def pagesOf (bytes : Nat) : Nat := (bytes + 0x1FFFFF) / 0x200000

/-! Translation (07 R154) -/

inductive Xl | refuse | hold | at_ (addr : Nat)
  deriving DecidableEq, Repr

/-- The address a page-table entry gives for an offset of the tensor. -/
def Mach.pteAt (m : Mach) (d e o : Nat) : Xl :=
  if ptePTier e = 2 then
    let code := m.slabCode d (ptePrimary e) (o / 0x10000 % 32)
    if code ≠ 0xFFFF then .at_ (slabAddr code o)
    else if pteBTier e = 3 then .refuse
    else .at_ (pteBacking e * 0x200000 + o % 0x200000)
  else .at_ (ptePrimary e * 0x200000 + o % 0x200000)

def cacheKey (d i : Nat) : Nat := d * 2 ^ 20 + i

/-- The entry a translator uses: its cached copy, or the table's, which it caches; it holds 4,096 entries. -/
def Mach.pteFor (m : Mach) (d i : Nat) : Nat × Mach :=
  let k := cacheKey d i
  match m.alm.cache.find? (fun x => x.1 == k) with
  | some x => (x.2, m)
  | none =>
    let e := m.pteEntry d i
    if pteMoving e then (e, m)
    else
      let mine := m.alm.cache.filter (fun x => x.1 / 2 ^ 20 == d)
      let c := if 4096 ≤ mine.length then (match mine with
        | x :: _ => SMap.erase x.1 m.alm.cache
        | [] => m.alm.cache) else m.alm.cache
      (e, { m with alm := { m.alm with cache := SMap.insert k e c } })

/-- The translator of engine d resolves an access. -/
def Mach.xlat (m : Mach) (d s o : Nat) (write : Bool) : Xl × Mach :=
  let e := m.slotEntry d s
  if !slotValid e || decide (slotBytes e ≤ o) || (write && !slotWritable e) then (.refuse, m)
  else
    let r := m.pteFor d (slotPt e + o / 0x200000)
    if pteMoving r.1 then (.hold, r.2) else (r.2.pteAt d r.1 o, r.2)

def Mach.holdsOf (m : Mach) (d : Nat) : List XlatHold := SMap.get [] d m.alm.holds
def Mach.setHolds (m : Mach) (d : Nat) (l : List XlatHold) : Mach := { m with alm := { m.alm with holds := SMap.put [] d l m.alm.holds } }

/-- The answer of a translation to its source: an address in 8 bytes, or a refusal. -/
def Mach.xlAnswer (m : Mach) (who : Nat) (x : Xl) : Mach :=
  match x with
  | .at_ a => m.send (.resp who rsOk (leBytes 8 a) 0)
  | _ => m.respond who rsRefused

/-- TRANSLATE: the hold queue has 64 places; when it is full the master stalls. -/
def opTranslate (d who s o : Nat) (write : Bool) (m : Mach) : Mach :=
  let r := m.xlat d s o write
  match r.1 with
  | .hold => if 64 ≤ (m.holdsOf d).length then m else r.2.setHolds d (r.2.holdsOf d ++ [⟨who, s, o, write⟩])
  | x => r.2.xlAnswer who x

/-- Held accesses are translated anew, in order, up to the first that is held again (07 R156). -/
def Mach.release_ (m : Mach) (d : Nat) : List XlatHold → Mach
  | [] => m.setHolds d []
  | h :: l =>
    let r := m.xlat d h.slot h.off h.write
    match r.1 with
    | .hold => m.setHolds d (h :: l)
    | x => (r.2.xlAnswer h.who x).release_ d l

/-! Placing a plan's tensors -/

/-- A page ALMANAC may place: near, outside the table area and not retired, or far, on an engine whose channels are all in service
(09 R204). -/
def Mach.pageFree (m : Mach) (p : PagePick) : Bool :=
  let a := p.loc * 0x200000
  match p.tier, placeOf m.fuses a with
  | 0, .near d o => decide (o < tableOff) && !m.isRetired d (nearPage o)
  | 1, .far d _ => (upFrom 0 4).all (fun h => !m.on F.farStatusFailed (farIx (4 * d + h)))
  | _, _ => false

/-- Locations in use: the page that stands behind each page of a tensor of a loaded plan, its backing page, where migrations in flight
go, and evacuated parts of table areas. -/
def Mach.usedLocs (m : Mach) : List Nat :=
  m.alm.plans.flatMap (fun p => p.tensors.flatMap (fun t => t.pages.map (fun x => x.loc) ++
    ((upFrom t.ptBase (pagesOf t.bytes)).filter (fun i => pteBTier (m.pteEntry 0 i) != 3)).map (fun i => pteBacking (m.pteEntry 0 i)))) ++
  (m.alm.migs.filter (fun g => decide (g.dst.tier < 2))).map (fun g => g.dst.loc) ++ m.alm.tabs.map (fun x => x.2 - 1)

/-- Slab lists in use. -/
def Mach.usedLists (m : Mach) : List Nat :=
  m.alm.plans.flatMap (fun p => p.tensors.flatMap (fun t =>
    ((upFrom t.ptBase (pagesOf t.bytes)).filter (fun i => ptePTier (m.pteEntry 0 i) == 2)).map (fun i => ptePrimary (m.pteEntry 0 i)))) ++
  (m.alm.migs.filter (fun g => g.dst.tier == 2)).map (fun g => g.dst.loc)

def rangesClash : List (Nat × Nat) → Bool
  | [] => false
  | (a, n) :: l => l.any (fun x => decide (a < x.1 + x.2) && decide (x.1 < a + n)) || rangesClash l

/-- Whether a choice of slots and pages can be made (07 R151 to R153). -/
def Mach.placesOk (m : Mach) (ts : List Tensor) (ps : List TenPlace) : Bool :=
  let old := m.alm.plans.flatMap (fun p => p.tensors)
  let ranges := (ts.zip ps).map (fun x => (x.2.ptBase, pagesOf x.1.bytes)) ++ old.map (fun t => (t.ptBase, pagesOf t.bytes))
  let locs := ps.flatMap (fun p => p.pages.map (fun q => q.loc))
  ts.length == ps.length && (ts.zip ps).all (fun x => x.2.pages.length == pagesOf x.1.bytes && x.2.pages.all m.pageFree) &&
  ps.all (fun p => decide (p.slot < 65536)) && !repeated (ps.map (fun p => p.slot) ++ old.map (fun t => t.slot)) &&
  ranges.all (fun r => decide (r.1 + r.2 ≤ 1048576)) && !rangesClash ranges && !repeated (locs ++ m.usedLocs)

/-- WRITABLE is 0 for WEIGHT, BX8 and SCALE tensors (Table 7-5). -/
def kindWritable (k : Nat) : Bool := k != 1 && k != 6 && k != 7

/-- The tables of a tensor's slot and pages are written. -/
def Mach.placeTensor (m : Mach) (t : Tensor) (p : TenPlace) : Mach :=
  let m1 := m.putSlot p.slot (mkSlot p.ptBase t.bytes true (kindWritable t.kind) false t.handle)
  (p.pages.zip (upFrom p.ptBase p.pages.length)).foldl (fun m x => m.putPte x.2 (mkPte x.1.loc 0 x.1.tier 3 true false)) m1

/-- ALMANAC acts: its processor runs and RUN is 1 (07 R172, R173). -/
def Mach.almUp (m : Mach) : Bool := m.procUp 1 && m.on F.almCtrlRun kp

/-- PLAN_LOAD: the image is asked for, and when it has come it is checked and loaded, or refused with its detail. -/
def opPlanLoad (places : List TenPlace) (m : Mach) : Mach :=
  match m.ticketOf 2 with
  | none => m
  | some t =>
    let k := 2 * t.no
    if !m.procUp 1 then m
    else if !t.begun then
      let m1 : Mach := { m with hl := { m.hl with tickets := m.hl.tickets.map (fun x => if x.no = t.no then { x with begun := true } else x) } }
      m1.askRead 1 k (dsWin t.bytes) (dsOff t.bytes) (dsCount t.bytes)
    else
      let io := m.io k
      if io.waits ≠ 0 then m
      else if io.fail then m.endTicket t 0 stAborted 0
      else match checkPlan m io.buf with
        | .inl d => m.endTicket t (im io.buf 8 4) (detailStatus d) d
        | .inr p =>
          if !m.placesOk p.tensors places then m
          else
            let ts := (p.tensors.zip places).map (fun x =>
              { x.1 with slot := x.2.slot, ptBase := x.2.ptBase, pages := x.2.pages.map (fun q => ⟨q.tier, q.loc⟩), used := m.usec })
            let m1 := (p.tensors.zip places).foldl (fun m x => m.placeTensor x.1 x.2) m
            ({ m1 with alm := { m1.alm with plans := m1.alm.plans ++ [{ p with tensors := ts }] } } : Mach).endTicket t p.id stOk 0

/-- A plan's slots and entries are freed (Table 7-6). -/
def Mach.freePlan (m : Mach) (p : Plan) : Mach :=
  let m1 := p.tensors.foldl (fun m t => (upFrom t.ptBase (pagesOf t.bytes)).foldl (fun m i => m.putPte i 0) (m.putSlot t.slot 0)) m
  { m1 with alm := { m1.alm with plans := m1.alm.plans.erase p, cache := [], slabs := m1.alm.slabs.filter (fun x => !p.tensors.any (fun t => t.slot + 1 == x.2)) } }

/-- PLAN_UNLOAD: completes after the plan's last job has ended. -/
def opPlanUnload (m : Mach) : Mach :=
  match m.ticketOf 3 with
  | none => m
  | some t =>
    if !m.procUp 1 then m
    else match m.alm.plans.find? (fun p => p.id == dsPlan t.bytes) with
      | none => m.endTicket t (dsPlan t.bytes) stAborted 0x81
      | some p => if m.alm.jobs.any (fun j => j.plan == p.id) then m else (m.freePlan p).endTicket t p.id stOk 0

/-! Whole tensors through the translators -/

/-- 64 KiB pieces of a tensor. -/
def pieces (bytes : Nat) : List (Nat × Nat) :=
  (upFrom 0 ((bytes + 0xFFFF) / 0x10000)).map (fun i => (i * 0x10000, min 0x10000 (bytes - i * 0x10000)))

/-- Where a piece lies, by engine 0's tables: none while it moves or where it has no location. -/
def Mach.pieceAt (m : Mach) (t : Tensor) (o : Nat) : Option Nat :=
  let e := m.pteEntry 0 (t.ptBase + o / 0x200000)
  if pteMoving e then none
  else match m.pteAt 0 e o with
    | .at_ a => some a
    | _ => none

/-- Reading a tensor: its bytes, the marks met, or none while a piece cannot be read now. -/
def Mach.readTensor (m : Mach) (who : Nat) (t : Tensor) : List (Nat × Nat) → Option (List Byte × Nat × Mach)
  | [] => some ([], 0, m)
  | (o, n) :: l =>
    match m.pieceAt t o with
    | none => none
    | some a =>
      match (m.spanSay who a n).1 with
      | .wait => none
      | .ok =>
        let r := m.readAt who a n
        (r.2.2.readTensor who t l).map (fun s => (r.1 ++ s.1, r.2.1 ||| s.2.1, s.2.2))
      | _ => ((m.unitRefuse who (m.spanSay who a n).2).readTensor who t l).map (fun s => (List.replicate n 0 ++ s.1, 4 ||| s.2.1, s.2.2))

/-- Writing a tensor; refused pieces are skipped and reported. -/
def Mach.writeTensor (m : Mach) (who : Nat) (t : Tensor) (data : List Byte) : List (Nat × Nat) → Option (Bool × Mach)
  | [] => some (true, m)
  | (o, n) :: l =>
    match m.pieceAt t o with
    | none => none
    | some a =>
      match (m.spanSay who a n).1 with
      | .wait => none
      | .ok => (m.writeAt a ((data.drop o).take n)).writeTensor who t data l
      | _ => ((m.unitRefuse who (m.spanSay who a n).2).writeTensor who t data l).map (fun s => (false, s.2))

/-- The tensor a TENSOR_* descriptor names: a WEIGHT or STATE tensor of a loaded plan, or the detail that refuses it. -/
def Mach.tensorNamed (m : Mach) (b : List Byte) : Nat ⊕ Tensor :=
  match m.alm.plans.find? (fun p => p.id == dsPlan b) with
  | none => .inl 0x81
  | some p => match p.tensors.find? (fun t => t.handle == dsArg b && (t.kind == 1 || t.kind == 4)) with
    | none => .inl 0x83
    | some t => .inr t

def Mach.begin_ (m : Mach) (t : Ticket) : Mach :=
  { m with hl := { m.hl with tickets := m.hl.tickets.map (fun x => if x.no = t.no then { x with begun := true } else x) } }

/-- Setting or clearing LOST in a slot's entry (07 R158). -/
def Mach.setLost (m : Mach) (t : Tensor) (lost : Bool) : Mach :=
  m.putSlot t.slot (mkSlot t.ptBase t.bytes true (kindWritable t.kind) lost t.handle)

/-- TENSOR_WRITE (15 R368): the window's bytes are read and then written over the whole tensor, which clears LOST. -/
def opTensorWrite (m : Mach) : Mach :=
  match m.ticketOf 5 with
  | none => m
  | some t => match m.tensorNamed t.bytes with
    | .inl d => m.endTicket t (dsPlan t.bytes) stAborted d
    | .inr x =>
      if !t.begun then (m.begin_ t).askRead 2 (2 * t.no) (dsWin t.bytes) (dsOff t.bytes) x.bytes
      else
        let io := m.io (2 * t.no)
        if io.waits ≠ 0 then m
        else if io.fail then m.endTicket t (dsPlan t.bytes) stAborted 0
        else match m.writeTensor idAlmanac x io.buf (pieces x.bytes) with
          | none => m
          | some (ok, m1) => if ok then (m1.setLost x false).endTicket t (dsPlan t.bytes) stOk 0 else m1.endTicket t (dsPlan t.bytes) stAborted 0

/-- TENSOR_READ: the tensor is read and written to the window. -/
def opTensorRead (m : Mach) : Mach :=
  match m.ticketOf 6 with
  | none => m
  | some t => match m.tensorNamed t.bytes with
    | .inl d => m.endTicket t (dsPlan t.bytes) stAborted d
    | .inr x =>
      if !t.begun then
        if slotLost (m.slotEntry 0 x.slot) then m.endTicket t (dsPlan t.bytes) stDataLost 0
        else match m.readTensor idAlmanac x (pieces x.bytes) with
          | none => m
          | some (d, marks, m1) =>
            if bitOf 1 marks || bitOf 2 marks || bitOf 4 marks then m1.endTicket t (dsPlan t.bytes) stDataLost 0
            else (m1.begin_ t).askWrite 2 (2 * t.no) (dsWin t.bytes) (dsOff t.bytes) d
      else
        let io := m.io (2 * t.no)
        if io.waits ≠ 0 then m else m.endTicket t (dsPlan t.bytes) (if io.fail then stAborted else stOk) 0

/-! Migration (07 R155 to R158) -/

def Mach.tensorOfSlot (m : Mach) (s : Nat) : Option (Plan × Tensor) :=
  m.alm.plans.findSome? (fun p => (p.tensors.find? (fun t => t.slot == s)).map (fun t => (p, t)))

/-- A tensor of a loaded plan is changed. -/
def Mach.setTensor (m : Mach) (p : Plan) (x : Tensor) : Mach :=
  { m with alm := { m.alm with plans := m.alm.plans.map (fun q =>
      if q.id = p.id then { q with tensors := q.tensors.map (fun t => if t.slot = x.slot then x else t) } else q) } }

/-- The first operation of events after the first (07 Table 7-3, EVENT_START). -/
def Plan.start (p : Plan) : Nat := (findIdx (fun o => bitOf 2 o.flags) p.ops).getD 0

/-- The operations an event runs. -/
def Plan.eventOps (p : Plan) (n : Nat) : List Nat :=
  if n = 0 then upFrom 0 p.ops.length else upFrom p.start (p.ops.length - p.start)

/-- Handles an operation names. -/
def OpRec.names (o : OpRec) (h : Nat) : Bool := o.ins.contains h || o.outs.contains h || o.splits.any (fun s => s.2.2 == h)

/-- An operation is ready when all it marks have completed, in this event or, before EVENT_START, in the first (07 R149). -/
def opReady (p : Plan) (ev : Event) (o : Nat) : Bool :=
  (p.eventOps ev.no).contains o && !ev.done.contains o &&
  (match p.ops[o]? with
    | none => false
    | some r => r.deps.all (fun d => ev.done.contains d || !(p.eventOps ev.no).contains d))

/-- The pages Almanac never moves while migration is enabled (07 R157). -/
def Mach.pinned (m : Mach) (p : Plan) (t : Tensor) : Bool :=
  t.pin ||
  m.alm.shares.any (fun s => !s.ended && m.alm.jobs.any (fun j => j.id == s.job && j.plan == p.id &&
    (match p.ops[s.op]? with
      | some o => o.ins.contains t.handle || (j.cls == 1 && o.names t.handle)
      | none => false))) ||
  m.alm.jobs.any (fun j => j.plan == p.id && j.cls == 0 && j.run.isSome && p.ops.any (fun o => o.names t.handle))

/-- Whether an address lies where a page-table entry puts its page. -/
def Mach.pteHolds (m : Mach) (d e a : Nat) : Bool :=
  if ptePTier e = 2 then
    (upFrom 0 32).any (fun k => m.slabCode d (ptePrimary e) k != 0xFFFF && slabAddr (m.slabCode d (ptePrimary e) k) 0 / 0x10000 == a / 0x10000) ||
    (pteBTier e != 3 && a / 0x200000 == pteBacking e)
  else a / 0x200000 == ptePrimary e

/-- Where an endpoint's units lie. -/
def SeEnd.places (x : SeEnd) : List Nat := match x.units with
  | none => [x.base]
  | some u => u.map (fun y => y.2)

/-- Open entries of the stream engines of a die. -/
def Mach.seOpen (m : Mach) (d : Nat) : List SeEntry :=
  m.ses.flatMap (fun x => if x.1 / 16 = d then (match x.2.run with
    | some t => t.entries.filter (fun y => !y.complete)
    | none => []) else [])

/-- An access that engine d's translator resolved through an entry has not completed: a queued block-list entry keeps the location
(08 R179; 07 R156 step 2). -/
def Mach.xlatInUse (m : Mach) (d e : Nat) : Bool :=
  (m.seOpen d).any (fun y => (y.src.units.isSome && y.src.places.any (m.pteHolds d e)) || (y.dst.units.isSome && y.dst.places.any (m.pteHolds d e)))

/-- A queued block-list entry of any engine names a bank of the cluster (07 R155). -/
def Mach.seUsesCluster (m : Mach) (c : Nat) : Bool :=
  let here (a : Nat) : Bool := match placeOf m.fuses a with
    | .sram k _ => k == c
    | _ => false
  (upFrom 0 6).any (fun d => (m.seOpen d).any (fun y => (y.src.places ++ (if y.mcast then [] else y.dst.places)).any here)) ||
  m.ses.any (fun x => match x.2.run with
    | some t => t.entries.any (fun y => y.mcast && !y.complete) &&
        (upFrom 0 16).any (fun i => bitOf i t.attached && here (nth 0 t.arm.bases i))
    | none => false)

/-- A slab of the tensor's kind keeps a backing page (07 R155). -/
def kindBacked (k : Nat) : Bool := k == 1 || k == 2 || k == 6 || k == 7

/-- WEIGHT and STATE pages that a promotion would bring near (Table 7-6). -/
def Tensor.promotes (t : Tensor) : Bool := (t.kind == 1 || t.kind == 4) && (t.hint == 0 || t.hint == 2) && !t.pin

def Mach.farPages (m : Mach) (t : Tensor) : List Nat :=
  (upFrom t.ptBase (pagesOf t.bytes)).filter (fun i => ptePTier (m.pteEntry 0 i) == 1)

/-- An admitted job of the plan waits for its first event. -/
def Mach.awaitsFirst (m : Mach) (p : Plan) : Bool := m.alm.jobs.any (fun j => j.plan == p.id && j.nextEv == 0 && j.run.isNone)

/-- Pages to be promoted before first events. -/
def Mach.promotions (m : Mach) : Nat :=
  m.alm.plans.foldl (fun n p => if m.awaitsFirst p then n + (p.tensors.filter Tensor.promotes).foldl (fun k t => k + (m.farPages t).length) 0 else n) 0

/-- Near pages that can be placed and are not in use. -/
def Mach.nearFree (m : Mach) : Nat :=
  6 * (tableOff / 0x200000) - (m.usedLocs.filter (fun l => decide (0x1000000 ≤ l))).length -
    (upFrom 0 6).foldl (fun n d => n + m.rd F.nearRetireCountCount d) 0

/-- Whether a tensor's pages may be demoted (Table 7-6): no job of its plan is admitted, and it has not been used for COLD_MS. -/
def Mach.cold (m : Mach) (p : Plan) (t : Tensor) : Bool :=
  !m.alm.jobs.any (fun j => j.plan == p.id) && !t.pin && decide (m.rd F.almMigrateColdMs kp * 1000 ≤ m.usec - t.used) &&
  (upFrom t.ptBase (pagesOf t.bytes)).any (fun i => ptePTier (m.pteEntry 0 i) == 0)

/-- Near WEIGHT pages with no backing page, by slot and page. -/
def Mach.unbacked (m : Mach) (t : Tensor) : List Nat :=
  if t.kind = 1 ∧ !t.pin then (upFrom 0 (pagesOf t.bytes)).filter (fun k =>
    let e := m.pteEntry 0 (t.ptBase + k)
    ptePTier e == 0 && pteBTier e == 3 && !pteMoving e) else []

/-- A backing copy of the page is due (Table 7-6, FAR_BACKING): in ascending slot order where the far tier cannot back all of the
near tier (R158). -/
def Mach.backs (m : Mach) (t : Tensor) (page : Nat) : Bool :=
  m.on F.almMigrateFarBacking kp && (m.unbacked t).contains page &&
  (decide (nearSize ≤ farSize m.fuses) || m.alm.plans.all (fun p => p.tensors.all (fun x =>
    (m.unbacked x).all (fun k => decide (t.slot * 2 ^ 20 + page ≤ x.slot * 2 ^ 20 + k)))))

/-- Every operation of a running event that names the tensor has completed. -/
def Mach.unnamed (m : Mach) (p : Plan) (t : Tensor) : Bool :=
  m.alm.jobs.all (fun j => j.plan != p.id || (match j.run with
    | none => true
    | some ev => (p.eventOps ev.no).all (fun o => ev.done.contains o || !((p.ops[o]?).map (fun r => r.names t.handle)).getD false)))

/-- A cluster whose reservation is requested or in effect. -/
def Mach.requested (m : Mach) (c : Nat) : Bool :=
  if c < 32 then bitOf c (m.rd F.almReserveLo kp) else bitOf (c - 32) (m.rd F.almReserveHi kp)

def slabCluster (code : Nat) : Nat := bitsOf 15 13 code * 10 + bitsOf 12 9 code
def slabBank (code : Nat) : Nat := slabCluster code * 16 + bitsOf 8 5 code

/-- A slab of the page lies in a cluster whose reservation is requested (R170 step 3). -/
def Mach.slabWanted (m : Mach) (e : Nat) : Bool :=
  (upFrom 0 32).any (fun k => m.slabCode 0 (ptePrimary e) k != 0xFFFF && m.requested (slabCluster (m.slabCode 0 (ptePrimary e) k)))

/-- Whether a slab may be placed (R155, R170): in the module, free, in a bank that is not retired, of a cluster that is not wanted in
raw mode, whose owner group admits the cluster's tiles and vector engine and the movers of its die. -/
def Mach.codeOk (m : Mach) (code : Nat) : Bool :=
  code == 0xFFFF ||
  (decide (bitsOf 15 13 code < 6) && decide (bitsOf 12 9 code < 10) && decide (bitsOf 4 0 code < 20) && SMap.get 0 code m.alm.slabs == 0 &&
   !m.alm.migs.any (fun g => g.dst.tier == 2 && g.codes.contains code) && !bankRetired m (slabBank code) && !m.isRaw (slabCluster code) &&
   !m.requested (slabCluster code) && (upFrom 0 17).all (fun b => bankAdm m (slabBank code) (.local b) == .ok) &&
   (upFrom 0 4).all (fun k => bankAdm m (slabBank code) (.remote (idMover (slabCluster code / 10) k)) == .ok))

/-- The trigger of Table 7-6 behind a move of a page to a tier. -/
def Mach.triggered (m : Mach) (p : Plan) (t : Tensor) (page tier : Nat) : Bool :=
  let e := m.pteEntry 0 (t.ptBase + page)
  if tier = 2 then t.hint == 1 && ptePTier e != 2 && m.alm.jobs.any (fun j => j.plan == p.id && (match j.run with
    | some ev => ev.phase == 1 && opReady p ev t.firstOp
    | none => false))
  else if ptePTier e = 2 then m.slabWanted e || m.unnamed p t
  else if tier = 0 then ptePTier e == 1 && t.promotes && m.awaitsFirst p
  else ptePTier e == 0 && (m.backs t page || (m.cold p t && decide (m.nearFree < m.promotions) &&
    m.alm.plans.all (fun q => q.tensors.all (fun x => !m.cold q x || decide (t.used ≤ x.used)))))

/-- Whether a migration's destination can be taken. -/
def Mach.migDstOk (m : Mach) (t : Tensor) (page tier loc : Nat) (codes : List Nat) : Bool :=
  if tier = 2 then decide (loc < 32768) && !m.usedLists.contains loc && codes.length == 32 && codes.all m.codeOk && !repeated (codes.filter (fun c => c != 0xFFFF))
  else m.pageFree ⟨tier, loc⟩ && (!m.usedLocs.contains loc ||
    (ptePTier (m.pteEntry 0 (t.ptBase + page)) == 2 && pteBTier (m.pteEntry 0 (t.ptBase + page)) == 3 && t.pages[page]? == some ⟨tier, loc⟩))

/-- MIGRATION_START: MOVING is set in all six copies and the translators are to drop the entry. -/
def opMigrationStart (slot page tier loc : Nat) (codes : List Nat) (tag : Nat) (m : Mach) : Mach :=
  match m.tensorOfSlot slot with
  | none => m
  | some (p, t) =>
    let i := t.ptBase + page
    let e := m.pteEntry 0 i
    if !m.almUp || !m.on F.almMigrateEn kp || decide (pagesOf t.bytes ≤ page) || pteMoving e || m.pinned p t || !m.triggered p t page tier ||
       !m.migDstOk t page tier loc codes then m
    else
      let m1 := m.putPte i (e + 2 ^ 59)
      { m1 with alm := { m1.alm with migs := m1.alm.migs ++ [⟨slot, page, ⟨tier, loc⟩, codes, tag, 0, [], tier == 1 && m.backs t page⟩] } }

/-- INVALIDATE: the translator of engine d drops the entry; it acknowledges once no access it resolved through it is open (07 R156
step 2). -/
def opInvalidate (d slot page : Nat) (m : Mach) : Mach :=
  match m.tensorOfSlot slot with
  | none => m
  | some (_, t) =>
    let i := t.ptBase + page
    let used := m.xlatInUse d (m.pteEntry d i)
    { m with alm := { m.alm with
        cache := SMap.erase (cacheKey d i) m.alm.cache,
        migs := m.alm.migs.map (fun (x : Mig) => if x.slot = slot ∧ x.page = page ∧ !used then { x with acks := setBit d x.acks } else x) } }

/-- The address of part k of the page an entry places: none where nothing is stored there. -/
def Mach.partAt (m : Mach) (e k : Nat) : Option Nat :=
  match m.pteAt 0 e (k * 0x10000) with
  | .at_ a => some a
  | _ => none

/-- The address part k of a migration goes to: none where a slab list keeps it in its backing page. -/
def Mig.partTo (g : Mig) (k : Nat) : Option Nat :=
  if g.dst.tier = 2 then (if nth 0xFFFF g.codes k = 0xFFFF then none else some (slabAddr (nth 0xFFFF g.codes k) 0))
  else some (g.dst.loc * 0x200000 + k * 0x10000)

/-- The parts that have to be copied. -/
def Mach.partsOf (m : Mach) (e : Nat) (g : Mig) : List Nat :=
  (upFrom 0 32).filter (fun k => (m.partAt e k).isSome && (g.partTo k).isSome && m.partAt e k != g.partTo k)

/-- The entry a migration leaves (R155, R156): a slab list keeps a page behind it for the kinds that have one. -/
def newPte (e kind : Nat) (g : Mig) : Nat :=
  if g.backing then mkPte (ptePrimary e) g.dst.loc 0 1 true false
  else if g.dst.tier = 2 then (if kindBacked kind then mkPte g.dst.loc (ptePrimary e) 2 (ptePTier e) true false else mkPte g.dst.loc 0 2 3 true false)
  else if pteBTier e = 3 ∨ ptePTier e = 2 ∨ pteBacking e = g.dst.loc then mkPte g.dst.loc 0 g.dst.tier 3 true false
  else mkPte g.dst.loc (pteBacking e) g.dst.tier (pteBTier e) true false

/-- The codes of a slab list's page, whose slabs are to be released. -/
def Mach.codesOf (m : Mach) (e : Nat) : List Nat :=
  if ptePTier e = 2 then ((upFrom 0 32).map (m.slabCode 0 (ptePrimary e))).filter (fun c => c != 0xFFFF) else []

/-- Slabs are released. -/
def Mach.freeSlabs (m : Mach) (codes : List Nat) : Mach :=
  { m with alm := { m.alm with slabs := codes.foldl (fun s c => SMap.erase c s) m.alm.slabs } }

/-- An entry is rewritten in all six copies and invalidated, and held accesses go on (R156 steps 4 and 5). -/
def Mach.rewritePte (m : Mach) (i e : Nat) : Mach :=
  let m1 := m.putPte i e
  let m2 : Mach := { m1 with alm := { m1.alm with cache := m1.alm.cache.filter (fun x => x.1 % 2 ^ 20 != i) } }
  (upFrom 0 6).foldl (fun m d => m.release_ d (m.holdsOf d)) m2

/-- The page that stands behind a page of a tensor. -/
def Mach.setHome (m : Mach) (p : Plan) (t : Tensor) (page : Nat) (x : PageLoc) : Mach :=
  m.setTensor p { t with pages := setNth t.pages page x }

/-- MIGRATION_FINISH: after all six acknowledgements and the copy, the new entry is written, invalidated again, and held accesses
go on (07 R156 steps 4 and 5). -/
def opMigrationFinish (slot page : Nat) (m : Mach) : Mach :=
  match m.tensorOfSlot slot, m.alm.migs.find? (fun x => x.slot == slot && x.page == page) with
  | some (p, t), some g =>
    let i := t.ptBase + page
    let e := m.pteEntry 0 i
    if g.acks ≠ 0x3F ∨ !(m.partsOf e g).all (fun k => g.copied.contains k) ∨ !m.procUp 1 then m
    else
      let m1 := if g.backing then m else m.freeSlabs (m.codesOf e)
      let m2 := if g.dst.tier = 2 then m1.sixPut (fun d => m1.slabListAddr d g.dst.loc) (g.codes.flatMap (leBytes 2))
        else if g.backing then m1 else m1.setHome p t page g.dst
      let slabs := if g.dst.tier = 2 then g.codes.foldl (fun s c => if c = 0xFFFF then s else SMap.put 0 c (slot + 1) s) m2.alm.slabs else m2.alm.slabs
      ({ m2 with alm := { m2.alm with migs := m2.alm.migs.erase g, slabs := slabs } } : Mach).rewritePte i (newPte e t.kind g)
  | _, _ => m

/-- A page in slabs goes back to the page behind it, and its slabs are released (Table 7-6; R148). -/
def Mach.releasePage (m : Mach) (t : Tensor) (page : Nat) : Mach :=
  let i := t.ptBase + page
  let e := m.pteEntry 0 i
  if ptePTier e ≠ 2 ∨ pteMoving e then m
  else
    let x := if pteBTier e = 3 then (t.pages[page]?).getD ⟨0, 0⟩ else ⟨pteBTier e, pteBacking e⟩
    (m.freeSlabs (m.codesOf e)).rewritePte i (mkPte x.loc 0 x.tier 3 true false)

/-- After LAST_OP the slabs of a tensor are released: those of a SCRATCH tensor with its contents, those with a backing page to it;
what has neither is written back by a migration first (R155). -/
def Mach.releaseTensor (m : Mach) (t : Tensor) : Mach :=
  if kindBacked t.kind ∨ t.kind = 5 then (upFrom 0 (pagesOf t.bytes)).foldl (fun m k => m.releasePage t k) m else m

/-- One burst of an evacuation: from the page, or from its backing page (07 R158). -/
def Mach.evacBurst (m : Mach) (src back dst : Nat) (hasBack : Bool) : Bool × Mach :=
  let r := m.readUnit idHealth src
  if r.2.1 / 2 = 0 then (true, r.2.2.writeAt dst r.1)
  else if hasBack then
    let b := r.2.2.readUnit idHealth back
    if b.2.1 / 2 = 0 then (true, b.2.2.writeAt dst b.1) else (false, b.2.2)
  else (false, r.2.2)

def Mach.evacBursts (m : Mach) (src back dst : Nat) (hasBack : Bool) : Nat → Bool × Mach
  | 0 => (true, m)
  | n + 1 =>
    let r := m.evacBurst src back dst hasBack
    let s := r.2.evacBursts (src + 64) (back + 64) (dst + 64) hasBack n
    (r.1 && s.1, s.2)

/-- Whether a location lies on a retired near page. -/
def Mach.locRetired (m : Mach) (tier loc : Nat) : Bool :=
  tier == 0 && (match placeOf m.fuses (loc * 0x200000) with
    | .near d o => m.isRetired d (nearPage o)
    | _ => false)

/-- The running events of a plan's jobs carry a flag (05 Table 5-1a). -/
def Mach.flagPlan (m : Mach) (p : Plan) (fl : Nat) : Mach :=
  { m with alm := { m.alm with jobs := m.alm.jobs.map (fun (j : Job) =>
      if j.plan = p.id then { j with run := j.run.map (fun (e : Event) => { e with flags := e.flags ||| fl }) } else j) } }

/-- The part of EVACUATION that moves a page of a table area, from another engine's copy (R158). -/
def Mach.evacTable (m : Mach) (d page : Nat) (dst : PagePick) : Mach :=
  let src := m.tabAddr d (page * 0x200000)
  let other := m.tabAddr (if d = 0 then 1 else 0) (page * 0x200000)
  let r := m.evacBursts other other (dst.loc * 0x200000) false 32768
  if !m.locRetired 0 (src / 0x200000) || dst.tier != 0 || !r.1 then m
  else { r.2 with alm := { r.2.alm with tabs := SMap.put 0 (32 * d + page) (dst.loc + 1) r.2.alm.tabs } }

/-- EVACUATION (07 R157, R158): HEALTH moves a retired near page, a primary, a backing page or, by slots from 65,536, a page of engine
slot - 65,536's table area; a burst with no readable copy makes the tensor LOST. -/
def opEvacuation (slot page : Nat) (dst : PagePick) (m : Mach) : Mach :=
  if !m.procUp 3 || !m.pageFree dst || m.usedLocs.contains dst.loc then m
  else if 65536 ≤ slot then (if slot < 65542 ∧ page < 32 then m.evacTable (slot - 65536) page dst else m)
  else match m.tensorOfSlot slot with
  | none => m
  | some (p, t) =>
    let i := t.ptBase + page
    let e := m.pteEntry 0 i
    if decide (pagesOf t.bytes ≤ page) || pteMoving e then m
    else if m.locRetired (ptePTier e) (ptePrimary e) then
      let r := m.evacBursts (ptePrimary e * 0x200000) (pteBacking e * 0x200000) (dst.loc * 0x200000) (pteBTier e != 3) 32768
      let m1 := if r.1 then r.2 else r.2.setLost t true
      let m2 : Mach := { m1 with alm := { m1.alm with
        jobs := if dst.tier = 1 then m1.alm.jobs.map (fun (j : Job) => if j.plan = p.id then { j with extraFar := j.extraFar + 0x200000 } else j)
                else m1.alm.jobs } }
      ((m2.setHome p t page ⟨dst.tier, dst.loc⟩).flagPlan p flPageRetired).rewritePte i (mkPte dst.loc (pteBacking e) dst.tier (pteBTier e) true false)
    else if m.locRetired (pteBTier e) (pteBacking e) then
      let r := m.evacBursts (pteBacking e * 0x200000) 0 (dst.loc * 0x200000) false 32768
      ((r.2.setHome p t page (if ptePTier e = 2 then ⟨dst.tier, dst.loc⟩ else (t.pages[page]?).getD ⟨0, 0⟩)).flagPlan p flPageRetired).rewritePte i
        (mkPte (ptePrimary e) (if r.1 then dst.loc else 0) (ptePTier e) (if r.1 then dst.tier else 3) true false)
    else if ptePTier e = 2 ∧ ((t.pages[page]?).map (fun x => m.locRetired x.tier x.loc)).getD false then m.setHome p t page ⟨dst.tier, dst.loc⟩
    else m

/-- TRAIN_STEP_TIMEOUT (09 R204, R208): the channel fails; HEALTH reports the addresses of lost writes and ALMANAC marks the tensors they lie
in. -/
def opTrainStepTimeout (ch : Nat) (noWindow : Bool) (m : Mach) : Mach :=
  let pages := if (m.farCh ch).step = 0 then [] else (m.farLostWrites ch).map (fun p => farAddr m.fuses ch p / 0x200000)
  let hit (t : Tensor) : Bool := (upFrom t.ptBase (pagesOf t.bytes)).any (fun i =>
    ptePTier (m.pteEntry 0 i) == 1 && pages.contains (ptePrimary (m.pteEntry 0 i)))
  ((m.alm.plans.flatMap (fun p => p.tensors)).filter hit).foldl (fun m t => m.setLost t true) (m.farTimeout ch noWindow)

/-! Page movers (07 R159, R160) -/

def Mach.mover (m : Mach) (d k : Nat) : Mover := SMap.get Mover.init (4 * d + k) m.alm.movers
def Mach.setMover (m : Mach) (d k : Nat) (x : Mover) : Mach :=
  { m with alm := { m.alm with movers := SMap.put Mover.init (4 * d + k) x m.alm.movers } }

def pmWriter (who : Nat) : Bool := who == idAlmanac || who == idHealth

/-- PM_CMD_ENQUEUE: words 0 to 2 as last written and word 3; 0 bursts is reserved and enqueues nothing. -/
def opPmCmdEnqueue (d k who w3 : Nat) (m : Mach) : Mach :=
  let x := m.mover d k
  let n := w3 / 65536
  if !pmWriter who then m.respond who rsRefused
  else if x.held.isSome then m
  else if n = 0 ∨ 32768 < n then m.respond who rsOk
  else if 16 ≤ x.queue.length then m.setMover d k { x with held := some (who, w3) }
  else (m.setMover d k { x with queue := x.queue ++ [(who, x.staging ++ [w3])] }).respond who rsOk

def opPmCmdHeldRelease (d k : Nat) (m : Mach) : Mach :=
  let x := m.mover d k
  match x.held with
  | none => m
  | some (who, w3) =>
    if 16 ≤ x.queue.length then m
    else (m.setMover d k { x with queue := x.queue ++ [(who, x.staging ++ [w3])], held := none }).respond who rsOk

/-- A store makes some burst of a move wait, as any other master's (R159): the command has not ended. -/
def Mach.moveWaits (m : Mach) (who src dst n : Nat) : Bool :=
  (upFrom 0 n).any (fun k => m.unitSay who (src + 64 * k) == .wait || m.unitSay who (dst + 64 * k) == .wait)

/-- The 64 KiB parts of a migration that a move without a failure copied (R156 step 3). -/
def Mach.partsMoved (m : Mach) (g : Mig) (src dst n : Nat) : List Nat :=
  match m.tensorOfSlot g.slot with
  | none => []
  | some (_, t) => (m.partsOf (m.pteEntry 0 (t.ptBase + g.page)) g).filter (fun k =>
      match m.partAt (m.pteEntry 0 (t.ptBase + g.page)) k, g.partTo k with
      | some a, some b => decide (src ≤ a) && decide (a + 0x10000 ≤ src + 64 * n) && b + src == dst + a
      | _, _ => false)

/-- Bursts copied by a mover; a burst that fails or is refused is counted and recorded. -/
def Mach.moveBursts (m : Mach) (d who src dst : Nat) : Nat → Nat → Nat × Mach
  | 0, fails => (fails, m)
  | n + 1, fails =>
    let miss (m : Mach) : Mach :=
      ((m.cnt F.pmFails d 1).wr F.pmFailAddrLo d (src % 2 ^ 32)).wr F.pmFailAddrHiAddr d (src / 2 ^ 32)
    if m.unitSay who src = .ok ∧ m.unitSay who dst = .ok then
      let r := m.readUnit who src
      if r.2.1 / 2 = 0 then (r.2.2.writeAt dst r.1).moveBursts d who (src + 64) (dst + 64) n fails
      else (miss r.2.2).moveBursts d who (src + 64) (dst + 64) n (fails + 1)
    else (miss m).moveBursts d who (src + 64) (dst + 64) n (fails + 1)

/-- PM_CMD_END: the command at the head has been carried out; its TAG and failed bursts go to its commander's first mailbox. A
migration's copy starts after the six acknowledgements (R156): a move made before them counts for none. -/
def opPmCmdEnd (d k : Nat) (m : Mach) : Mach :=
  let x := m.mover d k
  match x.queue with
  | [] => m
  | (who, w) :: l =>
    let src := (nth 0 w 0 + nth 0 w 1 % 65536 * 2 ^ 32) / 64 * 64
    let dst := (nth 0 w 2 + nth 0 w 3 % 65536 * 2 ^ 32) / 64 * 64
    let tag := nth 0 w 1 / 65536
    let n := nth 0 w 3 / 65536
    let as_ := if who = idHealth then idHealth else idMover d k
    if !bitOf k (m.rd F.pmCtrlRun d) || m.moveWaits as_ src dst n then m
    else
      let r := m.moveBursts d as_ src dst n 0
      let m1 := r.2.setMover d k { x with queue := l }
      let m2 : Mach := { m1 with alm := { m1.alm with migs := m1.alm.migs.map (fun (g : Mig) =>
        if g.tag = tag ∧ g.acks = 0x3F ∧ r.1 = 0 then { g with copied := g.copied ++ m.partsMoved g src dst n } else g) } }
      m2.mail (idMover d k) (if who = idHealth then 24 else 8) [tag, r.1]

/-! The meanings -/

def execPlanLoad (p : List TenPlace) (s : State) := s.on .uncore (opPlanLoad p)
def execPlanUnload (s : State) := s.on .uncore opPlanUnload
def execTensorWrite (s : State) := s.on .uncore opTensorWrite
def execTensorRead (s : State) := s.on .uncore opTensorRead
def execTranslate (d : DieNo) (who slot off : Nat) (w : Bool) (s : State) := s.on (.noc d.val) (opTranslate d.val who slot off w)
def execMigrationStart (slot page : Nat) (t : Fin 3) (loc : Nat) (codes : List Nat) (tag : Nat) (s : State) :=
  s.on .uncore (opMigrationStart slot page t.val loc codes tag)
def execInvalidate (d : DieNo) (slot page : Nat) (s : State) := s.on (.noc d.val) (opInvalidate d.val slot page)
def execMigrationFinish (slot page : Nat) (s : State) := s.on .uncore (opMigrationFinish slot page)
def execEvacuation (slot page : Nat) (dst : PagePick) (s : State) := s.on .uncore (opEvacuation slot page dst)
def execTrainStepTimeout (h : Fin 24) (nw : Bool) (s : State) := s.on (.far (h.val / 4)) (opTrainStepTimeout h.val nw)
def execPmCmdEnqueue (d : DieNo) (k : Fin 4) (who : Nat) (w : Word) (s : State) := s.on (.noc d.val) (opPmCmdEnqueue d.val k.val who w.toNat)
def execPmCmdHeldRelease (d : DieNo) (k : Fin 4) (s : State) := s.on (.noc d.val) (opPmCmdHeldRelease d.val k.val)
def execPmCmdEnd (d : DieNo) (k : Fin 4) (s : State) := s.on (.noc d.val) (opPmCmdEnd d.val k.val)

end Sys2Proof.Machine
end

