-- ==== Sys2Proof/Machine/Jobs.lean ====
section
/-! DEFINITION. Admission, jobs and their events, placement, shares and reservations: chapter 7, the job's part of chapters 5
and 15. -/

namespace Sys2Proof.Machine

/-! Jobs, events and shares -/

def Mach.jobOf (m : Mach) (j : Nat) : Option Job := m.alm.jobs.find? (fun x => x.id == j)
def Mach.planOf (m : Mach) (p : Nat) : Option Plan := m.alm.plans.find? (fun x => x.id == p)
def Mach.setJob (m : Mach) (x : Job) : Mach :=
  { m with alm := { m.alm with jobs := m.alm.jobs.map (fun y => if y.id = x.id then x else y) } }
def Mach.setShare (m : Mach) (x : Share) : Mach :=
  { m with alm := { m.alm with shares := m.alm.shares.map (fun y => if y.id = x.id then x else y) } }
def Mach.sharesOf (m : Mach) (j : Nat) : List Share := m.alm.shares.filter (fun s => s.job == j)

/-- A change of a job's running event. -/
def Job.onRun (j : Job) (f : Event → Event) : Job := { j with run := j.run.map f }

/-- The key of a job's host transfers. -/
def jobKey (j : Nat) : Nat := 2 * j + 1

/-- Work of a job that a unit still holds. -/
def Mach.jobBusy (m : Mach) (j : Nat) : Bool := (m.sharesOf j).any (fun s => decide (0 < s.waits))

/-- A record of a job (15 R368, R369). -/
def Mach.jobRec (m : Mach) (j : Job) (kind status detail flags evNo lost : Nat) : Mach :=
  m.formRec j.sq j.cq j.descId (decide (kind = 2) && j.onEnd) j.id status detail kind flags evNo lost

/-- Tensors of a plan are used now (Table 7-6). -/
def usedNow (plan now : Nat) (f : Tensor → Bool) (l : List Plan) : List Plan :=
  l.map (fun q => if q.id = plan then { q with tensors := q.tensors.map (fun t => if f t then { t with used := now } else t) } else q)

/-- The END record of a job, which leaves Almanac (05 R112). -/
def Mach.endJob (m : Mach) (j : Job) (aborted : Bool) (detail : Nat) : Mach :=
  let st := if aborted then stAborted else j.statuses.foldl statusMin stOk
  let m1 : Mach := { m with alm := { m.alm with jobs := m.alm.jobs.filter (fun x => x.id != j.id),
                                                shares := m.alm.shares.filter (fun s => s.job != j.id),
                                                owed := m.alm.owed.filter (fun o => o.job != j.id),
                                                plans := usedNow j.plan m.usec (fun _ => true) m.alm.plans } }
  (m1.setIo (jobKey j.id) Io.none).jobRec j 2 st detail j.flags 0xFFFFFFFF 0

/-! Capacities and the tests of admission (07 R164 to R166) -/

/-- Tiles of a cluster that are not fenced. -/
def Mach.liveTiles (m : Mach) (c : Nat) : Nat := ((upFrom (16 * c) 16).filter (fun t => !m.on F.tileFenceFenced (tileIx t))).length

/-- Clusters that are neither reserved nor left out. -/
def Mach.openClusters (m : Mach) (without : Option Nat) : List Nat :=
  (upFrom 0 60).filter (fun c => !m.isRaw c && without != some c)

/-- n of the ARRAY clock fraction s = n / 16 (R164, 17). -/
def Mach.sixteenths (m : Mach) : Nat := m.rd F.vigilCapN kp

/-- The three loads, in cluster-ns, near bytes and far bytes per second. -/
structure Load where
  cl : Nat
  near : Nat
  far : Nat
  deriving DecidableEq, Repr

def Load.add (a b : Load) : Load := ⟨a.cl + b.cl, a.near + b.near, a.far + b.far⟩
def Load.zero : Load := ⟨0, 0, 0⟩

def loadOf (j : Job) (p : Plan) : Load := ⟨j.rate * p.work, j.rate * p.nearb, j.rate * (p.farb + j.extraFar)⟩

/-- Whether a load is within what others leave: each inequality of R164 cross-multiplied. none: the resource's test is passed by a
load of 0. -/
def Mach.withinCl (m : Mach) (without : Option Nat) (l others : Nat) : Bool :=
  let n16 := (m.openClusters without).foldl (fun s c => s + m.liveTiles c) 0
  decide (25600 * (l + others) ≤ m.rd F.almAdmitAdmitPct kp * n16 * m.sixteenths * 1000000000)

def Mach.withinNear (m : Mach) (l others : Nat) : Bool :=
  decide (100 * (l + others) ≤ m.rd F.almAdmitAdmitPct kp * 6 * m.rd F.almCapNearGbps kp * 1000000000)

/-- Far channels in service. -/
def Mach.farServing (m : Mach) : Nat := ((upFrom 0 24).filter (fun h => m.on F.farStatusReady (farIx h))).length

def Mach.withinFar (m : Mach) (l others : Nat) : Bool :=
  decide (100 * (l + others) ≤ m.rd F.almAdmitAdmitPct kp * m.farServing * m.rd F.almCapFarGbps kp * 1000000000)

/-- Both conditions on a set of K clusters (R164). -/
def Mach.setFits (m : Mach) (j : Job) (p : Plan) (k : Nat) : Bool :=
  let n := m.sixteenths
  let b := if j.burst = 0 then (j.bindings.filter (fun x => x.dir == 2)).length else j.burst
  decide (16 * p.span * k + m.rd F.almAdmitBlockUs kp * 1000 * k * n + 16 * b * p.work ≤ j.deadline * 1000 * k * n) &&
  decide (1600 * (j.rate * p.work) ≤ m.rd F.almAdmitAdmitPct kp * k * n * 1000000000)

/-- The STREAM test: the smallest set that passes. -/
def Mach.streamTest (m : Mach) (without : Option Nat) (pref taken : List Nat) (others : Load) (j : Job) (p : Plan) : Option (List Nat) :=
  let l := loadOf j p
  let opens := (m.openClusters without).filter (fun c => !taken.contains c && decide (0 < m.liveTiles c))
  let free := pref.filter (fun c => opens.contains c) ++ opens.filter (fun c => !pref.contains c)
  if m.withinCl without l.cl others.cl && m.withinNear l.near others.near && m.withinFar l.far others.far then
    ((upFrom 1 (min p.maxpar free.length)).find? (m.setFits j p)).map (fun k => free.take k)
  else none

/-- The GEN test. -/
def Mach.genTest (m : Mach) (without : Option Nat) (others : Load) (j : Job) (p : Plan) : Bool :=
  let l := loadOf j p
  decide (16 * p.span * j.rate ≤ 1000000000 * m.sixteenths) && (l.cl == 0 || m.withinCl without l.cl others.cl) &&
  (l.near == 0 || m.withinNear l.near others.near) && (l.far == 0 || m.withinFar l.far others.far)

/-- An admitted job's own test with a new job's load added; its set stands (R165), and K is its size. -/
def Mach.stillPasses (m : Mach) (others : Load) (j : Job) (p : Plan) : Bool :=
  let l := loadOf j p
  if j.cls = 0 then m.withinCl none l.cl others.cl && m.withinNear l.near others.near && m.withinFar l.far others.far &&
    decide (0 < j.nextSet.length) && m.setFits j p j.nextSet.length
  else m.genTest none others j p

/-- Admitted STREAM and GEN jobs with their plans. -/
def Mach.guarded (m : Mach) : List (Job × Plan) :=
  m.alm.jobs.filterMap (fun j => if j.cls = 2 then none else (m.planOf j.plan).map (fun p => (j, p)))

def sumLoads (l : List (Job × Plan)) : Load := l.foldl (fun s x => s.add (loadOf x.1 x.2)) Load.zero

/-- The admission test of a new job (R165): its set, or none where it is refused. -/
def Mach.takeJob (m : Mach) (pref : List Nat) (j : Job) (p : Plan) : Option (List Nat) :=
  if !bitOf j.cls p.classes then none
  else if j.cls = 2 then some []
  else
    let held := m.guarded.filter (fun x => x.1.held)
    let taken := m.alm.jobs.flatMap (fun x => x.set ++ x.nextSet)
    if m.guarded.any (fun x => !x.1.held) then none
    else
      let mine := if j.cls = 0 then m.streamTest none pref taken (sumLoads held) j p
        else if m.genTest none (sumLoads held) j p then some [] else none
      let ok := held.all (fun x => m.stillPasses ((sumLoads (held.filter (fun y => y.1.id != x.1.id))).add (loadOf j p)) x.1 x.2)
      if ok then mine else none

/-- One verdict of a re-evaluation: the job, whether its guarantee is held, its set. -/
structure Verdict where
  id : Nat
  held : Bool
  set : List Nat
  deriving DecidableEq, Repr

/-- The STREAM pass: each job counts the earlier ones that passed (R166). -/
def Mach.streamPass (m : Mach) (without : Option Nat) (pref : List Nat) : List (Job × Plan) → Load → List Nat → List Verdict × Load × List Nat
  | [], l, t => ([], l, t)
  | (j, p) :: js, l, t =>
    match m.streamTest without pref t l j p with
    | some s =>
      let r := m.streamPass without pref js (l.add (loadOf j p)) (t ++ s)
      (⟨j.id, true, s⟩ :: r.1, r.2)
    | none =>
      let r := m.streamPass without pref js l t
      (⟨j.id, false, j.nextSet.filter (fun c => !r.2.2.contains c && (m.openClusters without).contains c)⟩ :: r.1, r.2)

/-- The GEN pass. -/
def Mach.genPass (m : Mach) (without : Option Nat) : List (Job × Plan) → Load → List Verdict
  | [], _ => []
  | (j, p) :: js, l =>
    if m.genTest without l j p then ⟨j.id, true, []⟩ :: m.genPass without js (l.add (loadOf j p))
    else ⟨j.id, false, []⟩ :: m.genPass without js l

/-- Both passes of R166. -/
def Mach.verdicts (m : Mach) (without : Option Nat) (pref : List Nat) : List Verdict :=
  let s := m.streamPass without pref (m.guarded.filter (fun x => x.1.cls == 0)) Load.zero []
  s.1 ++ m.genPass without (m.guarded.filter (fun x => x.1.cls == 1)) s.2.1

/-- ALM_STATUS.BROKEN (R169): the guarantee of an admitted STREAM or GEN job is broken. -/
def Mach.broken (m : Mach) : Bool := m.alm.jobs.any (fun j => j.cls != 2 && !j.held)

/-- Changes of STREAM sets take effect at operation boundaries on each cluster (R166): one where no share runs. -/
def Mach.settleSets (m : Mach) : Mach :=
  let busy (c : Nat) : Bool := m.alm.shares.any (fun s => s.cluster == c && !s.ended)
  { m with alm := { m.alm with jobs := m.alm.jobs.map (fun j =>
      if j.set = j.nextSet then j
      else { j with set := (upFrom 0 60).filter (fun c => if busy c then j.set.contains c else j.nextSet.contains c) }) } }

/-- Re-evaluation: guarantees and STREAM sets as the passes leave them (R166). -/
def Mach.reevaluate (m : Mach) (pref : List Nat) : Mach :=
  let vs := m.verdicts none pref
  let jobs := m.alm.jobs.map (fun j => match vs.find? (fun v => v.id == j.id) with
    | some v => { j with held := v.held, nextSet := v.set }
    | none => j)
  (({ m with alm := { m.alm with jobs := jobs } } : Mach).settleSets).cnt F.almEvals kp 1

/-- CAPACITY_REEVALUATION. -/
def opCapacityReevaluation (pref : List Nat) (m : Mach) : Mach := if m.procUp 1 then m.reevaluate pref else m

/-! Submission (15 R366 to R368) -/

/-- The entries of a binding list. -/
def bindingsOf : Nat → List Byte → List Binding
  | 0, _ => []
  | n + 1, b => ⟨im b 0 4, im b 4 1, im b 5 1, im b 8 8⟩ :: bindingsOf n (b.drop 16)

/-- Bytes 6 and 7 of an entry that are not 0. -/
def bindingsStray : Nat → List Byte → Bool
  | 0, _ => false
  | n + 1, b => im b 6 2 != 0 || bindingsStray n (b.drop 16)

def Plan.tensor (p : Plan) (h : Nat) : Option Tensor := p.tensors.find? (fun t => t.handle == h)

/-- A binding with an unknown handle, the wrong tensor kind or a refused window (Table 15-9). -/
def Mach.bindingBad (m : Mach) (p : Plan) (b : Binding) : Bool :=
  match p.tensor b.handle with
  | none => true
  | some t =>
    if b.dir = 0 then t.kind != 2 || decide (16 ≤ b.win) || !m.on F.hlWinValid (winIx b.win) || !m.on F.hlWinRead (winIx b.win)
    else if b.dir = 1 then t.kind != 3 || decide (16 ≤ b.win) || !m.on F.hlWinValid (winIx b.win) || !m.on F.hlWinWrite (winIx b.win)
    else if b.dir = 2 then t.kind != 2 || decide (36 ≤ b.win)
    else true

/-- The job a descriptor asks for. -/
def jobFrom (t : Ticket) (id now : Nat) (bs : List Binding) : Job :=
  let b := t.bytes
  { id := id, plan := dsPlan b, cls := dsClass b, rate := dsRate b, deadline := dsDeadline b, burst := dsBurst b, seed := dsArg b,
    events := dsEvents b, sq := t.sq, cq := dsCq b, descId := dsId b, onEnd := dsOnEnd b, trapWin := dsTrapWin b, trapOff := dsTrapOff b,
    bindings := bs, held := decide (dsClass b ≠ 2), set := [], nextSet := [], extraFar := 0, nextEv := 0, run := none, frames := 0, stop := false,
    grace := none, statuses := [], flags := 0, last := now, traps := [] }

/-- JOB: the binding list is read, the checks of Table 15-9 are made, and the job is admitted or refused. -/
def opJob (pref : List Nat) (m : Mach) : Mach :=
  match m.ticketOf 1 with
  | none => m
  | some t =>
    if !m.almUp then m
    else match m.planOf (dsPlan t.bytes) with
      | none => m.endTicket t 0 stAborted 0x81
      | some p =>
        let n := dsCount t.bytes
        if 256 < n then m.endTicket t 0 stAborted 0x82
        else if !t.begun then (m.begin_ t).askRead 2 (2 * t.no) (dsWin t.bytes) (dsOff t.bytes) (16 * n)
        else
          let io := m.io (2 * t.no)
          let bs := bindingsOf n io.buf
          if io.waits ≠ 0 then m
          else if io.fail || bindingsStray n io.buf || bs.any (m.bindingBad p) then m.endTicket t 0 stAborted 0x82
          else
            let id := m.alm.nextJob + 1
            let m1 : Mach := { m with alm := { m.alm with nextJob := id } }
            let j := jobFrom t id m.usec bs
            match m1.takeJob pref j p with
            | none => (m1.cnt F.almRefusals kp 1).endTicket t id stRefused 0
            | some s =>
              let m2 : Mach := { m1 with alm := { m1.alm with jobs := m1.alm.jobs ++ [{ j with set := s, nextSet := s }] },
                                         hl := { m1.hl with tickets := m1.hl.tickets.filter (fun x => x.no != t.no) } }
              m2.setIo (2 * t.no) Io.none

/-- JOB_STOP: the job starts no further event; between events it ends at once. -/
def opJobStop (m : Mach) : Mach :=
  match m.ticketOf 4 with
  | none => m
  | some t =>
    if !m.procUp 1 then m
    else match m.jobOf (dsArg t.bytes) with
      | none => m.endTicket t 0 stAborted 0x83
      | some j =>
        let m1 := m.endTicket t j.id stOk 0
        if j.run.isNone then m1.endJob j true 0 else m1.setJob { j with stop := true }

/-! Events (15 R367, R368; 07 R167, R168) -/

/-- BYTES rounded up to a multiple of 64. -/
def round64 (n : Nat) : Nat := (n + 63) / 64 * 64

def Mach.bindingLen (m : Mach) (j : Job) (b : Binding) : Nat :=
  match (m.planOf j.plan).bind (fun p => p.tensor b.handle) with
  | some t => t.bytes
  | none => 0

/-- Reads of an event's window inputs are asked for. -/
def Mach.askInputs (m : Mach) (j : Job) (n : Nat) : Mach :=
  (j.bindings.filter (fun b => b.dir == 0)).foldl
    (fun m b => m.askRead 2 (jobKey j.id) b.win (b.off + n * round64 (m.bindingLen j b)) (m.bindingLen j b)) m

/-- The inputs are written into their tensors. -/
def Mach.putInputs (m : Mach) (j : Job) (p : Plan) (data : List Byte) : List Binding → Option Mach
  | [] => some m
  | b :: l =>
    match p.tensor b.handle with
    | none => m.putInputs j p data l
    | some t => (m.writeTensor idAlmanac t (data.take t.bytes) (pieces t.bytes)).bind (fun r => r.2.putInputs j p (data.drop t.bytes) l)

def newEvent (n : Nat) : Event := { no := n, done := [], flags := 0, statuses := [], undelivered := false, phase := 0, trapWritten := false }

/-- A migration of one of the plan's tensors is in flight. -/
def Mach.planMoves (m : Mach) (p : Plan) : Bool := m.alm.migs.any (fun g => p.tensors.any (fun t => t.slot == g.slot))

/-- The job's first event waits for the promotion of its plan's pages (Table 7-6), while migration is allowed and near space can be
had. -/
def Mach.firstWaits (m : Mach) (p : Plan) : Bool :=
  m.planMoves p || (m.on F.almMigrateEn kp && p.tensors.any (fun t => t.promotes && !(m.farPages t).isEmpty) &&
    (decide (0 < m.nearFree) || m.alm.plans.any (fun q => q.tensors.any (m.cold q))))

/-- JOB_EVENT_START: inputs are asked for; once they have come they are written and the event runs. -/
def opJobEventStart (job : Nat) (m : Mach) : Mach :=
  match m.jobOf job with
  | none => m
  | some j => match m.planOf j.plan with
    | none => m
    | some p =>
      if !m.procUp 1 then m
      else match j.run with
        | none =>
          if j.stop || (m.absent && j.bindings.any (fun b => b.dir == 0)) || j.grace == some 0 then m.endJob j true 0
          else if (j.cls = 0 ∧ (j.frames = 0 ∨ m.planMoves p)) ∨ (j.nextEv = 0 ∧ m.firstWaits p) then m
          else (m.setJob { j with run := some (newEvent j.nextEv), nextEv := j.nextEv + 1, frames := j.frames - 1 }).askInputs j j.nextEv
        | some ev =>
          let io := m.io (jobKey job)
          if ev.phase ≠ 0 ∨ io.waits ≠ 0 then m
          else if io.fail then m.endJob j true 0
          else match m.putInputs j p io.buf (j.bindings.filter (fun b => b.dir == 0)) with
            | none => m
            | some m1 => (m1.setIo (jobKey job) Io.none).setJob { j with run := some { ev with phase := 1 } }

/-- A frame that is dropped takes an event number (07 R167; 14 R350). -/
def Mach.dropFrame (m : Mach) (j : Job) : Mach :=
  let j1 : Job := { j with nextEv := j.nextEv + 1, statuses := j.statuses ++ [stFrameDropped] }
  let m1 := (m.setJob j1).jobRec j 1 stFrameDropped 0 0 j.nextEv 0
  if j.events ≠ 0 ∧ j.events ≤ j1.nextEv ∧ j.run.isNone then m1.endJob j1 false 0 else m1

/-- STREAM_FRAME_EVENT: the frame waits its turn, or is dropped; an absent host's grace counts it (15 R373). -/
def opStreamFrameEvent (job : Nat) (ok : Bool) (m : Mach) : Mach :=
  match m.jobOf job with
  | none => m
  | some j =>
    if j.cls ≠ 0 ∨ !m.procUp 1 then m
    else match j.grace with
      | some 0 => if j.run.isNone then m.endJob j true 0 else m
      | g =>
        let j1 : Job := { j with grace := g.map (fun k => k - 1) }
        if !ok || j.set.isEmpty || (!j.held && (j.run.isSome || decide (0 < j.frames))) then m.dropFrame j1
        else m.setJob { j1 with frames := j.frames + 1 }

/-- The lost time of a GEN event, in µs (07 R168). -/
def lostTime (now last rate : Nat) : Nat :=
  if rate = 0 then 0 else ((now - last) * rate - 1000000) / rate

/-- The EVENT record, and the END record where the event was the last (05 R112; 07 R168; 15 R368). -/
def Mach.finishEvent (m : Mach) (j : Job) (ev : Event) (detail : Nat) (last : Bool) : Mach :=
  let lost := if j.cls = 1 then lostTime m.usec j.last j.rate else 0
  let fl := if j.cls = 1 ∧ 0 < lost then ev.flags ||| flYield else ev.flags
  let extra := if j.cls = 1 ∧ !j.held then [stYielded] else []
  let st := (ev.statuses ++ extra).foldl statusMin (statusOfFlags fl)
  let j1 : Job := { j with run := none, statuses := j.statuses ++ [st], flags := j.flags ||| fl, last := m.usec }
  let m1 := ((m.setJob j1).setIo (jobKey j.id) Io.none).jobRec j 1 st detail fl ev.no lost
  let done := last || (j.events ≠ 0 && decide (j.events ≤ j.nextEv))
  if j.stop then m1.endJob j1 true 0 else if done then m1.endJob j1 false (detail % 2) else m1

/-- The output writes of an event; data that was lost gives DATA_LOST. -/
def Mach.askOutputs (m : Mach) (j : Job) (p : Plan) (ev : Event) : List Binding → Option (Event × Mach)
  | [] => some (ev, m)
  | b :: l =>
    match p.tensor b.handle with
    | none => m.askOutputs j p ev l
    | some t => match m.readTensor idAlmanac t (pieces t.bytes) with
      | none => none
      | some (d, marks, m1) =>
        let ev0 := if bitOf 0 marks then { ev with flags := ev.flags ||| flReread } else ev
        let ev1 := if bitOf 1 marks || bitOf 2 marks || bitOf 4 marks then { ev0 with statuses := ev0.statuses ++ [stDataLost] } else ev0
        (m1.askWrite 2 (jobKey j.id) b.win (b.off + ev.no * round64 t.bytes) d).askOutputs j p ev1 l

/-- JOB_EVENT_END: after the last operation the outputs are written; once each is acknowledged or undelivered the record is formed. An
event whose share was lost ends without outputs, and its job with it (05 R121). -/
def opJobEventEnd (job : Nat) (m : Mach) : Mach :=
  match m.jobOf job with
  | none => m
  | some j => match m.planOf j.plan, j.run with
    | some p, some ev =>
      if !j.traps.isEmpty || !m.procUp 1 then m
      else if ev.phase = 1 then
        if (p.eventOps ev.no).all (fun o => ev.done.contains o) then
          match m.askOutputs j p { ev with phase := 2 } (j.bindings.filter (fun b => b.dir == 1)) with
          | none => m
          | some (ev1, m1) => m1.setJob { j with run := some ev1 }
        else m
      else if ev.phase = 2 then
        let io := m.io (jobKey job)
        if io.waits ≠ 0 then m
        else m.finishEvent j { ev with undelivered := io.fail } (if io.fail then 2 else 0) false
      else if ev.phase = 4 ∧ !m.jobBusy job then m.finishEvent j ev 0 true
      else m
    | _, _ => m

/-! Placement and dispatch (07 R161 to R163; 05 R120) -/

/-- Clusters that may take a share of a job. -/
def Mach.mayPlace (m : Mach) (j : Job) (c : Nat) : Bool :=
  !m.isRaw c && !m.requested c && decide (0 < m.liveTiles c) && (j.cls != 0 || j.set.contains c)

/-- Whether the picks place a whole operation: each split segment, no unknown one (R150, R161). -/
def picksCover (r : OpRec) (picks : List SharePick) : Bool :=
  if r.splits.isEmpty then !picks.isEmpty && picks.all (fun s => s.split == 0)
  else (upFrom 0 r.splits.length).all (fun i => picks.any (fun s => s.split == i)) && picks.all (fun s => decide (s.split < r.splits.length))

/-- The tags of shares in use on a die, those they brought from earlier clusters among them. -/
def Mach.tagUsed (m : Mach) (die tag : Nat) : Bool :=
  m.alm.shares.any (fun s => s.tag == tag && (s.cluster :: s.before).any (fun c => c / 10 == die))

def tagClash (picks : List SharePick) : Bool := repeated (picks.map (fun s => s.cluster.val / 10 * 8192 + s.tag % 8192))

/-- The bytes of an operation's inputs in the near tier of an engine (R161). -/
def Mach.nearInput (m : Mach) (p : Plan) (r : OpRec) (d : Nat) : Nat :=
  (p.tensors.filter (fun t => r.ins.contains t.handle)).foldl (fun n t => (upFrom 0 (pagesOf t.bytes)).foldl (fun k i =>
    let e := m.pteEntry 0 (t.ptBase + i)
    if ptePTier e == 0 && (match placeOf m.fuses (ptePrimary e * 0x200000) with
      | .near x _ => x == d
      | _ => false) then k + min 0x200000 (t.bytes - i * 0x200000) else k) n) 0

/-- Whether a unit still has to issue what stands under a sequence number. -/
def Mach.unissued (m : Mach) (c : Nat) (x : Option Nat × Nat × Nat) : Bool :=
  match x.1 with
  | some t => (m.tile (16 * c + t)).queue.any (fun q => q.seq == x.2.1)
  | none => (m.ve c).queue.any (fun q => q.seq == x.2.1) || ((m.ve c).exec.map (fun e => e.cmd.seq == x.2.1)).getD false

/-- The declared durations queued on a cluster (R161). -/
def Mach.queuedWork (m : Mach) (c : Nat) : Nat :=
  (m.alm.shares.filter (fun s => s.cluster == c)).foldl (fun n s =>
    n + s.todo.foldl (fun k i => k + i.dur) 0 + (s.sent.filter (m.unissued c)).foldl (fun k x => k + x.2.2) 0) 0

/-- Almanac's preference between clusters (R161): the engine that holds most of the input bytes near, then the least queued work. -/
def Mach.preferred (m : Mach) (p : Plan) (r : OpRec) (a b : Nat) : Bool :=
  let x := m.nearInput p r (a / 10)
  let y := m.nearInput p r (b / 10)
  decide (y < x) || (x == y && decide (m.queuedWork a < m.queuedWork b))

/-- No cluster that the picks leave out is preferred to one they take. -/
def Mach.picksPreferred (m : Mach) (j : Job) (p : Plan) (r : OpRec) (cs : List Nat) : Bool :=
  ((upFrom 0 60).filter (fun c => m.mayPlace j c && !cs.contains c)).all (fun c => cs.all (fun x => !m.preferred p r c x))

/-- A migration of a tensor the operation names is in flight (05 R122). -/
def Mach.opMoves (m : Mach) (p : Plan) (r : OpRec) : Bool :=
  m.alm.migs.any (fun g => !g.backing && p.tensors.any (fun t => t.slot == g.slot && r.names t.handle))

/-- OP_PLACE. -/
def opOpPlace (job op : Nat) (picks : List SharePick) (m0 : Mach) : Mach :=
  let m := m0.settleSets
  match m.jobOf job with
  | none => m
  | some j => match m.planOf j.plan, j.run with
    | some p, some ev => (match p.ops[op]? with
      | none => m
      | some r =>
        let ok := m.almUp && ev.phase == 1 && j.traps.isEmpty && opReady p ev op && r.kind != 4 && picksCover r picks &&
          !m.alm.shares.any (fun s => s.job == job && s.op == op) && !m.opMoves p r &&
          decide ((distinct (picks.map (fun s => s.cluster.val))).length ≤ p.maxpar) &&
          picks.all (fun s => m.mayPlace j s.cluster.val && decide (s.tag < 8192) && !m.tagUsed (s.cluster.val / 10) s.tag) && !tagClash picks &&
          m.picksPreferred j p r (distinct (picks.map (fun s => s.cluster.val)))
        if !ok then m
        else
          let sh := (picks.zip (upFrom m.alm.nextShare picks.length)).map (fun x =>
            ({ id := x.2, job := job, op := op, split := x.1.split, cluster := x.1.cluster.val, before := [], tag := x.1.tag, work := [], todo := [],
               expanded := false, sent := [], waits := 0, failed := false, runs := 0, poisonNow := [], poisonBefore := [], ended := false } : Share))
          { m with alm := { m.alm with shares := m.alm.shares ++ sh, nextShare := m.alm.nextShare + picks.length,
                                       plans := usedNow j.plan m.usec (fun t => r.names t.handle) m.alm.plans } })
    | _, _ => m

/-- The class order of dispatch (R162). -/
def Job.order (j : Job) : Nat := if j.cls = 0 then 0 else if j.cls = 1 then (if j.held then 1 else 2) else 3

/-- The place of a share in the dispatch order of its cluster: class, admission, share. -/
def Mach.shareRank (m : Mach) (s : Share) : Nat :=
  match findIdx (fun x => x.id == s.job) m.alm.jobs, m.jobOf s.job with
  | some i, some j => (j.order * 2 ^ 20 + i) * 2 ^ 40 + s.id
  | _, _ => 2 ^ 70

/-- A share that still has something to dispatch, of a job that runs; its inputs are not present while its cluster is owed data that a
detached receiver left out (08 R191). -/
def Mach.dispatchable (m : Mach) (s : Share) : Bool :=
  !s.ended && !m.alm.owed.contains ⟨s.job, s.cluster⟩ && (!s.expanded || !s.todo.isEmpty) &&
  (match m.jobOf s.job with
    | some j => j.traps.isEmpty && (j.run.map (fun e => e.phase == 1)).getD false
    | none => false)

/-- A word with the share's OP_TAG in bits 31:19. -/
def withTag (w tag : Nat) : Nat := w % 2 ^ 19 + tag * 2 ^ 19

def putBit (k : Nat) (b : Bool) (n : Nat) : Nat := if b then setBit k n else clearBit k n

/-- Word i and the declared duration of template k of an operation's body. -/
def tmplWord (r : OpRec) (k i : Nat) : Nat := (Config.template r.body k).toNat / 2 ^ (32 * i) % 2 ^ 32
def tmplDur (r : OpRec) (k : Nat) : Nat := (Config.template r.body k).toNat / 2 ^ 512

/-- The bits of a word that a template fixes, and the others as placement has them. -/
def mixWord (mask tmpl pick : Nat) : Nat := (tmpl &&& mask) + (pick &&& (0xFFFFFFFF - mask))

/-- What the plan fixes of a tile command (05 R123; 03 Table 3-4): all of word 0 but M_COUNT and the trap enables. -/
def tileMask (i : Nat) : Nat := if i = 0 then 0xC0E7FFFF else 0

/-- What the plan fixes of a descriptor (05 R123; 04 Tables 4-2, 4-3): word 0 but the trap enable, KIND and FMT of each operand, the
broadcast bits, immediate values, and D0 of an operation that does not work on each lane alone. -/
def veMask (r : OpRec) (k i : Nat) : Nat :=
  if i = 0 then 0x7DFFF
  else if i = 1 then (if 0x30 ≤ tmplWord r k 0 % 256 then 0xFFFF else 0)
  else if i = 3 then 0xE0000000
  else if i ∈ [4, 7, 10, 13] then 0x7F
  else if i ∈ [5, 8, 11, 14] ∧ tmplWord r k (i - 1) % 8 = 4 then 0xFFFFFFFF
  else 0

/-- A picked item as a command or descriptor: the template's bits, the operation's trap enables and the share's OP_TAG put in (07 R149;
03 Table 3-4; 04 Table 4-2). -/
def itemOf (r : OpRec) (tag : Nat) (w : WorkPick) : WorkItem :=
  let ws := w.words.map (fun x => x.toNat)
  match w.tile with
  | some t =>
    let l := (upFrom 0 8).map (fun i => mixWord (tileMask i) (tmplWord r w.tmpl i) (nth 0 ws i))
    let l1 := setNth l 0 (putBit 20 (bitOf 1 r.flags) (putBit 19 (bitOf 0 r.flags) (nth 0 l 0)))
    { tile := some t.val, tmpl := w.tmpl, words := setNth l1 7 (withTag (nth 0 l1 7) tag), dur := tmplDur r w.tmpl }
  | none =>
    let l := (upFrom 0 16).map (fun i => mixWord (veMask r w.tmpl i) (tmplWord r w.tmpl i) (nth 0 ws i))
    { tile := none, tmpl := w.tmpl, words := setNth l 0 (withTag (putBit 13 (bitOf 1 r.flags) (nth 0 l 0)) tag), dur := tmplDur r w.tmpl }

/-- The K-blocks of a share's split segment: the first, and the one after the last (07 R150). -/
def kblkRange (r : OpRec) (split : Nat) : Nat × Nat :=
  match r.splits[split]? with
  | some s => (s.1, s.1 + s.2.1)
  | none => (0, 8192)

/-- Every MM of a share stands in its K-block range, and each accumulation, on its tile and accumulator row, has its K-blocks in
ascending KBLK_BASE from the first (05 R123). seen: the last KBLK_BASE by tile and row. -/
def accumOk (lo hi : Nat) : List WorkItem → SMap Nat → Bool
  | [], _ => true
  | i :: l, seen =>
    match i.tile with
    | none => accumOk lo hi l seen
    | some t =>
      if tcOpcode i.words = 1 then
        let k := tcKblk i.words
        let key := t * 1024 + tcAccBase i.words
        decide (lo ≤ k) && decide (k < hi) && (k == lo || decide (SMap.get 0 key seen < k + 1 ∧ SMap.get 0 key seen ≠ 0)) &&
        accumOk lo hi l (SMap.put 0 key (k + 1) seen)
      else accumOk lo hi l seen

/-- An item run again is the same command or descriptor, but for where its data and its unit lie (05 R120, R124). -/
def WorkItem.like (a b : WorkItem) : Bool :=
  a.tile.isSome == b.tile.isSome && a.tmpl == b.tmpl && nth 0 a.words 0 == nth 0 b.words 0 && nth 0 a.words 1 == nth 0 b.words 1 &&
  nth 0 a.words 2 == nth 0 b.words 2 &&
  (if a.tile.isSome then nth 0 a.words 3 / 2 ^ 19 == nth 0 b.words 3 / 2 ^ 19 else nth 0 a.words 3 % 65536 == nth 0 b.words 3 % 65536)

/-- Whether a steward's expansion of a share may be dispatched: not empty, its accumulations in the plan's order, and, where the share
ran before on another cluster, the whole of what it was. -/
def expansionOk (r : OpRec) (s : Share) (items : List WorkItem) : Bool :=
  !items.isEmpty && accumOk (kblkRange r s.split).1 (kblkRange r s.split).2 items [] &&
  (s.work.isEmpty || (s.work.length == items.length && (s.work.zip items).all (fun x => x.1.like x.2)))

/-- The job whose STREAM set holds a cluster. -/
def Mach.setOwner (m : Mach) (c : Nat) : Option Nat := (m.alm.jobs.find? (fun j => j.set.contains c)).map (fun j => j.id)

/-- The lent work queued on a unit, in ARRAY cycles (R163). -/
def Mach.lentSum (m : Mach) (owner c : Nat) (unit : Option Nat) : Nat :=
  (m.alm.shares.filter (fun s => s.cluster == c && s.job != owner)).foldl
    (fun a s => a + (s.sent.filter (fun x => x.1 == unit && m.unissued c x)).foldl (fun b x => b + x.2.2) 0) 0

/-- Whether an item may be enqueued on its unit now: a place in the queue, a tile that is not fenced, and for lent work that the
owner of the cluster is between its events and the bound (R163). -/
def Mach.mayEnqueue (m : Mach) (s : Share) (i : WorkItem) : Bool :=
  let c := s.cluster
  let room := match i.tile with
    | some t => decide ((m.tile (16 * c + t)).queue.length < 8) && !m.on F.tileFenceFenced (tileIx (16 * c + t))
    | none => decide ((m.ve c).queue.length < 16)
  room && (match m.setOwner c with
    | some o => o == s.job || (((m.jobOf o).map (fun j => j.run.isNone)).getD true && decide (16 * (m.lentSum o c i.tile + i.dur) ≤ m.rd F.almAdmitBlockUs kp * 2500 * m.sixteenths))
    | none => true)

/-- An item is enqueued; the share remembers it. -/
def Mach.enqueueItem (m : Mach) (s : Share) (i : WorkItem) : Share × Mach :=
  let c := s.cluster
  match i.tile with
  | some t =>
    let x := m.tile (16 * c + t)
    ({ s with sent := s.sent ++ [(some t, x.nextSeq, i.dur)], waits := s.waits + 1 }, m.setTile (16 * c + t) (x.enqueue .work i.words))
  | none =>
    let v := m.ve c
    ({ s with sent := s.sent ++ [(none, v.nextSeq, i.dur)], waits := s.waits + 1 },
     m.setVe c { v with queue := v.queue ++ [⟨v.nextSeq, .work, i.words⟩], nextSeq := v.nextSeq + 1 })

/-- Items in order, as far as they may be enqueued. -/
def Mach.dispatchItems (m : Mach) (s : Share) : List WorkItem → Mach
  | [] => m.setShare { s with todo := [], ended := decide (s.waits = 0) && !s.failed }
  | i :: l =>
    if (m.setShare { s with todo := i :: l }).mayEnqueue { s with todo := i :: l } i then
      let r := m.enqueueItem s i
      (r.2.setShare { r.1 with todo := l }).dispatchItems { r.1 with todo := l } l
    else m.setShare { s with todo := i :: l }

/-- SHARE_DISPATCH: the first share in the cluster's order gives its next commands and descriptors to the units. -/
def opShareDispatch (share : Nat) (work : List WorkPick) (m0 : Mach) : Mach :=
  let m := m0.settleSets
  match m.alm.shares.find? (fun s => s.id == share) with
  | none => m
  | some s =>
    let rivals := m.alm.shares.filter (fun x => x.cluster == s.cluster && m.dispatchable x)
    if !m.dispatchable s || !m.procUp (4 + s.cluster / 10) || rivals.any (fun x => decide (m.shareRank x < m.shareRank s)) then m
    else if s.expanded then m.dispatchItems s s.todo
    else match (m.jobOf s.job).bind (fun j => (m.planOf j.plan).bind (fun p => p.ops[s.op]?)) with
      | none => m
      | some r =>
        let items := work.map (itemOf r s.tag)
        if expansionOk r s items then m.dispatchItems { s with work := items, expanded := true } items else m

/-! Recomputation (05 R119 to R121) -/

/-- A latched record of a share that the steward has not taken. -/
def Mach.latchOpen (m : Mach) (s : Share) : Bool :=
  (upFrom (16 * s.cluster) 16).any (fun t => m.on F.tileTrapValid (tileIx t) && m.rd F.tileTrapOpTag (tileIx t) == s.tag) ||
  (m.on F.veTrapValid (clIx s.cluster) && m.rd F.veTrapOpTag (clIx s.cluster) == s.tag)

/-- Lanes with bad parity in a slab. -/
def Mach.slabBad (m : Mach) (code : Nat) : Bool :=
  let a := slabAddr code 0
  m.bankBad.any (fun x => decide (a ≤ 4 * x.1) && decide (4 * x.1 < a + 0x10000))

/-- The bank of a slab refused a unit of the share: it is the bank that BANK_LAST_REFUSED of the share's cluster names, with the tile
or vector engine (06 R130; log 132). -/
def Mach.slabRefused (m : Mach) (s : Share) (code : Nat) : Bool :=
  slabCluster code == s.cluster && bitsOf 8 5 code == m.rd F.bankLastRefusedBank (clIx s.cluster) &&
  (decide (m.rd F.bankLastRefusedId (clIx s.cluster) < 17) && decide (0 < m.rd F.bankRefused (bankIx (slabBank code))))

/-- One slab of an input page is fetched again from its backing page (Table 5-5): 1 where it was, 2 where a slab with bad parity has
none. -/
def Mach.refetchSlab (m : Mach) (s : Share) (e code i : Nat) : Nat × Mach :=
  if code = 0xFFFF ∨ !(m.slabBad code || m.slabRefused s code) then (0, m)
  else if pteBTier e = 3 then (if m.slabBad code then 2 else 0, m)
  else
    let r := m.readAt idAlmanac (pteBacking e * 0x200000 + i * 0x10000) 0x10000
    if 2 ≤ r.2.1 then (2, r.2.2) else (1, r.2.2.writeAt (slabAddr code 0) r.1)

/-- Every slab of a tensor's pages: 1 where one was fetched again, 2 where one has no copy. -/
def Mach.refetch (m : Mach) (sh : Share) (t : Tensor) : Nat × Mach :=
  (upFrom t.ptBase (pagesOf t.bytes)).foldl (fun s i =>
    let e := s.2.pteEntry 0 i
    if ptePTier e ≠ 2 then s
    else (upFrom 0 32).foldl (fun s k =>
      let r := s.2.refetchSlab sh e (s.2.slabCode 0 (ptePrimary e) k) k
      (s.1 ||| r.1, r.2)) s) (0, m)

/-- The input tensors of an operation are fetched again where their slabs are bad or were refused. -/
def Mach.refetchOp (m : Mach) (sh : Share) (p : Plan) (r : OpRec) : Nat × Mach :=
  (p.tensors.filter (fun t => r.ins.contains t.handle)).foldl (fun s t =>
    let x := s.2.refetch sh t
    (s.1 ||| x.1, x.2)) (0, m)

/-- Tiles that have poisoned rows in two runs of a share are reported to HEALTH (R121). -/
def Mach.reportTiles (m : Mach) (ts : List Nat) : Mach :=
  ts.foldl (fun m t => ({ m with test := { m.test with reported := SMap.put 0 t 1 m.test.reported } } : Mach).send (.tell (.tileRetired t))) m

/-- The running event is lost: DATA_LOST, and nothing more of it is placed (R121). -/
def Mach.loseEvent (m : Mach) (j : Job) : Mach :=
  m.setJob (j.onRun (fun e => { e with statuses := e.statuses ++ [stDataLost], phase := 4 }))

/-- SHARE_RECOMPUTE: the first recomputation on the same cluster, the second where ALMANAC chooses, so not while it is down (07 R173);
after that the data is lost. The second is expanded anew there, and has to be the whole share again. -/
def opShareRecompute (share where2 : Nat) (m : Mach) : Mach :=
  match m.alm.shares.find? (fun s => s.id == share) with
  | none => m
  | some s => match m.jobOf s.job with
    | none => m
    | some j => match (m.planOf j.plan), (m.planOf j.plan).bind (fun p => p.ops[s.op]?) with
      | some p, some r =>
        let ready := s.failed && s.expanded && s.todo.isEmpty && s.waits == 0 && !s.ended && j.traps.isEmpty &&
          (j.run.map (fun e => e.phase == 1)).getD false && m.procUp (4 + s.cluster / 10)
        if !ready then m
        else
          let m1 := m.reportTiles (s.poisonNow.filter (fun t => s.poisonBefore.contains t))
          if 2 ≤ s.runs then (m1.setShare { s with ended := true }).loseEvent j
          else
            let f := m1.refetchOp s p r
            if 2 ≤ f.1 then (f.2.setShare { s with ended := true }).loseEvent j
            else
              let j1 := j.onRun (fun e => { e with flags := e.flags ||| flRecomputed ||| (if f.1 = 1 then flReread else 0) })
              let again : Share := { s with todo := s.work, sent := [], failed := false, runs := s.runs + 1,
                                            poisonBefore := s.poisonBefore ++ s.poisonNow, poisonNow := [] }
              if s.runs = 0 then (f.2.setJob j1).setShare again
              else if m.almUp && m.mayPlace j where2 && (decide (where2 / 10 = s.cluster / 10) || !m.tagUsed (where2 / 10) s.tag) then
                (f.2.setJob j1).setShare { again with cluster := where2, before := s.before ++ [s.cluster], todo := [], expanded := false }
              else m
      | _, _ => m

/-- An input of the operation is LOST (07 R158). -/
def Mach.readsLost (m : Mach) (p : Plan) (r : OpRec) : Bool :=
  p.tensors.any (fun t => r.ins.contains t.handle && slotLost (m.slotEntry 0 t.slot))

/-- Tensors whose LAST_OP has completed, with every other operation of the event that names them (07 Table 7-2, Table 7-6). -/
def Plan.lastNamed (p : Plan) (ev : Event) (op : Nat) : List Tensor :=
  p.tensors.filter (fun t => ((p.ops[op]?).map (fun r => r.names t.handle)).getD false &&
    (p.eventOps ev.no).all (fun o => ev.done.contains o || !((p.ops[o]?).map (fun r => r.names t.handle)).getD false))

/-- OP_COMPLETE: every share of the operation has ended and no record of it stands in a latch; a FRAME_WAIT completes with its frame.
An input that is LOST gives DATA_LOST; slabs of tensors it was the last to name are released. -/
def opOpComplete (job op fl : Nat) (lost : Bool) (m : Mach) : Mach :=
  match m.jobOf job with
  | none => m
  | some j => match m.planOf j.plan, j.run with
    | some p, some ev => (match p.ops[op]? with
      | none => m
      | some r =>
        let mine := m.alm.shares.filter (fun s => s.job == job && s.op == op)
        let ended := if r.kind = 4 then true else !mine.isEmpty && mine.all (fun s => s.ended && !m.latchOpen s)
        if ev.phase ≠ 1 || !j.traps.isEmpty || !opReady p ev op || !ended then m
        else
          let ev1 := { ev with done := ev.done ++ [op], flags := ev.flags ||| (fl / 64 % 64 * 64),
                               statuses := if lost || m.readsLost p r then ev.statuses ++ [stDataLost] else ev.statuses }
          let m1 := m.setJob { j with run := some ev1 }
          let m2 : Mach := { m1 with alm := { m1.alm with shares := m1.alm.shares.filter (fun s => !(s.job == job && s.op == op)) } }
          (if m.alm.jobs.any (fun x => x.plan == j.plan && x.id != j.id && x.run.isSome) then m2
           else (p.lastNamed ev1 op).foldl (fun m t => m.releaseTensor t) m2).settleSets)
    | _, _ => m

/-! Traps (05 R114 to R116) -/

/-- The record a latch holds (Table 5-2); UNIT 1 junction, 2 drain stage, 3 vector engine. -/
def Mach.latched (m : Mach) (u : TrapUnit) (op : Nat) : Option TrapRec :=
  match u with
  | .tile t =>
    let p := tileIx t.val
    if m.on F.tileTrapValid p then
      let k := m.rd F.tileTrapBlkKblk p
      some { op := op, unit := if k = 0xFFFF then 2 else 1, cause := m.rd F.tileTrapCause p, die := t.val / 160, loc := t.val,
             row := m.rd F.tileTrapPosAccRow p, col := m.rd F.tileTrapPosColumn p, kblk := k, more := m.rd F.tileTrapBlkMore p,
             cycle := m.rd F.tileTrapCycle p }
    else none
  | .ve c =>
    let p := clIx c.val
    if m.on F.veTrapValid p then
      some { op := op, unit := 3, cause := m.rd F.veTrapCause p, die := c.val / 10, loc := c.val, row := m.rd F.veTrapPosI0 p,
             col := m.rd F.veTrapOuter p, kblk := 0xFFFF, more := m.rd F.veTrapPosMore p, cycle := m.rd F.veTrapCycle p }
    else none

/-- Whether record a wins over record b on one die: the signed difference of their CYCLE, then a tile, then the lowest number. -/
def TrapRec.wins (a b : TrapRec) : Bool :=
  let d := toSigned 32 (a.cycle + 2 ^ 32 - b.cycle)
  decide (d < 0) || (d == 0 && (if a.unit = 3 then b.unit == 3 && decide (a.loc < b.loc) else b.unit == 3 || decide (a.loc < b.loc)))

/-- Records taken for a job, in the order they were taken. -/
def mergeTrap (r : TrapRec) (l : List TrapRec) : List TrapRec := l ++ [r]

/-- Whether record a is reported before record b: the lower die, and on one die the record that wins. -/
def TrapRec.leads (a b : TrapRec) : Bool := if a.die = b.die then a.wins b else decide (a.die < b.die)

/-- The record that is reported among the ones taken, with the others. -/
def leadTrap : List TrapRec → Option (TrapRec × List TrapRec)
  | [] => none
  | r :: l =>
    match leadTrap l with
    | none => some (r, [])
    | some (x, rest) => if x.leads r then some (x, r :: rest) else some (r, x :: rest)

/-- The tag and cluster of a latch. -/
def Mach.latchTag (m : Mach) (u : TrapUnit) : Nat × Nat :=
  match u with
  | .tile t => (m.rd F.tileTrapOpTag (tileIx t.val), t.val / 16)
  | .ve c => (m.rd F.veTrapOpTag (clIx c.val), c.val)

/-- Whether the unit still runs a command or descriptor of that tag (R117). -/
def Mach.tagRuns (m : Mach) (u : TrapUnit) (tag : Nat) : Bool :=
  match u with
  | .tile t => (m.tile t.val).progs.any (fun p => p.opTag == tag)
  | .ve c => ((m.ve c.val).exec.map (fun e => dTag e.cmd.w == tag)).getD false || (m.ve c.val).ends.any (fun e => e.opTag == tag)

/-- STEWARD_TRAP_TAKE: the record joins its job's, the latch is cleared and the job stops. The latch of work whose job has ended is
read and cleared too (R117). -/
def opStewardTrapTake (d : Nat) (u : TrapUnit) (m : Mach) : Mach :=
  let tc := m.latchTag u
  if tc.2 / 10 ≠ d ∨ !m.procUp (4 + d) ∨ m.tagRuns u tc.1 ∨ m.isRaw tc.2 ∨ (m.latched u 0).isNone then m
  else match m.alm.shares.find? (fun s => (s.cluster == tc.2 || s.before.contains tc.2) && s.tag == tc.1) with
  | none => opTrapLatchClear u m
  | some s => match m.jobOf s.job, m.latched u s.op with
    | some j, some r => (opTrapLatchClear u m).setJob { j with traps := mergeTrap r j.traps }
    | _, _ => opTrapLatchClear u m

/-- The record a job reports (R114): within a die the one that wins, across dies that of the lowest; every other record of its
operation, and their MORE, is added to its MORE. -/
def chosenTrap (l : List TrapRec) : Option TrapRec :=
  (leadTrap l).map (fun x => { x.1 with more := (x.2.filter (fun y => y.op == x.1.op)).foldl (fun n y => satAdd16 n (1 + y.more)) x.1.more })

/-- The 32 bytes of Table 5-2. -/
def trapBytes (j : Job) (r : TrapRec) : List Byte :=
  leBytes 4 j.plan ++ leBytes 4 r.op ++ leBytes 4 j.id ++ leBytes 1 r.unit ++ leBytes 1 r.cause ++ leBytes 1 r.die ++ [0] ++ leBytes 2 r.loc ++
  leBytes 2 r.row ++ leBytes 4 r.col ++ leBytes 2 r.kblk ++ leBytes 2 r.more ++ leBytes 4 r.cycle

/-- A trapped job whose dispatched work has all ended and whose latches have been read. -/
def Mach.trapSettled (m : Mach) (j : Job) : Bool :=
  !j.traps.isEmpty && !m.jobBusy j.id && !(m.sharesOf j.id).any m.latchOpen

/-- TRAP_RECORD_WRITE (15 R370): the transfer unit is asked to write the record to TRAP_WIN:TRAP_OFF. -/
def opTrapRecordWrite (job : Nat) (m : Mach) : Mach :=
  match m.jobOf job with
  | none => m
  | some j => match chosenTrap j.traps, j.run with
    | some r, some ev =>
      if !m.trapSettled j || j.trapWin == 0xFF || ev.trapWritten then m
      else ((m.setJob (j.onRun (fun e => { e with trapWritten := true }))).setIo (jobKey job) Io.none).askWrite 2 (jobKey job) j.trapWin
        j.trapOff (trapBytes j r)
    | _, _ => m

/-- TRAP_JOB_END: the EVENT and END records of a trapped job, once its trap record is acknowledged. -/
def opTrapJobEnd (job : Nat) (m : Mach) : Mach :=
  match m.jobOf job with
  | none => m
  | some j => match chosenTrap j.traps, j.run with
    | some r, some ev =>
      let io := m.io (jobKey job)
      if !m.trapSettled j || (j.trapWin != 0xFF && (!ev.trapWritten || io.waits != 0)) then m
      else
        m.finishEvent { j with stop := false } { ev with statuses := ev.statuses ++ [trapStatus r.cause] }
          (b2n (ev.trapWritten && !io.fail)) true
    | _, _ => m

/-! Reservations (07 R170, R171) -/

def Mach.setRequest (m : Mach) (c : Nat) (on : Bool) : Mach :=
  let put (f : Fld) (k : Nat) : Mach := m.wr f kp (if on then setBit k (m.rd f kp) else clearBit k (m.rd f kp))
  if c < 32 then put F.almReserveLo c else put F.almReserveHi (c - 32)

def Mach.setReserved (m : Mach) (c : Nat) (on : Bool) : Mach :=
  let put (f : Fld) (k : Nat) : Mach := m.wr f kp (if on then setBit k (m.rd f kp) else clearBit k (m.rd f kp))
  if c < 32 then put F.almReservedLo c else put F.almReservedHi (c - 32)

/-- ALMANAC's test of a request: without the cluster, would a held guarantee break (R170 step 1). -/
def Mach.testRequest (m : Mach) (c : Nat) : Mach :=
  let breaks := (m.verdicts (some c) []).any (fun v => !v.held && ((m.jobOf v.id).map (fun j => j.held)).getD false)
  if breaks && !m.on F.almReserveCtrlForce kp then (m.setRequest c false).ev F.almReserveCtrlRefused kp else m

/-- RESERVE_REQUEST: the request bit is set; while ALMANAC is stopped the request waits (R172). -/
def opReserveRequest (c who : Nat) (m : Mach) : Mach :=
  let m1 := m.respond who rsOk
  if m.requested c then m1
  else
    let m2 := m1.setRequest c true
    if m.almUp && !m.isRaw c then m2.testRequest c else m2

/-- Slabs in use in a cluster's banks. -/
def Mach.slabsIn (m : Mach) (c : Nat) : Bool := m.alm.slabs.any (fun x => bitsOf 15 13 x.1 * 10 + bitsOf 12 9 x.1 == c)

/-- Every bank of a cluster is handed to a group. -/
def Mach.handBanks (m : Mach) (c g : Nat) : Mach := (upFrom (16 * c) 16).foldl (fun m b => opBankOwnerWrite b g m) m

/-- RESERVE_GRANT: no share runs on the cluster, no slab is left in its banks, and no block list names them (R155, R170). -/
def opReserveGrant (c : Nat) (m : Mach) : Mach :=
  if !m.almUp || !m.requested c || m.isRaw c || m.alm.shares.any (fun s => s.cluster == c && !s.ended) || m.slabsIn c || m.seUsesCluster c then m
  else (((m.handBanks c 0xF).setReserved c true)).reevaluate []

/-- Every tile and the vector engine of a cluster is stopped and flushed (R171 step 1). -/
def Mach.flushCluster (m : Mach) (c : Nat) : Mach :=
  let m1 := (upFrom (16 * c) 16).foldl (fun m t => opTileFlush t (opTileCtrlRun t false m)) m
  opVeFlush c (opVeCtrlRun c false m1)

/-- RESERVE_RELEASE: the request bit is cleared; a reservation in effect is unwound. -/
def opReserveRelease (c who : Nat) (m : Mach) : Mach :=
  let m1 := (m.setRequest c false).respond who rsOk
  if m.requested c && m.isRaw c && m.almUp then m1.flushCluster c else m1

/-- RESERVE_RETURN: once every unit reports STOPPED the banks and the cluster go back to ALMANAC. -/
def opReserveReturn (c g : Nat) (m : Mach) : Mach :=
  let stopped := (upFrom (16 * c) 16).all m.tileStopped && !m.on F.veCtrlRun (clIx c) && (m.ve c).idle
  if m.requested c || !m.isRaw c || !m.almUp || !stopped then m
  else ((m.handBanks c g).setReserved c false).reevaluate []

/-- Almanac acts on the reservations changed while it was stopped or down, and re-evaluates every job (R172). -/
def Mach.catchUp (m : Mach) : Mach :=
  let m2 := ((upFrom 0 60).filter (fun c => m.requested c && !m.isRaw c)).foldl (fun m c => m.testRequest c) m
  let m3 := ((upFrom 0 60).filter (fun c => !m2.requested c && m2.isRaw c)).foldl (fun m c => m.flushCluster c) m2
  m3.reevaluate []

/-- ALM_CTRL_RUN (R172): a restart re-evaluates every job and acts on the reservations changed meanwhile; where ALMANAC's processor is
down, its BOOT does. -/
def opAlmCtrlRun (who : Nat) (run : Bool) (m : Mach) : Mach :=
  let was := m.on F.almCtrlRun kp
  let m1 := (m.wr F.almCtrlRun kp (b2n run)).respond who rsOk
  if run && !was && m.procUp 1 then m1.catchUp else m1

/-- BOOT (16 R378, R381). ALMANAC's restarts the copies that no mover has reported done (07 R173), and acts on what changed while it was
down. -/
def opBoot (p : Nat) (m : Mach) : Mach :=
  let m1 := bootProc p m
  if p = 1 ∧ m1.procUp 1 ∧ !m.procUp 1 then
    let m2 : Mach := { m1 with alm := { m1.alm with migs := m1.alm.migs.map (fun g =>
      match m1.tensorOfSlot g.slot with
      | some (_, t) => if (m1.partsOf (m1.pteEntry 0 (t.ptBase + g.page)) g).all (fun k => g.copied.contains k) then g else { g with copied := [] }
      | none => g) } }
    if m2.on F.almCtrlRun kp then m2.catchUp else m2
  else m1

/-! The meanings -/

def execStewardTrapTake (d : DieNo) (u : TrapUnit) (s : State) := s.on .uncore (opStewardTrapTake d.val u)
def execTrapJobEnd (j : Nat) (s : State) := s.on .keeper (opTrapJobEnd j)
def execShareRecompute (sh : Nat) (w : ClusterNo) (s : State) := s.on .keeper (opShareRecompute sh w.val)
def execOpPlace (j o : Nat) (p : List SharePick) (s : State) := s.on .keeper (opOpPlace j o p)
def execShareDispatch (sh : Nat) (w : List WorkPick) (s : State) := s.on .uncore (opShareDispatch sh w)
def execOpComplete (j o : Nat) (fl : BitVec 12) (lost : Bool) (s : State) := s.on .keeper (opOpComplete j o fl.toNat lost)
def execCapacityReevaluation (p : List ClusterNo) (s : State) := s.on .keeper (opCapacityReevaluation (p.map (fun c => c.val)))
def execStreamFrameEvent (j : Nat) (ok : Bool) (s : State) := s.on .keeper (opStreamFrameEvent j ok)
def execReserveRequest (c : ClusterNo) (who : Nat) (s : State) := s.on .keeper (opReserveRequest c.val who)
def execReserveGrant (c : ClusterNo) (s : State) := s.on .keeper (opReserveGrant c.val)
def execReserveRelease (c : ClusterNo) (who : Nat) (s : State) := s.on .keeper (opReserveRelease c.val who)
def execReserveReturn (c : ClusterNo) (g : Fin 8) (s : State) := s.on .keeper (opReserveReturn c.val g.val)
def execAlmCtrlRun (who : Nat) (run : Bool) (s : State) := s.on .keeper (opAlmCtrlRun who run)
def execJob (p : List ClusterNo) (s : State) := s.on .keeper (opJob (p.map (fun c => c.val)))
def execJobStop (s : State) := s.on .keeper opJobStop
def execJobEventStart (j : Nat) (s : State) := s.on .keeper (opJobEventStart j)
def execJobEventEnd (j : Nat) (s : State) := s.on .keeper (opJobEventEnd j)
def execBoot (p : ProcNo) (s : State) := s.on (procDom p.val) (opBoot p.val)
def execTrapRecordWrite (j : Nat) (s : State) := s.on .keeper (opTrapRecordWrite j)

end Sys2Proof.Machine
end

