-- ==== Sys2Proof/Machine/Line.lean ====
section
/-! DEFINITION. What a lane sends: PAM4 levels and precoding, the sync header and the scrambler (14 R332, R333). -/

namespace Sys2Proof.Machine

/-- The level of a pair of bits, the first the more significant (R332). -/
def grayLevel (first second : Bool) : Nat :=
  match first, second with
  | false, false => 0
  | false, true => 1
  | true, true => 2
  | true, false => 3

/-- Bits in pairs as levels. -/
def levels : List Bool → List Nat
  | a :: b :: l => grayLevel a b :: levels l
  | _ => []

/-- Precoding from the level sent before: p = (g - p) mod 4. -/
def precode : Nat → List Nat → List Nat
  | _, [] => []
  | p, g :: l => let q := (g + 4 - p % 4) % 4; q :: precode q l

/-- What the receiver recovers: g = (p + the p before) mod 4. -/
def unprecode : Nat → List Nat → List Nat
  | _, [] => []
  | p, q :: l => (q + p) % 4 :: unprecode q l

/-- The self-synchronous scrambler x^58 + x^39 + 1 over the bits last sent, the latest least significant (R333). -/
def scramble : Nat → List Bool → Nat × List Bool
  | s, [] => (s, [])
  | s, b :: l =>
    let o := (b != bitOf 38 s) != bitOf 57 s
    let r := scramble ((2 * s + b2n o) % 2 ^ 58) l
    (r.1, o :: r.2)

/-- A block on the line: its header, 01 for data and 10 for control, bit 0 first and never scrambled, then its scrambled payload. -/
def blockBits (s : Nat) (b : Bool × Nat) : Nat × List Bool :=
  let r := scramble s ((upFrom 0 64).map (fun i => bitOf i b.2))
  (r.1, (!b.1) :: b.1 :: r.2)

def blocksBits : Nat → List (Bool × Nat) → Nat × List Bool
  | s, [] => (s, [])
  | s, b :: l =>
    let r := blockBits s b
    let t := blocksBits r.1 l
    (t.1, r.2 ++ t.2)

/-- Bits as symbols: at a PAM4 rate levels, precoded where asked, else the bits; polarity inverted where configured. -/
def symbols (pam pre invert : Bool) (p : Nat) (bits : List Bool) : List Nat :=
  let l := if pam then (if pre then precode p (levels bits) else levels bits) else bits.map b2n
  if invert then l.map (fun v => (if pam then 3 else 1) - v) else l

/-- A CAPABILITY block's payload (Table 14-4): mask, precoding request, role, ACK, loss, lane and group. -/
def capsBlock (mask : Nat) (pre : Bool) (role : Nat) (ack : Bool) (loss lane group : Nat) : Nat :=
  0x33 + 2 ^ 8 * (mask + 128 * b2n pre) + 2 ^ 16 * (1 + 16 * role + 64 * b2n ack) + 2 ^ 24 * loss + 2 ^ 32 * (lane + 8 * group)

end Sys2Proof.Machine
end

