-- ==== Sys2Proof/Machine/StreamEngines.lean ====
section
/-! DEFINITION. The stream engines and block lists of chapter 8. -/

namespace Sys2Proof.Machine

def seKey (d e : Nat) : Nat := 16 * d + e
def seIx (d e : Nat) : Nat := ix d e 0 0
def seDesc (d e n : Nat) : Nat := ix d e n 0
def Mach.se (m : Mach) (d e : Nat) : StreamEng := SMap.get StreamEng.init (seKey d e) m.ses
def Mach.setSe (m : Mach) (d e : Nat) (x : StreamEng) : Mach := { m with ses := SMap.put StreamEng.init (seKey d e) x m.ses }

/-- Descriptor states (R177). -/
def dIdle : Nat := 0
def dQueued : Nat := 1
def dRunning : Nat := 2

/-- IDLE: no transfer is running, so no entry is queued and no write or read is outstanding (R194). -/
def StreamEng.idle (x : StreamEng) : Bool := x.run.isNone
def Mach.seStopped (m : Mach) (d e : Nat) : Bool := !m.on F.seCtrlRun (seIx d e) && (m.se d e).idle

/-! Messages (R193, Table 8-4) -/

/-- The 16 words of a message. -/
def seWords (d e : Nat) (a : Arming) (kind status cause flags mask done err recv deliv etag : Nat) : List Nat :=
  [a.tag, kind + 256 * status + 65536 * a.desc + 16777216 * cause, flags, mask + 65536 * (16 * d + e), done, err, recv, deliv, etag,
   a.replaced.getD 0]

/-- FLAGS of a transfer: bit 11 where its arming replaced another (R177). -/
def Transfer.allFlags (x : Transfer) : Nat := x.flags ||| (if x.arm.replaced.isSome then flRearm else 0)

def noEntry : Nat := 0xFFFFFFFF

/-- ERR_ENTRY: the failing entry, once there is one. -/
def Transfer.errEntry (x : Transfer) : Nat := (x.met.map (fun c => c.2)).getD noEntry

def Mach.seSend (m : Mach) (d e : Nat) (x : Transfer) (kind status cause recv deliv etag : Nat) : Mach :=
  m.mail (idSe d e) x.arm.notify
    (seWords d e x.arm kind status cause x.allFlags x.detached (m.rd F.seDescDone (seDesc d e x.arm.desc)) x.errEntry recv deliv etag)

/-! Arming (R175 to R177) -/

/-- The snapshot of a descriptor's fields and of the multicast registers. -/
def Mach.snapshot (m : Mach) (d e n : Nat) : Arming :=
  let q := seDesc d e n
  { desc := n, list := m.rd F.seDescListHi q * 2 ^ 32 + m.rd F.seDescListLo q * 64, count := m.rd F.seDescCount q, notify := m.rd F.seDescNotify q,
    tag := m.rd F.seDescTag q, lagMax := m.rd F.seMcLagMax (seIx d e), enable := m.rd F.seMcEnable (seIx d e),
    bases := (upFrom 0 16).map (fun i => m.rd F.mcBaseAddrHi (seDesc d e i) * 2 ^ 32 + m.rd F.mcBaseAddrLo (seDesc d e i)), replaced := none,
    job := none, serves := none }

/-- An arming for descriptor n among others is replaced in its place, its TAG kept. -/
def replaceArm (a : Arming) (l : List Arming) : List Arming := l.map (fun x => if x.desc = a.desc then { a with replaced := some x.tag } else x)

/-- An arming by the descriptor's state (R177); a COUNT of 0 sends ERROR with cause 0x02 at once (Table 8-5). -/
def Mach.enter (m : Mach) (d e n : Nat) (a : Arming) : Mach :=
  let q := seDesc d e n
  let x := m.se d e
  if a.count = 0 then
    m.mail (idSe d e) a.notify (seWords d e a 2 1 2 0 0 (m.rd F.seDescDone q) noEntry 0xFF 0 0)
  else if m.rd F.seDescStateState q = dQueued then
    (m.setSe d e { x with queue := replaceArm a x.queue }).ev F.seEventsRearmOverrun (seIx d e)
  else if m.rd F.seDescStateState q = dRunning then
    if m.on F.seDescStatePending q then (m.setSe d e { x with pending := replaceArm a x.pending }).ev F.seEventsRearmOverrun (seIx d e)
    else (m.setSe d e { x with pending := x.pending ++ [a] }).wr F.seDescStatePending q 1
  else (m.setSe d e { x with queue := x.queue ++ [a] }).wr F.seDescStateState q dQueued

/-- An arming through the registers. -/
def Mach.arm (m : Mach) (d e n : Nat) : Mach := m.enter d e n (m.snapshot d e n)

/-- A steward's arming for a share of a job: it first writes the engine's NI_CLASS where the job is STREAM or GEN (10 R233). -/
def Mach.armFor (m : Mach) (d e n : Nat) (j : Job) (serves : Option Nat) : Mach :=
  (if j.cls ≤ 1 then m.wr F.niClassClass (ix d (10 + e) 0 0) (j.cls + 1) else m).enter d e n
    { m.snapshot d e n with job := some j.id, serves := serves }

/-- SE_ARM: through the registers, or by the die's steward for a share of a job; it arms nothing further for a job that has trapped
(05 R115; 08 R195). -/
def opSeArm (d e n who : Nat) (job : Option Nat) (m : Mach) : Mach :=
  match (if who = idSteward d then job else none).bind m.jobOf with
  | some j => if j.traps.isEmpty then (m.armFor d e n j none).respond who rsOk else m
  | none => (m.arm d e n).respond who rsOk

/-- TRANSFER_START: the head of the run queue starts. -/
def opTransferStart (d e : Nat) (m : Mach) : Mach :=
  let x := m.se d e
  match x.run, x.queue with
  | none, a :: l =>
    if !m.on F.seCtrlRun (seIx d e) then m
    else
      let t : Transfer := { arm := a, fetched := 0, entries := [], flags := 0, attached := a.enable, detached := 0, delivered := [], met := none,
                            failed := false, flushed := false, notices := [], wrote := [] }
      ((m.setSe d e { x with run := some t, queue := l }).wr F.seDescStateState (seDesc d e a.desc) dRunning).wr F.seDescDone (seDesc d e a.desc) 0
  | _, _ => m

/-! Fetching (R178 to R181) -/

/-- The fields of a 32-byte entry (Table 8-1). -/
def enSrc (b : List Byte) : Nat := im b 0 8
def enDst (b : List Byte) : Nat := im b 8 8
def enFlags (b : List Byte) : Nat := im b 24 1
def enDep (b : List Byte) : Bool := bitOf 0 (enFlags b)
def enMcast (b : List Byte) : Bool := bitOf 1 (enFlags b)

def endSlotForm (x : Nat) : Bool := bitOf 63 x
def endSlot (x : Nat) : Nat := bitsOf 55 40 x
def endOff (x : Nat) : Nat := bitsOf 39 0 x
def endAddr (x : Nat) : Nat := bitsOf 47 0 x

/-- Reserved bits of an endpoint (Table 8-2). -/
def endReserved (x : Nat) : Bool := bitsOf 62 56 x != 0 || (!endSlotForm x && bitsOf 55 48 x != 0)

/-- Causes 0x01 to 0x04 of Table 8-3, in order; 0 for none. A slot-form DST of a multicast entry has a reserved form. -/
def enCause (b : List Byte) : Nat :=
  let rl := im b 16 2
  let rs := im b 18 2
  if 8 ≤ enFlags b ∨ im b 25 3 ≠ 0 ∨ endReserved (enSrc b) ∨ endReserved (enDst b) ∨ (enMcast b && endSlotForm (enDst b)) then 1
  else if rl = 0 ∨ rs = 0 ∨ 32768 < rl ∨ (im b 22 2 = 0 ∧ 1 < rs) then 2
  else if 0x200000 < rl * rs * 64 ∨ (enMcast b && decide (4096 < rl * rs * 64)) then 3
  else if endOff (enSrc b) % 64 ≠ 0 ∨ endOff (enDst b) % 64 ≠ 0 then 4
  else 0

/-- The numbers of the 64 KiB units that rows of a block touch from an offset. -/
def unitsTouched (off rowLen pitch : Nat) : Nat → List Nat
  | 0 => []
  | r + 1 =>
    let o := off + r * pitch * 64
    let l := unitsTouched off rowLen pitch r
    (upFrom (o / 65536) ((o + rowLen * 64 - 1) / 65536 + 1 - o / 65536)).filter (fun u => !l.contains u) ++ l

/-- The place of each unit (R179): refused, held by a MOVING page, or known. The last offset touched is looked up with its unit. -/
def Mach.resolve (m : Mach) (d slot : Nat) (write : Bool) (hi : Nat) : List Nat → SMap Nat → Option (Option (SMap Nat)) × Mach
  | [], acc => (some (some acc), m)
  | u :: l, acc =>
    let o := if u = hi / 65536 then hi else u * 65536
    let r := m.xlat d slot o write
    match r.1 with
    | .refuse => (some none, r.2)
    | .hold => (none, r.2)
    | .at_ a => r.2.resolve d slot write hi l (SMap.insert u (a - o % 65536) acc)

/-- An endpoint resolved: none while a page moves, some none where translation refuses it. -/
def Mach.endpoint (m : Mach) (d x rowLen rows pitch : Nat) (write : Bool) : Option (Option SeEnd) × Mach :=
  if endSlotForm x then
    let o := endOff x
    let hi := o + (rows - 1) * pitch * 64 + rowLen * 64 - 64
    let r := m.resolve d (endSlot x) write hi (unitsTouched o rowLen pitch rows) []
    (r.1.map (fun y => y.map (fun u => ⟨o, some u⟩)), r.2)
  else (some (some ⟨endAddr x, none⟩), m)

/-- The module address of a byte of an endpoint. -/
def SeEnd.addr (x : SeEnd) (o : Nat) : Nat :=
  match x.units with
  | none => x.base + o
  | some u => SMap.get 0 ((x.base + o) / 65536) u + (x.base + o) % 65536

/-- The die an address lies on. -/
def Mach.dieAt (m : Mach) (a : Nat) : Option Nat :=
  match placeOf m.fuses a with
  | .near d _ => some d
  | .far d _ => some d
  | .sram c _ => some (c / 10)
  | .reg d _ => some d
  | .none => none

/-- Every address an endpoint starts a unit at. -/
def SeEnd.starts (x : SeEnd) : List Nat :=
  match x.units with
  | none => [x.base]
  | some u => u.map (fun p => p.2)

/-- An entry's kind (R181): 2 REMOTE, 0 READ, 1 WRITE. -/
def Mach.kindOf (m : Mach) (d : Nat) (src : SeEnd) (dsts : List Nat) : Nat :=
  let far (a : Nat) : Bool := (m.dieAt a).getD d != d
  if src.starts.any far || dsts.any far then 2
  else match dsts with
    | a :: _ => (match placeOf m.fuses a with
      | .sram _ _ => 0
      | _ => 1)
    | [] => 1

/-- Attached receivers. -/
def Transfer.receivers (x : Transfer) : List Nat := (upFrom 0 16).filter (fun i => bitOf i x.attached)

/-- The first cause met stands (R192). -/
def Transfer.meet (x : Transfer) (cause idx : Nat) : Transfer := if x.met.isNone && !x.failed then { x with met := some (cause, idx) } else x

/-- Entries that have not completed. -/
def Transfer.openEntries (x : Transfer) : List SeEntry := x.entries.filter (fun y => !y.complete)

inductive Fetched | stop | bad (cause : Nat) | got (x : SeEntry)
  deriving DecidableEq, Repr

/-- One entry fetched: its checks, its endpoints and its kind. -/
def Mach.fetchEntry (m : Mach) (d : Nat) (x : Transfer) (b : List Byte) : Fetched × Mach :=
  let rl := im b 16 2
  let rs := im b 18 2
  if enCause b ≠ 0 then (.bad (enCause b), m)
  else
    let s := m.endpoint d (enSrc b) rl rs (im b 20 2) false
    match s.1 with
    | none => (.stop, s.2)
    | some none => (.bad 5, s.2)
    | some (some src) =>
      let t := s.2.endpoint d (enDst b) rl rs (im b 22 2) true
      match t.1 with
      | none => (.stop, t.2)
      | some none => (.bad 5, t.2)
      | some (some dst) =>
        let dsts := if enMcast b then x.receivers.map (fun i => nth 0 x.arm.bases i + dst.base) else dst.starts
        (.got { idx := x.fetched, kind := t.2.kindOf d src dsts, src := src, dst := dst, rowLen := rl, rows := rs, srcPitch := im b 20 2,
                dstPitch := im b 22 2, dep := enDep b, mcast := enMcast b, notify := bitOf 2 (enFlags b), etag := im b 28 4, issued := 0, data := [],
                sent := [], delivered := 0, bad := false, complete := false }, t.2)

/-- Up to n entries of the line read. -/
def Mach.fetchLine (m : Mach) (d e : Nat) (line : List Byte) : Nat → Mach
  | 0 => m
  | n + 1 =>
    let x := m.se d e
    match x.run with
    | none => m
    | some t =>
      let b := (line.drop (32 * (t.fetched % 2))).take 32
      if t.met.isSome || decide (t.arm.count ≤ t.fetched) || decide (256 ≤ t.openEntries.length) || (enDep b && !t.openEntries.isEmpty) then m
      else
        let r := m.fetchEntry d t b
        match r.1 with
        | .stop => r.2
        | .bad c => r.2.setSe d e { x with run := some (t.meet c t.fetched) }
        | .got y =>
          let m1 := r.2.setSe d e { x with run := some { t with fetched := t.fetched + 1, entries := t.entries ++ [y] } }
          if t.fetched % 2 = 0 then m1.fetchLine d e line n else m1

/-- LIST_FETCH: the next 64 bytes of the list, and the entries of them that may be fetched now. -/
def opListFetch (d e : Nat) (m : Mach) : Mach :=
  let x := m.se d e
  match x.run with
  | none => m
  | some t =>
    if t.met.isSome || t.failed || t.flushed || decide (t.arm.count ≤ t.fetched) || decide (256 ≤ t.openEntries.length) then m
    else
      let a := t.arm.list + 64 * (t.fetched / 2)
      match m.unitSay (idSe d e) a with
      | .wait => m
      | .ok =>
        let r := m.readUnit (idSe d e) a
        if 2 ≤ r.2.1 then r.2.2.setSe d e { x with run := some (t.meet 6 t.fetched) } else r.2.2.fetchLine d e r.1 2
      | _ => (m.unitRefuse (idSe d e) a).setSe d e { x with run := some (t.meet 6 t.fetched) }

/-! Executing (R182 to R185) -/

/-- 64-byte units of a block. -/
def SeEntry.units (y : SeEntry) : Nat := y.rowLen * y.rows

/-- The offsets of unit k of a block in the source and the destination. -/
def SeEntry.srcOff (y : SeEntry) (k : Nat) : Nat := (k / y.rowLen * y.srcPitch + k % y.rowLen) * 64
def SeEntry.dstOff (y : SeEntry) (k : Nat) : Nat := (k / y.rowLen * y.dstPitch + k % y.rowLen) * 64

/-- Every attached receiver has delivered the block. -/
def Transfer.allDelivered (x : Transfer) (y : SeEntry) : Bool := x.receivers.all (fun i => bitOf i y.delivered)

/-- Places of the multicast buffer in use (R187). -/
def Transfer.places (x : Transfer) : Nat :=
  (x.entries.filter (fun y => y.mcast && decide (0 < y.issued) && !x.allDelivered y)).length

/-- Units of a multicast block issued to a receiver. -/
def SeEntry.sentTo (y : SeEntry) (i : Nat) : Nat := SMap.get 0 i y.sent

/-- An entry with nothing left to issue: its last byte has been issued, to every attached receiver, or a read or write of it failed. -/
def Transfer.through (x : Transfer) (y : SeEntry) : Bool :=
  y.complete || y.bad ||
  (if y.mcast then x.attached == 0 || (y.units == y.issued && x.receivers.all (fun i => y.sentTo i == y.units)) else y.units == y.issued)

/-- Whether an entry may start: none does after a failure or a flush, and a multicast block takes a place (R187, R192, R195). -/
def Transfer.mayStart (x : Transfer) (y : SeEntry) : Bool :=
  x.met.isNone && !x.failed && !x.flushed && !(y.mcast && decide (x.arm.lagMax < x.places))

/-- The entries of a queue that may issue, in list order: the first with bytes left, and behind a multicast block that has been read
the next, while receivers' writes of it are left (R182, R187; log 146). -/
def Transfer.mayIssue (x : Transfer) : List SeEntry → List SeEntry
  | [] => []
  | y :: l =>
    if x.through y then x.mayIssue l
    else if y.issued = 0 then (if x.mayStart y then [y] else [])
    else y :: (if y.mcast && y.issued == y.units then x.mayIssue l else [])

/-- Where a unit of a block goes, for a receiver of a multicast block. -/
def Transfer.target (x : Transfer) (y : SeEntry) (i k : Nat) : Nat := nth 0 x.arm.bases i + y.dst.addr (y.dstOff k)

/-- The receiver a multicast block's next unit goes to: of the attached ones whose store does not have it wait, the one with the fewest units. -/
def Mach.nextReceiver (m : Mach) (d e : Nat) (x : Transfer) (y : SeEntry) : Option Nat :=
  let ready (i : Nat) : Bool :=
    decide (y.sentTo i < y.units) && m.unitSay (idSe d e) (x.target y i (y.sentTo i)) != .wait &&
    (decide (y.sentTo i < y.issued) || m.unitSay (idSe d e) (y.src.addr (y.srcOff y.issued)) != .wait)
  let l := x.receivers.filter ready
  l.find? (fun i => l.all (fun k => decide (y.sentTo i ≤ y.sentTo k)))

/-- Whether an entry can issue in this cycle. -/
def Mach.entryReady (m : Mach) (d e : Nat) (x : Transfer) (y : SeEntry) : Bool :=
  if y.mcast then (m.nextReceiver d e x y).isSome
  else m.unitSay (idSe d e) (y.src.addr (y.srcOff y.issued)) != .wait && m.unitSay (idSe d e) (y.dst.addr (y.dstOff y.issued)) != .wait

/-- The entry of a queue that issues. -/
def Mach.nextEntry (m : Mach) (d e : Nat) (x : Transfer) (kind : Nat) : Option SeEntry :=
  (x.mayIssue (x.entries.filter (fun y => y.kind == kind))).find? (m.entryReady d e x)

def Transfer.putEntry (x : Transfer) (y : SeEntry) : Transfer := { x with entries := x.entries.map (fun z => if z.idx = y.idx then y else z) }

/-- An entry that failed, by a cause of Table 8-3. -/
def Transfer.spoil (x : Transfer) (y : SeEntry) (cause : Nat) : Transfer := (x.putEntry { y with bad := true }).meet cause y.idx

/-- A source unit read: its bytes and whether it was re-read; none where the read failed (R192). -/
def Mach.sourceUnit (m : Mach) (who a : Nat) : Option (List Byte × Bool) × Mach :=
  match m.unitSay who a with
  | .ok =>
    let r := m.readUnit who a
    (if 2 ≤ r.2.1 then none else some (r.1, r.2.1 == 1), r.2.2)
  | _ => (none, m.unitRefuse who a)

/-- A unit that an entry writes. Bytes that two entries of the transfer write are left a free value, but where the later one carries DEP; so
are bytes that one entry writes twice with different values, in no fixed order (R184). -/
def Mach.landUnit (m : Mach) (d e : Nat) (x : Transfer) (y : SeEntry) (b : Nat) (data : List Byte) : Transfer × Mach :=
  let j := SMap.get 0 (b / 64) x.wrote
  let clash := j != 0 && !(decide (j ≤ y.idx) && y.dep) && !(j == y.idx + 1 && m.bytes b 64 == data)
  let f := m.fresh 512
  let m1 := if clash then f.2.writeAt b (leBytes 64 f.1) else m.writeAt b data
  ({ x with wrote := SMap.put 0 (b / 64) (max j (y.idx + 1)) x.wrote }, m1.wrap F.seWritten (seIx d e) 1)

/-- A receiver is detached: cause 1 LAG, 2 REFUSED. -/
def Transfer.detach (x : Transfer) (i cause : Nat) : Transfer :=
  { x with attached := clearBit i x.attached, detached := setBit i x.detached, notices := x.notices ++ [(i, cause)] }

def Transfer.mark (x : Transfer) (reread : Bool) : Transfer := if reread then { x with flags := x.flags ||| flReread } else x

/-- A unit of a multicast block issued to a receiver; one that refuses it is detached at once (R190). -/
def Mach.sendUnit (m : Mach) (d e : Nat) (x : Transfer) (y : SeEntry) (i : Nat) : Transfer × SeEntry × Mach :=
  let k := y.sentTo i
  let b := x.target y i k
  match m.unitSay (idSe d e) b with
  | .ok =>
    let r := m.landUnit d e x y b ((y.data.drop (64 * k)).take 64)
    (r.1, { y with sent := SMap.put 0 i (k + 1) y.sent }, r.2)
  | .wait => (x, y, m)
  | _ => ((x.detach i 2).meet 8 y.idx, y, m.unitRefuse (idSe d e) b)

/-- Up to n units of an entry written: each read, but for a unit of a multicast block that another receiver has had (R182, R187). -/
def Mach.issueUnits (m : Mach) (d e : Nat) (x : Transfer) (y : SeEntry) : Nat → Transfer × Mach
  | 0 => (x.putEntry y, m)
  | n + 1 =>
    let who := idSe d e
    if y.mcast then
      match m.nextReceiver d e x y with
      | none => (x.putEntry y, m)
      | some i =>
        if y.sentTo i < y.issued then
          let r := m.sendUnit d e x y i
          r.2.2.issueUnits d e r.1 r.2.1 n
        else
          let s := m.sourceUnit who (y.src.addr (y.srcOff y.issued))
          match s.1 with
          | none => (x.spoil y 7, s.2)
          | some (bs, rr) =>
            let r := s.2.sendUnit d e (x.mark rr) { y with issued := y.issued + 1, data := y.data ++ bs } i
            r.2.2.issueUnits d e r.1 r.2.1 n
    else if y.units ≤ y.issued || !m.entryReady d e x y then (x.putEntry y, m)
    else
      let b := y.dst.addr (y.dstOff y.issued)
      let s := m.sourceUnit who (y.src.addr (y.srcOff y.issued))
      match s.1 with
      | none => (x.spoil y 7, s.2)
      | some (bs, rr) => match s.2.unitSay who b with
        | .ok =>
          let r := s.2.landUnit d e (x.mark rr) y b bs
          r.2.issueUnits d e r.1 { y with issued := y.issued + 1 } n
        | _ => ((x.mark rr).spoil y 8, s.2.unitRefuse who b)

/-- The kind that issues in a cycle and its entry: the slot's kind, or with LEND the first other that can issue (R185). -/
def Mach.wheelPick (m : Mach) (d e : Nat) (x : Transfer) : Option (SeEntry × Bool) :=
  let k := m.rd F.seSlotKind (seDesc d e (m.rd F.seWheelPosSlot (seIx d e)))
  match m.nextEntry d e x k with
  | some y => some (y, false)
  | none =>
    if m.on F.seWheelLend (seIx d e) then (([0, 1, 2].filter (fun j => j != k)).findSome? (m.nextEntry d e x)).map (fun y => (y, true)) else none

/-- The events that a transfer has raised since it stood as x. -/
def Mach.seEvents (m : Mach) (d e : Nat) (x y : Transfer) (fl : Nat) : Mach :=
  let q := seIx d e
  let m1 := if bitOf 7 fl then m.ev F.seEventsReread q else m
  let m2 := if bitOf 10 fl then m1.ev F.seEventsMulticastLag q else m1
  if y.detached ≠ x.detached then m2.ev F.seEventsDetached q else m2

/-- ENTRY_ISSUE: up to 256 bytes of writes of one entry; reread says whether a source burst of it came with that mark. -/
def opEntryIssue (d e : Nat) (reread : Bool) (m : Mach) : Mach :=
  let x := m.se d e
  match x.run with
  | none => m
  | some t => match m.wheelPick d e t with
    | none => m
    | some (y, lent) =>
      let m0 := if lent then m.wrap F.seLent (seIx d e) 1 else m
      let r := m0.issueUnits d e { t with flags := 0 } y 4
      let took := r.1.entries.any (fun z => z.idx == y.idx && decide (y.issued < z.issued))
      let r1 := r.1.mark (reread && took)
      (r.2.setSe d e { x with run := some { r1 with flags := t.flags ||| r1.flags } }).seEvents d e t r1 r1.flags

/-! Completion (R183, R190, R193) -/

/-- Whether an entry completes: all issued and acknowledged; of a multicast block, delivered by all that are attached, and acknowledged what
was issued to those detached. -/
def Transfer.entryDone (x : Transfer) (y : SeEntry) : Bool :=
  !y.complete && !y.bad &&
  (if y.mcast then (x.attached == 0 || (y.units == y.issued && x.allDelivered y)) &&
      !x.notices.any (fun n => decide (0 < y.sentTo n.1) && !bitOf n.1 y.delivered)
   else y.units == y.issued)

/-- The completed prefix advances; each NOTIFY entry it takes in sends a progress message. -/
def Mach.advance (m : Mach) (d e : Nat) (x : Transfer) : List SeEntry → Mach × List SeEntry
  | [] => (m, [])
  | y :: l =>
    let q := seDesc d e x.arm.desc
    if y.complete ∧ y.idx = m.rd F.seDescDone q then
      let m1 := m.wr F.seDescDone q (y.idx + 1)
      (if y.notify then m1.seSend d e x 1 0 0 0xFF y.idx y.etag else m1).advance d e x l
    else (m, y :: l)

/-- ENTRY_COMPLETE. -/
def opEntryComplete (d e idx : Nat) (m : Mach) : Mach :=
  let x := m.se d e
  match x.run with
  | none => m
  | some t => match t.entries.find? (fun y => y.idx == idx) with
    | none => m
    | some y =>
      if !t.entryDone y then m
      else
        let t1 := t.putEntry { y with complete := true, data := [] }
        let r := m.advance d e t1 t1.entries
        r.1.setSe d e { x with run := some { t1 with entries := r.2 } }

/-- TRANSFER_ERROR: the cause met first is recorded and nothing further starts (R192). -/
def opTransferError (d e : Nat) (m : Mach) : Mach :=
  let x := m.se d e
  match x.run with
  | none => m
  | some t => match t.met with
    | none => m
    | some (c, i) =>
      if t.failed then m
      else
        let q := seIx d e
        ((((m.setSe d e { x with run := some { t with failed := true } }).wr F.seErrCause q c).wr F.seErrDesc q t.arm.desc).wr F.seErrEntry q i).ev
          F.seEventsError q

/-- Entries already issued, and not yet complete. -/
def Transfer.underWay (x : Transfer) : Bool := x.entries.any (fun y => !y.complete && !y.bad && decide (0 < y.issued))

/-- The clusters of a transfer's detached receivers. -/
def Mach.detachedClusters (m : Mach) (x : Transfer) : List Nat :=
  ((upFrom 0 16).filter (fun i => bitOf i x.detached)).filterMap (fun i => match placeOf m.fuses (nth 0 x.arm.bases i) with
    | .sram c _ => some c
    | _ => none)

/-- What a transfer of a job reports: its event flags join the event's, a DETACH_MASK gives MULTICAST_DETACHED and leaves the receiving
clusters owed their data, and a unicast that has ended OK settles what it served (R191; 05 R111). -/
def Mach.jobTransfer (m : Mach) (x : Transfer) (ok : Bool) : Mach :=
  match x.arm.job with
  | none => m
  | some id => match m.jobOf id with
    | none => m
    | some j =>
      let m1 := m.setJob (j.onRun (fun ev =>
        { ev with flags := ev.flags ||| x.allFlags, statuses := ev.statuses ++ (if x.detached = 0 then [] else [stDetached]) }))
      let kept := m1.alm.owed.filter (fun o => !(ok && o.job == id && x.arm.serves == some o.cluster))
      { m1 with alm := { m1.alm with owed := kept ++ (m1.detachedClusters x).map (fun c => ⟨id, c⟩) } }

/-- TRANSFER_COMPLETE: OK, ERROR or ABORTED; a pending arming joins the run queue (R177, R183, R192, R195). -/
def opTransferComplete (d e : Nat) (m : Mach) : Mach :=
  let x := m.se d e
  match x.run with
  | none => m
  | some t =>
    let q := seDesc d e t.arm.desc
    let whole := decide (m.rd F.seDescDone q = t.arm.count) && !t.failed && t.met.isNone
    let ends := if t.flushed ∨ t.failed then !t.underWay else whole
    if !ends || !t.notices.isEmpty || (t.met.isSome && !t.failed && !t.flushed) then m
    else
      let cause := if t.failed then (t.met.map (fun c => c.1)).getD 0 else 0
      let m1 := (m.seSend d e t 2 (if t.failed then 1 else if t.flushed then 2 else 0) cause 0xFF 0 0).jobTransfer t whole
      match x.pending.find? (fun a => a.desc == t.arm.desc) with
      | some a =>
        ((m1.setSe d e { x with run := none, queue := x.queue ++ [a], pending := x.pending.filter (fun b => b.desc != a.desc) }).wr
          F.seDescStatePending q 0).wr F.seDescStateState q dQueued
      | none =>
        (m1.setSe d e { x with run := none }).wr F.seDescStateState q
          (if x.queue.any (fun a => a.desc == t.arm.desc) then dQueued else dIdle)

/-! Multicast (R187 to R191) -/

def Transfer.count (x : Transfer) (i : Nat) : Nat := SMap.get 0 i x.delivered
def Transfer.maxCount (x : Transfer) : Nat := x.receivers.foldl (fun a i => max a (x.count i)) 0

/-- The test of every delivery: whether MULTICAST_LAG is met, and the receivers whose lag exceeds LAG_MAX detached (R188, R189). -/
def Transfer.lagTest (x : Transfer) : Bool × Transfer :=
  let top := x.maxCount
  let near := x.receivers.any (fun i => decide (x.arm.lagMax < 2 * (top - x.count i)))
  (near, (x.receivers.filter (fun i => decide (x.arm.lagMax < top - x.count i))).foldl (fun y i => y.detach i 1)
    { x with flags := x.flags ||| (if near then flMcLag else 0) })

/-- The oldest block issued whole to a receiver that has not delivered it. -/
def Transfer.nextBlock (x : Transfer) (i : Nat) : Option SeEntry :=
  x.entries.find? (fun y => y.mcast && !y.complete && y.sentTo i == y.units && !bitOf i y.delivered)

/-- A receiver delivers a block: D_i counts it. -/
def Transfer.deliver (x : Transfer) (y : SeEntry) (i : Nat) : Transfer :=
  ({ x with delivered := SMap.put 0 i (x.count i + 1) x.delivered } : Transfer).putEntry { y with delivered := setBit i y.delivered }

/-- MULTICAST_DELIVER: all writes of receiver r's next block have been acknowledged. -/
def opMulticastDeliver (d e r : Nat) (m : Mach) : Mach :=
  let x := m.se d e
  match x.run with
  | none => m
  | some t =>
    if !bitOf r t.attached then m
    else match t.nextBlock r with
      | none => m
      | some y =>
        let l := (t.deliver y r).lagTest
        (m.setSe d e { x with run := some l.2 }).seEvents d e t l.2 (if l.1 then flMcLag else 0)

/-- What was issued to a detached receiver has been acknowledged: the blocks it has whole are delivered (R188). -/
def Transfer.settle (x : Transfer) (i : Nat) : Transfer :=
  (x.entries.filter (fun y => y.mcast && !y.complete && y.sentTo i == y.units && !bitOf i y.delivered)).foldl (fun t y => t.deliver y i) x

/-- DETACH_NOTICE: the notice with the receiver's index and its final D_i. -/
def opDetachNotice (d e r cause : Nat) (m : Mach) : Mach :=
  let x := m.se d e
  match x.run with
  | none => m
  | some t => match t.notices.find? (fun n => n == (r, cause)) with
    | none => m
    | some _ =>
      let t0 := t.settle r
      let t1 := { t0 with notices := t0.notices.filter (fun n => n.1 != r) }
      (m.seSend d e t1 3 0 cause r (t1.count r) 0).setSe d e { x with run := some t1 }

/-- MULTICAST_COMPLETION_UNICAST: the steward of the die arms a unicast transfer that completes what a cluster of a job is owed; the
cluster's shares wait for it (SHARE_DISPATCH), and the job's completion carries MULTICAST_DETACHED. -/
def opMulticastCompletionUnicast (job cluster d e n list count notify tag : Nat) (m : Mach) : Mach :=
  match m.jobOf job with
  | none => m
  | some j =>
    if !m.procUp (4 + d) || !j.traps.isEmpty || !m.alm.owed.contains ⟨job, cluster⟩ then m
    else
      let q := seDesc d e n
      let m1 := ((((m.wr F.seDescListLo q (list % 2 ^ 32 / 64)).wr F.seDescListHi q (list / 2 ^ 32)).wr F.seDescCount q count).wr F.seDescNotify q
        notify).wr F.seDescTag q tag
      m1.armFor d e n j (some cluster)

/-! The wheel (R185, R186) -/

/-- WHEEL_ADVANCE: the next slot, while the engine runs. -/
def opWheelAdvance (d e : Nat) (m : Mach) : Mach :=
  if m.seStopped d e then m else m.wr F.seWheelPosSlot (seIx d e) (m.rd F.seWheelPosSlot (seIx d e) + 1)

/-- SE_SLOT_WRITE: held while the slot is in use; a reserved value is kept out. -/
def Mach.slotLand (m : Mach) (d e i v : Nat) : Mach :=
  if F.seSlotKind.isLegal (v % 4) then m.wr F.seSlotKind (seDesc d e i) (v % 4) else m

def opSeSlotWrite (d e i who v : Nat) (m : Mach) : Mach :=
  if !m.seStopped d e ∧ m.rd F.seWheelPosSlot (seIx d e) = i then
    m.setSe d e { (m.se d e) with slots := (m.se d e).slots ++ [(i, who, v)] }
  else (m.slotLand d e i v).respond who rsOk

/-- SE_SLOT_HELD_RELEASE: the oldest held write whose slot is no longer in use lands. -/
def opSeSlotHeldRelease (d e : Nat) (m : Mach) : Mach :=
  let x := m.se d e
  let free (h : Nat × Nat × Nat) : Bool := m.seStopped d e || m.rd F.seWheelPosSlot (seIx d e) != h.1
  match x.slots.find? free with
  | none => m
  | some h => ((m.setSe d e { x with slots := x.slots.erase h }).slotLand d e h.1 h.2.2).respond h.2.1 rsOk

/-- SE_CTRL_RUN (R194); the wheel restarts at slot 0. -/
def Mach.seRun (m : Mach) (d e : Nat) (run : Bool) : Mach :=
  let m1 := if run && m.seStopped d e then m.wr F.seWheelPosSlot (seIx d e) 0 else m
  m1.wr F.seCtrlRun (seIx d e) (b2n run)

def opSeCtrlRun (d e who : Nat) (run : Bool) (m : Mach) : Mach := (m.seRun d e run).respond who rsOk

/-- SE_FLUSH (R195). -/
def Mach.seFlush (m : Mach) (d e : Nat) : Mach :=
  let x := m.se d e
  let m1 := m.setSe d e { x with queue := [], pending := [], run := x.run.map (fun t =>
    { t with flushed := true, entries := t.entries.filter (fun y => y.complete || decide (0 < y.issued)) }) }
  (upFrom 0 8).foldl (fun m n => (m.wr F.seDescStateState (seDesc d e n) dIdle).wr F.seDescStatePending (seDesc d e n) 0) m1

def opSeFlush (d e who : Nat) (m : Mach) : Mach := (m.seFlush d e).respond who rsOk

/-! The meanings -/

def execSeArm (d : DieNo) (e : Fin 16) (n : Fin 8) (by_ : Armer) (s : State) := s.on (.noc d.val) (opSeArm d.val e.val n.val by_.who by_.job)
def execTransferStart (d : DieNo) (e : Fin 16) (s : State) := s.on (.noc d.val) (opTransferStart d.val e.val)
def execListFetch (d : DieNo) (e : Fin 16) (s : State) := s.on (.noc d.val) (opListFetch d.val e.val)
def execEntryIssue (d : DieNo) (e : Fin 16) (r : Bool) (s : State) := s.on (.noc d.val) (opEntryIssue d.val e.val r)
def execEntryComplete (d : DieNo) (e : Fin 16) (i : Nat) (s : State) := s.on (.noc d.val) (opEntryComplete d.val e.val i)
def execTransferComplete (d : DieNo) (e : Fin 16) (s : State) := s.on (.noc d.val) (opTransferComplete d.val e.val)
def execTransferError (d : DieNo) (e : Fin 16) (s : State) := s.on (.noc d.val) (opTransferError d.val e.val)
def execWheelAdvance (d : DieNo) (e : Fin 16) (s : State) := s.on (.noc d.val) (opWheelAdvance d.val e.val)
def execSeSlotWrite (d : DieNo) (e : Fin 16) (i : Fin 64) (who : Nat) (w : Word) (s : State) := s.on (.noc d.val) (opSeSlotWrite d.val e.val i.val who w.toNat)
def execSeSlotHeldRelease (d : DieNo) (e : Fin 16) (s : State) := s.on (.noc d.val) (opSeSlotHeldRelease d.val e.val)
def execMulticastDeliver (d : DieNo) (e r : Fin 16) (s : State) := s.on (.noc d.val) (opMulticastDeliver d.val e.val r.val)
def execDetachNotice (d : DieNo) (e r : Fin 16) (cause : Nat) (s : State) := s.on (.noc d.val) (opDetachNotice d.val e.val r.val cause)
def execSeCtrlRun (d : DieNo) (e : Fin 16) (who : Nat) (run : Bool) (s : State) := s.on (.noc d.val) (opSeCtrlRun d.val e.val who run)
def execSeFlush (d : DieNo) (e : Fin 16) (who : Nat) (s : State) := s.on (.noc d.val) (opSeFlush d.val e.val who)
def execMulticastCompletionUnicast (x : Completion) (d : DieNo) (e : Fin 16) (n : Fin 8) (l c nt tag : Nat) (s : State) :=
  s.on (.noc d.val) (opMulticastCompletionUnicast x.job x.cluster.val d.val e.val n.val l c nt tag)

end Sys2Proof.Machine
end

