-- ==== Sys2Proof/Machine/Network.lean ====
section
/-! DEFINITION. The module network of chapter 10, but for ROUTER_FORWARD, which reaches the units (Deliver.lean). -/

namespace Sys2Proof.Machine

/-- A number that is no transaction's: a packet has it until it is injected. -/
def noTxn : Nat := 4096

/-- The packets of a request, less what injection gives them; a message goes by Mach.mail. -/
def Mach.packetsOf (m : Mach) (who die port : Nat) (r : NetReq) : List Packet :=
  let mk (type dest addr len : Nat) : Packet := newPacket type who (niKey die port) dest 0 noTxn addr len
  let at_ (a : Nat) : Nat := (destOf m.fuses a).getD 0
  match r with
  | .read a len => (pieces256 (len / 256 + 2) a len).map (fun x => mk 0x01 (at_ x.1) x.1 x.2)
  | .write a d en na => (pieces256 (d.length / 256 + 2) a d.length).map (fun x =>
      { mk 0x10 (at_ x.1) x.1 x.2 with data := (d.drop (x.1 - a)).take x.2, en := (en.drop (x.1 - a)).take x.2, noAck := na })
  | .atomic sw wide a v => [{ mk (if sw then 0x03 else 0x02) (at_ a) a (if wide then 8 else 4) with data := leBytes (if wide then 8 else 4) v }]
  | .regRead a => [mk 0x04 (at_ a) a 4]
  | .regWrite a d => [{ mk 0x05 (at_ a) a 4 with data := leBytes 4 d.toNat }]
  | .mail _ _ => []
  | .snp k dest d => [{ mk (0x31 + k.val) dest.val 0 d.length with data := d }]

/-- The address an access names. -/
def reqAddr : NetReq → Option Nat
  | .read a _ => some a
  | .write a _ _ _ => some a
  | .atomic _ _ a _ => some a
  | .regRead a => some a
  | .regWrite a _ => some a
  | _ => none

/-- Who reaches the network block: the keeper's processors through the management channel, and the die's steward (R221). -/
def netBlockWho (d who : Nat) : Bool := decide (who / 4096 = 1) || who == idSteward d || who == idTest || who == idHost

/-- A register access is a naturally aligned 32-bit one (00 R4). -/
def regForm : NetReq → Bool
  | .regRead a => a % 4 == 0
  | .regWrite a _ => a % 4 == 0
  | _ => false

/-- The network block of an engine die that an address names; it has no port (R221). -/
def netBlockAt (fu : Fuses) (a : Nat) : Option Nat :=
  match placeOf fu a with
  | .reg die o => if die < 6 ∧ o / 0x1000000 = 5 then some die else none
  | _ => none

/-- The answer to an access at an address that no port serves: DECODE outside every populated range (01 R19); the network block checks the
form first and refuses (R239). -/
def portless (fu : Fuses) (r : NetReq) (a : Nat) : Nat :=
  if (netBlockAt fu a).isNone then rsDecode else if regForm r then rsRefused else rsMalformed

/-- PACKET_INJECT: each piece of an access is handed to the NI, which holds it while it may not inject (R225, R240). Those whom the network
block admits reach it by other ways, not by a port (R221; log 151). -/
def opPacketInject (who : Nat) (r : NetReq) (m : Mach) : Mach :=
  match masterNi who, r with
  | none, _ => m
  | some _, .mail mb ws => m.mail who mb ws
  | some (die, port), _ => (m.packetsOf who die port r).foldl (fun m p =>
      if netOf p.type = 2 ∨ (destOf m.fuses p.addr).isSome then m.niSend die port p
      else if ((netBlockAt m.fuses p.addr).map (fun d => netBlockWho d who)).getD false then m
      else m.answer who noTxn (portless m.fuses r p.addr) [] 0) m

/-! Discards, ingresses, urgency -/

/-- A misrouted packet is counted and recorded (R230). -/
def Mach.misroute (m : Mach) (d : Nat) (p : Packet) : Mach := m.misrouteAt d p.srcPort p.dest

/-- The response to a request, from an NI. -/
def rspTo (p : Packet) (here type status marks : Nat) (data : List Byte) : Packet :=
  { p with type := type, urg := p.base, wait := 0, here := 0, srcPort := here, dest := p.srcPort, hop := 0, noAck := false, len := data.length,
           status := status, marks := marks, data := data, en := [] }

/-- The routers an engine die's off-die links attach to (Table 10-1): east, west, north, south, control. -/
def linkRouter (q : Nat) : Nat := nth 0 [11, 12, 21, 2, 0] q

/-- INGRESS_RELOOKUP (R229): DEST looked up anew; a bridge ingress discards what is meant for the keeper. -/
def opIngressRelookup (d q net : Nat) (m : Mach) : Mach :=
  match m.ingr (inKey d q net) with
  | [] => m
  | p :: l =>
    let m1 := m.setIngr (inKey d q net) l
    if q < 4 ∧ p.dest / 64 = 6 then m1.misroute d p
    else match m.routeOf d (64 + q) p.dest with
      | none =>
        let m2 := m1.ev F.nocEventsNoroute d
        if p.wantsRsp then
          (match m2.routeOf d (64 + q) p.srcPort with
          | none => m2
          | some r =>
            let k := qKey d 1 (linkRouter q) 4
            if 8 ≤ (m.nq k).length then m
            else m2.setNq k (m2.nq k ++ [{ rspTo p (64 * d + 63) 0x2F rsNoRoute 0 [] with route := r }]))
        else m2
      | some r =>
        let k := qKey d net (linkRouter q) 4
        if 8 ≤ (m.nq k).length then m else m1.setNq k (m1.nq k ++ [{ p with route := r, hop := 0, wait := 0, here := 0 }])

/-! What a router does with a packet -/

/-- The die at the other end of a bridge (01 R10), and the side it is seen from. -/
def bridgePeer (d link : Nat) : Option (Nat × Nat) :=
  if link = 0 then (if d % 3 < 2 then some (d + 1, 1) else none)
  else if link = 1 then (if 0 < d % 3 then some (d - 1, 0) else none)
  else if link = 2 then (if d < 3 then some (d + 3, 3) else none)
  else (if 3 ≤ d then some (d - 3, 2) else none)

def Mach.bridgeDown (m : Mach) (d link : Nat) : Bool := SMap.get 0 (4 * d + link) m.net.down != 0

/-- The hop code of a packet; none once 16 hops have passed. -/
def Packet.hopCode (p : Packet) : Option Nat := if p.hop < 16 then some (p.route / 2 ^ (3 * p.hop) % 8) else none

/-- The mesh neighbour of router n on a side, and the input it arrives at. -/
def neighbour (n side : Nat) : Option (Nat × Nat) :=
  let x := n % 6
  let y := n / 6
  match side with
  | 0 => if x < 5 then some (n + 1, 1) else none
  | 1 => if 0 < x then some (n - 1, 0) else none
  | 2 => if y < 3 then some (n + 6, 3) else none
  | 3 => if 0 < y then some (n - 6, 2) else none
  | _ => none

/-- The off-die link at router n of a die: 0 to 3 the bridges, 4 the control link. -/
def linkAt (d n : Nat) : Option Nat := (upFrom 0 5).find? (fun q => linkRouter q == n && (q == 4 || (bridgePeer d q).isSome))

/-- The output a packet at the head of a queue of router n wants; none where it is misrouted (R230). -/
def Mach.wants (m : Mach) (d n : Nat) (p : Packet) : Option Nat :=
  match p.hopCode with
  | some 4 => (match linkAt d n with
    | some q => if q < 4 ∧ m.bridgeDown d q then none else some 4
    | none => none)
  | some 7 => if p.dest / 64 = d ∧ p.dest % 64 / 4 = n then some (5 + p.dest % 4) else none
  | some c => if c < 4 ∧ (neighbour n c).isSome then some c else none
  | none => none

/-- The cycles a packet waits raise its urgency, by one each time WAIT reaches 256 (R234). -/
def Packet.aged (p : Packet) (cycles : Nat) : Packet :=
  let w := p.wait + cycles
  { p with urg := min 15 (p.urg + w / 256), wait := w % 256, here := p.here + cycles }

/-- URGENCY_RISE (R234): a packet in a router input's queue, or in the injection queue of the NI at a local input (9 to 12), has waited until
its WAIT reaches 256; at the head of its queue it was not forwarded meanwhile (R241). -/
def opUrgencyRise (d net n input i : Nat) (m : Mach) : Mach :=
  let ni := niqKey d (4 * n + (input - 9)) net
  let k := qKey d net n input
  match (if input < 9 then m.nq k else m.niq ni)[i]? with
  | none => m
  | some p =>
    let q := p.aged (256 - p.wait)
    let m1 := if input < 9 then m.setNq k (setNth (m.nq k) i q) else m.setNiq ni (setNth (m.niq ni) i q)
    let out := if input < 9 then (m.wants d n p).map (fun o => min o 5) else some 6
    match i, out with
    | 0, some o => m1.lanternWait d net n o p (256 - p.wait)
    | _, _ => m1

/-- The access of an FNI request. -/
def FniReq.net (q : FniReq) : NetReq :=
  if q.kind = 0 then .read q.addr q.len
  else if q.kind = 1 then .write q.addr q.data q.en q.noAck
  else if q.kind = 2 then .atomic false (q.len == 8) q.addr (leNat q.data)
  else if q.kind = 3 then .atomic true (q.len == 8) q.addr (leNat q.data)
  else if q.kind = 4 then .regRead q.addr
  else .regWrite q.addr (BitVec.ofNat 32 (leNat q.data))

/-- An FNI's oldest request goes to the network, or is answered: at no port DECODE or REFUSED, without a route NOROUTE; none while its NI may not
inject. -/
def Mach.fniInject (m : Mach) (k : Nat) (q : FniReq) : Option Mach :=
  let who := idFni (k / 32) (k % 32)
  let die := k / 32
  let port := 46 + k % 32 / 4
  let quiet := q.kind == 1 && q.noAck
  let x := m.fni k
  let drop := m.setFni k { x with tags := x.tags.erase (q.tag, none) }
  if q.kind = 6 then
    (if m.on F.nocCtrlRun die then some (m.mail who (q.addr % 65536) ((upFrom 0 16).map (fun i => leNat ((q.data.drop (4 * i)).take 4)))) else none)
  else match destOf m.fuses q.addr, m.packetsOf who die port q.net with
    | some _, p :: _ =>
      if !m.mayInject die port p then none
      else (match m.launch die port p with
        | none => some ((drop.ev F.nocEventsNoroute die).fniAnswer k q.tag rsNoRoute [] 0)
        | some (t, m1) =>
          some (if quiet then m1
            else m1.setFni k { (m1.fni k) with tags := (m1.fni k).tags.map (fun y => if y = (q.tag, none) then (q.tag, some t) else y) }))
    | _, _ => some (if quiet && (netBlockAt m.fuses q.addr).isNone then m else drop.fniAnswer k q.tag (portless m.fuses q.net q.addr) [] 0)

/-- The requests an FNI holds go in order, as far as its NI may inject (10 R240). -/
def Mach.fniDrain (m : Mach) (k : Nat) : List FniReq → Mach
  | [] => m
  | q :: l => match (m.setFni k { (m.fni k) with reqs := l }).fniInject k q with
    | none => m
    | some m1 => m1.fniDrain k l

/-- An NI has room again, or may inject again: what waits for it goes, as far as it may. -/
def Mach.niFree (m : Mach) (die port : Nat) : Mach :=
  let m1 := (upFrom 0 4).foldl (fun m net => m.niDrain die port net) m
  if die < 6 ∧ 46 ≤ port ∧ port < 54 then (upFrom (32 * die + 4 * (port - 46)) 4).foldl (fun m k => m.fniDrain k (m.fni k).reqs) m1 else m1

/-- NOC_CTRL.RUN of a die is set: its NIs go on. -/
def Mach.nocOn (m : Mach) (d : Nat) : Mach := (upFrom 0 64).foldl (fun m p => m.niFree d p) (m.wr F.nocCtrlRun d 1)

/-! Responses and timeouts (R225, R231) -/

/-- RESPONSE_ARRIVE: delivered to its master, or discarded as late. -/
def opResponseArrive (die port : Nat) (m : Mach) : Mach :=
  let k := niKey die port
  match m.arrd k with
  | [] => m
  | p :: l =>
    let m1 := m.setArrd k l
    let o := m1.outs k
    match o.find? (fun x => x.txn == p.txn) with
    | none => if die < 6 then (m1.cnt F.nocLateRsp die 1).ev F.nocEventsLateRsp die else m1
    | some x =>
      let m2 := m1.setOuts k (o.erase x)
      (if x.late then (if die < 6 then (m2.cnt F.nocLateRsp die 1).ev F.nocEventsLateRsp die else m2)
      else m2.answer x.who x.txn p.status p.data p.marks).niFree die port

/-- REQUEST_TIMEOUT: the master gets TIMEOUT; after a second period the transaction number is free again. -/
def opRequestTimeout (die port txn : Nat) (m : Mach) : Mach :=
  let k := niKey die port
  let o := m.outs k
  match o.find? (fun x => x.txn == txn) with
  | none => m
  | some x =>
    if x.late then (m.setOuts k (o.erase x)).niFree die port
    else
      let m1 := (m.setOuts k (o.map (fun y => if y.txn = txn then { y with late := true } else y))).answer x.who x.txn rsTimeout [] 0
      if die < 6 then (m1.cnt F.nocTimeouts die 1).ev F.nocEventsTimeout die else m1

/-! Bridges (R236, R237) -/

/-- BRIDGE_RETRY: counted at the ingress; the eighth failure in a row takes the bridge down on both dies. -/
def opBridgeRetry (d link : Nat) (m : Mach) : Mach :=
  match bridgePeer d link with
  | none => m
  | some (e, back) =>
    if m.bridgeDown d link then m
    else
      let n := SMap.get 0 (4 * d + link) m.net.fails + 1
      let m1 := ({ m with net := { m.net with fails := SMap.put 0 (4 * d + link) n m.net.fails } } : Mach).cnt F.nocBridgeRetries d 1
      let m2 := m1.ev F.nocEventsBridgeRetry d
      if n < 8 then m2
      else
        let m3 : Mach := { m2 with net := { m2.net with down := SMap.put 0 (4 * e + back) 1 (SMap.put 0 (4 * d + link) 1 m2.net.down) } }
        let m4 := (m3.ev F.nocEventsBridgeDown d).ev F.nocEventsBridgeDown e
        if m4.procUp 3 then m4.hostEvent 4 d link else m4

/-! Control and the trace writer (R240, R243) -/

/-- Whether a key of the queues, of the ingresses or of the NIs is of a die. -/
def qDie (k : Nat) : Nat := k / 2048
def inDie (k : Nat) : Nat := k / 32
def niDie (k : Nat) : Nat := k / 64

/-- No packet of the die is in a queue, a router or an ingress, no response waits, and no request of its NIs is outstanding; requests and messages
that its NIs hold do not count (R240). -/
def Mach.nocQuiet (m : Mach) (d : Nat) : Bool :=
  !m.net.queues.any (fun x => qDie x.1 == d) && !m.net.ingress.any (fun x => inDie x.1 == d) && !m.net.outst.any (fun x => niDie x.1 == d) &&
  !m.net.arrived.any (fun x => niDie x.1 == d) && !m.net.waits.any (fun x => niDie (x.1 / 4) == d && x.1 % 4 == 1)

def Mach.nocStopped (m : Mach) (d : Nat) : Bool := !m.on F.nocCtrlRun d && m.nocQuiet d

/-- A write that its writer's identity admits. -/
def Mach.permit (m : Mach) (ok : Bool) (who : Nat) (f : Mach → Mach) : Mach :=
  if ok then (f m).respond who rsOk else m.respond who rsRefused

def opNocCtrlRun (d who : Nat) (run : Bool) (m : Mach) : Mach :=
  m.permit (netBlockWho d who) who (fun m => if run then m.nocOn d else m.wr F.nocCtrlRun d 0)

/-- TRACE_RUN_WRITE: setting it restarts LT_WRITE_PTR and takes LT_BASE and LT_SIZE. -/
def Mach.traceRun (m : Mach) (d : Nat) (run : Bool) : Mach :=
  if run then
    ((m.setTracer d { (m.tracer d) with base := m.rd F.ltBaseHi d * 2 ^ 32 + m.rd F.ltBaseLo d, log2 := m.rd F.ltSizeLog2 d, wrap := m.on F.ltSizeWrap d }).wr
      F.ltWritePtr d 0).wr F.ltCtrlTraceRun d 1
  else m.wr F.ltCtrlTraceRun d 0

def opTraceRunWrite (d who : Nat) (run : Bool) (m : Mach) : Mach := m.permit (netBlockWho d who) who (fun m => m.traceRun d run)

/-- TRACE_WRITE: the oldest record goes to the buffer, as a WRITE from port 63; where no port serves the address, that is its error response. -/
def opTraceWrite (d : Nat) (m : Mach) : Mach :=
  let t := m.tracer d
  match t.store with
  | [] => m
  | r :: l =>
    let i := m.rd F.ltWritePtr d
    let n := 2 ^ t.log2 / 32
    let a := t.base + 32 * i
    match m.packetsOf (idLantern d) d 63 (.write a r (List.replicate 32 true) false) with
    | [] => m
    | p :: _ =>
      if !m.on F.ltCtrlTraceRun d || !m.mayInject d 63 p then m
      else
        let m1 := m.setTracer d { t with store := l }
        let m2 := if i + 1 < n then m1.wr F.ltWritePtr d (i + 1)
          else if t.wrap then m1.wr F.ltWritePtr d 0
          else (m1.wr F.ltWritePtr d (i + 1)).wr F.ltCtrlTraceRun d 0
        if (destOf m.fuses a).isNone then m2.answer (idLantern d) noTxn rsDecode [] 0 else m2.niSend d 63 p

/-- The domain of a master's network interface. -/
def whoDom (who : Nat) : Dom :=
  match masterNi who with
  | some (die, _) => dieDom die
  | none => .keeper

/-! The meanings -/

def execPacketInject (who : Nat) (r : NetReq) (s : State) := s.on (whoDom who) (opPacketInject who r)
def execIngressRelookup (d : DieNo) (q : Fin 5) (net : Fin 4) (s : State) := s.on (.noc d.val) (opIngressRelookup d.val q.val net.val)
def execUrgencyRise (d : DieNo) (net : Fin 4) (n : Fin 24) (inp : Fin 13) (i : Nat) (s : State) := s.on (.noc d.val) (opUrgencyRise d.val net.val n.val inp.val i)
def execResponseArrive (die : AnyDie) (p : Fin 64) (s : State) := s.on (dieDom die.val) (opResponseArrive die.val p.val)
def execRequestTimeout (die : AnyDie) (p : Fin 64) (t : Fin 4096) (s : State) := s.on (dieDom die.val) (opRequestTimeout die.val p.val t.val)
def execBridgeRetry (d : DieNo) (l : Fin 4) (s : State) := s.on (.noc d.val) (opBridgeRetry d.val l.val)
def execNocCtrlRun (d : DieNo) (who : Nat) (run : Bool) (s : State) := s.on (.noc d.val) (opNocCtrlRun d.val who run)
def execTraceWrite (d : DieNo) (s : State) := s.on (.noc d.val) (opTraceWrite d.val)
def execTraceRunWrite (d : DieNo) (who : Nat) (run : Bool) (s : State) := s.on (.noc d.val) (opTraceRunWrite d.val who run)

end Sys2Proof.Machine
end

