-- ==== Sys2Proof/Machine/Fabric.lean ====
section
/-! DEFINITION. The product-term fabric of chapter 11: P-blocks, fabric RAM, regional clocks, FNIs, the row-push window and the fabric
I/O banks. -/

namespace Sys2Proof.Machine

/-! Configuration (13 R306; log 11) -/

def rgn (d r : Nat) : Nat := 24 * d + r
def rgnIx (d r : Nat) : Nat := ix d r 0 0
def rgnClk (d r k : Nat) : Nat := ix d r k 0

/-- P-blocks, fabric RAM blocks and slices of a region (R245). -/
def rgnBlocks (r : Nat) : Nat := if r < 16 then 704 else 640
def rgnRams (r : Nat) : Nat := if r < 16 then 44 else 40
def rgnSlices (r : Nat) : List Nat := if r < 16 then upFrom (3 * r) 3 else upFrom (48 + 2 * (r - 16)) 2
def rgnFnis (r : Nat) : List Nat := if r < 16 then [r] else upFrom (16 + 2 * (r - 16)) 2

/-- The I/O banks of a region, by module bank number (R245). -/
def rgnBanks (d r : Nat) : List Nat :=
  if r = 16 then [d] else if r = 20 then (if d = 1 then [6] else if d = 4 then [7] else []) else []

/-- The die of a module I/O bank. -/
def bankDie (b : Nat) : Nat := if b < 6 then b else if b = 6 then 1 else 4
def ioIx (b : Nat) : Nat := ix (bankDie b) b 0 0

/-- A frame's address word (13 Table 13-3). -/
def frameAddr (d r type index : Nat) : Nat := d * 2 ^ 29 + r * 2 ^ 24 + type * 2 ^ 20 + index

def Mach.frame (m : Mach) (a : Nat) : Nat := SMap.get 0 a m.fab.frames

/-- An item of configuration: a bit of one of the n frames from an index up. -/
def Mach.cfgBit (m : Mach) (d r type base n item : Nat) : Bool :=
  let x := Config.cfgPlace type item
  match m.frame (frameAddr d r type (base + x / 4096 % n)) with
  | 0 => false
  | v + 1 => bitOf (x % 4096) (v + 1)

/-- A number of w items. -/
def Mach.cfgNum (m : Mach) (d r type base n item : Nat) : Nat → Nat
  | 0 => 0
  | w + 1 => b2n (m.cfgBit d r type base n item) + 2 * m.cfgNum d r type base n (item + 1) w

/-! P-blocks (R246 to R251). Items of LOGIC: 76 × t + l literal l of term t (2i true, 2i + 1 complement); 8000 + t own term t goes to its
sum; 8100 + 2 × (t − 64) where pool term t goes (2 bits: 1 macrocell j, 2 macrocell j + 1); 8200 + 16 × m + CHAIN_IN 0, POL 1, XSEL 2, T 3,
block clock 4, enable 5 and 6 (0 constant, 1 CE, 2 own term), SR_EN 7, INIT 8, output select 9 (set: D); 8500 + BCLK0 0 to 3 and inverted 4, BCLK1 5 to
8 and 9, asynchronous SET 10, RESET 11, memory mode 12, CE on the write 13; 9000 + 16 × w + b bit b of memory-mode word w. -/

/-- A P-block's configuration, item by item. -/
abbrev PCfg := Nat → Bool

def Mach.pcfg (m : Mach) (d r p : Nat) : PCfg := m.cfgBit d r 0 (2 * p) 2

def pNum (c : PCfg) (item : Nat) : Nat → Nat
  | 0 => 0
  | w + 1 => b2n (c item) + 2 * pNum c (item + 1) w

def mcItem (m b : Nat) : Nat := 8200 + 16 * m + b

/-- A product term: the AND of its selected literals; with none, 1 (R246). -/
def termVal (c : PCfg) (ins t : Nat) : Bool :=
  (upFrom 0 76).all (fun l => !c (76 * t + l) || (bitOf (l / 2) ins == (l % 2 == 0)))

/-- What macrocell m's own and pool terms give its sum (R247); a term of XSEL or of the enable has left it (R248, R249). -/
def ownSum (c : PCfg) (ins m : Nat) : Bool :=
  (upFrom 0 4).any (fun j => c (8000 + 4 * m + j) && !(j == 0 && c (mcItem m 2)) && !(j == 3 && pNum c (mcItem m 5) 2 == 2) && termVal c ins (4 * m + j)) ||
  (upFrom (64 + 2 * m) 2).any (fun t => pNum c (8100 + 2 * (t - 64)) 2 == 1 && termVal c ins t) ||
  (upFrom (64 + 2 * ((m + 15) % 16)) 2).any (fun t => pNum c (8100 + 2 * (t - 64)) 2 == 2 && termVal c ins t)

/-- D of macrocells m, m + 1, …: the sum, with the chain output of the macrocell before where CHAIN_IN is set, then the XOR gate. -/
def dOuts (c : PCfg) (ins : Nat) : Nat → Nat → Bool → List Bool
  | _, 0, _ => []
  | m, n + 1, chain =>
    let s := ownSum c ins m || (c (mcItem m 0) && decide (0 < m) && chain)
    let x := if c (mcItem m 2) then termVal c ins (4 * m) else c (mcItem m 1)
    (s != x) :: dOuts c ins (m + 1) n s

/-- Bits as a number, the first least significant. -/
def natOfBits : List Bool → Nat
  | [] => 0
  | b :: l => b2n b + 2 * natOfBits l

def pKey (d r p : Nat) : Nat := 1024 * rgn d r + p

/-- INIT of the 16 flip-flops; 0 while no LOGIC frame has arrived (13 R315). -/
def Mach.ffInit (m : Mach) (d r p : Nat) : Nat := natOfBits ((upFrom 0 16).map (fun i => m.pcfg d r p (mcItem i 8)))
def Mach.ff (m : Mach) (d r p : Nat) : Nat := SMap.get (m.ffInit d r p) (pKey d r p) m.fab.ffs
def Mach.setFf (m : Mach) (d r p v : Nat) : Mach := { m with fab := { m.fab with ffs := SMap.put (m.ffInit d r p) (pKey d r p) v m.fab.ffs } }

/-- A word of a memory-mode P-block (R251). -/
def Mach.memInit (m : Mach) (d r p w : Nat) : Nat := pNum (m.pcfg d r p) (9000 + 16 * w) 16
def Mach.pmem (m : Mach) (d r p w : Nat) : Nat := SMap.get (m.memInit d r p w) (64 * pKey d r p + w) m.fab.mems
def Mach.setPmem (m : Mach) (d r p w v : Nat) : Mach :=
  { m with fab := { m.fab with mems := SMap.put (m.memInit d r p w) (64 * pKey d r p + w) v m.fab.mems } }

/-- Where the memory-mode signals stand among the inputs: WA, WD, WE, RA, RB in the order of R251 (log 12). -/
def miWa (ins : Nat) : Nat := ins % 64
def miWd (ins : Nat) : Nat := ins / 64 % 65536
def miWe (ins : Nat) : Bool := bitOf 22 ins
def miRa (ins : Nat) : Nat := ins / 2 ^ 23 % 64
def miRb (ins : Nat) : Nat := ins / 2 ^ 29 % 64

/-- D of the 16 macrocells: in memory mode the word at RA. -/
def Mach.pD (m : Mach) (d r p ins : Nat) : List Bool :=
  let c := m.pcfg d r p
  if c 8512 then (upFrom 0 16).map (fun i => bitOf i (m.pmem d r p (miRa ins))) else dOuts c ins 0 16 false

/-- The direct outputs: D, or in memory mode the word at RB (R251). -/
def Mach.pDirect (m : Mach) (d r p ins : Nat) : List Bool :=
  if m.pcfg d r p 8512 then (upFrom 0 16).map (fun i => bitOf i (m.pmem d r p (miRb ins))) else m.pD d r p ins

/-- The 32 outputs (R250): macrocell output i, which is Q or D by its select, then direct output i at 16 + i. -/
def Mach.pOuts (m : Mach) (d r p ins : Nat) : List Bool :=
  let c := m.pcfg d r p
  let ds := m.pD d r p ins
  (upFrom 0 16).map (fun i => if c (mcItem i 9) then nth false ds i else bitOf i (m.ff d r p)) ++ m.pDirect d r p ins

/-- Whether an edge of regional clock k is a rising edge of block clock i (R249). -/
def bclkHit (c : PCfg) (k : Nat) (rising : Bool) (i : Nat) : Bool :=
  let base := if i = 0 then 8500 else 8505
  pNum c base 4 == k && (c (base + 4) != rising)

/-- A macrocell's next Q (R249): asynchronous inputs override the edge, RESET wins, then the synchronous inputs, then D or T if enabled. In
memory mode no term enables it (R251). -/
def nextQ (c : PCfg) (x : PIn) (m : Nat) (q dm : Bool) : Bool :=
  let sr := c (mcItem m 7)
  let en := match pNum c (mcItem m 5) 2 with
    | 0 => true
    | 1 => x.ce
    | _ => !c 8512 && termVal c x.ins (4 * m + 3)
  if sr && c 8511 && x.reset then false
  else if sr && c 8510 && x.set then true
  else if sr && x.reset then false
  else if sr && x.set then true
  else if en then (if c (mcItem m 3) then (q != dm) else dm) else q

/-- The edge at one P-block. -/
def Mach.pEdge (m : Mach) (d r k : Nat) (rising : Bool) (x : PIn) : Mach :=
  if rgnBlocks r ≤ x.p then m
  else
    let c := m.pcfg d r x.p
    let q := m.ff d r x.p
    let ds := m.pD d r x.p x.ins
    let hit (i : Nat) : Bool := bclkHit c k rising (b2n (c (mcItem i 4)))
    let q' := natOfBits ((upFrom 0 16).map (fun i => if hit i then nextQ c x i (bitOf i q) (nth false ds i) else bitOf i q))
    let m1 := if c 8512 && bclkHit c k rising 0 && miWe x.ins && (!c 8513 || x.ce) then m.setPmem d r x.p (miWa x.ins) (miWd x.ins) else m
    m1.setFf d r x.p q'

/-! Fabric RAM (R252, R253). Items of ROUTING, 16 × block: shape 0 and 1, OUT_REG 2 (A) and 3 (B), WRITE_MODE 4 and 5 (A) and 6 and 7 (B): 0
READ_FIRST, 1 WRITE_FIRST, 2 NO_CHANGE, clock 8 to 11 (A) and 12 to 15 (B). -/

def ramKey (d r b : Nat) : Nat := 64 * rgn d r + b
def Mach.ramCfg (m : Mach) (d r b i w : Nat) : Nat := m.cfgNum d r 1 0 (rgnBlocks r) (16 * b + i) w

/-- A 9-bit byte of a block, configured by its nine RAM frames. -/
def Mach.ramInit (m : Mach) (d r b i : Nat) : Nat := m.cfgNum d r 2 (9 * b) 9 (9 * i) 9
def Mach.ramByte (m : Mach) (d r b i : Nat) : Nat := SMap.get (m.ramInit d r b i) (4096 * ramKey d r b + i) m.fab.rams
def Mach.setRamByte (m : Mach) (d r b i v : Nat) : Mach :=
  { m with fab := { m.fab with rams := SMap.put (m.ramInit d r b i) (4096 * ramKey d r b + i) (v % 512) m.fab.rams } }

/-- 9-bit bytes of a word (Table 11-2). -/
def ramBytes (shape : Nat) : Nat := 2 ^ shape

/-- A word, and the word as it stands after a write under byte enables. -/
def Mach.ramWord (m : Mach) (d r b nb w : Nat) : Nat :=
  (upFrom 0 nb).foldr (fun i acc => m.ramByte d r b (w * nb + i) + 512 * acc) 0

def Mach.ramPut (m : Mach) (d r b nb w data we : Nat) : Mach :=
  (upFrom 0 nb).foldl (fun m i => if bitOf i we then m.setRamByte d r b (w * nb + i) (data / 512 ^ i) else m) m

def Mach.ramOut (m : Mach) (k v : Nat) : Mach := { m with fab := { m.fab with outs := SMap.put 0 k v m.fab.outs } }

/-- The word of an access: an address of more bits than the shape has is cut. -/
def accWord (a : RamIn) (shape : Nat) : Nat := a.addr % (4096 / ramBytes shape)

/-- Whether an access writes: in shape 3 port B only reads. -/
def ramWrites (a : RamIn) (shape : Nat) : Bool := a.we != 0 && !(shape == 3 && a.portB)

/-- What the other port writes to the same word at the same edge of the same clock. -/
def rival (accs : List RamIn) (a : RamIn) (shape : Nat) : Option RamIn :=
  accs.find? (fun y => y.block == a.block && y.portB != a.portB && accWord y shape == accWord a shape && ramWrites y shape)

/-- The read of a port: its output takes the old or the new word or stays (R252); near another clock's write what it takes is undefined
(R253). -/
def Mach.ramRead (m : Mach) (d r : Nat) (a : RamIn) (shape : Nat) (old : Nat) : Mach :=
  let nb := ramBytes shape
  let key := 4 * ramKey d r a.block + 2 * b2n a.portB
  let mode := m.ramCfg d r a.block (if a.portB then 6 else 4) 2
  if (shape = 3 ∧ !a.portB) ∨ (ramWrites a shape ∧ mode = 2) then m
  else if a.near = 1 then (let f := m.fresh (9 * nb); f.2.ramOut key f.1)
  else if ramWrites a shape ∧ mode = 1 then
    m.ramOut key ((upFrom 0 nb).foldr (fun i acc => (if bitOf i a.we then a.data / 512 ^ i % 512 else old / 512 ^ i % 512) + 512 * acc) 0)
  else m.ramOut key old

/-- A port cycle moves the word of a port's output on into its output register (R252: data after two port cycles with OUT_REG). -/
def Mach.ramShift (m : Mach) (d r k : Nat) : Mach :=
  (upFrom 0 (2 * rgnRams r)).foldl (fun m j =>
    let key := 4 * ramKey d r (j / 2) + 2 * (j % 2)
    if m.ramCfg d r (j / 2) (8 + 4 * (j % 2)) 4 == k then m.ramOut (key + 1) (SMap.get 0 key m.fab.outs) else m) m

/-- What a port presents: its output, or its output register where OUT_REG is set. -/
def Mach.ramPort (m : Mach) (d r b port : Nat) : Nat :=
  SMap.get 0 (4 * ramKey d r b + 2 * port + m.ramCfg d r b (2 + port) 1) m.fab.outs

/-- The write of a port; on the same clock A's enabled bytes win and the collision is counted, near another clock's write the word is left
undefined, near another clock's read that read's data is. -/
def Mach.ramWrite (m : Mach) (d r : Nat) (accs : List RamIn) (a : RamIn) (shape : Nat) : Mach :=
  let nb := ramBytes shape
  let w := accWord a shape
  if !ramWrites a shape then m
  else if a.near = 1 then
    (upFrom 0 nb).foldl (fun m i => let f := m.fresh 9; f.2.setRamByte d r a.block (w * nb + i) f.1) m
  else
    let we := match rival accs a shape with
      | some y => if a.portB then a.we - (a.we &&& y.we) else a.we
      | none => a.we
    let m1 := m.ramPut d r a.block nb w a.data we
    let m2 := if (rival accs a shape).isSome ∧ !a.portB then m1.cnt F.frRamCollide (rgnIx d r) 1 else m1
    if a.near = 2 then
      let f := m2.fresh (9 * nb)
      f.2.ramOut (4 * ramKey d r a.block + 2 * b2n (!a.portB)) f.1
    else m2

/-- The accesses of one edge: every read sees the words as they were, then the writes land. -/
def Mach.ramEdge (m : Mach) (d r k : Nat) (accs : List RamIn) : Mach :=
  let here := accs.filter (fun a => decide (a.block < rgnRams r) && m.ramCfg d r a.block (if a.portB then 12 else 8) 4 == k)
  let m0 := m.ramShift d r k
  let m1 := here.foldl (fun m1 a =>
    let shape := m.ramCfg d r a.block 0 2
    m1.ramRead d r a shape (m.ramWord d r a.block (ramBytes shape) (accWord a shape))) m0
  here.foldl (fun m1 a => m1.ramWrite d r here a (m.ramCfg d r a.block 0 2)) m1

/-! Routing (R250, R254, R260). Items of ROUTING frame p: 1000 + 32 × i where input i of P-block p comes from: kind 0 to 2 (0 from outside:
an FNI, a slice, a gearbox, or what the edge names; 1 a P-block of the region, 2 a fabric RAM port, 3 a pin, 4 another region) and source
3 to 17 (P-block × 32 + output; RAM block × 512 + port × 256 + bit; pin (24 × bank + pin) × 2 + phase; region × 1024 + signal). Items of
REGION: 30000 + 2 × n what the closed fence of outbound signal n drives: 0 holds, 1 zero, 2 one. -/

/-- What a signal of another region reads as: its level, or what its closed fence drives. The level a fence holds is the one the edge
names. -/
def Mach.fenceOut (m : Mach) (d r n : Nat) (level : Bool) : Bool :=
  let old (x : Nat) : Nat := m.frame (2 ^ 32 + frameAddr d r 4 (Config.cfgPlace 4 x / 4096 % 4)) / 2 ^ (Config.cfgPlace 4 x % 4096) % 2
  if !m.on F.frStatusFenced (rgnIx d r) then level
  else match old (30000 + 2 * n) + 2 * old (30001 + 2 * n) with
    | 1 => false
    | 2 => true
    | _ => level

/-- The REGION frames are kept as the fences close. -/
def Mach.keepFences (m : Mach) (d r : Nat) : Mach :=
  { m with fab := { m.fab with
      frames := (upFrom 0 4).foldl (fun x i => SMap.put 0 (2 ^ 32 + frameAddr d r 4 i) (m.frame (frameAddr d r 4 i)) x) m.fab.frames } }

def Mach.ioPin (m : Mach) (i : Nat) : IoPin := SMap.get IoPin.init i m.fab.pins
def Mach.setIoPin (m : Mach) (i : Nat) (x : IoPin) : Mach := { m with fab := { m.fab with pins := SMap.put IoPin.init i x m.fab.pins } }

/-- The inputs of a P-block that the outside drives. -/
def extIns (blocks : List PIn) (p : Nat) : Nat :=
  match blocks.find? (fun x => x.p == p) with
  | some x => x.ins
  | none => 0

/-- The 38 inputs of a P-block, over combinational paths of at most so many P-blocks. Only the die's own banks reach it (01 R13). -/
def Mach.insAt (m : Mach) (d r : Nat) (blocks : List PIn) : Nat → Nat → Nat
  | 0, p => extIns blocks p
  | n + 1, p => natOfBits ((upFrom 0 38).map (fun i =>
      let ext := bitOf i (extIns blocks p)
      let s := m.cfgNum d r 1 p 1 (1003 + 32 * i) 15
      match m.cfgNum d r 1 p 1 (1000 + 32 * i) 3 with
      | 1 => nth false (m.pOuts d r (s / 32) (m.insAt d r blocks n (s / 32))) (s % 32)
      | 2 => bitOf (s % 256) (m.ramPort d r (s / 512) (s / 256 % 2))
      | 3 => (rgnBanks d r).contains (s / 48) && (if s % 2 = 0 then (m.ioPin (s / 2)).inRise else (m.ioPin (s / 2)).inFall)
      | 4 => m.fenceOut d (s / 1024) (s % 1024) ext
      | _ => ext))

/-- No combinational path that is no loop passes more than the region's 11,264 macrocells. -/
def Mach.insOf (m : Mach) (d r : Nat) (blocks : List PIn) (p : Nat) : Nat := m.insAt d r blocks 11264 p

/-- Output o of P-block p as 32 × p + o. -/
def Mach.outAt (m : Mach) (d r : Nat) (blocks : List PIn) (s : Nat) : Bool :=
  nth false (m.pOuts d r (s / 32) (m.insOf d r blocks (s / 32))) (s % 32)

/-! Pins (R270, R271). Items of REGION, 40000 + 128 × (24 × bank + pin) and on: direction 0 and 1 (0 input, 1 output, 2 bidirectional),
differential 2, drive 3 and 4 (4, 8 or 12 mA), pull 5 and 6 (none, up, down, keeper), hysteresis 7, DDR of the input register 8, the output
register 9 and the output-enable register 10, their clocks 12, 16 and 20 (4 bits each), the P-block outputs (15 bits each) that the output
register takes at a rising edge 24 and at a falling edge 40, and that the output-enable register takes 56, termination 71. -/

inductive PinDir | input | output | bidir
  deriving DecidableEq, Repr

/-- A pin's configuration. -/
structure PinCfg where
  dir : PinDir
  diff : Bool
  milliamps : Nat
  pull : PinPull
  hyst : Bool
  term : Bool
  inDdr : Bool
  outDdr : Bool
  oeDdr : Bool
  inClk : Nat
  outClk : Nat
  oeClk : Nat
  outRise : Nat
  outFall : Nat
  oeSrc : Nat
  deriving DecidableEq, Repr

def Mach.pinCfg (m : Mach) (d r i : Nat) : PinCfg :=
  let n (a w : Nat) : Nat := m.cfgNum d r 4 0 4 (40000 + 128 * i + a) w
  let on (a : Nat) : Bool := n a 1 == 1
  { dir := match n 0 2 with
      | 1 => .output
      | 2 => .bidir
      | _ => .input
    diff := on 2, milliamps := min 12 (4 + 4 * n 3 2)
    pull := match n 5 2 with
      | 0 => .none
      | 1 => .up
      | 2 => .down
      | _ => .keeper
    hyst := on 7, term := on 71, inDdr := on 8, outDdr := on 9, oeDdr := on 10, inClk := n 12 4, outClk := n 16 4, oeClk := n 20 4
    outRise := n 24 15, outFall := n 40 15, oeSrc := n 56 15 }

def pinIx (i : Nat) : Nat := ix (bankDie (i / 24)) (i / 24) (i % 24) 0

/-- A pin's registers after an edge of regional clock k: those on that clock take the pad's level and what the P-blocks drive, at a rising
edge, and at a falling one where they are DDR; a slew that was written applies from here. -/
def IoPin.edge (x : IoPin) (c : PinCfg) (k : Nat) (rising pad : Bool) (drive : Nat → Bool) (slew : Nat) : IoPin :=
  let hits (clk : Nat) (ddr : Bool) : Bool := clk == k && (rising || ddr)
  let moves := hits c.outClk c.outDdr
  { out := if moves then drive (if rising then c.outRise else c.outFall) else x.out
    oe := if hits c.oeClk c.oeDdr then drive c.oeSrc else x.oe
    inRise := if c.inClk == k && rising then pad else x.inRise
    inFall := if c.inClk == k && !rising && c.inDdr then pad else x.inFall
    slew := if moves then slew else x.slew }

/-- The edge at the pins of the region's banks: the P-blocks' outputs as they stood before it. -/
def Mach.pinEdge (m : Mach) (before : Mach) (d r k : Nat) (rising : Bool) (blocks : List PIn) (pads : List Nat) : Mach :=
  ((rgnBanks d r).flatMap (fun b => upFrom (24 * b) 24)).foldl (fun m i =>
    m.setIoPin i ((m.ioPin i).edge (before.pinCfg d r i) k rising (pads.contains i) (before.outAt d r blocks) (m.rd F.ioPinSlew (pinIx i)))) m

/-! Clocks (R256 to R259). Items of REGION: 400 + 16 × g the macrocell that GENg is, as 16 × P-block + macrocell (14 bits). -/

def Mach.rgnStep (m : Mach) (d r : Nat) : Nat := SMap.get 0 (rgn d r) m.fab.step
def Mach.setRgnStep (m : Mach) (d r n : Nat) : Mach := { m with fab := { m.fab with step := SMap.put 0 (rgn d r) n m.fab.step } }

def Mach.clkLow (m : Mach) (d r k : Nat) : Bool := SMap.get 0 (16 * rgn d r + k) m.fab.low == 1
def Mach.setClkLow (m : Mach) (d r k : Nat) (v : Bool) : Mach := { m with fab := { m.fab with low := SMap.put 0 (16 * rgn d r + k) (b2n v) m.fab.low } }
def Mach.clkDiv (m : Mach) (d r k : Nat) : Nat := SMap.get 0 (16 * rgn d r + k) m.fab.divs
def Mach.setClkDiv (m : Mach) (d r k v : Nat) : Mach := { m with fab := { m.fab with divs := SMap.put 0 (16 * rgn d r + k) v m.fab.divs } }

/-- The source of a multiplexer's input (R256). -/
def Mach.clkSrc (m : Mach) (d r k j : Nat) : Nat :=
  m.rd (match j with
    | 0 => F.frClkSrc0
    | 1 => F.frClkSrc1
    | 2 => F.frClkSrc2
    | _ => F.frClkSrc3) (rgnClk d r k)

/-- Whether a source has edges (Table 11-5): the fabric PLL while it is locked, a quad's word clock while the quad has an enabled RAW lane
(14 R341), a GEN source, REFCLK_M; constant low and the reserved codes have none. -/
def Mach.srcRuns (m : Mach) (d code : Nat) : Bool :=
  if code < 4 then bitOf 5 (m.rd F.clkStatusLocked d)
  else if code < 0x10 then (upFrom (4 * (code - 4)) 4).any (fun i => m.on F.lnCtrlEnable (ix d i 0 0) && m.rd F.lnCfgMode (ix d i 0 0) == 1)
  else decide (code < 0x14) || (code == 0x14 && !m.pow.refLost)

/-- A GEN source's level. -/
def Mach.genLevel (m : Mach) (d r g : Nat) (blocks : List PIn) : Bool :=
  let s := m.cfgNum d r 4 0 4 (400 + 16 * g) 14
  m.outAt d r blocks (32 * (s / 16) + s % 16)

/-- Whether regional clock k has this edge: its region has left hold (13 R315), it is not gated, its multiplexer's output does not stay low,
and the input it passes runs; a GEN source's rising edge finds its macrocell output high, a falling one low. A divided clock moves at the
input's rising edges. -/
def Mach.clkPasses (m : Mach) (d r k : Nat) (rising : Bool) (blocks : List PIn) : Bool :=
  let src := m.clkSrc d r k (m.rd F.frClkselActive (rgnClk d r k))
  decide (2 ≤ m.rgnStep d r) && !bitOf k (m.rd F.frClkgatedGated (rgnIx d r)) && !m.clkLow d r k && m.srcRuns d src &&
    (!(decide (0x10 ≤ src) && decide (src < 0x14)) || m.genLevel d r (src - 0x10) blocks == (rising || decide (0 < m.clkDiv d r k)))

/-- After an edge: the divider takes DIV at a rising edge (R258); in a switch the input's next falling edge stops the output (R257). -/
def Mach.clkAfter (m : Mach) (d r k : Nat) (rising : Bool) : Mach :=
  let stops := m.on F.frClkselSwitching (rgnClk d r k) && (!rising || decide (0 < m.clkDiv d r k))
  let m1 := if rising then m.setClkDiv d r k (m.rd F.frClkselDiv (rgnClk d r k)) else m
  if stops then m1.setClkLow d r k true else m1

/-- REGIONAL_CLOCK_EDGE: a clock that has no such edge changes nothing. -/
def opRegionalClockEdge (d r k : Nat) (rising : Bool) (blocks : List PIn) (rams : List RamIn) (pads : List Nat) (m : Mach) : Mach :=
  if !m.clkPasses d r k rising blocks then m
  else
    let m1 := if rising then m.ramEdge d r k rams else m
    let m2 := blocks.foldl (fun m1 x => m1.pEdge d r k rising { x with ins := m.insOf d r blocks x.p }) m1
    (m2.pinEdge m d r k rising blocks pads).clkAfter d r k rising

/-- ASYNCHRONOUS_SET_RESET (R249). -/
def opAsynchronousSetReset (d r p : Nat) (set reset : Bool) (m : Mach) : Mach :=
  if m.rgnStep d r < 2 ∨ rgnBlocks r ≤ p then m
  else
    let c := m.pcfg d r p
    let q := m.ff d r p
    m.setFf d r p (natOfBits ((upFrom 0 16).map (fun i =>
      if c (mcItem i 7) && c 8511 && reset then false else if c (mcItem i 7) && c 8510 && set then true else bitOf i q)))

/-- CLOCK_SWITCH (R257): to SEL, or to the input the region's signals name. The input it leaves must fall, or have been abandoned; then the
output stays low until the target has run for the edges the switch needs, and follows it. -/
def opClockSwitch (d r k sig : Nat) (runs : Bool) (m : Mach) : Mach :=
  let p := rgnClk d r k
  let b := if m.on F.frClkselSelFabric p then sig else m.rd F.frClkselSel p
  if b = m.rd F.frClkselActive p ∧ !m.on F.frClkselSwitching p then m
  else
    let m1 := m.wr F.frClkselSwitching p 1
    if !m.clkLow d r k ∧ !m.srcRuns d (m.clkSrc d r k (m.rd F.frClkselActive p)) then m1
    else if runs ∧ m.srcRuns d (m.clkSrc d r k b) then ((m1.wr F.frClkselActive p b).wr F.frClkselSwitching p 0).setClkLow d r k false
    else m1.setClkLow d r k true

/-- DEAD_SRC (R257): a switch abandons the input it leaves, before that has fallen; its output stays low for the target. -/
def opDeadSrc (d r k : Nat) (m : Mach) : Mach :=
  let p := rgnClk d r k
  if m.on F.frClkselSwitching p && !m.clkLow d r k && (m.on F.frClkselSelFabric p || m.srcRuns d (m.clkSrc d r k (m.rd F.frClkselSel p))) then
    (m.ev F.frEventsDeadSrc (rgnIx d r)).setClkLow d r k true
  else m

/-- Who may write the fabric block of a die (R272): HEALTH, the die's steward, the test port and the die's own FNIs. -/
def fabricWho (d who : Nat) : Bool :=
  who == idHealth || who == idSteward d || who == idTest || (decide (idFni d 0 ≤ who) && decide (who < idFni d 32))

/-- CLOCK_DIVIDER_WRITE: DIV is written; the divider takes it at its output's next rising edge. -/
def opClockDividerWrite (d r k who div : Nat) (m : Mach) : Mach := m.permit (fabricWho d who) who (fun m => m.wr F.frClkselDiv (rgnClk d r k) div)

/-- CLOCK_MONITOR_WINDOW. -/
def opClockMonitorWindow (d r k edges : Nat) (m : Mach) : Mach :=
  let p := rgnIx d r
  let m1 := m.wr F.frClkmonEdges (rgnClk d r k) (min 0xFFFF edges)
  if edges ≤ 8396 then m1
  else
    ((m1.wr F.frClkgateEn p (clearBit k (m.rd F.frClkgateEn p))).wr F.frClkgatedGated p (setBit k (m.rd F.frClkgatedGated p))).ev F.frEventsFreqHigh p

/-- The gates follow EN; in the hold state they stay off (R259, 13 R315). -/
def Mach.clkGate (m : Mach) (d r en : Nat) : Mach :=
  let m1 := m.wr F.frClkgateEn (rgnIx d r) en
  if m.rgnStep d r = 0 then m1 else m1.wr F.frClkgatedGated (rgnIx d r) (0xFFFF - en)

def opFrClkgateWrite (d r who en : Nat) (m : Mach) : Mach := m.permit (fabricWho d who) who (fun m => m.clkGate d r en)

/-! FNIs (R261 to R265) -/

/-- The requests of an FNI that are outstanding, the held ones among them. -/
def Fni.outstanding (x : Fni) : Nat := x.tags.length

/-- FNI_REQUEST: not accepted while a condition of R262 fails; answered locally with MALFORMED; else injected, or held while its NI does
not inject. -/
def opFniRequest (d f : Nat) (q : FniReq) (m : Mach) : Mach :=
  let k := 32 * d + f
  let x := m.fni k
  let quiet := q.kind == 6 || (q.kind == 1 && q.noAck)
  if !m.on F.fniCtrlEn (fniIx k) || m.on F.fniStatusFenced (fniIx k) || decide (16 ≤ x.reqs.length) || decide (256 ≤ x.outstanding) ||
     x.tags.any (fun t => t.1 == q.tag) then m
  else if q.kind = 7 ∨ q.len = 0 ∨ 256 < q.len ∨ 256 < q.addr % 256 + q.len ∨ (q.kind = 6 ∧ (q.len ≠ 64 ∨ q.data.length ≠ 64)) then
    (m.ev F.fniEventsMalformed (fniIx k)).send (.fniResp d f q.tag rsMalformed [] 0)
  else
    let m1 := if quiet then m else m.setFni k { x with tags := x.tags ++ [(q.tag, none)] }
    (m1.setFni k { (m1.fni k) with reqs := x.reqs ++ [q] }).fniDrain k (x.reqs ++ [q])

/-- An answer to a target access: a response packet, or to a requester that is not in the network's queues at once. -/
def Mach.targetAnswer (m : Mach) (k : Nat) (who : Nat) (write : Bool) (pkt : Option Packet) (status : Nat) (data : List Byte) : Mach :=
  let die := k / 32
  let port := 46 + k % 32 / 4
  match pkt with
  | none => m.send (.resp who status data 0)
  | some p => m.niSend die port (rspTo p (niKey die port) (if status = rsOk then (if write then 0x24 else 0x23) else 0x2F) status 0 data)

/-- FNI_TARGET_ACCESS (R263). -/
def Mach.fniTarget (m : Mach) (k who kind word data : Nat) (pkt : Option Packet) : Mach :=
  let write := kind == 0x05
  if kind ≠ 0x04 ∧ kind ≠ 0x05 then m.targetAnswer k who write pkt rsMalformed []
  else if !m.on F.fniCtrlAcceptTarget (fniIx k) || m.on F.fniStatusFenced (fniIx k) then m.targetAnswer k who write pkt rsRefused []
  else
    let x := m.fni k
    (m.setFni k { x with targets := x.targets ++ [(who, write, pkt)] }).send (.fniTarget (k / 32) (k % 32) write word data who)

/-- FNI_TARGET_REPLY: replies come in the order of the accesses. -/
def opFniTargetReply (d f : Nat) (data : Nat) (refuse : Bool) (m : Mach) : Mach :=
  let k := 32 * d + f
  let x := m.fni k
  match x.targets with
  | [] => m
  | (who, write, pkt) :: l =>
    (m.setFni k { x with targets := l }).targetAnswer k who write pkt (if refuse then rsRefused else rsOk)
      (if refuse || write then [] else leBytes 4 data)

/-- A message at an FNI's sink (R264, R265). -/
def Mach.sinkArrive (m : Mach) (k src : Nat) (words : List Nat) : Mach :=
  let x := m.fni k
  if m.on F.fniStatusFenced (fniIx k) then (m.cnt F.fniDiscarded (fniIx k) 1).ev F.fniEventsDiscarded (fniIx k)
  else if x.sink.length < 16 then m.setFni k { x with sink := x.sink ++ [(src, words)] }
  else (m.setFni k { x with sink := x.sink.dropLast ++ [(src, words)] }).ev F.fniEventsSinkCollide (fniIx k)

/-- FNI_MESSAGE_ARRIVE: the oldest message on its way to the sink arrives. -/
def opFniMessageArrive (d f : Nat) (m : Mach) : Mach :=
  match findIdx (fun x => x.dest == 0x8000 + 32 * d + f) m.fw.mails with
  | none => m
  | some i =>
    match m.fw.mails[i]? with
    | none => m
    | some x => ({ m with fw := { m.fw with mails := dropNth m.fw.mails i } } : Mach).sinkArrive (32 * d + f) x.src x.words

/-- MESSAGE_SINK_TRANSFER. -/
def opMessageSinkTransfer (d f : Nat) (m : Mach) : Mach :=
  let k := 32 * d + f
  let x := m.fni k
  match x.sink with
  | [] => m
  | (src, words) :: l =>
    if !m.on F.fniCtrlEn (fniIx k) || m.on F.fniStatusFenced (fniIx k) then m
    else (m.setFni k { x with sink := l }).send (.fniMessage d f words src)

/-- An FNI is fenced (R265): messages held are discarded and counted, and accesses its user logic has not answered are not answered. -/
def Mach.fenceFni (m : Mach) (k : Nat) : Mach :=
  let x := m.fni k
  let n := x.sink.length
  let m1 := (m.setFni k { x with sink := [], targets := [] }).wr F.fniStatusFenced (fniIx k) 1
  if n = 0 then m1 else (m1.cnt F.fniDiscarded (fniIx k) n).ev F.fniEventsDiscarded (fniIx k)

/-! The row-push window (R267) -/

/-- How a packet to the window of a tile is answered, and the machine after. -/
def Mach.rowWindow (m : Mach) (t kind off : Nat) (data : List Byte) (en : List Bool) : Nat × Mach :=
  let wd := match (m.tile t).pushTarget with
    | some (q, _) => ((fmtOfCode (tcFmtA q.w)).map Fmt.width).getD 0
    | none => 0
  let on (a n : Nat) : Bool := (upFrom a n).all (fun i => nth false en i)
  if !m.isRaw (t / 16) then (rsRefused, m)
  else if kind ≠ 0x10 then (rsMalformed, m)
  else if data.length ≠ 128 ∨ off % 128 ≠ 0 ∨ !on 0 (6 * wd) ∨ !on 96 3 then (rsMalformed, m)
  else
    let r := pushRow ⟨t, off / 128, allLanes, ⟨unpack wd (leNat data) 48, (data.drop 96 |>.take 3).map (fun b => b.toNat)⟩⟩ m
    (if r.1 then rsOk else rsRefused, r.2)

def opRowPushWindow (t who kind off : Nat) (data : List Byte) (en : List Bool) (m : Mach) : Mach :=
  let r := m.rowWindow t kind off data en
  r.2.respond who r.1

/-! Fabric I/O (R269 to R271, 19 R437, R443) -/

/-- Pins of a bank enter the configuration hold state: HOLD_PU is read, and their registers hold. -/
def Mach.holdBank (m : Mach) (b : Nat) : Mach :=
  let m1 := (upFrom (24 * b) 24).foldl (fun m i => m.setIoPin i IoPin.init) (m.wr F.ioBankStatusReleased (ioIx b) 0)
  { m1 with fab := { m1.fab with pulls := if m.fab.holdPu then setBit b m.fab.pulls else clearBit b m.fab.pulls } }

/-- VIO_LOSS (19 R443): a bank that is not released only senses its supply (11 R269). -/
def opVioLoss (b sensed : Nat) (m : Mach) : Mach :=
  let p := ioIx b
  if !m.on F.ioBankStatusReleased p ∨ sensed = m.rd F.ioBankStatusVioDecl p then m.wr F.ioBankStatusVio p sensed
  else ((m.holdBank b).wr F.ioBankStatusVio p sensed).ev F.ioEventsVioMismatch p

/-- IO_PIN_SLEW_WRITE: a bank of another die does not answer (R272). -/
def opIoPinSlewWrite (d b i who slew : Nat) (m : Mach) : Mach :=
  if bankDie b ≠ d then m.respond who rsDecode
  else m.permit (fabricWho d who) who (fun m => m.wr F.ioPinSlew (ix d b i 0) slew)

/-- HOLD_PU_CHANGE. -/
def opHoldPuChange (level : Bool) (m : Mach) : Mach :=
  let held := (upFrom 0 8).filter (fun b => !m.on F.ioBankStatusReleased (ioIx b))
  { m with fab := { m.fab with holdPu := level, pulls := held.foldl (fun a b => if level then setBit b a else clearBit b a) m.fab.pulls } }

/-! The meanings -/

def execRegionalClockEdge (d : DieNo) (r : Fin 24) (k : Fin 16) (rising : Bool) (bs : List PIn) (x : EdgeIn) (s : State) :=
  s.on .uncore (opRegionalClockEdge d.val r.val k.val rising bs x.rams (x.pads.map Fin.val))
def execAsynchronousSetReset (d : DieNo) (r : Fin 24) (p : Fin 704) (set reset : Bool) (s : State) :=
  s.on .uncore (opAsynchronousSetReset d.val r.val p.val set reset)
def execClockSwitch (d : DieNo) (r : Fin 24) (k : Fin 16) (sig : Fin 4) (runs : Bool) (s : State) := s.on .uncore (opClockSwitch d.val r.val k.val sig.val runs)
def execDeadSrc (d : DieNo) (r : Fin 24) (k : Fin 16) (s : State) := s.on .uncore (opDeadSrc d.val r.val k.val)
def execClockDividerWrite (d : DieNo) (r : Fin 24) (k : Fin 16) (who : Nat) (div : Fin 256) (s : State) :=
  s.on .uncore (opClockDividerWrite d.val r.val k.val who div.val)
def execClockMonitorWindow (d : DieNo) (r : Fin 24) (k : Fin 16) (e : Nat) (s : State) := s.on .uncore (opClockMonitorWindow d.val r.val k.val e)
def execFrClkgateWrite (d : DieNo) (r : Fin 24) (who : Nat) (en : Fin 65536) (s : State) := s.on .uncore (opFrClkgateWrite d.val r.val who en.val)
def execFniRequest (d : DieNo) (f : Fin 32) (kind : Fin 8) (addr len : Nat) (tag : Fin 256) (na : Bool) (data : List Byte) (en : List Bool) (s : State) :=
  s.on .uncore (opFniRequest d.val f.val ⟨kind.val, addr, len, tag.val, na, data, en⟩)
def execFniTargetAccess (d : DieNo) (f : Fin 32) (who kind : Nat) (w : Fin 1024) (data : Word) (s : State) :=
  s.on .uncore (fun m => m.fniTarget (32 * d.val + f.val) who kind w.val data.toNat none)
def execFniTargetReply (d : DieNo) (f : Fin 32) (data : Word) (refuse : Bool) (s : State) := s.on .uncore (opFniTargetReply d.val f.val data.toNat refuse)
def execFniMessageArrive (d : DieNo) (f : Fin 32) (s : State) := s.on .uncore (opFniMessageArrive d.val f.val)
def execRowPushWindow (t : TileNo) (who kind off : Nat) (data : List Byte) (en : List Bool) (s : State) :=
  s.on .uncore (opRowPushWindow t.val who kind off data en)
def execVioLoss (b : Fin 8) (sensed : Fin 4) (s : State) := s.on .uncore (opVioLoss b.val sensed.val)
def execIoPinSlewWrite (d : DieNo) (b : Fin 8) (i : Fin 24) (who : Nat) (slew : Fin 4) (s : State) :=
  s.on .uncore (opIoPinSlewWrite d.val b.val i.val who slew.val)
def execMessageSinkTransfer (d : DieNo) (f : Fin 32) (s : State) := s.on .uncore (opMessageSinkTransfer d.val f.val)
def execHoldPuChange (level : Bool) (s : State) := s.on .vigil (opHoldPuChange level)

end Sys2Proof.Machine
end

