-- ==== Sys2Proof/Machine/Slices.lean ====
section
/-! DEFINITION. Signal slices (chapter 12): bundles, their operations, results in flight, interrupts, the ingress ring, the egress queue
and the outbox. A slice is numbered k = 64 × d + s. -/

namespace Sys2Proof.Machine

def slK (d s : Nat) : Nat := 64 * d + s
def slIx (k : Nat) : Nat := ix (k / 64) (k % 64) 0 0
def slSub (k i : Nat) : Nat := ix (k / 64) (k % 64) i 0

def Mach.sl (m : Mach) (k : Nat) : Slice := SMap.get Slice.init k m.slices
def Mach.setSl (m : Mach) (k : Nat) (x : Slice) : Mach := { m with slices := SMap.put Slice.init k x m.slices }

/-- The fabric region of a slice (11 Table 11-1). -/
def slRegion (k : Nat) : Nat := if k % 64 < 48 then k % 64 / 3 else 16 + (k % 64 - 48) / 2
def Mach.slFenced (m : Mach) (k : Nat) : Bool := m.on F.frStatusFenced (rgnIx (k / 64) (slRegion k))

/-! Events and interrupts -/

/-- A source becomes pending (Table 12-3). -/
def Mach.slPend (m : Mach) (k j : Nat) : Mach := m.orIn F.slIrqPending (slIx k) (2 ^ j)

/-- An event bit sets; where SL_FLAG_IRQ names it and it was clear, source 7 becomes pending. -/
def Mach.slEv (m : Mach) (k : Nat) (f : Fld) : Mach :=
  let p := slIx k
  let m1 := m.ev f p
  if !m.on f p && bitOf f.lo (m.rd F.slFlagIrqMask p) then m1.slPend k 7 else m1

/-- SL_EVENTS as a word. -/
def Mach.slEvents (m : Mach) (k : Nat) : Nat :=
  [F.slEventsAov, F.slEventsNsat, F.slEventsIllegal, F.slEventsDmemParity, F.slEventsEgressDrop, F.slEventsIngFull, F.slEventsXferBusy].foldr
    (fun f acc => m.rd f (slIx k) + 2 * acc) 0

/-! Time (R278, R299) -/

/-- n cycles pass: SL_CYCLES counts while RUN is 1; SL_TIMER counts down, and its step from 1 to 0 sets PENDING 6. -/
def Mach.slPass (m : Mach) (k n : Nat) : Mach :=
  let p := slIx k
  let m1 := m.setSl k { (m.sl k) with now := (m.sl k).now + n }
  let m2 := if m1.on F.slCtrlRun p then m1.wrap F.slCycles p n else m1
  let t := m2.rd F.slTimer p
  if t = 0 then m2 else if t ≤ n then (m2.wr F.slTimer p 0).slPend k 6 else m2.wr F.slTimer p (t - n)

/-- The slice's next bundle issues no earlier than a cycle. -/
def Mach.slUntil (m : Mach) (k c : Nat) : Mach := m.slPass k (c - (m.sl k).now)

/-! Registers and arithmetic (R276, R277, R283 to R285) -/

/-- The physical register of Xx, as the issued bundle resolves it. -/
def SlIssued.phys (b : SlIssued) (x : Nat) : Nat := if b.shadow then 32 + x else (b.base + x) % 32

def Mach.slReg (m : Mach) (k : Nat) (b : SlIssued) (x : Nat) : Nat := SMap.get 0 (b.phys x) (m.sl k).g

def s40 (v : Nat) : Int := toSigned 40 v
def of40 (i : Int) : Nat := ofSigned 40 i

def lo40 : Int := -(2 : Int) ^ 39
def hi40 : Int := (2 : Int) ^ 39 - 1

/-- The S40 code of an integer, saturated, and whether it saturated. -/
def sat40 (i : Int) : Nat × Bool := (of40 (clampInt lo40 hi40 i), decide (i < lo40) || decide (hi40 < i))

/-- The real and imaginary parts of a complex sample. -/
def cre (v : Nat) : Int := toSigned 16 v
def cim (v : Nat) : Int := toSigned 16 (v / 65536)

/-- A 32-bit word in a register: bit 31 is copied into [39:32]. -/
def ext32 (w : Nat) : Nat := of40 (toSigned 32 w)

/-- A complex sample of two integers, each saturated to I16, and whether one saturated. -/
def cpx (re im : Int) : Nat × Bool :=
  let c (i : Int) : Int := clampInt (-32768) 32767 i
  (ext32 (ofSigned 16 (c re) + 65536 * ofSigned 16 (c im)), decide (c re ≠ re) || decide (c im ≠ im))

/-- A component of an accumulator after an addition, and whether it saturated (R283). -/
def sat48 (i : Int) : Int × Bool :=
  let r := clampInt (-(2 : Int) ^ 47) ((2 : Int) ^ 47 - 1) i
  (r, decide (r ≠ i))

/-- NORM (R284): truncated toward zero, saturated to I16. -/
def slNorm (acc : Int × Int) (sh : Nat) : Nat × Bool :=
  let q := (2 : Int) ^ min 47 sh
  cpx (acc.1.tdiv q) (acc.2.tdiv q)

/-- The least width that holds an integer as two's complement. -/
def twosWidth (v : Int) : Nat :=
  ((upFrom 1 48).find? (fun b => decide (-(2 : Int) ^ (b - 1) ≤ v) && decide (v < (2 : Int) ^ (b - 1)))).getD 48

/-- EXP (R285). -/
def slExp (acc : Int × Int) : Nat := max (twosWidth acc.1) (twosWidth acc.2) - 16

/-- An accumulator of the bank a bundle issues in. -/
def Mach.slAcc (m : Mach) (k : Nat) (shadow : Bool) (a : Nat) : Int × Int := SMap.get (0, 0) (4 * b2n shadow + a) (m.sl k).acc

/-! Data and program memory (R287, R288) -/

/-- A word of a slice's image: data memory stands in the frames from 32 up, program memory in frames 0 to 31 (13 R306). -/
def imgBits (img : List Nat) (base n item : Nat) : Nat → Nat
  | 0 => 0
  | w + 1 =>
    let x := Config.cfgPlace 3 item
    (match nth 0 img (base + x / 4096 % n) with
      | 0 => 0
      | v + 1 => b2n (bitOf (x % 4096) (v + 1))) + 2 * imgBits img base n (item + 1) w

/-- What a word holds while nothing has written it: its image, or what die reset has left there, which is undefined (R298). -/
def Slice.dmem0 (x : Slice) (k w : Nat) : Nat :=
  match x.image with
  | some img => imgBits img 32 128 (131072 + 32 * w) 32
  | none => freeAt 32 5 x.epoch (65536 * k + w)

def Slice.pmem0 (x : Slice) (k b : Nat) : Nat :=
  match x.image with
  | some img => imgBits img 0 32 (64 * b) 64
  | none => freeAt 64 6 x.epoch (65536 * k + b)

/-- A table read that tells an entry from its absence: the stored number is one more than the value. -/
def Slice.dword (x : Slice) (k w : Nat) : Nat :=
  match SMap.get 0 w x.dmem with
  | 0 => x.dmem0 k w
  | v + 1 => v

def Slice.pword (x : Slice) (k b : Nat) : Nat :=
  match SMap.get 0 b x.pmem with
  | 0 => x.pmem0 k b
  | v + 1 => v

/-- Whether the stored parity of a word is bad: 2 says it is, 1 that it is not; else it is good in an image and undefined after die reset. -/
def Slice.dIsBad (x : Slice) (k w : Nat) : Bool :=
  match SMap.get 0 w x.dbad with
  | 0 => if x.image.isSome then false else freeAt 1 7 x.epoch (131072 * k + w) == 1
  | v => v == 2

def Slice.pIsBad (x : Slice) (k b : Nat) : Bool :=
  match SMap.get 0 b x.pbad with
  | 0 => if x.image.isSome then false else freeAt 1 7 x.epoch (131072 * k + 65536 + b) == 1
  | v => v == 2

/-- A word written whole, with fresh parity. -/
def Slice.putWord (x : Slice) (w v : Nat) : Slice := { x with dmem := SMap.put 0 w (v % 2 ^ 32 + 1) x.dmem, dbad := SMap.put 0 w 1 x.dbad }

/-- A word the surroundings have upset. -/
def Slice.upset (x : Slice) (w : Nat) (up : Bool) : Slice := if up then { x with dbad := SMap.put 0 w 2 x.dbad } else x

/-! Control registers (R287) -/

/-- Control register i, the word at offset 0x080 + 4i of Table 12-5. -/
def Mach.slCtl (m : Mach) (k i : Nat) : Nat :=
  let p := slIx k
  if i < 4 then m.rd F.slP (slSub k i)
  else if i < 8 then m.rd F.slO (slSub k (i - 4))
  else if i < 12 then m.rd F.slCb (slSub k (i - 8))
  else if i < 16 then m.rd F.slCl (slSub k (i - 12))
  else if i < 20 then m.rd F.slCi (slSub k (i - 16))
  else if i < 24 then m.rd F.slCs (slSub k (i - 20))
  else if i = 24 then m.rd F.slNsh p
  else if i = 25 then m.rd F.slIngBase p
  else if i = 26 then m.rd F.slIngLen p
  else if i = 27 then m.rd F.slIngWr p
  else if i = 28 then m.rd F.slIngRd p
  else if i = 29 then m.rd F.slIngThresh p
  else if i = 30 then m.rd F.slTimer p
  else if i < 32 then 0
  else
    let q := slSub k ((i - 32) / 4)
    if i % 4 = 0 then m.rd F.xferSrc q * 64 + m.rd F.xferLen q * 2 ^ 16 + m.rd F.xferMode q * 2 ^ 28
    else if i % 4 = 1 then m.rd F.xferDstLo q * 64
    else if i % 4 = 2 then m.rd F.xferDstHi q
    else m.rd F.xferState q + m.rd F.xferRsp q * 256

/-- The ingress ring is full (R293). -/
def Mach.slFull (m : Mach) (k : Nat) : Bool :=
  let len := m.rd F.slIngLen (slIx k)
  decide (len = 0) || (((m.rd F.slIngWr (slIx k) : Int) + 4 - m.rd F.slIngRd (slIx k)) % (len : Int) == 0)

/-- On entering the full state, ING_FULL and PENDING 1 set. -/
def Mach.slRing (m : Mach) (k : Nat) (before : Bool) : Mach := if !before && m.slFull k then (m.slEv k F.slEventsIngFull).slPend k 1 else m

/-- A field written by the program keeps its value where the new one is reserved (00 R5). -/
def Mach.soft (m : Mach) (f : Fld) (p v : Nat) : Mach := if f.isLegal (v % 2 ^ f.width) then m.wr f p v else m

/-- A control register written by the program: a reserved index or a read-only register is left alone. -/
def Mach.slCtlPut (m : Mach) (k i v : Nat) : Mach :=
  let p := slIx k
  if i < 4 then m.soft F.slP (slSub k i) v
  else if i < 8 then m.soft F.slO (slSub k (i - 4)) v
  else if i < 12 then m.soft F.slCb (slSub k (i - 8)) v
  else if i < 16 then m.soft F.slCl (slSub k (i - 12)) v
  else if i < 20 then m.soft F.slCi (slSub k (i - 16)) v
  else if i < 24 then m.soft F.slCs (slSub k (i - 20)) v
  else if i = 24 then m.soft F.slNsh p v
  else if i = 25 then m.soft F.slIngBase p v
  else if i = 26 then m.soft F.slIngLen p v
  else if i = 28 then m.soft F.slIngRd p v
  else if i = 29 then m.soft F.slIngThresh p v
  else if i = 30 then m.soft F.slTimer p v
  else if i < 32 ∨ 48 ≤ i then m
  else
    let q := slSub k ((i - 32) / 4)
    if i % 4 = 0 then ((m.soft F.xferSrc q (v / 64)).soft F.xferLen q (v / 2 ^ 16)).soft F.xferMode q (v / 2 ^ 28)
    else if i % 4 = 1 then m.soft F.xferDstLo q (v / 64)
    else if i % 4 = 2 then m.soft F.xferDstHi q v
    else m

def Mach.slCtlWr (m : Mach) (k i v : Nat) : Mach := (m.slCtlPut k i v).slRing k (m.slFull k)

/-- CI after a step: modulo CL; the program must keep CL from 0 (R287), and a value is not stated where it does not. -/
def Mach.slWrapCi (m : Mach) (k c : Nat) (v : Int) : Nat × Mach :=
  let cl := m.rd F.slCl (slSub k c)
  if cl = 0 then m.fresh 16 else ((v % (cl : Int)).toNat, m)

/-! Bundles (R276, R278, R289, R296) -/

/-- Fields of the slots (Table 12-7). -/
def bC (w : Nat) : Nat := bitsOf 63 44 w
def bL (w : Nat) : Nat := bitsOf 43 24 w
def bM (w : Nat) : Nat := bitsOf 23 8 w
def bAux (w : Nat) : Nat := bitsOf 7 2 w
def cCode (w : Nat) : Nat := bitsOf 19 14 (bC w)
def lCode (w : Nat) : Nat := bitsOf 19 15 (bL w)
def mCode (w : Nat) : Nat := bitsOf 15 12 (bM w)
def aCode (w : Nat) : Nat := bitsOf 5 4 (bAux w)

/-- The codes of slot C that Table 12-2 lists. -/
def cLegal (c : Nat) : Bool :=
  decide (c ≤ 0x0A) || (decide (0x10 ≤ c) && decide (c ≤ 0x1A)) || (decide (0x20 ≤ c) && decide (c ≤ 0x22)) || (decide (0x28 ≤ c) && decide (c ≤ 0x2C)) ||
  (decide (0x30 ≤ c) && decide (c ≤ 0x32)) || c == 0x38 || c == 0x39

/-- Slot C holds an operation that is not allowed where it stands (R282). -/
def cBanned (shadow : Bool) (depth : Nat) (w : Nat) : Bool :=
  let c := cCode w
  !cLegal c || (c == 0x03 && !shadow) || ((c == 0x09 || c == 0x0A) && (shadow || decide (2 ≤ depth))) ||
  (c == 0x30 && bitsOf 2 1 (bC w) == 3)

/-- The slots that will act, AUX 1, M 2, L 4, C 8, and whether a slot was illegal. -/
def slTodo (shadow : Bool) (depth w : Nat) : Nat × Bool :=
  let banned := cBanned shadow depth w
  let cOn := !banned && cCode w != 0
  (b2n (aCode w == 1) + 2 * b2n (decide (0 < mCode w) && decide (mCode w ≤ 6)) + 4 * b2n (decide (0 < lCode w) && decide (lCode w ≤ 6)) + 8 * b2n cOn,
   banned || decide (1 < aCode w) || decide (6 < mCode w) || decide (6 < lCode w))

/-- The loops after a bundle: at the last bundle of the innermost body an iteration ends. The bundle that follows, and the loops. -/
def loopStep (pc : Nat) : List (Nat × Nat × Nat) → Nat × List (Nat × Nat × Nat)
  | [] => ((pc + 1) % 2048, [])
  | (a, e, n) :: l =>
    if pc = e then (if 1 < n then (a, (a, e, n - 1) :: l) else loopStep pc l) else ((pc + 1) % 2048, (a, e, n) :: l)

/-- A taken branch ends the bodies it leaves. -/
def loopLeave (t : Nat) : List (Nat × Nat × Nat) → List (Nat × Nat × Nat)
  | [] => []
  | (a, e, n) :: l => if a ≤ t ∧ t ≤ e then (a, e, n) :: l else loopLeave t l

/-- An interrupt can be taken (R290). -/
def Mach.slTakes (m : Mach) (k : Nat) : Bool :=
  let p := slIx k
  m.on F.slIrqIe p && m.on F.slCtrlRun p && !m.on F.slStatusInHandler p && (m.rd F.slIrqPending p &&& m.rd F.slIrqEnable p) != 0

/-- WBASE after a bundle (R276). -/
def rotBase (shadow : Bool) (rot base : Nat) : Nat :=
  let n := if rot = 0 then 0 else 2 ^ (rot - 1)
  if shadow then base else (base + 32 - n) % 32

/-- Operations of the bundle issued last have still to act. -/
def Slice.busy (x : Slice) : Bool :=
  match x.issued with
  | some b => b.todo != 0
  | none => false

/-- SL_BUNDLE_ISSUE: the slice runs, the operations of the bundle before have acted, results that are due have landed, no interrupt is to be
taken and no WAIT holds. -/
def opSlBundleIssue (k : Nat) (up : Bool) (m : Mach) : Mach :=
  let p := slIx k
  let x := m.sl k
  let waits := m.on F.slStatusWaiting p && (m.rd F.slIrqPending p &&& m.rd F.slIrqEnable p) == 0
  if !m.on F.slCtrlRun p || x.busy || x.flight.any (fun r => decide (r.due ≤ x.now)) || m.slTakes k || waits then m
  else
    let pc := m.rd F.slStatusPc p
    if up ∨ x.pIsBad k pc then
      let m1 := m.setSl k { x with pbad := SMap.put 0 pc 2 x.pbad }
      (((m1.wr F.slCtrlRun p 0).wr F.slHaltCause p 2).wr F.slHaltPc p pc).wr F.slStatusWaiting p 0
    else
      let w := x.pword k pc
      let shadow := m.on F.slStatusInHandler p
      let nx := if shadow then ((pc + 1) % 2048, x.loops) else loopStep pc x.loops
      let todo := slTodo shadow nx.2.length w
      let b : SlIssued := { pc := pc, word := w, base := x.wbase, cycle := x.now, shadow := shadow, todo := todo.1, loops := x.loops, stores := [] }
      let m1 := m.setSl k { x with issued := some b, wbase := rotBase shadow (w % 4) x.wbase, loops := nx.2 }
      let m2 := ((m1.wr F.slStatusPc p nx.1).wr F.slStatusWaiting p 0).slPass k 1
      if todo.2 then m2.slEv k F.slEventsIllegal else m2

/-! Results in flight (R279 to R281) -/

/-- The result that lands first: by cycle, then in the order of R280. -/
def firstDue : List SlRes → Option SlRes
  | [] => none
  | r :: l => match firstDue l with
    | none => some r
    | some s => if s.due < r.due ∨ (s.due = r.due ∧ s.order < r.order) then some s else some r

/-- The measure of an element (R286). -/
def auxMeasure (mode v : Nat) : Int :=
  if mode / 2 = 0 then s40 v else if mode / 2 = 1 then cre v else cre v * cre v + cim v * cim v

/-- AFEED lands. -/
def Slice.feed (x : Slice) (v : Nat) : Slice :=
  let e := auxMeasure x.auxMode v
  let better := match x.auxBest with
    | none => true
    | some (b, _) => if x.auxMode % 2 = 0 then decide (b < e) else decide (e < b)
  { x with auxBest := if better then some (e, x.auxCount) else x.auxBest, auxCount := min (2 ^ 32 - 1) (x.auxCount + 1) }

def clearEvents (m : Mach) (k mask : Nat) : Mach :=
  [F.slEventsAov, F.slEventsNsat, F.slEventsIllegal, F.slEventsDmemParity, F.slEventsEgressDrop, F.slEventsIngFull, F.slEventsXferBusy].foldl
    (fun m f => if bitOf f.lo mask then m.wr f (slIx k) 0 else m) m

/-- A result lands. -/
def Mach.slLand (m : Mach) (k : Nat) (r : SlRes) : Mach :=
  let x := m.sl k
  match r.what with
  | .reg g v => m.setSl k { x with g := SMap.put 0 g v x.g }
  | .ctl i v => m.slCtlWr k i v
  | .fclr mask => clearEvents m k mask
  | .arst mode => m.setSl k { x with auxMode := mode, auxBest := none, auxCount := 0 }
  | .feed v => m.setSl k (x.feed v)
  | .acc a zero re im norm =>
    let old := if zero then ((0 : Int), (0 : Int)) else m.slAcc k r.shadow a
    let u := sat48 (old.1 + re)
    let v := sat48 (old.2 + im)
    let m1 := m.setSl k { x with acc := SMap.put (0, 0) (4 * b2n r.shadow + a) (u.1, v.1) x.acc }
    let m2 := if u.2 || v.2 then m1.slEv k F.slEventsAov else m1
    match norm with
    | none => m2
    | some (g, sh) =>
      let n := slNorm (u.1, v.1) sh
      let y := m2.sl k
      let m3 := m2.setSl k { y with flight := y.flight ++ [{ due := r.due + 2, order := r.order, shadow := r.shadow, what := .reg g n.1 }] }
      if n.2 then m3.slEv k F.slEventsNsat else m3

/-- SL_RESULT_LAND: the next result due; one that is due later lands early only while no bundle issues, when time passes without one. -/
def opSlResultLand (k : Nat) (m : Mach) : Mach :=
  let x := m.sl k
  let idle := !m.on F.slCtrlRun (slIx k) || m.on F.slStatusWaiting (slIx k)
  match firstDue x.flight with
  | none => m
  | some r =>
    if x.busy || (decide (x.now < r.due) && !idle) then m
    else
      let m1 := m.slUntil k r.due
      let y := m1.sl k
      (m1.setSl k { y with flight := y.flight.erase r }).slLand k r

/-! Operations: an operation acts when the bundle issued last holds it in its slot and has not acted there yet -/

/-- The slots: AUX 0, M 1, L 2, C 3. -/
def slCode (slot w : Nat) : Nat := if slot = 0 then aCode w else if slot = 1 then mCode w else if slot = 2 then lCode w else cCode w

/-- Running an operation. -/
def Mach.slOp (m : Mach) (k slot code : Nat) (f : SlIssued → Mach → Mach) : Mach :=
  match (m.sl k).issued with
  | none => m
  | some b =>
    if bitOf slot b.todo ∧ slCode slot b.word = code then
      f b (m.setSl k { (m.sl k) with issued := some { b with todo := clearBit slot b.todo } })
    else m

/-- A result of an operation of a slot: it lands lat cycles after its issue. -/
def Mach.slRes (m : Mach) (k : Nat) (b : SlIssued) (slot lat : Nat) (w : SlWhat) : Mach :=
  let x := m.sl k
  m.setSl k { x with flight := x.flight ++ [{ due := b.cycle + lat, order := 4 * b.cycle + slot, shadow := b.shadow, what := w }] }

def Mach.slFlag (m : Mach) (k : Nat) (f : Fld) (sat : Bool) : Mach := if sat then m.slEv k f else m

/-- Slot M's operands (Table 12-7). -/
def mAcc (w : Nat) : Nat := bitsOf 11 10 (bM w)
def mA (w : Nat) : Nat := bitsOf 9 6 (bM w)
def mB (w : Nat) : Nat := bitsOf 5 2 (bM w)

/-- The exact product of two samples, the second conjugated where asked (R283). -/
def cmul (conj : Bool) (x y : Nat) : Int × Int :=
  let yi := if conj then -cim y else cim y
  (cre x * cre y - cim x * yi, cre x * yi + cim x * cre y)

/-- MAC, MACC, MSU, MACZ and MACN: sign, conjugate, from zero, and MACN's register and shift. -/
def Mach.slMul (m : Mach) (k : Nat) (b : SlIssued) (neg conj zero norm : Bool) : Mach :=
  let w := b.word
  let p := cmul conj (m.slReg k b (mA w)) (m.slReg k b (mB w))
  let s (i : Int) : Int := if neg then -i else i
  m.slRes k b 1 4 (.acc (mAcc w) zero (s p.1) (s p.2) (if norm then some (b.phys (mA w), m.rd F.slNsh (slIx k)) else none))

def opSlMac (k : Nat) (m : Mach) : Mach := m.slOp k 1 1 (fun b m => m.slMul k b false false false false)
def opSlMacc (k : Nat) (m : Mach) : Mach := m.slOp k 1 2 (fun b m => m.slMul k b false true false false)
def opSlMsu (k : Nat) (m : Mach) : Mach := m.slOp k 1 3 (fun b m => m.slMul k b true false false false)
def opSlMacz (k : Nat) (m : Mach) : Mach := m.slOp k 1 4 (fun b m => m.slMul k b false false true false)
def opSlAclr (k : Nat) (m : Mach) : Mach := m.slOp k 1 5 (fun b m => m.slRes k b 1 4 (.acc (mAcc b.word) true 0 0 none))
def opSlMacn (k : Nat) (m : Mach) : Mach := m.slOp k 1 6 (fun b m => m.slMul k b false false false true)

/-- Slot L's operands. -/
def lP (w : Nat) : Nat := bitsOf 14 13 (bL w)
def lA (w : Nat) : Nat := bitsOf 12 9 (bL w)
def lC (w : Nat) : Nat := bitsOf 8 7 (bL w)
def lB (w : Nat) : Nat := bitsOf 6 3 (bL w)

/-- The word Pk names, and the advance of Pk. -/
def Mach.slPtr (m : Mach) (k i : Nat) : Nat := m.rd F.slP (slSub k i) / 4
def Mach.slPtrStep (m : Mach) (k : Nat) (b : SlIssued) (i : Nat) : Mach :=
  m.slRes k b 2 1 (.ctl i ((m.rd F.slP (slSub k i) + m.rd F.slO (slSub k i)) % 65536))

/-- The word a circular unit names, and the step of its index. -/
def Mach.slCirc (m : Mach) (k i : Nat) : Nat := (m.rd F.slCb (slSub k i) + m.rd F.slCi (slSub k i)) % 65536 / 4
def Mach.slCircStep (m : Mach) (k : Nat) (b : SlIssued) (i : Nat) : Mach :=
  let r := m.slWrapCi k i ((m.rd F.slCi (slSub k i) : Int) + toSigned 16 (m.rd F.slCs (slSub k i)))
  r.2.slRes k b 2 1 (.ctl (16 + i) r.1)

/-- A load of a word into a register: the word is delivered whatever its parity (R288). -/
def Mach.slLoad (m : Mach) (k : Nat) (b : SlIssued) (w x : Nat) (up : Bool) : Mach :=
  let y := (m.sl k).upset w up
  let m1 := (m.setSl k y).slRes k b 2 3 (.reg (b.phys x) (ext32 (y.dword k w)))
  if y.dIsBad k w then (m1.slEv k F.slEventsDmemParity).cnt F.slDmemErrs (slIx k) 1 else m1

/-- A store of a register: visible to the loads of later bundles. -/
def Mach.slStore (m : Mach) (k : Nat) (b : SlIssued) (w x : Nat) : Mach :=
  let y := m.sl k
  let z := y.putWord w (m.slReg k b x)
  m.setSl k { z with issued := z.issued.map (fun c => { c with stores := c.stores ++ [(w, y.dword k w, y.dIsBad k w)] }) }

def opSlLp (k : Nat) (up : Bool) (m : Mach) : Mach := m.slOp k 2 1 (fun b m =>
  (m.slLoad k b (m.slPtr k (lP b.word)) (lA b.word) up).slPtrStep k b (lP b.word))
def opSlLc (k : Nat) (up : Bool) (m : Mach) : Mach := m.slOp k 2 2 (fun b m =>
  (m.slLoad k b (m.slCirc k (lC b.word)) (lB b.word) up).slCircStep k b (lC b.word))
def opSlLpc (k : Nat) (up upC : Bool) (m : Mach) : Mach := m.slOp k 2 3 (fun b m =>
  (((m.slLoad k b (m.slPtr k (lP b.word)) (lA b.word) up).slLoad k b (m.slCirc k (lC b.word)) (lB b.word) upC).slPtrStep k b (lP b.word)).slCircStep
    k b (lC b.word))
def opSlSp (k : Nat) (m : Mach) : Mach := m.slOp k 2 4 (fun b m => (m.slStore k b (m.slPtr k (lP b.word)) (lA b.word)).slPtrStep k b (lP b.word))
def opSlSc (k : Nat) (m : Mach) : Mach := m.slOp k 2 5 (fun b m => (m.slStore k b (m.slCirc k (lC b.word)) (lB b.word)).slCircStep k b (lC b.word))
def opSlLcsp (k : Nat) (up : Bool) (m : Mach) : Mach := m.slOp k 2 6 (fun b m =>
  (((m.slLoad k b (m.slCirc k (lC b.word)) (lB b.word) up).slStore k b (m.slPtr k (lP b.word)) (lA b.word)).slPtrStep k b (lP b.word)).slCircStep
    k b (lC b.word))

/-- Slot C's operands. -/
def cD (w : Nat) : Nat := bitsOf 13 10 (bC w)
def cA (w : Nat) : Nat := bitsOf 9 6 (bC w)
def cB (w : Nat) : Nat := bitsOf 5 2 (bC w)
def cImm (w : Nat) : Nat := bitsOf 9 0 (bC w)

/-- Writing Xd from slot C. -/
def Mach.slPut (m : Mach) (k : Nat) (b : SlIssued) (lat x v : Nat) : Mach := m.slRes k b 3 lat (.reg (b.phys x) v)

/-- HALT (R289). -/
def opSlHalt (k : Nat) (m : Mach) : Mach := m.slOp k 3 1 (fun b m => ((m.wr F.slCtrlRun (slIx k) 0).wr F.slHaltCause (slIx k) 1).wr F.slHaltPc (slIx k) b.pc)

/-- WAIT. -/
def opSlWait (k : Nat) (m : Mach) : Mach := m.slOp k 3 2 (fun _ m => m.wr F.slStatusWaiting (slIx k) 1)

/-- The last landing of a result into a bank (R291). -/
def lastDue (shadow : Bool) (l : List SlRes) : Nat := l.foldl (fun a r => if r.shadow = shadow then max a (match r.what with
  | .acc _ _ _ _ (some _) => r.due + 2
  | _ => r.due) else a) 0

/-- The swap to a bank: its first bundle comes two cycles after the old bank's last, and once the results into it have landed. -/
def Mach.slSwap (m : Mach) (k : Nat) (shadow : Bool) (pc : Nat) : Mach :=
  let x := m.sl k
  let last := match x.issued with
    | some b => b.cycle + 2
    | none => 0
  ((m.slUntil k (max last (lastDue shadow x.flight))).wr F.slStatusInHandler (slIx k) (b2n shadow)).wr F.slStatusPc (slIx k) pc

/-- RETI (R290). -/
def opSlReti (k : Nat) (m : Mach) : Mach := m.slOp k 3 3 (fun _ m =>
  (m.setSl k { (m.sl k) with loops := (m.sl k).frozen, frozen := [] }).slSwap k false (m.rd F.slIretPc (slIx k)))

/-- A taken branch (R289): one bubble follows; a handler's branches leave the frozen loops alone. -/
def Mach.slJump (m : Mach) (k : Nat) (b : SlIssued) (t : Nat) : Mach :=
  ((m.setSl k { (m.sl k) with loops := loopLeave t b.loops }).wr F.slStatusPc (slIx k) t).slPass k 1

/-- A branch of slot C under a condition on the S40 Xa. -/
def Mach.slBranch (m : Mach) (k : Nat) (b : SlIssued) (c : Int → Bool) : Mach :=
  if c (s40 (m.slReg k b (cD b.word))) then m.slJump k b (((b.pc : Int) + toSigned 10 (cImm b.word)) % 2048).toNat else m

def opSlBr (k : Nat) (m : Mach) : Mach := m.slOp k 3 4 (fun b m => m.slBranch k b (fun _ => true))
def opSlBz (k : Nat) (m : Mach) : Mach := m.slOp k 3 5 (fun b m => m.slBranch k b (fun v => v == 0))
def opSlBnz (k : Nat) (m : Mach) : Mach := m.slOp k 3 6 (fun b m => m.slBranch k b (fun v => v != 0))
def opSlBlt (k : Nat) (m : Mach) : Mach := m.slOp k 3 7 (fun b m => m.slBranch k b (fun v => decide (v < 0)))
def opSlBge (k : Nat) (m : Mach) : Mach := m.slOp k 3 8 (fun b m => m.slBranch k b (fun v => decide (0 ≤ v)))

/-- A hardware loop starts; a count of 0 skips its body, with one bubble. -/
def Mach.slLoopStart (m : Mach) (k : Nat) (b : SlIssued) (count len : Nat) : Mach :=
  if count = 0 then (m.wr F.slStatusPc (slIx k) ((b.pc + 1 + len) % 2048)).slPass k 1
  else m.setSl k { (m.sl k) with loops := (b.pc + 1, b.pc + len, count) :: (m.sl k).loops }

def opSlLoop (k : Nat) (m : Mach) : Mach := m.slOp k 3 9 (fun b m => m.slLoopStart k b (m.slReg k b (cD b.word) % 65536) (cImm b.word + 1))
def opSlLoopi (k : Nat) (m : Mach) : Mach := m.slOp k 3 10 (fun b m => m.slLoopStart k b (bitsOf 13 4 (bC b.word)) (bitsOf 3 0 (bC b.word) + 1))

/-- A saturating S40 result. -/
def Mach.slSat (m : Mach) (k : Nat) (b : SlIssued) (i : Int) : Mach :=
  let r := sat40 i
  (m.slPut k b 1 (cD b.word) r.1).slFlag k F.slEventsNsat r.2

def opSlAdd (k : Nat) (m : Mach) : Mach := m.slOp k 3 0x10 (fun b m => m.slSat k b (s40 (m.slReg k b (cA b.word)) + s40 (m.slReg k b (cB b.word))))
def opSlSub (k : Nat) (m : Mach) : Mach := m.slOp k 3 0x11 (fun b m => m.slSat k b (s40 (m.slReg k b (cA b.word)) - s40 (m.slReg k b (cB b.word))))
def opSlAnd (k : Nat) (m : Mach) : Mach := m.slOp k 3 0x12 (fun b m => m.slPut k b 1 (cD b.word) (m.slReg k b (cA b.word) &&& m.slReg k b (cB b.word)))
def opSlOr (k : Nat) (m : Mach) : Mach := m.slOp k 3 0x13 (fun b m => m.slPut k b 1 (cD b.word) (m.slReg k b (cA b.word) ||| m.slReg k b (cB b.word)))
def opSlXor (k : Nat) (m : Mach) : Mach := m.slOp k 3 0x14 (fun b m => m.slPut k b 1 (cD b.word) (m.slReg k b (cA b.word) ^^^ m.slReg k b (cB b.word)))

/-- SHA (R285). -/
def opSlSha (k : Nat) (m : Mach) : Mach := m.slOp k 3 0x15 (fun b m =>
  let sh := toSigned 6 (bitsOf 5 0 (bC b.word))
  let v := s40 (m.slReg k b (cA b.word))
  if 0 ≤ sh then m.slSat k b (v * (2 : Int) ^ sh.toNat) else m.slPut k b 1 (cD b.word) (of40 (v.tdiv ((2 : Int) ^ (-sh).toNat))))

/-- CADD and CSUB. -/
def Mach.slLanes (m : Mach) (k : Nat) (b : SlIssued) (sub : Bool) : Mach :=
  let x := m.slReg k b (cA b.word)
  let y := m.slReg k b (cB b.word)
  let r := if sub then cpx (cre x - cre y) (cim x - cim y) else cpx (cre x + cre y) (cim x + cim y)
  (m.slPut k b 1 (cD b.word) r.1).slFlag k F.slEventsNsat r.2

def opSlCadd (k : Nat) (m : Mach) : Mach := m.slOp k 3 0x16 (fun b m => m.slLanes k b false)
def opSlCsub (k : Nat) (m : Mach) : Mach := m.slOp k 3 0x17 (fun b m => m.slLanes k b true)
def opSlAddi (k : Nat) (m : Mach) : Mach := m.slOp k 3 0x18 (fun b m => m.slSat k b (s40 (m.slReg k b (cD b.word)) + toSigned 10 (cImm b.word)))
def opSlMovi (k : Nat) (m : Mach) : Mach := m.slOp k 3 0x19 (fun b m => m.slPut k b 1 (cD b.word) (of40 (toSigned 10 (cImm b.word))))
def opSlMovhi (k : Nat) (m : Mach) : Mach := m.slOp k 3 0x1A (fun b m =>
  m.slPut k b 1 (cD b.word) ((m.slReg k b (cD b.word) * 1024 + cImm b.word) % 2 ^ 40))

/-- Accumulator form: the accumulator, Xd, and NORM's shift or NORMV's register. -/
def cAcc (w : Nat) : Nat := bitsOf 13 12 (bC w)
def cAd (w : Nat) : Nat := bitsOf 11 8 (bC w)

def Mach.slNormTo (m : Mach) (k : Nat) (b : SlIssued) (sh : Nat) : Mach :=
  let r := slNorm (m.slAcc k b.shadow (cAcc b.word)) sh
  (m.slPut k b 2 (cAd b.word) r.1).slFlag k F.slEventsNsat r.2

def opSlNorm (k : Nat) (m : Mach) : Mach := m.slOp k 3 0x20 (fun b m => m.slNormTo k b (bitsOf 5 0 (bC b.word)))
def opSlNormv (k : Nat) (m : Mach) : Mach := m.slOp k 3 0x21 (fun b m => m.slNormTo k b (m.slReg k b (bitsOf 7 4 (bC b.word)) % 64))
def opSlExp (k : Nat) (m : Mach) : Mach := m.slOp k 3 0x22 (fun b m => m.slPut k b 2 (cAd b.word) (slExp (m.slAcc k b.shadow (cAcc b.word))))

def opSlMtc (k : Nat) (m : Mach) : Mach := m.slOp k 3 0x28 (fun b m => m.slRes k b 3 1 (.ctl (bitsOf 5 0 (bC b.word)) (m.slReg k b (cD b.word) % 2 ^ 32)))
def opSlMfc (k : Nat) (m : Mach) : Mach := m.slOp k 3 0x29 (fun b m =>
  let i := bitsOf 5 0 (bC b.word)
  m.slPut k b 1 (cD b.word) (if i < 48 then m.slCtl k i else 0))

/-- AADD: on an index register, modulo CL. -/
def opSlAadd (k : Nat) (m : Mach) : Mach := m.slOp k 3 0x2A (fun b m =>
  let i := bitsOf 13 8 (bC b.word)
  let v := (m.slCtl k i : Int) + 4 * toSigned 8 (bitsOf 7 0 (bC b.word))
  if 48 ≤ i then m
  else if 16 ≤ i ∧ i < 20 then (let r := m.slWrapCi k (i - 16) v; r.2.slRes k b 3 1 (.ctl i r.1))
  else m.slRes k b 3 1 (.ctl i (ofSigned 32 v)))

def opSlFrd (k : Nat) (m : Mach) : Mach := m.slOp k 3 0x2B (fun b m => m.slPut k b 1 (cD b.word) (m.slEvents k))
def opSlFclr (k : Nat) (m : Mach) : Mach := m.slOp k 3 0x2C (fun b m => m.slRes k b 3 1 (.fclr (bitsOf 6 0 (bC b.word))))
def opSlArst (k : Nat) (m : Mach) : Mach := m.slOp k 3 0x30 (fun b m => m.slRes k b 3 1 (.arst (bitsOf 2 0 (bC b.word))))
def opSlAgetv (k : Nat) (m : Mach) : Mach := m.slOp k 3 0x31 (fun b m => m.slPut k b 1 (cD b.word) (match (m.sl k).auxBest with
  | some (v, _) => of40 v
  | none => 0))
def opSlAgeti (k : Nat) (m : Mach) : Mach := m.slOp k 3 0x32 (fun b m => m.slPut k b 1 (cD b.word) (match (m.sl k).auxBest with
  | some (_, i) => i
  | none => of40 (-1)))

/-- AFEED: in a bundle with ARST it is discarded. -/
def opSlAfeed (k : Nat) (m : Mach) : Mach := m.slOp k 0 1 (fun b m =>
  if cCode b.word = 0x30 ∧ !cBanned b.shadow 0 b.word then m else m.slRes k b 0 2 (.feed (m.slReg k b (bitsOf 3 0 (bAux b.word)))))

/-- OUT (R294). -/
def opSlOut (k : Nat) (m : Mach) : Mach := m.slOp k 3 0x38 (fun b m =>
  let x := m.sl k
  if 32 ≤ x.egress.length then m.slEv k F.slEventsEgressDrop
  else m.setSl k { x with egress := x.egress ++ [m.slReg k b (cA b.word) % 2 ^ 32] })

/-! The outbox (R295) -/

/-- The bytes of data memory from a byte offset. -/
def Slice.bytes (x : Slice) (k off : Nat) (words : Nat) : List Byte := (upFrom (off / 4) words).flatMap (fun w => leBytes 4 (x.dword k (w % 16384)))

/-- An outbox ends. -/
def Mach.slXferEnd (m : Mach) (k o status : Nat) : Mach :=
  let q := slSub k o
  (((m.setSl k { (m.sl k) with outbox := none }).wr F.xferState q (if status = 0 then 2 else 3)).wr F.xferRsp q status).slPend k 2

/-- The outbox sends its message or its packets. A master whose NI does not inject stalls (10 R240). -/
def Mach.slXferSend (m : Mach) (k o : Nat) : Mach :=
  let q := slSub k o
  let x := m.sl k
  let who := 0x3000 + k
  let src := 64 * m.rd F.xferSrc q
  if m.rd F.xferMode q = 1 then
    (m.setSl k { x with outbox := some (o, true, 0) }).mail who (m.rd F.xferDstHi q) ((upFrom (src / 4) 16).map (fun w => x.dword k (w % 16384)))
  else if !m.on F.nocCtrlRun (k / 64) then m
  else
    let n := 64 * m.rd F.xferLen q
    opPacketInject who (.write (m.rd F.xferDstHi q * 2 ^ 32 + 64 * m.rd F.xferDstLo q) (x.bytes k src (n / 4)) (List.replicate n true) false)
      (m.setSl k { x with outbox := some (o, true, 0) })

def opSlXfer (k : Nat) (m : Mach) : Mach := m.slOp k 3 0x39 (fun b m =>
  let o := bitsOf 1 0 (bC b.word)
  let q := slSub k o
  match (m.sl k).outbox with
  | some _ => m.slEv k F.slEventsXferBusy
  | none =>
    let m1 := (m.setSl k { (m.sl k) with outbox := some (o, false, 0) }).wr F.xferState q 1
    if m.rd F.xferMode q = 1 ∧ m.rd F.xferLen q ≠ 1 then m1.slXferEnd k o rsMalformed else m1.slXferSend k o)

/-- XFER_END: once every response has come. -/
def opXferEnd (k : Nat) (m : Mach) : Mach :=
  match (m.sl k).outbox with
  | none => m
  | some (o, sent, status) =>
    if !sent then m.slXferSend k o
    else if (m.outs (niKey (k / 64) 60)).any (fun x => x.who == 0x3000 + k && !x.late) then m
    else m.slXferEnd k o status

/-! Interrupts, ports and the network (R289 to R298) -/

/-- SL_INTERRUPT: the lowest enabled pending source is taken. -/
def opSlInterrupt (k : Nat) (m : Mach) : Mach :=
  let p := slIx k
  if !m.slTakes k || (m.sl k).busy then m
  else match lowestSet 8 0 (m.rd F.slIrqPending p &&& m.rd F.slIrqEnable p) with
    | none => m
    | some j =>
      let m1 := (m.wr F.slIretPc p (m.rd F.slStatusPc p)).wr F.slIrqPending p (clearBit j (m.rd F.slIrqPending p))
      let m2 := m1.setSl k { (m1.sl k) with frozen := (m1.sl k).loops, loops := [] }
      (m2.wr F.slStatusWaiting p 0).slSwap k true (m.rd F.slIvecPc (slSub k j))

/-- A word an external writer writes: where the program stores to it in the same cycle, the program wins and the collision is counted. -/
def Mach.slExtWrite (m : Mach) (k w v : Nat) (same : Bool) : Mach :=
  let hit := same && (match (m.sl k).issued with
    | some b => b.stores.any (fun s => s.1 == w)
    | none => false)
  if hit then m.cnt F.slDmemCollide (slIx k) 1 else m.setSl k ((m.sl k).putWord w v)

/-- SL_INGRESS_WORD (R292, R293). -/
def opSlIngressWord (k : Nat) (words : List Nat) (same : Bool) (m : Mach) : Mach :=
  let p := slIx k
  let len := m.rd F.slIngLen p
  let wr := m.rd F.slIngWr p
  let x := m.sl k
  let q := if m.slFenced k || m.slFull k then x.ingress else x.ingress ++ words.take (64 - x.ingress.length)
  if m.slFull k then m
  else match q with
    | [] => m
    | v :: l =>
      let m1 := (m.setSl k { x with ingress := l, ingCount := x.ingCount + 1 }).slExtWrite k ((m.rd F.slIngBase p + wr) % 65536 / 4) v same
      let wr' := (wr + 4) % len
      let m2 := m1.wr F.slIngWr p wr'
      let m3 := if m.rd F.slIngThresh p ≤ x.ingCount + 1 then (m2.setSl k { (m2.sl k) with ingCount := 0 }).slPend k 0 else m2
      m3.slRing k false

/-- SL_TIMER_EXPIRY: while no bundle issues, the cycles to the timer's end pass; results due before it land first. The timer of a slice that
issues bundles ends as its bundles pass their cycles. -/
def opSlTimerExpiry (k : Nat) (m : Mach) : Mach :=
  let p := slIx k
  let t := m.rd F.slTimer p
  let issues := m.on F.slCtrlRun p && !m.on F.slStatusWaiting p
  if t = 0 ∨ issues ∨ (m.sl k).flight.any (fun r => decide (r.due < (m.sl k).now + t)) then m else m.slPass k t

/-- SL_FABRIC_IRQ. -/
def opSlFabricIrq (k line : Nat) (m : Mach) : Mach := if m.slFenced k then m else m.slPend k (4 + line)

def opSlIrqRaise (k who mask : Nat) (m : Mach) : Mach := m.permit (fabricWho (k / 64) who) who (fun m => m.orIn F.slIrqPending (slIx k) mask)

/-- IDLE and STOPPED (R298). -/
def Mach.slIdle (m : Mach) (k : Nat) : Bool := (m.sl k).flight.isEmpty && (m.sl k).outbox.isNone
def Mach.slStopped (m : Mach) (k : Nat) : Bool := !m.on F.slCtrlRun (slIx k) && m.slIdle k

/-- RUN is set or cleared (R298); in the hold state slices are stopped (13 R315). -/
def Mach.slRun (m : Mach) (k : Nat) (run : Bool) : Mach :=
  let p := slIx k
  if !run then m.wr F.slCtrlRun p 0
  else if m.rgnStep (k / 64) (slRegion k) < 3 then m
  else if !m.slStopped k then m.wr F.slCtrlRun p 1
  else
    let m1 := m.setSl k { (m.sl k) with wbase := 0, loops := [], frozen := [], auxMode := 0, auxBest := none, auxCount := 0, issued := none }
    (((m1.wr F.slStatusInHandler p 0).wr F.slStatusWaiting p 0).wr F.slStatusPc p (m.rd F.slStartPc p)).wr F.slCtrlRun p 1

def opSlCtrlRun (k who : Nat) (run : Bool) (m : Mach) : Mach := m.permit (fabricWho (k / 64) who) who (fun m => m.slRun k run)

/-- A slice stops at once, as the configuration stops it (R297). -/
def Mach.slStop (m : Mach) (k : Nat) : Mach := (m.wr F.slCtrlRun (slIx k) 0).wr F.slStatusWaiting (slIx k) 0

/-- Bytes of a memory word replaced under enables. -/
def overlayBytes (old : List Byte) (data : List Byte) (en : List Bool) : List Byte :=
  (upFrom 0 old.length).map (fun i => if nth false en i then nth 0 data i else nth 0 old i)

/-- A word of data memory as a network access of the same cycle finds it: before that cycle's stores (R288). -/
def Slice.seen (x : Slice) (k w : Nat) (same : Bool) : Nat × Bool :=
  match (if same then x.issued.bind (fun b => b.stores.find? (fun s => s.1 == w)) else none) with
  | some s => (s.2.1, s.2.2)
  | none => (x.dword k w, x.dIsBad k w)

/-- Reading n bytes of data or program memory: the bytes and whether a word is bad. -/
def Mach.slExtRead (m : Mach) (k off n : Nat) (same : Bool) : List Byte × Bool :=
  let x := m.sl k
  let ws := upFrom (off / 4) ((off + n + 3) / 4 - off / 4)
  let one (w : Nat) : Nat × Bool :=
    if 0x4000 ≤ w then x.seen k (w - 0x4000) same
    else (x.pword k (w / 2 % 2048) / 2 ^ (32 * (w % 2)) % 2 ^ 32, x.pIsBad k (w / 2 % 2048))
  (((ws.flatMap (fun w => leBytes 4 (one w).1)).drop (off % 4)).take n, ws.any (fun w => (one w).2))

/-- A data-memory word written in part: a bad word stays bad unless all of it is written. -/
def Mach.slExtPut (m : Mach) (k w : Nat) (data : List Byte) (en : List Bool) (same : Bool) : Mach :=
  let x := m.sl k
  let all := (upFrom 0 4).all (fun i => nth false en i)
  let none4 := (upFrom 0 4).all (fun i => !nth false en i)
  if none4 then m
  else
    let bad := !all && x.dIsBad k w
    let m1 := m.slExtWrite k w (leNat (overlayBytes (leBytes 4 (x.dword k w)) data en)) same
    if bad then m1.setSl k ((m1.sl k).upset w true) else m1

/-- A 32-bit word of program memory written. -/
def Mach.slProgPut (m : Mach) (k w : Nat) (data : List Byte) (en : List Bool) : Mach :=
  let x := m.sl k
  let b := w / 2 % 2048
  let at_ := 4 * (w % 2)
  let old := leBytes 8 (x.pword k b)
  let new := overlayBytes old (List.replicate at_ (0 : Byte) ++ data.take 4) (List.replicate at_ false ++ en.take 4)
  m.setSl k { x with pmem := SMap.put 0 b (leNat new + 1) x.pmem, pbad := SMap.put 0 b 1 x.pbad }

/-- Words written in turn from word w of the slice's space. -/
def Mach.slExtPuts (m : Mach) (k : Nat) (same : Bool) : Nat → Nat → List Byte → List Bool → Mach
  | 0, _, _, _ => m
  | n + 1, w, data, en =>
    let m1 := if 0x4000 ≤ w then m.slExtPut k (w - 0x4000) (data.take 4) (en.take 4) same else m.slProgPut k w (data.take 4) (en.take 4)
    m1.slExtPuts k same n (w + 1) (data.drop 4) (en.drop 4)

/-- How an access to a slice's memories is answered (R297): its status, its data and marks, and the machine after. -/
def Mach.slAccess (m : Mach) (k who off len : Nat) (write : Option (List Byte × List Bool)) (same : Bool) : Nat × List Byte × Nat × Mach :=
  let n := match write with
    | some (d, _) => d.length
    | none => len
  let prog := decide (0x4000 ≤ off) && decide (off + n ≤ 0x8000)
  let data := decide (0x10000 ≤ off) && decide (off + n ≤ 0x20000)
  if !prog && !data then (rsDecode, [], 0, m)
  else match write with
    | none =>
      let r := m.slExtRead k off n same
      (rsOk, r.1, if r.2 then 2 else 0, m)
    | some (d, en) =>
      if prog && (!fabricWho (k / 64) who || !m.slStopped k) then (rsRefused, [], 0, m)
      else
        let pad := off % 4
        (rsOk, [], 0, m.slExtPuts k same ((off + n + 3) / 4 - off / 4) (off / 4) (List.replicate pad (0 : Byte) ++ d) (List.replicate pad false ++ en))

def opSlExternalAccess (k who off len : Nat) (write : Option (List Byte × List Bool)) (same : Bool) (m : Mach) : Mach :=
  let r := m.slAccess k who off len write same
  r.2.2.2.send (.resp who r.1 r.2.1 r.2.2.1)

/-- SLICE_EGRESS_TRANSFER: SO_READY counts as 0 while the fences are closed. -/
def opSliceEgressTransfer (k : Nat) (m : Mach) : Mach :=
  let x := m.sl k
  match x.egress with
  | [] => m
  | v :: l => if m.slFenced k then m else (m.setSl k { x with egress := l }).send (.sliceOut (k / 64) (k % 64) v)

/-! The meanings -/

def execSlBundleIssue (d : DieNo) (n : Fin 64) (up : Bool) (s : State) := s.on (.slice d.val) (opSlBundleIssue (slK d.val n.val) up)
def execSlResultLand (d : DieNo) (n : Fin 64) (s : State) := s.on (.slice d.val) (opSlResultLand (slK d.val n.val))
/-- A NOP in any slot does nothing (R282). -/
def execSlNop (d : DieNo) (_ : Fin 64) (s : State) := s.on (.slice d.val) id
def execSlMac (d : DieNo) (n : Fin 64) (s : State) := s.on (.slice d.val) (opSlMac (slK d.val n.val))
def execSlMacc (d : DieNo) (n : Fin 64) (s : State) := s.on (.slice d.val) (opSlMacc (slK d.val n.val))
def execSlMsu (d : DieNo) (n : Fin 64) (s : State) := s.on (.slice d.val) (opSlMsu (slK d.val n.val))
def execSlMacz (d : DieNo) (n : Fin 64) (s : State) := s.on (.slice d.val) (opSlMacz (slK d.val n.val))
def execSlAclr (d : DieNo) (n : Fin 64) (s : State) := s.on (.slice d.val) (opSlAclr (slK d.val n.val))
def execSlMacn (d : DieNo) (n : Fin 64) (s : State) := s.on (.slice d.val) (opSlMacn (slK d.val n.val))
def execSlLp (d : DieNo) (n : Fin 64) (up : Bool) (s : State) := s.on (.slice d.val) (opSlLp (slK d.val n.val) up)
def execSlLc (d : DieNo) (n : Fin 64) (up : Bool) (s : State) := s.on (.slice d.val) (opSlLc (slK d.val n.val) up)
def execSlLpc (d : DieNo) (n : Fin 64) (up : LpcUpset) (s : State) := s.on (.slice d.val) (opSlLpc (slK d.val n.val) up.load up.circ)
def execSlSp (d : DieNo) (n : Fin 64) (s : State) := s.on (.slice d.val) (opSlSp (slK d.val n.val))
def execSlSc (d : DieNo) (n : Fin 64) (s : State) := s.on (.slice d.val) (opSlSc (slK d.val n.val))
def execSlLcsp (d : DieNo) (n : Fin 64) (up : Bool) (s : State) := s.on (.slice d.val) (opSlLcsp (slK d.val n.val) up)
def execSlHalt (d : DieNo) (n : Fin 64) (s : State) := s.on (.slice d.val) (opSlHalt (slK d.val n.val))
def execSlWait (d : DieNo) (n : Fin 64) (s : State) := s.on (.slice d.val) (opSlWait (slK d.val n.val))
def execSlReti (d : DieNo) (n : Fin 64) (s : State) := s.on (.slice d.val) (opSlReti (slK d.val n.val))
def execSlBr (d : DieNo) (n : Fin 64) (s : State) := s.on (.slice d.val) (opSlBr (slK d.val n.val))
def execSlBz (d : DieNo) (n : Fin 64) (s : State) := s.on (.slice d.val) (opSlBz (slK d.val n.val))
def execSlBnz (d : DieNo) (n : Fin 64) (s : State) := s.on (.slice d.val) (opSlBnz (slK d.val n.val))
def execSlBlt (d : DieNo) (n : Fin 64) (s : State) := s.on (.slice d.val) (opSlBlt (slK d.val n.val))
def execSlBge (d : DieNo) (n : Fin 64) (s : State) := s.on (.slice d.val) (opSlBge (slK d.val n.val))
def execSlLoop (d : DieNo) (n : Fin 64) (s : State) := s.on (.slice d.val) (opSlLoop (slK d.val n.val))
def execSlLoopi (d : DieNo) (n : Fin 64) (s : State) := s.on (.slice d.val) (opSlLoopi (slK d.val n.val))
def execSlAdd (d : DieNo) (n : Fin 64) (s : State) := s.on (.slice d.val) (opSlAdd (slK d.val n.val))
def execSlSub (d : DieNo) (n : Fin 64) (s : State) := s.on (.slice d.val) (opSlSub (slK d.val n.val))
def execSlAnd (d : DieNo) (n : Fin 64) (s : State) := s.on (.slice d.val) (opSlAnd (slK d.val n.val))
def execSlOr (d : DieNo) (n : Fin 64) (s : State) := s.on (.slice d.val) (opSlOr (slK d.val n.val))
def execSlXor (d : DieNo) (n : Fin 64) (s : State) := s.on (.slice d.val) (opSlXor (slK d.val n.val))
def execSlSha (d : DieNo) (n : Fin 64) (s : State) := s.on (.slice d.val) (opSlSha (slK d.val n.val))
def execSlCadd (d : DieNo) (n : Fin 64) (s : State) := s.on (.slice d.val) (opSlCadd (slK d.val n.val))
def execSlCsub (d : DieNo) (n : Fin 64) (s : State) := s.on (.slice d.val) (opSlCsub (slK d.val n.val))
def execSlAddi (d : DieNo) (n : Fin 64) (s : State) := s.on (.slice d.val) (opSlAddi (slK d.val n.val))
def execSlMovi (d : DieNo) (n : Fin 64) (s : State) := s.on (.slice d.val) (opSlMovi (slK d.val n.val))
def execSlMovhi (d : DieNo) (n : Fin 64) (s : State) := s.on (.slice d.val) (opSlMovhi (slK d.val n.val))
def execSlNorm (d : DieNo) (n : Fin 64) (s : State) := s.on (.slice d.val) (opSlNorm (slK d.val n.val))
def execSlNormv (d : DieNo) (n : Fin 64) (s : State) := s.on (.slice d.val) (opSlNormv (slK d.val n.val))
def execSlExp (d : DieNo) (n : Fin 64) (s : State) := s.on (.slice d.val) (opSlExp (slK d.val n.val))
def execSlMtc (d : DieNo) (n : Fin 64) (s : State) := s.on (.slice d.val) (opSlMtc (slK d.val n.val))
def execSlMfc (d : DieNo) (n : Fin 64) (s : State) := s.on (.slice d.val) (opSlMfc (slK d.val n.val))
def execSlAadd (d : DieNo) (n : Fin 64) (s : State) := s.on (.slice d.val) (opSlAadd (slK d.val n.val))
def execSlFrd (d : DieNo) (n : Fin 64) (s : State) := s.on (.slice d.val) (opSlFrd (slK d.val n.val))
def execSlFclr (d : DieNo) (n : Fin 64) (s : State) := s.on (.slice d.val) (opSlFclr (slK d.val n.val))
def execSlArst (d : DieNo) (n : Fin 64) (s : State) := s.on (.slice d.val) (opSlArst (slK d.val n.val))
def execSlAgetv (d : DieNo) (n : Fin 64) (s : State) := s.on (.slice d.val) (opSlAgetv (slK d.val n.val))
def execSlAgeti (d : DieNo) (n : Fin 64) (s : State) := s.on (.slice d.val) (opSlAgeti (slK d.val n.val))
def execSlAfeed (d : DieNo) (n : Fin 64) (s : State) := s.on (.slice d.val) (opSlAfeed (slK d.val n.val))
def execSlOut (d : DieNo) (n : Fin 64) (s : State) := s.on (.slice d.val) (opSlOut (slK d.val n.val))
def execSlXfer (d : DieNo) (n : Fin 64) (s : State) := s.on (.slice d.val) (opSlXfer (slK d.val n.val))
def execXferEnd (d : DieNo) (n : Fin 64) (s : State) := s.on (.slice d.val) (opXferEnd (slK d.val n.val))
def execSlInterrupt (d : DieNo) (n : Fin 64) (s : State) := s.on (.slice d.val) (opSlInterrupt (slK d.val n.val))
def execSlIngressWord (d : DieNo) (n : Fin 64) (ws : List Word) (same : Bool) (s : State) :=
  s.on (.slice d.val) (opSlIngressWord (slK d.val n.val) (ws.map BitVec.toNat) same)
def execSlTimerExpiry (d : DieNo) (n : Fin 64) (s : State) := s.on (.slice d.val) (opSlTimerExpiry (slK d.val n.val))
def execSlFabricIrq (d : DieNo) (n : Fin 64) (line : Fin 2) (s : State) := s.on (.slice d.val) (opSlFabricIrq (slK d.val n.val) line.val)
def execSlIrqRaise (d : DieNo) (n : Fin 64) (who : Nat) (mask : Fin 256) (s : State) := s.on (.slice d.val) (opSlIrqRaise (slK d.val n.val) who mask.val)
def execSlCtrlRun (d : DieNo) (n : Fin 64) (who : Nat) (run : Bool) (s : State) := s.on (.slice d.val) (opSlCtrlRun (slK d.val n.val) who run)
def execSlExternalAccess (d : DieNo) (n : Fin 64) (who : Nat) (off : Fin 0x20000) (len : Nat) (w : Option (List Byte × List Bool)) (same : Bool)
    (s : State) := s.on (.slice d.val) (opSlExternalAccess (slK d.val n.val) who off.val len w same)
def execSliceEgressTransfer (d : DieNo) (n : Fin 64) (s : State) := s.on (.slice d.val) (opSliceEgressTransfer (slK d.val n.val))

end Sys2Proof.Machine
end

