-- ==== Sys2Proof/Machine/Lanes.lean ====
section
/-! DEFINITION. Serial lanes and frame ports (chapter 14) and the lane loopbacks (18 R432). A lane is numbered n = 48 × d + i, a frame
port p = 6 × d + k. -/

namespace Sys2Proof.Machine

def lnIx (n : Nat) : Nat := ix (n / 48) (n % 48) 0 0
def fpIx (p : Nat) : Nat := ix (p / 6) (p % 6) 0 0
def Mach.lane (m : Mach) (n : Nat) : Lane := SMap.get Lane.init n m.lanes
def Mach.setLane (m : Mach) (n : Nat) (x : Lane) : Mach := { m with lanes := SMap.put Lane.init n x m.lanes }
def Mach.port (m : Mach) (p : Nat) : FramePort := SMap.get FramePort.init p m.ports
def Mach.setPort (m : Mach) (p : Nat) (x : FramePort) : Mach := { m with ports := SMap.put FramePort.init p x m.ports }

/-- Lane states (Table 14-3). -/
def lsDisabled : Nat := 0
def lsDetect : Nat := 1
def lsTrain : Nat := 2
def lsBitLock : Nat := 3
def lsBlockLock : Nat := 4
def lsCaps : Nat := 5
def lsStep : Nat := 6
def lsActive : Nat := 7
def lsDown : Nat := 8
def lsRecal : Nat := 9

def Mach.lnState (m : Mach) (n : Nat) : Nat := m.rd F.lnStatusState (lnIx n)
def lmRaw : Nat := 1
def lmFrame : Nat := 2
def Mach.lnMode (m : Mach) (n : Nat) : Nat := m.rd F.lnCfgMode (lnIx n)
def Mach.lnLoops (m : Mach) (n : Nat) : Bool := m.rd F.lnLoopMode (lnIx n) != 0

/-- The region of a lane's quad is region q (R328). -/
def lnRegion (n : Nat) : Nat := n % 48 / 4
def Mach.lnFenced (m : Mach) (n : Nat) : Bool := m.on F.frStatusFenced (rgnIx (n / 48) (lnRegion n))

/-- Whether start-up has handed a die's transmitters to LINK (13 Table 13-6 step 4). -/
def Mach.handed (m : Mach) (d : Nat) : Bool := SMap.get 0 (1000 + d) m.fab.step != 0

/-- Who may write the lanes and frame ports block (R352): LINK, HEALTH, ALMANAC, the die's steward, the test port. -/
def laneWho (d who : Nat) : Bool := who == idLink || who == idHealth || who == idAlmanac || who == idSteward d || who == idTest

/-- The lane timer's and the frame port's clock: LANTERN_TIME of the die (R349). -/
def Mach.lantern48 (m : Mach) (d : Nat) : Nat := m.rd F.lanternTimeHi d * 2 ^ 32 + m.rd F.lanternTimeLo d

/-! Frame ports (R345 to R351) -/

/-- The lanes of a port's group. -/
def Mach.fpLanes (m : Mach) (p : Nat) : List Nat := upFrom (48 * (p / 6) + 8 * (p % 6)) (2 ^ m.rd F.fpCtrlLanes (fpIx p))

/-- The port a lane belongs to while it is in its group. -/
def Mach.fpOf (m : Mach) (n : Nat) : Option Nat :=
  let p := 6 * (n / 48) + n % 48 / 8
  if m.lnMode n = lmFrame ∧ n % 8 < 2 ^ m.rd F.fpCtrlLanes (fpIx p) then some p else none

/-- ALIGNED, IDLE and IN_FRAME (Table 14-10). -/
def Mach.fpAligned (m : Mach) (p : Nat) : Bool :=
  let ls := m.fpLanes p
  ls.all (fun n => m.lnState n == lsActive) && (decide (ls.length = 1) || !(m.port p).order.isEmpty)
def Mach.fpIdle (m : Mach) (p : Nat) : Bool := (m.port p).frame.isNone && (m.port p).ended.isEmpty && (m.port p).writes.isEmpty
def Mach.fpStopped (m : Mach) (p : Nat) : Bool := !m.on F.fpCtrlEn (fpIx p) && m.fpIdle p

/-- Whether a frame's writes may go out: the event of every frame before it has been sent (R349). -/
def FramePort.mayWrite (x : FramePort) (buf : Nat) : Bool :=
  match x.ended with
  | [] => true
  | f :: _ => f.buf == buf

/-- Bytes of a frame counted as written. -/
def FramePort.wrote (x : FramePort) (buf n : Nat) : FramePort :=
  let add (f : Frame) : Frame := if f.buf = buf then { f with bytes := f.bytes + n } else f
  { x with frame := x.frame.map add, ended := x.ended.map add }

/-- What a frame still has to write or to get back from the tap. -/
def FramePort.forget (x : FramePort) (buf : Nat) : FramePort :=
  { x with writes := x.writes.filter (fun w => w.1 != buf), tapQ := x.tapQ.filter (fun w => w.1 != buf), tapOut := x.tapOut.filter (fun w => w.1 != buf) }

/-- A frame ends with a status (Table 14-6); with one other than OK, CRC_FAIL and SHAPE at its end, nothing more of it is written. -/
def Mach.fpEnd (m : Mach) (p status : Nat) : Mach :=
  let x := m.port p
  match x.frame with
  | none => m
  | some f =>
    let y := { x with frame := none, ended := x.ended ++ [{ f with status := status, stop := m.lantern48 (p / 6), cur := [] }] }
    m.setPort p (if status = 0 ∨ status = 1 then y else y.forget f.buf)

/-- A frame that has ended OK turns out otherwise. -/
def Mach.fpFail (m : Mach) (p buf status : Nat) : Mach :=
  let x := m.port p
  if x.frame.any (fun f => f.buf == buf) then m.fpEnd p status
  else m.setPort p (({ x with ended := x.ended.map (fun f => if f.buf = buf then { f with status := max status f.status } else f) } : FramePort).forget buf)

/-- The writes that can go out now, oldest first; an error response ends the frame with OVERFLOW. -/
def Mach.fpFlush (m : Mach) (p : Nat) : Nat → Mach
  | 0 => m
  | n + 1 =>
    let x := m.port p
    match x.writes with
    | [] => m
    | (buf, a, data) :: l =>
      if !x.mayWrite buf ∨ !m.on F.nocCtrlRun (p / 6) then m
      else
        let who := idFrame (p / 6) (p % 6)
        match (m.spanSay who a data.length).1 with
        | .ok => ((m.writeAt a data).setPort p (({ x with writes := l } : FramePort).wrote buf data.length)).fpFlush p n
        | .wait => m
        | _ => ((m.unitRefuse who a).fpFail p buf 3).fpFlush p n

/-- Lines pass to the tap while the fabric's fences are open, at most four being held (R348). -/
def Mach.fpTap (m : Mach) (p : Nat) : Nat → Mach
  | 0 => m
  | n + 1 =>
    let x := m.port p
    match x.tapQ with
    | [] => m
    | (buf, line, data) :: l =>
      if m.on F.frStatusFenced (rgnIx (p / 6) (2 * (p % 6))) ∨ 4 ≤ x.tapOut.length then m
      else ((m.setPort p { x with tapQ := l, tapOut := x.tapOut ++ [(buf, line)] }).send (.tapLine (p / 6) (p % 6) data)).fpTap p n

/-- What stands in the receive store. -/
def FramePort.store (x : FramePort) : Nat :=
  x.writes.foldl (fun a w => a + w.2.2.length) 0 + x.tapQ.foldl (fun a w => a + w.2.2.length) 0 + (match x.frame with
    | some f => f.cur.length
    | none => 0)

/-- The port moves what it can; a receive store of more than 64 KiB ends the frame with OVERFLOW. -/
def Mach.fpPump (m : Mach) (p : Nat) : Mach :=
  let x := m.port p
  let m1 := m.fpTap p x.tapQ.length
  let m2 := m1.fpFlush p ((m1.port p).writes.length)
  if 65536 < (m2.port p).store then m2.fpEnd p 3 else m2

/-- Where line l's word w of a frame stands (R347). -/
def Mach.fpAddr (m : Mach) (p buf line off : Nat) : Nat :=
  let q := fpIx p
  m.rd F.fpBufBaseHi q * 2 ^ 32 + 64 * m.rd F.fpBufBaseLo q + buf % max 1 (m.rd F.fpBufCount q) * (64 * m.rd F.fpBufStride q) +
  8 * line * m.rd F.fpShapeLineWords q + off

/-- A FRAME_START (R346, R347). -/
def Mach.fpStart (m : Mach) (p no : Nat) : Mach :=
  let q := fpIx p
  let m1 := m.fpEnd p 2
  let x := m1.port p
  let buf := (m1.rd F.fpWr q + x.ended.length) % 65536
  if (buf + 65536 - m1.rd F.fpRd q) % 65536 = m1.rd F.fpBufCount q then
    ((m1.setPort p { x with overruns := x.overruns + 1 }).cnt F.fpOverruns q 1).ev F.fpEventsOverrun q
  else
    m1.setPort p { x with frame := some { no := no, buf := buf, start := m1.lantern48 (p / 6), stop := 0, line := 0, words := 0, inLine := false,
                                          crc := 0xFFFFFFFF, status := 0, hdrBad := false, bytes := 0, cur := [] } }

/-- A LINE_START. -/
def Mach.fpLine (m : Mach) (p line : Nat) : Mach :=
  let x := m.port p
  match x.frame with
  | none => m
  | some f =>
    if f.inLine ∨ line ≠ f.line ∨ m.rd F.fpShapeLines (fpIx p) ≤ f.line then m.fpEnd p 2
    else m.setPort p { x with frame := some { f with inLine := true, words := 0, cur := [] } }

/-- A data block of a frame: its payload joins the CRC and is written, or joins the line for the tap. -/
def Mach.fpData (m : Mach) (p v : Nat) : Mach :=
  let x := m.port p
  match x.frame with
  | none => m
  | some f =>
    if !f.inLine then m.fpEnd p 2
    else
      let bytes := leBytes 8 v
      let lw := m.rd F.fpShapeLineWords (fpIx p)
      let crc := bytes.foldl (fun c b => crcBit 0xEDB88320 8 (c ^^^ b.toNat)) f.crc
      let full := decide (lw ≤ f.words + 1)
      let tap := m.on F.fpCtrlTapEn (fpIx p)
      let f1 := { f with crc := crc, words := f.words + 1, inLine := !full, line := if full then f.line + 1 else f.line,
                         cur := if tap && !full then f.cur ++ bytes else [] }
      let y := { x with frame := some f1 }
      if tap then (m.setPort p (if full then { y with tapQ := y.tapQ ++ [(f.buf, f.line, f.cur ++ bytes)] } else y)).fpPump p
      else (m.setPort p { y with writes := y.writes ++ [(f.buf, m.fpAddr p f.buf f.line (8 * f.words), bytes)] }).fpPump p

/-- A FRAME_END. -/
def Mach.fpStop (m : Mach) (p crc : Nat) : Mach :=
  match (m.port p).frame with
  | none => m
  | some f =>
    if f.inLine ∨ f.line ≠ m.rd F.fpShapeLines (fpIx p) then m.fpEnd p 2
    else if f.hdrBad ∨ 0xFFFFFFFF ^^^ f.crc ≠ crc then m.fpEnd p 1
    else m.fpEnd p 0

/-- A block of the stream, in its order (R346): outside a frame all but FRAME_START is discarded; a reserved control block is counted. -/
def Mach.fpBlock (m : Mach) (p n : Nat) (b : LnBlk) : Mach :=
  match b with
  | .data v => m.fpData p v
  | .ctrl v =>
    let type := v % 256
    if type = 0x4B then m.fpStart p (v / 256 % 2 ^ 32)
    else if type = 0x55 then m.fpLine p (v / 256 % 65536)
    else if type = 0x66 then m.fpStop p (v / 256 % 2 ^ 32)
    else if type = 0x78 then m
    else m.cnt F.lnHdrErrs (lnIx n) 1
  | .bad => (match (m.port p).frame with
    | none => m
    | some f => m.setPort p { (m.port p) with frame := some { f with hdrBad := true } })
  | .align _ _ => m

/-- Whether every lane of a group has an ALIGN at its head. -/
def headAlign (x : Lane) : Option Nat :=
  match x.fifo with
  | .align i _ :: _ => some i
  | _ => none

def Mach.laneDrop (m : Mach) (n : Nat) : Mach := m.setLane n { (m.lane n) with fifo := (m.lane n).fifo.drop 1 }

/-- The deskewed stream (R345): blocks leave the lanes in rotation; when every lane's next is an ALIGN, these order the lanes. Before the first
ALIGN the stream is discarded. -/
def Mach.fpDrain (m : Mach) (p : Nat) : Nat → Mach
  | 0 => m
  | fuel + 1 =>
    let ls := m.fpLanes p
    let x := m.port p
    let heads := ls.map (fun n => headAlign (m.lane n))
    if heads.all Option.isSome then
      let order := (upFrom 0 ls.length).filterMap (fun j => ls.find? (fun n => headAlign (m.lane n) == some j))
      let m1 := ls.foldl (fun m n => m.laneDrop n) m
      (m1.setPort p { x with order := if order.length = ls.length then order else [], turn := 0 }).fpDrain p fuel
    else if x.order.isEmpty then
      match ls.find? (fun n => (headAlign (m.lane n)).isNone && !(m.lane n).fifo.isEmpty) with
      | none => m
      | some n => (m.laneDrop n).fpDrain p fuel
    else
      let n := nth 0 x.order x.turn
      match (m.lane n).fifo with
      | [] => m
      | .align _ _ :: _ => m
      | b :: _ => (((m.laneDrop n).setPort p { x with turn := (x.turn + 1) % x.order.length }).fpBlock p n b).fpDrain p fuel

/-- A block arrives at a frame port on one of its lanes; skew of more than 64 blocks loses the alignment. -/
def Mach.fpArrive (m : Mach) (p n : Nat) (b : LnBlk) : Mach :=
  if !m.on F.fpCtrlEn (fpIx p) then m
  else if m.rd F.fpCtrlLanes (fpIx p) = 0 then (match b with
    | .align _ _ => m
    | _ => m.fpBlock p n b)
  else
    let m1 := m.setLane n { (m.lane n) with fifo := (m.lane n).fifo ++ [b] }
    let total := (m1.fpLanes p).foldl (fun a n => a + (m1.lane n).fifo.length) 0
    let m2 := m1.fpDrain p (total + 1)
    if (m2.fpLanes p).any (fun n => decide (64 < (m2.lane n).fifo.length)) then
      let m3 := (m2.fpLanes p).foldl (fun m n => m.setLane n { (m.lane n) with fifo := [] }) m2
      (m3.setPort p { (m3.port p) with order := [], turn := 0 }).ev F.fpEventsDeskew (fpIx p)
    else m2

/-- TAP_LINE_RETURN (R348). -/
def opTapLineReturn (p : Nat) (data : List Byte) (shape : Bool) (m : Mach) : Mach :=
  let x := m.port p
  match x.tapOut with
  | [] => m
  | (buf, line) :: l =>
    if m.on F.frStatusFenced (rgnIx (p / 6) (2 * (p % 6))) then m
    else
      let m1 := m.setPort p { x with tapOut := l }
      if shape ∨ data.length ≠ 8 * m.rd F.fpShapeLineWords (fpIx p) then m1.fpFail p buf 2
      else (m1.setPort p { (m1.port p) with writes := x.writes ++ [(buf, m.fpAddr p buf line 0, data)] }).fpPump p

/-- The events bit of a status. -/
def fpEventFld (status : Nat) : Option Fld :=
  if status = 1 then some F.fpEventsCrcFail else if status = 2 then some F.fpEventsShape else if status = 3 then some F.fpEventsOverflow
  else if status = 4 then some F.fpEventsLockLost else none

/-- FRAME_EVENT (R349): the oldest frame that has ended, once its writes are acknowledged. -/
def opFrameEvent (p : Nat) (m0 : Mach) : Mach :=
  let m := m0.fpPump p
  let q := fpIx p
  let x := m.port p
  match x.ended with
  | [] => m
  | f :: l =>
    if x.writes.any (fun w => w.1 == f.buf) || x.tapQ.any (fun w => w.1 == f.buf) || x.tapOut.any (fun w => w.1 == f.buf) then m
    else
      let lw := 8 * m.rd F.fpShapeLineWords q
      let bytes := leBytes 2 (m.rd F.fpEventTag q) ++ leBytes 1 0x10 ++ leBytes 1 f.status ++ leBytes 2 p ++ leBytes 2 f.buf ++ leBytes 4 f.no ++
        leBytes 4 (f.bytes / max 1 lw) ++ leBytes 6 f.start ++ leBytes 6 f.stop ++ leBytes 4 x.overruns ++ leBytes 4 f.bytes ++ List.replicate 28 (0 : Byte)
      let m1 := (m.setPort p { x with ended := l, overruns := 0 }).mail (idFrame (p / 6) (p % 6)) (m.rd F.fpEventMailbox q)
        ((upFrom 0 16).map (fun i => leNat ((bytes.drop (4 * i)).take 4)))
      let m2 := (m1.wrap F.fpWr q 1).wrap F.fpFrames q 1
      let m3 := match fpEventFld f.status with
        | some fld => (m2.ev fld q).cnt F.fpBad q 1
        | none => m2
      m3.fpPump p

/-- FP_RD_WRITE (R347): one that would pass COUNT is ignored. -/
def Mach.fpRdWrite (m : Mach) (p v : Nat) : Mach :=
  let q := fpIx p
  if m.rd F.fpBufCount q < (m.rd F.fpWr q + 65536 - v) % 65536 then m else m.wr F.fpRd q v

def opFpRdWrite (p who v : Nat) (m : Mach) : Mach := m.permit (laneWho (p / 6) who) who (fun m => m.fpRdWrite p v)

/-- FP_CTRL_EN (R351). -/
def Mach.fpEn (m : Mach) (p : Nat) (en : Bool) : Mach :=
  let q := fpIx p
  if !en then (m.wr F.fpCtrlEn q 0).fpEnd p 4
  else if m.on F.fpCtrlEn q then m
  else if (m.fpLanes p).any (fun n => m.lnMode n != lmFrame) || decide (64 * m.rd F.fpBufStride q < 8 * m.rd F.fpShapeLines q * m.rd F.fpShapeLineWords q) ||
       m.rd F.fpBufCount q == 0 || (m.on F.fpCtrlTapEn q && m.rd F.fpShapeLineWords q % 2 == 1) then m.ev F.fpEventsCfgRefused q
  else (m.setPort p { (m.port p) with order := [], turn := 0 }).wr F.fpCtrlEn q 1

def opFpCtrlEn (p who : Nat) (en : Bool) (m : Mach) : Mach := m.permit (laneWho (p / 6) who) who (fun m => m.fpEn p en)

/-! Bring-up (R334 to R341) -/

/-- A lane leaves ACTIVE: a frame port that uses it loses its frame and its alignment. -/
def Mach.lnLost (m : Mach) (n : Nat) : Mach :=
  match m.fpOf n with
  | none => m
  | some p =>
    let m1 := m.fpEnd p 4
    (m1.fpLanes p).foldl (fun m n => m.setLane n { (m.lane n) with fifo := [] }) (m1.setPort p { (m1.port p) with order := [], turn := 0 })

/-- A lane enters a state. -/
def Mach.lnGo (m : Mach) (n st : Nat) : Mach :=
  let q := lnIx n
  let m1 := if m.lnState n = lsActive ∧ st ≠ lsActive then m.lnLost n else m
  let m2 := m1.wr F.lnStatusState q st
  if st = lsActive then m2.ev F.lnEventsActive q
  else if st = lsBlockLock then (m2.setLane n { (m2.lane n) with hdrs := 0, run := 0 }).wr F.lnStatusBlockLock q 0
  else if st = lsCaps then m2.setLane n { (m2.lane n) with ack := false, caps := 0, same := 0 }
  else m2.wr F.lnStatusBlockLock q 0

/-- Whether a rate is a PAM4 rate. -/
def pam4 (rate : Nat) : Bool := rate == 5 || rate == 6

/-- A lane sends bits: the symbols on the line, and the level they end on. -/
def Mach.lnBits (m : Mach) (n : Nat) (blocks : List (Bool × Nat)) (bits : List Bool) : Mach :=
  let q := lnIx n
  let pam := pam4 (m.rd F.lnStatusRate q)
  let pre := m.on F.lnStatusPrecodeTx q
  let x := m.lane n
  let sent := symbols pam pre false x.level bits
  (m.setLane n { x with level := if pam then (sent.getLast?).getD x.level else x.level }).send
    (.laneTx (n / 48) (n % 48) blocks (symbols pam pre (m.on F.lnCfgTxInvert q) x.level bits))

/-- At least one IDLE in every 8,192 blocks sent (R333). -/
def withIdles : Nat → List (Bool × Nat) → Nat × List (Bool × Nat)
  | c, [] => (c, [])
  | c, b :: l =>
    if b = (true, 0x1E) then (let r := withIdles 0 l; (r.1, b :: r.2))
    else if 8191 ≤ c then (let r := withIdles 1 l; (r.1, (true, 0x1E) :: b :: r.2))
    else (let r := withIdles (c + 1) l; (r.1, b :: r.2))

/-- A lane sends blocks, scrambled. -/
def Mach.lnSend (m : Mach) (n : Nat) (blocks : List (Bool × Nat)) : Mach :=
  let x := m.lane n
  let w := withIdles x.sent blocks
  let s := blocksBits x.scr w.2
  (m.setLane n { x with scr := s.1, sent := w.1 }).lnBits n w.2 s.2

/-- The CAPABILITY block a lane sends, with IDLE blocks up to the next (R336): its masks, its loss estimate, and ROLE 2 from a FRAME-mode
lane, which is of its port's group. -/
def Mach.lnCaps (m : Mach) (n : Nat) : Mach :=
  let q := lnIx n
  let ours := m.rd F.lnCfgRateMask q - (m.rd F.lnCfgRateMask q &&& m.rd F.lnStatusFailedMask q)
  let frame := m.lnMode n == lmFrame
  m.lnSend n ((true, capsBlock ours (m.on F.lnCfgPrecodeReq q) (if frame then 2 else 0) (m.lane n).ack (m.rd F.lnLossDbX2 q) (if frame then n % 8 else 0)
    (if frame then m.rd F.fpCtrlLanes (fpIx (6 * (n / 48) + n % 48 / 8)) else 0)) :: List.replicate 15 (true, 0x1E))

/-- STEP toward a rate: 16 STEP blocks (Table 14-3). -/
def Mach.lnStep (m : Mach) (n target : Nat) : Mach :=
  ((m.setLane n { (m.lane n) with target := target }).lnSend n (List.replicate 16 (true, 0x3C + 256 * target))).lnGo n lsStep

/-- Precoding in each direction, by what its receiver has asked for (R332). -/
def Mach.lnPrecode (m : Mach) (n rate : Nat) : Mach :=
  let q := lnIx n
  (m.wr F.lnStatusPrecodeTx q (b2n (pam4 rate && (m.lane n).asked))).wr F.lnStatusPrecodeRx q (b2n (pam4 rate && m.on F.lnCfgPrecodeReq q))

/-- TRAIN at a rate: precoding starts from level 0 (R332). -/
def Mach.lnTrain (m : Mach) (n rate : Nat) : Mach :=
  let m1 := ((m.lnGo n lsTrain).wr F.lnStatusRate (lnIx n) rate).lnPrecode n rate
  m1.setLane n { (m1.lane n) with level := 0 }

/-- The first attempt rate: RAW_RATE for a RAW lane and for FAR loopback, else BASE_RATE. -/
def Mach.lnFirst (m : Mach) (n : Nat) : Nat :=
  let q := lnIx n
  if m.rd F.lnLoopMode q = 2 ∨ (m.rd F.lnLoopMode q = 0 ∧ m.lnMode n = lmRaw) then m.rd F.lnCfgRawRate q else m.rd F.lnCfgBaseRate q

/-- DETECT, from DISABLED or DOWN: FAILED_MASK clears; NO_DETECT and NEAR loopback go on at once. -/
def Mach.lnDetect (m : Mach) (n : Nat) : Mach :=
  let q := lnIx n
  let m1 := (m.wr F.lnStatusFailedMask q 0).lnGo n lsDetect
  if m.on F.lnCfgNoDetect q ∨ m.rd F.lnLoopMode q = 1 then m1.lnTrain n (m.lnFirst n) else m1

/-- A rate in Mbit/s × 10000 (Table 14-1), and a RAW width in bits. -/
def rateOf (code : Nat) : Nat := nth 0 [12500000, 25000000, 50000000, 103125000, 257812500, 531250000, 1062500000] code
def widthOf (w : Nat) : Nat := 32 * 2 ^ w

/-- Whether RAW conditions of R341 forbid the enable. -/
def Mach.rawConflict (m : Mach) (n : Nat) : Bool :=
  let q := lnIx n
  let mates := (upFrom (n - n % 4) 4).filter (fun j => j != n && m.on F.lnCtrlEnable (lnIx j) && m.lnMode j == lmRaw)
  m.lnMode n == lmRaw &&
    (decide (800 * 10000 * widthOf (m.rd F.lnCfgRawWidth q) < rateOf (m.rd F.lnCfgRawRate q)) ||
     mates.any (fun j => m.rd F.lnCfgRawRate (lnIx j) != m.rd F.lnCfgRawRate q || m.rd F.lnCfgRawWidth (lnIx j) != m.rd F.lnCfgRawWidth q))

/-- Setting ENABLE: it has no effect until the transmitters have been handed to LINK. -/
def Mach.lnEnable (m : Mach) (n : Nat) : Mach :=
  let q := lnIx n
  if m.on F.lnCtrlEnable q then m
  else if m.rawConflict n then m.ev F.lnEventsCfgRefused q
  else
    let m1 := m.wr F.lnCtrlEnable q 1
    if m.handed (n / 48) ∧ m.lnState n = lsDisabled then m1.lnDetect n else m1

/-- Clearing ENABLE: a recalibration completes first. -/
def Mach.lnDisable (m : Mach) (n : Nat) : Mach :=
  let m1 := m.wr F.lnCtrlEnable (lnIx n) 0
  if m.lnState n = lsRecal then m1 else m1.lnGo n lsDisabled

/-- RECAL (R340). -/
def Mach.lnRecal (m : Mach) (n : Nat) : Mach :=
  if m.lnState n = lsDisabled ∨ m.lnState n = lsDown then m.lnGo n lsRecal else m.ev F.lnEventsRecalRefused (lnIx n)

def opLaneEnable (n who : Nat) (m : Mach) : Mach := m.permit (laneWho (n / 48) who) who (fun m => m.lnEnable n)
def opLaneDisable (n who : Nat) (m : Mach) : Mach := m.permit (laneWho (n / 48) who) who (fun m => m.lnDisable n)
def opLaneRecal (n who : Nat) (m : Mach) : Mach := m.permit (laneWho (n / 48) who) who (fun m => m.lnRecal n)

def opRecalDone (n : Nat) (m : Mach) : Mach :=
  if m.lnState n = lsRecal then m.lnGo n (if m.on F.lnCtrlEnable (lnIx n) then lsDown else lsDisabled) else m

def opDetectPoll (n : Nat) (found : Bool) (m : Mach) : Mach := if m.lnState n = lsDetect ∧ found then m.lnTrain n (m.lnFirst n) else m

/-- TRAIN_SETTLED (R339): the reference clock and the signal are there. -/
def opTrainSettled (n loss : Nat) (m : Mach) : Mach :=
  let q := lnIx n
  if m.lnState n = lsTrain then (((m.wr F.lnLossDbX2 q loss).wr F.lnStatusRefOk q 1).wr F.lnStatusLos q 0).lnGo n lsBitLock else m

def opBitLockHeld (n : Nat) (m : Mach) : Mach :=
  if m.lnState n = lsBitLock then (m.wr F.lnStatusLol (lnIx n) 0).lnGo n (if m.lnMode n = lmRaw ∨ m.lnLoops n then lsActive else lsBlockLock) else m

/-- A header received from BLOCK_LOCK on (R335): the last 64, and the valid ones in a row; an invalid one moves the candidate boundary. -/
def Mach.lnHdr (m : Mach) (n : Nat) (bad : Bool) : Mach :=
  let x := m.lane n
  if lsBlockLock ≤ m.lnState n ∧ m.lnState n ≤ lsActive ∧ m.lnMode n ≠ lmRaw ∧ !m.lnLoops n then
    m.setLane n { x with hdrs := (2 * x.hdrs + b2n bad) % 2 ^ 64, run := if bad then 0 else min 64 (x.run + 1) }
  else m

/-- Bits of the headers that are set. -/
def bitCount (n v : Nat) : Nat := (upFrom 0 n).foldl (fun a i => a + b2n (bitOf i v)) 0

/-- BLOCK_LOCK_ACQUIRED: 64 valid headers in a row; the lane begins to send CAPABILITY. -/
def opBlockLockAcquired (n : Nat) (m : Mach) : Mach :=
  if m.lnState n = lsBlockLock ∧ 64 ≤ (m.lane n).run then
    let m1 := (m.lnGo n lsCaps).wr F.lnStatusBlockLock (lnIx n) 1
    (m1.setLane n { (m1.lane n) with hdrs := 0 }).lnCaps n
  else m

/-- BLOCK_LOCK_LOST: 16 of the last 64 headers were invalid. -/
def opBlockLockLost (n : Nat) (m : Mach) : Mach :=
  let q := lnIx n
  if !m.on F.lnStatusBlockLock q ∨ bitCount 64 (m.lane n).hdrs < 16 then m
  else if m.lnState n = lsActive then (m.ev F.lnEventsBlockLost q).lnGo n lsBlockLock
  else m.wr F.lnStatusBlockLock q 0

/-- BRINGUP_TIMEOUT (R336, R341). -/
def opBringupTimeout (n : Nat) (m : Mach) : Mach :=
  let q := lnIx n
  let st := m.lnState n
  let rate := m.rd F.lnStatusRate q
  if st ≠ lsTrain ∧ st ≠ lsBitLock ∧ st ≠ lsBlockLock then m
  else if m.lnMode n = lmRaw then m.lnGo n lsDown
  else if rate = m.rd F.lnCfgBaseRate q then (m.ev F.lnEventsTrainFail q).lnGo n lsDown
  else ((m.wr F.lnStatusFailedMask q (setBit rate (m.rd F.lnStatusFailedMask q))).ev F.lnEventsStepDown q).lnTrain n (m.rd F.lnCfgBaseRate q)

def opCapsTimeout (n : Nat) (m : Mach) : Mach := if m.lnState n = lsCaps then m.lnGo n lsDown else m

def opStepQuietEnd (n : Nat) (m : Mach) : Mach := if m.lnState n = lsStep then m.lnTrain n (m.lane n).target else m

def opDownRestart (n : Nat) (m : Mach) : Mach :=
  if m.lnState n = lsDown ∧ m.on F.lnCfgAutoRestart (lnIx n) ∧ m.on F.lnCtrlEnable (lnIx n) then m.lnDetect n else m

/-- From TRAIN onwards (R338). -/
def lnUp (st : Nat) : Bool := decide (lsTrain ≤ st) && decide (st ≤ lsActive)

def opLos (n : Nat) (m : Mach) : Mach :=
  let m1 := m.wr F.lnStatusLos (lnIx n) 1
  if lnUp (m.lnState n) then (m1.ev F.lnEventsLos (lnIx n)).lnGo n lsDown else m1

def Mach.lnLol (m : Mach) (n : Nat) (ref : Bool) : Mach :=
  let m0 := m.wr F.lnStatusLol (lnIx n) 1
  let m1 := if ref then m0.wr F.lnStatusRefOk (lnIx n) 0 else m0
  if lnUp (m.lnState n) then (m1.ev F.lnEventsLol (lnIx n)).lnGo n lsDown else m1

def opLol (n : Nat) (ref : Bool) (m : Mach) : Mach := if ref then (upFrom (n - n % 48) 48).foldl (fun m j => m.lnLol j true) m else m.lnLol n false

/-- The highest rate code of a mask. -/
def highRate (mask : Nat) : Option Nat := [6, 5, 4, 3, 2, 1, 0].find? (fun r => bitOf r mask)

/-- CAPABILITY (R336, R337): in CAPS a valid block, of VERSION 1, is answered with ACK; three identical blocks with ACK agree the rate. -/
def opCapability (n b : Nat) (m0 : Mach) : Mach :=
  let m := m0.lnHdr n false
  let q := lnIx n
  let x := m.lane n
  let acks := bitOf 14 b
  if bitsOf 11 8 b ≠ 1 then m
  else if m.lnState n = lsActive then
    let m1 := m.wr F.lnPartner q b
    if acks || m.lnMode n == lmRaw || m.lnLoops n then m1 else m1.lnGo n lsCaps
  else if m.lnState n ≠ lsCaps then m
  else
    let same := if acks then (if x.caps = b ∧ 0 < x.same then x.same + 1 else 1) else 0
    let m1 := (m.wr F.lnPartner q b).setLane n { x with ack := true, caps := b, same := same, asked := bitOf 7 b }
    if same < 3 then m1.lnCaps n
    else
      let ours := m.rd F.lnCfgRateMask q - (m.rd F.lnCfgRateMask q &&& m.rd F.lnStatusFailedMask q)
      match highRate (ours &&& (b % 128)) with
      | none => (m1.ev F.lnEventsTrainFail q).lnGo n lsDown
      | some r =>
        let rate := m.rd F.lnStatusRate q
        if r = rate then (m1.lnPrecode n rate).lnGo n lsActive
        else if rate < r then m1.lnStep n r
        else m1.lnCaps n

/-- STEP (R337). -/
def opStep (n target : Nat) (m : Mach) : Mach :=
  let m1 := m.lnHdr n false
  if m.lnState n = lsActive ∧ m.lnMode n ≠ lmRaw ∧ !m.lnLoops n ∧ target < 7 then m1.lnStep n target else m1

/-! Blocks (R333, R342, R343) -/

/-- Whether a lane in ACTIVE carries blocks; a loopback delivers nothing (18 R432). -/
def Mach.lnCarries (m : Mach) (n : Nat) : Bool := m.lnState n == lsActive && m.lnMode n != lmRaw && !m.lnLoops n

/-- A block for the fabric: while its fences are closed it is discarded, and a full receive queue drops it. -/
def Mach.lnToFabric (m : Mach) (n : Nat) (b : Bool × Nat) : Mach :=
  let x := m.lane n
  if m.lnFenced n then m
  else if 256 ≤ x.rx.length then m.ev F.lnEventsRxOverflow (lnIx n)
  else m.setLane n { x with rx := x.rx ++ [b] }

/-- A block received in ACTIVE. -/
def Mach.lnBlock (m : Mach) (n : Nat) (b : LnBlk) : Mach :=
  if !m.lnCarries n then m
  else if m.lnMode n = lmFrame then (match m.fpOf n with
    | none => m
    | some p => m.fpArrive p n b)
  else match b with
    | .data v => m.lnToFabric n (false, v)
    | .ctrl v => m.lnToFabric n (true, v)
    | _ => m

/-- A block with a valid header. -/
def Mach.lnGood (m : Mach) (n : Nat) (b : LnBlk) : Mach := (m.lnHdr n false).lnBlock n b

/-- IDLE_BLOCK (R333): it counts as a valid header, and nothing passes it on. -/
def opIdleBlock (n : Nat) (m : Mach) : Mach := m.lnHdr n false

def opAlignBlock (n index size : Nat) (m : Mach) : Mach := if m.lnMode n = lmFrame then m.lnGood n (.align index size) else m.lnHdr n false

/-- A word of a RAW lane reaches the fabric while the lane is ACTIVE; RX_SLIP marks the word after a slip (R341). -/
def Mach.rawRx (m : Mach) (n v : Nat) : Mach :=
  if m.lnState n ≠ lsActive ∨ m.lnFenced n then m
  else (m.setLane n { (m.lane n) with slip := false }).send (.laneRx (n / 48) (n % 48) [((m.lane n).slip, v)])

/-- A block with an invalid header is counted while the lane has block lock, and discarded (R335); a loopback's checker counts its errors. On a
RAW lane it is a word. -/
def opDataBlock (n v : Nat) (bad : Bool) (errs : Nat) (m0 : Mach) : Mach :=
  let m := m0.lnHdr n bad
  let q := lnIx n
  if m.lnLoops n then (if m.lnState n = lsActive ∧ m.on F.lnLoopCheckEn q then m.cnt F.lnPrbsErrs q errs else m)
  else if m.lnMode n = lmRaw then m.rawRx n v
  else if bad then
    if !m.on F.lnStatusBlockLock q then m
    else (let m1 := m.cnt F.lnHdrErrs q 1; if m1.lnMode n = lmFrame then m1.lnBlock n .bad else m1)
  else m.lnBlock n (.data v)

/-- A control block that Table 14-2 gives no row of its own. -/
def opUser (n v : Nat) (m : Mach) : Mach :=
  if [0x1E, 0x2D, 0x33, 0x3C, 0x4B, 0x55, 0x66].contains (v % 256) then m else m.lnGood n (.ctrl v)

def opFrameStart (n no : Nat) (m : Mach) : Mach := m.lnGood n (.ctrl (0x4B + 256 * no))
def opLineStart (n line : Nat) (m : Mach) : Mach := m.lnGood n (.ctrl (0x55 + 256 * line))
def opFrameEnd (n crc : Nat) (m : Mach) : Mach := m.lnGood n (.ctrl (0x66 + 256 * crc))

/-- RAW_SLIP (R341): RX_SLIP marks the next word. -/
def opRawSlip (n : Nat) (m : Mach) : Mach :=
  if m.lnMode n = lmRaw ∧ m.lnState n = lsActive ∧ !m.lnLoops n then (m.setLane n { (m.lane n) with slip := true }).cnt F.lnSlips (lnIx n) 1 else m

/-- Blocks per fabric word (Table 14-1). -/
def blocksPer (rate : Nat) : Nat := if rate = 6 then 4 else if rate = 5 then 2 else 1

/-- RXB_TRANSFER. -/
def opRxbTransfer (n : Nat) (m : Mach) : Mach :=
  let x := m.lane n
  let w := blocksPer (m.rd F.lnStatusRate (lnIx n))
  if m.lnFenced n ∨ m.lnMode n ≠ 0 ∨ x.rx.length < w then m
  else (m.setLane n { x with rx := x.rx.drop w }).send (.laneRx (n / 48) (n % 48) (x.rx.take w))

/-- A control block of a type that is not passed is sent as IDLE. -/
def txBlock (b : Bool × Nat) : Bool × Nat := if b.1 ∧ [0x1E, 0x2D, 0x33, 0x3C].contains (b.2 % 256) then (true, 0x1E) else b

/-- TXB_TRANSFER (R341 to R343): a word's time on the line. A BLOCK-mode lane sends the word of blocks the fabric offers, or IDLE blocks where
it offers none or its fences are closed. A RAW lane sends the fabric's word from DETECT on; behind closed fences it sends a test pattern. -/
def opTxbTransfer (n : Nat) (bs : List (Bool × Nat)) (m : Mach) : Mach :=
  let w := blocksPer (m.rd F.lnStatusRate (lnIx n))
  let st := m.lnState n
  if m.lnLoops n then m
  else if m.lnMode n = lmRaw then
    if m.lnFenced n ∨ st < lsDetect ∨ lsActive < st then m
    else m.lnBits n [] (((bs.flatMap (fun b => (upFrom 0 64).map (fun i => bitOf i b.2)))).take (widthOf (m.rd F.lnCfgRawWidth (lnIx n))))
  else if m.lnMode n ≠ 0 ∨ !m.lnCarries n then m
  else if bs = [] ∨ m.lnFenced n then m.lnSend n (List.replicate w (true, 0x1E))
  else if bs.length ≠ w then m
  else m.lnSend n (bs.map txBlock)

/-! The meanings -/

def lnK (d i : Nat) : Nat := 48 * d + i

def execLaneEnable (d : DieNo) (i : Fin 48) (who : Nat) (s : State) := s.on .uncore (opLaneEnable (lnK d.val i.val) who)
def execLaneDisable (d : DieNo) (i : Fin 48) (who : Nat) (s : State) := s.on .uncore (opLaneDisable (lnK d.val i.val) who)
def execLaneRecal (d : DieNo) (i : Fin 48) (who : Nat) (s : State) := s.on .uncore (opLaneRecal (lnK d.val i.val) who)
def execRecalDone (d : DieNo) (i : Fin 48) (s : State) := s.on .uncore (opRecalDone (lnK d.val i.val))
def execDetectPoll (d : DieNo) (i : Fin 48) (found : Bool) (s : State) := s.on .uncore (opDetectPoll (lnK d.val i.val) found)
def execTrainSettled (d : DieNo) (i : Fin 48) (loss : Fin 81) (s : State) := s.on .uncore (opTrainSettled (lnK d.val i.val) loss.val)
def execBitLockHeld (d : DieNo) (i : Fin 48) (s : State) := s.on .uncore (opBitLockHeld (lnK d.val i.val))
def execBlockLockAcquired (d : DieNo) (i : Fin 48) (s : State) := s.on .uncore (opBlockLockAcquired (lnK d.val i.val))
def execBlockLockLost (d : DieNo) (i : Fin 48) (s : State) := s.on .uncore (opBlockLockLost (lnK d.val i.val))
def execBringupTimeout (d : DieNo) (i : Fin 48) (s : State) := s.on .uncore (opBringupTimeout (lnK d.val i.val))
def execCapsTimeout (d : DieNo) (i : Fin 48) (s : State) := s.on .uncore (opCapsTimeout (lnK d.val i.val))
def execStepQuietEnd (d : DieNo) (i : Fin 48) (s : State) := s.on .uncore (opStepQuietEnd (lnK d.val i.val))
def execDownRestart (d : DieNo) (i : Fin 48) (s : State) := s.on .uncore (opDownRestart (lnK d.val i.val))
def execLos (d : DieNo) (i : Fin 48) (s : State) := s.on .uncore (opLos (lnK d.val i.val))
def execLol (d : DieNo) (i : Fin 48) (ref : Bool) (s : State) := s.on .uncore (opLol (lnK d.val i.val) ref)
def execIdleBlock (d : DieNo) (i : Fin 48) (s : State) := s.on .uncore (opIdleBlock (lnK d.val i.val))
def execAlignBlock (d : DieNo) (i : Fin 48) (index : Fin 8) (size : Fin 4) (s : State) := s.on .uncore (opAlignBlock (lnK d.val i.val) index.val size.val)
def execCapability (d : DieNo) (i : Fin 48) (b : Word) (s : State) := s.on .uncore (opCapability (lnK d.val i.val) b.toNat)
def execStep (d : DieNo) (i : Fin 48) (target : Fin 8) (s : State) := s.on .uncore (opStep (lnK d.val i.val) target.val)
def execDataBlock (d : DieNo) (i : Fin 48) (v : BitVec 64) (bad : Bool) (errs : Nat) (s : State) := s.on .uncore (opDataBlock (lnK d.val i.val) v.toNat bad errs)
def execUser (d : DieNo) (i : Fin 48) (v : BitVec 64) (s : State) := s.on .uncore (opUser (lnK d.val i.val) v.toNat)
def execRawSlip (d : DieNo) (i : Fin 48) (s : State) := s.on .uncore (opRawSlip (lnK d.val i.val))
def execFrameStart (d : DieNo) (i : Fin 48) (no : Word) (s : State) := s.on .uncore (opFrameStart (lnK d.val i.val) no.toNat)
def execLineStart (d : DieNo) (i : Fin 48) (line : Fin 65536) (s : State) := s.on .uncore (opLineStart (lnK d.val i.val) line.val)
def execFrameEnd (d : DieNo) (i : Fin 48) (crc : Word) (s : State) := s.on .uncore (opFrameEnd (lnK d.val i.val) crc.toNat)
def execTapLineReturn (d : DieNo) (k : Fin 6) (data : List Byte) (shape : Bool) (s : State) := s.on .uncore (opTapLineReturn (6 * d.val + k.val) data shape)
def execFrameEvent (d : DieNo) (k : Fin 6) (s : State) := s.on .uncore (opFrameEvent (6 * d.val + k.val))
def execFpRdWrite (d : DieNo) (k : Fin 6) (who : Nat) (v : Fin 65536) (s : State) := s.on .uncore (opFpRdWrite (6 * d.val + k.val) who v.val)
def execFpCtrlEn (d : DieNo) (k : Fin 6) (who : Nat) (en : Bool) (s : State) := s.on .uncore (opFpCtrlEn (6 * d.val + k.val) who en)
def execRxbTransfer (d : DieNo) (i : Fin 48) (s : State) := s.on .uncore (opRxbTransfer (lnK d.val i.val))
def execTxbTransfer (d : DieNo) (i : Fin 48) (bs : List (Bool × BitVec 64)) (s : State) :=
  s.on .uncore (opTxbTransfer (lnK d.val i.val) (bs.map (fun b => (b.1, b.2.toNat))))

end Sys2Proof.Machine
end

