-- ==== Sys2Proof/Machine/Load.lean ====
section
/-! DEFINITION. The test port and the loading of the fabric (chapter 13), but for NET_ACCESS, which reaches every register (RegBus.lean). -/

namespace Sys2Proof.Machine

/-- Controller states (Table 13-8). -/
def csIdle : Nat := 0
def csHeader : Nat := 1
def csLoading : Nat := 2
def csRetry : Nat := 3
def csWaitDone : Nat := 4
def csStarted : Nat := 6
def csFailed : Nat := 7
def csPartial : Nat := 8

def Mach.cfgState (m : Mach) : Nat := m.rd F.cfgStatusState 6
def Mach.setCfgState (m : Mach) (s : Nat) : Mach := m.wr F.cfgStatusState 6 s
def Mach.setCfg (m : Mach) (x : CfgSt) : Mach := { m with cfg := x }

/-- IDCODE (R301). -/
def idcodeValue : Nat := 0x1A006BC7

/-! Hold and clearing (R309, R315, R319) -/

/-- Entries of a table whose keys lie outside a range. -/
def SMap.without {α : Type} (lo hi : Nat) (m : SMap α) : SMap α := m.filter (fun x => !(decide (lo ≤ x.1) && decide (x.1 < hi)))

/-- The flip-flops of a region return to INIT. -/
def Mach.ffHold (m : Mach) (d r : Nat) : Mach :=
  { m with fab := { m.fab with ffs := SMap.without (1024 * rgn d r) (1024 * (rgn d r + 1)) m.fab.ffs } }

/-- A region returns to the configuration hold state: slices stop, fences close, FNIs are fenced, clocks are gated, flip-flops and pins
hold. -/
def Mach.rgnHold (m : Mach) (d r : Nat) : Mach :=
  let p := rgnIx d r
  let m1 := (rgnSlices r).foldl (fun m s => m.slStop (slK d s)) m
  let m0 := if m1.on F.frStatusFenced p then m1 else m1.keepFences d r
  let m2 := (rgnFnis r).foldl (fun m f => m.fenceFni (32 * d + f)) (m0.wr F.frStatusFenced p 1)
  let m3 := ((m2.wr F.frClkgateEn p 0).wr F.frClkgatedGated p 0xFFFF).wr F.frStatusStarted p 0
  (rgnBanks d r).foldl (fun m b => m.holdBank b) ((m3.setRgnStep d r 0).ffHold d r)

/-- A region's configuration memory, and the fabric state it gives, are cleared. -/
def Mach.rgnClear (m : Mach) (d r : Nat) : Mach :=
  let k := rgn d r
  let a := frameAddr d r 0 0
  let m1 := m.wr F.frStatusConfigured (rgnIx d r) 0
  { m1 with fab := { m1.fab with
      frames := SMap.without a (a + 2 ^ 24) m1.fab.frames, ffs := SMap.without (1024 * k) (1024 * (k + 1)) m1.fab.ffs,
      mems := SMap.without (65536 * k) (65536 * (k + 1)) m1.fab.mems, rams := SMap.without (262144 * k) (262144 * (k + 1)) m1.fab.rams,
      outs := SMap.without (256 * k) (256 * (k + 1)) m1.fab.outs } }

def Mach.dieHold (m : Mach) (d : Nat) : Mach := (upFrom 0 24).foldl (fun m r => m.rgnHold d r) m

/-- A die's transmitters are taken from LINK: every lane goes quiet. -/
def Mach.dieLanesOff (m : Mach) (d : Nat) : Mach :=
  (upFrom (48 * d) 48).foldl (fun m n => if m.lnState n = lsDisabled then m else m.lnGo n lsDisabled)
    { m with fab := { m.fab with step := SMap.put 0 (1000 + d) 0 m.fab.step } }

/-- A die's configuration memory is cleared. -/
def Mach.dieClear (m : Mach) (d : Nat) : Mach :=
  let a := frameAddr d 31 0 0
  let m1 := (upFrom 0 24).foldl (fun m r => m.rgnClear d r) m
  ({ m1 with fab := { m1.fab with frames := SMap.without a (a + 2 ^ 24) m1.fab.frames } } : Mach).wr F.cfgStatusDiesConfigured 6
    (clearBit d (m1.rd F.cfgStatusDiesConfigured 6))

def diesOf (mask : Nat) : List Nat := (upFrom 0 6).filter (fun d => bitOf d mask)
def regionsOf (mask : Nat) : List Nat := (upFrom 0 24).filter (fun r => bitOf r mask)

/-- What a header covers, as die and region; a full one covers region 31 of its dies too. -/
def CfgHdr.regionList (h : CfgHdr) : List (Nat × Nat) :=
  if h.part then (regionsOf h.regions).map (fun r => (h.dies, r)) else (diesOf h.dies).flatMap (fun d => (upFrom 0 24).map (fun r => (d, r)))

/-! Ends of a load (R314, R321; Table 13-5) -/

def Mach.cfgError (m : Mach) (code fail : Nat) : Mach := (m.wr F.cfgErrorCode 6 code).wr F.cfgFailAddr 6 fail

/-- The load ends: nothing of the stream is kept. -/
def Mach.cfgDrop (m : Mach) : Mach :=
  (m.setCfg { m.cfg with buf := 0, len := 0, hdr := none, seen := [], waits := [], got := [], dropped := 0, resend := false }).wr F.cfgStatusRetryWanted 6 0

/-- An abort: before the header's acceptance it affects no die; after it, the affected dies or regions are cleared. -/
def Mach.cfgAbortWith (m : Mach) (code fail : Nat) : Mach :=
  let m1 := m.cfgError code fail
  match m.cfg.hdr with
  | none => m1.cfgDrop.setCfgState (if m.cfg.base = csStarted then csStarted else csFailed)
  | some h =>
    if h.part then (h.regionList.foldl (fun m x => m.rgnClear x.1 x.2) m1).cfgDrop.setCfgState csStarted
    else (((diesOf h.dies).foldl (fun m d => m.dieClear d) m1).wr F.cfgStatusDoneOut 6 0).cfgDrop.setCfgState csFailed

/-- The address of the last verified frame. -/
def Mach.lastVerified (m : Mach) : Nat := m.cfg.lastOk.getD 0xFFFFFFFF

/-- Whether a load is in progress (R312, R313). -/
def Mach.cfgBusy (m : Mach) : Bool := [csHeader, csLoading, csRetry, csPartial].contains m.cfgState

def Mach.retryWanted (m : Mach) : Bool := m.on F.cfgStatusRetryWanted 6

/-! Instructions (R300 to R303, R311) -/

/-- An instruction is loaded by Update-IR: another than RETRY ends a load that wants a retry (R311), CFG_ABORT with its own code (R313). -/
def Mach.setIr (m : Mach) (code : Nat) : Mach :=
  let m1 := m.setCfg { m.cfg with ir := code }
  if m.retryWanted ∧ code ≠ 0x12 ∧ code ≠ 0x14 ∧ code ≠ m.cfg.ir then m1.cfgAbortWith 3 m.cfg.failed else m1

/-- TAP_RESET. -/
def opTapReset (m : Mach) : Mach := m.setCfg { m.cfg with ir := 0x02 }

/-- EXTEST and SAMPLE/PRELOAD: what the cells capture goes out, what is shifted in stands in the boundary register. -/
def Mach.scan (m : Mach) (code shift pins : Nat) : Mach :=
  let m1 := m.setIr code
  (m1.setCfg { m1.cfg with boundary := shift }).send (.tdo 576 pins)

def opExtest (shift pins : Nat) (m : Mach) : Mach := m.scan 0x00 shift pins
def opSamplePreload (shift pins : Nat) (m : Mach) : Mach := m.scan 0x01 shift pins
def opIdcode (m : Mach) : Mach := (m.setIr 0x02).send (.tdo 32 idcodeValue)
def opClamp (m : Mach) : Mach := m.setIr 0x03
def opHighz (m : Mach) : Mach := m.setIr 0x04

/-- The codes that Table 13-1 lists but for BYPASS. -/
def tapCodes : List Nat := [0x00, 0x01, 0x02, 0x03, 0x04, 0x10, 0x11, 0x12, 0x13, 0x14, 0x18, 0x19, 0x20]
def opBypass (code : Nat) (m : Mach) : Mach := if tapCodes.contains code then m else m.setIr code

/-- What drives the pins of an I/O bank (R302, R315; 17 R406). -/
inductive PinDrive | boundary | highz | held | pullUp | noPull | user
  deriving DecidableEq, Repr

def Mach.pinDrive (m : Mach) (b : Nat) : PinDrive :=
  if m.cfg.ir = 0x04 then .highz
  else if (m.cfg.ir = 0x00 ∨ m.cfg.ir = 0x03) ∧ m.rd F.ioBankStatusVio (ioIx b) ≠ 0 then .boundary
  else if bitOf b (m.rd F.vigilIoHoldHeld 6) then .held
  else if m.on F.ioBankStatusReleased (ioIx b) then .user
  else if bitOf b m.fab.pulls then .pullUp else .noPull

/-- Pin i of bank b, whose region is r. A differential output's pair takes the even pin's level, inverted on the odd
one. A held pin stands as it was latched (17 R406). -/
def Mach.pad (m : Mach) (r b i : Nat) : Pad :=
  let c := m.pinCfg (bankDie b) r (24 * b + i)
  let even := m.ioPin (24 * b + (i - i % 2))
  let x := m.ioPin (24 * b + i)
  let drives : Bool := match c.dir with
    | .input => false
    | .output => true
    | .bidir => if c.diff then even.oe else x.oe
  match m.pinDrive b with
  | .boundary => .scanned
  | .highz => .floats .none false false
  | .held => nth (.floats .none false false) m.pow.pads (24 * b + i)
  | .noPull => .floats .none false false
  | .pullUp => .floats .up false false
  | .user =>
    if !drives then .floats c.pull c.hyst c.term
    else if c.diff then .pair (even.out != (i % 2 == 1))
    else .single x.out c.milliamps x.slew

/-! The stream (R304, R308) -/

def bitsNat : List Bool → Nat
  | [] => 0
  | b :: l => b2n b + 2 * bitsNat l

/-- Whether every frame of the accepted header has been taken. -/
def Mach.allTaken (m : Mach) : Bool :=
  match m.cfg.hdr with
  | none => false
  | some h => decide (h.count ≤ m.cfg.seen.length)

/-- Stream bits are taken. A load begins where Shift-DR is entered in IDLE, FAILED or STARTED; a header may be taken while another load runs
on or starts up, to be refused (R308, R322). Bits are discarded while a retry is wanted, and ignored after the last frame. -/
def Mach.takeBits (m : Mach) (enter wide : Bool) (n v : Nat) : Mach :=
  let st := m.cfgState
  let begins := enter && (st == csIdle || st == csFailed || st == csStarted)
  let refusable := (st == csPartial && m.allTaken) || st == csWaitDone
  if m.retryWanted then
    let d := m.cfg.dropped + n
    if 4160 ≤ d then m.cfgAbortWith 3 m.cfg.failed else m.setCfg { m.cfg with dropped := d }
  else if begins then
    ((m.setCfg { m.cfg with buf := v, len := n, base := st, hdr := none, seen := [], waits := [], got := [] }).wr F.cfgStatusWide 6 (b2n wide)).setCfgState
      csHeader
  else if refusable then
    if enter then m.setCfg { m.cfg with buf := v, len := n } else m.setCfg { m.cfg with buf := m.cfg.buf + v * 2 ^ m.cfg.len, len := m.cfg.len + n }
  else if m.cfgBusy ∧ !m.allTaken then m.setCfg { m.cfg with buf := m.cfg.buf + v * 2 ^ m.cfg.len, len := m.cfg.len + n }
  else m

/-- CFG_LOAD and CFG_WIDE: TDO presents RETRY_WANTED. -/
def opCfgLoad (enter : Bool) (bits : List Bool) (m : Mach) : Mach :=
  let m1 := (m.setIr 0x10).takeBits enter false bits.length (bitsNat bits)
  m1.send (.tdo 1 (b2n m1.retryWanted))

def halves : List Nat → Nat
  | [] => 0
  | h :: l => h + 65536 * halves l

def opCfgWide (enter : Bool) (hs : List Nat) (m : Mach) : Mach :=
  let m1 := (m.setIr 0x11).takeBits enter true (16 * hs.length) (halves hs)
  m1.send (.tdo 1 (b2n m1.retryWanted))

/-- RETRY (R311): the bits of a partly received frame are discarded; where a retry is wanted the next 4,160 bits are the resent frame. -/
def opRetry (bits : List Bool) (m : Mach) : Mach :=
  let fresh := m.cfg.ir != 0x12
  let m1 := m.setIr 0x12
  let m2 := if fresh ∧ m.cfgBusy ∧ m.cfgState ≠ csHeader then m1.setCfg { m1.cfg with buf := 0, len := 0, resend := m.retryWanted } else m1
  let m3 := if m2.cfg.resend ∧ m2.retryWanted then
      m2.setCfg { m2.cfg with buf := m2.cfg.buf + bitsNat (bits.take (4160 - m2.cfg.len)) * 2 ^ m2.cfg.len, len := min 4160 (m2.cfg.len + bits.length) }
    else m2
  m3.send (.tdo 1 (b2n m3.retryWanted))

/-- CFG_STATUS: the four registers, CFG_STATUS first. -/
def Mach.cfgStatusWord (m : Mach) : Nat :=
  m.cfgState + 16 * m.rd F.cfgStatusDoneOut 6 + 32 * m.rd F.cfgStatusDoneIn 6 + 64 * m.rd F.cfgStatusRetryWanted 6 + 128 * m.rd F.cfgStatusWide 6 +
  256 * m.rd F.cfgStatusDiesConfigured 6 + 2 ^ 14 * m.rd F.cfgStatusHarvestReady 6

def opCfgStatus (m : Mach) : Mach :=
  let m1 := m.setIr 0x13
  m1.send (.tdo 128 (m1.cfgStatusWord + 2 ^ 32 * m1.rd F.cfgErrorCode 6 + 2 ^ 64 * m1.rd F.cfgFailAddr 6 + 2 ^ 96 * m1.rd F.cfgFramesOkCount 6))

/-- CFG_ABORT (R313). -/
def opCfgAbort (m : Mach) : Mach :=
  let m1 := m.setIr 0x14
  if m.cfgBusy ∨ m.cfgState = csWaitDone then m1.cfgAbortWith 6 m1.lastVerified else m1

/-- Frames of a kind in a region (Table 13-4). -/
def frameCount (r type : Nat) : Nat :=
  match type with
  | 0 => 2 * rgnBlocks r
  | 1 => rgnBlocks r
  | 2 => 9 * rgnRams r
  | 3 => 161 * (rgnSlices r).length
  | 4 => 4
  | _ => 0

def regionFrames (r : Nat) : Nat := frameCount r 0 + frameCount r 1 + frameCount r 2 + frameCount r 3 + frameCount r 4

def CfgHdr.total (h : CfgHdr) : Nat := h.regionList.foldl (fun a x => a + regionFrames x.2) 0 + (if h.part then 0 else 8 * (diesOf h.dies).length)

/-- Word i of the bits taken. -/
def cfgWord (v i : Nat) : Nat := v / 2 ^ (32 * i) % 2 ^ 32

/-- A header's checks in the order of R308: a code and CFG_FAIL_ADDR, or the header. -/
def headerCheck (m : Mach) (v : Nat) : (Nat × Nat) ⊕ CfgHdr :=
  let w (i : Nat) : Nat := cfgWord v i
  let part := w 2 % 2 == 1
  let h : CfgHdr := { part := part, dies := w 3, count := w 4, regions := w 5, design := w 6 }
  if crc32 (leBytes 60 v) ≠ w 15 then .inl (2, 15)
  else if w 2 / 2 % 8 ≠ 0 ∨ bitsOf 7 4 (w 2) ≠ 1 ∨ 256 ≤ w 2 then .inl (2, 2)
  else if (part ∧ 6 ≤ w 3) ∨ (!part ∧ (w 3 = 0 ∨ 64 ≤ w 3)) then .inl (2, 3)
  else if (part ∧ (w 5 = 0 ∨ 2 ^ 24 ≤ w 5)) ∨ (!part ∧ w 5 ≠ 0) then .inl (2, 5)
  else if w 4 ≠ h.total then .inl (2, 4)
  else if (part ∧ m.cfg.base ≠ csStarted) ∨ m.cfgState ≠ csHeader then .inl (7, 0xFFFFFFFF)
  else .inr h

/-- A full header is accepted (R309): its dies return to hold with their fabric PLLs stopped, and DONE goes low. -/
def Mach.acceptFull (m : Mach) (h : CfgHdr) : Mach :=
  let m1 := (diesOf h.dies).foldl (fun m d =>
    let m1 := ((m.dieHold d).dieLanesOff d).dieClear d
    (m1.wr F.clkCtrlPllEn d (clearBit 5 (m1.rd F.clkCtrlPllEn d))).wr F.clkStatusLocked d (clearBit 5 (m1.rd F.clkStatusLocked d))) m
  ((m1.wr F.cfgStatusDoneOut 6 0).wr F.cfgStatusDoneIn 6 0).setCfgState csLoading

/-- A partial header is accepted (R319). -/
def Mach.acceptPart (m : Mach) (h : CfgHdr) : Mach :=
  (h.regionList.foldl (fun m x => (m.rgnHold x.1 x.2).rgnClear x.1 x.2) m).setCfgState csPartial

/-- A header that is refused while another load runs on: only the record is made. -/
def Mach.refuseHeader (m : Mach) (code fail : Nat) : Mach :=
  if m.cfgState = csHeader then m.cfgAbortWith code fail else (m.setCfg { m.cfg with buf := 0, len := 0 }).cfgError code fail

/-- STREAM_HEADER: each check once its words have arrived. -/
def opStreamHeader (m : Mach) : Mach :=
  let v := m.cfg.buf
  let refusable := (m.cfgState == csPartial && m.allTaken) || m.cfgState == csWaitDone
  if (m.cfgState ≠ csHeader ∧ !refusable) ∨ m.cfg.len < 32 then m
  else if cfgWord v 0 ≠ 0xC0F6A55A then m.refuseHeader 2 0
  else
    let m1 := m.cfgError 0 0
    if m.cfg.len < 64 then m1
    else if cfgWord v 1 % 2 ^ 28 ≠ idcodeValue % 2 ^ 28 ∨ idcodeValue / 2 ^ 28 < cfgWord v 1 / 2 ^ 28 then m1.refuseHeader 1 (cfgWord v 1)
    else if m.cfg.len < 512 then m1
    else match headerCheck m v with
      | .inl e => m1.refuseHeader e.1 e.2
      | .inr h =>
        let m2 := (m1.setCfg { m1.cfg with buf := v / 2 ^ 512, len := m1.cfg.len - 512, hdr := some h, seen := [], waits := [], got := [], lastOk := none,
                                            dropped := 0 }).wr F.cfgFramesOkCount 6 0
        if h.part then m2.acceptPart h else m2.acceptFull h

/-! Frames (R306, R310, R311) -/

/-- Whether an accepted header covers an address. -/
def CfgHdr.covers (h : CfgHdr) (a : Nat) : Bool :=
  let d := a / 2 ^ 29
  let r := bitsOf 28 24 a
  let type := bitsOf 23 20 a
  let i := a % 2 ^ 20
  if r = 31 then !h.part && decide (d < 6) && bitOf d h.dies && type == 5 && decide (i < 8)
  else h.regionList.contains (d, r) && decide (i < frameCount r type)

/-- A frame's CRC covers its address word and its data. -/
def frameCrc (v : Nat) : Nat := crc32 (leBytes 516 (v % 2 ^ 4128))

/-- A frame is written. -/
def Mach.putFrame (m : Mach) (a data : Nat) (resent : Bool) : Mach :=
  let m1 : Mach := { m with fab := { m.fab with frames := SMap.put 0 a data m.fab.frames } }
  m1.setCfg { m1.cfg with seen := SMap.put 0 a 1 m1.cfg.seen, waits := m1.cfg.waits ++ [(a, resent)] }

/-- CONFIG_FRAME: the next 4,160 bits. -/
def opConfigFrame (m : Mach) : Mach :=
  match m.cfg.hdr with
  | none => m
  | some h =>
    let v := m.cfg.buf % 2 ^ 4160
    let a := v % 2 ^ 32
    let data := v / 2 ^ 32 % 2 ^ 4096
    let good := frameCrc v == v / 2 ^ 4128
    let rest := m.setCfg { m.cfg with buf := m.cfg.buf / 2 ^ 4160, len := m.cfg.len - 4160 }
    if m.cfg.len < 4160 ∨ m.allTaken then m
    else if m.retryWanted then
      if !m.cfg.resend then m
      else if !good ∨ a ≠ m.cfg.failed then m.cfgAbortWith 3 m.cfg.failed
      else
        let m1 := ((rest.setCfg { rest.cfg with resend := false, dropped := 0 }).wr F.cfgStatusRetryWanted 6 0).setCfgState (if h.part then csPartial else csLoading)
        if !h.covers a ∨ SMap.get 0 a m.cfg.seen ≠ 0 then m1.cfgAbortWith 5 a else m1.putFrame a data true
    else if !good then
      let m1 := ((rest.setCfg { rest.cfg with failed := a, dropped := rest.cfg.len, buf := 0, len := 0, resend := false }).wr F.cfgStatusRetryWanted 6 1).setCfgState
        csRetry
      if 4160 ≤ rest.cfg.len then m1.cfgAbortWith 3 a else m1
    else if !h.covers a ∨ SMap.get 0 a m.cfg.seen ≠ 0 then m.cfgAbortWith 5 a
    else rest.putFrame a data false

/-- FRAME_VERIFIED: the oldest frame written is counted; after the last of a full load DONE is released. -/
def opFrameVerified (m : Mach) : Mach :=
  match m.cfg.hdr, m.cfg.waits with
  | some h, (a, resent) :: l =>
    let key := a / 2 ^ 24
    let n := SMap.get 0 key m.cfg.got + 1
    let m1 := (m.setCfg { m.cfg with waits := l, got := SMap.put 0 key n m.cfg.got, lastOk := some a }).wrap F.cfgFramesOkCount 6 1
    let m2 := if resent then m1.cnt F.cfgRetries 6 1 else m1
    let r := key % 32
    let m3 := if r < 24 ∧ n = regionFrames r then m2.wr F.frStatusConfigured (rgnIx (key / 32) r) 1 else m2
    if m3.rd F.cfgFramesOkCount 6 = h.count ∧ !h.part then
      ((m3.wr F.cfgStatusDoneOut 6 1).wr F.cfgStatusDiesConfigured 6 (m3.rd F.cfgStatusDiesConfigured 6 ||| h.dies)).setCfgState csWaitDone
    else m3
  | _, _ => m

/-- GAP_TIMEOUT (R311, R312). -/
def opGapTimeout (m : Mach) : Mach :=
  let missing := match m.cfg.hdr with
    | none => true
    | some h => decide (m.rd F.cfgFramesOkCount 6 < h.count)
  if !m.cfgBusy ∨ !missing then m
  else if m.retryWanted then m.cfgAbortWith 3 m.cfg.failed
  else m.cfgAbortWith 4 m.lastVerified

/-- TCK_BACKSTOP (R312, R316). -/
def opTckBackstop (m : Mach) : Mach := if m.cfgBusy ∨ m.cfgState = csWaitDone then m.cfgAbortWith 4 m.lastVerified else m

/-! Start-up (R317, R320; Table 13-6). Items of REGION: 20 × k + 5 × j SRCj of clock k; 1000 + 16 × k SEL 0 and 1, SEL_FABRIC 2, DIV 3 to 10; 1300 + k the
gate of clock k; 1400 + 8 × f EN and ACCEPT_TARGET of the region's FNI f; 2000 + 16 × (32 × bank + pin) automatic slew 0, SLEW 1 and 2, RATE 3 to
13. Items of DIE: FB 0 to 5, ODIVk 6 × (k + 1), declared VIO of bank b 100 + 2 × b. Items of a slice's control frame: RUN 200000, and the rw and
rws fields after it. -/

/-- A list of register fields written from consecutive items. -/
def Mach.cfgFields (m : Mach) (d r type base n : Nat) : Nat → List (Fld × Nat) → Mach
  | _, [] => m
  | item, (f, p) :: l => (m.wr f p (m.cfgNum d r type base n item f.width)).cfgFields d r type base n (item + f.width) l

/-- A PLL enable: the fabric PLL is refused while an output would exceed 800 MHz (17 R413). -/
def Mach.pllEnable (m : Mach) (d v : Nat) : Mach :=
  let fb := m.rd F.fpllCfgFb d
  let bad := [F.fpllOdivOdiv0, F.fpllOdivOdiv1, F.fpllOdivOdiv2, F.fpllOdivOdiv3].any (fun f => decide (8 * m.rd f d < fb))
  let refuse := bad && bitOf 5 v && !bitOf 5 (m.rd F.clkCtrlPllEn d)
  let v1 := if refuse then clearBit 5 v else v
  let m1 := (m.wr F.clkCtrlPllEn d v1).wr F.clkStatusLocked d v1
  if bitOf 5 v then m1.wr F.clkStatusFpllBad d (b2n refuse) else m1

/-- Step 1: the clocks take their configuration. -/
def Mach.startClocks (m : Mach) (d r : Nat) : Mach :=
  let clk := (upFrom 0 16).flatMap (fun k => [(F.frClkSrc0, rgnClk d r k), (F.frClkSrc1, rgnClk d r k), (F.frClkSrc2, rgnClk d r k), (F.frClkSrc3, rgnClk d r k)])
  let m1 := m.cfgFields d r 4 0 4 0 clk
  let m2 := (upFrom 0 16).foldl (fun m k =>
    let m1 := m.cfgFields d r 4 0 4 (1000 + 16 * k) [(F.frClkselSel, rgnClk d r k), (F.frClkselSelFabric, rgnClk d r k), (F.frClkselDiv, rgnClk d r k)]
    (((m1.wr F.frClkselActive (rgnClk d r k) (m1.rd F.frClkselSel (rgnClk d r k))).wr F.frClkselSwitching (rgnClk d r k) 0).setClkLow d r k
      false).setClkDiv d r k (m1.rd F.frClkselDiv (rgnClk d r k))) m1
  (m2.setRgnStep d r 1).clkGate d r (m2.cfgNum d r 4 0 4 1300 16)

/-- The die's fabric PLL takes its configuration and is enabled. -/
def Mach.startPll (m : Mach) (d : Nat) : Mach :=
  let m1 := m.cfgFields d 31 5 0 8 0 [(F.fpllCfgFb, d), (F.fpllOdivOdiv0, d), (F.fpllOdivOdiv1, d), (F.fpllOdivOdiv2, d), (F.fpllOdivOdiv3, d)]
  m1.pllEnable d (setBit 5 (m1.rd F.clkCtrlPllEn d))

/-- A slice takes its image and its configured registers, and runs where the configuration says so (12 R297). -/
def Mach.startSlice (m : Mach) (d r j s : Nat) : Mach :=
  let k := slK d s
  let img := (upFrom 0 160).map (fun i => m.frame (frameAddr d r 3 (161 * j + i)))
  let x := m.sl k
  let m1 := m.setSl k { x with image := some img, dmem := [], dbad := [], pmem := [], pbad := [] }
  let fs := (F.slStartPc, slIx k) :: ((upFrom 0 8).map (fun i => (F.slIvecPc, slSub k i)) ++
    [F.slP, F.slO, F.slCb, F.slCl, F.slCi, F.slCs].flatMap (fun f => (upFrom 0 4).map (fun i => (f, slSub k i))) ++
    [F.slNsh, F.slIngBase, F.slIngLen, F.slIngRd, F.slIngThresh, F.slTimer, F.slFlagIrqMask, F.slIrqEnable, F.slIrqIe].map (fun f => (f, slIx k)) ++
    (upFrom 0 4).flatMap (fun i => [F.xferSrc, F.xferLen, F.xferMode, F.xferDstLo, F.xferDstHi].map (fun f => (f, slSub k i))))
  let m2 := m1.cfgFields d r 3 (161 * j + 160) 1 200001 fs
  if m2.cfgBit d r 3 (161 * j + 160) 1 200000 then m2.slRun k true else m2

/-- The slices of a region in turn, by their place in it. -/
def Mach.startSlices (m : Mach) (d r : Nat) : Nat → List Nat → Mach
  | _, [] => m
  | j, s :: l => (m.startSlice d r j s).startSlices d r (j + 1) l

/-- The FNIs of a region leave the fenced state, with their configured registers. -/
def Mach.openFnis (m : Mach) (d r : Nat) : Nat → List Nat → Mach
  | _, [] => m
  | j, f :: l =>
    let p := fniIx (32 * d + f)
    ((m.cfgFields d r 4 0 4 (1400 + 8 * j) [(F.fniCtrlEn, p), (F.fniCtrlAcceptTarget, p)]).wr F.fniStatusFenced p 0).openFnis d r (j + 1) l

/-- Step 3: fences open, FNIs leave the fenced state, slices start. -/
def Mach.startFences (m : Mach) (d r : Nat) : Mach :=
  (((m.setRgnStep d r 3).wr F.frStatusFenced (rgnIx d r) 0).openFnis d r 0 (rgnFnis r)).startSlices d r 0 (rgnSlices r)

/-- The slew a pin's load calls for (11 R271): 1000 K_s × (C + 5 pF) against 0.3 of the bit time. -/
def slewOf (c rate : Nat) : Option Nat := (upFrom 0 4).find? (fun s => decide (nth 0 [150, 90, 50, 25] s * (c + 5) * rate ≤ 300000))

/-- Load sense of an automatic-slew pin, or its fixed slew; a differential pin has no slew. -/
def Mach.startPin (m : Mach) (d r b i c : Nat) : Mach :=
  let p := ix (bankDie b) b i 0
  let item := 2000 + 16 * (32 * b + i)
  if (m.pinCfg d r (24 * b + i)).diff then m.wr F.ioPinAuto p 0
  else if m.cfgBit d r 4 0 4 item then
    let s := slewOf c (m.cfgNum d r 4 0 4 (item + 3) 11)
    let m1 := (((m.wr F.ioPinSlew p (s.getD 3)).wr F.ioPinAuto p 1).wr F.ioPinLoadValid p 1).wr F.ioPinLoadPf p c
    if s.isNone then m1.ev F.ioEventsSlewShort (ioIx b) else m1
  else (m.wr F.ioPinSlew p (m.cfgNum d r 4 0 4 (item + 1) 2)).wr F.ioPinAuto p 0

/-- Step 4 for a bank (11 R269): a supply that differs from the declared one, or is absent, keeps its pins in hold. -/
def Mach.startBank (m : Mach) (d r b : Nat) (vio : List Nat) (loads : List (Nat × Nat × Nat)) : Mach :=
  let p := ioIx b
  let now := nth 0 vio b
  let m1 := m.wr F.ioBankStatusVio p now
  if now = 0 ∨ now ≠ m1.rd F.ioBankStatusVioDecl p then (m1.wr F.ioBankStatusMismatch p 1).ev F.ioEventsVioMismatch p
  else
    let m2 := (upFrom 0 24).foldl (fun m i => m.startPin d r b i (match loads.find? (fun x => x.1 == b && x.2.1 == i) with
      | some x => x.2.2
      | none => 0)) m1
    let m3 := (upFrom 0 24).foldl (fun m i => m.setIoPin (24 * b + i) { (m.ioPin (24 * b + i)) with slew := m.rd F.ioPinSlew (ix (bankDie b) b i 0) }) m2
    (m3.wr F.ioBankStatusMismatch p 0).wr F.ioBankStatusReleased p 1

def Mach.startIo (m : Mach) (vio : List Nat) (loads : List (Nat × Nat × Nat)) (d r : Nat) : Mach :=
  ((rgnBanks d r).foldl (fun m b => m.startBank d r b vio loads) (m.setRgnStep d r 4)).wr F.frStatusStarted (rgnIx d r) 1

/-- Steps 1 to 4 over the regions, each step ending on all before the next begins. -/
def Mach.startRegions (m : Mach) (rs : List (Nat × Nat)) (vio : List Nat) (loads : List (Nat × Nat × Nat)) : Mach :=
  let m1 := rs.foldl (fun m x => m.startClocks x.1 x.2) m
  let m2 := rs.foldl (fun m x => m.setRgnStep x.1 x.2 2) m1
  let m3 := rs.foldl (fun m x => m.startFences x.1 x.2) m2
  rs.foldl (fun m x => m.startIo vio loads x.1 x.2) m3

/-- A die's transmitters are handed to LINK: the lanes that are enabled come up. -/
def Mach.dieHand (m : Mach) (d : Nat) : Mach :=
  (upFrom (48 * d) 48).foldl (fun m n => if m.on F.lnCtrlEnable (lnIx n) ∧ m.lnState n = lsDisabled then m.lnDetect n else m)
    { m with fab := { m.fab with step := SMap.put 0 (1000 + d) 1 m.fab.step } }

/-- CONFIG_STARTUP (R317): DONE reads high. -/
def opConfigStartup (vio : List Nat) (loads : List (Nat × Nat × Nat)) (m : Mach) : Mach :=
  match m.cfg.hdr with
  | none => m
  | some h =>
    if m.cfgState ≠ csWaitDone then m
    else
      let m1 := (diesOf h.dies).foldl (fun m d =>
        (upFrom 0 8).foldl (fun m b => if bankDie b = d then m.wr F.ioBankStatusVioDecl (ioIx b) (m.cfgNum d 31 5 0 8 (100 + 2 * b) 2) else m) (m.startPll d))
        (m.wr F.cfgStatusDoneIn 6 1)
      let m2 := (diesOf h.dies).foldl (fun m d => m.dieHand d) (m1.startRegions h.regionList vio loads)
      (m2.wr F.cfgDesignId 6 h.design).cfgDrop.setCfgState csStarted

/-- PARTIAL_REGION_START (R320): not before every request the regions' FNIs injected has been answered or has timed out. -/
def opPartialRegionStart (vio : List Nat) (loads : List (Nat × Nat × Nat)) (m : Mach) : Mach :=
  match m.cfg.hdr with
  | none => m
  | some h =>
    let open_ := h.regionList.any (fun x => (rgnFnis x.2).any (fun f => !(m.fni (32 * x.1 + f)).tags.isEmpty))
    if m.cfgState ≠ csPartial ∨ m.rd F.cfgFramesOkCount 6 < h.count ∨ open_ then m
    else (m.startRegions h.regionList vio loads).cfgDrop.setCfgState csStarted

/-! Harvest (R323 to R325) -/

/-- Frame i of a capture: macrocell 16p + m at bit 16p + m − 4096i. -/
def Mach.harvestFrame (m : Mach) (d r i : Nat) : Nat :=
  (upFrom (256 * i) 256).foldr (fun p acc => (if p < rgnBlocks r then m.ff d r p else 0) + 65536 * acc) 0

/-- HARVEST_SEL. -/
def opHarvestSel (sel : Nat) (m0 : Mach) : Mach :=
  let m := m0.setIr 0x18
  let d := sel / 2 ^ 29
  let r := bitsOf 28 24 sel
  let affected := match m.cfg.hdr with
    | some h => h.part && h.regionList.contains (d, r)
    | none => false
  if affected then m
  else if 6 ≤ d ∨ 24 ≤ r ∨ !m.on F.frStatusStarted (rgnIx d r) then
    (m.setCfg { m.cfg with harvest := some (d, r, [0, 0, 0]) }).wr F.cfgStatusHarvestReady 6 1
  else
    let m1 := (m.setCfg { m.cfg with harvest := some (d, r, (upFrom 0 3).map (fun i => m.harvestFrame d r i)) }).wr F.cfgStatusHarvestReady 6 1
    if sel % 2 = 1 then m1.clkGate d r 0 else m1

/-- A read-back frame (R304, R325). -/
def harvestBits (d r i v : Nat) : Nat :=
  let body := frameAddr d r 6 i + 2 ^ 32 * v
  body + 2 ^ 4128 * crc32 (leBytes 516 body)

/-- HARVEST: the three frames, or zeros before HARVEST_READY. -/
def opHarvest (m0 : Mach) : Mach :=
  let m := m0.setIr 0x19
  match m.cfg.harvest with
  | none => m.send (.tdo (3 * 4160) 0)
  | some (d, r, vs) =>
    m.send (.tdo (3 * 4160) (harvestBits d r 0 (nth 0 vs 0) + 2 ^ 4160 * harvestBits d r 1 (nth 0 vs 1) + 2 ^ 8320 * harvestBits d r 2 (nth 0 vs 2)))

/-! The meanings -/

def execTapReset (s : State) := s.on .keeper opTapReset
def execExtest (shift pins : BitVec 576) (s : State) := s.on .keeper (opExtest shift.toNat pins.toNat)
def execSamplePreload (shift pins : BitVec 576) (s : State) := s.on .keeper (opSamplePreload shift.toNat pins.toNat)
def execIdcode (s : State) := s.on .keeper opIdcode
def execClamp (s : State) := s.on .keeper opClamp
def execHighz (s : State) := s.on .keeper opHighz
def execBypass (code : Fin 256) (s : State) := s.on .keeper (opBypass code.val)
def execCfgLoad (enter : Bool) (bits : List Bool) (s : State) := s.on .keeper (opCfgLoad enter bits)
def execCfgWide (enter : Bool) (hs : List (BitVec 16)) (s : State) := s.on .keeper (opCfgWide enter (hs.map BitVec.toNat))
def execRetry (bits : List Bool) (s : State) := s.on .keeper (opRetry bits)
def execCfgStatus (s : State) := s.on .keeper opCfgStatus
def execCfgAbort (s : State) := s.on .keeper opCfgAbort
def execHarvestSel (sel : Word) (s : State) := s.on .keeper (opHarvestSel sel.toNat)
def execHarvest (s : State) := s.on .uncore opHarvest
def execStreamHeader (s : State) := s.on .uncore opStreamHeader
def execConfigFrame (s : State) := s.on .uncore opConfigFrame
def execFrameVerified (s : State) := s.on .uncore opFrameVerified
def execGapTimeout (s : State) := s.on .keeper opGapTimeout
def execTckBackstop (s : State) := s.on .keeper opTckBackstop
def execConfigStartup (vio : List (Fin 4)) (loads : List (Fin 8 × Fin 24 × Fin 64)) (s : State) :=
  s.on .uncore (opConfigStartup (vio.map Fin.val) (loads.map (fun x => (x.1.val, x.2.1.val, x.2.2.val))))
def execPartialRegionStart (vio : List (Fin 4)) (loads : List (Fin 8 × Fin 24 × Fin 64)) (s : State) :=
  s.on .uncore (opPartialRegionStart (vio.map Fin.val) (loads.map (fun x => (x.1.val, x.2.1.val, x.2.2.val))))

end Sys2Proof.Machine
end

