-- ==== Sys2Proof/Machine/Regs.lean ====
section
/-! DEFINITION. The registers by address: which fields of the register map stand at an offset of a die, and the word they make. -/

namespace Sys2Proof.Machine

/-- The indices of an offset in an array of registers, outermost first. -/
def splitOff : Nat → List (Nat × Nat) → Option (List Nat)
  | r, [] => if r = 0 then some [] else none
  | r, (stride, count) :: l => if r / stride < count then (splitOff (r % stride) l).map (fun x => r / stride :: x) else none

/-- The place of a register of a home at an offset of a die. -/
def homeAt (die o : Nat) (h : Home) : Option Nat :=
  if h.keeper != decide (die = 6) || decide (o < h.off) then none
  else (splitOff (o - h.off) h.dims).map (fun x => ix die (nth 0 x 0) (nth 0 x 1) (nth 0 x 2))

/-- A field that stands at an offset, with its place. -/
def fldAt (die o : Nat) (f : Fld) : Option (Fld × Nat) := (f.homes.findSome? (homeAt die o)).map (fun p => (f, p))

/-- The fields of the register at an offset of a die; none where no register is. -/
def fldsAt (die o : Nat) : List (Fld × Nat) := allFields.filterMap (fldAt die o)

/-- The word a list of fields holds, write-only fields reading as 0 (00 R6). -/
def Mach.wordOf (m : Mach) : List (Fld × Nat) → Nat
  | [] => 0
  | (f, p) :: l => (if f.acc = .wo then 0 else m.rd f p * 2 ^ f.lo) + m.wordOf l

/-- The word a register holds. -/
def Mach.rawWord (m : Mach) (die o : Nat) : Nat := m.wordOf (fldsAt die o)

end Sys2Proof.Machine
end

