-- ==== Sys2Proof/Machine/Power.lean ====
section
/-! DEFINITION. Power states, capping, clocks, start-up, sensors and the I2C target of chapter 17, the missing REFCLK_M of 19 R439, and the lane
and USB wakes of 14 R344 and 15 R356. -/

namespace Sys2Proof.Machine

def Mach.setPow (m : Mach) (x : PowSt) : Mach := { m with pow := x }

/-! Sensors and alerts (R415, R416) -/

def railIx (i : Nat) : Nat := ix 6 i 0 0
def tempIx (j : Nat) : Nat := ix 6 j 0 0

/-- The reading of a temperature sensor in 0.125 °C, if it has one. -/
def Mach.temp (m : Mach) (j : Nat) : Option Int :=
  let v := m.rd F.sensTempTemp (tempIx j)
  if v = 0x8000 then none else some (toSigned 16 v)

/-- A sensor reads at or above a number of °C; at or below one; above one. -/
def Mach.tempGe (m : Mach) (j c : Nat) : Bool := (m.temp j).any (fun t => decide ((8 * c : Int) ≤ t))
def Mach.tempLe (m : Mach) (j c : Nat) : Bool := (m.temp j).any (fun t => decide (t ≤ (8 * c : Int)))
def Mach.tempGt (m : Mach) (j c : Nat) : Bool := (m.temp j).any (fun t => decide ((8 * c : Int) < t))

/-- The junction sensors, of the engine dies and the keeper, and the near-layer sensors (Table 17-11). -/
def junctions : List Nat := upFrom 0 7
def nearLayers : List Nat := upFrom 7 24

/-- An alert sets its bit; a HEALTH event is queued when the bit was clear and HEALTH runs. -/
def Mach.alert (m : Mach) (code tag : Nat) : Mach :=
  let was := bitOf (code - 1) (m.rd F.sensAlertAlerts kp)
  let m1 := m.orIn F.sensAlertAlerts kp (2 ^ (code - 1))
  if !was && m.procUp 3 then m1.hostEvent 3 tag code else m1

/-- ALERT_OUT is pulled low (R416, 19 R439). -/
def Mach.alertLow (m : Mach) : Bool := m.rd F.sensAlertAlerts kp != 0 || decide (m.rd F.vigilCapN kp < 16) || m.pow.refLost

/-- The nominal voltages of Table 17-1, as SENS_RAIL gives them: VIN54 and VSTBY in 10 mV, the others in mV. -/
def railNominal (power i : Nat) : Nat :=
  if power = 2 ∧ (i = 5 ∨ i = 7) then 600 else nth 0 [5400, 1200, 800, 750, 750, 800, 750, 750, 900, 1100, 1100, 1800] i

/-- The rails that are up in a power state (Table 17-3); before the 54 V rails are started, the inputs and VAON. -/
def railUp (rails power i : Nat) : Bool :=
  if power = 3 ∨ rails ≠ 2 then decide (i < 3) else if power = 2 then i != 4 && i != 8 else true

/-- The rails whose last reading lies outside ±5 % of nominal. -/
def Mach.badRails (m : Mach) : List Nat :=
  (upFrom 0 12).filter (fun i =>
    let v := 100 * m.rd F.sensRailMv (railIx i)
    let n := railNominal m.power i
    railUp m.pow.rails m.power i && (decide (v < 95 * n) || decide (105 * n < v)))

/-- The sensors above their warning level: junctions at 100 °C or more, near layers at 90 °C or more (Table 17-9). -/
def Mach.hotSensors (m : Mach) : List Nat := junctions.filter (fun j => m.tempGe j 100) ++ nearLayers.filter (fun j => m.tempGe j 90)

/-- The coolant-flow estimate in 0.01 L/min: P / (4.18 kJ/(kg K) × ΔT), of a sum of n window powers in W and a sum of k temperature
differences in 0.125 K; none below 500 W, or where ΔT is not positive (R415). -/
def flowOf (watts n : Nat) (heat : Int) (k : Nat) : Option Nat :=
  if n = 0 ∨ watts < 500 * n ∨ heat ≤ 0 then none else some (4800 * watts * k / (418 * n * heat.toNat))

/-- HEALTH's estimate at the end of each second, which is 100 windows; while it does not run there is none. -/
def Mach.flowEnds (m : Mach) : Mach :=
  let p := m.pow
  if p.wattsN < 100 then m
  else
    let m1 := m.setPow { p with watts := 0, wattsN := 0, heat := 0, heatN := 0 }
    m1.wr F.sensFlowFlow kp (if m.procUp 3 then min 0xFFFF ((flowOf p.watts p.wattsN p.heat p.heatN).getD 0xFFFF) else 0xFFFF)

/-- A reading of the inlet and the outlet adds to the second's temperature difference. -/
def Mach.heatSeen (m : Mach) : Mach :=
  match m.temp 31, m.temp 32 with
  | some a, some b => m.setPow { m.pow with heat := m.pow.heat + (b - a), heatN := m.pow.heatN + 1 }
  | _, _ => m

/-- Readings are written into a row of sensor registers. -/
def Mach.putRails (m : Mach) : Nat → List (Nat × Nat) → Mach
  | _, [] => m
  | i, x :: l => (if i < 12 then (m.wr F.sensRailMv (railIx i) x.1).wr F.sensRailCurrent (railIx i) x.2 else m).putRails (i + 1) l

def Mach.putTemps (m : Mach) : Nat → List Nat → Mach
  | _, [] => m
  | j, x :: l => (if j < 34 then m.wr F.sensTempTemp (tempIx j) (if m.power = 3 ∧ j < 31 then 0x8000 else x) else m).putTemps (j + 1) l

/-- The first of a list raises an alert. -/
def Mach.alertFirst (m : Mach) (code : Nat) : List Nat → Mach
  | [] => m
  | t :: _ => m.alert code t

/-- The inlet's limit on n: 8 while it is above 40 °C, and what N_MAX was before from then on (R414, step 2). -/
def Mach.inletMax (m : Mach) (start : Bool) : Mach :=
  if m.tempGt 31 40 then
    (if start ∧ m.pow.hotMax = 0 then (m.setPow { m.pow with hotMax := m.rd F.vigilCapNMax kp }).wr F.vigilCapNMax kp 8 else m)
  else if m.pow.hotMax ≠ 0 ∧ m.tempLe 31 40 then (m.wr F.vigilCapNMax kp m.pow.hotMax).setPow { m.pow with hotMax := 0 }
  else m

/-- The engine dies that have an enabled PLL without lock (R412). -/
def Mach.unlocked (m : Mach) : List Nat :=
  if 2 ≤ m.power ∨ m.pow.rails ≠ 2 then []
  else (upFrom 0 6).filter (fun d => m.rd F.clkCtrlPllEn d &&& m.rd F.clkStatusLocked d != m.rd F.clkCtrlPllEn d)

/-- What one sample of the rails and the sensors does: registers, and the alerts whose condition holds. -/
def Mach.sampled (m : Mach) (rails : List (Nat × Nat)) (temps : List Nat) (start : Bool) : Mach :=
  let m2 := ((m.putRails 0 rails).putTemps 0 temps).heatSeen
  let m3 := (m2.alertFirst 1 m2.badRails).alertFirst 2 m2.hotSensors
  let m4 := if m3.tempGt 31 40 then m3.alert 3 31 else m3
  let m5 := if m4.rd F.sensFlowFlow kp < 200 then m4.alert 4 32 else m4
  (m5.alertFirst 9 m5.unlocked).inletMax start

/-! Resets (R399, R405) -/

/-- Whether a field is one of Vigil's own registers, and one of the sensor block. -/
def vigilField (k : Nat) : Bool := decide (F.vigilModeState.id ≤ k / 2 ^ 24) && decide (k / 2 ^ 24 ≤ F.vigilKpllSpread.id)
def sensField (k : Nat) : Bool := decide (F.sensRailMv.id ≤ k / 2 ^ 24) && decide (k / 2 ^ 24 ≤ F.sensAlertAlerts.id)

/-- Whether a field is a tile or vector-engine register (03, 04, 05, 18 Tables 3-6, 4-10, 5-3, 18-4). -/
def coreField (k : Nat) : Bool :=
  (decide (F.tileCtrlRun.id ≤ k / 2 ^ 24) && decide (k / 2 ^ 24 ≤ F.veTrapCycle.id)) ||
  (decide (F.tileFenceFenced.id ≤ k / 2 ^ 24) && decide (k / 2 ^ 24 ≤ F.tileStRowsHiJunctionFail.id))

/-- The tiles, vector engines and slices at reset, with the epoch of their undefined contents advanced. -/
def Mach.tilesAnew (m : Mach) : SMap Tile := (upFrom 0 960).map (fun t => (t, { Tile.init with epoch := (m.tile t).epoch + 1 }))
def Mach.vesAnew (m : Mach) : SMap Ve := (upFrom 0 60).map (fun c => (c, { Ve.init with epoch := (m.ve c).epoch + 1 }))
def Mach.slicesAnew (m : Mach) : SMap Slice := (upFrom 0 384).map (fun k => (k, { Slice.init with epoch := (m.sl k).epoch + 1 }))

/-- The clusters lose power: a port B access still queued is discarded, and its master gets an error response (06 R135). -/
def Mach.dropQueued (m : Mach) : Mach :=
  (m.bankOut.flatMap (fun x => if x.1 % 2 = 1 then x.2 else [])).foldl (fun m q => m.respond q.id rsUnavailable)
    { m with bankOut := [], arbs := m.arbs.foldl (fun l x =>
      if x.1 % 4 < 2 then SMap.put Arb.init x.1 { x.2 with holder := none, suspended := none } l else l) m.arbs }

/-- The CORE domain loses its registers and its storage. -/
def Mach.coreLost (m : Mach) : Mach :=
  { m with fields := m.fields.filter (fun x => !coreField x.1), tiles := m.tilesAnew, ves := m.vesAnew }

/-- Every die is reset: what is left is fuses, flash, Vigil's registers, the registers that `keep` names, pins, and the model's own counters. -/
def Mach.wiped (m : Mach) (keep : Nat → Bool) : Mach :=
  { Mach.reset with
    fuses := m.fuses, fields := m.fields.filter (fun x => vigilField x.1 || keep x.1), tiles := m.tilesAnew, ves := m.vesAnew, slices := m.slicesAnew,
    near := { Mach.reset.near with kept := m.near.kept }, test := { Mach.reset.test with copyA := m.test.copyA, copyB := m.test.copyB },
    fab := { Mach.reset.fab with holdPu := m.fab.holdPu },
    fw := { Mach.reset.fw with flash := m.fw.flash, prefer := m.fw.prefer, lastSlot := m.fw.lastSlot },
    ticks := m.ticks, pow := m.pow, out := m.out, free := m.free }

/-- A module reset for a cause of Table 17-2, other than POWER_ON: KPLL.SPREAD is applied (R412). -/
def Mach.moduleReset (m : Mach) (cause : Nat) : Mach :=
  let m1 := m.wiped (fun _ => false)
  ((((m1.wr F.vigilResetCauseCause kp cause).wr F.vigilStatusState kp 0).wr F.vigilStatusWaiting kp 0).wr F.vigilIoHoldHeld kp 0).setPow
    { PowSt.init with tripBy := m.pow.tripBy, browned := m.pow.browned, refLost := m.pow.refLost, kspread := m.rd F.vigilKpllSpread kp,
                      rails := m.pow.rails }

/-- Every pin of the banks is latched at its level and direction (R406). -/
def Mach.latchPins (m : Mach) : Mach :=
  (m.setPow { m.pow with pads := (upFrom 0 192).map (fun i => m.pad (if i < 144 then 16 else 20) (i / 24) (i % 24)) }).wr F.vigilIoHoldHeld kp 0xFF

/-- SOLSTICE: every rail but VAON is off; Vigil, the sensor block it serves and the held pins remain (R400, R406, R417). -/
def Mach.solstice (m : Mach) : Mach :=
  let m1 := ((m.latchPins.dropQueued.wiped sensField).wr F.vigilStatusState kp 3).wr F.vigilStatusWaiting kp 0
  (upFrom 0 31).foldl (fun m j => m.wr F.sensTempTemp (tempIx j) 0x8000) m1

/-- Lanes leave for DISABLED while LANE is off, until LINK enables them again (14 R344). -/
def Mach.lanesDown (m : Mach) : Mach :=
  (upFrom 0 288).foldl (fun m n =>
    let m1 := m.wr F.lnCtrlEnable (lnIx n) 0
    if m.lnState n = lsDisabled then m1 else m1.lnGo n lsDisabled) m

/-- NAP (Table 17-3): CORE loses its contents, pins are held, the engine dies' PLLs stop. -/
def Mach.nap (m : Mach) : Mach :=
  let m1 := (m.latchPins.dropQueued.coreLost.lanesDown).wr F.vigilStatusState kp 2
  (upFrom 0 6).foldl (fun m d => m.wr F.clkStatusLocked d 0) (m1.setPow { m1.pow with
    fenced := (upFrom 0 960).filter (fun t => m.on F.tileFenceFenced (tileIx t))
    batches := (upFrom 0 960).map (fun t => (m.rd F.tileBatchBatchFill (tileIx t), m.rd F.tileBatchBatchWindow (tileIx t)))
    lanesOn := (upFrom 0 288).filter (fun n => m.on F.lnCtrlEnable (lnIx n)) })

/-! Start-up (R414, Table 17-8) -/

/-- Step 8: a tile's repair is written from its entry, and a tile that is retired or was fenced is fenced (R405, 18 R433). -/
def Mach.tileSetUp (m : Mach) (t : Nat) : Mach :=
  let e := tileEntry m t
  let m1 := if e % 2 ^ 14 = 0x3F3F then m else opTileRepairWrite t (e % 2 ^ 14) m
  if tileRetired m t || m.pow.fenced.contains t then m1.wr F.tileFenceFenced (tileIx t) 1 else m1

def Mach.tilesSetUp (m : Mach) : Mach := ((upFrom 0 960).foldl (fun m t => m.tileSetUp t) m).setPow { m.pow with fenced := [] }

/-- Step 4: PLLs 0 to 4 of every die but those that fail to lock. -/
def Mach.pllsStart (m : Mach) (failed : List (Nat × Nat)) : Mach :=
  (upFrom 0 6).foldl (fun m d =>
    let bad := failed.foldl (fun a x => if x.1 = d then setBit x.2 a else a) 0
    let m1 := m.pllEnable d (m.rd F.clkCtrlPllEn d ||| 0x1F)
    let m2 := m1.wr F.clkStatusLocked d (m1.rd F.clkCtrlPllEn d - (bad &&& 0x1F))
    if bad = 0 then m2 else m2.alert 9 d) m

/-- The hops from router a to router b, X first and then Y: 0 E, 1 W, 2 N, 3 S (10 R229, R232). Router n stands at column n mod 6, row n / 6. -/
def hopsTo (a b : Nat) : List Nat :=
  (if a % 6 < b % 6 then List.replicate (b % 6 - a % 6) 0 else List.replicate (a % 6 - b % 6) 1) ++
  (if a / 6 < b / 6 then List.replicate (b / 6 - a / 6) 2 else List.replicate (a / 6 - b / 6) 3)

/-- A ROUTE of hops, the first lowest. -/
def packHops : List Nat → Nat
  | [] => 0
  | h :: l => h + 8 * packHops l

/-- The router where an NI, or an ingress of those numbered from 64, injects. -/
def niRouter (q : Nat) : Nat := if q < 64 then q / 4 else linkRouter (q - 64)

/-- The link from a die toward another: the east-west step between die columns first (10 R232); the control link to the keeper. -/
def linkToward (d o : Nat) : Nat :=
  if o = 6 then 4 else if d % 3 < o % 3 then 0 else if o % 3 < d % 3 then 1 else if d / 3 < o / 3 then 2 else 3

/-- One entry of a route table. -/
def Mach.putRoute (m : Mach) (d q i mch mask : Nat) (hops : List Nat) : Mach :=
  let p := ix d q i 0
  let r := packHops hops
  ((((m.wr F.routeMatch p mch).wr F.routeMask p mask).wr F.routeRouteLo p (r % 2 ^ 32)).wr F.routeRouteHi p (r / 2 ^ 32)).wr F.routeValid p 1

/-- The route table of an NI of a die, as HEALTH writes it (10 R232). -/
def Mach.routesOf (m : Mach) (d q : Nat) : Mach :=
  let a := niRouter q
  let m1 := (upFrom 0 16).foldl (fun m r => m.putRoute d q r (64 * d + 4 * r) 0x003 (hopsTo a r ++ [7])) m
  let others := (upFrom 0 7).filter (fun o => o != d)
  let m2 := (upFrom 0 6).foldl (fun m i =>
    let o := nth 0 others i
    m.putRoute d q (16 + i) (64 * o) 0x03F (hopsTo a (linkRouter (linkToward d o)) ++ [4])) m1
  (upFrom 22 42).foldl (fun m i => m.wr F.routeValid (ix d q i 0) 0) m2

/-- Step 7: route tables are written and NOC_CTRL.RUN set. -/
def Mach.nocStart (m : Mach) : Mach :=
  (upFrom 0 6).foldl (fun m d => m.nocOn d) ((upFrom 0 6).foldl (fun m d => (upFrom 0 69).foldl (fun m q => m.routesOf d q) m) m)

/-- Step 5: a near tier whose PLL has locked initialises its layers, but those that fail; with all four it is READY, its retired table is
reloaded while it is stopped, and it accepts (06 R139, R145). failed: engine × 4 + layer. -/
def Mach.nearStart (m : Mach) (failed : List Nat) : Mach :=
  (upFrom 0 6).foldl (fun m d =>
    if !bitOf 3 (m.rd F.clkStatusLocked d) then m
    else
      let ok := ((upFrom 0 4).filter (fun k => !failed.contains (4 * d + k))).foldl (fun n k => n + 2 ^ k) 0
      let m1 := (m.wr F.nearStatusLayerOk d ok).loadRetired d
      if ok = 0xF then (m1.wr F.nearStatusReady d 1).wr F.nearCtrlAccept d 1 else m1) m

/-- Step 6: far channels that pass training are READY and accept; one that fails at a step, by its timeout or without a usable window, is
FAILED (09 R204). -/
def Mach.farStart (m : Mach) (failed : List (Nat × Nat × Bool)) : Mach :=
  (upFrom 0 24).foldl (fun m h =>
    let q := farIx h
    match failed.find? (fun x => x.1 == h) with
    | some x => ((((m.wr F.farTrainResultStep q x.2.1).wr F.farTrainResultCode q (if x.2.2 then 2 else 1)).ev F.farEventsTrainFail q).wr
        F.farStatusReady q 0).wr F.farStatusFailed q 1
    | none => ((((m.wr F.farTrainResultStep q 8).wr F.farTrainResultCode q 0).wr F.farStatusFailed q 0).wr F.farStatusReady q 1).wr
        F.farCtrlAccept q 1) m

/-- Step 9: every word of every bank is zero with correct parity. -/
def Mach.banksStart (m : Mach) : Mach :=
  { m with mem := m.mem.filter (fun x => decide (x.1 < 0x300000000000) || decide (0x300600000000 ≤ x.1)), bankBad := [] }

/-- Step 10: ALM_CTRL.RUN and HL_CTRL.RUN. -/
def Mach.runStart (m : Mach) : Mach :=
  let m1 := m.wr F.almCtrlRun kp 1
  if m.highSpeed then m1 else m1.wr F.hlCtrlRun kp 1

/-- What HEALTH reports of earlier trips and brown-outs (R410, Table 17-9). -/
def Mach.reports (m : Mach) : Mach :=
  let m1 := if m.on F.vigilResetCauseTripped kp then (m.alert 7 m.pow.tripBy).wr F.vigilResetCauseTripped kp 0 else m
  match m1.pow.browned with
  | some i => (m1.alert 8 i).setPow { m1.pow with browned := none }
  | none => m1

/-- STARTUP_SEQUENCE: steps 2 and 4 to 10 of Table 17-8, once after each module reset, when HEALTH runs. -/
def opStartupSequence (rails : List (Nat × Nat)) (temps : List Nat) (plls : List (Nat × Nat)) (nears : List Nat) (fars : List (Nat × Nat × Bool))
    (m : Mach) : Mach :=
  if !m.procUp 3 || m.power != 0 || m.pow.started then m
  else
    let m1 := (m.reports.sampled rails temps true).pllsStart plls
    let m2 := (((((m1.nearStart nears).farStart fars).nocStart).tilesSetUp).banksStart).runStart
    m2.setPow { m2.pow with started := true }

/-! Wakes (R403 to R405) -/

/-- A wake is recorded: the lowest code and every source. -/
def Mach.recordWake (m : Mach) (mask : Nat) : Mach :=
  (m.wr F.vigilLastWakeSource kp ((lowestSet 6 1 mask).getD 7)).wr F.vigilLastWakeSources kp mask

/-- A steward that runs rewrites TILE_BATCH of its tiles and sets RUN of their tiles and vector engines (R405). -/
def Mach.stewardsResume (m : Mach) : Mach :=
  let up := (upFrom 0 6).filter (fun d => m.procUp (4 + d))
  let m1 := (up.flatMap (fun d => upFrom (160 * d) 160)).foldl (fun m t =>
    let b := nth (48, 0) m.pow.batches t
    opTileCtrlRun t true ((m.wr F.tileBatchBatchFill (tileIx t) b.1).wr F.tileBatchBatchWindow (tileIx t) b.2)) m
  (up.flatMap (fun d => upFrom (10 * d) 10)).foldl (fun m c => opVeCtrlRun c true m) m1

/-- HEALTH enables the lanes that were enabled when NAP was entered. -/
def Mach.lanesBack (m : Mach) : Mach := m.pow.lanesOn.foldl (fun m n => m.lnEnable n) m

/-- Domains are restored after IDLE or NAP; after NAP, PLLs relock, route tables, repairs and batches are written and lanes enabled, and the
next readings are those of step 2 (R405, R414). -/
def Mach.restored (m : Mach) : Mach :=
  let m1 := (m.wr F.vigilStatusState kp 0).wr F.vigilStatusWaiting kp 0
  if m.power = 2 then
    let started (d : Nat) : Bool := (upFrom 0 24).any (fun r => m.on F.frStatusStarted (rgnIx d r))
    let m2 := (upFrom 0 6).foldl (fun m d => m.pllEnable d ((m.rd F.clkCtrlPllEn d ||| 0x1F) ||| (if started d then 0x20 else 0))) m1
    let m3 := m2.nocStart.tilesSetUp.stewardsResume.lanesBack
    m3.setPow { m3.pow with check := true, batches := [], lanesOn := [] }
  else m1

/-- Wake sources of one VIGIL cycle, as WAKE_EN: a source acts when it is enabled (R404); source 5 is ignored while a trip holds (R410). -/
def Mach.wake (m : Mach) (mask : Nat) : Mach :=
  let en := m.rd F.vigilModeWakeEn kp
  let act := mask % 64 &&& (if m.pow.tripped then clearBit 4 en else en)
  if act = 0 then m
  else match m.power with
    | 0 => m.setPow { m.pow with pending := m.pow.pending ||| act }
    | 3 => (m.recordWake act).moduleReset (if m.pow.tripped then 4 else 6)
    | _ => (m.recordWake act).restored

def opWakeIn (also : Nat) (m : Mach) : Mach := m.wake (also ||| 1)
def opUsbResume (m : Mach) : Mach := m.wake 2
def opLaneWake (d i : Nat) (m : Mach) : Mach := if m.on F.lnCfgWake (lnIx (48 * d + i)) then m.wake 4 else m
def opTestPortWake (m : Mach) : Mach := m.wake 32

/-- WAKE_COUNTER_EXPIRY: the counter runs below ACTIVE, and not with WAKE_MS 0; it reaches 0 that many ms after entry. -/
def opWakeCounterExpiry (m : Mach) : Mach :=
  let ms := m.rd F.vigilWakeMs kp
  if m.power = 0 ∨ ms = 0 ∨ m.usec < m.pow.wakeAt + 1000 * ms then m else m.wake 8

/-! State changes and requests (R402, R403) -/

/-- HEALTH answers a request. -/
def Mach.reqResult (m : Mach) (kind code : Nat) : Mach := (m.wr F.vigilReqResultCode kp code).wr F.vigilReqResultKind kp kind

/-- Almanac's stopped condition (07 R172). -/
def Mach.almStopped (m : Mach) : Bool := !m.on F.almCtrlRun kp && m.alm.migs.isEmpty

/-- Almanac is stopped, every tile and vector engine is, and no cluster is reserved (Table 17-5). -/
def Mach.mayIdle (m : Mach) : Bool :=
  m.almStopped && (upFrom 0 960).all (fun t => m.tileStopped t) &&
  (upFrom 0 60).all (fun c => !m.on F.veCtrlRun (clIx c) && (m.ve c).idle) &&
  m.rd F.almReservedLo kp == 0 && m.rd F.almReservedHi kp == 0

/-- And no STREAM or GEN job is admitted, stream engines, slices and frame ports are stopped, and lanes without WAKE are DISABLED. -/
def Mach.mayNap (m : Mach) : Bool :=
  m.mayIdle && m.alm.jobs.all (fun j => j.cls == 2) && (upFrom 0 96).all (fun k => m.seStopped (k / 16) (k % 16)) &&
  (upFrom 0 384).all (fun k => m.slStopped k) && (upFrom 0 36).all (fun p => m.fpStopped p) &&
  (upFrom 0 288).all (fun n => m.on F.lnCfgWake (lnIx n) || m.lnState n == lsDisabled)

/-- SET_STATE: answered BUSY, or the state is set and HEALTH waits. -/
def opSetState (state wake ms : Nat) (m : Mach) : Mach :=
  if !m.procUp 3 || m.on F.vigilStatusWaiting kp then m
  else
    let ok := if state = 0 then true else if state = 1 then m.mayIdle else if state = 2 then m.mayNap else m.mayNap && m.alm.plans.isEmpty
    if !ok then m.reqResult 1 1
    else ((((m.reqResult 1 0).wr F.vigilModeState kp state).wr F.vigilModeWakeEn kp wake).wr F.vigilWakeMs kp ms).wr F.vigilStatusWaiting kp 1

/-- SET_CAP: values within the ranges of Table 17-10, else BUSY. -/
def opSetCap (limit nMax : Nat) (m : Mach) : Mach :=
  if !m.procUp 3 then m
  else if limit < 1600 ∨ 2500 < limit ∨ nMax < 1 ∨ 16 < nMax then m.reqResult 2 1
  else ((m.wr F.vigilCapLimit kp limit).wr F.vigilCapNMax kp nMax).reqResult 2 0

/-- A write of VIGIL.IO_HOLD_RELEASE releases the named banks, if their domain is powered (R406). -/
def Mach.releaseBanks (m : Mach) (banks : Nat) : Mach :=
  if m.power < 2 then m.wr F.vigilIoHoldHeld kp (m.rd F.vigilIoHoldHeld kp &&& (0xFF - banks % 256)) else m

def opReleaseHold (banks : Nat) (m : Mach) : Mach := if !m.procUp 3 then m else (m.releaseBanks banks).reqResult 3 0

/-- Who may write Vigil's registers (R418). -/
def vigilWho (who : Nat) : Bool := who == idHealth || who == idTest

def opIoHoldRelease (who banks : Nat) (m : Mach) : Mach := m.permit (vigilWho who) who (fun m => m.releaseBanks banks)

/-- POWER_STATE_ENTER: HEALTH's WAIT. -/
def opPowerStateEnter (m : Mach) : Mach :=
  if !m.on F.vigilStatusWaiting kp || m.power != 0 then m
  else
    let woke := m.pow.pending &&& m.rd F.vigilModeWakeEn kp
    match m.rd F.vigilModeState kp with
    | 0 => m.wr F.vigilStatusWaiting kp 0
    | st =>
      if woke ≠ 0 then (((m.recordWake woke).wr F.vigilStatusWaiting kp 0).reqResult 1 3).setPow { m.pow with pending := 0 }
      else
        let m1 := m.setPow { m.pow with wakeAt := m.usec }
        if st = 1 then m1.wr F.vigilStatusState kp 1 else if st = 2 then m1.nap else m1.solstice

/-! Capping and trips (R407 to R410) -/

/-- The sensors at or above their cap, and whether every one is at least 5 °C below it (R408). -/
def Mach.capSensors (m : Mach) : List Nat :=
  junctions.filter (fun j => m.tempGe j (m.rd F.vigilCapCfgThermCap kp)) ++ nearLayers.filter (fun j => m.tempGe j (m.rd F.vigilCapCfgNearCap kp))

def Mach.capCool (m : Mach) : Bool :=
  junctions.all (fun j => m.tempLe j (m.rd F.vigilCapCfgThermCap kp - 5)) && nearLayers.all (fun j => m.tempLe j (m.rd F.vigilCapCfgNearCap kp - 5))

/-- CAP_WINDOW_END. No window counts in which a reading was not cool (R408). -/
def opCapWindowEnd (watts : Nat) (m0 : Mach) : Mach :=
  let warm := m0.pow.warm || !m0.capCool
  let m := ((m0.wr F.sensPowerW kp watts).setPow
    { m0.pow with warm := false, watts := m0.pow.watts + watts, wattsN := m0.pow.wattsN + 1 }).flowEnds
  let n := m.rd F.vigilCapN kp
  let limit := m.rd F.vigilCapLimit kp
  let above := decide (limit < watts)
  let hot := m.capSensors
  if above || !hot.isEmpty then
    let m1 := m.setPow { m.pow with windows := 0 }
    if n ≤ 1 then m1
    else
      let m2 := (((m1.wr F.vigilCapN kp (n - 1)).wr F.vigilCapPower kp (b2n above)).wr F.vigilCapThermal kp (b2n (!hot.isEmpty))).cnt F.vigilCapSteps kp 1
      (if above then m2.alert 5 0 else m2).alertFirst 6 hot
  else if watts + m.rd F.vigilCapCfgHyst kp < limit ∧ !warm then
    let w := m.pow.windows + 1
    let m1 := m.setPow { m.pow with windows := w }
    if 10 ≤ w ∧ n < m.rd F.vigilCapNMax kp then m1.wr F.vigilCapN kp (n + 1) else m1
  else m.setPow { m.pow with windows := 0 }

/-- THERMAL_TRIP: a junction at 110 °C or a near layer at 100 °C. -/
def opThermalTrip (sensor temp : Nat) (m : Mach) : Mach :=
  let level := if sensor < 7 then 110 else 100
  if temp = 0x8000 ∨ toSigned 16 temp < (8 * level : Int) ∨ m.power = 3 then m
  else ((m.wr F.vigilResetCauseTripped kp 1).setPow { m.pow with tripped := true, tripBy := sensor }).solstice

/-! PLLs (R412, R413) -/

/-- PLL_LOCK_LOST: the domain's clock stops. -/
def opPllLockLost (d i : Nat) (m : Mach) : Mach :=
  if !bitOf i (m.rd F.clkStatusLocked d) then m
  else
    let m1 := (m.wr F.clkStatusLocked d (clearBit i (m.rd F.clkStatusLocked d))).orIn F.clkEventsLockLost d (2 ^ i)
    if m1.procUp 3 then m1.alert 9 d else m1

/-- PLL_LOCK_RETURN. -/
def opPllLockReturn (d i : Nat) (m : Mach) : Mach :=
  if !bitOf i (m.rd F.clkCtrlPllEn d) || decide (2 ≤ m.power) then m else m.wr F.clkStatusLocked d (setBit i (m.rd F.clkStatusLocked d))

def opPllEnable (d who v : Nat) (m : Mach) : Mach := m.permit (vigilWho who) who (fun m => m.pllEnable d v)

/-! Sampling, I2C, REFCLK_M -/

/-- SENSOR_SAMPLE: registers, alerts and the thermal wake. The first after a wake from NAP is that of start-up's step 2. -/
def opSensorSample (rails : List (Nat × Nat)) (temps : List Nat) (m : Mach) : Mach :=
  let m0 := m.sampled rails temps m.pow.check
  let m1 := m0.setPow { m0.pow with check := false, warm := m0.pow.warm || !m0.capCool }
  let hot := m1.tempGt 32 (m1.rd F.vigilThermWakeWake kp) || (m1.power == 2 && !m1.hotSensors.isEmpty)
  if hot then m1.wake 16 else m1.setPow { m1.pow with pending := clearBit 4 m1.pow.pending }

/-! Supplies and resets (R398, R399) -/

/-- STANDBY_POWER_ON: VAON and Vigil start from nothing, Vigil's registers at their reset values. -/
def opStandbyPowerOn (m : Mach) : Mach :=
  if m.pow.rails = 0 then
    let m1 := m.wiped (fun _ => false)
    { m1 with fields := [], pow := { PowSt.init with rails := 1 } }
  else m

/-- RAIL_POWER_UP: the 54 V rails. -/
def opRailPowerUp (m : Mach) : Mach := if m.pow.rails = 1 then m.setPow { m.pow with rails := 2 } else m

/-- BROWN_OUT: every rail but VAON goes down, VAON too when VSTBY fails; the cause is recorded while Vigil runs. -/
def opBrownOut (input : Nat) (m : Mach) : Mach :=
  if input = 1 then
    let m1 := m.wiped (fun _ => false)
    { m1 with fields := [], pow := { PowSt.init with rails := 0 } }
  else if m.pow.rails = 2 then
    let m1 := m.moduleReset 3
    m1.setPow { m1.pow with browned := some 0, rails := 1 }
  else m

/-- MRESET_N: a module reset. -/
def opMresetN (m : Mach) : Mach := m.moduleReset 2

/-- SW_RESET: a write of VIGIL.SW_RESET by HEALTH, the test port or the host (R418). -/
def opSwReset (who key : Nat) (m : Mach) : Mach :=
  m.permit (vigilWho who || who == idHost) who (fun m => if key = 0x5EED then m.moduleReset 5 else m)

/-- I2C_WRITE: the first byte sets the word pointer; every further one is NACKed. -/
def opI2cWrite (bytes : List Nat) (m : Mach) : Mach :=
  match bytes with
  | [] => m
  | b :: l => l.foldl (fun m _ => m.send (.i2cAck false)) ((m.setPow { m.pow with i2c := b % 256 }).send (.i2cAck true))

/-- The register of the keeper die that an I2C word shows (R417). -/
def i2cReg (w : Nat) : Option Nat :=
  if w < 12 then some (0x6000000 + 4 * w) else if 16 ≤ w ∧ w < 50 then some (0x6000100 + 4 * (w - 16))
  else if 64 ≤ w ∧ w < 67 then some (0x6000200 + 4 * (w - 64))
  else if w = 67 then some 0x5000004 else if w = 68 then some 0x5000020 else if w = 69 then some 0x5000018
  else if 80 ≤ w ∧ w < 84 then some (4 * (w - 80)) else none

/-- I2C_READ: a word, and the pointer advances. -/
def opI2cRead (m : Mach) : Mach :=
  let v := match i2cReg m.pow.i2c with
    | some o => m.rawWord 6 o
    | none => 0
  (m.setPow { m.pow with i2c := (m.pow.i2c + 1) % 256 }).send (.i2cWord v)

/-- REFCLK_RETRY: without REFCLK_M every die is held in reset (19 R439). -/
def opRefclkRetry (found : Bool) (m : Mach) : Mach :=
  if found then m.setPow { m.pow with refLost := false }
  else
    let m1 := m.wiped sensField
    m1.setPow { m1.pow with refLost := true, started := false }

/-! The meanings -/

def natPairs (l : List (Fin 65536 × Fin 65536)) : List (Nat × Nat) := l.map (fun x => (x.1.val, x.2.val))

/-- Standby power brings up what runs its own command: no domain gates it. -/
def execStandbyPowerOn (s : State) : Host.Outcome State Fault Refusal := .next { s with m := opStandbyPowerOn s.m }
def execRailPowerUp (s : State) := s.on .vigil opRailPowerUp
def execBrownOut (i : Fin 2) (s : State) := s.on .vigil (opBrownOut i.val)
def execMresetN (s : State) := s.on .vigil opMresetN
def execSwReset (who : Nat) (key : BitVec 16) (s : State) := s.on .keeper (opSwReset who key.toNat)
def execLaneWake (d : DieNo) (i : Fin 48) (s : State) := s.on .vigil (opLaneWake d.val i.val)
def execUsbResume (s : State) := s.on .vigil opUsbResume
def execSetState (st : Fin 4) (w : Fin 64) (ms : Word) (s : State) := s.on .keeper (opSetState st.val w.val ms.toNat)
def execSetCap (l : BitVec 16) (n : Byte) (s : State) := s.on .keeper (opSetCap l.toNat n.toNat)
def execReleaseHold (b : Byte) (s : State) := s.on .keeper (opReleaseHold b.toNat)
def execPowerStateEnter (s : State) := s.on .keeper opPowerStateEnter
def execWakeIn (also : Fin 64) (s : State) := s.on .vigil (opWakeIn also.val)
def execWakeCounterExpiry (s : State) := s.on .vigil opWakeCounterExpiry
def execTestPortWake (s : State) := s.on .vigil opTestPortWake
def execIoHoldRelease (who : Nat) (b : Byte) (s : State) := s.on .keeper (opIoHoldRelease who b.toNat)
def execCapWindowEnd (w : Fin 65536) (s : State) := s.on .vigil (opCapWindowEnd w.val)
def execThermalTrip (j : Fin 31) (t : BitVec 16) (s : State) := s.on .vigil (opThermalTrip j.val t.toNat)
def execPllLockLost (d : DieNo) (i : Fin 6) (s : State) := s.on .uncore (opPllLockLost d.val i.val)
def execPllLockReturn (d : DieNo) (i : Fin 6) (s : State) := s.on .uncore (opPllLockReturn d.val i.val)
def execPllEnable (d : DieNo) (who : Nat) (v : Fin 64) (s : State) := s.on .uncore (opPllEnable d.val who v.val)
def execStartupSequence (rails : List (Fin 65536 × Fin 65536)) (temps : List (BitVec 16)) (plls : List (DieNo × Fin 5)) (nears : List (Fin 24))
    (fars : List (Fin 24 × Fin 8 × Bool)) (s : State) :=
  s.on .keeper (opStartupSequence (natPairs rails) (temps.map BitVec.toNat) (plls.map (fun x => (x.1.val, x.2.val))) (nears.map (fun d => d.val))
    (fars.map (fun x => (x.1.val, x.2.1.val + 1, x.2.2))))
def execSensorSample (rails : List (Fin 65536 × Fin 65536)) (temps : List (BitVec 16)) (s : State) :=
  s.on .vigil (opSensorSample (natPairs rails) (temps.map BitVec.toNat))
def execI2cWrite (b : List Byte) (s : State) := s.on .vigil (opI2cWrite (b.map BitVec.toNat))
def execI2cRead (s : State) := s.on .vigil opI2cRead
def execRefclkRetry (found : Bool) (s : State) := s.on .vigil (opRefclkRetry found)

end Sys2Proof.Machine
end

