-- ==== Sys2Proof/Machine/RegBus.lean ====
section
/-! DEFINITION. Register accesses: the writers a register admits, the stopped conditions of rws fields, reads that have an effect, the
registers whose reads follow the machine, and the commands that reach registers by address. -/

namespace Sys2Proof.Machine

/-! Places -/

/-- The die and the indices of a place. -/
def plDie (p : Nat) : Nat := p % 8
def plI (p : Nat) : Nat := p / 8 % 128
def plJ (p : Nat) : Nat := p / 1024 % 512
/-- The unit number at a place of 160 per die in clusters of 16, of clusters, and of units numbered within their die. -/
def plTile (p : Nat) : Nat := 160 * plDie p + 16 * plI p + plJ p
def plCl (p : Nat) : Nat := 10 * plDie p + plI p
def plOf (n p : Nat) : Nat := n * plDie p + plI p

def blockOf (o : Nat) : Nat := o / 0x1000000
def inBlock (o : Nat) : Nat := o % 0x1000000

/-- Whether an offset of a die lies in a populated range (01 Tables 1-4, 1-5; 11 R272; 16 R393, R394). -/
def regPopulated (die o : Nat) : Bool :=
  let b := blockOf o
  let x := inBlock o
  if die = 6 then
    decide (b < 8) && (b != 2 || decide (x < 0x4000) || (decide (0x7000 ≤ x) && decide (x < 0x9000)) || (decide (0x200000 ≤ x) && decide (x < 0x201000)))
  else if b = 5 then true
  else if b = 7 ∧ 0x400000 ≤ x ∧ x < 0x402000 then bankDie ((x - 0x400000) / 0x400) == die
  else decide (b ≤ 9) && (enginePort o).isSome

/-- The domain that holds a register block. -/
def blockDom (die o : Nat) : Dom :=
  if die = 6 then .keeper
  else match blockOf o with
    | 1 => if 0x20000 ≤ o % 0x100000 ∧ o % 0x100000 < 0x40000 then .sram die else .core die
    | 2 => .noc die
    | 3 => .near die
    | 4 => .far die
    | 5 => .noc die
    | 8 => .slice die
    | _ => .uncore

/-- The tile of a row-push window, and the offset in it (11 R267). -/
def rowWindowAt (die o : Nat) : Option (Nat × Nat) :=
  let x := inBlock o % 0x100000
  if die < 6 ∧ blockOf o = 1 ∧ 0x40000 ≤ x ∧ x < 0x60000 then
    some (160 * die + 16 * (inBlock o / 0x100000) + (x - 0x40000) / 0x2000, x % 0x2000)
  else none

/-- The FNI of a target window and the word in it (11 R263). -/
def fniWindowAt (die o : Nat) : Option (Nat × Nat) :=
  if die < 6 ∧ 0x7800000 ≤ o ∧ o < 0x7820000 then some (32 * die + (o - 0x7800000) / 0x1000, o % 0x1000 / 4) else none

/-- The slice memory an offset lies in, and the offset in the slice's space (12 R297). -/
def sliceMemAt (die o : Nat) : Option (Nat × Nat) :=
  let x := inBlock o
  if die < 6 ∧ blockOf o = 8 ∧ x < 0x800000 ∧ 0x4000 ≤ x % 0x20000 then some (64 * die + x / 0x20000, x % 0x20000) else none

/-! Writers -/

/-- The processor a master identity is of. -/
def procOf (who : Nat) : Option Nat := (upFrom 0 10).find? (fun p => procId p == who)

/-- Who may write a register of the keeper die (13 R327; 16 R393 to R395; 17 R418, R419). -/
def keeperWriter (m : Mach) (o who : Nat) : Bool :=
  let x := inBlock o
  match blockOf o with
  | 2 =>
    if 0x4000 ≤ x then true
    else
      let r := x % 0x1000
      if r = 0 ∨ r = 0x10 then fwWriter who else if r = 4 ∨ r = 0x14 ∨ r = 0x18 then who == procId (x / 0x1000) else true
  | 3 =>
    if 0x1000 ≤ x ∧ x < 0x100C then who == idHealth || decide (0x1000 ≤ who ∧ who < 0x1004)
    else if 0x2000 ≤ x then who == (if x < 0x2080 then idHost else idTest) || decide (0x2100 ≤ x)
    else true
  | 4 => exempt who
  | 5 => if x = 0 then who == idHealth else if x = 0x1C then exempt who || who == idHost else exempt who
  | 6 => exempt who
  | 7 => if 0x320 ≤ x ∧ x < 0x344 then who == idTest && !m.fuses.intKey.isSome else true
  | _ => true

/-- Who may write a register of an engine die (03 R74; 04 R103; 07 R160; 10 R221; 11 R272; 12 R297; 14 R352; 16 R393, R394; 17 R420;
18 R421, R428, R429). -/
def engineWriter (m : Mach) (die o who : Nat) : Bool :=
  let x := inBlock o
  match blockOf o with
  | 0 => if 0x100 ≤ x ∧ x < 0x118 then exempt who else true
  | 1 =>
    let c := 10 * die + x / 0x100000
    let y := x % 0x100000
    let t := 16 * c + y / 0x1000
    if y < 0x10000 then
      let r := y % 0x1000
      if 0x100 ≤ r ∧ r < 0x120 then !m.tileCmdRefused t
      else if r = 0x40 then who == idAlmanac || who == idTest
      else if r = 0x44 then exempt who
      else true
    else if 0x10100 ≤ y ∧ y < 0x10140 then m.isRaw c
    else if 0x30000 ≤ y ∧ y < 0x40000 then exempt who
    else true
  | 2 => if 0x800000 ≤ x then pmWriter who else true
  | 5 => netBlockWho die who && (decide (x < 0x10000) || decide (0x21400 ≤ x) || exempt who)
  | 6 => laneWho die who
  | 7 => fabricWho die who
  | 8 => fabricWho die who
  | 9 =>
    if x < 0x1000 then
      (if x = 0 ∨ x = 0x10 then fwWriter who else if x = 4 ∨ x = 0x14 ∨ x = 0x18 then who == idSteward die else true)
    else if 0x1400 ≤ x ∧ x < 0x140C then who == idHealth || who == idSteward die
    else true
  | _ => true

def Mach.mayWriteReg (m : Mach) (die o who : Nat) : Bool := if die = 6 then keeperWriter m o who else engineWriter m die o who

/-! Stopped conditions (00 R9) -/

/-- An owner group may change while no bank of the cluster has it as its current or its target group (06 R132). -/
def Mach.groupFree (m : Mach) (c g : Nat) : Bool :=
  !(upFrom (16 * c) 16).any (fun b => m.rd F.bankOwnerCurrent (bankIx b) == g || (m.on F.bankOwnerPending (bankIx b) && m.rd F.bankOwnerGroup (bankIx b) == g))

def Mach.nearIdle (m : Mach) (d : Nat) : Bool := !m.near.waits.any (fun w => w.die == d)
def Mach.nearStopped (m : Mach) (d : Nat) : Bool := !m.on F.nearCtrlAccept d && m.nearIdle d
def Mach.veStopped (m : Mach) (c : Nat) : Bool := !m.on F.veCtrlRun (clIx c) && (m.ve c).idle

/-- No descriptor fetch and no completion record is outstanding or waits. -/
def Mach.ringsIdle (m : Mach) : Bool :=
  let ringReq (r : HostReq) : Bool := match r.why with
    | .fetch _ => true
    | .record _ => true
    | .io _ => false
  !m.hl.waiting.any ringReq && !m.hl.outst.any (fun x => ringReq x.2)

def Mach.ringsStopped (m : Mach) : Bool := !m.on F.hlCtrlRun kp && m.ringsIdle

/-- Whether the function of an rws field is stopped. -/
def Mach.fieldStopped (m : Mach) (die o : Nat) (p : Nat) : Bool :=
  let x := inBlock o
  if die = 6 then
    match blockOf o with
    | 1 => m.ringsStopped
    | 2 => m.almStopped
    | 4 => !m.cfgBusy
    | _ => true
  else match blockOf o with
    | 0 => x == 0x10C || !bitOf 5 (m.rd F.clkCtrlPllEn die)
    | 1 => m.groupFree (plCl p) (plJ p)
    | 2 => m.seStopped die (plI p)
    | 3 => m.nearStopped die
    | 4 => m.farStopped (plOf 4 p)
    | 5 => m.nocStopped die
    | 6 => if x < 0x40000 then !m.on F.lnCtrlEnable p && m.rd F.lnStatusState p == lsDisabled else m.fpStopped (plOf 6 p)
    | 7 => !bitOf (plJ p) (m.rd F.frClkgateEn (ix die (plI p) 0 0)) && bitOf (plJ p) (m.rd F.frClkgatedGated (ix die (plI p) 0 0))
    | 8 => m.slStopped (plOf 64 p)
    | _ => true

/-! Writes -/

/-- A field takes what a write brings, by its access code (00 R5 to R7, R9); stopped says whether its function is. -/
def Mach.takeFld (m : Mach) (stopped : Bool) (data hwSet : Nat) (x : Fld × Nat) : Mach :=
  let f := x.1
  let v := bitsOf f.hi f.lo data
  match f.acc with
  | .rw => if f.isLegal v then m.wr f x.2 v else m
  | .rws => if f.isLegal v && stopped then m.wr f x.2 v else m
  | .w1c => m.wr f x.2 ((m.rd f x.2 ^^^ (m.rd f x.2 &&& v)) ||| bitsOf f.hi f.lo hwSet)
  | _ => m

def Mach.putFld (m : Mach) (die o data hwSet : Nat) (x : Fld × Nat) : Mach := m.takeFld (m.fieldStopped die o x.2) data hwSet x

/-- Every field of the register takes what the write brings; what is stopped is what was when the write came (R9). -/
def Mach.putWord (m : Mach) (die o data hwSet : Nat) : Mach :=
  (fldsAt die o).foldl (fun a x => a.takeFld (m.fieldStopped die o x.2) data hwSet x) m

/-- The status of the answer among outputs, and the rest. -/
def takeResp (who : Nat) : List Output → Option Nat × List Output
  | [] => (none, [])
  | .resp w st d mk :: l => if w = who then (some st, l) else let r := takeResp who l; (r.1, .resp w st d mk :: r.2)
  | x :: l => let r := takeResp who l; (r.1, x :: r.2)

/-- An operation that answers a master: the status of its answer, none where it is held and answers later, and the machine without
the answer. -/
def Mach.via (m : Mach) (who : Nat) (f : Mach → Mach) : Option Nat × Mach :=
  let r := f { m with out := [] }
  let a := takeResp who r.out
  (a.1, { r with out := m.out ++ a.2 })

/-- What a write comes to: its status, or none while it is held; and the machine after. -/
abbrev WriteEnd := Option Nat × Mach

def landed (m : Mach) : WriteEnd := (some rsOk, m)

/-- A write to a tile's registers (chapters 3, 5, 18). -/
def Mach.writeTile (m : Mach) (t r who o data hw : Nat) : WriteEnd :=
  let die := t / 160
  if r = 0 then
    let m1 := opTileCtrlRun t (bitOf 0 data) m
    landed (if bitOf 1 data then opTileFlush t m1 else m1)
  else if r = 0xC then landed (opTileRepairWrite t data m)
  else if r = 0x30 then
    landed (if bitOf 0 hw then m.wr F.tileTrapValid (tileIx t) 1 else if bitOf 0 data then opTrapLatchClear (.tile (Fin.ofNat 960 t)) m else m)
  else if r = 0x40 then m.via who (opTileFenceWrite t who (bitOf 0 data))
  else if r = 0x44 then
    if bitOf 0 data then m.via who (opTileSelftestGo t who (bitOf 1 data)) else landed (m.putWord die o data hw)
  else if 0x100 ≤ r ∧ r < 0x11C then landed (m.setTile t { m.tile t with staging := setNth (m.tile t).staging ((r - 0x100) / 4) data })
  else if r = 0x11C then m.via who (opTileCmdEnqueue t who data)
  else landed (m.putWord die o data hw)

/-- A write to a cluster's other registers (chapters 4, 5, 6, 18). -/
def Mach.writeCluster (m : Mach) (c y who o data hw : Nat) : WriteEnd :=
  let die := c / 10
  if y = 0x10000 then
    let m1 := opVeCtrlRun c (bitOf 0 data) m
    landed (if bitOf 1 data then opVeFlush c m1 else m1)
  else if y = 0x10020 then
    landed (if bitOf 0 hw then m.wr F.veTrapValid (clIx c) 1 else if bitOf 0 data then opTrapLatchClear (.ve (Fin.ofNat 60 c)) m else m)
  else if 0x10100 ≤ y ∧ y < 0x1013C then landed (m.setVe c { m.ve c with staging := setNth (m.ve c).staging ((y - 0x10100) / 4) data })
  else if y = 0x1013C then m.via who (opVeDescEnqueue c who data)
  else if 0x20100 ≤ y ∧ y < 0x20200 ∧ y % 0x10 = 0 then
    let b := 16 * c + (y - 0x20100) / 0x10
    landed (opBankOwnerWrite b (data % 16) (m.putFld die o data hw (F.bankOwnerHandoverDone, bankIx b)))
  else if y = 0x30000 then
    if bitOf 1 data then m.via who (fun m => opMarchAbort c who (m.putWord die o data hw))
    else if bitOf 0 data then m.via who (opMarchGo c who data)
    else landed (m.putWord die o data hw)
  else landed (m.putWord die o data hw)

/-- A write to a stream engine (chapter 8). -/
def Mach.writeSe (m : Mach) (d e r who o data hw : Nat) : WriteEnd :=
  if r = 0 then
    let m1 := m.seRun d e (bitOf 0 data)
    landed (if bitOf 1 data then m1.seFlush d e else m1)
  else if 0x200 ≤ r ∧ r < 0x300 ∧ r % 0x20 = 0x14 then landed (if bitOf 0 data then m.arm d e ((r - 0x200) / 0x20) else m)
  else if 0x400 ≤ r ∧ r < 0x500 then m.via who (opSeSlotWrite d e ((r - 0x400) / 4) who (data % 4))
  else landed (m.putWord d o data hw)

/-- A write to the page movers (07 R160). -/
def Mach.writeMover (m : Mach) (d r who o data hw : Nat) : WriteEnd :=
  if 0x100 ≤ r ∧ r < 0x180 then
    let k := (r - 0x100) / 0x20
    let w := r % 0x20 / 4
    if w < 3 then landed (m.setMover d k { m.mover d k with staging := setNth (m.mover d k).staging w data })
    else if w = 3 then m.via who (opPmCmdEnqueue d k who data)
    else landed m
  else landed (m.putWord d o data hw)

/-- How many retirement entries are valid follows the writes (06 R145). -/
def Mach.retireCount (m : Mach) (d : Nat) (before : Nat) (o : Nat) : Mach :=
  let after := m.rawWord d o / 2 ^ 31
  m.wr F.nearRetireCountCount d (m.rd F.nearRetireCountCount d + after - before)

/-- The largest SPREAD of a PLL, in steps of 0.25 % (17 Table 17-7). -/
def spreadMax (i : Nat) : Nat := if i = 3 then 2 else if i = 4 then 0 else 8

/-- The PLLs' spread: a nibble of CLK_SPREAD lands while its PLL is off, where it is within its range (17 R412; 00 R5). -/
def Mach.writeSpread (m : Mach) (d data : Nat) : Mach :=
  let old := m.rd F.clkSpreadSpread d
  let lands (i : Nat) : Bool := !bitOf i (m.rd F.clkCtrlPllEn d) && decide (bitsOf (4 * i + 3) (4 * i) data ≤ spreadMax i)
  m.wr F.clkSpreadSpread d ((upFrom 0 6).foldl (fun a i => a + bitsOf (4 * i + 3) (4 * i) (if lands i then data else old) * 2 ^ (4 * i)) 0)

/-- A write to a region's, an FNI's or an I/O bank's register (chapter 11). -/
def Mach.writeFabric (m : Mach) (d x who o data hw : Nat) (pkt : Option Packet) : WriteEnd :=
  if x < 0x18000 ∧ x % 0x1000 = 4 then landed (m.clkGate d (x / 0x1000) (data % 65536))
  else if x < 0x18000 ∧ 0x80 ≤ x % 0x1000 ∧ x % 0x1000 < 0xC0 then
    let p := rgnClk d (x / 0x1000) ((x % 0x1000 - 0x80) / 4)
    let m1 := m.putWord d o data hw
    landed (if !m1.on F.frClkselSelFabric p && m1.rd F.frClkselSel p != m1.rd F.frClkselActive p then m1.wr F.frClkselSwitching p 1 else m1)
  else match fniWindowAt d o with
    | some (k, w) => m.via who (fun m => m.fniTarget k who 0x05 w data pkt)
    | none => landed (m.putWord d o data hw)

/-- A write to a slice: its control registers, or its memories (12 R297, R298). -/
def Mach.writeSlice (m : Mach) (k r who o data hw : Nat) : WriteEnd :=
  if 0x4000 ≤ r then
    let a := m.slAccess k who r 4 (some (leBytes 4 data, List.replicate 4 true)) false
    (some a.1, a.2.2.2)
  else if r = 0 then landed (m.slRun k (bitOf 0 data))
  else if r = 0x18 then landed (m.orIn F.slIrqPending (slIx k) (data % 256))
  else landed ((m.putWord (k / 64) o data hw).slRing k (m.slFull k))

/-- A write to a lane or a frame port (14 R334, R339, R347, R351). -/
def Mach.writeLanes (m : Mach) (d x o data hw : Nat) : Mach :=
  if x < 0x3000 ∧ x % 0x100 = 0 then
    let n := 48 * d + x / 0x100
    let m1 := if bitOf 0 data then m.lnEnable n else m.lnDisable n
    if bitOf 1 data then m1.lnRecal n else m1
  else if 0x40000 ≤ x ∧ x < 0x40600 ∧ x % 0x100 = 0 then
    let p := 6 * d + (x - 0x40000) / 0x100
    ((m.putWord d o data hw).wr F.fpCtrlEn (fpIx p) (m.rd F.fpCtrlEn (fpIx p))).fpEn p (bitOf 0 data)
  else if 0x40000 ≤ x ∧ x < 0x40600 ∧ x % 0x100 = 0x1C then m.fpRdWrite (6 * d + (x - 0x40000) / 0x100) (data % 65536)
  else m.putWord d o data hw

/-- A write to the FW registers of a processor (16 R393). -/
def Mach.writeFw (m : Mach) (p r who die o data hw : Nat) : WriteEnd :=
  if r = 0 then
    if bitOf 0 data then
      let f := m.fresh 32
      f.2.via who (opFwCtrlRestart p who f.1)
    else if bitOf 1 data then m.via who (opFwCtrlReleaseHold p who)
    else landed m
  else if r = 0x14 then m.via who (opFwKick p who)
  else if r = 0x18 then
    let x := m.proc p
    landed (m.setProc p { x with trace := (x.trace ++ [data]).drop (x.trace.length - 7) })
  else landed (m.putWord die o data hw)

/-- The bits of a common mailbox register that a master's write reaches (16 R394, Table 16-9): the keeper's processors' those of their
own mailboxes; on an engine die the eight mailboxes' bits, and in MB_DOORBELL and its enables the ten handover bits above them. -/
def commonMask (die r who : Nat) : Nat :=
  if die < 6 then (if r = 0 then 0xFF else 0x3FFFF)
  else if who = idHealth then 0xFFFFFFFF
  else match procOf who with
    | some p => openMask p
    | none => 0

/-- A write to the common registers of a die's mailboxes. -/
def Mach.writeMbCommon (m : Mach) (die o who data hw : Nat) : Mach :=
  let mask := commonMask die (o % 0x10) who
  match fldsAt die o with
  | [(f, p)] => if f.acc = .w1c then m.putFld die o (data &&& mask) hw (f, p)
                else m.wr f p ((m.rd f p ^^^ (m.rd f p &&& mask)) ||| (data &&& mask))
  | _ => m

/-- A write to ALMANAC's reserve requests: bits that change ask for a cluster or give it back (07 R170). -/
def Mach.writeReserve (m : Mach) (who lo n data : Nat) : Mach :=
  let old := if lo = 0 then m.rd F.almReserveLo kp else m.rd F.almReserveHi kp
  (upFrom 0 n).foldl (fun m i =>
    if bitOf i data = bitOf i old then m
    else (m.via who (if bitOf i data then opReserveRequest (lo + i) who else opReserveRelease (lo + i) who)).2) m

/-- A write to a register of the keeper die. -/
def Mach.writeKeeper (m : Mach) (o who data hw : Nat) : WriteEnd :=
  let x := inBlock o
  match blockOf o with
  | 1 =>
    if x = 0 then
      let m1 := m.putWord 6 o data hw
      landed (if m.highSpeed && !m.on F.hlCtrlRun kp then m1.wr F.hlCtrlRun kp 0 else m1)
    else landed (m.putWord 6 o data hw)
  | 2 =>
    if x < 0x4000 then m.writeFw (x / 0x1000) (x % 0x1000) who 6 o data hw
    else if x = 0x200000 then m.via who (opAlmCtrlRun who (bitOf 0 data))
    else if x = 0x200014 then landed (m.writeReserve who 0 32 data)
    else if x = 0x200018 then landed (m.writeReserve who 32 28 data)
    else landed (m.putWord 6 o data hw)
  | 3 =>
    if 0x1000 ≤ x ∧ x < 0x100C then landed (m.writeMbCommon 6 o who data hw)
    else if 0x2000 ≤ x ∧ x < 0x2100 then
      let s := (x - 0x2000) / 0x80
      let r := x % 0x80
      if r < 0x3C then landed (m.wr F.mbSendData (ix 6 s (r / 4) 0) data)
      else if r = 0x3C then m.via who (opSendPortSend s who data)
      else landed (m.putWord 6 o data hw)
    else landed (m.putWord 6 o data hw)
  | 5 =>
    if x = 0x14 then landed (m.releaseBanks (data % 256))
    else if x = 0x1C then landed (if data % 65536 = 0x5EED then m.moduleReset 5 else m)
    else landed (m.putWord 6 o data hw)
  | 7 =>
    if x = 0x340 then (if bitOf 0 data then m.via who (opIntKeyFuse who) else landed m)
    else if x = 0x420 then (if bitOf 0 data then m.via who (opAttestGo who) else landed m)
    else landed (m.putWord 6 o data hw)
  | _ => landed (m.putWord 6 o data hw)

/-- A write to a register of an engine die. -/
def Mach.writeEngine (m : Mach) (d o who data hw : Nat) (pkt : Option Packet) : WriteEnd :=
  let x := inBlock o
  match blockOf o with
  | 0 =>
    if x = 0x100 then landed (m.pllEnable d (data % 64))
    else if x = 0x10C then landed (m.writeSpread d data)
    else landed (m.putWord d o data hw)
  | 1 =>
    let c := 10 * d + x / 0x100000
    let y := x % 0x100000
    if y < 0x10000 then m.writeTile (16 * c + y / 0x1000) (y % 0x1000) who o data hw else m.writeCluster c y who o data hw
  | 2 => if x < 0x800000 then m.writeSe d (x / 0x10000) (x % 0x10000) who o data hw else m.writeMover d (x - 0x800000) who o data hw
  | 3 =>
    if 0x1000 ≤ x ∧ x < 0x1400 then
      landed ((m.putWord d o data hw).retireCount d (m.rawWord d o / 2 ^ 31) o)
    else landed (m.putWord d o data hw)
  | 4 =>
    if x % 0x10000 = 0 ∧ x < 0x40000 then
      let ch := 4 * d + x / 0x10000
      landed ((if bitOf 1 data then opFarTrain ch m else m).wr F.farCtrlAccept (farIx ch) (data % 2))
    else landed (m.putWord d o data hw)
  | 5 =>
    if x = 0 then m.via who (opNocCtrlRun d who (bitOf 0 data))
    else if x = 0x30014 then m.via who (opTraceRunWrite d who (bitOf 0 data))
    else landed (m.putWord d o data hw)
  | 6 => landed (m.writeLanes d x o data hw)
  | 7 => m.writeFabric d x who o data hw pkt
  | 8 => if x < 0x800000 then m.writeSlice (64 * d + x / 0x20000) (x % 0x20000) who o data hw else landed m
  | 9 =>
    if x < 0x1000 then m.writeFw (4 + d) x who d o data hw
    else if 0x1400 ≤ x ∧ x < 0x140C then landed (m.writeMbCommon d o who data hw)
    else landed (m.putWord d o data hw)
  | _ => landed m

/-- What a register access meets before it reaches its register (10 R239): an answer, or none where it reaches it; beside it whether it
stalls. -/
def Mach.gate (m : Mach) (die o size who : Nat) (write : Bool) : Option Nat × Bool :=
  if !regPopulated die o then (some rsDecode, false)
  else if (rowWindowAt die o).isSome && m.alive (blockDom die o) then (none, false)
  else if size ≠ 4 ∨ o % 4 ≠ 0 then (some rsMalformed, false)
  else if !m.alive (blockDom die o) then
    (if die < 6 ∧ blockOf o = 1 ∧ 2 ≤ m.power then (some rsUnavailable, false) else (none, true))
  else if write && (sliceMemAt die o).isNone && (fniWindowAt die o).isNone && !m.mayWriteReg die o who then (some rsRefused, false)
  else if !write && decide (die < 6) && blockOf o == 5 && !netBlockWho die who then (some rsRefused, false)
  else (none, false)

/-- A write that reaches its register: a row-push window, the keeper's registers or an engine die's. -/
def Mach.regPut (m : Mach) (die o who data hw : Nat) (pkt : Option Packet) : WriteEnd :=
  match rowWindowAt die o with
  | some (t, off) =>
    let r := m.rowWindow t 0x05 off [] []
    (some r.1, r.2)
  | none => if die = 6 then m.writeKeeper o who data hw else m.writeEngine die o who data hw pkt

/-- A write by address; pkt is the packet it came in, if any. An address that is no register's is answered DECODE (log 145). -/
def Mach.busWrite (m : Mach) (who addr size data hw : Nat) (pkt : Option Packet) : WriteEnd :=
  match placeOf m.fuses addr with
  | .reg die o =>
    (match m.gate die o size who true with
    | (_, true) => (none, m)
    | (some st, false) => (some st, m)
    | (none, false) => m.regPut die o who data hw pkt)
  | _ => (some rsDecode, m)

/-! Reads -/

/-- A number set in bits. -/
def bitIf (b : Bool) : Nat := b2n b

def Mach.drainTile (m : Mach) (c : Nat) : Option Nat :=
  match (m.ve c).exec with
  | some e => if (dA e.cmd.w).kind = 3 then some ((dA e.cmd.w).base % 16) else none
  | none => none

/-- Jobs admitted as STREAM or GEN (07 Table 7-9). -/
def Mach.admitted (m : Mach) : Nat := (m.alm.jobs.filter (fun j => decide (j.cls ≤ 1))).length

/-- Entries in a stream engine's entry queue: those that have not completed (08 R178). -/
def StreamEng.entryFill (x : StreamEng) : Nat := match x.run with
  | some t => t.openEntries.length
  | none => 0

def StreamEng.runDesc (x : StreamEng) : Nat := match x.run with
  | some t => t.arm.desc
  | none => 0

/-- Fields whose reads follow the machine. -/
def views : List (Fld × (Mach → Nat → Nat)) :=
  [(F.tileStatusIdle, fun m p => bitIf (m.tile (plTile p)).idle),
   (F.tileStatusStopped, fun m p => bitIf (m.tileStopped (plTile p))),
   (F.tileStatusPlaneReady, fun m p => bitIf ((m.tile (plTile p)).planes.any (fun q => q.ready && !q.active))),
   (F.tileStatusQueueFill, fun m p => (m.tile (plTile p)).queue.length),
   (F.veStatusIdle, fun m p => bitIf (m.ve (plCl p)).idle),
   (F.veStatusStopped, fun m p => bitIf (m.veStopped (plCl p))),
   (F.veStatusQueueFill, fun m p => (m.ve (plCl p)).queue.length),
   (F.veStatusDrainTile, fun m p => (m.drainTile (plCl p)).getD 0),
   (F.veStatusDrainActive, fun m p => bitIf (m.drainTile (plCl p)).isSome)] ++
  [(F.nearStatusIdle, fun m p => bitIf (m.nearIdle (plDie p))),
   (F.pmStatusIdle, fun m p => (upFrom 0 4).foldl (fun a k => a + bitIf (m.mover (plDie p) k).queue.isEmpty * 2 ^ k) 0),
   (F.almStatusStopped, fun m _ => bitIf m.almStopped),
   (F.almStatusBroken, fun m _ => bitIf m.broken),
   (F.almStatusMigrating, fun m _ => bitIf (!m.alm.migs.isEmpty)),
   (F.almStatusAdmitted, fun m _ => m.admitted),
   (F.seStatusIdle, fun m p => bitIf (m.se (plDie p) (plI p)).idle),
   (F.seStatusStopped, fun m p => bitIf (m.seStopped (plDie p) (plI p))),
   (F.seStatusRunning, fun m p => bitIf (m.se (plDie p) (plI p)).run.isSome),
   (F.seStatusRunDesc, fun m p => (m.se (plDie p) (plI p)).runDesc),
   (F.seStatusRunqFill, fun m p => (m.se (plDie p) (plI p)).queue.length),
   (F.seStatusEntryFill, fun m p => (m.se (plDie p) (plI p)).entryFill),
   (F.farStatusIdle, fun m p => bitIf (m.farCh (plOf 4 p)).idle),
   (F.nocStatusStopped, fun m p => bitIf (m.nocStopped (plDie p)))] ++
  [(F.fniStatusOutstanding, fun m p => (m.fni (plOf 32 p)).outstanding),
   (F.fniStatusSinkFill, fun m p => (m.fni (plOf 32 p)).sink.length),
   (F.slStatusIdle, fun m p => bitIf (m.slIdle (plOf 64 p))),
   (F.slStatusStopped, fun m p => bitIf (m.slStopped (plOf 64 p))),
   (F.fpStatusIdle, fun m p => bitIf (m.fpIdle (plOf 6 p))),
   (F.fpStatusInFrame, fun m p => bitIf (m.port (plOf 6 p)).frame.isSome),
   (F.fpStatusAligned, fun m p => bitIf (m.fpAligned (plOf 6 p))),
   (F.hlStatusRingsIdle, fun m _ => bitIf m.ringsIdle),
   (F.hlStatusStopped, fun m _ => bitIf m.ringsStopped),
   (F.hlStatusHeld, fun m _ => m.hl.held.length),
   (F.mbStatusOpen, fun m p => bitIf (bitOf (plI p) (m.rd F.mbOpen (plDie p)))),
   (F.attestReport, fun m p => nth 0 m.fw.report (p / 8))]

/-- A field as it reads (00 R6). -/
def Mach.look (m : Mach) (x : Fld × Nat) : Nat :=
  if x.1.acc = .wo then 0
  else match views.find? (fun v => v.1.id == x.1.id) with
    | some v => v.2 m x.2 % 2 ^ x.1.width
    | none => m.rd x.1 x.2

def Mach.lookAll (m : Mach) : List (Fld × Nat) → Nat
  | [] => 0
  | x :: l => m.look x * 2 ^ x.1.lo + m.lookAll l

/-- A read of rc fields clears them; an event of the same cycle is kept (00 R8). -/
def Mach.clearRead (m : Mach) (events : Nat) : List (Fld × Nat) → Mach
  | [] => m
  | x :: l => (if x.1.acc = .rc then m.wr x.1 x.2 (bitsOf x.1.hi x.1.lo events) else m).clearRead events l

/-- The word of a mailbox, which its owner reads from the latch (16 R385): its number, its owner and the word, 16 for MB_STATUS. -/
def mailWordAt (die o : Nat) : Option (Nat × Nat × Nat) :=
  let x := inBlock o
  if die = 6 ∧ blockOf o = 3 ∧ x < 0x1000 ∧ x % 0x80 ≤ 0x40 then some (x / 0x80, x / 0x80 / 8, x % 0x80 / 4)
  else if die < 6 ∧ blockOf o = 9 ∧ 0x1000 ≤ x ∧ x < 0x1400 ∧ x % 0x80 ≤ 0x40 then some (0x100 + 8 * die + (x - 0x1000) / 0x80, 4 + die, x % 0x80 / 4)
  else none

/-- The crash log's words, and the next SEQ (16 R382, R393). -/
def Mach.crashWord (m : Mach) (o : Nat) : Option Nat :=
  if o = 0x2007000 then some (m.fw.crashSeq % 2 ^ 32)
  else if 0x2008000 ≤ o ∧ o < 0x2009000 then some (nth 0 (SMap.get [] ((o - 0x2008000) / 0x40) m.fw.log) (o % 0x40 / 4))
  else none

/-- A register's word as a master reads it, and the machine after. -/
def Mach.readReg (m : Mach) (die o who events : Nat) : Nat × Mach :=
  let fs := fldsAt die o
  let word := m.lookAll fs
  match mailWordAt die o with
  | some (n, owner, w) =>
    if who ≠ procId owner then (word, m)
    else
      let l := SMap.get (MbLatch.mk [] 0 false) n m.fw.latches
      if w = 0 then (word, { (opMailboxReadWord0 n who m) with out := m.out })
      else if w = 15 then (nth 0 l.words 15, { (opMailboxReadWord15 n who m) with out := m.out })
      else if w = 16 then (word % 65536 + l.sender * 65536, m)
      else (nth 0 l.words w, m)
  | none =>
    (match (if die = 6 then m.crashWord o else none) with
    | some v => (v, m)
    | none => (word, m.clearRead events fs))

/-- What a read comes to: its status, or none while it is held; its data and marks; and the machine after. -/
structure ReadEnd where
  status : Option Nat
  data : List Byte
  marks : Nat
  after : Mach

/-- A read that reaches its register: a row-push window, a target window, a slice's memory or a register. -/
def Mach.regGet (m : Mach) (die o who events : Nat) (pkt : Option Packet) : ReadEnd :=
  match rowWindowAt die o, fniWindowAt die o, sliceMemAt die o with
  | some (t, off), _, _ =>
    let r := m.rowWindow t 0x04 off [] []
    ⟨some r.1, [], 0, r.2⟩
  | none, some (k, w), _ =>
    let r := m.via who (fun m => m.fniTarget k who 0x04 w 0 pkt)
    ⟨r.1, [], 0, r.2⟩
  | none, none, some (k, r) =>
    let a := m.slAccess k who r 4 none false
    ⟨some a.1, a.2.1, a.2.2.1, a.2.2.2⟩
  | none, none, none =>
    let r := m.readReg die o who events
    ⟨some rsOk, leBytes 4 r.1, 0, r.2⟩

/-- A read by address. The spec does not say how an access that names a populated memory address as a register, or a plain access or
an atomic to a register or to a tier that takes none, is answered: DECODE here, MALFORMED there (log 145; 10 Table 10-7). -/
def Mach.busRead (m : Mach) (who addr size events : Nat) (pkt : Option Packet) : ReadEnd :=
  match placeOf m.fuses addr with
  | .reg die o =>
    (match m.gate die o size who false with
    | (_, true) => ⟨none, [], 0, m⟩
    | (some st, false) => ⟨some st, [], 0, m⟩
    | (none, false) => m.regGet die o who events pkt)
  | _ => ⟨some rsDecode, [], 0, m⟩

/-! The commands -/

/-- REGISTER_WRITE (00 R4 to R7, R9). -/
def opRegisterWrite (who addr size data hw : Nat) (m : Mach) : Mach :=
  let r := m.busWrite who addr size data hw none
  match r.1 with
  | some st => r.2.respond who st
  | none => r.2

/-- READ_CLEAR (00 R8): a read of a register, with the events counted into it in the same cycle. -/
def opReadClear (who addr events : Nat) (m : Mach) : Mach :=
  let r := m.busRead who addr 4 events none
  match r.status with
  | some st => r.after.send (.resp who st r.data r.marks)
  | none => r.after

/-- The STATUS of a command reply (15 R359). -/
def penebStatus (st : Nat) : Nat := if st = rsOk then 0 else if st = rsDecode ∨ st = rsMalformed then 2 else 1

/-- REG_READ (15 R359): as the host. -/
def opRegRead (addr tag : Nat) (m : Mach) : Mach :=
  if !m.attached then m
  else
    let r := m.busRead idHost addr 4 0 none
    match r.status with
    | some st => r.after.peneb 0xA4 (penebStatus st) tag 0 addr (if st = rsOk then r.data else [])
    | none => r.after

/-- REG_WRITE (15 R359): as the host. -/
def opRegWrite (addr data tag : Nat) (m : Mach) : Mach :=
  if !m.attached then m
  else
    let r := m.busWrite idHost addr 4 data 0 none
    match r.1 with
    | some st => r.2.peneb 0xA5 (penebStatus st) tag 0 addr []
    | none => r.2

/-- What Capture-DR loads into NET_ACCESS: DATA, status and DONE of the last access (13 R326). -/
def CfgSt.netCapture (x : CfgSt) : Nat := x.netData * 2 ^ 48 + x.netStatus * 2 ^ 81 + (if x.netDone then 2 ^ 89 else 0)

/-- The answer to the test port among outputs: its status and data. -/
def testAnswer : List Output → Option (Nat × List Byte)
  | [] => none
  | .resp w st d _ :: l => if w = idTest then some (st, d) else testAnswer l
  | _ :: l => testAnswer l

/-- An access of the test port that was held is done once its answer has gone out. -/
def Mach.netSettle (m : Mach) : Mach :=
  if m.cfg.netBusy then
    (match testAnswer (m.out.drop m.cfg.netAt) with
    | some (st, d) => m.setCfg { m.cfg with netBusy := false, netData := leNat d, netStatus := st, netDone := true }
    | none => m)
  else m

/-- NET_ACCESS (13 R326): the scan shows the last access and issues the next, unless the last has not been answered. -/
def opNetAccess (addr data : Nat) (write : Bool) (m0 : Mach) : Mach :=
  let m1 := m0.netSettle
  let m := (m1.setIr 0x20).send (.tdo 120 m1.cfg.netCapture)
  if m.cfg.netBusy then m
  else
    let done (m : Mach) (st : Option Nat) (data : Nat) : Mach :=
      match st with
      | some st => m.setCfg { m.cfg with netBusy := false, netData := data, netStatus := st, netDone := true }
      | none => m.setCfg { m.cfg with netBusy := true, netAt := m.out.length, netDone := false }
    if write then
      let r := m.busWrite idTest addr 4 data 0 none
      done r.2 r.1 m.cfg.netData
    else
      let r := m.busRead idTest addr 4 0 none
      done r.after r.status (leNat r.data)

/-! The meanings -/

def execRegisterWrite (who addr size : Nat) (data hw : Word) (s : State) := s.on .keeper (opRegisterWrite who addr size data.toNat hw.toNat)
def execReadClear (who addr events : Nat) (s : State) := s.on .keeper (opReadClear who addr events)
def execRegRead (addr : Tagged Nat) (s : State) := s.on .keeper (opRegRead addr.val addr.tag.val)
def execRegWrite (addr : Tagged Nat) (data : Word) (s : State) := s.on .keeper (opRegWrite addr.val data.toNat addr.tag.val)
def execNetAccess (addr : BitVec 48) (data : Word) (write : Bool) (s : State) := s.on .keeper (opNetAccess addr.toNat data.toNat write)

end Sys2Proof.Machine
end

