-- ==== Sys2Proof/Machine/Deliver.lean ====
section
/-! DEFINITION. ROUTER_FORWARD (10 R227, R230, R235 to R238): routers pass packets on, and packets that leave the network reach their
units and are answered. -/

namespace Sys2Proof.Machine

/-! Units (10 R225, R239) -/

/-- What a unit answers a request with: its status, its data and marks (REREAD 1, FAILED 2, LOST 4, SAT 8), and the machine after. -/
structure Served where
  status : Nat
  data : List Byte
  marks : Nat
  after : Mach

/-- The marks of a response packet: a bad bank word's error mark is FAILED. -/
def packetMarks (mk : Nat) : Nat := (mk % 16) ||| (if bitOf 4 mk then 2 else 0)

/-- The test port's accesses to a bank take it from a march run (18 R427). -/
def Mach.testTouches (m : Mach) (who a n : Nat) : Mach :=
  if who ≠ idTest then m
  else (unitsOf a n).foldl (fun m u => match placeOf m.fuses u with
    | .sram c o => m.marchTouched (c * 16 + o / 0x140000)
    | _ => m) m

/-- Whether a store admits an access, or its answer; none where it has the access wait. -/
def Mach.storeGate (m : Mach) (who a n : Nat) : Option (Option Nat) × Mach :=
  let s := m.spanSay who a n
  match s.1 with
  | .ok => (some none, m.testTouches who a n)
  | .wait => (none, m)
  | .refuse => (some (some rsRefused), m.unitRefuse who s.2)
  | .unavail => (some (some rsUnavailable), m)
  | .decode => (some (some rsDecode), m)

/-- A READ or WRITE at a store. -/
def Mach.storeAccess (m : Mach) (p : Packet) : Option Served :=
  let n := if p.type = 0x10 then p.data.length else p.len
  let g := m.storeGate p.src p.addr n
  match g.1 with
  | none => none
  | some (some st) => some ⟨st, [], 0, g.2⟩
  | some none =>
    if p.type = 0x10 then some ⟨rsOk, [], 0, g.2.writeAtEn p.addr p.data p.en⟩
    else
      let r := g.2.readAt p.src p.addr n
      some ⟨rsOk, r.1, packetMarks r.2.1, r.2.2⟩

/-- The response that a bank's atomic sends. -/
def lastResp : List Output → Nat × List Byte × Nat
  | [] => (rsOk, [], 0)
  | .resp _ st d mk :: _ => (st, d, mk)
  | _ :: l => lastResp l

/-- An atomic: the banks alone take it, aligned within a word (06 R134). -/
def Mach.atomicAccess (m : Mach) (p : Packet) : Option Served :=
  match placeOf m.fuses p.addr with
  | .none => some ⟨rsDecode, [], 0, m⟩
  | .sram c o =>
    let wide := p.len == 8
    let v := leNat p.data
    let op : BankOp := if p.type = 0x02 then .add wide (o % 64) v else .swap wide (o % 64) v
    if !opAligned op then some ⟨rsMalformed, [], 0, m⟩
    else
      let g := m.storeGate p.src p.addr 1
      (match g.1 with
      | none => none
      | some (some st) => some ⟨st, [], 0, g.2⟩
      | some none =>
        let b := c * 16 + o / 0x140000
        let r := ({ g.2 with out := [] } : Mach).atomic b ⟨0, p.src, o % 0x140000 / 64, 1, op, false⟩
        let a := lastResp r.out
        some ⟨a.1, a.2.1, packetMarks a.2.2, { r with out := m.out }⟩)
  | .reg die o => some ⟨if regPopulated die o then rsMalformed else rsDecode, [], 0, m⟩
  | _ => some ⟨rsMalformed, [], 0, m⟩

/-- A READ or WRITE at a die's register space: a row-push window and a slice's memories take their kinds; a register takes none. -/
def Mach.windowAccess (m : Mach) (die o : Nat) (p : Packet) : Option Served :=
  if !regPopulated die o then some ⟨rsDecode, [], 0, m⟩
  else if (rowWindowAt die o).isNone && (sliceMemAt die o).isNone then some ⟨rsMalformed, [], 0, m⟩
  else if !m.alive (blockDom die o) then (if die < 6 ∧ blockOf o = 1 ∧ 2 ≤ m.power then some ⟨rsUnavailable, [], 0, m⟩ else none)
  else match rowWindowAt die o, sliceMemAt die o with
    | some (t, off), _ =>
      let r := m.rowWindow t p.type off p.data p.en
      some ⟨r.1, [], 0, r.2⟩
    | _, some (k, r) =>
      let a := m.slAccess k p.src r p.len (if p.type = 0x10 then some (p.data, p.en) else none) false
      some ⟨a.1, a.2.1, packetMarks a.2.2.1, a.2.2.2⟩
    | _, _ => some ⟨rsMalformed, [], 0, m⟩

/-- A request at the unit its address names; none while the unit has it wait. -/
def Mach.serve (m : Mach) (p : Packet) : Option Served :=
  if p.type = 0x02 ∨ p.type = 0x03 then m.atomicAccess p
  else if p.type = 0x04 then
    let r := m.busRead p.src p.addr p.len 0 none
    r.status.map (fun st => ⟨st, r.data, packetMarks r.marks, r.after⟩)
  else if p.type = 0x05 then
    let r := m.busWrite p.src p.addr p.len (leNat (p.data.take 4)) 0 none
    r.1.map (fun st => ⟨st, [], 0, r.2⟩)
  else match placeOf m.fuses p.addr with
    | .reg die o => m.windowAccess die o p
    | _ => m.storeAccess p

/-- The type of the response to a request. -/
def rspType (type status : Nat) : Nat :=
  if status ≠ rsOk then 0x2F
  else match type with
    | 0x01 => 0x20
    | 0x04 => 0x23
    | 0x05 => 0x24
    | 0x10 => 0x21
    | _ => 0x22

/-- A unit's NI sends a response; without a route it is lost (10 R228). -/
def Mach.sendRsp (m : Mach) (die port : Nat) (p : Packet) : Mach := m.niSend die port p

/-- A MAILBOX packet has reached its port; MAILBOX or FNI_MESSAGE_ARRIVE gives it to its receiver (16 R384; 11 R264). -/
def Mach.mailArrive (m : Mach) (p : Packet) : Mach :=
  { m with fw := { m.fw with mails := m.fw.mails ++ [⟨p.src, p.mb, (upFrom 0 16).map (fun i => leNat ((p.data.drop (4 * i)).take 4)), false⟩] } }

/-- A packet leaves the network at a port: none while its unit does not take it (10 R225, R239, R240). An access to an FNI's target window is
answered by its user logic. -/
def Mach.eject (m : Mach) (die port : Nat) (p : Packet) : Option Mach :=
  if netOf p.type = 1 then some (m.setArrd (niKey die port) (m.arrd (niKey die port) ++ [p]))
  else if p.type = 0x30 then some (m.mailArrive p)
  else if netOf p.type = 2 then some (m.send (.snp p.dest p.type p.src p.data))
  else
    let target := match placeOf m.fuses p.addr with
      | .reg d o => fniWindowAt d o
      | _ => none
    match target with
    | some (k, w) => if m.alive .uncore then some (m.fniTarget k p.src p.type w (leNat (p.data.take 4)) (some p)) else none
    | none =>
      (match m.serve p with
      | none => none
      | some s =>
        if p.wantsRsp then some (s.after.sendRsp die port (rspTo p (64 * die + port) (rspType p.type s.status) s.status s.marks s.data))
        else some s.after)

/-! Routers -/

/-- The output of the keeper's router: a control link, or a port; none where the keeper has no such port. -/
def keeperWants (p : Packet) : Option Nat := if p.dest / 64 < 6 then some (p.dest / 64) else if p.dest / 64 = 6 ∧ p.dest % 64 < 8 then some (6 + p.dest % 64) else none

/-- A packet goes on from a router through an output; none while there is no credit, or its unit does not take it. -/
def Mach.pass (m : Mach) (die net n out : Nat) (p : Packet) : Option Mach :=
  let into (k : Nat) (q : Packet) : Option Mach := if 8 ≤ (m.nq k).length then none else some (m.setNq k (m.nq k ++ [q]))
  let enter (k : Nat) (q : Packet) : Option Mach := if 64 ≤ (m.ingr k).length then none else some (m.setIngr k (m.ingr k ++ [q]))
  let q := { p with hop := p.hop + 1, here := 0 }
  if die = 6 then
    if out < 6 then enter (inKey out 4 net) { p with here := 0 } else m.eject 6 (out - 6) p
  else if out < 4 then
    (match neighbour n out with
    | some (n2, i) => into (qKey die net n2 i) q
    | none => none)
  else if out = 4 then
    (match linkAt die n with
    | none => none
    | some 4 => into (qKey 6 net 0 die) q
    | some l =>
      (match bridgePeer die l with
      | some (e, back) =>
        (enter (inKey e back net) q).map (fun m => { m with net := { m.net with fails := SMap.put 0 (4 * e + back) 0 m.net.fails } })
      | none => none))
  else m.eject die (4 * n + (out - 5)) p

/-- Misrouted heads of a router's queues are discarded; the keeper discards what names none of its ports. -/
def Mach.discard (m : Mach) (die net n : Nat) : List Nat → Mach
  | [] => m
  | i :: l =>
    let k := qKey die net n i
    let m1 := match m.nq k with
      | [] => m
      | p :: rest =>
        if die = 6 then (if (keeperWants p).isNone then m.setNq k rest else m)
        else if (m.wants die n p).isNone then (m.setNq k rest).misroute die p else m
    m1.discard die net n l

/-- The heads that want an output, by input. -/
def Mach.heads (m : Mach) (die net n out : Nat) : List (Nat × Packet) :=
  (upFrom 0 14).filterMap (fun i => match m.nq (qKey die net n i) with
    | p :: _ => if (if die = 6 then keeperWants p else m.wants die n p) = some out then some (i, p) else none
    | [] => none)

def outSlot (die net n out : Nat) : Nat := ((die * 4 + net) * 32 + n) * 16 + out

/-- The order an output tries its heads in: the highest URG first, and among equals the inputs after the one served last, in turn. -/
def servingOrder (die last : Nat) (hs : List (Nat × Packet)) : List (Nat × Packet) :=
  let turn := hs.filter (fun h => decide (last ≤ h.1)) ++ hs.filter (fun h => decide (h.1 < last))
  if die = 6 then turn else (upFrom 0 16).reverse.flatMap (fun u => turn.filter (fun h => h.2.urg == u))

/-- Cycles pass in which a router input's queue stands still: its packets age, and behind a full local input those of its NI; heads count as
blocked for the probes they match (R234, R241). The keeper ages nothing. -/
def Mach.passTime (m : Mach) (die net n i out cycles : Nat) (head : Bool) : Mach :=
  if die = 6 ∨ cycles = 0 then m
  else
    let k := qKey die net n i
    let l := m.nq k
    let m1 := match l with
      | p :: _ => if head then m.lanternWait die net n (min out 5) p cycles else m
      | [] => m
    let m2 := m1.setNq k (l.map (fun p => p.aged cycles))
    if 5 ≤ i ∧ i < 9 ∧ 8 ≤ l.length then
      let ni := niqKey die (4 * n + (i - 5)) net
      let m3 := match m2.niq ni with
        | p :: _ => m2.lanternWait die net n 6 p cycles
        | [] => m2
      m3.setNiq ni ((m2.niq ni).map (fun p => p.aged cycles))
    else m2

/-- The first head of the order that has credit goes on; its input beside. -/
def Mach.forwardFirst (m : Mach) (die net n out : Nat) : List (Nat × Packet) → Option (Nat × Mach)
  | [] => none
  | (i, p) :: l =>
    let k := qKey die net n i
    match (m.setNq k ((m.nq k).drop 1)).pass die net n out p with
    | none => m.forwardFirst die net n out l
    | some m1 =>
      let m2 : Mach := { m1 with net := { m1.net with served := SMap.put 0 (outSlot die net n out) (i + 1) m1.net.served } }
      some (i, m2.lantern die net n (min out 5) p)

/-- The NI that feeds a router's input. -/
def feeder (die n i : Nat) : Option Nat := if die = 6 then (if 6 ≤ i then some (i - 6) else none) else if 5 ≤ i ∧ n < 16 then some (4 * n + (i - 5)) else none

/-- ROUTER_FORWARD: after the cycles in which none of its heads went, an output forwards one of them (R235); in that cycle the others wait. A
local input that has room again takes from its NI, and a send port whose message has left takes what it held (16 R389). -/
def opRouterForward (die net n out waited : Nat) (m : Mach) : Mach :=
  let m0 := m.discard die net n (upFrom 0 14)
  let ins := (m0.heads die net n out).map (fun h => h.1)
  let m1 := ins.foldl (fun m i => m.passTime die net n i out waited true) m0
  match m1.forwardFirst die net n out (servingOrder die (SMap.get 0 (outSlot die net n out) m1.net.served) (m1.heads die net n out)) with
  | none => m1
  | some (w, m2) =>
    let m3 := ins.foldl (fun m i => m.passTime die net n i out 1 (i != w)) m2
    let m4 := match feeder die n w with
      | some p => m3.niFree die p
      | none => m3
    if die = 6 then (m4.sendRelease idHost).sendRelease idTest else m4

def execRouterForward (die : AnyDie) (net : Fin 4) (n : Fin 24) (out : Fin 14) (waited risen : Nat) (s : State) :=
  s.on (dieDom die.val) (opRouterForward die.val net.val n.val out.val (waited - risen))

end Sys2Proof.Machine
end

