-- ==== Sys2Proof/Machine/Dispatch.lean ====
section
/-! DEFINITION. The command's meaning: one arm per constructor. -/

namespace Sys2Proof.Machine

/-- The effect of a command on the machine; the queue is step's. -/
def exec (i : Instr) (s : State) : Host.Outcome State Fault Refusal :=
  match i with
  | .registerWrite who addr size data hwSet => Sys2Proof.Machine.execRegisterWrite who addr size data hwSet s
  | .readClear who addr events => Sys2Proof.Machine.execReadClear who addr events s
  | .tileCmdEnqueue t who w7 => Sys2Proof.Machine.execTileCmdEnqueue t who w7 s
  | .tileCmdHeldRelease t => Sys2Proof.Machine.execTileCmdHeldRelease t s
  | .mm t => Sys2Proof.Machine.execMm t s
  | .drain t => Sys2Proof.Machine.execDrain t s
  | .zeroAcc t => Sys2Proof.Machine.execZeroAcc t s
  | .planeLoadStart t => Sys2Proof.Machine.execPlaneLoadStart t s
  | .planeReady t upset => Sys2Proof.Machine.execPlaneReady t upset s
  | .rowPush t m elems bx8 => Sys2Proof.Machine.execRowPush t m elems bx8 s
  | .batchWindowExpiry t => Sys2Proof.Machine.execBatchWindowExpiry t s
  | .rowIssue t upset => Sys2Proof.Machine.execRowIssue t upset s
  | .blockJunction t row b n parityBad => Sys2Proof.Machine.execBlockJunction t row b n parityBad s
  | .rowCommit t disagree => Sys2Proof.Machine.execRowCommit t disagree s
  | .factorFormation t upset => Sys2Proof.Machine.execFactorFormation t upset s
  | .drainRead t parityBad => Sys2Proof.Machine.execDrainRead t parityBad s
  | .tileFlush t => Sys2Proof.Machine.execTileFlush t s
  | .flushAbortReport t => Sys2Proof.Machine.execFlushAbortReport t s
  | .tileCtrlRun t run => Sys2Proof.Machine.execTileCtrlRun t run s
  | .tileRepairWrite t data => Sys2Proof.Machine.execTileRepairWrite t data s
  | .trapLatchClear u => Sys2Proof.Machine.execTrapLatchClear u s
  | .veDescEnqueue c who w15 => Sys2Proof.Machine.execVeDescEnqueue c who w15 s
  | .veDescHeldRelease c => Sys2Proof.Machine.execVeDescHeldRelease c s
  | .descriptorDecode c => Sys2Proof.Machine.execDescriptorDecode c s
  | .veCopy c upset => Sys2Proof.Machine.execVeCopy c upset s
  | .veLoad c upset => Sys2Proof.Machine.execVeLoad c upset s
  | .veStore c upset => Sys2Proof.Machine.execVeStore c upset s
  | .veAdd c upset => Sys2Proof.Machine.execVeAdd c upset s
  | .veSub c upset => Sys2Proof.Machine.execVeSub c upset s
  | .veMul c upset => Sys2Proof.Machine.execVeMul c upset s
  | .veFma c upset => Sys2Proof.Machine.execVeFma c upset s
  | .veMax c upset => Sys2Proof.Machine.execVeMax c upset s
  | .veMin c upset => Sys2Proof.Machine.execVeMin c upset s
  | .veAbs c upset => Sys2Proof.Machine.execVeAbs c upset s
  | .veNeg c upset => Sys2Proof.Machine.execVeNeg c upset s
  | .veExp2 c upset => Sys2Proof.Machine.execVeExp2 c upset s
  | .veLog2 c upset => Sys2Proof.Machine.execVeLog2 c upset s
  | .veRcp c upset => Sys2Proof.Machine.execVeRcp c upset s
  | .veRsqrt c upset => Sys2Proof.Machine.execVeRsqrt c upset s
  | .vePerm c upset => Sys2Proof.Machine.execVePerm c upset s
  | .veGather c upset => Sys2Proof.Machine.execVeGather c upset s
  | .veRsum c upset => Sys2Proof.Machine.execVeRsum c upset s
  | .veRmax c upset => Sys2Proof.Machine.execVeRmax c upset s
  | .veRmin c upset => Sys2Proof.Machine.execVeRmin c upset s
  | .veArgmax c upset => Sys2Proof.Machine.execVeArgmax c upset s
  | .veArgmin c upset => Sys2Proof.Machine.execVeArgmin c upset s
  | .veSample c upset => Sys2Proof.Machine.execVeSample c upset s
  | .veAccept c upset => Sys2Proof.Machine.execVeAccept c upset s
  | .veBlockq c upset => Sys2Proof.Machine.execVeBlockq c upset s
  | .veWriteLand x => Sys2Proof.Machine.execVeWriteLand x s
  | .descEndReport c => Sys2Proof.Machine.execDescEndReport c s
  | .veFlush c => Sys2Proof.Machine.execVeFlush c s
  | .veCtrlRun c run => Sys2Proof.Machine.execVeCtrlRun c run s
  | .stewardTrapTake d u => Sys2Proof.Machine.execStewardTrapTake d u s
  | .trapJobEnd job => Sys2Proof.Machine.execTrapJobEnd job s
  | .shareRecompute share where2 => Sys2Proof.Machine.execShareRecompute share where2 s
  | .arbiterGrant a reqs => Sys2Proof.Machine.execArbiterGrant a reqs s
  | .backoffExpiry a idx => Sys2Proof.Machine.execBackoffExpiry a idx s
  | .holdMaxCutoff a => Sys2Proof.Machine.execHoldMaxCutoff a s
  | .emergencyHold a take => Sys2Proof.Machine.execEmergencyHold a take s
  | .requesterMask a idx on => Sys2Proof.Machine.execRequesterMask a idx on s
  | .bankRead b portB pair same upset => Sys2Proof.Machine.execBankRead b portB pair same upset s
  | .bankWrite b portB pair same upset => Sys2Proof.Machine.execBankWrite b portB pair same upset s
  | .atomicAdd b r u => Sys2Proof.Machine.execAtomicAdd b r u s
  | .atomicSwap b r u => Sys2Proof.Machine.execAtomicSwap b r u s
  | .bankOwnerWrite b group => Sys2Proof.Machine.execBankOwnerWrite b group s
  | .handoverDone b => Sys2Proof.Machine.execHandoverDone b s
  | .nearBurstRead who addr crcBad => Sys2Proof.Machine.execNearBurstRead who addr crcBad s
  | .nearBurstWrite who addr data en crcBad => Sys2Proof.Machine.execNearBurstWrite who addr data en crcBad s
  | .nearReread d crcBad => Sys2Proof.Machine.execNearReread d crcBad s
  | .nearRefresh d h => Sys2Proof.Machine.execNearRefresh d h s
  | .nearHotRestore d => Sys2Proof.Machine.execNearHotRestore d s
  | .farAdmit h => Sys2Proof.Machine.execFarAdmit h s
  | .farBurstIssue h => Sys2Proof.Machine.execFarBurstIssue h s
  | .farWindowPass h crcBad => Sys2Proof.Machine.execFarWindowPass h crcBad s
  | .farReread h crcBad => Sys2Proof.Machine.execFarReread h crcBad s
  | .farRefresh h rank => Sys2Proof.Machine.execFarRefresh h rank s
  | .mr4Poll h above calm => Sys2Proof.Machine.execMr4Poll h above calm s
  | .farTrain h => Sys2Proof.Machine.execFarTrain h s
  | .trainStepDone h => Sys2Proof.Machine.execTrainStepDone h s
  | .trainStepTimeout h noWindow => Sys2Proof.Machine.execTrainStepTimeout h noWindow s
  | .periodicRetrain h => Sys2Proof.Machine.execPeriodicRetrain h s
  | .periodicRetrainEnd h drift => Sys2Proof.Machine.execPeriodicRetrainEnd h drift s
  | .fullRetrain h => Sys2Proof.Machine.execFullRetrain h s
  | .caAlert h => Sys2Proof.Machine.execCaAlert h s
  | .alertRise h => Sys2Proof.Machine.execAlertRise h s
  | .marchGo c who data => Sys2Proof.Machine.execMarchGo c who data s
  | .marchTransfer c upset => Sys2Proof.Machine.execMarchTransfer c upset s
  | .marchAbort c who => Sys2Proof.Machine.execMarchAbort c who s
  | .tileFenceWrite t who on => Sys2Proof.Machine.execTileFenceWrite t who on s
  | .tileSelftestGo t who useRepair => Sys2Proof.Machine.execTileSelftestGo t who useRepair s
  | .tileSelftestEnd t rows junction => Sys2Proof.Machine.execTileSelftestEnd t rows junction s
  | .tileRetire t => Sys2Proof.Machine.execTileRetire t s
  | .repairAssign t => Sys2Proof.Machine.execRepairAssign t s
  | .translate d who slot off write => Sys2Proof.Machine.execTranslate d who slot off write s
  | .migrationStart slot page tier loc codes tag => Sys2Proof.Machine.execMigrationStart slot page tier loc codes tag s
  | .invalidate d slot page => Sys2Proof.Machine.execInvalidate d slot page s
  | .migrationFinish slot page => Sys2Proof.Machine.execMigrationFinish slot page s
  | .evacuation slot page dst => Sys2Proof.Machine.execEvacuation slot page dst s
  | .pmCmdEnqueue d k who w3 => Sys2Proof.Machine.execPmCmdEnqueue d k who w3 s
  | .pmCmdHeldRelease d k => Sys2Proof.Machine.execPmCmdHeldRelease d k s
  | .pmCmdEnd d k => Sys2Proof.Machine.execPmCmdEnd d k s
  | .opPlace job op shares => Sys2Proof.Machine.execOpPlace job op shares s
  | .shareDispatch share work => Sys2Proof.Machine.execShareDispatch share work s
  | .opComplete job op fl lost => Sys2Proof.Machine.execOpComplete job op fl lost s
  | .capacityReevaluation pref => Sys2Proof.Machine.execCapacityReevaluation pref s
  | .streamFrameEvent job ok => Sys2Proof.Machine.execStreamFrameEvent job ok s
  | .reserveRequest c who => Sys2Proof.Machine.execReserveRequest c who s
  | .reserveGrant c => Sys2Proof.Machine.execReserveGrant c s
  | .reserveRelease c who => Sys2Proof.Machine.execReserveRelease c who s
  | .reserveReturn c group => Sys2Proof.Machine.execReserveReturn c group s
  | .almCtrlRun who run => Sys2Proof.Machine.execAlmCtrlRun who run s
  | .seArm d e n by_ => Sys2Proof.Machine.execSeArm d e n by_ s
  | .transferStart d e => Sys2Proof.Machine.execTransferStart d e s
  | .listFetch d e => Sys2Proof.Machine.execListFetch d e s
  | .entryIssue d e reread => Sys2Proof.Machine.execEntryIssue d e reread s
  | .entryComplete d e idx => Sys2Proof.Machine.execEntryComplete d e idx s
  | .transferComplete d e => Sys2Proof.Machine.execTransferComplete d e s
  | .transferError d e => Sys2Proof.Machine.execTransferError d e s
  | .wheelAdvance d e => Sys2Proof.Machine.execWheelAdvance d e s
  | .seSlotWrite d e x_i who data => Sys2Proof.Machine.execSeSlotWrite d e x_i who data s
  | .seSlotHeldRelease d e => Sys2Proof.Machine.execSeSlotHeldRelease d e s
  | .multicastDeliver d e r => Sys2Proof.Machine.execMulticastDeliver d e r s
  | .detachNotice d e r cause => Sys2Proof.Machine.execDetachNotice d e r cause s
  | .seCtrlRun d e who run => Sys2Proof.Machine.execSeCtrlRun d e who run s
  | .seFlush d e who => Sys2Proof.Machine.execSeFlush d e who s
  | .multicastCompletionUnicast x d e n list count notify tag => Sys2Proof.Machine.execMulticastCompletionUnicast x d e n list count notify tag s
  | .packetInject who r => Sys2Proof.Machine.execPacketInject who r s
  | .routerForward die net n out waited risen => Sys2Proof.Machine.execRouterForward die net n out waited risen s
  | .ingressRelookup d q net => Sys2Proof.Machine.execIngressRelookup d q net s
  | .urgencyRise d net n input x_i => Sys2Proof.Machine.execUrgencyRise d net n input x_i s
  | .responseArrive die port => Sys2Proof.Machine.execResponseArrive die port s
  | .requestTimeout die port txn => Sys2Proof.Machine.execRequestTimeout die port txn s
  | .bridgeRetry d link => Sys2Proof.Machine.execBridgeRetry d link s
  | .nocCtrlRun d who run => Sys2Proof.Machine.execNocCtrlRun d who run s
  | .traceWrite d => Sys2Proof.Machine.execTraceWrite d s
  | .traceRunWrite d who run => Sys2Proof.Machine.execTraceRunWrite d who run s
  | .regionalClockEdge d r k rising blocks x => Sys2Proof.Machine.execRegionalClockEdge d r k rising blocks x s
  | .asynchronousSetReset d r p set reset => Sys2Proof.Machine.execAsynchronousSetReset d r p set reset s
  | .clockSwitch d r k sig runs => Sys2Proof.Machine.execClockSwitch d r k sig runs s
  | .deadSrc d r k => Sys2Proof.Machine.execDeadSrc d r k s
  | .clockDividerWrite d r k who div => Sys2Proof.Machine.execClockDividerWrite d r k who div s
  | .clockMonitorWindow d r k edges => Sys2Proof.Machine.execClockMonitorWindow d r k edges s
  | .frClkgateWrite d r who en => Sys2Proof.Machine.execFrClkgateWrite d r who en s
  | .fniRequest d f kind addr len tag noAck data en => Sys2Proof.Machine.execFniRequest d f kind addr len tag noAck data en s
  | .fniTargetAccess d f who kind word data => Sys2Proof.Machine.execFniTargetAccess d f who kind word data s
  | .fniTargetReply d f data refuse => Sys2Proof.Machine.execFniTargetReply d f data refuse s
  | .fniMessageArrive d f => Sys2Proof.Machine.execFniMessageArrive d f s
  | .rowPushWindow t who kind off data en => Sys2Proof.Machine.execRowPushWindow t who kind off data en s
  | .vioLoss b sensed => Sys2Proof.Machine.execVioLoss b sensed s
  | .ioPinSlewWrite d b x_i who slew => Sys2Proof.Machine.execIoPinSlewWrite d b x_i who slew s
  | .messageSinkTransfer d f => Sys2Proof.Machine.execMessageSinkTransfer d f s
  | .holdPuChange level => Sys2Proof.Machine.execHoldPuChange level s
  | .slBundleIssue d x_s up => Sys2Proof.Machine.execSlBundleIssue d x_s up s
  | .slResultLand d x_s => Sys2Proof.Machine.execSlResultLand d x_s s
  | .slNop d x_s => Sys2Proof.Machine.execSlNop d x_s s
  | .slMac d x_s => Sys2Proof.Machine.execSlMac d x_s s
  | .slMacc d x_s => Sys2Proof.Machine.execSlMacc d x_s s
  | .slMsu d x_s => Sys2Proof.Machine.execSlMsu d x_s s
  | .slMacz d x_s => Sys2Proof.Machine.execSlMacz d x_s s
  | .slAclr d x_s => Sys2Proof.Machine.execSlAclr d x_s s
  | .slMacn d x_s => Sys2Proof.Machine.execSlMacn d x_s s
  | .slLp d x_s up => Sys2Proof.Machine.execSlLp d x_s up s
  | .slLc d x_s up => Sys2Proof.Machine.execSlLc d x_s up s
  | .slLpc d x_s up => Sys2Proof.Machine.execSlLpc d x_s up s
  | .slSp d x_s => Sys2Proof.Machine.execSlSp d x_s s
  | .slSc d x_s => Sys2Proof.Machine.execSlSc d x_s s
  | .slLcsp d x_s up => Sys2Proof.Machine.execSlLcsp d x_s up s
  | .slHalt d x_s => Sys2Proof.Machine.execSlHalt d x_s s
  | .slWait d x_s => Sys2Proof.Machine.execSlWait d x_s s
  | .slReti d x_s => Sys2Proof.Machine.execSlReti d x_s s
  | .slBr d x_s => Sys2Proof.Machine.execSlBr d x_s s
  | .slBz d x_s => Sys2Proof.Machine.execSlBz d x_s s
  | .slBnz d x_s => Sys2Proof.Machine.execSlBnz d x_s s
  | .slBlt d x_s => Sys2Proof.Machine.execSlBlt d x_s s
  | .slBge d x_s => Sys2Proof.Machine.execSlBge d x_s s
  | .slLoop d x_s => Sys2Proof.Machine.execSlLoop d x_s s
  | .slLoopi d x_s => Sys2Proof.Machine.execSlLoopi d x_s s
  | .slAdd d x_s => Sys2Proof.Machine.execSlAdd d x_s s
  | .slSub d x_s => Sys2Proof.Machine.execSlSub d x_s s
  | .slAnd d x_s => Sys2Proof.Machine.execSlAnd d x_s s
  | .slOr d x_s => Sys2Proof.Machine.execSlOr d x_s s
  | .slXor d x_s => Sys2Proof.Machine.execSlXor d x_s s
  | .slSha d x_s => Sys2Proof.Machine.execSlSha d x_s s
  | .slCadd d x_s => Sys2Proof.Machine.execSlCadd d x_s s
  | .slCsub d x_s => Sys2Proof.Machine.execSlCsub d x_s s
  | .slAddi d x_s => Sys2Proof.Machine.execSlAddi d x_s s
  | .slMovi d x_s => Sys2Proof.Machine.execSlMovi d x_s s
  | .slMovhi d x_s => Sys2Proof.Machine.execSlMovhi d x_s s
  | .slNorm d x_s => Sys2Proof.Machine.execSlNorm d x_s s
  | .slNormv d x_s => Sys2Proof.Machine.execSlNormv d x_s s
  | .slExp d x_s => Sys2Proof.Machine.execSlExp d x_s s
  | .slMtc d x_s => Sys2Proof.Machine.execSlMtc d x_s s
  | .slMfc d x_s => Sys2Proof.Machine.execSlMfc d x_s s
  | .slAadd d x_s => Sys2Proof.Machine.execSlAadd d x_s s
  | .slFrd d x_s => Sys2Proof.Machine.execSlFrd d x_s s
  | .slFclr d x_s => Sys2Proof.Machine.execSlFclr d x_s s
  | .slArst d x_s => Sys2Proof.Machine.execSlArst d x_s s
  | .slAgetv d x_s => Sys2Proof.Machine.execSlAgetv d x_s s
  | .slAgeti d x_s => Sys2Proof.Machine.execSlAgeti d x_s s
  | .slAfeed d x_s => Sys2Proof.Machine.execSlAfeed d x_s s
  | .slOut d x_s => Sys2Proof.Machine.execSlOut d x_s s
  | .slXfer d x_s => Sys2Proof.Machine.execSlXfer d x_s s
  | .xferEnd d x_s => Sys2Proof.Machine.execXferEnd d x_s s
  | .slInterrupt d x_s => Sys2Proof.Machine.execSlInterrupt d x_s s
  | .slIngressWord d x_s words same => Sys2Proof.Machine.execSlIngressWord d x_s words same s
  | .slTimerExpiry d x_s => Sys2Proof.Machine.execSlTimerExpiry d x_s s
  | .slFabricIrq d x_s line => Sys2Proof.Machine.execSlFabricIrq d x_s line s
  | .slIrqRaise d x_s who mask => Sys2Proof.Machine.execSlIrqRaise d x_s who mask s
  | .slCtrlRun d x_s who run => Sys2Proof.Machine.execSlCtrlRun d x_s who run s
  | .slExternalAccess d x_s who off len write same => Sys2Proof.Machine.execSlExternalAccess d x_s who off len write same s
  | .sliceEgressTransfer d x_s => Sys2Proof.Machine.execSliceEgressTransfer d x_s s
  | .tapReset => Sys2Proof.Machine.execTapReset s
  | .extest shift pins => Sys2Proof.Machine.execExtest shift pins s
  | .samplePreload shift pins => Sys2Proof.Machine.execSamplePreload shift pins s
  | .idcode => Sys2Proof.Machine.execIdcode s
  | .clamp => Sys2Proof.Machine.execClamp s
  | .highz => Sys2Proof.Machine.execHighz s
  | .bypass code => Sys2Proof.Machine.execBypass code s
  | .cfgLoad enter bits => Sys2Proof.Machine.execCfgLoad enter bits s
  | .cfgWide enter halfwords => Sys2Proof.Machine.execCfgWide enter halfwords s
  | .retry bits => Sys2Proof.Machine.execRetry bits s
  | .cfgStatus => Sys2Proof.Machine.execCfgStatus s
  | .cfgAbort => Sys2Proof.Machine.execCfgAbort s
  | .harvestSel sel => Sys2Proof.Machine.execHarvestSel sel s
  | .harvest => Sys2Proof.Machine.execHarvest s
  | .netAccess addr data write => Sys2Proof.Machine.execNetAccess addr data write s
  | .streamHeader => Sys2Proof.Machine.execStreamHeader s
  | .configFrame => Sys2Proof.Machine.execConfigFrame s
  | .frameVerified => Sys2Proof.Machine.execFrameVerified s
  | .gapTimeout => Sys2Proof.Machine.execGapTimeout s
  | .tckBackstop => Sys2Proof.Machine.execTckBackstop s
  | .configStartup vio loads => Sys2Proof.Machine.execConfigStartup vio loads s
  | .partialRegionStart vio loads => Sys2Proof.Machine.execPartialRegionStart vio loads s
  | .laneEnable d x_i who => Sys2Proof.Machine.execLaneEnable d x_i who s
  | .laneDisable d x_i who => Sys2Proof.Machine.execLaneDisable d x_i who s
  | .laneRecal d x_i who => Sys2Proof.Machine.execLaneRecal d x_i who s
  | .recalDone d x_i => Sys2Proof.Machine.execRecalDone d x_i s
  | .detectPoll d x_i found => Sys2Proof.Machine.execDetectPoll d x_i found s
  | .trainSettled d x_i loss => Sys2Proof.Machine.execTrainSettled d x_i loss s
  | .bitLockHeld d x_i => Sys2Proof.Machine.execBitLockHeld d x_i s
  | .blockLockAcquired d x_i => Sys2Proof.Machine.execBlockLockAcquired d x_i s
  | .blockLockLost d x_i => Sys2Proof.Machine.execBlockLockLost d x_i s
  | .bringupTimeout d x_i => Sys2Proof.Machine.execBringupTimeout d x_i s
  | .capsTimeout d x_i => Sys2Proof.Machine.execCapsTimeout d x_i s
  | .stepQuietEnd d x_i => Sys2Proof.Machine.execStepQuietEnd d x_i s
  | .downRestart d x_i => Sys2Proof.Machine.execDownRestart d x_i s
  | .los d x_i => Sys2Proof.Machine.execLos d x_i s
  | .lol d x_i ref => Sys2Proof.Machine.execLol d x_i ref s
  | .idleBlock d x_i => Sys2Proof.Machine.execIdleBlock d x_i s
  | .alignBlock d x_i index size => Sys2Proof.Machine.execAlignBlock d x_i index size s
  | .capability d x_i b => Sys2Proof.Machine.execCapability d x_i b s
  | .step d x_i target => Sys2Proof.Machine.execStep d x_i target s
  | .dataBlock d x_i payload bad errs => Sys2Proof.Machine.execDataBlock d x_i payload bad errs s
  | .user d x_i payload => Sys2Proof.Machine.execUser d x_i payload s
  | .rawSlip d x_i => Sys2Proof.Machine.execRawSlip d x_i s
  | .laneWake d x_i => Sys2Proof.Machine.execLaneWake d x_i s
  | .frameStart d x_i no => Sys2Proof.Machine.execFrameStart d x_i no s
  | .lineStart d x_i line => Sys2Proof.Machine.execLineStart d x_i line s
  | .frameEnd d x_i crc => Sys2Proof.Machine.execFrameEnd d x_i crc s
  | .tapLineReturn d k data shape => Sys2Proof.Machine.execTapLineReturn d k data shape s
  | .frameEvent d k => Sys2Proof.Machine.execFrameEvent d k s
  | .fpRdWrite d k who v => Sys2Proof.Machine.execFpRdWrite d k who v s
  | .fpCtrlEn d k who en => Sys2Proof.Machine.execFpCtrlEn d k who en s
  | .rxbTransfer d x_i => Sys2Proof.Machine.execRxbTransfer d x_i s
  | .txbTransfer d x_i blocks => Sys2Proof.Machine.execTxbTransfer d x_i blocks s
  | .usbBusReset => Sys2Proof.Machine.execUsbBusReset s
  | .usbResume => Sys2Proof.Machine.execUsbResume s
  | .readReq idx => Sys2Proof.Machine.execReadReq idx s
  | .writeReq idx => Sys2Proof.Machine.execWriteReq idx s
  | .readData tag status data ok => Sys2Proof.Machine.execReadData tag status data ok s
  | .writeAck tag status ok => Sys2Proof.Machine.execWriteAck tag status ok s
  | .keepalive ok => Sys2Proof.Machine.execKeepalive ok s
  | .hello v => Sys2Proof.Machine.execHello v s
  | .windowSet w size read write => Sys2Proof.Machine.execWindowSet w size read write s
  | .windowClear w => Sys2Proof.Machine.execWindowClear w s
  | .sqDoorbell r index => Sys2Proof.Machine.execSqDoorbell r index s
  | .cqDoorbell r index => Sys2Proof.Machine.execCqDoorbell r index s
  | .regRead addr => Sys2Proof.Machine.execRegRead addr s
  | .regWrite addr data => Sys2Proof.Machine.execRegWrite addr data s
  | .heldRead n => Sys2Proof.Machine.execHeldRead n s
  | .descriptorFetch => Sys2Proof.Machine.execDescriptorFetch s
  | .nop => Sys2Proof.Machine.execNop s
  | .job pref => Sys2Proof.Machine.execJob pref s
  | .planLoad places => Sys2Proof.Machine.execPlanLoad places s
  | .planUnload => Sys2Proof.Machine.execPlanUnload s
  | .jobStop => Sys2Proof.Machine.execJobStop s
  | .tensorWrite => Sys2Proof.Machine.execTensorWrite s
  | .tensorRead => Sys2Proof.Machine.execTensorRead s
  | .jobEventStart job => Sys2Proof.Machine.execJobEventStart job s
  | .jobEventEnd job => Sys2Proof.Machine.execJobEventEnd job s
  | .completionRecordWrite => Sys2Proof.Machine.execCompletionRecordWrite s
  | .trapRecordWrite job => Sys2Proof.Machine.execTrapRecordWrite job s
  | .event => Sys2Proof.Machine.execEvent s
  | .hostAbsent => Sys2Proof.Machine.execHostAbsent s
  | .usbAttach speed => Sys2Proof.Machine.execUsbAttach speed s
  | .boot p => Sys2Proof.Machine.execBoot p s
  | .watchdogExpiry p pc => Sys2Proof.Machine.execWatchdogExpiry p pc s
  | .processorCrash p cause pc addr => Sys2Proof.Machine.execProcessorCrash p cause pc addr s
  | .fwCtrlRestart p who pc => Sys2Proof.Machine.execFwCtrlRestart p who pc s
  | .fwCtrlReleaseHold p who => Sys2Proof.Machine.execFwCtrlReleaseHold p who s
  | .fwKick p who => Sys2Proof.Machine.execFwKick p who s
  | .mailbox x_i => Sys2Proof.Machine.execMailbox x_i s
  | .mailboxReadWord0 n who => Sys2Proof.Machine.execMailboxReadWord0 n who s
  | .mailboxReadWord15 n who => Sys2Proof.Machine.execMailboxReadWord15 n who s
  | .sendPortSend port who w15 => Sys2Proof.Machine.execSendPortSend port who w15 s
  | .fwUpdate role win off len => Sys2Proof.Machine.execFwUpdate role win off len s
  | .attestGo who => Sys2Proof.Machine.execAttestGo who s
  | .attestReady => Sys2Proof.Machine.execAttestReady s
  | .intKeyFuse who => Sys2Proof.Machine.execIntKeyFuse who s
  | .standbyPowerOn => Sys2Proof.Machine.execStandbyPowerOn s
  | .railPowerUp => Sys2Proof.Machine.execRailPowerUp s
  | .brownOut input => Sys2Proof.Machine.execBrownOut input s
  | .mresetN => Sys2Proof.Machine.execMresetN s
  | .swReset who key => Sys2Proof.Machine.execSwReset who key s
  | .setState state wake ms => Sys2Proof.Machine.execSetState state wake ms s
  | .setCap limit nMax => Sys2Proof.Machine.execSetCap limit nMax s
  | .releaseHold banks => Sys2Proof.Machine.execReleaseHold banks s
  | .powerStateEnter => Sys2Proof.Machine.execPowerStateEnter s
  | .wakeIn also => Sys2Proof.Machine.execWakeIn also s
  | .wakeCounterExpiry => Sys2Proof.Machine.execWakeCounterExpiry s
  | .testPortWake => Sys2Proof.Machine.execTestPortWake s
  | .ioHoldRelease who banks => Sys2Proof.Machine.execIoHoldRelease who banks s
  | .capWindowEnd watts => Sys2Proof.Machine.execCapWindowEnd watts s
  | .thermalTrip sensor temp => Sys2Proof.Machine.execThermalTrip sensor temp s
  | .pllLockLost d pll => Sys2Proof.Machine.execPllLockLost d pll s
  | .pllLockReturn d pll => Sys2Proof.Machine.execPllLockReturn d pll s
  | .pllEnable d who pllEn => Sys2Proof.Machine.execPllEnable d who pllEn s
  | .startupSequence rails temps plls nears fars => Sys2Proof.Machine.execStartupSequence rails temps plls nears fars s
  | .sensorSample rails temps => Sys2Proof.Machine.execSensorSample rails temps s
  | .i2cWrite bytes => Sys2Proof.Machine.execI2cWrite bytes s
  | .i2cRead => Sys2Proof.Machine.execI2cRead s
  | .refclkRetry found => Sys2Proof.Machine.execRefclkRetry found s

end Sys2Proof.Machine
end

