-- ==== Sys2Proof/Machine/Tick.lean ====
section
/-! DEFINITION. Time: what 400 ps, a cycle of the ARRAY clock at full speed, bring while no command waits (log 1). -/

namespace Sys2Proof.Machine

/-- How many cycles of a clock of a/b per tick end with a tick that starts at time t. -/
def cyclesIn (t a b : Nat) : Nat := (t + 1) * a / b - t * a / b

/-- The ARRAY cycles of a die, at n sixteenths of the full rate while the clock runs (05 R114, 17 R407). -/
def Mach.tickArray (m : Mach) (d : Nat) : Mach :=
  if m.alive (.core d) then
    { m with arrayCycle := SMap.put 0 d (m.cycles d + cyclesIn m.ticks (m.rd F.vigilCapN kp) 16) m.arrayCycle }
  else m

/-- A die's NOC cycles, at 2.0 GHz, and LANTERN_TIME, their count (10 R242). -/
def Mach.tickNoc (m : Mach) (d : Nat) : Mach :=
  if m.alive (.noc d) then
    let t := m.rd F.lanternTimeHi d * 2 ^ 32 + m.rd F.lanternTimeLo d + cyclesIn m.ticks 4 5
    ({ m with nocCycle := SMap.put 0 d (SMap.get 0 d m.nocCycle + cyclesIn m.ticks 4 5) m.nocCycle } : Mach).wr F.lanternTimeHi d (t / 2 ^ 32)
      |>.wr F.lanternTimeLo d t
  else m

/-- A slice whose time its bundles do not carry: one that waits, or is stopped with its timer running (12 R299). -/
def Mach.slIdles (m : Mach) (k : Nat) : Bool :=
  let p := slIx k
  m.alive (.slice (k / 64)) && (if m.on F.slCtrlRun p then m.on F.slStatusWaiting p else m.on F.slTimer p)

def Mach.tickSlice (m : Mach) (k : Nat) : Mach := if m.slIdles k then m.slPass k (cyclesIn m.ticks 1 2) else m

/-- A tick. -/
def Mach.tick (m : Mach) : Mach :=
  let m1 := (upFrom 0 6).foldl (fun m d => (m.tickArray d).tickNoc d) m
  let m2 := (upFrom 0 384).foldl (fun m k => m.tickSlice k) m1
  { m2 with ticks := m.ticks + 1 }

end Sys2Proof.Machine
end

