-- ==== Sys2Proof/Safety.lean ====
section
/-! DEFINITION. What counts as a safe run: every step answers a next state, and the machine's data keep their form. -/

namespace Sys2Proof.Machine

/-- A step that goes on: it neither faults nor refuses. -/
def stepsOn (s : State) : Prop := ∃ t, step s = .next t

/-- A run of k steps that goes on. -/
def runsOn : Nat → State → Prop
  | 0, _ => True
  | k + 1, s => ∃ t, step s = .next t ∧ runsOn k t

/-- Memory stands in its canonical form: addresses rise strictly, and no listed byte is what an unlisted address reads as. -/
def State.memOk (s : State) : Prop := Memory.wf s.m.mem = true

/-- The commands by which a byte of memory can change: those that write to a bank, to the near or to the far tier for the vector engines, the
almanac, the stream engines, the network, the frame ports or the self-test, those that can mark a tensor lost (09 R208), the register writes,
and those that can reset the module. -/
def mayStore (c : Instr) : Bool :=
  match c with
  | .registerWrite .. | .veStore .. | .shareRecompute .. | .bankRead .. | .bankWrite .. | .atomicAdd .. | .atomicSwap .. | .nearBurstWrite ..
  | .nearReread .. | .trainStepTimeout .. | .opComplete .. | .farWindowPass .. | .farReread .. | .marchTransfer .. | .marchAbort ..
  | .migrationStart .. | .migrationFinish .. | .evacuation .. | .pmCmdEnd .. | .entryIssue .. | .routerForward .. | .netAccess .. | .alignBlock ..
  | .dataBlock .. | .user .. | .laneWake .. | .frameStart .. | .lineStart .. | .frameEnd .. | .tapLineReturn .. | .frameEvent .. | .usbResume ..
  | .regWrite .. | .planLoad .. | .planUnload .. | .tensorWrite .. | .jobEventStart .. | .standbyPowerOn .. | .brownOut .. | .mresetN ..
  | .swReset .. | .powerStateEnter .. | .wakeIn .. | .wakeCounterExpiry .. | .testPortWake .. | .thermalTrip .. | .startupSequence ..
  | .sensorSample .. | .refclkRetry .. => true
  | _ => false

end Sys2Proof.Machine
end

