-- ==== Sys2Proof/Certificates/Slice0/Obligations.lean ====
section
/-! DEFINITION. The statements for the provers: what each command does, by family and in the order of the spec's files, then rules of the spec, and last
what holds of every step. Every command is a `Dom`'s and answers a next state; a statement's next state is written out. A premise that an engine's domain
runs (`s.m.alive …`) is the condition under which the command occurs at all (log 5). -/

open Sys2Proof Sys2Proof.Machine

/-- A step with a command at the front of the queue is that command's meaning on the machine with the queue's rest (the block's form, log 1). -/
def Obligations.StepRunsTheFrontCommand : Prop :=
  ∀ (c : Instr) (l : List Instr) (m : Mach), step { m := m, pending := c :: l } = exec c { m := m, pending := l }

/-- 03 R74: a command written into TILE_CMD of a reserved, unfenced tile whose queue has a place is queued, in raw mode with its master as
source, and answered OK; a full queue holds the write of word 7 and answers nothing; an unreserved cluster or a fenced tile answers REFUSED; a
held write enters once a place is free, and one more write of word 7 until then is dropped (log 119). -/
def Obligations.TileCommandsEnterTheQueue : Prop :=
  ∀ (t : TileNo) (s : State) (x : Tile), s.m.alive (.core (t.val / 160)) = true → s.m.tile t.val = x →
  (∀ (who : Nat) (w7 : Word), s.m.isRaw (t.val / 16) = true → s.m.on F.tileFenceFenced (tileIx t.val) = false → x.held = none → x.queue.length < 8 →
    exec (.tileCmdEnqueue t who w7) s =
      .next ⟨(s.m.setTile t.val { x with queue := x.queue ++ [⟨x.nextSeq, .raw who, x.staging ++ [w7.toNat]⟩], nextSeq := x.nextSeq + 1 }).respond
        who rsOk, s.pending⟩) ∧
  (∀ (who : Nat) (w7 : Word), s.m.isRaw (t.val / 16) = true → s.m.on F.tileFenceFenced (tileIx t.val) = false → x.held = none → 8 ≤ x.queue.length →
    exec (.tileCmdEnqueue t who w7) s = .next ⟨s.m.setTile t.val { x with held := some (who, w7.toNat) }, s.pending⟩) ∧
  (∀ (who : Nat) (w7 : Word), s.m.isRaw (t.val / 16) = false ∨ s.m.on F.tileFenceFenced (tileIx t.val) = true →
    exec (.tileCmdEnqueue t who w7) s = .next ⟨s.m.respond who rsRefused, s.pending⟩) ∧
  (∀ (who : Nat) (w7 : Word), s.m.isRaw (t.val / 16) = true → s.m.on F.tileFenceFenced (tileIx t.val) = false → x.held ≠ none →
    exec (.tileCmdEnqueue t who w7) s = .next s) ∧
  (x.held = none ∨ 8 ≤ x.queue.length → exec (.tileCmdHeldRelease t) s = .next s) ∧
  (∀ who w7, x.held = some (who, w7) → x.queue.length < 8 →
    exec (.tileCmdHeldRelease t) s =
      .next ⟨(s.m.setTile t.val { x with queue := x.queue ++ [⟨x.nextSeq, .raw who, x.staging ++ [w7]⟩], nextSeq := x.nextSeq + 1, held := none }).respond
        who rsOk, s.pending⟩)



/-- 03 R71 to R73, R57, R69, R70, R65: a command at the head of a running tile's queue that has not started. One that matches a cause of Table 3-5
does nothing but leave the queue, set CMD_REJECT and TILE_REJECT and be reported REJECTED with its cause; an MM with an unmasked row starts; so
does a DRAIN whose factor is formed; ZERO_ACC, with no row pending, leaves the queue with +0 in its unmasked rows and their poison marks cleared, and
with no other accumulator row, register or byte of memory changed. -/
def Obligations.TileCommandsStartAtTheHead : Prop :=
  ∀ (t : TileNo) (s : State) (q : QCmd) (l : List QCmd) (x : Tile), s.m.alive (.core (t.val / 160)) = true →
    s.m.on F.tileCtrlRun (tileIx t.val) = true → s.m.tile t.val = x → x.started = false → x.queue = q :: l →
  (∀ i, (i = Instr.mm t ∧ tcOpcode q.w ≠ 2 ∧ tcOpcode q.w ≠ 3 ∨ i = .drain t ∧ tcOpcode q.w = 2 ∨ i = .zeroAcc t ∧ tcOpcode q.w = 3) →
    tcReject q.w ≠ 0 →
    exec i s = .next ⟨((((s.m.setTile t.val { x with queue := l, started := false, done := 0, batch := 0 }).wr
      F.tileEventsCmdReject (tileIx t.val) 1).wr F.tileRejectCause (tileIx t.val) (tcReject q.w)).wr F.tileRejectOpTag (tileIx t.val) (tcTag q.w)).ended
        ⟨.tile t, q.src, tcTag q.w, 2, tcReject q.w, 0, [], tcLast q.w⟩, s.pending⟩) ∧
  (tcReject q.w = 0 → tcUnmasked q.w ≠ [] → tcOpcode q.w = 1 →
    exec (.mm t) s =
      .next ⟨s.m.setTile t.val { x with started := true, done := 0, batch := 0, progs := x.progs ++ [newProg q] }, s.pending⟩) ∧
  (tcReject q.w = 0 → tcUnmasked q.w ≠ [] → tcOpcode q.w = 2 → x.factors.any (fun f => f.seq == q.seq) = true →
    exec (.drain t) s =
      .next ⟨s.m.setTile t.val { x with started := true, done := 0, batch := 0, progs := x.progs ++ [newProg q] }, s.pending⟩) ∧
  (tcReject q.w = 0 → tcOpcode q.w = 3 → x.flights = [] →
    ∃ n, exec (.zeroAcc t) s = .next n ∧ (n.m.tile t.val).queue = l ∧
      (∀ r ∈ tcUnmasked q.w, SMap.get [] (tcAccBase q.w + r) (n.m.tile t.val).acc = List.replicate 48 0 ∧
        (n.m.tile t.val).poisoned (tcAccBase q.w + r) = false) ∧
      (∀ a, (∀ r ∈ tcUnmasked q.w, a ≠ tcAccBase q.w + r) → SMap.get [] a (n.m.tile t.val).acc = SMap.get [] a x.acc ∧
        (n.m.tile t.val).poisoned a = x.poisoned a) ∧
      n.m.mem = s.m.mem ∧ n.m.fields = s.m.fields)

/-- 03 R51, R52, R55, R56, R63; 06 R128: a weight plane starts loading for the earliest MM without one when no plane is loading or waiting; when its
last K row arrives (no row stage's read standing first, no port held) the plane is ready with the elements of its words (and the BX8 codes of theirs), or marked bad; a pushed row of an unmasked, unissued row
number is staged in the earliest ROW_SRC = 1 command and opens a window if none was open; a masked or issued one is discarded; BATCH_WINDOW cycles
after a window opened it falls due. -/
def Obligations.PlanesLoadAndRowsAreStaged : Prop :=
  ∀ (t : TileNo) (s : State) (x : Tile), s.m.alive (.core (t.val / 160)) = true → s.m.tile t.val = x →
  (∀ q, s.m.on F.tileCtrlRun (tileIx t.val) = true → (∀ p ∈ x.planes, p.active = true) → x.wantsPlane = some q →
    exec (.planeLoadStart t) s = .next ⟨s.m.setTile t.val { x with planes := x.planes ++ [⟨q.seq, false, false, [], [], false, []⟩] }, s.pending⟩) ∧
  (∀ (upset : List Nat) (p : Plane) (q : QCmd) (f : Fmt) (cws bws : List Nat) (a b : List Byte) (bad bad' : Bool) (m1 m2 : Mach),
    x.planes.find? (fun p => !p.ready) = some p → x.cmdOf p.seq = some q → fmtOfCode (tcFmtB q.w) = some f →
    cws = wordsOf (tcPlane q.w * 64) (48 * rowBytes (tcFmtB q.w)) → bws = (if tcBx8B q.w then wordsOf (tcBx8BWord q.w * 64) 144 else []) →
    s.m.stageFirst t.val (cws ++ bws) = false →
    (anyHeld s.m (t.val / 16) (.local (t.val % 16)) (cws ++ bws) = true →
      exec (.planeReady t upset) s = .next ⟨s.m.lostA (t.val / 16) (t.val % 16), s.pending⟩) ∧
    (anyHeld s.m (t.val / 16) (.local (t.val % 16)) (cws ++ bws) = false →
    (s.m.upsetLanes (t.val / 16) upset).readWords (t.val / 16) (.local (t.val % 16)) cws = (a, bad, m1) →
      m1.readWords (t.val / 16) (.local (t.val % 16)) bws = (b, bad', m2) →
      exec (.planeReady t upset) s = .next ⟨m2.setTile t.val { x with planes := x.planes.map (fun y => if y.seq = p.seq then
      { p with ready := true, codes := unpack f.width (leNat (a.take (48 * rowBytes (tcFmtB q.w)))) 2304,
               bx8 := (b.take 144).map (fun c => c.toNat), bad := bad || bad',
               check := planeCheck (tcFmtB q.w) (unpack f.width (leNat (a.take (48 * rowBytes (tcFmtB q.w)))) 2304) } else y) }, s.pending⟩)) ∧
  (∀ (r : Nat) (elems bx8 : List Nat) (q : QCmd) (head : Bool) (y : Tile), x.pushTarget = some (q, head) → r < tcRows q.w → r < 48 →
    tcMasked q.w r = false → (head = true → bitOf r x.done = false) →
    y = { x with rows := SMap.put PushRow.init r ⟨(upFrom 0 48).map (fun i => nth 0 elems i), bx8⟩ x.rows, staged := setBit r x.staged } →
    (stagedRow x r = false → x.winOpen = false →
      exec (.rowPush t r elems bx8) s = .next ⟨s.m.setTile t.val { y with winOpen := true, winDue := false }, s.pending⟩) ∧
    (stagedRow x r = true ∨ x.winOpen = true → exec (.rowPush t r elems bx8) s = .next ⟨s.m.setTile t.val y, s.pending⟩)) ∧
  (∀ (r : Nat) (elems bx8 : List Nat) (q : QCmd) (head : Bool), x.pushTarget = some (q, head) →
    (tcMasked q.w r = true ∨ head = true ∧ bitOf r x.done = true) → exec (.rowPush t r elems bx8) s = .next s) ∧
  (x.winOpen = true → exec (.batchWindowExpiry t) s = .next ⟨s.m.setTile t.val { x with winDue := true }, s.pending⟩)

/-- 03 R53, R54, R58, R60, R62 to R64, R65, R69, R70 and 05 R105, R106, R110: the life of a row. The feeder issues the next row (two of a G4 pairing)
against the ready plane, after the bubbles of a STAGE of several port cycles (R53), or a bubble: the plane is not ready, no row is due, R62 holds one, or a
port gives no grant; a junction adds its block's contribution to its column's running sum and keeps the flags and the candidate;
at its last comparison, where the check column agrees, a row commits its 48 columns, or poisons its accumulator row and changes no value of it; the factor of a DRAIN is formed of
the three GS32 words at SCALE_WORD; a drained row, scaled, waits for the drain port. -/
def Obligations.RowsFlowThroughTheArray : Prop :=
  ∀ (t : TileNo) (s : State) (x : Tile), s.m.alive (.core (t.val / 160)) = true → s.m.tile t.val = x →
  (∀ (upset : List Nat) (q : QCmd) (l : List QCmd) (pl : Plane) (rows : List Nat) (m1 m2 m3 : Mach) (r : List (List Byte × Bool) × Mach),
    x.queue = q :: l → tcOpcode q.w = 1 → tcReject q.w = 0 → x.started = true → x.planes.find? (fun p => p.seq == q.seq && p.ready) = some pl →
    slotRows s.m t.val q = rows → rows ≠ [] → (∀ r ∈ rows, x.gapHolds q r = false) →
    (anyHeld s.m (t.val / 16) (.local (t.val % 16)) (rows.flatMap (rowWords q)) = true →
      exec (.rowIssue t upset) s = .next ⟨(s.m.wrap F.tileBubbles (tileIx t.val) 1).lostA (t.val / 16) (t.val % 16), s.pending⟩) ∧
    (anyHeld s.m (t.val / 16) (.local (t.val % 16)) (rows.flatMap (rowWords q)) = false →
      m1 = (s.m.upsetLanes (t.val / 16) upset).setTile t.val ((nextRows s.m t.val q).2.activate q.seq) →
      r = m1.readEach (t.val / 16) (.local (t.val % 16)) (rows.flatMap (rowOwn q)) → m2 = (splitRows q rows r.1).foldl (issueOne t.val q pl) r.2 →
      m3 = (m2.wrap F.tileIssued (tileIx t.val) (if tcFmtA q.w = 3 then tcPasses q.w else 1)).wrap F.tileBubbles (tileIx t.val) (stageCycles x q rows - 1) →
      ((∃ r ∈ tcUnmasked q.w, bitOf r (m3.tile t.val).done = false) → exec (.rowIssue t upset) s = .next ⟨m3, s.pending⟩) ∧
      ((∀ r ∈ tcUnmasked q.w, bitOf r (m3.tile t.val).done = true) → ∃ y : Tile, y.queue = (m3.tile t.val).queue.drop 1 ∧
        y.flights = (m3.tile t.val).flights ∧ exec (.rowIssue t upset) s = .next ⟨m3.setTile t.val y, s.pending⟩))) ∧
  (∀ (upset : List Nat) (q : QCmd) (l : List QCmd), x.queue = q :: l → tcOpcode q.w = 1 → tcReject q.w = 0 → x.started = true →
    ((∀ p ∈ x.planes, p.seq = q.seq → p.ready = false) ∨ slotRows s.m t.val q = [] ∨ (∃ r ∈ slotRows s.m t.val q, x.gapHolds q r = true)) →
    exec (.rowIssue t upset) s = .next ⟨s.m.wrap F.tileBubbles (tileIx t.val) 1, s.pending⟩) ∧
  (∀ (i : Nat) (b : BlockNo) (n : ColNo) (bad : Bool) (f : Flight) (start : Nat) (j : Nat × Nat × Option Nat), x.flights[i]? = some f →
    nth 3 f.next n.val = b.val → (b.val = 0 → f.accZero = false → ∀ g ∈ x.flights.take i, g.acc ≠ f.acc) →
    start = (if b.val = 0 then (if f.accZero then 0 else nth 0 (accRow t.val x f.acc) n.val) else nth 0 f.run n.val) →
    j = junction f.nanTrap f.scaleTrap start (nth ⟨0, 0, true, Tag.none⟩ (nth [] f.blocks b.val) n.val) →
    ∃ g : Flight, g = { f with run := g.run, next := g.next, flags := g.flags, cands := g.cands, blocked := g.blocked } ∧
      g.run = setNth f.run n.val j.1 ∧ g.next = setNth f.next n.val (b.val + 1) ∧ g.flags = f.flags ||| j.2.1 ∧
      g.cands = f.cands ++ j.2.2.toList.map (fun c => ⟨s.m.cycles (t.val / 160), c, n.val, f.kbase + b.val⟩) ∧
      g.blocked = (f.blocked || (b.val == 0 && !f.accZero && bad)) ∧
      exec (.blockJunction t i b n bad) s = .next ⟨s.m.setTile t.val { x with flights := setNth x.flights i g }, s.pending⟩) ∧
  (∀ (disagree : Bool) (f : Flight) (l : List Flight), x.flights = f :: l → (∀ k ∈ f.next, k = 3) →
    ((disagree || !f.agrees || f.blocked || (x.poisoned f.acc && !f.accZero)) = true →
      ∃ n, exec (.rowCommit t disagree) s = .next n ∧ (n.m.tile t.val).flights = l ∧ (n.m.tile t.val).acc = x.acc ∧
        (n.m.tile t.val).poison = setBit f.acc x.poison ∧ n.m.mem = s.m.mem ∧ n.pending = s.pending) ∧
    ((disagree || !f.agrees || f.blocked || (x.poisoned f.acc && !f.accZero)) = false →
      ∃ n, exec (.rowCommit t disagree) s = .next n ∧ (n.m.tile t.val).flights = l ∧ (n.m.tile t.val).acc = SMap.put [] f.acc f.run x.acc ∧
        (n.m.tile t.val).poison = clearBit f.acc x.poison ∧ (f.cands = [] → f.flags = 0 → n.m.fields = s.m.fields) ∧ n.m.mem = s.m.mem ∧
        n.pending = s.pending)) ∧
  (∀ (upset : List Nat) (q : QCmd) (a : List Byte) (bad : Bool) (v : Nat) (m1 : Mach), s.m.on F.tileCtrlRun (tileIx t.val) = true → x.factors.length < 2 →
    x.started = false →
    x.queue.find? (fun q => tcOpcode q.w == 2 && tcReject q.w == 0 && !x.factors.any (fun f => f.seq == q.seq)) = some q →
    s.m.stageFirst t.val [tcScale q.w] = false → anyHeld s.m (t.val / 16) (.local (t.val % 16)) [tcScale q.w] = false →
    (s.m.upsetLanes (t.val / 16) upset).readSpan (t.val / 16) (.local (t.val % 16)) (tcScale q.w * 64) 12 = (a, bad, m1) →
    factorF (leNat (a.take 4)) (leNat ((a.drop 4).take 4)) (leNat ((a.drop 8).take 4)) = v →
    exec (.factorFormation t upset) s = .next ⟨m1.setTile t.val { x with factors := x.factors ++ [⟨q.seq, v, bad⟩] }, s.pending⟩) ∧
  (∀ (bad : Bool) (q : QCmd) (l : List QCmd) (r : Nat) (f : Factor), x.queue = q :: l → tcOpcode q.w = 2 → x.started = true →
    x.drained.length < 4 → (tcUnmasked q.w).find? (fun r => !bitOf r x.done) = some r → x.factors.find? (fun f => f.seq == q.seq) = some f →
    (∀ g ∈ x.flights, g.acc ≠ tcAccBase q.w + r) →
    ∃ n, exec (.drainRead t bad) s = .next n ∧ n.m.mem = s.m.mem ∧ n.pending = s.pending ∧
      (n.m.tile t.val).drained = x.drained ++ [⟨q.seq, (accRow t.val x (tcAccBase q.w + r)).map (fun v => (drainScale v f.code).1),
        x.poisoned (tcAccBase q.w + r) || bad || f.bad⟩])

/-- 03 R66, R67, R75 and 05 R117: control of a tile. FLUSH empties the queue, ends unissued work and reports it ABORTED, and leaves the accumulator;
the report of the flushed current command follows once its rows have committed or failed and been taken; RUN is written unless a self-test runs;
TILE_REPAIR lands only in a stopped tile and sets LEAP_COUNT and the latency of 102 cycles plus one for each spare in use; writing 1 to VALID of
a trap record clears the record and MORE. -/
def Obligations.TileControlCommands : Prop :=
  (∀ (t : TileNo) (s : State) (x : Tile), s.m.alive (.core (t.val / 160)) = true → s.m.tile t.val = x →
    (∃ n gone, exec (.tileFlush t) s = .next n ∧ gone = (if x.started then x.queue.drop 1 else x.queue) ∧ (n.m.tile t.val).queue = [] ∧
      (n.m.tile t.val).started = false ∧ (n.m.tile t.val).acc = x.acc ∧ (n.m.tile t.val).poison = x.poison ∧
      (n.m.tile t.val).flights = x.flights ∧ n.m.mem = s.m.mem ∧ n.m.fields = s.m.fields ∧ n.pending = s.pending ∧
      n.m.out = s.m.out ++ gone.map (fun q => .ended ⟨.tile t, q.src, tcTag q.w, 1, 0, 0, [], tcLast q.w⟩)) ∧
    (∀ p, x.progs.find? (fun p => p.aborted && x.inFlight p.seq == 0 && !x.drained.any (fun d => d.seq == p.seq)) = some p →
      exec (.flushAbortReport t) s = .next ⟨(s.m.setTile t.val { x with progs := x.progs.filter (fun q => q.seq != p.seq) }).ended
        ⟨.tile t, p.src, p.opTag, 1, 0, p.flags, p.poisoned, p.last⟩, s.pending⟩) ∧
    (∀ run, x.testing = false → exec (.tileCtrlRun t run) s = .next ⟨s.m.wr F.tileCtrlRun (tileIx t.val) (b2n run), s.pending⟩) ∧
    (∀ (d : Word) (a b : Nat), s.m.on F.tileCtrlRun (tileIx t.val) = false → x.idle = true → x.testing = false → bitsOf 5 0 d.toNat = a →
      bitsOf 13 8 d.toNat = b → F.tileRepairSpare0Phys.isLegal a = true → F.tileRepairSpare1Phys.isLegal b = true →
      (a = 0x3F ∨ b = 0x3F ∨ a < b →
        exec (.tileRepairWrite t d) s = .next ⟨(((s.m.wr F.tileRepairSpare0Phys (tileIx t.val) a).wr F.tileRepairSpare1Phys (tileIx t.val) b).wr
          F.tileLatencyLeapCount (tileIx t.val) (b2n (a != 0x3F) + b2n (b != 0x3F))).wr F.tileLatencyLatency (tileIx t.val)
          (102 + (b2n (a != 0x3F) + b2n (b != 0x3F))), s.pending⟩) ∧
      (a ≠ 0x3F ∧ b ≠ 0x3F ∧ b ≤ a → exec (.tileRepairWrite t d) s = .next s)) ∧
    (∀ d : Word, s.m.on F.tileCtrlRun (tileIx t.val) = true ∨ x.idle = false → exec (.tileRepairWrite t d) s = .next s)) ∧
  (∀ (u : TrapUnit) (s : State), s.m.alive (.core (unitCluster u / 10)) = true → ∃ n, exec (.trapLatchClear u) s = .next n ∧ n.m.mem = s.m.mem ∧
    n.pending = s.pending ∧ (match u with
      | .tile t => n.m.rd F.tileTrapValid (tileIx t.val) = 0 ∧ n.m.rd F.tileTrapCause (tileIx t.val) = 0 ∧
        n.m.rd F.tileTrapOpTag (tileIx t.val) = 0 ∧ n.m.rd F.tileTrapBlkMore (tileIx t.val) = 0
      | .ve c => n.m.rd F.veTrapValid (clIx c.val) = 0 ∧ n.m.rd F.veTrapCause (clIx c.val) = 0 ∧ n.m.rd F.veTrapOpTag (clIx c.val) = 0 ∧
        n.m.rd F.veTrapPosMore (clIx c.val) = 0))

/-- 04 R77, R83, R88, R96, R100, R101, R103: the vector engine's queue. A descriptor written in a reserved cluster takes one of the 16 places, or its
last word is held; the head is decoded when nothing executes and RUN is 1: it starts, or leaves rejected with the first cause of Table 4-9; a
write before which no other of its line has to land lands in the cache, or in a tile's row staging; a descriptor that has ended and has no write pending is reported; FLUSH discards what is queued; RUN is written. -/
def Obligations.VectorQueueCommands : Prop :=
  ∀ (c : ClusterNo) (s : State) (v : Ve), s.m.alive (.core (c.val / 10)) = true → s.m.ve c.val = v →
  (∀ (who : Nat) (w : Word), s.m.isRaw c.val = true → v.held = none →
    (v.queue.length < 16 → exec (.veDescEnqueue c who w) s = 
      .next ⟨(s.m.setVe c.val { v with queue := v.queue ++ [⟨v.nextSeq, .raw who, v.staging ++ [w.toNat]⟩], nextSeq := v.nextSeq + 1 }).respond
        who rsOk, s.pending⟩) ∧
    (16 ≤ v.queue.length → exec (.veDescEnqueue c who w) s = .next ⟨s.m.setVe c.val { v with held := some (who, w.toNat) }, s.pending⟩)) ∧
  (∀ (who : Nat) (w : Word), s.m.isRaw c.val = false → exec (.veDescEnqueue c who w) s = .next ⟨s.m.respond who rsRefused, s.pending⟩) ∧
  (∀ who w, v.held = some (who, w) → v.queue.length < 16 → exec (.veDescHeldRelease c) s = .next
    ⟨(s.m.setVe c.val { v with queue := v.queue ++ [⟨v.nextSeq, .raw who, v.staging ++ [w]⟩], nextSeq := v.nextSeq + 1, held := none }).respond
      who rsOk, s.pending⟩) ∧
  (∀ (q : QCmd) (l : List QCmd) (tree : List Nat), v.exec = none → s.m.on F.veCtrlRun (clIx c.val) = true → v.queue = q :: l →
    (readsTree q.w = true → linePending v (dMaskLine q.w) = false) → cacheSpan c.val v (64 * dMaskLine q.w) 64 = tree →
    (dReject q.w tree = 0 → exec (.descriptorDecode c) s = 
      .next ⟨s.m.setVe c.val { v with exec := some ⟨q, 0, if readsTree q.w then tree else [], none, [], 0, 0⟩ }, s.pending⟩) ∧
    (dReject q.w tree ≠ 0 → ∃ n, exec (.descriptorDecode c) s = .next n ∧ (n.m.ve c.val).queue = l ∧ (n.m.ve c.val).cache = v.cache ∧
      n.m.rd F.veRejectCause (clIx c.val) = dReject q.w tree % 2 ^ F.veRejectCause.width ∧ n.m.on F.veEventsDescReject (clIx c.val) = true ∧
      n.m.mem = s.m.mem ∧ n.pending = s.pending ∧
      n.m.out = s.m.out ++ [.ended ⟨.ve c, q.src, dTag q.w, 2, dReject q.w tree, 0, [], false⟩])) ∧
  (∀ (k : Nat) (x : VeWrite) (v1 : Ve), v.landable k = some x → v1 = { v with writes := dropNth v.writes k } →
    (x.push = none → exec (.veWriteLand ⟨c, k⟩) s = .next ⟨s.m.setVe c.val (landBytes c.val v1 x.bytes), s.pending⟩) ∧
    (∀ (r : RowPush) (m1 : Mach), x.push = some r → (pushRow r (s.m.setVe c.val v1)).2 = m1 →
      ((pushRow r (s.m.setVe c.val v1)).1 = true → exec (.veWriteLand ⟨c, k⟩) s = .next ⟨m1, s.pending⟩) ∧
      ((pushRow r (s.m.setVe c.val v1)).1 = false → exec (.veWriteLand ⟨c, k⟩) s = .next ⟨m1.pushRefused c.val x.seq x.step, s.pending⟩))) ∧
  (∀ e, v.ends.find? (fun e => !v.writes.any (fun x => x.seq == e.seq)) = some e → exec (.descEndReport c) s =
    .next ⟨(s.m.setVe c.val { v with ends := v.ends.filter (fun x => x.seq != e.seq) }).ended
      ⟨.ve c, e.src, e.opTag, e.status, 0, e.events, [e.poison], false⟩, s.pending⟩) ∧
  (∃ n, exec (.veFlush c) s = .next n ∧ (n.m.ve c.val).queue = [] ∧ (n.m.ve c.val).exec = none ∧ (n.m.ve c.val).writes = v.writes ∧
    (n.m.ve c.val).cache = v.cache ∧ n.m.mem = s.m.mem ∧ n.m.fields = s.m.fields ∧ n.pending = s.pending) ∧
  (∀ run, exec (.veCtrlRun c run) s = .next ⟨s.m.wr F.veCtrlRun (clIx c.val) (b2n run), s.pending⟩)

/-- 04 R78 to R83, R85, R89 to R99: a step of the executing descriptor of each operation. It waits for nothing when no line it reads has a pending write;
with good parity, and with a drained row where A is the drain port, it takes the row, converts its lanes into the working format, works, and issues its
writes (what its lanes hold, VectorOperationResults says). A poisoned row is taken and writes nothing. -/
def Obligations.VectorStepsIssue : Prop :=
  (∀ (c : ClusterNo) (u : List Nat) (s : State) (v : Ve) (e : VeExec) (work : Fmt) (k : VKind) (w : List Nat) (p : StepAt) (act : List Nat)
    (row : DrainRow) (t : Nat) (m1 : Mach),
    s.m.alive (.core (c.val / 10)) = true → (s.m.ve c.val).exec = some e → e.cmd.w = w → fmtOfCode (dWork w) = some work → kindOf (dOp w) = some k →
    p = stepAt w k (lanesOf work) (nth 0 e.tree 48) e.step → v = (s.m.ve c.val).upset u → act = actLanes c.val v w k p →
    waitsOn v (stepReads w k p) = false → laneFails v (stepReads w k p) = false → t = c.val * 16 + (dA w).base % 16 →
    (s.m.tile t).drained.head?.getD ⟨0, [], false⟩ = row → ((dA w).kind = 3 → (s.m.tile t).drained ≠ []) →
    m1 = (if (dA w).kind = 3 then (drainTake t (s.m.setVe c.val v)).wrap F.veDrainRows (clIx c.val) 1 else s.m.setVe c.val v) →
    ((dA w).kind = 3 → row.poison = true → dOp w ≠ 0x31 → ∀ x ∈ ([
        ⟨.veCopy c u, 0x01⟩, ⟨.veAdd c u, 0x10⟩, ⟨.veSub c u, 0x11⟩, ⟨.veMul c u, 0x12⟩, ⟨.veFma c u, 0x13⟩, ⟨.veMax c u, 0x14⟩, ⟨.veMin c u, 0x15⟩,
        ⟨.veAbs c u, 0x16⟩, ⟨.veNeg c u, 0x17⟩, ⟨.veExp2 c u, 0x20⟩, ⟨.veLog2 c u, 0x21⟩, ⟨.veRcp c u, 0x22⟩, ⟨.veRsqrt c u, 0x23⟩,
        ⟨.vePerm c u, 0x30⟩, ⟨.veRsum c u, 0x40⟩, ⟨.veRmax c u, 0x41⟩, ⟨.veRmin c u, 0x42⟩, ⟨.veArgmax c u, 0x43⟩, ⟨.veArgmin c u, 0x44⟩,
        ⟨.veSample c u, 0x50⟩, ⟨.veAccept c u, 0x51⟩, ⟨.veBlockq c u, 0x60⟩] : List (Instr × Nat)), dOp w = x.2 →
      exec x.1 s = .next ⟨m1.veIssued c.val { e with poison := e.poison + 1 } (stepsAll w k (lanesOf work)) 0x40000 [], s.pending⟩) ∧
    (((dA w).kind = 3 → row.poison = false) →
      (dOp w = 0x01 → exec (.veCopy c u) s =
        .next ⟨m1.veOutcome c.val 0x01 e k work v p act [] row (fun i _ _ _ _ => stepCopy i), s.pending⟩) ∧
      (dOp w = 0x10 → exec (.veAdd c u) s =
        .next ⟨m1.veOutcome c.val 0x10 e k work v p act [] row (fun i b d _ _ => stepArith i .add b d), s.pending⟩) ∧
      (dOp w = 0x11 → exec (.veSub c u) s =
        .next ⟨m1.veOutcome c.val 0x11 e k work v p act [] row (fun i b d _ _ => stepArith i .sub b d), s.pending⟩) ∧
      (dOp w = 0x12 → exec (.veMul c u) s =
        .next ⟨m1.veOutcome c.val 0x12 e k work v p act [] row (fun i b d _ _ => stepArith i .mul b d), s.pending⟩) ∧
      (dOp w = 0x13 → exec (.veFma c u) s =
        .next ⟨m1.veOutcome c.val 0x13 e k work v p act [] row (fun i b d _ _ => stepArith i .fma b d), s.pending⟩) ∧
      (dOp w = 0x14 → exec (.veMax c u) s =
        .next ⟨m1.veOutcome c.val 0x14 e k work v p act [] row (fun i b d _ _ => stepArith i .max b d), s.pending⟩) ∧
      (dOp w = 0x15 → exec (.veMin c u) s =
        .next ⟨m1.veOutcome c.val 0x15 e k work v p act [] row (fun i b d _ _ => stepArith i .min b d), s.pending⟩) ∧
      (dOp w = 0x16 → exec (.veAbs c u) s =
        .next ⟨m1.veOutcome c.val 0x16 e k work v p act [] row (fun i b d _ _ => stepArith i .abs b d), s.pending⟩) ∧
      (dOp w = 0x17 → exec (.veNeg c u) s =
        .next ⟨m1.veOutcome c.val 0x17 e k work v p act [] row (fun i b d _ _ => stepArith i .neg b d), s.pending⟩) ∧
      (dOp w = 0x20 → exec (.veExp2 c u) s =
        .next ⟨m1.veOutcome c.val 0x20 e k work v p act [] row (fun i _ _ _ _ => stepSpecial i .exp2), s.pending⟩) ∧
      (dOp w = 0x21 → exec (.veLog2 c u) s =
        .next ⟨m1.veOutcome c.val 0x21 e k work v p act [] row (fun i _ _ _ _ => stepSpecial i .log2), s.pending⟩) ∧
      (dOp w = 0x22 → exec (.veRcp c u) s =
        .next ⟨m1.veOutcome c.val 0x22 e k work v p act [] row (fun i _ _ _ _ => stepSpecial i .rcp), s.pending⟩) ∧
      (dOp w = 0x23 → exec (.veRsqrt c u) s =
        .next ⟨m1.veOutcome c.val 0x23 e k work v p act [] row (fun i _ _ _ _ => stepSpecial i .rsqrt), s.pending⟩) ∧
      (dOp w = 0x30 → exec (.vePerm c u) s =
        .next ⟨m1.veOutcome c.val 0x30 e k work v p act [] row (fun i _ _ _ _ => stepPerm i), s.pending⟩) ∧
      (dOp w = 0x40 → exec (.veRsum c u) s =
        .next ⟨m1.veOutcome c.val 0x40 e k work v p act [] row (fun i _ _ d l => stepRsum i d.runSum l), s.pending⟩) ∧
      (dOp w = 0x41 → exec (.veRmax c u) s =
        .next ⟨m1.veOutcome c.val 0x41 e k work v p act [] row (fun i _ _ d l => stepBest i true false d.runVals l), s.pending⟩) ∧
      (dOp w = 0x42 → exec (.veRmin c u) s =
        .next ⟨m1.veOutcome c.val 0x42 e k work v p act [] row (fun i _ _ d l => stepBest i false false d.runVals l), s.pending⟩) ∧
      (dOp w = 0x43 → exec (.veArgmax c u) s =
        .next ⟨m1.veOutcome c.val 0x43 e k work v p act [] row (fun i _ _ d l => stepBest i true true d.runVals l), s.pending⟩) ∧
      (dOp w = 0x44 → exec (.veArgmin c u) s =
        .next ⟨m1.veOutcome c.val 0x44 e k work v p act [] row (fun i _ _ d l => stepBest i false true d.runVals l), s.pending⟩) ∧
      (dOp w = 0x50 → exec (.veSample c u) s =
        .next ⟨m1.veOutcome c.val 0x50 e k work v p act [] row (fun i b _ d l => stepSample i (dC i.w).imm (nth (0, 0) b 0).1 d.runVals l), s.pending⟩) ∧
      (dOp w = 0x51 → exec (.veAccept c u) s =
        .next ⟨m1.veOutcome c.val 0x51 e k work v p act [] row (fun i b _ _ _ => stepAccept i b), s.pending⟩) ∧
      (dOp w = 0x60 → exec (.veBlockq c u) s =
        .next ⟨m1.veOutcome c.val 0x60 e k work v p act [] row (fun i _ _ _ _ => stepBlockq i ((fmtOfCode (dD i.w).fmt).getD .i8)), s.pending⟩) ∧
      (dOp w = 0x31 → ∀ table tl, table = gatherTable c.val v w k p → tl = act.filterMap (fun j => nth none table j) →
        waitsOn v tl = false → laneFails v tl = false → exec (.veGather c u) s =
        .next ⟨m1.veOutcome c.val 0x31 e k work v p act table row (fun i _ _ _ _ => stepGather i), s.pending⟩))) ∧
  (∀ (m1 : Mach) (c op : Nat) (e : VeExec) (k : VKind) (work : Fmt) (v : Ve) (p : StepAt) (act : List Nat) (table : List (Option Loc)) (row : DrainRow)
    (f : StepFn) (w : List Nat) (raw : List Nat), e.cmd.w = w →
    raw = (if (dA w).kind = 3 then (row.vals.drop p.s).take p.p else rawCodes c v w (dA w) (k != .accept && dBcast w 0) p) →
    ∃ (i : StepIn) (b d : List Coded) (rf : Nat), i.w = w ∧ i.kind = k ∧ i.work = work ∧ i.tr = dTrunc w ∧ i.at_ = p ∧ i.tree = e.tree ∧ i.act = act ∧
      (k ≠ .accept → k ≠ .gather →
        i.a = treeMask w e.tree work p (if (dA w).kind = 3 then raw.map (convIn .g36 work (dTrunc w)) else lanesIn (dA w).fmt work (dTrunc w) raw)) ∧
      (k = .arith → usesB op = true → b = lanesIn (dB w).fmt work (dTrunc w) (rawCodes c v w (dB w) (dBcast w 1) p)) ∧
      (op = 0x13 → d = lanesIn (dC w).fmt work (dTrunc w) (rawCodes c v w (dC w) (dBcast w 2) p)) ∧
      (k = .perm → i.idx = signedB c v w p) ∧
      (k = .gather → (dA w).kind ≠ 3 → dMask w ≠ 2 → ∀ g, fmtOfCode (dA w).fmt = some g →
        i.got = table.map (fun x => x.map (fun l => convIn g work (dTrunc w) (readLoc c v l)))) ∧
      m1.veOutcome c op e k work v p act table row f = m1.veWriteOut c e i (f i b d e (isLast w p)) (stepsAll w k (lanesOf work)) rf)

/-- 04 R85: LOAD reads the bank words of its lanes, converts them and issues its writes to the cache; STORE merges its converted lanes into the bank
words; a word that the cluster's bank refuses stops the descriptor at that step. -/
def Obligations.VectorLoadsAndStores : Prop :=
  ∀ (c : ClusterNo) (u : List Nat) (s : State) (e : VeExec) (work : Fmt) (w : List Nat) (p : StepAt),
  s.m.alive (.core (c.val / 10)) = true → (s.m.ve c.val).exec = some e → e.cmd.w = w → fmtOfCode (dWork w) = some work → dMask w = 0 →
  (∀ (src : Fmt) (locs : List Loc) (a : List Byte) (m1 : Mach), dOp w = 2 → fmtOfCode (dA w).fmt = some src →
    p = stepAt w .load (lanesOf work) 0 e.step → locs = laneLocs w (dA w) (elemBits (dA w).fmt) (dBcast w 0) p →
    anyHeld s.m c.val (.local 16) (wordsOfLocs locs) = false →
    (firstRefused s.m c.val (wordsOfLocs locs) = none → (s.m.upsetLanes c.val u).readWords c.val (.local 16) (wordsOfLocs locs) = (a, false, m1) →
      ∃ (i : StepIn) (rf : Nat), i.w = w ∧ i.work = work ∧ i.at_ = p ∧ i.act = upFrom 0 p.p ∧
        i.a = locs.map (fun l => convIn src work (dTrunc w) (bankCode s.m c.val l)) ∧
        exec (.veLoad c u) s = .next ⟨m1.veWriteOut c.val e i (stepCopy i) (stepsAll w .load (lanesOf work)) rf, s.pending⟩) ∧
    (∀ x, firstRefused s.m c.val (wordsOfLocs locs) = some x → exec (.veLoad c u) s = .next ⟨s.m.veRefused c.val e x, s.pending⟩)) ∧
  (∀ (dst : Fmt) (v : Ve) (outs : List Coded) (locs : List Loc) (bs : List CacheByte) (a : List Byte) (m0 m1 : Mach), dOp w = 3 →
    fmtOfCode (dD w).fmt = some dst → p = stepAt w .store (lanesOf work) 0 e.step → v = (s.m.ve c.val).upset u → m0 = s.m.setVe c.val v →
    waitsOn v (stepReads w .store p) = false → laneFails v (stepReads w .store p) = false →
    outs = (upFrom 0 p.p).map (fun j => convOut work dst (dTrunc w)
      (nth (0, 0) (lanesIn (dA w).fmt work (dTrunc w) (rawCodes c.val v w (dA w) (dBcast w 0) p)) j).1) →
    locs = destLocs w p false (upFrom 0 p.p) → anyHeld m0 c.val (.local 16) (wordsOfLocs locs) = false →
    bs = mergeBytes ((locs.zip outs).flatMap (fun x => locBytes x.1 x.2.1)) →
    (firstRefused m0 c.val (wordsOfLocs locs) = none →
      m0.readWords c.val (.local 16) ((linesOf bs).filter (fun ln => bs.any (fun b => b.addr / 64 == ln && b.mask != 255))) = (a, false, m1) →
      ∃ fl, exec (.veStore c u) s =
        .next ⟨(m1.storeWords c.val bs (linesOf bs)).veIssued c.val e (stepsAll w .store (lanesOf work)) fl [], s.pending⟩) ∧
    (∀ x, firstRefused m0 c.val (wordsOfLocs locs) = some x → exec (.veStore c u) s = .next ⟨m0.veRefused c.val e x, s.pending⟩))

/-- 04 R89 to R95, R97: what a step's lanes hold. Each lane of an arithmetic or special operation is the operation of its lane's values, rounded once;
PERM and GATHER take the named lane, or +0 outside the range; RMAX, RMIN, ARGMAX and ARGMIN over no lane give −∞ or +∞ (the least or greatest
integer) and 0xFFFFFFFF; the first RSUM step keeps the lane tree's sum, a later one adds it to the running sum; ACCEPT writes 64 bytes. -/
def Obligations.VectorOperationResults : Prop :=
  ∀ (i : StepIn) (b d : List Coded),
  (∀ op, (stepArith i op b d).codes = i.act.map (fun j => (roundOut i.work i.tr (arithVal op (decodeVal i.work (nth (0, 0) i.a j).1)
    (decodeVal i.work (nth (0, 0) b j).1) (decodeVal i.work (nth (0, 0) d j).1))).1)) ∧
  (∀ op, (stepSpecial i op).codes = i.act.map (fun j => (roundOut i.work i.tr (special op (decodeVal i.work (nth (0, 0) i.a j).1))).1)) ∧
  (stepCopy i).codes = i.act.map (fun j => (nth (0, 0) i.a j).1) ∧
  (∀ j ∈ i.act, (nth 0 i.idx j < 0 ∨ (i.at_.p : Int) ≤ nth 0 i.idx j) → i.act = [j] → (stepPerm i).codes = [0] ∧ (stepPerm i).flags = flRange) ∧
  (∀ j, i.act = [j] → nth none i.got j = none → (stepGather i).codes = [0] ∧ (stepGather i).flags = flRange) ∧
  (∀ big, i.work.isInt = false → reduceBest i.work big false [] = ((encodeVal i.work false (.inf big)).1, 0)) ∧
  (i.work.isInt = true → reduceBest i.work true false [] = (ofSigned i.work.width i.work.intMin, 0) ∧
    reduceBest i.work false false [] = (ofSigned i.work.width i.work.intMax, 0)) ∧
  (∀ big, reduceBest i.work big true [] = (0xFFFFFFFF, 0)) ∧
  (∀ (x : Nat × Nat) (l : List (Nat × Nat)) (y : Nat × Nat) (big : Bool), (x :: l).find? (fun z => isNanCode i.work z.2) = some y →
    reduceBest i.work big true (x :: l) = (y.1, flNan) ∧ reduceBest i.work big false (x :: l) = (i.work.canonNan, flNan)) ∧
  (∀ run, (stepRsum i run false).codes = [] ∧ (stepRsum i run true).codes.length = 1)

/-- 09 R213 to R218, 06 R136: one cycle of an arbiter and its other commands. When nothing holds it, an unmasked request in back-off waits, one that
may not go is refused or waits, and of the rest the winner is granted and each loser backs off and counts a lost cycle; while a transfer or an
emergency holds it, every live request only counts its wait; a back-off ends; a cutoff ends the hold and records it (not in a far channel's training,
recovery or pause), and of a proxy's transfer the moved segments stand; an emergency suspends the holder and gives it back; a mask ends the
requester's transfer, and withdraws a proxy requester's requests (log 149). -/
def Obligations.ArbiterCommands : Prop :=
  ∀ (a : ArbId) (s : State) (x : Arb), s.m.alive (arbDom a) = true → s.m.arb a = x →
  (∀ (rs live asking good : List ArbReq) (m1 m2 m3 : Mach), x.holder = none → x.emergency = false →
    live = rs.filter (fun r => reqFits a r && !bitOf r.idx x.masked) → asking = live.filter (fun r => !bitOf r.idx x.backoff) →
    good = asking.filter (fun r => s.m.arbSay a r == .go) →
    m1 = (live.filter (fun r => bitOf r.idx x.backoff)).foldl (fun m r => m.waited a r.idx) s.m →
    m2 = asking.foldl (fun m r => m.turnAway a r) m1 →
    (good = [] → exec (.arbiterGrant a rs) s = .next ⟨m2, s.pending⟩) ∧
    (∀ w, m2.winner a good = some w →
      m3 = (good.filter (fun r => r.idx != w.idx)).foldl (fun m r => (m.setArb a ((m.arb a).lose r.idx)).waited a r.idx) m2 →
      exec (.arbiterGrant a rs) s = .next ⟨m3.grant a w, s.pending⟩)) ∧
  (∀ rs, x.holder.isSome = true ∨ x.emergency = true → exec (.arbiterGrant a rs) s = .next
    ⟨(rs.filter (fun r => reqFits a r && !bitOf r.idx x.masked)).foldl (fun m r => m.waited a r.idx) s.m, s.pending⟩) ∧
  (∀ i, exec (.backoffExpiry a i) s = .next ⟨s.m.setArb a { x with backoff := clearBit i x.backoff }, s.pending⟩) ∧
  (∀ (h : Holder) (segs : Nat) (m1 : Mach), x.holder = some h → s.m.cutOff a = m1 →
    (∀ c, a = .far c → (s.m.farCh c.val).step = 0 ∧ (s.m.farCh c.val).mode = .normal ∧ (s.m.farCh c.val).pause = false) →
    exec (.holdMaxCutoff ⟨a, segs⟩) s = .next ⟨if a = .proxy then m1.pipeCut h.idx segs true else m1, s.pending⟩ ∧
    m1.arb a = ({ x with holder := none } : Arb).lose h.idx ∧ m1.mem = s.m.mem ∧ (a = .proxy → m1.hl = s.m.hl) ∧
      (match a with
       | .bankA b => m1.rd F.bankCutoffId (clIx (b.val / 16)) = h.idx % 2 ^ F.bankCutoffId.width ∧ m1.rd F.bankCutoffValid (clIx (b.val / 16)) = 1
       | .bankB b => m1.rd F.bankCutoffId (clIx (b.val / 16)) = h.id % 2 ^ F.bankCutoffId.width ∧ m1.rd F.bankCutoffValid (clIx (b.val / 16)) = 1
       | .far c => m1.rd F.farCutoffId (farIx c.val) = h.id % 2 ^ F.farCutoffId.width ∧ m1.rd F.farCutoffValid (farIx c.val) = 1
       | .proxy => m1.rd F.hlCutoffId 6 = h.id % 2 ^ F.hlCutoffId.width ∧ m1.rd F.hlCutoffValid 6 = 1)) ∧
  (∀ c h segs, a = .far c → x.holder = some h → ((s.m.farCh c.val).step ≠ 0 ∨ (s.m.farCh c.val).mode ≠ .normal ∨ (s.m.farCh c.val).pause = true) →
    exec (.holdMaxCutoff ⟨a, segs⟩) s = .next s) ∧
  (x.emergency = false → ∃ n, exec (.emergencyHold a true) s = .next n ∧
    n.m.arb a = { x with emergency := true, suspended := x.holder, holder := none } ∧ n.m.mem = s.m.mem ∧ n.m.fields = s.m.fields) ∧
  (x.emergency = true → exec (.emergencyHold a false) s =
    .next ⟨s.m.setArb a { x with emergency := false, holder := x.suspended, suspended := none }, s.pending⟩) ∧
  (∀ i segs, exec (.requesterMask ⟨a, segs⟩ i false) s = .next ⟨s.m.setArb a { x with masked := clearBit i x.masked }, s.pending⟩) ∧
  (∀ (i segs : Nat) (m1 : Mach), s.m.mask a i true = m1 →
    (a ≠ .proxy → exec (.requesterMask ⟨a, segs⟩ i true) s = .next ⟨m1, s.pending⟩) ∧
    (a = .proxy → exec (.requesterMask ⟨a, segs⟩ i true) s =
      .next ⟨(if (x.holder.or x.suspended).any (fun h => h.idx == i) then m1.pipeCut i segs false else m1).withdraw i, s.pending⟩) ∧
    (m1.arb a).masked = setBit i x.masked ∧ (m1.arb a).backoff = clearBit i x.backoff ∧
    (m1.arb a).losses = SMap.put 0 i 0 x.losses ∧ (∀ h, (m1.arb a).holder = some h → h.idx ≠ i) ∧ m1.mem = s.m.mem)



/-- 09 R214: "The highest rank among unmasked, requesting, eligible requesters wins": the winner among the requests of a cycle is one of them, no
request has a higher rank, and none of its rank comes before it in the turn that begins above the last index granted at that rank. -/
def Obligations.ArbiterWinner : Prop :=
  ∀ (m : Mach) (a : ArbId) (rs : List ArbReq), (∀ r ∈ rs, r.idx < 64) → SMap.get 0 (rs.foldl (fun t r => max t (m.rank a r.idx)) 0) (m.arb a).lastAt ≤ 64 →
  (rs = [] → m.winner a rs = none) ∧
  (rs ≠ [] → ∃ w, m.winner a rs = some w ∧ w ∈ rs ∧ (∀ r ∈ rs, m.rank a r.idx ≤ m.rank a w.idx) ∧
    (∀ r ∈ rs, m.rank a r.idx = m.rank a w.idx → ∀ k, k = SMap.get 0 (m.rank a w.idx) (m.arb a).lastAt →
      (k ≤ w.idx → r.idx < k ∨ w.idx ≤ r.idx) ∧ (w.idx < k → r.idx < k ∧ w.idx ≤ r.idx)))



/-- 06 R126, R127, R130, R131, R134 and Table 6-3: the commands of a bank. A beat of a read answers the word before the cycle with its mark and
changes no byte; a beat of a write merges its enabled bytes; an atomic answers the old value and stores the sum, saturated, or the operand; writing
GROUP starts a handover or, to the current group, ends one; a handover ends when nothing granted under the old group is outstanding. -/
def Obligations.BankCommands : Prop :=
  ∀ (b : BankNo) (s : State), s.m.alive (.sram (b.val / 160)) = true →
  (∀ (portB pair same : Bool) (u : List Nat) (x : Beat) (m0 : Mach) (other : Option Beat), s.m.beatNow b.val portB pair = some x →
    s.m.upsetLanes (b.val / 16) u = m0 → other = (if same then (s.m.beatNow b.val (!portB) pair).filter (fun y => !isAtomic y.acc.op) else none) →
    (isRead x.acc.op = true → exec (.bankRead b portB pair same u) s =
      .next ⟨if portB then m0.bankCycle b.val other (some x) else m0.bankCycle b.val (some x) other, s.pending⟩) ∧
    (isWrite x.acc.op = true → exec (.bankWrite b portB pair same u) s =
      .next ⟨if portB then m0.bankCycle b.val other (some x) else m0.bankCycle b.val (some x) other, s.pending⟩)) ∧
  (∀ (portB pair : Bool) (u : List Nat) (q : BankAcc) (l : List BankAcc) (r : List Byte × Bool × Mach), s.m.bankQ b.val portB = q :: l → q.op = .read →
    q.n = 1 → s.m.suspendedFront b.val portB = false → (s.m.upsetLanes (b.val / 16) u).readWord b.val (bankBase b.val + 64 * q.word) = r →
    ∃ n, exec (.bankRead b portB pair false u) s = .next n ∧ n.m.out = s.m.out ++ [.resp q.id rsOk r.1 (if r.2.1 then 16 else 0)] ∧
      n.m.mem = s.m.mem ∧ n.m.fields = r.2.2.fields ∧ n.m.bankQ b.val portB = l ∧ n.pending = s.pending) ∧
  (∀ (portB pair : Bool) (u : List Nat) (q : BankAcc) (l : List BankAcc) (d : List Byte) (en : List Bool), s.m.bankQ b.val portB = q :: l →
    q.op = .write d en → q.n = 1 → s.m.suspendedFront b.val portB = false →
    ∃ n, exec (.bankWrite b portB pair false u) s = .next n ∧ n.m.bankQ b.val portB = l ∧ n.pending = s.pending ∧ n.m.out = s.m.out ∧
      n.m.mem = (s.m.putEn (bankBase b.val + 64 * q.word) (d.take 64) (en.take 64)).mem) ∧
  (∀ (u : List Nat) (q : BankAcc) (l : List BankAcc) (wide : Bool) (off v k old : Nat) (r : List Byte × Bool × Mach), s.m.bankQ b.val true = q :: l →
    q.n = 1 → s.m.suspendedFront b.val true = false → k = (if wide then 8 else 4) → (s.m.upsetLanes (b.val / 16) u).readWord b.val (bankBase b.val + 64 * q.word) = r →
    old = leNat ((r.1.drop off).take k) →
    (q.op = .add wide off v → ∃ n, exec (.atomicAdd b ⟨false, false⟩ u) s = .next n ∧ n.m.bankQ b.val true = l ∧ n.pending = s.pending ∧
      n.m.out = s.m.out ++ [.resp q.id rsOk (leBytes k old) ((if (satSum (8 * k) old v).2 then 8 else 0) + (if r.2.1 then 16 else 0))] ∧
      n.m.mem = (s.m.putEn (bankBase b.val + 64 * q.word) (List.replicate off 0 ++ leBytes k (satSum (8 * k) old v).1 ++ List.replicate (64 - off - k) 0)
        (List.replicate off false ++ List.replicate k true ++ List.replicate (64 - off - k) false)).mem) ∧
    (q.op = .swap wide off v → ∃ n, exec (.atomicSwap b ⟨false, false⟩ u) s = .next n ∧ n.m.bankQ b.val true = l ∧ n.pending = s.pending ∧
      n.m.out = s.m.out ++ [.resp q.id rsOk (leBytes k old) (if r.2.1 then 16 else 0)] ∧
      n.m.mem = (s.m.putEn (bankBase b.val + 64 * q.word) (List.replicate off 0 ++ leBytes k (v % 2 ^ (8 * k)) ++ List.replicate (64 - off - k) 0)
        (List.replicate off false ++ List.replicate k true ++ List.replicate (64 - off - k) false)).mem)) ∧
  (∀ g, F.bankOwnerGroup.isLegal g = true → s.m.on F.bankOwnerPending (bankIx b.val) = false →
    (g = s.m.rd F.bankOwnerCurrent (bankIx b.val) →
      exec (.bankOwnerWrite b g) s = .next ⟨(s.m.wr F.bankOwnerGroup (bankIx b.val) g).handedOver b.val, s.pending⟩) ∧
    (g ≠ s.m.rd F.bankOwnerCurrent (bankIx b.val) → exec (.bankOwnerWrite b g) s =
      .next ⟨((s.m.wr F.bankOwnerGroup (bankIx b.val) g).wr F.bankOwnerPending (bankIx b.val) 1).markOld b.val, s.pending⟩)) ∧
  (∀ g, F.bankOwnerGroup.isLegal g = false → exec (.bankOwnerWrite b g) s = .next s) ∧
  (s.m.on F.bankOwnerPending (bankIx b.val) = true → (∀ q ∈ s.m.bankQ b.val false ++ s.m.bankQ b.val true, q.oldGroup = false) →
    exec (.handoverDone b) s = .next ⟨((s.m.wr F.bankOwnerCurrent (bankIx b.val) (s.m.rd F.bankOwnerGroup (bankIx b.val))).wr
      F.bankOwnerPending (bankIx b.val) 0).handedOver b.val, s.pending⟩)

/-- 06 R139, R141 to R146: the near tier. A burst read answers its 64 bytes, waits for its re-read when its CRC fails, and waits in the channel's
queue of 32 behind an earlier burst of its requester or of its address; a write changes the enabled bytes of its burst and is acknowledged, or waits
there too; a re-read that passes is delivered with the REREAD mark, one that fails again with FAILED, counted and recorded, and its page retired; then
what waited behind it goes on; an access to a retired page is refused, except to HEALTH and the test port, and one while the tier does not accept is
UNAVAILABLE; refresh takes the banks in turn; HOT clears once every layer reads 5 °C below the threshold. -/
def Obligations.NearTierCommands : Prop :=
  ∀ (d : DieNo) (s : State), s.m.alive (.near d.val) = true →
  (∀ (who addr o a : Nat) (bad : Bool), placeOf s.m.fuses addr = .near d.val o → a = addr / 64 * 64 →
    (s.m.nearSay d.val o who = 0 → nearFull s.m.near.waits d.val a = true → exec (.nearBurstRead who addr bad) s = .next s ∧
      (∀ data en, exec (.nearBurstWrite who addr data en bad) s = .next s)) ∧
    (s.m.nearSay d.val o who = 0 → nearFull s.m.near.waits d.val a = false → nearBlocked s.m.near.waits d.val who a = true →
      exec (.nearBurstRead who addr bad) s = .next ⟨s.m.setWaits (s.m.near.waits ++ [⟨d.val, who, a, none, false⟩]), s.pending⟩ ∧
      (∀ data en, exec (.nearBurstWrite who addr data en bad) s =
        .next ⟨(s.m.setWaits (s.m.near.waits ++ [⟨d.val, who, a, some (data, en), false⟩])).respond who rsOk, s.pending⟩)) ∧
    (s.m.nearSay d.val o who = 0 → nearFull s.m.near.waits d.val a = false → nearBlocked s.m.near.waits d.val who a = false →
      ((bad || s.m.nearIsBad a) = false → exec (.nearBurstRead who addr bad) s = .next ⟨s.m.send (.resp who rsOk (s.m.bytes a 64) 0), s.pending⟩) ∧
      ((bad || s.m.nearIsBad a) = true → exec (.nearBurstRead who addr bad) s =
        .next ⟨s.m.setWaits (s.m.near.waits ++ [⟨d.val, who, a, none, true⟩]), s.pending⟩) ∧
      (∀ data en, ∃ n, exec (.nearBurstWrite who addr data en bad) s = .next n ∧
        n.m.mem = (s.m.putEn a (data.take 64) (en.take 64)).mem ∧ n.m.fields = s.m.fields ∧
        n.m.out = s.m.out ++ [.resp who rsOk [] 0] ∧ n.pending = s.pending)) ∧
    (who ≠ idHealth → who ≠ idTest → s.m.on F.nearCtrlAccept d.val = false →
      exec (.nearBurstRead who addr bad) s = .next ⟨s.m.respond who rsUnavailable, s.pending⟩ ∧
      (∀ data en, exec (.nearBurstWrite who addr data en bad) s = .next ⟨s.m.respond who rsUnavailable, s.pending⟩)) ∧
    (who ≠ idHealth → who ≠ idTest → s.m.on F.nearCtrlAccept d.val = true → o < tableOff →
      (∀ x ∈ s.m.alm.tabs, x.2 ≠ (nearBase d.val + o) / 0x200000 + 1) → s.m.isRetired d.val (nearPage o) = true →
      exec (.nearBurstRead who addr bad) s = .next ⟨(s.m.ev F.nearEventsRetiredAccess d.val).respond who rsRefused, s.pending⟩ ∧
      (∀ data en, exec (.nearBurstWrite who addr data en bad) s =
        .next ⟨(s.m.ev F.nearEventsRetiredAccess d.val).respond who rsRefused, s.pending⟩))) ∧
  (∀ (w : NearWait) (rest : List NearWait) (bad : Bool) (m1 m2 : Mach), s.m.near.waits.find? (fun w => w.die == d.val && w.reread) = some w →
    rest = s.m.near.waits.erase w → m1 = s.m.setWaits rest →
    ((bad || s.m.nearIsBad w.addr) = false → m2 = ((m1.ev F.nearEventsRereadOk d.val).cnt F.nearRereads d.val 1).send
      (.resp w.who rsOk (s.m.bytes w.addr 64) 1)) →
    ((bad || s.m.nearIsBad w.addr) = true → m2 = (m1.nearFailed d.val (w.addr - nearBase d.val) w.who).send
      (.resp w.who rsOk (s.m.bytes w.addr 64) 2)) →
    exec (.nearReread d bad) s = .next ⟨m2.nearDrain [] rest, s.pending⟩ ∧
    (∀ o who, (m1.nearFailed d.val o who).on F.nearEventsCrcFail2 d.val = true ∧ (m1.nearFailed d.val o who).mem = s.m.mem ∧
      (m1.nearFailed d.val o who).rd F.nearFailAddrHiChannel d.val = nearChannel o % 2 ^ F.nearFailAddrHiChannel.width)) ∧
  ((∀ k ∈ upFrom 0 4, layerTemp s.m d.val k ≠ -32768 ∧ layerTemp s.m d.val k ≤ 8 * ((s.m.rd F.nearRefreshHot d.val : Int) - 5)) →
    exec (.nearHotRestore d) s = .next ⟨s.m.wr F.nearStatusHot d.val 0, s.pending⟩) ∧
  (∀ h : Fin 256, s.m.alive .refresh = true → ∃ n, exec (.nearRefresh d h) s = .next n ∧ n.m.mem = s.m.mem ∧
    SMap.get 0 (d.val * 256 + h.val) n.m.near.turn = (SMap.get 0 (d.val * 256 + h.val) s.m.near.turn + 1) % 16 ∧
    (∀ k, k < 4 → 8 * (s.m.rd F.nearRefreshHot d.val : Int) < layerTemp s.m d.val k → n.m.rd F.nearStatusHot d.val = 1))

/-- 09 R200 to R203, R207, R209, R210: bursts of a far channel. The holder's next unit (here a read within one unit) enters the queue, and with its
last unit the transfer ends; the head issues into the retry buffer; the oldest burst of the retry buffer leaves it when its window passes: a read
whose checks are good is delivered, a write takes place and one that reads bad is re-read first; the second bad re-read of a read delivers it LOST;
a refresh enters the queue behind the bursts there; MR4 sets and clears HOT. -/
def Obligations.FarBurstCommands : Prop :=
  ∀ (h : Fin 24) (s : State) (x : FarCh), s.m.alive (.far (h.val / 4)) = true → s.m.farCh h.val = x →
  (∀ (t : FarXfer) (n : Nat), x.xfer = some t → x.queue.length < 16 → (s.m.arb (.far h)).emergency = false → n = min t.left (64 - t.p % 64) →
    (t.data = none → (n = t.left ∨ t.p / 64 % 2 = 1) → exec (.farAdmit h) s = .next ⟨if t.left = n then
        (s.m.setFar h.val { x with queue := x.queue ++ [.burst ⟨t.id, t.p / 64 * 64, 1, none, false⟩], xfer := none }).setArb (.far h)
          { s.m.arb (.far h) with holder := none }
      else s.m.setFar h.val { x with queue := x.queue ++ [.burst ⟨t.id, t.p / 64 * 64, 1, none, false⟩], xfer := some { t with p := t.p + n, left := t.left - n } }, s.pending⟩) ∧
    (t.data = none → n < t.left → t.p / 64 % 2 = 0 → exec (.farAdmit h) s = .next ⟨if t.left - n ≤ 64 then
        (s.m.setFar h.val { x with queue := x.queue ++ [.burst ⟨t.id, t.p / 64 * 64, 2, none, false⟩], xfer := none }).setArb (.far h)
          { s.m.arb (.far h) with holder := none }
      else s.m.setFar h.val { x with queue := x.queue ++ [.burst ⟨t.id, t.p / 64 * 64, 2, none, false⟩], xfer := some { t with p := t.p + n + 64, left := t.left - n - 64 } }, s.pending⟩) ∧
    (∀ d, t.data = some d → ∃ (b : FarBurst) (k : Nat) (m1 : Mach), n ≤ k ∧ k ≤ t.left ∧ k ≤ n + 64 ∧ b.id = t.id ∧ b.p = t.p / 64 * 64 ∧
      (b.units = 1 → k = n) ∧ (b.units ≠ 1 → b.units = 2 ∧ b.merged = false ∧ t.p / 64 % 2 = 0 ∧ k = min t.left 128) ∧
      b.data = some (List.replicate (t.p % 64) 0 ++ d.1.take k, List.replicate (t.p % 64) false ++ d.2.take k) ∧
      (b.merged = false ↔ n = 64 ∧ (d.2.take 64).all id = true ∧ 64 ≤ d.2.length) ∧
      m1 = s.m.setFar h.val { x with queue := x.queue ++ [.burst b], xfer := (if t.left = k then none
        else some ⟨t.id, t.p + k, t.left - k, some (d.1.drop k, d.2.drop k)⟩) } ∧
      exec (.farAdmit h) s = .next ⟨if t.left = k then (m1.setArb (.far h) { s.m.arb (.far h) with holder := none }).respond t.id rsOk else m1,
        s.pending⟩)) ∧
  (∀ (b : FarBurst) (l : List FarCmd), x.issues = true → x.queue = .burst b :: l →
    exec (.farBurstIssue h) s = .next ⟨s.m.setFar h.val { x with queue := l, retry := x.retry ++ [b] }, s.pending⟩) ∧
  (∀ (k : Nat) (l : List FarCmd), x.blocked = false → x.queue = .refresh k :: l →
    exec (.farBurstIssue h) s = .next ⟨s.m.setFar h.val { x with queue := l }, s.pending⟩) ∧
  (∀ k, x.blocked = true → x.queue.find? FarCmd.isRefresh = some k →
    exec (.farBurstIssue h) s = .next ⟨s.m.setFar h.val { x with queue := x.queue.erase k }, s.pending⟩) ∧
  (∀ (b : FarBurst) (l : List FarBurst) (y : FarCh), x.mode ≠ .waitRise → x.mode ≠ .singleRise → x.reread = none → x.retry = b :: l →
    y = { x with retry := l, singles := if x.mode = .singleHeld then x.singles.drop 1 else x.singles } →
    (b.data = none → s.m.farReadsBad h.val b = false → exec (.farWindowPass h false) s = .next ⟨(s.m.send
      (.resp b.id rsOk ((unitAddrs s.m h.val b).flatMap (fun a => s.m.bytes a 64)) (if x.mode = .replaying then 1 else 0))).farLeft h.val y,
        s.pending⟩) ∧
    (b.data.isSome = true → b.merged = false → ∀ bad, exec (.farWindowPass h bad) s = .next ⟨(s.m.farWrite h.val b false).farLeft h.val y, s.pending⟩) ∧
    (b.data.isSome = true → b.merged = true → s.m.farReadsBad h.val b = false →
      exec (.farWindowPass h false) s = .next ⟨(s.m.farWrite h.val b false).farLeft h.val y, s.pending⟩) ∧
    (∀ bad, (b.data.isNone || b.merged) = true → (bad || s.m.farReadsBad h.val b) = true →
      exec (.farWindowPass h bad) s = .next ⟨s.m.setFar h.val { y with reread := some (b, 0) }, s.pending⟩)) ∧
  (∀ (b : FarBurst) (n : Nat) (y : FarCh) (bad full : Bool), x.reread = some (b, n) →
    (full = true ↔ x.needFull = true ∨ s.m.rd F.farRetrainFullThresh (farIx h.val) < x.rereads + 1) →
    y = { x with reread := none, rereads := x.rereads + 1, needFull := full } →
    ((bad || s.m.farReadsBad h.val b) = false → exec (.farReread h bad) s = .next ⟨(if b.data.isNone then
        (((s.m.ev F.farEventsRereadOk (farIx h.val)).cnt F.farRereads (farIx h.val) 1).send
          (.resp b.id rsOk ((unitAddrs s.m h.val b).flatMap (fun a => s.m.bytes a 64)) 1)).farLeft h.val y
      else ((((s.m.ev F.farEventsRereadOk (farIx h.val)).cnt F.farRereads (farIx h.val) 1)).farWrite h.val b false).farLeft h.val y), s.pending⟩) ∧
    ((bad || s.m.farReadsBad h.val b) = true → n = 0 → exec (.farReread h bad) s =
      .next ⟨s.m.setFar h.val { y with reread := some (b, 1) }, s.pending⟩) ∧
    ((bad || s.m.farReadsBad h.val b) = true → n ≠ 0 → exec (.farReread h bad) s = .next ⟨(if b.data.isNone then
        ((s.m.send (.resp b.id rsOk ((unitAddrs s.m h.val b).flatMap (fun a => s.m.bytes a 64)) 4)).farLost h.val b.p).farLeft h.val y
      else (s.m.farWrite h.val b true).farLeft h.val y), s.pending⟩)) ∧
  (∀ (m : Mach) (y : FarCh), y.mode = .normal → m.farLeft h.val y = m.setFar h.val y) ∧
  (∀ rank : Fin 2, s.m.alive .refresh = true → rank.val < s.m.rd F.farStatusRanks (farIx h.val) →
    exec (.farRefresh h rank) s = .next (if x.blocked then s else ⟨s.m.setFar h.val { x with queue := x.queue ++ [.refresh rank.val] }, s.pending⟩)) ∧
  (∀ calm, exec (.mr4Poll h true calm) s = .next ⟨s.m.wr F.farStatusHot (farIx h.val) 1, s.pending⟩) ∧
  exec (.mr4Poll h false true) s = .next ⟨s.m.wr F.farStatusHot (farIx h.val) 0, s.pending⟩



/-- 09 R204 to R208: training and recovery of a far channel. TRAIN lands in a stopped channel, from step 1 before it has been trained and step 2
after; each step leads to the next and step 8 puts the channel in service; a timeout fails it; a periodic pause begins and ends; a full retrain
starts at step 2; a CA alert stops issue until ALERT rises, and the retry buffer is then replayed. -/
def Obligations.FarTrainingCommands : Prop :=
  ∀ (h : Fin 24) (s : State) (x : FarCh) (q : Nat), s.m.alive (.far (h.val / 4)) = true → s.m.farCh h.val = x → farIx h.val = q →
  (s.m.on F.farCtrlAccept q = false → x.idle = true → x.step = 0 →
    (s.m.on F.farStatusReady q = false → exec (.farTrain h) s = .next ⟨(((s.m.wr F.farCtrlTrain q 1).wr F.farStatusTraining q 1).wr F.farTrainResultStep q
      1).setFar h.val { x with step := 1, full := false, needFull := false }, s.pending⟩) ∧
    (s.m.on F.farStatusReady q = true → ∃ n, exec (.farTrain h) s = .next n ∧ (n.m.farCh h.val).step = 2 ∧ n.m.on F.farStatusReady q = false ∧
      n.m.on F.farStatusTraining q = true)) ∧
  (0 < x.step → x.step < 8 →
    exec (.trainStepDone h) s = .next ⟨(s.m.setFar h.val { x with step := x.step + 1 }).wr F.farTrainResultStep q (x.step + 1), s.pending⟩) ∧
  (x.step = 8 → x.mode ≠ .waitRise → ∃ n, exec (.trainStepDone h) s = .next n ∧ (n.m.farCh h.val).step = 0 ∧ n.m.on F.farStatusReady q = true ∧
    n.m.on F.farStatusTraining q = false ∧ n.m.on F.farStatusFailed q = false ∧ n.m.mem = s.m.mem) ∧
  (∀ nw, x.step ≠ 0 → ∃ n, exec (.trainStepTimeout h nw) s = .next n ∧ (n.m.farCh h.val).step = 0 ∧ n.m.on F.farStatusReady q = false ∧
    n.m.on F.farStatusFailed q = true ∧ n.m.on F.farEventsTrainFail q = true ∧ n.m.rd F.farTrainResultCode q = (if nw then 2 else 1) ∧
    (s.m.farLostWrites h.val ≠ [] → n.m.on F.farEventsWriteLost q = true)) ∧
  (s.m.on F.farStatusReady q = true → x.mode = .normal →
    exec (.periodicRetrain h) s = .next ⟨s.m.setFar h.val { x with pause := true, rereads := 0 }, s.pending⟩) ∧
  (s.m.on F.farStatusReady q = true → x.mode ≠ .normal →
    exec (.periodicRetrain h) s = .next ⟨s.m.setFar h.val { x with pauseDue := true }, s.pending⟩) ∧
  (∀ drift, x.pause = true →
    exec (.periodicRetrainEnd h drift) s = .next ⟨s.m.setFar h.val { x with pause := false, needFull := x.needFull || drift }, s.pending⟩) ∧
  (x.needFull = true → x.step = 0 → x.pause = false → ∃ n, exec (.fullRetrain h) s = .next n ∧ (n.m.farCh h.val).step = 2 ∧
    (n.m.farCh h.val).full = true ∧ n.m.on F.farStatusReady q = false ∧ n.m.on F.farEventsFullRetrain q = true ∧ n.m.mem = s.m.mem) ∧
  ((x.step = 0 ∨ x.step = 8) → x.mode = .normal → exec (.caAlert h) s = .next ⟨(((s.m.ev F.farEventsCaAlert q).cnt F.farAlerts q 1).wr F.farStatusRecovering q 1).setFar
    h.val { x with mode := .waitRise }, s.pending⟩) ∧
  ((x.step = 0 ∨ x.step = 8) → x.mode = .replaying → ∃ n, exec (.caAlert h) s = .next n ∧ n.m.on F.farEventsReplayFail q = true ∧
    (n.m.farCh h.val).retry = [] ∧ (n.m.farCh h.val).singles = x.retry.filter (fun b => b.data.isSome) ∧ n.m.mem = s.m.mem) ∧
  ((x.step = 0 ∨ x.step = 8) → x.mode = .singleHeld → ∃ n, exec (.caAlert h) s = .next n ∧ (n.m.farCh h.val).mode = .singleRise ∧
    (n.m.farCh h.val).singles = x.singles ∧ (n.m.farCh h.val).attempts = min 4 (x.attempts + 1) ∧
    ((n.m.farCh h.val).needFull = true ↔ x.needFull = true ∨ 4 ≤ x.attempts + 1)) ∧
  (x.mode = .waitRise → x.retry ≠ [] → exec (.alertRise h) s = .next ⟨s.m.setFar h.val { x with mode := .replaying }, s.pending⟩) ∧
  (x.mode = .waitRise → x.retry = [] → ∃ n, exec (.alertRise h) s = .next n ∧ (n.m.farCh h.val).mode = .normal ∧ n.m.on F.farStatusRecovering q = false) ∧
  (x.mode = .singleRise → x.attempts ≠ 4 →
    exec (.alertRise h) s = .next ⟨s.m.setFar h.val { x with mode := .singleHeld, retry := x.singles.take 1 }, s.pending⟩)

/-- 07 R153 to R160: translation, migration and the page movers. A translation answers an address or a refusal, or waits behind a moving page; a
migration that a trigger of Table 7-6 asks for starts by setting MOVING in all six copies; each translator drops its entry and acknowledges once no
access it resolved through it is open; with six acknowledgements and every part copied the new entry is written and held accesses go on; HEALTH
evacuates a retired near page, a primary, a backing or one of a table area; a mover's command queue has 16 places for ALMANAC and HEALTH, and its
head's bursts are moved, each failure counted, and reported. -/
def Obligations.TranslationAndMovers : Prop :=
  (∀ (d : DieNo) (s : State) (who slot o : Nat) (w : Bool) (x : Xl) (m1 : Mach), s.m.alive (.noc d.val) = true →
    s.m.xlat d.val slot o w = (x, m1) →
    (∀ a, x = .at_ a → exec (.translate d who slot o w) s = .next ⟨m1.send (.resp who rsOk (leBytes 8 a) 0), s.pending⟩) ∧
    (x = .refuse → exec (.translate d who slot o w) s = .next ⟨m1.respond who rsRefused, s.pending⟩) ∧
    (x = .hold → (s.m.holdsOf d.val).length < 64 → exec (.translate d who slot o w) s =
      .next ⟨m1.setHolds d.val (m1.holdsOf d.val ++ [⟨who, slot, o, w⟩]), s.pending⟩)) ∧
  (∀ (s : State) (slot page tag e : Nat) (p : Plan) (t : Tensor), s.m.alive .uncore = true → s.m.tensorOfSlot slot = some (p, t) →
    e = s.m.pteEntry 0 (t.ptBase + page) → page < pagesOf t.bytes →
    (∀ (tier : Fin 3) (loc : Nat) (codes : List Nat) (m1 : Mach), s.m.almUp = true → s.m.on F.almMigrateEn 6 = true →
      pteMoving e = false → s.m.pinned p t = false → s.m.triggered p t page tier.val = true → s.m.migDstOk t page tier.val loc codes = true →
      m1 = s.m.putPte (t.ptBase + page) (e + 2 ^ 59) →
      exec (.migrationStart slot page tier loc codes tag) s = .next
        ⟨{ m1 with alm := { m1.alm with migs := m1.alm.migs ++ [⟨slot, page, ⟨tier.val, loc⟩, codes, tag, 0, [], tier.val == 1 && s.m.backs t page⟩] } },
          s.pending⟩) ∧
    (∀ d : DieNo, s.m.alive (.noc d.val) = true → ∃ n, exec (.invalidate d slot page) s = .next n ∧ n.m.mem = s.m.mem ∧ n.m.fields = s.m.fields ∧
      SMap.get 0 (cacheKey d.val (t.ptBase + page)) n.m.alm.cache = 0 ∧ n.m.alm.migs = s.m.alm.migs.map (fun (x : Mig) =>
        if x.slot = slot ∧ x.page = page ∧ s.m.xlatInUse d.val (s.m.pteEntry d.val (t.ptBase + page)) = false
        then { x with acks := setBit d.val x.acks } else x)) ∧
    (∀ (g : Mig), s.m.alm.migs.find? (fun x => x.slot == slot && x.page == page) = some g → g.acks = 0x3F →
      (∀ k ∈ s.m.partsOf e g, k ∈ g.copied) → s.m.procUp 1 = true →
      (g.backing = true → g.dst.tier ≠ 2 → exec (.migrationFinish slot page) s =
        .next ⟨({ s.m with alm := { s.m.alm with migs := s.m.alm.migs.erase g } } : Mach).rewritePte (t.ptBase + page)
          (mkPte (ptePrimary e) g.dst.loc 0 1 true false), s.pending⟩) ∧
      (∀ m1 : Mach, g.backing = false → g.dst.tier ≠ 2 → m1 = (s.m.freeSlabs (s.m.codesOf e)).setHome p t page g.dst →
        exec (.migrationFinish slot page) s = .next ⟨({ m1 with alm := { m1.alm with migs := m1.alm.migs.erase g } } : Mach).rewritePte
          (t.ptBase + page) (newPte e t.kind g), s.pending⟩) ∧
      (∀ (m1 m2 : Mach) (sl : SMap Nat), g.backing = false → g.dst.tier = 2 → m1 = s.m.freeSlabs (s.m.codesOf e) →
        m2 = m1.sixPut (fun d => m1.slabListAddr d g.dst.loc) (g.codes.flatMap (leBytes 2)) →
        sl = g.codes.foldl (fun s c => if c = 0xFFFF then s else SMap.put 0 c (slot + 1) s) m2.alm.slabs →
        exec (.migrationFinish slot page) s = .next ⟨({ m2 with alm := { m2.alm with migs := m2.alm.migs.erase g, slabs := sl } } : Mach).rewritePte
          (t.ptBase + page) (newPte e t.kind g), s.pending⟩)) ∧
    (∀ (dst : PagePick), s.m.procUp 3 = true → pteMoving e = false → s.m.pageFree dst = true → dst.loc ∉ s.m.usedLocs → slot < 65536 →
      (∀ (r : Bool × Mach) (m1 m2 : Mach) (js : List Job), s.m.locRetired (ptePTier e) (ptePrimary e) = true →
        s.m.evacBursts (ptePrimary e * 0x200000) (pteBacking e * 0x200000) (dst.loc * 0x200000) (pteBTier e != 3) 32768 = r →
        m1 = (if r.1 then r.2 else r.2.setLost t true) → 
        js = (if dst.tier = 1 then m1.alm.jobs.map (fun (j : Job) => if j.plan = p.id then { j with extraFar := j.extraFar + 0x200000 } else j)
          else m1.alm.jobs) → m2 = { m1 with alm := { m1.alm with jobs := js } } →
        exec (.evacuation slot page dst) s = .next ⟨((m2.setHome p t page ⟨dst.tier, dst.loc⟩).flagPlan p flPageRetired).rewritePte (t.ptBase + page)
          (mkPte dst.loc (pteBacking e) dst.tier (pteBTier e) true false), s.pending⟩) ∧
      (∀ (r : Bool × Mach), s.m.locRetired (ptePTier e) (ptePrimary e) = false → s.m.locRetired (pteBTier e) (pteBacking e) = true →
        s.m.evacBursts (pteBacking e * 0x200000) 0 (dst.loc * 0x200000) false 32768 = r →
        exec (.evacuation slot page dst) s = .next ⟨((r.2.setHome p t page (if ptePTier e = 2 then ⟨dst.tier, dst.loc⟩ else
          (t.pages[page]?).getD ⟨0, 0⟩)).flagPlan p flPageRetired).rewritePte (t.ptBase + page)
          (mkPte (ptePrimary e) (if r.1 then dst.loc else 0) (ptePTier e) (if r.1 then dst.tier else 3) true false), s.pending⟩))) ∧
  (∀ (s : State) (d page : Nat) (dst : PagePick), s.m.alive .uncore = true → s.m.procUp 3 = true → s.m.pageFree dst = true → dst.loc ∉ s.m.usedLocs →
    d < 6 → page < 32 → exec (.evacuation (65536 + d) page dst) s = .next ⟨s.m.evacTable d page dst, s.pending⟩) ∧
  (∀ (d : DieNo) (k : Fin 4) (s : State) (x : Mover), s.m.alive (.noc d.val) = true → s.m.mover d.val k.val = x →
    (∀ (who : Nat) (w : Word), (who = idAlmanac ∨ who = idHealth) → x.held = none → 0 < w.toNat / 65536 → w.toNat / 65536 ≤ 32768 →
      (x.queue.length < 16 → exec (.pmCmdEnqueue d k who w) s = .next ⟨(s.m.setMover d.val k.val { x with queue := x.queue ++
        [(who, x.staging ++ [w.toNat])] }).respond who rsOk, s.pending⟩) ∧
      (16 ≤ x.queue.length → exec (.pmCmdEnqueue d k who w) s = .next ⟨s.m.setMover d.val k.val { x with held := some (who, w.toNat) }, s.pending⟩)) ∧
    (∀ (who : Nat) (w : Word), who ≠ idAlmanac → who ≠ idHealth → exec (.pmCmdEnqueue d k who w) s = .next ⟨s.m.respond who rsRefused, s.pending⟩) ∧
    (∀ who w, x.held = some (who, w) → x.queue.length < 16 → exec (.pmCmdHeldRelease d k) s =
      .next ⟨(s.m.setMover d.val k.val { x with queue := x.queue ++ [(who, x.staging ++ [w])], held := none }).respond who rsOk, s.pending⟩) ∧
    (∀ (who : Nat) (w : List Nat) (l : List (Nat × List Nat)) (src dst n as_ : Nat) (r : Nat × Mach) (m1 m2 : Mach) (mg : List Mig), x.queue = (who, w) :: l →
      bitOf k.val (s.m.rd F.pmCtrlRun d.val) = true → src = (nth 0 w 0 + nth 0 w 1 % 65536 * 2 ^ 32) / 64 * 64 →
      dst = (nth 0 w 2 + nth 0 w 3 % 65536 * 2 ^ 32) / 64 * 64 → n = nth 0 w 3 / 65536 → as_ = (if who = idHealth then idHealth else idMover d.val k.val) →
      s.m.moveWaits as_ src dst n = false → s.m.moveBursts d.val as_ src dst n 0 = r → m1 = r.2.setMover d.val k.val { x with queue := l } →
      mg = m1.alm.migs.map (fun (g : Mig) => if g.tag = nth 0 w 1 / 65536 ∧ g.acks = 0x3F ∧ r.1 = 0
        then { g with copied := g.copied ++ s.m.partsMoved g src dst n } else g) → m2 = { m1 with alm := { m1.alm with migs := mg } } →
      exec (.pmCmdEnd d k) s = .next ⟨m2.mail (idMover d.val k.val) (if who = idHealth then 24 else 8) [nth 0 w 1 / 65536, r.1], s.pending⟩))

/-- 07 R147 to R152, 15 R368: plans and whole tensors. A PLAN_LOAD asks the host for its image; with the image come, one that fails a test of Table
7-4 ends with its detail and loads nothing, and a good one is loaded with its tensors placed; a plan is unloaded when no job of it is left, or
refused when it is not loaded; TENSOR_WRITE and TENSOR_READ move a WEIGHT or STATE tensor through a host window. -/
def Obligations.PlanAndTensorCommands : Prop :=
  ∀ (s : State), s.m.alive .uncore = true →
  (∀ (t : Ticket) (pl : List TenPlace), s.m.ticketOf 2 = some t → s.m.procUp 1 = true →
    (t.begun = false → exec (.planLoad pl) s =
      .next ⟨(s.m.begin_ t).askRead 1 (2 * t.no) (dsWin t.bytes) (dsOff t.bytes) (dsCount t.bytes), s.pending⟩) ∧
    (t.begun = true → (s.m.io (2 * t.no)).waits = 0 → (s.m.io (2 * t.no)).fail = true → exec (.planLoad pl) s =
      .next ⟨s.m.endTicket t 0 stAborted 0, s.pending⟩) ∧
    (t.begun = true → (s.m.io (2 * t.no)).waits = 0 → (s.m.io (2 * t.no)).fail = false →
      (∀ d, checkPlan s.m (s.m.io (2 * t.no)).buf = .inl d → exec (.planLoad pl) s =
        .next ⟨s.m.endTicket t (im (s.m.io (2 * t.no)).buf 8 4) (detailStatus d) d, s.pending⟩) ∧
      (∀ p, checkPlan s.m (s.m.io (2 * t.no)).buf = .inr p → s.m.placesOk p.tensors pl = true →
        ∃ (m1 : Mach) (ts : List Tensor), m1 = (p.tensors.zip pl).foldl (fun m x => m.placeTensor x.1 x.2) s.m ∧
          ts = (p.tensors.zip pl).map (fun x =>
            { x.1 with slot := x.2.slot, ptBase := x.2.ptBase, pages := x.2.pages.map (fun q => ⟨q.tier, q.loc⟩), used := s.m.usec }) ∧ exec (.planLoad pl) s =
          .next ⟨({ m1 with alm := { m1.alm with plans := m1.alm.plans ++ [{ p with tensors := ts }] } } : Mach).endTicket t p.id stOk 0, s.pending⟩))) ∧
  (∀ (t : Ticket), s.m.ticketOf 3 = some t → s.m.procUp 1 = true →
    (s.m.alm.plans.find? (fun p => p.id == dsPlan t.bytes) = none →
      exec .planUnload s = .next ⟨s.m.endTicket t (dsPlan t.bytes) stAborted 0x81, s.pending⟩) ∧
    (∀ p, s.m.alm.plans.find? (fun p => p.id == dsPlan t.bytes) = some p → (∀ j ∈ s.m.alm.jobs, j.plan ≠ p.id) →
      exec .planUnload s = .next ⟨(s.m.freePlan p).endTicket t p.id stOk 0, s.pending⟩)) ∧
  (∀ (t : Ticket) (x : Tensor), s.m.ticketOf 5 = some t → s.m.tensorNamed t.bytes = .inr x →
    (t.begun = false → exec .tensorWrite s =
      .next ⟨(s.m.begin_ t).askRead 2 (2 * t.no) (dsWin t.bytes) (dsOff t.bytes) x.bytes, s.pending⟩) ∧
    (∀ m1, t.begun = true → (s.m.io (2 * t.no)).waits = 0 → (s.m.io (2 * t.no)).fail = false →
      s.m.writeTensor idAlmanac x (s.m.io (2 * t.no)).buf (pieces x.bytes) = some (true, m1) →
      exec .tensorWrite s = .next ⟨(m1.setLost x false).endTicket t (dsPlan t.bytes) stOk 0, s.pending⟩)) ∧
  (∀ (t : Ticket) (d : Nat), s.m.ticketOf 5 = some t → s.m.tensorNamed t.bytes = .inl d →
    exec .tensorWrite s = .next ⟨s.m.endTicket t (dsPlan t.bytes) stAborted d, s.pending⟩) ∧
  (∀ (t : Ticket) (x : Tensor), s.m.ticketOf 6 = some t → s.m.tensorNamed t.bytes = .inr x →
    (t.begun = false → slotLost (s.m.slotEntry 0 x.slot) = true →
      exec .tensorRead s = .next ⟨s.m.endTicket t (dsPlan t.bytes) stDataLost 0, s.pending⟩) ∧
    (∀ d m1, t.begun = false → slotLost (s.m.slotEntry 0 x.slot) = false → s.m.readTensor idAlmanac x (pieces x.bytes) = some (d, 0, m1) →
      exec .tensorRead s = .next ⟨(m1.begin_ t).askWrite 2 (2 * t.no) (dsWin t.bytes) (dsOff t.bytes) d, s.pending⟩) ∧
    (t.begun = true → (s.m.io (2 * t.no)).waits = 0 → exec .tensorRead s =
      .next ⟨s.m.endTicket t (dsPlan t.bytes) (if (s.m.io (2 * t.no)).fail then stAborted else stOk) 0, s.pending⟩))

/-- 05 R112 to R116 and R119 to R123, 07 R161 to R163, 15 R368 and R370: work of a job. A ready operation is placed as shares on the clusters that
Almanac prefers; the first share in its cluster's order is dispatched, as the whole expansion of its operation's templates; a share whose report asks
for it is recomputed on its cluster, then once on another, then lost; an operation completes with its shares; the steward takes a trap record from a
latch and clears it; the record is written to the job's window and the trapped job ends. -/
def Obligations.OperationsSharesAndTraps : Prop :=
  ∀ (s : State) (m : Mach) (job : Nat) (j : Job), m = s.m.settleSets →
  (∀ (p : Plan) (ev : Event) (op : Nat) (r : OpRec) (picks : List SharePick) (cs : List Nat), s.m.alive .keeper = true → m.jobOf job = some j →
    m.planOf j.plan = some p → j.run = some ev → p.ops[op]? = some r →
    m.almUp = true → ev.phase = 1 → j.traps = [] → opReady p ev op = true → r.kind ≠ 4 → picksCover r picks = true →
    (∀ x ∈ m.alm.shares, ¬ (x.job = job ∧ x.op = op)) → m.opMoves p r = false → cs = distinct (picks.map (fun s => s.cluster.val)) →
    cs.length ≤ p.maxpar → m.picksPreferred j p r cs = true →
    (∀ x ∈ picks, m.mayPlace j x.cluster.val = true ∧ x.tag < 8192 ∧ m.tagUsed (x.cluster.val / 10) x.tag = false) → tagClash picks = false →
    ∃ sh : List Share, sh.map (fun x => (x.id, x.job, x.op, x.split, x.cluster, x.tag)) =
        (picks.zip (upFrom m.alm.nextShare picks.length)).map (fun x => (x.2, job, op, x.1.split, x.1.cluster.val, x.1.tag)) ∧
      (∀ x ∈ sh, x.work = [] ∧ x.todo = [] ∧ x.sent = [] ∧ x.before = [] ∧ x.expanded = false ∧ x.waits = 0 ∧ x.failed = false ∧ x.ended = false ∧
        x.runs = 0) ∧
      exec (.opPlace job op picks) s = .next ⟨{ m with alm := { m.alm with shares := m.alm.shares ++ sh,
                                                                           nextShare := m.alm.nextShare + picks.length,
                                                                           plans := usedNow j.plan m.usec (fun t => r.names t.handle) m.alm.plans } },
        s.pending⟩) ∧
  (∀ (p : Plan) (ev : Event) (op : Nat) (r : OpRec), s.m.alive .keeper = true → s.m.jobOf job = some j →
    s.m.planOf j.plan = some p → j.run = some ev → p.ops[op]? = some r →
    (∀ (fl : BitVec 12) (lost : Bool) (ev1 : Event) (m1 m2 : Mach), ev.phase = 1 → j.traps = [] → opReady p ev op = true →
      (r.kind ≠ 4 → (s.m.alm.shares.filter (fun x => x.job == job && x.op == op)) ≠ [] ∧
        (∀ x ∈ s.m.alm.shares, x.job = job → x.op = op → x.ended = true ∧ s.m.latchOpen x = false)) →
      ev1 = { ev with done := ev.done ++ [op], flags := ev.flags ||| (fl.toNat / 64 % 64 * 64), statuses := if lost || s.m.readsLost p r then
        ev.statuses ++ [stDataLost] else ev.statuses } →
      m1 = s.m.setJob { j with run := some ev1 } →
      m2 = { m1 with alm := { m1.alm with shares := m1.alm.shares.filter (fun x => !(x.job == job && x.op == op)) } } →
      exec (.opComplete job op fl lost) s = .next ⟨(if s.m.alm.jobs.any (fun x => x.plan == j.plan && x.id != j.id && x.run.isSome) then m2
        else (p.lastNamed ev1 op).foldl (fun m t => m.releaseTensor t) m2).settleSets, s.pending⟩) ∧
    (∀ (sh : Share) (w : ClusterNo) (m1 : Mach) (f : Nat × Mach) (j1 : Job) (again : Share), s.m.alm.shares.find? (fun x => x.id == sh.id) = some sh →
      sh.job = job → sh.op = op → sh.failed = true → sh.expanded = true → sh.todo = [] → sh.waits = 0 → sh.ended = false → j.traps = [] →
      ev.phase = 1 → s.m.procUp (4 + sh.cluster / 10) = true → m1 = s.m.reportTiles (sh.poisonNow.filter (fun t => sh.poisonBefore.contains t)) →
      f = m1.refetchOp sh p r → j1 = j.onRun (fun e => { e with flags := e.flags ||| flRecomputed ||| (if f.1 = 1 then flReread else 0) }) →
      again = ⟨sh.id, sh.job, sh.op, sh.split, sh.cluster, sh.before, sh.tag, sh.work, sh.work, sh.expanded, [], sh.waits, false, sh.runs + 1, [],
        sh.poisonBefore ++ sh.poisonNow, sh.ended⟩ →
      (2 ≤ sh.runs → exec (.shareRecompute sh.id w) s = .next ⟨(m1.setShare { sh with ended := true }).loseEvent j, s.pending⟩) ∧
      (sh.runs < 2 → 2 ≤ f.1 → exec (.shareRecompute sh.id w) s = .next ⟨(f.2.setShare { sh with ended := true }).loseEvent j, s.pending⟩) ∧
      (sh.runs = 0 → f.1 < 2 → exec (.shareRecompute sh.id w) s = .next ⟨(f.2.setJob j1).setShare again, s.pending⟩) ∧
      (sh.runs = 1 → f.1 < 2 → s.m.almUp = true → s.m.mayPlace j w.val = true → (w.val / 10 = sh.cluster / 10 ∨ s.m.tagUsed (w.val / 10) sh.tag = false) →
        exec (.shareRecompute sh.id w) s = .next ⟨(f.2.setJob j1).setShare
          { again with cluster := w.val, before := sh.before ++ [sh.cluster], todo := [], expanded := false }, s.pending⟩)) ∧
    (∀ (rec : TrapRec), chosenTrap j.traps = some rec → s.m.trapSettled j = true →
      (j.trapWin ≠ 0xFF → ev.trapWritten = false → exec (.trapRecordWrite job) s = .next ⟨((s.m.setJob (j.onRun (fun e =>
          { e with trapWritten := true }))).setIo (jobKey job) Io.none).askWrite 2 (jobKey job) j.trapWin j.trapOff (trapBytes j rec), s.pending⟩) ∧
      ((j.trapWin = 0xFF ∨ ev.trapWritten = true ∧ (s.m.io (jobKey job)).waits = 0) → exec (.trapJobEnd job) s =
        .next ⟨s.m.finishEvent { j with stop := false } { ev with statuses := ev.statuses ++ [trapStatus rec.cause] }
          (b2n (ev.trapWritten && !(s.m.io (jobKey job)).fail)) true, s.pending⟩))) ∧
  (∀ (sh : Share) (work : List WorkPick) (items : List WorkItem) (r : OpRec) (p : Plan), s.m.alive .uncore = true →
    m.alm.shares.find? (fun x => x.id == sh.id) = some sh → m.dispatchable sh = true → m.procUp (4 + sh.cluster / 10) = true →
    (∀ x ∈ m.alm.shares, x.cluster = sh.cluster → m.dispatchable x = true → m.shareRank sh ≤ m.shareRank x) →
    (sh.expanded = true → exec (.shareDispatch sh.id work) s = .next ⟨m.dispatchItems sh sh.todo, s.pending⟩) ∧
    (sh.expanded = false → m.jobOf sh.job = some j → m.planOf j.plan = some p → p.ops[sh.op]? = some r → items = work.map (itemOf r sh.tag) →
      expansionOk r sh items = true → exec (.shareDispatch sh.id work) s =
      .next ⟨m.dispatchItems { sh with work := items, expanded := true } items, s.pending⟩)) ∧
  (∀ (d : DieNo) (u : TrapUnit) (c tag : Nat), s.m.alive .uncore = true → s.m.latchTag u = (tag, c) → c / 10 = d.val → s.m.procUp (4 + d.val) = true →
    s.m.tagRuns u tag = false → s.m.isRaw c = false → (s.m.latched u 0).isSome = true →
    (∀ (sh : Share) (r : TrapRec), s.m.alm.shares.find? (fun x => (x.cluster == c || x.before.contains c) && x.tag == tag) = some sh →
      s.m.jobOf sh.job = some j → s.m.latched u sh.op = some r →
      exec (.stewardTrapTake d u) s = .next ⟨(opTrapLatchClear u s.m).setJob { j with traps := j.traps ++ [r] }, s.pending⟩) ∧
    ((∀ x ∈ s.m.alm.shares, (x.cluster = c ∨ c ∈ x.before) → x.tag ≠ tag) →
      exec (.stewardTrapTake d u) s = .next ⟨opTrapLatchClear u s.m, s.pending⟩))

/-- 07 R164 to R168, 15 R366 to R368, 05 R112: a job and its events. A JOB reads its binding list and is admitted with the clusters its test found or
refused and counted; JOB_STOP ends a job between events at once; an event starts by asking for its inputs and runs when they are in their tensors;
a frame waits its turn or is dropped, with a record of its own; an event whose operations are done asks for its outputs, and ends when they are
acknowledged; a re-evaluation sets each guarantee by the two passes of R166, a changed set on each cluster once no operation runs there; BROKEN says whether the
guarantee of a STREAM or GEN job is not held. -/
def Obligations.JobsAndEvents : Prop :=
  ∀ (s : State), s.m.alive .keeper = true →
  (∀ (pref : List ClusterNo) (t : Ticket) (p : Plan), s.m.ticketOf 1 = some t → s.m.almUp = true → s.m.planOf (dsPlan t.bytes) = some p →
    (256 < dsCount t.bytes → exec (.job pref) s = .next ⟨s.m.endTicket t 0 stAborted 0x82, s.pending⟩) ∧
    (dsCount t.bytes ≤ 256 → t.begun = false → exec (.job pref) s =
      .next ⟨(s.m.begin_ t).askRead 2 (2 * t.no) (dsWin t.bytes) (dsOff t.bytes) (16 * dsCount t.bytes), s.pending⟩) ∧
    (∀ (bs : List Binding) (j : Job) (m1 : Mach), dsCount t.bytes ≤ 256 → t.begun = true → (s.m.io (2 * t.no)).waits = 0 →
      (s.m.io (2 * t.no)).fail = false → bindingsOf (dsCount t.bytes) (s.m.io (2 * t.no)).buf = bs →
      bindingsStray (dsCount t.bytes) (s.m.io (2 * t.no)).buf = false → (∀ b ∈ bs, s.m.bindingBad p b = false) →
      j = jobFrom t (s.m.alm.nextJob + 1) s.m.usec bs → m1 = { s.m with alm := { s.m.alm with nextJob := s.m.alm.nextJob + 1 } } →
      (m1.takeJob (pref.map (fun c => c.val)) j p = none →
        exec (.job pref) s = .next ⟨(m1.cnt F.almRefusals 6 1).endTicket t (s.m.alm.nextJob + 1) stRefused 0, s.pending⟩) ∧
      (∀ set, m1.takeJob (pref.map (fun c => c.val)) j p = some set →
        ∃ n, exec (.job pref) s = .next n ∧ n.m.alm.jobs = s.m.alm.jobs ++ [{ j with set := set, nextSet := set }] ∧ n.m.mem = s.m.mem ∧ n.m.fields = s.m.fields))) ∧
  (∀ (t : Ticket) (j : Job), s.m.ticketOf 4 = some t → s.m.procUp 1 = true → s.m.jobOf (dsArg t.bytes) = some j →
    (j.run = none → exec .jobStop s = .next ⟨(s.m.endTicket t j.id stOk 0).endJob j true 0, s.pending⟩) ∧
    (j.run.isSome = true → exec .jobStop s = .next ⟨(s.m.endTicket t j.id stOk 0).setJob { j with stop := true }, s.pending⟩)) ∧
  (∀ (job : Nat) (j : Job) (p : Plan), s.m.jobOf job = some j → s.m.planOf j.plan = some p → s.m.procUp 1 = true →
    (j.run = none → (j.stop = true ∨ j.grace = some 0 ∨ (s.m.absent = true ∧ ∃ b ∈ j.bindings, b.dir = 0)) →
      exec (.jobEventStart job) s = .next ⟨s.m.endJob j true 0, s.pending⟩) ∧
    (j.run = none → j.stop = false → (s.m.absent = true → ∀ b ∈ j.bindings, b.dir ≠ 0) → j.grace ≠ some 0 → (j.cls = 0 → j.frames ≠ 0 ∧ s.m.planMoves p = false) →
      (j.nextEv = 0 → s.m.firstWaits p = false) →
      exec (.jobEventStart job) s = .next ⟨(s.m.setJob { j with run := some (newEvent j.nextEv), nextEv := j.nextEv + 1, frames := j.frames - 1 }).askInputs
        j j.nextEv, s.pending⟩) ∧
    (∀ ev m1, j.run = some ev → ev.phase = 0 → (s.m.io (jobKey job)).waits = 0 → (s.m.io (jobKey job)).fail = false →
      s.m.putInputs j p (s.m.io (jobKey job)).buf (j.bindings.filter (fun b => b.dir == 0)) = some m1 →
      exec (.jobEventStart job) s = .next ⟨(m1.setIo (jobKey job) Io.none).setJob { j with run := some { ev with phase := 1 } }, s.pending⟩) ∧
    (∀ ev, j.run = some ev → ev.phase = 0 → (s.m.io (jobKey job)).waits = 0 → (s.m.io (jobKey job)).fail = true →
      exec (.jobEventStart job) s = .next ⟨s.m.endJob j true 0, s.pending⟩) ∧
    (∀ ok, j.cls = 0 → j.grace = some 0 → exec (.streamFrameEvent job ok) s =
      .next (if j.run = none then ⟨s.m.endJob j true 0, s.pending⟩ else s)) ∧
    (∀ ok (j1 : Job), j.cls = 0 → j.grace ≠ some 0 → j1 = { j with grace := j.grace.map (fun k => k - 1) } →
      (ok = true → j.set ≠ [] → (j.held = true ∨ j.run = none ∧ j.frames = 0) →
        exec (.streamFrameEvent job ok) s = .next ⟨s.m.setJob { j1 with frames := j.frames + 1 }, s.pending⟩) ∧
      ((ok = false ∨ j.set = [] ∨ (j.held = false ∧ (j.run.isSome = true ∨ 0 < j.frames))) →
        exec (.streamFrameEvent job ok) s = .next ⟨s.m.dropFrame j1, s.pending⟩)) ∧
    (∀ ev, j.run = some ev → j.traps = [] → ev.phase = 1 → (∀ o ∈ p.eventOps ev.no, o ∈ ev.done) →
      (∀ ev1 m1, s.m.askOutputs j p { ev with phase := 2 } (j.bindings.filter (fun b => b.dir == 1)) = some (ev1, m1) →
        exec (.jobEventEnd job) s = .next ⟨m1.setJob { j with run := some ev1 }, s.pending⟩)) ∧
    (∀ ev, j.run = some ev → j.traps = [] → ev.phase = 2 → (s.m.io (jobKey job)).waits = 0 → exec (.jobEventEnd job) s =
      .next ⟨s.m.finishEvent j { ev with undelivered := (s.m.io (jobKey job)).fail } (if (s.m.io (jobKey job)).fail then 2 else 0) false, s.pending⟩) ∧
    (∀ ev, j.run = some ev → j.traps = [] → ev.phase = 4 → s.m.jobBusy job = false →
      exec (.jobEventEnd job) s = .next ⟨s.m.finishEvent j ev 0 true, s.pending⟩)) ∧
  (∀ (pref : List ClusterNo) (vs : List Verdict) (js : List Job), s.m.procUp 1 = true → vs = s.m.verdicts none (pref.map (fun c => c.val)) →
    js = s.m.alm.jobs.map (fun j => match vs.find? (fun v => v.id == j.id) with
      | some v => { j with held := v.held, nextSet := v.set }
      | none => j) →
    exec (.capacityReevaluation pref) s =
      .next ⟨(({ s.m with alm := { s.m.alm with jobs := js } } : Mach).settleSets).cnt F.almEvals 6 1, s.pending⟩ ∧
    (∀ (m : Mach) (k : Nat) (j : Job), m.alm.jobs[k]? = some j → ∃ l, m.settleSets.alm.jobs[k]? = some { j with set := l } ∧
      (∀ c, c < 60 → (∀ x ∈ m.alm.shares, x.cluster = c → x.ended = true) → j.set ≠ j.nextSet → (c ∈ l ↔ c ∈ j.nextSet)) ∧
      (∀ c, c < 60 → (∃ x ∈ m.alm.shares, x.cluster = c ∧ x.ended = false) → j.set ≠ j.nextSet → (c ∈ l ↔ c ∈ j.set)) ∧
      (j.set = j.nextSet → l = j.set))) ∧
  (s.m.broken = true ↔ ∃ j ∈ s.m.alm.jobs, j.cls ≠ 2 ∧ j.held = false)

/-- 07 R170 to R172: reservations. A request sets its bit and is tested while ALMANAC runs; it is granted once nothing of ALMANAC's is left in the
cluster: its banks go to group 0xF and the cluster is reserved; the release clears the request and, in a reserved cluster, flushes its units; once
all are stopped the banks and the cluster come back. While ALMANAC is stopped a change of a request waits; RUN restarts it. -/
def Obligations.ReservationCommands : Prop :=
  (∀ (c : ClusterNo) (s : State), s.m.alive .keeper = true →
    (∀ who, s.m.requested c.val = true → exec (.reserveRequest c who) s = .next ⟨s.m.respond who rsOk, s.pending⟩) ∧
    (∀ who, s.m.requested c.val = false → s.m.almUp = false →
      exec (.reserveRequest c who) s = .next ⟨(s.m.respond who rsOk).setRequest c.val true, s.pending⟩) ∧
    (∀ who, s.m.requested c.val = false → s.m.almUp = true → s.m.isRaw c.val = false →
      exec (.reserveRequest c who) s = .next ⟨((s.m.respond who rsOk).setRequest c.val true).testRequest c.val, s.pending⟩) ∧
    (s.m.almUp = true → s.m.requested c.val = true → s.m.isRaw c.val = false → (∀ x ∈ s.m.alm.shares, x.cluster = c.val → x.ended = true) →
      s.m.slabsIn c.val = false → s.m.seUsesCluster c.val = false →
      exec (.reserveGrant c) s = .next ⟨((s.m.handBanks c.val 0xF).setReserved c.val true).reevaluate [], s.pending⟩) ∧
    (∀ who, (s.m.isRaw c.val = false ∨ s.m.almUp = false ∨ s.m.requested c.val = false) →
      exec (.reserveRelease c who) s = .next ⟨(s.m.setRequest c.val false).respond who rsOk, s.pending⟩) ∧
    (∀ who, s.m.requested c.val = true → s.m.isRaw c.val = true → s.m.almUp = true →
      exec (.reserveRelease c who) s = .next ⟨((s.m.setRequest c.val false).respond who rsOk).flushCluster c.val, s.pending⟩) ∧
    (∀ g : Fin 8, s.m.requested c.val = false → s.m.isRaw c.val = true → s.m.almUp = true → (∀ t ∈ upFrom (16 * c.val) 16, s.m.tileStopped t = true) →
      s.m.on F.veCtrlRun (clIx c.val) = false → (s.m.ve c.val).idle = true →
      exec (.reserveReturn c g) s = .next ⟨((s.m.handBanks c.val g.val).setReserved c.val false).reevaluate [], s.pending⟩)) ∧
  (∀ (who : Nat) (s : State), s.m.alive .keeper = true →
    exec (.almCtrlRun who false) s = .next ⟨(s.m.wr F.almCtrlRun 6 0).respond who rsOk, s.pending⟩ ∧
    (s.m.on F.almCtrlRun 6 = true → exec (.almCtrlRun who true) s = .next ⟨(s.m.wr F.almCtrlRun 6 1).respond who rsOk, s.pending⟩) ∧
    (∀ m1 : Mach, s.m.on F.almCtrlRun 6 = false → s.m.procUp 1 = true → m1 = (s.m.wr F.almCtrlRun 6 1).respond who rsOk →
      exec (.almCtrlRun who true) s = .next ⟨m1.catchUp, s.pending⟩) ∧
    (s.m.on F.almCtrlRun 6 = false → s.m.procUp 1 = false →
      exec (.almCtrlRun who true) s = .next ⟨(s.m.wr F.almCtrlRun 6 1).respond who rsOk, s.pending⟩)) ∧
  (∀ m : Mach, (∀ c, c < 60 → m.requested c = m.isRaw c) → m.catchUp = m.reevaluate [])

/-- 08 R175 to R184, R192, R193, 10 R233: transfers of a stream engine. Arming takes a snapshot: the descriptor queues, replaces its waiting arming, or
pends while it runs, and a COUNT of 0 is answered with an ERROR message; a steward's arming for a share first writes the class of its job; the head
of the run queue starts; entries are fetched two at a time and issue up to 256 bytes, a unit being written as it is read; an entry whose bytes are all
written completes; a cause that is met is recorded once and fails the transfer; the transfer ends with its message. -/
def Obligations.StreamEngineTransfers : Prop :=
  ∀ (d : DieNo) (e : Fin 16) (s : State) (x : StreamEng) (q : Nat), s.m.alive (.noc d.val) = true → s.m.se d.val e.val = x → q = seIx d.val e.val →
  (∀ (n : Fin 8) (who : Nat) (job : Option Nat),
    ((if who = idSteward d.val then job else none).bind s.m.jobOf = none →
      exec (.seArm d e n ⟨who, job⟩) s = .next ⟨(s.m.enter d.val e.val n.val (s.m.snapshot d.val e.val n.val)).respond who rsOk, s.pending⟩) ∧
    (∀ (j : Job) (m1 : Mach), who = idSteward d.val → job.bind s.m.jobOf = some j → j.traps = [] →
      m1 = (if j.cls ≤ 1 then s.m.wr F.niClassClass (ix d.val (10 + e.val) 0 0) (j.cls + 1) else s.m) →
      exec (.seArm d e n ⟨who, job⟩) s =
        .next ⟨(m1.enter d.val e.val n.val { s.m.snapshot d.val e.val n.val with job := some j.id }).respond who rsOk, s.pending⟩)) ∧
  (∀ (n : Fin 8) (a : Arming) (p : Nat), p = seDesc d.val e.val n.val →
    (a.count = 0 → s.m.enter d.val e.val n.val a = s.m.mail (idSe d.val e.val) a.notify
      (seWords d.val e.val a 2 1 2 0 0 (s.m.rd F.seDescDone p) noEntry 0xFF 0 0)) ∧
    (a.count ≠ 0 → s.m.rd F.seDescStateState p = 0 →
      s.m.enter d.val e.val n.val a = (s.m.setSe d.val e.val { x with queue := x.queue ++ [a] }).wr F.seDescStateState p 1) ∧
    (a.count ≠ 0 → s.m.rd F.seDescStateState p = 1 →
      s.m.enter d.val e.val n.val a = (s.m.setSe d.val e.val { x with queue := replaceArm a x.queue }).ev F.seEventsRearmOverrun q) ∧
    (a.count ≠ 0 → s.m.rd F.seDescStateState p = 2 → s.m.on F.seDescStatePending p = false →
      s.m.enter d.val e.val n.val a = (s.m.setSe d.val e.val { x with pending := x.pending ++ [a] }).wr F.seDescStatePending p 1) ∧
    (a.count ≠ 0 → s.m.rd F.seDescStateState p = 2 → s.m.on F.seDescStatePending p = true →
      s.m.enter d.val e.val n.val a = (s.m.setSe d.val e.val { x with pending := replaceArm a x.pending }).ev F.seEventsRearmOverrun q)) ∧
  (∀ a l, x.run = none → x.queue = a :: l → s.m.on F.seCtrlRun q = true → exec (.transferStart d e) s =
    .next ⟨((s.m.setSe d.val e.val { x with run := some ⟨a, 0, [], 0, a.enable, 0, [], none, false, false, [], []⟩, queue := l }).wr F.seDescStateState
      (seDesc d.val e.val a.desc) 2).wr F.seDescDone (seDesc d.val e.val a.desc) 0, s.pending⟩) ∧
  (∀ (t : Transfer), x.run = some t →
    (t.met = none → t.failed = false → t.flushed = false → t.fetched < t.arm.count → t.openEntries.length < 256 →
      (∀ r, s.m.unitSay (idSe d.val e.val) (t.arm.list + 64 * (t.fetched / 2)) = .ok →
        s.m.readUnit (idSe d.val e.val) (t.arm.list + 64 * (t.fetched / 2)) = r → exec (.listFetch d e) s = .next ⟨if r.2.1 < 2 then
          r.2.2.fetchLine d.val e.val r.1 2 else r.2.2.setSe d.val e.val { x with run := some (t.meet 6 t.fetched) }, s.pending⟩) ∧
      (s.m.unitSay (idSe d.val e.val) (t.arm.list + 64 * (t.fetched / 2)) = .refuse → exec (.listFetch d e) s =
        .next ⟨(s.m.unitRefuse (idSe d.val e.val) (t.arm.list + 64 * (t.fetched / 2))).setSe d.val e.val { x with run := some (t.meet 6 t.fetched) }, s.pending⟩)) ∧
    (∀ (reread lent : Bool) (y : SeEntry) (m0 : Mach) (r : Transfer × Mach) (r1 : Transfer), s.m.wheelPick d.val e.val t = some (y, lent) →
      m0 = (if lent then s.m.wrap F.seLent q 1 else s.m) → m0.issueUnits d.val e.val { t with flags := 0 } y 4 = r →
      r1 = r.1.mark (reread && r.1.entries.any (fun z => z.idx == y.idx && decide (y.issued < z.issued))) →
      exec (.entryIssue d e reread) s = .next ⟨(r.2.setSe d.val e.val { x with run := some { r1 with flags := t.flags ||| r1.flags } }).seEvents
        d.val e.val t r1 r1.flags, s.pending⟩) ∧
    (∀ (i : Nat) (y : SeEntry) (t1 : Transfer) (r : Mach × List SeEntry), t.entries.find? (fun y => y.idx == i) = some y → t.entryDone y = true →
      t1 = t.putEntry { y with complete := true, data := [] } → s.m.advance d.val e.val t1 t1.entries = r →
      exec (.entryComplete d e i) s = .next ⟨r.1.setSe d.val e.val { x with run := some { t1 with entries := r.2 } }, s.pending⟩) ∧
    (∀ c i, t.met = some (c, i) → t.failed = false → exec (.transferError d e) s =
      .next ⟨((((s.m.setSe d.val e.val { x with run := some { t with failed := true } }).wr F.seErrCause q c).wr F.seErrDesc q t.arm.desc).wr
        F.seErrEntry q i).ev F.seEventsError q, s.pending⟩) ∧
    (∀ (whole : Bool) (status cause : Nat) (m1 : Mach), t.notices = [] →
      (whole = true ↔ s.m.rd F.seDescDone (seDesc d.val e.val t.arm.desc) = t.arm.count ∧ t.failed = false ∧ t.met = none) →
      (t.failed = true ∨ t.flushed = true → t.underWay = false) → (t.failed = false → t.flushed = false → whole = true) →
      status = (if t.failed then 1 else if t.flushed then 2 else 0) → cause = (if t.failed then (t.met.map (fun c => c.1)).getD 0 else 0) →
      m1 = (s.m.seSend d.val e.val t 2 status cause 0xFF 0 0).jobTransfer t whole →
      (x.pending.find? (fun a => a.desc == t.arm.desc) = none → exec (.transferComplete d e) s =
        .next ⟨(m1.setSe d.val e.val { x with run := none }).wr F.seDescStateState (seDesc d.val e.val t.arm.desc)
          (if x.queue.any (fun a => a.desc == t.arm.desc) then 1 else 0), s.pending⟩) ∧
      (∀ a l, x.pending.find? (fun a => a.desc == t.arm.desc) = some a → l = x.pending.filter (fun b => b.desc != a.desc) →
        exec (.transferComplete d e) s = .next ⟨((m1.setSe d.val e.val ⟨none, x.queue ++ [a], l, x.slots⟩).wr F.seDescStatePending
          (seDesc d.val e.val t.arm.desc) 0).wr F.seDescStateState (seDesc d.val e.val t.arm.desc) 1, s.pending⟩)))



/-- 08 R185 to R191, R194, R195: multicast, the wheel and control of a stream engine. A receiver delivers its next whole block, and the lag test may
detach receivers; a detachment is notified with the receiver's count; the steward finishes what a cluster of a job is owed as a unicast transfer; the
wheel steps while the engine runs; a slot in use holds a write; RUN restarts the wheel; FLUSH empties the queues and frees the descriptors. -/
def Obligations.StreamEngineMulticastAndControl : Prop :=
  ∀ (d : DieNo) (e : Fin 16) (s : State) (x : StreamEng) (q : Nat), s.m.alive (.noc d.val) = true → s.m.se d.val e.val = x → q = seIx d.val e.val →
  (∀ (r : Fin 16) (t : Transfer) (y : SeEntry) (l : Bool × Transfer), x.run = some t → bitOf r.val t.attached = true → t.nextBlock r.val = some y →
    (({ t with delivered := SMap.put 0 r.val (t.count r.val + 1) t.delivered } : Transfer).putEntry { y with delivered := setBit r.val y.delivered }).lagTest
      = l → exec (.multicastDeliver d e r) s =
      .next ⟨(s.m.setSe d.val e.val { x with run := some l.2 }).seEvents d.val e.val t l.2 (if l.1 then flMcLag else 0), s.pending⟩) ∧
  (∀ t : Transfer, (t.lagTest.1 = true ↔ ∃ i ∈ t.receivers, t.arm.lagMax < 2 * (t.maxCount - t.count i)) ∧
    (∀ i, bitOf i t.lagTest.2.attached = true ↔ bitOf i t.attached = true ∧ (i < 16 → t.maxCount - t.count i ≤ t.arm.lagMax))) ∧
  (∀ (r : Fin 16) (c : Nat) (t t1 : Transfer), x.run = some t → t.notices.find? (fun n => n == (r.val, c)) = some (r.val, c) →
    t1 = { t.settle r.val with notices := (t.settle r.val).notices.filter (fun n => n.1 != r.val) } → exec (.detachNotice d e r c) s =
      .next ⟨(s.m.seSend d.val e.val t1 3 0 c r.val (t1.count r.val) 0).setSe d.val e.val { x with run := some t1 }, s.pending⟩) ∧
  (∀ (job : Nat) (k : ClusterNo) (n : Fin 8) (l c nt tag : Nat) (j : Job) (m1 : Mach), s.m.jobOf job = some j → s.m.procUp (4 + d.val) = true →
    j.traps = [] → (⟨job, k.val⟩ : Owed) ∈ s.m.alm.owed →
    m1 = ((((s.m.wr F.seDescListLo (seDesc d.val e.val n.val) (l % 2 ^ 32 / 64)).wr F.seDescListHi (seDesc d.val e.val n.val) (l / 2 ^ 32)).wr
      F.seDescCount (seDesc d.val e.val n.val) c).wr F.seDescNotify (seDesc d.val e.val n.val) nt).wr F.seDescTag (seDesc d.val e.val n.val) tag →
    exec (.multicastCompletionUnicast ⟨job, k⟩ d e n l c nt tag) s = .next ⟨m1.armFor d.val e.val n.val j (some k.val), s.pending⟩) ∧
  (s.m.seStopped d.val e.val = false → exec (.wheelAdvance d e) s =
    .next ⟨s.m.wr F.seWheelPosSlot q (s.m.rd F.seWheelPosSlot q + 1), s.pending⟩) ∧
  (∀ (i : Fin 64) (who : Nat) (w : Word),
    (s.m.seStopped d.val e.val = false → s.m.rd F.seWheelPosSlot q = i.val → exec (.seSlotWrite d e i who w) s =
      .next ⟨s.m.setSe d.val e.val { x with slots := x.slots ++ [(i.val, who, w.toNat)] }, s.pending⟩) ∧
    ((s.m.seStopped d.val e.val = true ∨ s.m.rd F.seWheelPosSlot q ≠ i.val) → exec (.seSlotWrite d e i who w) s =
      .next ⟨(if w.toNat % 4 = 3 then s.m else s.m.wr F.seSlotKind (seDesc d.val e.val i.val) (w.toNat % 4)).respond who rsOk, s.pending⟩)) ∧
  (∀ h, x.slots.find? (fun h => s.m.seStopped d.val e.val || s.m.rd F.seWheelPosSlot q != h.1) = some h →
    exec (.seSlotHeldRelease d e) s =
      .next ⟨((s.m.setSe d.val e.val { x with slots := x.slots.erase h }).slotLand d.val e.val h.1 h.2.2).respond h.2.1 rsOk, s.pending⟩) ∧
  (∀ who, exec (.seCtrlRun d e who false) s = .next ⟨(s.m.wr F.seCtrlRun q 0).respond who rsOk, s.pending⟩) ∧
  (∀ who, exec (.seCtrlRun d e who true) s = .next ⟨((if s.m.seStopped d.val e.val then s.m.wr F.seWheelPosSlot q 0 else s.m).wr
    F.seCtrlRun q 1).respond who rsOk, s.pending⟩) ∧
  (∀ who, ∃ n, exec (.seFlush d e who) s = .next n ∧ (n.m.se d.val e.val).queue = [] ∧ (n.m.se d.val e.val).pending = [] ∧
    (∀ t, x.run = some t → ∃ t1, (n.m.se d.val e.val).run = some t1 ∧ t1.flushed = true ∧
      t1.entries = t.entries.filter (fun y => y.complete || decide (0 < y.issued))) ∧
    (∀ i : Fin 8, n.m.rd F.seDescStateState (seDesc d.val e.val i.val) = 0 ∧ n.m.rd F.seDescStatePending (seDesc d.val e.val i.val) = 0) ∧
    n.m.mem = s.m.mem ∧ n.pending = s.pending)

/-- 10 R225 to R231, R233 to R243: the network. A request's packets enter at the NI's local input with a transaction number, a route and the class's
urgency, wait while RUN is 0, and are answered NOROUTE without an entry, and DECODE or REFUSED where no port serves the address; an output forwards the
first head in serving order that has credit, and the others wait; an ingress looks DEST up anew, and a bridge discards what is meant for the keeper;
256 cycles raise URG by one up to 15; a response frees its transaction number, a late one is counted; a request that times out is answered so; a failed
bridge transfer is counted, and the eighth in a row takes the bridge down; NOC_CTRL and TRACE_RUN are written by those the network block admits; the
oldest trace record goes out. -/
def Obligations.NetworkCommands : Prop :=
  (∀ (who die port : Nat) (s : State), s.m.alive (whoDom who) = true → masterNi who = some (die, port) →
    (∀ mb ws, exec (.packetInject who (.mail mb ws)) s = .next ⟨s.m.mail who mb ws, s.pending⟩) ∧
    (∀ a, destOf s.m.fuses a = none → netBlockAt s.m.fuses a = none →
      exec (.packetInject who (.regRead a)) s = .next ⟨s.m.answer who 4096 rsDecode [] 0, s.pending⟩) ∧
    (∀ a d, destOf s.m.fuses a = none → netBlockAt s.m.fuses a = some d → netBlockWho d who = false →
      exec (.packetInject who (.regRead a)) s = .next ⟨s.m.answer who 4096 (if a % 4 = 0 then rsRefused else rsMalformed) [] 0, s.pending⟩) ∧
    (∀ (r : NetReq) (ps : List Packet), (∀ mb ws, r ≠ .mail mb ws) → s.m.packetsOf who die port r = ps →
      (∀ p ∈ ps, netOf p.type = 2 ∨ (destOf s.m.fuses p.addr).isSome = true) →
      exec (.packetInject who r) s = .next ⟨ps.foldl (fun m p => m.niSend die port p) s.m, s.pending⟩)) ∧
  (∀ (m : Mach) (die port net k : Nat) (p : Packet), netOf p.type = net → k = niqKey die port net → m.niq k = [] →
    ((m.setNiq k [p]).mayInject die port p = false → (m.niSend die port p).niq k = [p] ∧
      (m.niSend die port p).nq (localKey die port net) = m.nq (localKey die port net) ∧ (m.niSend die port p).outs (niKey die port) = m.outs (niKey die port)) ∧
    ((m.setNiq k [p]).mayInject die port p = true → die < 6 → m.routeOf die port p.dest = none →
      m.niSend die port p = ((m.setNiq k [p]).noRoute die p).setNiq k []) ∧
    (∀ r, (m.setNiq k [p]).mayInject die port p = true → die < 6 → m.routeOf die port p.dest = some r → p.type < 0x10 → p.urg = 0 → p.base = 0 →
      ∃ q t ts, m.freeTxns (niKey die port) 1 = t :: ts ∧
        q = { p with txn := t, base := m.baseOf die port p.dest, urg := min 15 (m.baseOf die port p.dest), here := 0, route := r, hop := 0 } ∧
        (m.niSend die port p).nq (localKey die port net) = m.nq (localKey die port net) ++ [q] ∧ (m.niSend die port p).niq k = [] ∧
        (m.niSend die port p).outs (niKey die port) = m.outs (niKey die port) ++ [⟨t, p.src, false⟩])) ∧
  (∀ a n, (∀ x ∈ pieces256 (n / 256 + 2) a n, 0 < x.2 ∧ x.1 % 256 + x.2 ≤ 256) ∧ ((pieces256 (n / 256 + 2) a n).map (fun x => x.2)).sum = n) ∧
  (∀ (die : AnyDie) (net : Fin 4) (n : Fin 24) (out : Fin 14) (w up : Nat) (s : State) (m0 m1 : Mach) (ins : List Nat) (l : List (Nat × Packet)),
    s.m.alive (dieDom die.val) = true → s.m.discard die.val net.val n.val (upFrom 0 14) = m0 →
    ins = (m0.heads die.val net.val n.val out.val).map (fun h => h.1) →
    m1 = ins.foldl (fun m i => m.passTime die.val net.val n.val i out.val (w - up) true) m0 →
    l = servingOrder die.val (SMap.get 0 (outSlot die.val net.val n.val out.val) m1.net.served) (m1.heads die.val net.val n.val out.val) →
    (m1.forwardFirst die.val net.val n.val out.val l = none → exec (.routerForward die net n out w up) s = .next ⟨m1, s.pending⟩) ∧
    (∀ (i : Nat) (m2 m3 m4 : Mach), m1.forwardFirst die.val net.val n.val out.val l = some (i, m2) →
      m3 = ins.foldl (fun m j => m.passTime die.val net.val n.val j out.val 1 (j != i)) m2 →
      (∀ p, feeder die.val n.val i = some p → m4 = m3.niFree die.val p) → (feeder die.val n.val i = none → m4 = m3) →
      exec (.routerForward die net n out w up) s = .next ⟨if die.val = 6 then (m4.sendRelease idHost).sendRelease idTest else m4, s.pending⟩)) ∧
  (∀ (m : Mach) (die net n out i : Nat) (p : Packet) (l : List (Nat × Packet)) (m1 : Mach),
    m1 = m.setNq (qKey die net n i) ((m.nq (qKey die net n i)).drop 1) →
    (m1.pass die net n out p = none → m.forwardFirst die net n out ((i, p) :: l) = m.forwardFirst die net n out l) ∧
    (∀ (m2 : Mach) (sv : SMap Nat), m1.pass die net n out p = some m2 → sv = SMap.put 0 (outSlot die net n out) (i + 1) m2.net.served →
      m.forwardFirst die net n out ((i, p) :: l) = some (i, ({ m2 with net := { m2.net with served := sv } } : Mach).lantern die net n (min out 5) p))) ∧
  (∀ (die last i : Nat) (p : Packet) (hs l : List (Nat × Packet)), die < 6 → (∀ h ∈ hs, h.2.urg ≤ 15) → servingOrder die last hs = (i, p) :: l →
    (i, p) ∈ hs ∧ ∀ h ∈ hs, h.2.urg ≤ p.urg) ∧
  (∀ (d : DieNo) (q : Fin 5) (net : Fin 4) (s : State) (p : Packet) (l : List Packet) (k : Nat), s.m.alive (.noc d.val) = true →
    s.m.ingr (inKey d.val q.val net.val) = p :: l → k = qKey d.val net.val (linkRouter q.val) 4 →
    (q.val < 4 → p.dest / 64 = 6 → exec (.ingressRelookup d q net) s = .next ⟨(s.m.setIngr (inKey d.val q.val net.val) l).misroute d.val p, s.pending⟩) ∧
    (∀ r, (q.val = 4 ∨ p.dest / 64 ≠ 6) → s.m.routeOf d.val (64 + q.val) p.dest = some r → exec (.ingressRelookup d q net) s =
      .next (if 8 ≤ (s.m.nq k).length then s else
        ⟨(s.m.setIngr (inKey d.val q.val net.val) l).setNq k (s.m.nq k ++ [{ p with route := r, hop := 0, wait := 0, here := 0 }]), s.pending⟩)) ∧
    ((q.val = 4 ∨ p.dest / 64 ≠ 6) → s.m.routeOf d.val (64 + q.val) p.dest = none → p.wantsRsp = false → exec (.ingressRelookup d q net) s =
      .next ⟨(s.m.setIngr (inKey d.val q.val net.val) l).ev F.nocEventsNoroute d.val, s.pending⟩)) ∧
  (∀ (d : DieNo) (net : Fin 4) (n : Fin 24) (i : Fin 13) (j k : Nat) (s : State) (p q : Packet), s.m.alive (.noc d.val) = true → p.wait ≤ 256 →
    q = { p with urg := min 15 (p.urg + 1), wait := 0, here := p.here + (256 - p.wait) } →
    (i.val < 9 → k = qKey d.val net.val n.val i.val → (s.m.nq k)[j]? = some p →
      (j ≠ 0 → exec (.urgencyRise d net n i j) s = .next ⟨s.m.setNq k (setNth (s.m.nq k) j q), s.pending⟩) ∧
      (∀ o, j = 0 → s.m.wants d.val n.val p = some o → exec (.urgencyRise d net n i j) s =
        .next ⟨(s.m.setNq k (setNth (s.m.nq k) j q)).lanternWait d.val net.val n.val (min o 5) p (256 - p.wait), s.pending⟩)) ∧
    (9 ≤ i.val → k = niqKey d.val (4 * n.val + (i.val - 9)) net.val → (s.m.niq k)[j]? = some p →
      (j ≠ 0 → exec (.urgencyRise d net n i j) s = .next ⟨s.m.setNiq k (setNth (s.m.niq k) j q), s.pending⟩) ∧
      (j = 0 → exec (.urgencyRise d net n i j) s =
        .next ⟨(s.m.setNiq k (setNth (s.m.niq k) j q)).lanternWait d.val net.val n.val 6 p (256 - p.wait), s.pending⟩))) ∧
  (∀ (die : AnyDie) (port : Fin 64) (s : State) (k : Nat), s.m.alive (dieDom die.val) = true → k = niKey die.val port.val →
    (∀ p l x, s.m.arrd k = p :: l → (s.m.outs k).find? (fun x => x.txn == p.txn) = some x →
      (x.late = false → exec (.responseArrive die port) s = .next ⟨(((s.m.setArrd k l).setOuts k ((s.m.outs k).erase x)).answer x.who x.txn p.status
        p.data p.marks).niFree die.val port.val, s.pending⟩) ∧
      (x.late = true → die.val < 6 → exec (.responseArrive die port) s = .next ⟨((((s.m.setArrd k l).setOuts k ((s.m.outs k).erase x)).cnt
        F.nocLateRsp die.val 1).ev F.nocEventsLateRsp die.val).niFree die.val port.val, s.pending⟩)) ∧
    (∀ p l, die.val < 6 → s.m.arrd k = p :: l → (∀ x ∈ s.m.outs k, x.txn ≠ p.txn) → exec (.responseArrive die port) s =
      .next ⟨((s.m.setArrd k l).cnt F.nocLateRsp die.val 1).ev F.nocEventsLateRsp die.val, s.pending⟩) ∧
    (∀ (t : Fin 4096) x, (s.m.outs k).find? (fun x => x.txn == t.val) = some x →
      (x.late = true → exec (.requestTimeout die port t) s = .next ⟨(s.m.setOuts k ((s.m.outs k).erase x)).niFree die.val port.val, s.pending⟩) ∧
      (x.late = false → ∃ m1 : Mach, m1 = (s.m.setOuts k ((s.m.outs k).map (fun y => if y.txn = t.val then { y with late := true } else y))).answer
        x.who x.txn rsTimeout [] 0 ∧ exec (.requestTimeout die port t) s =
          .next ⟨if die.val < 6 then (m1.cnt F.nocTimeouts die.val 1).ev F.nocEventsTimeout die.val else m1, s.pending⟩))) ∧
  (∀ (d : DieNo) (s : State), s.m.alive (.noc d.val) = true →
    (∀ (l : Fin 4) (e back : Nat) (fs : SMap Nat) (m1 : Mach), bridgePeer d.val l.val = some (e, back) → s.m.bridgeDown d.val l.val = false →
      fs = SMap.put 0 (4 * d.val + l.val) (SMap.get 0 (4 * d.val + l.val) s.m.net.fails + 1) s.m.net.fails →
      m1 = (({ s.m with net := { s.m.net with fails := fs } } : Mach).cnt F.nocBridgeRetries d.val 1).ev F.nocEventsBridgeRetry d.val →
      (SMap.get 0 (4 * d.val + l.val) s.m.net.fails < 7 → exec (.bridgeRetry d l) s = .next ⟨m1, s.pending⟩) ∧
      (7 ≤ SMap.get 0 (4 * d.val + l.val) s.m.net.fails → ∃ n, exec (.bridgeRetry d l) s = .next n ∧ n.m.bridgeDown d.val l.val = true ∧
        n.m.bridgeDown e back = true ∧ n.m.on F.nocEventsBridgeDown d.val = true ∧ n.m.on F.nocEventsBridgeDown e = true ∧ n.m.mem = s.m.mem)) ∧
    (∀ who, netBlockWho d.val who = true →
      exec (.nocCtrlRun d who false) s = .next ⟨(s.m.wr F.nocCtrlRun d.val 0).respond who rsOk, s.pending⟩ ∧
      exec (.nocCtrlRun d who true) s = .next ⟨(s.m.nocOn d.val).respond who rsOk, s.pending⟩ ∧
      exec (.traceRunWrite d who false) s = .next ⟨(s.m.wr F.ltCtrlTraceRun d.val 0).respond who rsOk, s.pending⟩ ∧
      ∃ n, exec (.traceRunWrite d who true) s = .next n ∧ n.m.rd F.ltWritePtr d.val = 0 ∧ n.m.on F.ltCtrlTraceRun d.val = true ∧
        (n.m.tracer d.val).base = s.m.rd F.ltBaseHi d.val * 2 ^ 32 + s.m.rd F.ltBaseLo d.val ∧ (n.m.tracer d.val).log2 = s.m.rd F.ltSizeLog2 d.val) ∧
    (∀ who run, netBlockWho d.val who = false → exec (.nocCtrlRun d who run) s = .next ⟨s.m.respond who rsRefused, s.pending⟩ ∧
      exec (.traceRunWrite d who run) s = .next ⟨s.m.respond who rsRefused, s.pending⟩) ∧
    (∀ (r : List Byte) (l : List (List Byte)) (t : Tracer) (i a : Nat) (p : Packet) (ps : List Packet) (m1 m2 : Mach), s.m.tracer d.val = t →
      t.store = r :: l → s.m.on F.ltCtrlTraceRun d.val = true → i = s.m.rd F.ltWritePtr d.val → a = t.base + 32 * i →
      s.m.packetsOf (idLantern d.val) d.val 63 (.write a r (List.replicate 32 true) false) = p :: ps → s.m.mayInject d.val 63 p = true →
      m1 = s.m.setTracer d.val { t with store := l } →
      m2 = (if i + 1 < 2 ^ t.log2 / 32 then m1.wr F.ltWritePtr d.val (i + 1) else if t.wrap then m1.wr F.ltWritePtr d.val 0
        else (m1.wr F.ltWritePtr d.val (i + 1)).wr F.ltCtrlTraceRun d.val 0) →
      exec (.traceWrite d) s = .next ⟨if (destOf s.m.fuses a).isNone then m2.answer (idLantern d.val) 4096 rsDecode [] 0 else m2.niSend d.val 63 p,
        s.pending⟩))

/-- 11 R246 to R259, R269 to R271: macrocells, clocks and pins. A clock that has this edge (its region is past its hold, it is not gated or held
low, its input runs) moves each P-block over its routed inputs, RAM ports on rising edges and then the pins; without it nothing changes. An
asynchronous input acts at once; a clock switches when the input it leaves has fallen or is abandoned and the new one runs; a frequency above 8396
edges in a window gates the clock; VIO loss holds a bank. -/
def Obligations.FabricLogicClocksAndPins : Prop :=
  (∀ (d : DieNo) (r : Fin 24) (k : Fin 16) (s : State) (p g : Nat), s.m.alive .uncore = true → p = rgnClk d.val r.val k.val → g = rgnIx d.val r.val →
    (∀ (bs : List PIn) (rs : List RamIn) (pads : List (Fin 192)) up, s.m.clkPasses d.val r.val k.val up bs = true → ∃ m1 m2 : Mach,
      m1 = (if up then s.m.ramEdge d.val r.val k.val rs else s.m) ∧
      m2 = bs.foldl (fun m x => m.pEdge d.val r.val k.val up { x with ins := s.m.insOf d.val r.val bs x.p }) m1 ∧
      exec (.regionalClockEdge d r k up bs ⟨rs, pads⟩) s =
        .next ⟨(m2.pinEdge s.m d.val r.val k.val up bs (pads.map Fin.val)).clkAfter d.val r.val k.val up, s.pending⟩) ∧
    (∀ (bs : List PIn) (rs : List RamIn) (pads : List (Fin 192)) up, s.m.rgnStep d.val r.val < 2 ∨ bitOf k.val (s.m.rd F.frClkgatedGated g) = true ∨
      s.m.clkLow d.val r.val k.val = true ∨ s.m.srcRuns d.val (s.m.clkSrc d.val r.val k.val (s.m.rd F.frClkselActive p)) = false →
      exec (.regionalClockEdge d r k up bs ⟨rs, pads⟩) s = .next s) ∧
    (∀ (b : Fin 704) set reset, 2 ≤ s.m.rgnStep d.val r.val → b.val < rgnBlocks r.val → ∃ v, exec (.asynchronousSetReset d r b set reset) s =
      .next ⟨s.m.setFf d.val r.val b.val v, s.pending⟩ ∧ v = natOfBits ((upFrom 0 16).map (fun i =>
        if s.m.pcfg d.val r.val b.val (mcItem i 7) && s.m.pcfg d.val r.val b.val 8511 && reset then false
        else if s.m.pcfg d.val r.val b.val (mcItem i 7) && s.m.pcfg d.val r.val b.val 8510 && set then true
        else bitOf i (s.m.ff d.val r.val b.val)))) ∧
    (∀ (b : Fin 704) set reset, s.m.rgnStep d.val r.val < 2 ∨ rgnBlocks r.val ≤ b.val → exec (.asynchronousSetReset d r b set reset) s = .next s) ∧
    (∀ (sig : Fin 4) runs b leaving, b = (if s.m.on F.frClkselSelFabric p then sig.val else s.m.rd F.frClkselSel p) →
      leaving = (!s.m.clkLow d.val r.val k.val && s.m.srcRuns d.val (s.m.clkSrc d.val r.val k.val (s.m.rd F.frClkselActive p))) →
      (b = s.m.rd F.frClkselActive p → s.m.on F.frClkselSwitching p = false → exec (.clockSwitch d r k sig runs) s = .next s) ∧
      (b ≠ s.m.rd F.frClkselActive p ∨ s.m.on F.frClkselSwitching p = true → ∃ m1 : Mach, m1 = s.m.wr F.frClkselSwitching p 1 ∧
        ((s.m.clkLow d.val r.val k.val = false ∧ s.m.srcRuns d.val (s.m.clkSrc d.val r.val k.val (s.m.rd F.frClkselActive p)) = false →
          exec (.clockSwitch d r k sig runs) s = .next ⟨m1, s.pending⟩) ∧
         (s.m.clkLow d.val r.val k.val = true ∨ leaving = true → s.m.srcRuns d.val (s.m.clkSrc d.val r.val k.val b) = true →
          exec (.clockSwitch d r k sig true) s = .next ⟨((m1.wr F.frClkselActive p b).wr F.frClkselSwitching p 0).setClkLow d.val r.val k.val false, s.pending⟩ ∧
          exec (.clockSwitch d r k sig false) s = .next ⟨m1.setClkLow d.val r.val k.val true, s.pending⟩)))) ∧
    (s.m.on F.frClkselSwitching p = true → s.m.clkLow d.val r.val k.val = false →
      s.m.on F.frClkselSelFabric p = true ∨ s.m.srcRuns d.val (s.m.clkSrc d.val r.val k.val (s.m.rd F.frClkselSel p)) = true →
      exec (.deadSrc d r k) s = .next ⟨(s.m.wr F.frEventsDeadSrc g 1).setClkLow d.val r.val k.val true, s.pending⟩) ∧
    (s.m.on F.frClkselSwitching p = false ∨ s.m.clkLow d.val r.val k.val = true → exec (.deadSrc d r k) s = .next s) ∧
    (∀ who div, (fabricWho d.val who = true → exec (.clockDividerWrite d r k who div) s =
        .next ⟨(s.m.wr F.frClkselDiv p div.val).respond who rsOk, s.pending⟩) ∧
      (fabricWho d.val who = false → exec (.clockDividerWrite d r k who div) s = .next ⟨s.m.respond who rsRefused, s.pending⟩)) ∧
    (∀ n, n ≤ 8396 → exec (.clockMonitorWindow d r k n) s = .next ⟨s.m.wr F.frClkmonEdges p (min 0xFFFF n), s.pending⟩) ∧
    (∀ n, 8396 < n → ∃ m1 : Mach, m1 = s.m.wr F.frClkmonEdges p (min 0xFFFF n) ∧ exec (.clockMonitorWindow d r k n) s =
      .next ⟨((m1.wr F.frClkgateEn g (clearBit k.val (s.m.rd F.frClkgateEn g))).wr F.frClkgatedGated
        g (setBit k.val (s.m.rd F.frClkgatedGated g))).ev F.frEventsFreqHigh g, s.pending⟩) ∧
    (∀ who en, fabricWho d.val who = false → exec (.frClkgateWrite d r who en) s = .next ⟨s.m.respond who rsRefused, s.pending⟩) ∧
    (∀ who en, fabricWho d.val who = true → ∃ m1 : Mach, m1 = s.m.wr F.frClkgateEn g en.val ∧ exec (.frClkgateWrite d r who en) s =
      .next ⟨(if s.m.rgnStep d.val r.val = 0 then m1 else m1.wr F.frClkgatedGated g (0xFFFF - en.val)).respond who rsOk, s.pending⟩)) ∧
  (∀ (b : Fin 8) (s : State), s.m.alive .uncore = true →
    (∀ v : Fin 4, s.m.on F.ioBankStatusReleased (ioIx b.val) = true → v.val ≠ s.m.rd F.ioBankStatusVioDecl (ioIx b.val) → exec (.vioLoss b v) s =
      .next ⟨((s.m.holdBank b.val).wr F.ioBankStatusVio (ioIx b.val) v.val).ev F.ioEventsVioMismatch (ioIx b.val), s.pending⟩) ∧
    (∀ v : Fin 4, s.m.on F.ioBankStatusReleased (ioIx b.val) = false ∨ v.val = s.m.rd F.ioBankStatusVioDecl (ioIx b.val) → exec (.vioLoss b v) s =
      .next ⟨s.m.wr F.ioBankStatusVio (ioIx b.val) v.val, s.pending⟩) ∧
    (∀ (d : DieNo) i who sl, (bankDie b.val ≠ d.val → exec (.ioPinSlewWrite d b i who sl) s = .next ⟨s.m.respond who rsDecode, s.pending⟩) ∧
      (bankDie b.val = d.val → fabricWho d.val who = true → exec (.ioPinSlewWrite d b i who sl) s =
        .next ⟨(s.m.wr F.ioPinSlew (ix d.val b.val i.val 0) sl.val).respond who rsOk, s.pending⟩) ∧
      (bankDie b.val = d.val → fabricWho d.val who = false → exec (.ioPinSlewWrite d b i who sl) s = .next ⟨s.m.respond who rsRefused, s.pending⟩))) ∧
  (∀ (lv : Bool) (s : State), s.m.alive .vigil = true → ∃ held pu,
    held = (upFrom 0 8).filter (fun b => !s.m.on F.ioBankStatusReleased (ioIx b)) ∧
    pu = held.foldl (fun a b => if lv then setBit b a else clearBit b a) s.m.fab.pulls ∧
    exec (.holdPuChange lv) s = .next ⟨{ s.m with fab := { s.m.fab with holdPu := lv, pulls := pu } }, s.pending⟩)



/-- 11 R261 to R267: the fabric network interfaces. A request is not accepted while the interface is off, fenced or full or its tag is in use, is
answered MALFORMED if it breaks a rule of its form, and else is injected or waits for its network interface; a target access is passed to the user
logic, or refused; replies come in order; a message arrives at the sink, where the seventeenth overwrites the last; the row-push window stages rows. -/
def Obligations.FabricInterfaceCommands : Prop :=
  ∀ (d : DieNo) (f : Fin 32) (s : State) (k : Nat) (x : Fni), s.m.alive .uncore = true → k = 32 * d.val + f.val → s.m.fni k = x →
  (∀ (kind : Fin 8) (addr len : Nat) (tag : Fin 256) (na : Bool) (data : List Byte) (en : List Bool),
    (s.m.on F.fniCtrlEn (fniIx k) = false ∨ s.m.on F.fniStatusFenced (fniIx k) = true ∨ 16 ≤ x.reqs.length ∨ 256 ≤ x.tags.length ∨
      (∃ t ∈ x.tags, t.1 = tag.val) → exec (.fniRequest d f kind addr len tag na data en) s = .next s) ∧
    (s.m.on F.fniCtrlEn (fniIx k) = true → s.m.on F.fniStatusFenced (fniIx k) = false → x.reqs.length < 16 → x.tags.length < 256 →
      (∀ t ∈ x.tags, t.1 ≠ tag.val) →
      (len = 0 ∨ 256 < addr % 256 + len ∨ kind.val = 7 ∨ kind.val = 6 ∧ (len ≠ 64 ∨ data.length ≠ 64) →
        exec (.fniRequest d f kind addr len tag na data en) s =
        .next ⟨(s.m.ev F.fniEventsMalformed (fniIx k)).send (.fniResp d.val f.val tag.val rsMalformed [] 0), s.pending⟩) ∧
      (0 < len → addr % 256 + len ≤ 256 → kind.val < 7 → (kind.val = 6 → len = 64 ∧ data.length = 64) → ∃ (q : FniReq) (m1 : Mach),
        q = ⟨kind.val, addr, len, tag.val, na, data, en⟩ ∧
        m1 = (if kind.val = 6 ∨ kind.val = 1 ∧ na = true then s.m else s.m.setFni k { x with tags := x.tags ++ [(tag.val, none)] }) ∧
        exec (.fniRequest d f kind addr len tag na data en) s =
          .next ⟨(m1.setFni k { m1.fni k with reqs := x.reqs ++ [q] }).fniDrain k (x.reqs ++ [q]), s.pending⟩))) ∧
  (∀ (q : FniReq) (l : List FniReq) (m : Mach), (m.setFni k { m.fni k with reqs := l }).fniInject k q = none → m.fniDrain k (q :: l) = m) ∧
  (∀ (who kind : Nat) (w : Fin 1024) (data : Word),
    (kind ≠ 4 → kind ≠ 5 → exec (.fniTargetAccess d f who kind w data) s = .next ⟨s.m.send (.resp who rsMalformed [] 0), s.pending⟩) ∧
    ((kind = 4 ∨ kind = 5) → s.m.on F.fniCtrlAcceptTarget (fniIx k) = false ∨ s.m.on F.fniStatusFenced (fniIx k) = true →
      exec (.fniTargetAccess d f who kind w data) s = .next ⟨s.m.send (.resp who rsRefused [] 0), s.pending⟩) ∧
    ((kind = 4 ∨ kind = 5) → s.m.on F.fniCtrlAcceptTarget (fniIx k) = true → s.m.on F.fniStatusFenced (fniIx k) = false →
      exec (.fniTargetAccess d f who kind w data) s = .next ⟨(s.m.setFni k { x with targets := x.targets ++ [(who, kind == 5, none)] }).send
        (.fniTarget d.val f.val (kind == 5) w.val data.toNat who), s.pending⟩)) ∧
  (∀ (data : Word) refuse, x.targets = [] → exec (.fniTargetReply d f data refuse) s = .next s) ∧
  (∀ (data : Word) refuse who wr pkt l st dt, x.targets = (who, wr, pkt) :: l → st = (if refuse then rsRefused else rsOk) →
    dt = (if refuse || wr then [] else leBytes 4 data.toNat) → ∃ m1 : Mach, m1 = s.m.setFni k { x with targets := l } ∧
    (pkt = none → exec (.fniTargetReply d f data refuse) s = .next ⟨m1.send (.resp who st dt 0), s.pending⟩) ∧
    (∀ p port, pkt = some p → port = 46 + f.val / 4 → exec (.fniTargetReply d f data refuse) s = .next ⟨m1.niSend d.val port
      (rspTo p (niKey d.val port) (if refuse then 0x2F else if wr then 0x24 else 0x23) st 0 dt), s.pending⟩)) ∧
  (findIdx (fun x => x.dest == 0x8000 + 32 * d.val + f.val) s.m.fw.mails = none → exec (.fniMessageArrive d f) s = .next s) ∧
  (∀ i y, findIdx (fun x => x.dest == 0x8000 + 32 * d.val + f.val) s.m.fw.mails = some i → s.m.fw.mails[i]? = some y → ∃ m1 : Mach,
    m1 = { s.m with fw := { s.m.fw with mails := dropNth s.m.fw.mails i } } ∧
    exec (.fniMessageArrive d f) s = .next ⟨m1.sinkArrive k y.src y.words, s.pending⟩) ∧
  (∀ src words, (s.m.on F.fniStatusFenced (fniIx k) = false →
    (x.sink.length < 16 → s.m.sinkArrive k src words = s.m.setFni k { x with sink := x.sink ++ [(src, words)] }) ∧
    (16 ≤ x.sink.length → s.m.sinkArrive k src words =
      (s.m.setFni k { x with sink := x.sink.dropLast ++ [(src, words)] }).ev F.fniEventsSinkCollide (fniIx k))) ∧
    (s.m.on F.fniStatusFenced (fniIx k) = true →
      s.m.sinkArrive k src words = (s.m.cnt F.fniDiscarded (fniIx k) 1).ev F.fniEventsDiscarded (fniIx k))) ∧
  (x.sink = [] ∨ s.m.on F.fniCtrlEn (fniIx k) = false ∨ s.m.on F.fniStatusFenced (fniIx k) = true → exec (.messageSinkTransfer d f) s = .next s) ∧
  (∀ src words l, x.sink = (src, words) :: l → s.m.on F.fniCtrlEn (fniIx k) = true → s.m.on F.fniStatusFenced (fniIx k) = false →
    exec (.messageSinkTransfer d f) s = .next ⟨(s.m.setFni k { x with sink := l }).send (.fniMessage d.val f.val words src), s.pending⟩) ∧
  (∀ (t : TileNo) (who kind off : Nat) (data : List Byte) (en : List Bool),
    (s.m.isRaw (t.val / 16) = false → exec (.rowPushWindow t who kind off data en) s = .next ⟨s.m.respond who rsRefused, s.pending⟩) ∧
    (s.m.isRaw (t.val / 16) = true → kind ≠ 0x10 ∨ data.length ≠ 128 ∨ off % 128 ≠ 0 ∨ nth false en 96 = false ∨ nth false en 97 = false ∨
      nth false en 98 = false → exec (.rowPushWindow t who kind off data en) s = .next ⟨s.m.respond who rsMalformed, s.pending⟩) ∧
    (s.m.isRaw (t.val / 16) = true → kind = 0x10 → data.length = 128 → off % 128 = 0 → (∀ i, 96 ≤ i → i < 99 → nth false en i = true) →
      (s.m.tile t.val).pushTarget = none → exec (.rowPushWindow t who kind off data en) s = .next ⟨s.m.respond who rsRefused, s.pending⟩) ∧
    (∀ q h fm row, s.m.isRaw (t.val / 16) = true → kind = 0x10 → data.length = 128 → off % 128 = 0 → (∀ i, 96 ≤ i → i < 99 → nth false en i = true) →
      (s.m.tile t.val).pushTarget = some (q, h) → fmtOfCode (tcFmtA q.w) = some fm →
      row = RowPush.mk t.val (off / 128) allLanes ⟨unpack fm.width (leNat data) 48, ((data.drop 96).take 3).map (fun b => b.toNat)⟩ →
      ((∃ i, i < 6 * fm.width ∧ nth false en i = false) →
        exec (.rowPushWindow t who kind off data en) s = .next ⟨s.m.respond who rsMalformed, s.pending⟩) ∧
      ((∀ i, i < 6 * fm.width → nth false en i = true) →
        exec (.rowPushWindow t who kind off data en) s = .next ⟨(pushRow row s.m).2.respond who rsOk, s.pending⟩)))

/-- 12 R279 to R283, R286 to R288, R296: slots M, L and AUX of the bundle a slice issued last. A multiply-accumulate lands in cycle + 4 with the exact
product's parts (conjugated, negated, or from zero), MACN bringing NORM by NSH along; a load lands its word, bit 31 copied up, in cycle + 3 in the register
resolved at issue, and a bad word counts as well; a store writes its word at once with fresh parity; the pointer or index it used lands its step in
cycle + 1 (modulo CL; with CL 0, which the program must avoid, a free value: log 88); AFEED feeds the auxiliary state in cycle + 2, but not beside ARST. -/
def Obligations.SliceMultipliesAndMemory : Prop :=
  ∀ (d : DieNo) (n : Fin 64) (s : State) (k : Nat) (b : SlIssued), s.m.alive (.slice d.val) = true → k = slK d.val n.val → (s.m.sl k).issued = some b →
  (∀ (m0 : Mach) (a x y : Nat) (re im : Int), bitOf 1 b.todo = true → m0 = s.m.setSl k { (s.m.sl k) with issued := some { b with todo := clearBit 1 b.todo } } →
    a = mAcc b.word → x = s.m.slReg k b (mA b.word) → y = s.m.slReg k b (mB b.word) →
    (re = cre x * cre y - cim x * cim y → im = cre x * cim y + cim x * cre y →
      (mCode b.word = 1 → exec (.slMac d n) s = .next ⟨m0.slRes k b 1 4 (.acc a false re im none), s.pending⟩) ∧
      (mCode b.word = 3 → exec (.slMsu d n) s = .next ⟨m0.slRes k b 1 4 (.acc a false (-re) (-im) none), s.pending⟩) ∧
      (mCode b.word = 4 → exec (.slMacz d n) s = .next ⟨m0.slRes k b 1 4 (.acc a true re im none), s.pending⟩) ∧
      (mCode b.word = 6 → exec (.slMacn d n) s =
        .next ⟨m0.slRes k b 1 4 (.acc a false re im (some (b.phys (mA b.word), s.m.rd F.slNsh (slIx k)))), s.pending⟩)) ∧
    (re = cre x * cre y + cim x * cim y → im = cim x * cre y - cre x * cim y → mCode b.word = 2 →
      exec (.slMacc d n) s = .next ⟨m0.slRes k b 1 4 (.acc a false re im none), s.pending⟩) ∧
    (mCode b.word = 5 → exec (.slAclr d n) s = .next ⟨m0.slRes k b 1 4 (.acc a true 0 0 none), s.pending⟩)) ∧
  (∀ (m0 : Mach) (wp wc : Nat), bitOf 2 b.todo = true → m0 = s.m.setSl k { (s.m.sl k) with issued := some { b with todo := clearBit 2 b.todo } } →
    wp = s.m.rd F.slP (slSub k (lP b.word)) / 4 → wc = (s.m.rd F.slCb (slSub k (lC b.word)) + s.m.rd F.slCi (slSub k (lC b.word))) % 65536 / 4 →
    (∀ up, lCode b.word = 1 → exec (.slLp d n up) s = .next ⟨(m0.slLoad k b wp (lA b.word) up).slPtrStep k b (lP b.word), s.pending⟩) ∧
    (∀ up, lCode b.word = 2 → exec (.slLc d n up) s = .next ⟨(m0.slLoad k b wc (lB b.word) up).slCircStep k b (lC b.word), s.pending⟩) ∧
    (∀ up upC, lCode b.word = 3 → exec (.slLpc d n ⟨up, upC⟩) s = .next ⟨(((m0.slLoad k b wp (lA b.word) up).slLoad k b wc (lB b.word) upC).slPtrStep
      k b (lP b.word)).slCircStep k b (lC b.word), s.pending⟩) ∧
    (lCode b.word = 4 → exec (.slSp d n) s = .next ⟨(m0.slStore k b wp (lA b.word)).slPtrStep k b (lP b.word), s.pending⟩) ∧
    (lCode b.word = 5 → exec (.slSc d n) s = .next ⟨(m0.slStore k b wc (lB b.word)).slCircStep k b (lC b.word), s.pending⟩) ∧
    (∀ up, lCode b.word = 6 → exec (.slLcsp d n up) s =
      .next ⟨(((m0.slLoad k b wc (lB b.word) up).slStore k b wp (lA b.word)).slPtrStep k b (lP b.word)).slCircStep k b (lC b.word), s.pending⟩)) ∧
  (∀ (m : Mach) (w x i cl : Nat) (up : Bool) (y : Slice) (v : Int), y = (m.sl k).upset w up → cl = m.rd F.slCl (slSub k i) →
    v = (m.rd F.slCi (slSub k i) : Int) + toSigned 16 (m.rd F.slCs (slSub k i)) →
    (y.dIsBad k w = false → m.slLoad k b w x up = (m.setSl k y).slRes k b 2 3 (.reg (b.phys x) (ext32 (y.dword k w)))) ∧
    (y.dIsBad k w = true → m.slLoad k b w x up =
      (((m.setSl k y).slRes k b 2 3 (.reg (b.phys x) (ext32 (y.dword k w)))).slEv k F.slEventsDmemParity).cnt F.slDmemErrs (slIx k) 1) ∧
    ((m.slStore k b w x).sl k).dword k w = m.slReg k b x % 2 ^ 32 ∧ ((m.slStore k b w x).sl k).dIsBad k w = false ∧
    m.slPtrStep k b i = m.slRes k b 2 1 (.ctl i ((m.rd F.slP (slSub k i) + m.rd F.slO (slSub k i)) % 65536)) ∧
    (cl ≠ 0 → m.slCircStep k b i = m.slRes k b 2 1 (.ctl (16 + i) (v % (cl : Int)).toNat)) ∧
    (cl = 0 → m.slCircStep k b i = (m.fresh 16).2.slRes k b 2 1 (.ctl (16 + i) (m.fresh 16).1))) ∧
  (∀ m0 : Mach, bitOf 0 b.todo = true → aCode b.word = 1 → m0 = s.m.setSl k { (s.m.sl k) with issued := some { b with todo := clearBit 0 b.todo } } →
    (cCode b.word ≠ 0x30 ∨ cBanned b.shadow 0 b.word = true → exec (.slAfeed d n) s =
      .next ⟨m0.slRes k b 0 2 (.feed (s.m.slReg k b (bitsOf 3 0 (bAux b.word)))), s.pending⟩) ∧
    (cCode b.word = 0x30 → cBanned b.shadow 0 b.word = false → exec (.slAfeed d n) s = .next ⟨m0, s.pending⟩)) ∧
  exec (.slNop d n) s = .next s

/-- 12 R277, R282, R284 to R287: slot C's arithmetic. Each result lands in the register resolved at issue, in cycle + 1 (normalise and exponent + 2);
ADD, SUB, ADDI and a left SHA saturate to S40 and CADD and CSUB to I16, setting NSAT; the logic operations, MOVI, MOVHI and a right SHA (toward zero)
do not; MTC, FCLR, ARST and AADD land a control register, the cleared events or the auxiliary mode; MFC of a
reserved index gives 0 and AADD of one does nothing; an index register takes its sum modulo CL (with CL 0, a free value: log 88). -/
def Obligations.SliceScalarResults : Prop :=
  ∀ (d : DieNo) (n : Fin 64) (s : State) (k : Nat) (b : SlIssued) (m0 : Mach) (xd xa xb o : Nat) (imm : Int), s.m.alive (.slice d.val) = true →
  k = slK d.val n.val → (s.m.sl k).issued = some b → bitOf 3 b.todo = true →
  m0 = s.m.setSl k { (s.m.sl k) with issued := some { b with todo := clearBit 3 b.todo } } →
  o = b.phys (cD b.word) → xd = s.m.slReg k b (cD b.word) → xa = s.m.slReg k b (cA b.word) → xb = s.m.slReg k b (cB b.word) →
  imm = toSigned 10 (cImm b.word) →
  (cCode b.word = 0x10 → exec (.slAdd d n) s = .next ⟨m0.slSat k b (s40 xa + s40 xb), s.pending⟩) ∧
  (cCode b.word = 0x11 → exec (.slSub d n) s = .next ⟨m0.slSat k b (s40 xa - s40 xb), s.pending⟩) ∧
  (cCode b.word = 0x18 → exec (.slAddi d n) s = .next ⟨m0.slSat k b (s40 xd + imm), s.pending⟩) ∧
  (∀ (m : Mach) (i : Int), (-(2 : Int) ^ 39 ≤ i → i < (2 : Int) ^ 39 → m.slSat k b i = m.slRes k b 3 1 (.reg o (of40 i))) ∧
    ((2 : Int) ^ 39 ≤ i → m.slSat k b i = (m.slRes k b 3 1 (.reg o (2 ^ 39 - 1))).slEv k F.slEventsNsat) ∧
    (i < -(2 : Int) ^ 39 → m.slSat k b i = (m.slRes k b 3 1 (.reg o (2 ^ 39))).slEv k F.slEventsNsat)) ∧
  (cCode b.word = 0x12 → exec (.slAnd d n) s = .next ⟨m0.slRes k b 3 1 (.reg o (xa &&& xb)), s.pending⟩) ∧
  (cCode b.word = 0x13 → exec (.slOr d n) s = .next ⟨m0.slRes k b 3 1 (.reg o (xa ||| xb)), s.pending⟩) ∧
  (cCode b.word = 0x14 → exec (.slXor d n) s = .next ⟨m0.slRes k b 3 1 (.reg o (xa ^^^ xb)), s.pending⟩) ∧
  (cCode b.word = 0x15 → ∀ sh : Int, sh = toSigned 6 (bitsOf 5 0 (bC b.word)) →
    (0 ≤ sh → exec (.slSha d n) s = .next ⟨m0.slSat k b (s40 xa * (2 : Int) ^ sh.toNat), s.pending⟩) ∧
    (sh < 0 → exec (.slSha d n) s = .next ⟨m0.slRes k b 3 1 (.reg o (of40 ((s40 xa).tdiv ((2 : Int) ^ (-sh).toNat)))), s.pending⟩)) ∧
  (∀ r : Nat × Bool,
    (cCode b.word = 0x16 → r = cpx (cre xa + cre xb) (cim xa + cim xb) →
      exec (.slCadd d n) s = .next ⟨(m0.slRes k b 3 1 (.reg o r.1)).slFlag k F.slEventsNsat r.2, s.pending⟩) ∧
    (cCode b.word = 0x17 → r = cpx (cre xa - cre xb) (cim xa - cim xb) →
      exec (.slCsub d n) s = .next ⟨(m0.slRes k b 3 1 (.reg o r.1)).slFlag k F.slEventsNsat r.2, s.pending⟩)) ∧
  (cCode b.word = 0x19 → exec (.slMovi d n) s = .next ⟨m0.slRes k b 3 1 (.reg o (of40 imm)), s.pending⟩) ∧
  (cCode b.word = 0x1A → exec (.slMovhi d n) s = .next ⟨m0.slRes k b 3 1 (.reg o ((xd * 1024 + cImm b.word) % 2 ^ 40)), s.pending⟩) ∧
  (∀ (acc : Int × Int) (q : Nat), acc = s.m.slAcc k b.shadow (cAcc b.word) → q = b.phys (cAd b.word) →
    (∀ r : Nat × Bool, cCode b.word = 0x20 → r = slNorm acc (bitsOf 5 0 (bC b.word)) →
      exec (.slNorm d n) s = .next ⟨(m0.slRes k b 3 2 (.reg q r.1)).slFlag k F.slEventsNsat r.2, s.pending⟩) ∧
    (∀ r : Nat × Bool, cCode b.word = 0x21 → r = slNorm acc (s.m.slReg k b (bitsOf 7 4 (bC b.word)) % 64) →
      exec (.slNormv d n) s = .next ⟨(m0.slRes k b 3 2 (.reg q r.1)).slFlag k F.slEventsNsat r.2, s.pending⟩) ∧
    (cCode b.word = 0x22 → exec (.slExp d n) s = .next ⟨m0.slRes k b 3 2 (.reg q (slExp acc)), s.pending⟩)) ∧
  (cCode b.word = 0x28 → exec (.slMtc d n) s = .next ⟨m0.slRes k b 3 1 (.ctl (bitsOf 5 0 (bC b.word)) (xd % 2 ^ 32)), s.pending⟩) ∧
  (cCode b.word = 0x29 → exec (.slMfc d n) s =
    .next ⟨m0.slRes k b 3 1 (.reg o (if bitsOf 5 0 (bC b.word) < 48 then s.m.slCtl k (bitsOf 5 0 (bC b.word)) else 0)), s.pending⟩) ∧
  (cCode b.word = 0x2A → ∀ (i : Nat) (v : Int), i = bitsOf 13 8 (bC b.word) → v = (s.m.slCtl k i : Int) + 4 * toSigned 8 (bitsOf 7 0 (bC b.word)) →
    (48 ≤ i → exec (.slAadd d n) s = .next ⟨m0, s.pending⟩) ∧
    (i < 16 ∨ 20 ≤ i ∧ i < 48 → exec (.slAadd d n) s = .next ⟨m0.slRes k b 3 1 (.ctl i (ofSigned 32 v)), s.pending⟩) ∧
    (∀ cl : Nat, 16 ≤ i → i < 20 → cl = s.m.rd F.slCl (slSub k (i - 16)) →
      (cl ≠ 0 → exec (.slAadd d n) s = .next ⟨m0.slRes k b 3 1 (.ctl i (v % (cl : Int)).toNat), s.pending⟩) ∧
      (cl = 0 → exec (.slAadd d n) s = .next ⟨(m0.fresh 16).2.slRes k b 3 1 (.ctl i (m0.fresh 16).1), s.pending⟩))) ∧
  (cCode b.word = 0x2B → exec (.slFrd d n) s = .next ⟨m0.slRes k b 3 1 (.reg o (s.m.slEvents k)), s.pending⟩) ∧
  (cCode b.word = 0x2C → exec (.slFclr d n) s = .next ⟨m0.slRes k b 3 1 (.fclr (bitsOf 6 0 (bC b.word))), s.pending⟩) ∧
  (cCode b.word = 0x30 → exec (.slArst d n) s = .next ⟨m0.slRes k b 3 1 (.arst (bitsOf 2 0 (bC b.word))), s.pending⟩) ∧
  (∀ (v : Int) (i : Nat), (s.m.sl k).auxBest = some (v, i) →
    (cCode b.word = 0x31 → exec (.slAgetv d n) s = .next ⟨m0.slRes k b 3 1 (.reg o (of40 v)), s.pending⟩) ∧
    (cCode b.word = 0x32 → exec (.slAgeti d n) s = .next ⟨m0.slRes k b 3 1 (.reg o i), s.pending⟩)) ∧
  ((s.m.sl k).auxBest = none →
    (cCode b.word = 0x31 → exec (.slAgetv d n) s = .next ⟨m0.slRes k b 3 1 (.reg o 0), s.pending⟩) ∧
    (cCode b.word = 0x32 → exec (.slAgeti d n) s = .next ⟨m0.slRes k b 3 1 (.reg o (2 ^ 40 - 1)), s.pending⟩))

/-- 12 R282, R289 to R291, R294, R295: slot C's control operations. HALT clears RUN and records cause 1 and its bundle; WAIT waits; RETI restores the
frozen loops, ends the handler and resumes at SL_IRET after the swap; a taken branch goes to its own address plus the offset, leaves the loops whose body
it left, and one bubble follows, an untaken one costs nothing; LOOP and LOOPI open a loop over the next bundles, and a count of 0 skips the body with a
bubble; OUT appends to the egress queue or, when it is full, drops; XFER starts an idle outbox, and only sets XFER_BUSY on a busy one. An
operation that the bundle issued last does not hold in its slot, or that has acted, does nothing. -/
def Obligations.SliceControlFlow : Prop :=
  ∀ (d : DieNo) (n : Fin 64) (s : State) (k p : Nat) (b : SlIssued) (m0 : Mach) (xa : Int) (t : Nat), s.m.alive (.slice d.val) = true →
  k = slK d.val n.val → p = slIx k → (s.m.sl k).issued = some b → bitOf 3 b.todo = true →
  m0 = s.m.setSl k { (s.m.sl k) with issued := some { b with todo := clearBit 3 b.todo } } →
  xa = s40 (s.m.slReg k b (cD b.word)) → t = (((b.pc : Int) + toSigned 10 (cImm b.word)) % 2048).toNat →
  (cCode b.word = 1 → exec (.slHalt d n) s = .next ⟨((m0.wr F.slCtrlRun p 0).wr F.slHaltCause p 1).wr F.slHaltPc p b.pc, s.pending⟩) ∧
  (cCode b.word = 2 → exec (.slWait d n) s = .next ⟨m0.wr F.slStatusWaiting p 1, s.pending⟩) ∧
  (∀ m1 m2 : Mach, cCode b.word = 3 → m1 = m0.setSl k { (m0.sl k) with loops := (s.m.sl k).frozen, frozen := [] } →
    m2 = m1.slUntil k (max (b.cycle + 2) (lastDue false (s.m.sl k).flight)) →
    exec (.slReti d n) s = .next ⟨(m2.wr F.slStatusInHandler p 0).wr F.slStatusPc p (s.m.rd F.slIretPc p), s.pending⟩) ∧
  (∀ m1 m2 : Mach, m1 = m0.setSl k { (m0.sl k) with loops := loopLeave t b.loops } → m2 = (m1.wr F.slStatusPc p t).slPass k 1 →
    (cCode b.word = 4 → exec (.slBr d n) s = .next ⟨m2, s.pending⟩) ∧
    (cCode b.word = 5 → exec (.slBz d n) s = .next ⟨if xa = 0 then m2 else m0, s.pending⟩) ∧
    (cCode b.word = 6 → exec (.slBnz d n) s = .next ⟨if xa = 0 then m0 else m2, s.pending⟩) ∧
    (cCode b.word = 7 → exec (.slBlt d n) s = .next ⟨if xa < 0 then m2 else m0, s.pending⟩) ∧
    (cCode b.word = 8 → exec (.slBge d n) s = .next ⟨if xa < 0 then m0 else m2, s.pending⟩)) ∧
  (∀ (c l : Nat), (cCode b.word = 9 → c = s.m.slReg k b (cD b.word) % 65536 → l = cImm b.word + 1 →
      (c = 0 → exec (.slLoop d n) s = .next ⟨(m0.wr F.slStatusPc p ((b.pc + 1 + l) % 2048)).slPass k 1, s.pending⟩) ∧
      (c ≠ 0 → exec (.slLoop d n) s =
        .next ⟨m0.setSl k { (m0.sl k) with loops := (b.pc + 1, b.pc + l, c) :: (s.m.sl k).loops }, s.pending⟩)) ∧
    (cCode b.word = 10 → c = bitsOf 13 4 (bC b.word) → l = bitsOf 3 0 (bC b.word) + 1 →
      (c = 0 → exec (.slLoopi d n) s = .next ⟨(m0.wr F.slStatusPc p ((b.pc + 1 + l) % 2048)).slPass k 1, s.pending⟩) ∧
      (c ≠ 0 → exec (.slLoopi d n) s =
        .next ⟨m0.setSl k { (m0.sl k) with loops := (b.pc + 1, b.pc + l, c) :: (s.m.sl k).loops }, s.pending⟩))) ∧
  (cCode b.word = 0x38 →
    (32 ≤ (s.m.sl k).egress.length → exec (.slOut d n) s = .next ⟨m0.slEv k F.slEventsEgressDrop, s.pending⟩) ∧
    ((s.m.sl k).egress.length < 32 → exec (.slOut d n) s =
      .next ⟨m0.setSl k { (m0.sl k) with egress := (s.m.sl k).egress ++ [s.m.slReg k b (cA b.word) % 2 ^ 32] }, s.pending⟩)) ∧
  (cCode b.word = 0x39 → ∀ o q : Nat, o = bitsOf 1 0 (bC b.word) → q = slSub k o →
    (∀ x, (s.m.sl k).outbox = some x → exec (.slXfer d n) s = .next ⟨m0.slEv k F.slEventsXferBusy, s.pending⟩) ∧
    (∀ m1 : Mach, (s.m.sl k).outbox = none → m1 = (m0.setSl k { (m0.sl k) with outbox := some (o, false, 0) }).wr F.xferState q 1 →
      (s.m.rd F.xferMode q = 1 → s.m.rd F.xferLen q ≠ 1 → exec (.slXfer d n) s = .next ⟨m1.slXferEnd k o rsMalformed, s.pending⟩) ∧
      ((s.m.rd F.xferMode q ≠ 1 ∨ s.m.rd F.xferLen q = 1) → exec (.slXfer d n) s = .next ⟨m1.slXferSend k o, s.pending⟩))) ∧
  (∀ (m : Mach) (slot code : Nat) (f : SlIssued → Mach → Mach), (m.sl k).issued = none ∨ (∃ c, (m.sl k).issued = some c ∧
    (bitOf slot c.todo = false ∨ slCode slot c.word ≠ code)) → m.slOp k slot code f = m)

/-- 12 R276, R278, R281, R283, R288 to R291: a slice issues its next bundle when nothing holds it (a word of bad parity halts it with cause 2 instead, and
a slot that is illegal sets ILLEGAL); the result that is due first lands, one that is not yet due only while no bundle issues: a register, a control
register, an accumulator saturated by component, the events, the auxiliary state; the lowest enabled pending source is taken at a bundle boundary. -/
def Obligations.SliceIssueLandingAndInterrupts : Prop :=
  ∀ (d : DieNo) (n : Fin 64) (s : State) (k p : Nat) (x : Slice) (idle : Bool), s.m.alive (.slice d.val) = true → k = slK d.val n.val → p = slIx k →
  x = s.m.sl k → idle = (!s.m.on F.slCtrlRun p || s.m.on F.slStatusWaiting p) →
  (∀ up, s.m.on F.slCtrlRun p = false ∨ x.busy = true ∨ (∃ r ∈ x.flight, r.due ≤ x.now) ∨ s.m.slTakes k = true ∨
      (s.m.on F.slStatusWaiting p = true ∧ (s.m.rd F.slIrqPending p &&& s.m.rd F.slIrqEnable p) = 0) → exec (.slBundleIssue d n up) s = .next s) ∧
  (∀ (up : Bool) (w pc : Nat), s.m.on F.slCtrlRun p = true → x.busy = false → (∀ r ∈ x.flight, x.now < r.due) →
    s.m.slTakes k = false → (s.m.on F.slStatusWaiting p = true → (s.m.rd F.slIrqPending p &&& s.m.rd F.slIrqEnable p) ≠ 0) →
    pc = s.m.rd F.slStatusPc p →
    (up = true ∨ x.pIsBad k pc = true → exec (.slBundleIssue d n up) s =
      .next ⟨((((s.m.setSl k { x with pbad := SMap.put 0 pc 2 x.pbad }).wr F.slCtrlRun p 0).wr F.slHaltCause p 2).wr F.slHaltPc p pc).wr F.slStatusWaiting p 0, s.pending⟩) ∧
    (up = false → x.pIsBad k pc = false → w = x.pword k pc → ∃ (sh : Bool) (nx : Nat × List (Nat × Nat × Nat)) (b : SlIssued) (m1 m2 : Mach),
      sh = s.m.on F.slStatusInHandler p ∧ nx = (if sh then ((pc + 1) % 2048, x.loops) else loopStep pc x.loops) ∧
      b = ⟨pc, w, x.wbase, x.now, sh, (slTodo sh nx.2.length w).1, x.loops, []⟩ ∧
      m1 = s.m.setSl k { x with issued := some b, wbase := rotBase sh (w % 4) x.wbase, loops := nx.2 } ∧
      m2 = ((m1.wr F.slStatusPc p nx.1).wr F.slStatusWaiting p 0).slPass k 1 ∧
      exec (.slBundleIssue d n up) s = .next ⟨if (slTodo sh nx.2.length w).2 then m2.slEv k F.slEventsIllegal else m2, s.pending⟩)) ∧
  (firstDue x.flight = none ∨ x.busy = true ∨ (∃ r, firstDue x.flight = some r ∧ x.now < r.due ∧ idle = false) → exec (.slResultLand d n) s = .next s) ∧
  (∀ (r : SlRes) (u m1 : Mach), firstDue x.flight = some r → x.busy = false → r.due ≤ x.now ∨ idle = true → u = s.m.slUntil k r.due →
    m1 = u.setSl k { (u.sl k) with flight := (u.sl k).flight.erase r } →
    (∀ g v, r.what = .reg g v → exec (.slResultLand d n) s = .next ⟨m1.setSl k { (m1.sl k) with g := SMap.put 0 g v (m1.sl k).g }, s.pending⟩) ∧
    (∀ i v, r.what = .ctl i v → exec (.slResultLand d n) s = .next ⟨m1.slCtlWr k i v, s.pending⟩) ∧
    (∀ v, r.what = .feed v → exec (.slResultLand d n) s = .next ⟨m1.setSl k ((m1.sl k).feed v), s.pending⟩) ∧
    (∀ mask, r.what = .fclr mask → exec (.slResultLand d n) s = .next ⟨clearEvents m1 k mask, s.pending⟩) ∧
    (∀ mode, r.what = .arst mode → exec (.slResultLand d n) s =
      .next ⟨m1.setSl k { (m1.sl k) with auxMode := mode, auxBest := none, auxCount := 0 }, s.pending⟩) ∧
    (∀ (a : Nat) (zero : Bool) (re im : Int) (norm : Option (Nat × Nat)), r.what = .acc a zero re im norm →
      ∃ (old : Int × Int) (cr ci : Int × Bool) (m2 m3 : Mach), old = (if zero then (0, 0) else m1.slAcc k r.shadow a) ∧
      cr = sat48 (old.1 + re) ∧ ci = sat48 (old.2 + im) ∧
      m2 = m1.setSl k { (m1.sl k) with acc := SMap.put (0, 0) (4 * b2n r.shadow + a) (cr.1, ci.1) (m1.sl k).acc } ∧
      m3 = (if cr.2 || ci.2 then m2.slEv k F.slEventsAov else m2) ∧
      (norm = none → exec (.slResultLand d n) s = .next ⟨m3, s.pending⟩) ∧
      (∀ g sh, norm = some (g, sh) → ∃ (y : Nat × Bool) (m4 : Mach), y = slNorm (cr.1, ci.1) sh ∧
        m4 = m3.setSl k { (m3.sl k) with flight := (m3.sl k).flight ++ [⟨r.due + 2, r.order, r.shadow, .reg g y.1⟩] } ∧
        exec (.slResultLand d n) s = .next ⟨if y.2 then m4.slEv k F.slEventsNsat else m4, s.pending⟩))) ∧
  (∀ i : Int, (-(2 : Int) ^ 47 ≤ i → i < (2 : Int) ^ 47 → sat48 i = (i, false)) ∧ ((2 : Int) ^ 47 ≤ i → sat48 i = ((2 : Int) ^ 47 - 1, true)) ∧
    (i < -(2 : Int) ^ 47 → sat48 i = (-(2 : Int) ^ 47, true))) ∧
  (s.m.slTakes k = false ∨ x.busy = true → exec (.slInterrupt d n) s = .next s) ∧
  (∀ (j : Nat) (m1 m2 : Mach), s.m.slTakes k = true → x.busy = false →
    lowestSet 8 0 (s.m.rd F.slIrqPending p &&& s.m.rd F.slIrqEnable p) = some j →
    m1 = (s.m.wr F.slIretPc p (s.m.rd F.slStatusPc p)).wr F.slIrqPending p (clearBit j (s.m.rd F.slIrqPending p)) →
    m2 = m1.setSl k { x with frozen := x.loops, loops := [] } →
    exec (.slInterrupt d n) s = .next ⟨(m2.wr F.slStatusWaiting p 0).slSwap k true (s.m.rd F.slIvecPc (slSub k j)), s.pending⟩)

/-- 12 R291 to R295, R297 to R299: a slice's ports, its timer and its run bit. The oldest ingress word goes to the ring while it is not full, and after
SL_ING_THRESH words source 0 is pending; a fabric line or a raise makes its source pending; the timer's last step makes source 6 pending; the egress head
leaves while the fences are open; an outbox ends once every response has come, DONE with status OK; RUN is set or cleared by the masters R297 lets, others
are refused; an access outside both memories is answered DECODE, a write of program memory is refused to others and while the slice is not stopped. -/
def Obligations.SlicePortsAndRun : Prop :=
  ∀ (d : DieNo) (n : Fin 64) (s : State) (k p : Nat) (x : Slice), s.m.alive (.slice d.val) = true → k = slK d.val n.val → p = slIx k → x = s.m.sl k →
  (∀ len : Nat, len = s.m.rd F.slIngLen p → s.m.slFull k = (decide (len = 0) || ((s.m.rd F.slIngWr p : Int) + 4 - s.m.rd F.slIngRd p) % (len : Int) == 0)) ∧
  (∀ (ws : List Word) (same : Bool) (q : List Nat), q = (if s.m.slFenced k then x.ingress else x.ingress ++ (ws.map BitVec.toNat).take (64 - x.ingress.length)) →
    (s.m.slFull k = true ∨ q = [] → exec (.slIngressWord d n ws same) s = .next s) ∧
    (∀ v l, s.m.slFull k = false → q = v :: l → ∃ m1 m2 m3 : Mach,
      m1 = (s.m.setSl k { x with ingress := l, ingCount := x.ingCount + 1 }).slExtWrite k ((s.m.rd F.slIngBase p + s.m.rd F.slIngWr p) % 65536 / 4) v same ∧
      m2 = m1.wr F.slIngWr p ((s.m.rd F.slIngWr p + 4) % s.m.rd F.slIngLen p) ∧
      m3 = (if s.m.rd F.slIngThresh p ≤ x.ingCount + 1 then (m2.setSl k { (m2.sl k) with ingCount := 0 }).slPend k 0 else m2) ∧
      exec (.slIngressWord d n ws same) s = .next ⟨if m3.slFull k then (m3.slEv k F.slEventsIngFull).slPend k 1 else m3, s.pending⟩)) ∧
  (∀ t : Nat, t = s.m.rd F.slTimer p →
    (t = 0 ∨ (s.m.on F.slCtrlRun p = true ∧ s.m.on F.slStatusWaiting p = false) ∨ (∃ r ∈ x.flight, r.due < x.now + t) →
      exec (.slTimerExpiry d n) s = .next s) ∧
    (t ≠ 0 → s.m.on F.slCtrlRun p = false ∨ s.m.on F.slStatusWaiting p = true → (∀ r ∈ x.flight, x.now + t ≤ r.due) → ∃ m1 m2 : Mach,
      m1 = s.m.setSl k { x with now := x.now + t } ∧ m2 = (if s.m.on F.slCtrlRun p then m1.wrap F.slCycles p t else m1) ∧
      exec (.slTimerExpiry d n) s = .next ⟨(m2.wr F.slTimer p 0).slPend k 6, s.pending⟩)) ∧
  (∀ line : Fin 2, (s.m.slFenced k = false → exec (.slFabricIrq d n line) s = .next ⟨s.m.slPend k (4 + line.val), s.pending⟩) ∧
    (s.m.slFenced k = true → exec (.slFabricIrq d n line) s = .next s)) ∧
  (∀ (who : Nat), (fabricWho (k / 64) who = true →
      (∀ mask : Fin 256, exec (.slIrqRaise d n who mask) s = .next ⟨(s.m.orIn F.slIrqPending p mask.val).respond who rsOk, s.pending⟩) ∧
      exec (.slCtrlRun d n who false) s = .next ⟨(s.m.wr F.slCtrlRun p 0).respond who rsOk, s.pending⟩ ∧
      (s.m.rgnStep (k / 64) (slRegion k) < 3 → exec (.slCtrlRun d n who true) s = .next ⟨s.m.respond who rsOk, s.pending⟩) ∧
      (3 ≤ s.m.rgnStep (k / 64) (slRegion k) → s.m.slStopped k = false →
        exec (.slCtrlRun d n who true) s = .next ⟨(s.m.wr F.slCtrlRun p 1).respond who rsOk, s.pending⟩) ∧
      (∀ m1 : Mach, 3 ≤ s.m.rgnStep (k / 64) (slRegion k) → s.m.slStopped k = true →
        m1 = s.m.setSl k { x with wbase := 0, loops := [], frozen := [], auxMode := 0, auxBest := none, auxCount := 0, issued := none } →
        exec (.slCtrlRun d n who true) s = .next ⟨((((m1.wr F.slStatusInHandler p 0).wr F.slStatusWaiting p 0).wr F.slStatusPc p (s.m.rd F.slStartPc p)).wr
          F.slCtrlRun p 1).respond who rsOk, s.pending⟩)) ∧
    (fabricWho (k / 64) who = false → (∀ mask, exec (.slIrqRaise d n who mask) s = .next ⟨s.m.respond who rsRefused, s.pending⟩) ∧
      (∀ run, exec (.slCtrlRun d n who run) s = .next ⟨s.m.respond who rsRefused, s.pending⟩))) ∧
  (x.egress = [] ∨ s.m.slFenced k = true → exec (.sliceEgressTransfer d n) s = .next s) ∧
  (∀ (v : Nat) (l : List Nat), x.egress = v :: l → s.m.slFenced k = false →
    exec (.sliceEgressTransfer d n) s = .next ⟨(s.m.setSl k { x with egress := l }).send (.sliceOut (k / 64) (k % 64) v), s.pending⟩) ∧
  (x.outbox = none → exec (.xferEnd d n) s = .next s) ∧
  (∀ o st : Nat, (x.outbox = some (o, false, st) → exec (.xferEnd d n) s = .next ⟨s.m.slXferSend k o, s.pending⟩) ∧
    (x.outbox = some (o, true, st) →
      ((∃ y ∈ s.m.outs (niKey (k / 64) 60), y.who = 0x3000 + k ∧ y.late = false) → exec (.xferEnd d n) s = .next s) ∧
      ((∀ y ∈ s.m.outs (niKey (k / 64) 60), y.who = 0x3000 + k → y.late = true) → exec (.xferEnd d n) s =
        .next ⟨(((s.m.setSl k { x with outbox := none }).wr F.xferState (slSub k o) (if st = 0 then 2 else 3)).wr F.xferRsp (slSub k o) st).slPend k 2, s.pending⟩))) ∧
  (∀ (who len : Nat) (off : Fin 0x20000) (w : Option (List Byte × List Bool)) (same : Bool),
    exec (.slExternalAccess d n who off len w same) s = .next ⟨(s.m.slAccess k who off.val len w same).2.2.2.send (.resp who
      (s.m.slAccess k who off.val len w same).1 (s.m.slAccess k who off.val len w same).2.1 (s.m.slAccess k who off.val len w same).2.2.1), s.pending⟩) ∧
  (∀ (who len off : Nat) (same : Bool) (data : List Byte) (en : List Bool) (pad : Nat), pad = off % 4 →
    ((off < 0x4000 ∨ 0x8000 < off + len) → (off < 0x10000 ∨ 0x20000 < off + len) → s.m.slAccess k who off len none same = (rsDecode, [], 0, s.m)) ∧
    (0x4000 ≤ off ∧ off + len ≤ 0x8000 ∨ 0x10000 ≤ off ∧ off + len ≤ 0x20000 → s.m.slAccess k who off len none same =
      (rsOk, (s.m.slExtRead k off len same).1, if (s.m.slExtRead k off len same).2 then 2 else 0, s.m)) ∧
    ((off < 0x4000 ∨ 0x8000 < off + data.length) → (off < 0x10000 ∨ 0x20000 < off + data.length) →
      s.m.slAccess k who off len (some (data, en)) same = (rsDecode, [], 0, s.m)) ∧
    (0x4000 ≤ off → off + data.length ≤ 0x8000 → (fabricWho (k / 64) who = false ∨ s.m.slStopped k = false) →
      s.m.slAccess k who off len (some (data, en)) same = (rsRefused, [], 0, s.m)) ∧
    (0x4000 ≤ off ∧ off + data.length ≤ 0x8000 ∧ fabricWho (k / 64) who = true ∧ s.m.slStopped k = true ∨ 0x10000 ≤ off ∧ off + data.length ≤ 0x20000 →
      s.m.slAccess k who off len (some (data, en)) same = (rsOk, [], 0, s.m.slExtPuts k same ((off + data.length + 3) / 4 - off / 4) (off / 4)
        (List.replicate pad (0 : Byte) ++ data) (List.replicate pad false ++ en))))

/-- 14 R330, R334 to R341: a lane's bring-up. In a state that is not ACTIVE each event moves the lane as Table 14-3 says: a detected or undetectable
partner to TRAIN, settling to BIT_LOCK with its loss estimate, ten microseconds of lock to BLOCK_LOCK (in RAW and loopback to ACTIVE), 64 valid headers
in a row to CAPS; 16 invalid ones of the last 64 end the block lock;
a timeout goes to DOWN, at a rate above BASE_RATE to TRAIN at BASE_RATE with the rate failed; DOWN restarts; LOS and LOL lead to DOWN from TRAIN onwards;
RECAL starts only from DISABLED or DOWN; ENABLE waits for the hand-over and is refused where R341 forbids it. -/
def Obligations.LaneBringUp : Prop :=
  (∀ (d : DieNo) (i : Fin 48) (s : State) (n q : Nat), s.m.alive .uncore = true → n = lnK d.val i.val → q = lnIx n →
    (∀ who, laneWho (n / 48) who = true →
      (s.m.on F.lnCtrlEnable q = false → s.m.rawConflict n = true →
        exec (.laneEnable d i who) s = .next ⟨(s.m.ev F.lnEventsCfgRefused q).respond who rsOk, s.pending⟩) ∧
      (s.m.on F.lnCtrlEnable q = false → s.m.rawConflict n = false → s.m.handed (n / 48) = false →
        exec (.laneEnable d i who) s = .next ⟨(s.m.wr F.lnCtrlEnable q 1).respond who rsOk, s.pending⟩) ∧
      (s.m.on F.lnCtrlEnable q = false → s.m.rawConflict n = false → s.m.handed (n / 48) = true → s.m.lnState n = lsDisabled →
        exec (.laneEnable d i who) s = .next ⟨((s.m.wr F.lnCtrlEnable q 1).lnDetect n).respond who rsOk, s.pending⟩) ∧
      (s.m.lnState n ≠ lsRecal → exec (.laneDisable d i who) s = .next ⟨((s.m.wr F.lnCtrlEnable q 0).lnGo n lsDisabled).respond who rsOk, s.pending⟩) ∧
      (s.m.lnState n = lsRecal → exec (.laneDisable d i who) s = .next ⟨(s.m.wr F.lnCtrlEnable q 0).respond who rsOk, s.pending⟩) ∧
      ((s.m.lnState n = lsDisabled ∨ s.m.lnState n = lsDown) → exec (.laneRecal d i who) s = .next ⟨(s.m.lnGo n lsRecal).respond who rsOk, s.pending⟩) ∧
      (s.m.lnState n ≠ lsDisabled → s.m.lnState n ≠ lsDown →
        exec (.laneRecal d i who) s = .next ⟨(s.m.ev F.lnEventsRecalRefused q).respond who rsOk, s.pending⟩)) ∧
    (∀ who, laneWho (n / 48) who = true → s.m.on F.lnCtrlEnable q = true → exec (.laneEnable d i who) s = .next ⟨s.m.respond who rsOk, s.pending⟩) ∧
    (∀ who, laneWho (n / 48) who = true → s.m.on F.lnCtrlEnable q = false → s.m.rawConflict n = false → s.m.lnState n ≠ lsDisabled →
      exec (.laneEnable d i who) s = .next ⟨(s.m.wr F.lnCtrlEnable q 1).respond who rsOk, s.pending⟩) ∧
    (∀ who, laneWho (n / 48) who = false → exec (.laneEnable d i who) s = .next ⟨s.m.respond who rsRefused, s.pending⟩ ∧
      exec (.laneDisable d i who) s = .next ⟨s.m.respond who rsRefused, s.pending⟩ ∧ exec (.laneRecal d i who) s = .next ⟨s.m.respond who rsRefused, s.pending⟩) ∧
    (s.m.lnState n = lsRecal → exec (.recalDone d i) s =
      .next ⟨s.m.lnGo n (if s.m.on F.lnCtrlEnable q then lsDown else lsDisabled), s.pending⟩) ∧
    (s.m.lnState n ≠ lsRecal → exec (.recalDone d i) s = .next s) ∧
    (s.m.lnState n = lsDetect → exec (.detectPoll d i true) s = .next ⟨s.m.lnTrain n (s.m.lnFirst n), s.pending⟩) ∧
    (∀ found, s.m.lnState n ≠ lsDetect ∨ found = false → exec (.detectPoll d i found) s = .next s) ∧
    (∀ loss : Fin 81, (s.m.lnState n = lsTrain → exec (.trainSettled d i loss) s =
        .next ⟨(((s.m.wr F.lnLossDbX2 q loss.val).wr F.lnStatusRefOk q 1).wr F.lnStatusLos q 0).lnGo n lsBitLock, s.pending⟩) ∧
      (s.m.lnState n ≠ lsTrain → exec (.trainSettled d i loss) s = .next s)) ∧
    (s.m.lnState n = lsBitLock → exec (.bitLockHeld d i) s = .next ⟨(s.m.wr F.lnStatusLol q 0).lnGo n
      (if s.m.lnMode n = lmRaw ∨ s.m.lnLoops n then lsActive else lsBlockLock), s.pending⟩) ∧
    (s.m.lnState n ≠ lsBitLock → exec (.bitLockHeld d i) s = .next s) ∧
    (s.m.lnState n = lsBlockLock → 64 ≤ (s.m.lane n).run → ∃ m1 : Mach, m1 = (s.m.lnGo n lsCaps).wr F.lnStatusBlockLock q 1 ∧
      exec (.blockLockAcquired d i) s = .next ⟨(m1.setLane n { (m1.lane n) with hdrs := 0 }).lnCaps n, s.pending⟩) ∧
    (s.m.lnState n ≠ lsBlockLock ∨ (s.m.lane n).run < 64 → exec (.blockLockAcquired d i) s = .next s) ∧
    (∀ bad : Nat, bad = bitCount 64 (s.m.lane n).hdrs →
      (s.m.on F.lnStatusBlockLock q = true → 16 ≤ bad → s.m.lnState n = lsActive →
        exec (.blockLockLost d i) s = .next ⟨(s.m.ev F.lnEventsBlockLost q).lnGo n lsBlockLock, s.pending⟩) ∧
      (s.m.on F.lnStatusBlockLock q = true → 16 ≤ bad → s.m.lnState n ≠ lsActive →
        exec (.blockLockLost d i) s = .next ⟨s.m.wr F.lnStatusBlockLock q 0, s.pending⟩) ∧
      (s.m.on F.lnStatusBlockLock q = false ∨ bad < 16 → exec (.blockLockLost d i) s = .next s)) ∧
    (∀ rate, (s.m.lnState n = lsTrain ∨ s.m.lnState n = lsBitLock ∨ s.m.lnState n = lsBlockLock) → rate = s.m.rd F.lnStatusRate q →
      (s.m.lnMode n = lmRaw → exec (.bringupTimeout d i) s = .next ⟨s.m.lnGo n lsDown, s.pending⟩) ∧
      (s.m.lnMode n ≠ lmRaw → rate = s.m.rd F.lnCfgBaseRate q →
        exec (.bringupTimeout d i) s = .next ⟨(s.m.ev F.lnEventsTrainFail q).lnGo n lsDown, s.pending⟩) ∧
      (s.m.lnMode n ≠ lmRaw → rate ≠ s.m.rd F.lnCfgBaseRate q → exec (.bringupTimeout d i) s =
        .next ⟨((s.m.wr F.lnStatusFailedMask q (setBit rate (s.m.rd F.lnStatusFailedMask q))).ev F.lnEventsStepDown q).lnTrain n (s.m.rd F.lnCfgBaseRate q), s.pending⟩)) ∧
    (s.m.lnState n ≠ lsTrain → s.m.lnState n ≠ lsBitLock → s.m.lnState n ≠ lsBlockLock → exec (.bringupTimeout d i) s = .next s) ∧
    (s.m.lnState n = lsCaps → exec (.capsTimeout d i) s = .next ⟨s.m.lnGo n lsDown, s.pending⟩) ∧
    (s.m.lnState n ≠ lsCaps → exec (.capsTimeout d i) s = .next s) ∧
    (s.m.lnState n = lsStep → exec (.stepQuietEnd d i) s = .next ⟨s.m.lnTrain n (s.m.lane n).target, s.pending⟩) ∧
    (s.m.lnState n ≠ lsStep → exec (.stepQuietEnd d i) s = .next s) ∧
    (s.m.lnState n = lsDown → s.m.on F.lnCfgAutoRestart q = true → s.m.on F.lnCtrlEnable q = true →
      exec (.downRestart d i) s = .next ⟨s.m.lnDetect n, s.pending⟩) ∧
    (s.m.lnState n ≠ lsDown ∨ s.m.on F.lnCfgAutoRestart q = false ∨ s.m.on F.lnCtrlEnable q = false → exec (.downRestart d i) s = .next s) ∧
    (∀ ref, exec (.lol d i ref) s = .next ⟨if ref then (upFrom (n - n % 48) 48).foldl (fun m j => m.lnLol j true) s.m else s.m.lnLol n false, s.pending⟩) ∧
    (lsTrain ≤ s.m.lnState n → s.m.lnState n ≤ lsActive →
      exec (.los d i) s = .next ⟨((s.m.wr F.lnStatusLos q 1).ev F.lnEventsLos q).lnGo n lsDown, s.pending⟩ ∧
      s.m.lnLol n false = ((s.m.wr F.lnStatusLol q 1).ev F.lnEventsLol q).lnGo n lsDown ∧
      s.m.lnLol n true = (((s.m.wr F.lnStatusLol q 1).wr F.lnStatusRefOk q 0).ev F.lnEventsLol q).lnGo n lsDown) ∧
    (s.m.lnState n < lsTrain ∨ lsActive < s.m.lnState n → exec (.los d i) s = .next ⟨s.m.wr F.lnStatusLos q 1, s.pending⟩ ∧
      s.m.lnLol n false = s.m.wr F.lnStatusLol q 1 ∧ s.m.lnLol n true = (s.m.wr F.lnStatusLol q 1).wr F.lnStatusRefOk q 0)) ∧
  (∀ (m : Mach) (n st : Nat), st < 16 → (m.lnGo n st).lnState n = st ∧ (m.lnGo n st).mem = m.mem)

/-- 14 R333, R335 to R337, R341 to R343, R345, R346 and 18 R432: what a lane receives and sends. Every block's header counts for the block lock. A
CAPABILITY of another version is ignored; in CAPS the third identical block with ACK agrees the highest common rate, entering ACTIVE at the current rate
and STEP towards a higher one, DOWN without one, and each other one is answered; in ACTIVE a STEP block and a CAPABILITY without ACK leave it; a block with
a bad header is counted, others go to the frame port or, of the types that are passed, to the fabric's queue, dropped while the fences are closed or the
queue is full; a RAW slip marks the next word and counts; a BLOCK lane sends the fabric's word or IDLE blocks, a RAW lane the fabric's word. -/
def Obligations.LaneTraffic : Prop :=
  ∀ (d : DieNo) (i : Fin 48) (s : State) (n q w : Nat) (h : Mach), s.m.alive .uncore = true → n = lnK d.val i.val → q = lnIx n →
  w = blocksPer (s.m.rd F.lnStatusRate q) → h = s.m.lnHdr n false →
  (∀ (m : Mach) (bad : Bool) (x : Lane), x = m.lane n →
    (lsBlockLock ≤ m.lnState n → m.lnState n ≤ lsActive → m.lnMode n ≠ lmRaw → m.lnLoops n = false →
      m.lnHdr n bad = m.setLane n { x with hdrs := (2 * x.hdrs + b2n bad) % 2 ^ 64, run := if bad then 0 else min 64 (x.run + 1) }) ∧
    (m.lnState n < lsBlockLock ∨ lsActive < m.lnState n ∨ m.lnMode n = lmRaw ∨ m.lnLoops n = true → m.lnHdr n bad = m)) ∧
  exec (.idleBlock d i) s = .next ⟨h, s.pending⟩ ∧
  (∀ b : Word, (bitsOf 11 8 b.toNat ≠ 1 → exec (.capability d i b) s = .next ⟨h, s.pending⟩) ∧
    (h.lnState n ≠ lsActive → h.lnState n ≠ lsCaps → exec (.capability d i b) s = .next ⟨h, s.pending⟩) ∧
    (∀ (same r : Nat) (m1 : Mach), bitsOf 11 8 b.toNat = 1 → h.lnState n = lsCaps →
      same = (if bitOf 14 b.toNat then (if (h.lane n).caps = b.toNat ∧ 0 < (h.lane n).same then (h.lane n).same + 1 else 1) else 0) →
      m1 = (h.wr F.lnPartner q b.toNat).setLane n { (h.lane n) with ack := true, caps := b.toNat, same := same, asked := bitOf 7 b.toNat } →
      (same < 3 → exec (.capability d i b) s = .next ⟨m1.lnCaps n, s.pending⟩) ∧
      (3 ≤ same → highRate ((h.rd F.lnCfgRateMask q - (h.rd F.lnCfgRateMask q &&& h.rd F.lnStatusFailedMask q)) &&& (b.toNat % 128)) = none →
        exec (.capability d i b) s = .next ⟨(m1.ev F.lnEventsTrainFail q).lnGo n lsDown, s.pending⟩) ∧
      (3 ≤ same → highRate ((h.rd F.lnCfgRateMask q - (h.rd F.lnCfgRateMask q &&& h.rd F.lnStatusFailedMask q)) &&& (b.toNat % 128)) = some r →
        (r = h.rd F.lnStatusRate q → exec (.capability d i b) s = .next ⟨(m1.lnPrecode n r).lnGo n lsActive, s.pending⟩) ∧
        (h.rd F.lnStatusRate q < r → exec (.capability d i b) s =
          .next ⟨((m1.setLane n { (m1.lane n) with target := r }).lnSend n (List.replicate 16 (true, 0x3C + 256 * r))).lnGo n lsStep, s.pending⟩) ∧
        (r < h.rd F.lnStatusRate q → exec (.capability d i b) s = .next ⟨m1.lnCaps n, s.pending⟩))) ∧
    (bitsOf 11 8 b.toNat = 1 → h.lnState n = lsActive →
      (bitOf 14 b.toNat = false → h.lnMode n ≠ lmRaw → h.lnLoops n = false →
        exec (.capability d i b) s = .next ⟨(h.wr F.lnPartner q b.toNat).lnGo n lsCaps, s.pending⟩) ∧
      (bitOf 14 b.toNat = true ∨ h.lnMode n = lmRaw ∨ h.lnLoops n = true → exec (.capability d i b) s = .next ⟨h.wr F.lnPartner q b.toNat, s.pending⟩))) ∧
  (∀ t : Fin 8, (s.m.lnState n = lsActive → s.m.lnMode n ≠ lmRaw → s.m.lnLoops n = false → t.val < 7 → exec (.step d i t) s =
      .next ⟨((h.setLane n { (h.lane n) with target := t.val }).lnSend n (List.replicate 16 (true, 0x3C + 256 * t.val))).lnGo n lsStep, s.pending⟩) ∧
    (s.m.lnState n ≠ lsActive ∨ s.m.lnMode n = lmRaw ∨ s.m.lnLoops n = true ∨ t.val = 7 → exec (.step d i t) s = .next ⟨h, s.pending⟩)) ∧
  (∀ (ai : Fin 8) (sz : Fin 4), (s.m.lnMode n = lmFrame → exec (.alignBlock d i ai sz) s = .next ⟨h.lnBlock n (.align ai.val sz.val), s.pending⟩) ∧
    (s.m.lnMode n ≠ lmFrame → exec (.alignBlock d i ai sz) s = .next ⟨h, s.pending⟩)) ∧
  (∀ no, exec (.frameStart d i no) s = .next ⟨h.lnBlock n (.ctrl (0x4B + 256 * no.toNat)), s.pending⟩) ∧
  (∀ l : Fin 65536, exec (.lineStart d i l) s = .next ⟨h.lnBlock n (.ctrl (0x55 + 256 * l.val)), s.pending⟩) ∧
  (∀ c, exec (.frameEnd d i c) s = .next ⟨h.lnBlock n (.ctrl (0x66 + 256 * c.toNat)), s.pending⟩) ∧
  (∀ v : BitVec 64, ((v.toNat % 256) ∈ [0x1E, 0x2D, 0x33, 0x3C, 0x4B, 0x55, 0x66] → exec (.user d i v) s = .next s) ∧
    ((v.toNat % 256) ∉ [0x1E, 0x2D, 0x33, 0x3C, 0x4B, 0x55, 0x66] → exec (.user d i v) s = .next ⟨h.lnBlock n (.ctrl v.toNat), s.pending⟩)) ∧
  (∀ (v : BitVec 64) (bad : Bool) (e : Nat) (m : Mach), m = s.m.lnHdr n bad →
    (m.lnLoops n = true → exec (.dataBlock d i v bad e) s =
      .next ⟨if m.lnState n = lsActive ∧ m.on F.lnLoopCheckEn q then m.cnt F.lnPrbsErrs q e else m, s.pending⟩) ∧
    (m.lnLoops n = false → m.lnMode n = lmRaw → exec (.dataBlock d i v bad e) s = .next ⟨m.rawRx n v.toNat, s.pending⟩) ∧
    (m.lnLoops n = false → m.lnMode n ≠ lmRaw → bad = false → exec (.dataBlock d i v bad e) s = .next ⟨m.lnBlock n (.data v.toNat), s.pending⟩) ∧
    (m.lnLoops n = false → m.lnMode n ≠ lmRaw → bad = true →
      (m.on F.lnStatusBlockLock q = false → exec (.dataBlock d i v bad e) s = .next ⟨m, s.pending⟩) ∧
      (m.on F.lnStatusBlockLock q = true → m.lnMode n ≠ lmFrame → exec (.dataBlock d i v bad e) s = .next ⟨m.cnt F.lnHdrErrs q 1, s.pending⟩) ∧
      (m.on F.lnStatusBlockLock q = true → m.lnMode n = lmFrame →
        exec (.dataBlock d i v bad e) s = .next ⟨(m.cnt F.lnHdrErrs q 1).lnBlock n .bad, s.pending⟩))) ∧
  (∀ (m : Mach) (b : LnBlk) (v : Nat), (m.lnCarries n = false → m.lnBlock n b = m) ∧
    (m.lnCarries n = true → m.lnMode n = lmFrame → m.lnBlock n b = (match m.fpOf n with
      | none => m
      | some p => m.fpArrive p n b)) ∧
    (m.lnCarries n = true → m.lnMode n ≠ lmFrame → m.lnBlock n (.data v) = m.lnToFabric n (false, v) ∧ m.lnBlock n (.ctrl v) = m.lnToFabric n (true, v)) ∧
    (∀ c, (m.lnFenced n = true → m.lnToFabric n c = m) ∧
      (m.lnFenced n = false → 256 ≤ (m.lane n).rx.length → m.lnToFabric n c = m.ev F.lnEventsRxOverflow q) ∧
      (m.lnFenced n = false → (m.lane n).rx.length < 256 → m.lnToFabric n c = m.setLane n { (m.lane n) with rx := (m.lane n).rx ++ [c] }))) ∧
  (s.m.lnMode n = lmRaw → s.m.lnState n = lsActive → s.m.lnLoops n = false →
    exec (.rawSlip d i) s = .next ⟨(s.m.setLane n { (s.m.lane n) with slip := true }).cnt F.lnSlips q 1, s.pending⟩) ∧
  (s.m.lnMode n ≠ lmRaw ∨ s.m.lnState n ≠ lsActive ∨ s.m.lnLoops n = true → exec (.rawSlip d i) s = .next s) ∧
  (s.m.lnFenced n = false → s.m.lnMode n = 0 → w ≤ (s.m.lane n).rx.length → exec (.rxbTransfer d i) s =
    .next ⟨(s.m.setLane n { (s.m.lane n) with rx := (s.m.lane n).rx.drop w }).send (.laneRx (n / 48) (n % 48) ((s.m.lane n).rx.take w)), s.pending⟩) ∧
  (s.m.lnFenced n = true ∨ s.m.lnMode n ≠ 0 ∨ (s.m.lane n).rx.length < w → exec (.rxbTransfer d i) s = .next s) ∧
  (∀ (bs : List (Bool × BitVec 64)) (cs : List (Bool × Nat)), cs = bs.map (fun b => (b.1, b.2.toNat)) →
    (s.m.lnLoops n = true → exec (.txbTransfer d i bs) s = .next s) ∧
    (s.m.lnLoops n = false → s.m.lnMode n = lmRaw →
      (s.m.lnFenced n = true ∨ s.m.lnState n < lsDetect ∨ lsActive < s.m.lnState n → exec (.txbTransfer d i bs) s = .next s) ∧
      (s.m.lnFenced n = false → lsDetect ≤ s.m.lnState n → s.m.lnState n ≤ lsActive → exec (.txbTransfer d i bs) s = .next ⟨s.m.lnBits n []
        ((cs.flatMap (fun b => (upFrom 0 64).map (fun i => bitOf i b.2))).take (widthOf (s.m.rd F.lnCfgRawWidth q))), s.pending⟩)) ∧
    (s.m.lnMode n = lmFrame ∨ s.m.lnMode n = 3 ∨ (s.m.lnMode n = 0 ∧ s.m.lnCarries n = false) → exec (.txbTransfer d i bs) s = .next s) ∧
    (s.m.lnMode n = 0 → s.m.lnCarries n = true →
      (bs = [] ∨ s.m.lnFenced n = true → exec (.txbTransfer d i bs) s = .next ⟨s.m.lnSend n (List.replicate w (true, 0x1E)), s.pending⟩) ∧
      (bs ≠ [] → s.m.lnFenced n = false → bs.length ≠ w → exec (.txbTransfer d i bs) s = .next s) ∧
      (bs ≠ [] → s.m.lnFenced n = false → bs.length = w → exec (.txbTransfer d i bs) s = .next ⟨s.m.lnSend n (cs.map txBlock), s.pending⟩)))

/-- 14 R345 to R351: frame ports. A line that the fabric returns is written where its line belongs, or fails the frame's shape; the oldest frame that has
ended sends its event once nothing of it is left to write, and WR and the counters advance; a release that would pass COUNT is ignored; EN is refused where
R351 forbids it, else the alignment starts afresh, and clearing it ends the frame with LOCK_LOST. -/
def Obligations.FramePortCommands : Prop :=
  ∀ (d : DieNo) (k : Fin 6) (s : State) (p q : Nat), s.m.alive .uncore = true → p = 6 * d.val + k.val → q = fpIx p →
  (∀ (buf line : Nat) (l : List (Nat × Nat)) (data : List Byte) (m1 : Mach), (s.m.port p).tapOut = (buf, line) :: l →
    s.m.on F.frStatusFenced (rgnIx (p / 6) (2 * (p % 6))) = false → m1 = s.m.setPort p { (s.m.port p) with tapOut := l } →
    (data.length = 8 * s.m.rd F.fpShapeLineWords q → exec (.tapLineReturn d k data false) s = .next ⟨(m1.setPort p { (m1.port p) with
      writes := (s.m.port p).writes ++ [(buf, s.m.fpAddr p buf line 0, data)] }).fpPump p, s.pending⟩) ∧
    (∀ sh, data.length ≠ 8 * s.m.rd F.fpShapeLineWords q ∨ sh = true → exec (.tapLineReturn d k data sh) s = .next ⟨m1.fpFail p buf 2, s.pending⟩)) ∧
  ((s.m.port p).tapOut = [] ∨ s.m.on F.frStatusFenced (rgnIx (p / 6) (2 * (p % 6))) = true → ∀ data sh, exec (.tapLineReturn d k data sh) s = .next s) ∧
  (((s.m.fpPump p).port p).ended = [] → exec (.frameEvent d k) s = .next ⟨s.m.fpPump p, s.pending⟩) ∧
  (∀ (f : Frame) (l : List Frame) (m0 : Mach) (x : FramePort) (bytes : List Byte), m0 = s.m.fpPump p → x = m0.port p → x.ended = f :: l →
    bytes = leBytes 2 (m0.rd F.fpEventTag q) ++ leBytes 1 0x10 ++ leBytes 1 f.status ++ leBytes 2 p ++ leBytes 2 f.buf ++ leBytes 4 f.no ++
      leBytes 4 (f.bytes / max 1 (8 * m0.rd F.fpShapeLineWords q)) ++ leBytes 6 f.start ++ leBytes 6 f.stop ++ leBytes 4 x.overruns ++ leBytes 4 f.bytes ++
      List.replicate 28 (0 : Byte) →
    ((∃ w ∈ x.writes, w.1 = f.buf) ∨ (∃ w ∈ x.tapQ, w.1 = f.buf) ∨ (∃ w ∈ x.tapOut, w.1 = f.buf) → exec (.frameEvent d k) s = .next ⟨m0, s.pending⟩) ∧
    ((∀ w ∈ x.writes, w.1 ≠ f.buf) → (∀ w ∈ x.tapQ, w.1 ≠ f.buf) → (∀ w ∈ x.tapOut, w.1 ≠ f.buf) → ∃ m1 m2 : Mach,
      m1 = (m0.setPort p { x with ended := l, overruns := 0 }).mail (idFrame (p / 6) (p % 6)) (m0.rd F.fpEventMailbox q)
        ((upFrom 0 16).map (fun i => leNat ((bytes.drop (4 * i)).take 4))) ∧ m2 = (m1.wrap F.fpWr q 1).wrap F.fpFrames q 1 ∧
      (f.status = 0 → exec (.frameEvent d k) s = .next ⟨m2.fpPump p, s.pending⟩) ∧
      (∀ fld, fpEventFld f.status = some fld → exec (.frameEvent d k) s = .next ⟨((m2.ev fld q).cnt F.fpBad q 1).fpPump p, s.pending⟩))) ∧
  (∀ who, laneWho (p / 6) who = true →
    (∀ v : Fin 65536, (s.m.rd F.fpWr q + 65536 - v.val) % 65536 ≤ s.m.rd F.fpBufCount q →
      exec (.fpRdWrite d k who v) s = .next ⟨(s.m.wr F.fpRd q v.val).respond who rsOk, s.pending⟩) ∧
    (∀ v : Fin 65536, s.m.rd F.fpBufCount q < (s.m.rd F.fpWr q + 65536 - v.val) % 65536 →
      exec (.fpRdWrite d k who v) s = .next ⟨s.m.respond who rsOk, s.pending⟩) ∧
    exec (.fpCtrlEn d k who false) s = .next ⟨((s.m.wr F.fpCtrlEn q 0).fpEnd p 4).respond who rsOk, s.pending⟩ ∧
    (s.m.on F.fpCtrlEn q = false → (∀ n ∈ s.m.fpLanes p, s.m.lnMode n = lmFrame) →
      8 * s.m.rd F.fpShapeLines q * s.m.rd F.fpShapeLineWords q ≤ 64 * s.m.rd F.fpBufStride q → s.m.rd F.fpBufCount q ≠ 0 →
      (s.m.on F.fpCtrlTapEn q = true → s.m.rd F.fpShapeLineWords q % 2 = 0) → exec (.fpCtrlEn d k who true) s =
      .next ⟨((s.m.setPort p { (s.m.port p) with order := [], turn := 0 }).wr F.fpCtrlEn q 1).respond who rsOk, s.pending⟩) ∧
    (s.m.on F.fpCtrlEn q = true → exec (.fpCtrlEn d k who true) s = .next ⟨s.m.respond who rsOk, s.pending⟩) ∧
    (s.m.on F.fpCtrlEn q = false → ((∃ n ∈ s.m.fpLanes p, s.m.lnMode n ≠ lmFrame) ∨ s.m.rd F.fpBufCount q = 0 ∨
      64 * s.m.rd F.fpBufStride q < 8 * s.m.rd F.fpShapeLines q * s.m.rd F.fpShapeLineWords q ∨
      (s.m.on F.fpCtrlTapEn q = true ∧ s.m.rd F.fpShapeLineWords q % 2 = 1)) →
      exec (.fpCtrlEn d k who true) s = .next ⟨(s.m.ev F.fpEventsCfgRefused q).respond who rsOk, s.pending⟩)) ∧
  (∀ who, laneWho (p / 6) who = false → (∀ v, exec (.fpRdWrite d k who v) s = .next ⟨s.m.respond who rsRefused, s.pending⟩) ∧
    (∀ en, exec (.fpCtrlEn d k who en) s = .next ⟨s.m.respond who rsRefused, s.pending⟩))

/-- 13 R300 to R303, R308, R311 to R313, R323 to R325: the test port's instructions. TAP_RESET and IDCODE leave IDCODE loaded; loading another instruction
than RETRY or CFG_ABORT ends a load that wants a retry with code 3; the boundary instructions shift the boundary register out and in; an unlisted code is
BYPASS and a listed one is no such instruction; a load that begins starts a new header; shifted bits join those of a load in progress and are discarded
while a retry is wanted; RETRY drops the bits of a frame part received and takes the resent frame; CFG_STATUS shows its four registers; an abort ends a load
with code 6 and the last verified frame's address; a harvest captures a started region, may gate its clocks, and reads back three frames with their CRCs. -/
def Obligations.TestPortInstructions : Prop :=
  (∀ (m m1 : Mach) (code : Nat), m1 = m.setCfg { m.cfg with ir := code } →
    (m.retryWanted = true → code ≠ 0x12 → code ≠ 0x14 → code ≠ m.cfg.ir → m.setIr code = m1.cfgAbortWith 3 m.cfg.failed) ∧
    (m.retryWanted = false ∨ code = 0x12 ∨ code = 0x14 ∨ code = m.cfg.ir → m.setIr code = m1)) ∧
  (∀ (m : Mach) (enter wide : Bool) (n v : Nat),
    (m.retryWanted = true → (4160 ≤ m.cfg.dropped + n → m.takeBits enter wide n v = m.cfgAbortWith 3 m.cfg.failed) ∧
      (m.cfg.dropped + n < 4160 → m.takeBits enter wide n v = m.setCfg { m.cfg with dropped := m.cfg.dropped + n })) ∧
    (m.retryWanted = false → enter = true → (m.cfgState = csIdle ∨ m.cfgState = csFailed ∨ m.cfgState = csStarted) → ∃ m1 : Mach,
      m1 = m.setCfg { m.cfg with buf := v, len := n, base := m.cfgState, hdr := none, seen := [], waits := [], got := [] } ∧
      m.takeBits enter wide n v = (m1.wr F.cfgStatusWide 6 (b2n wide)).setCfgState csHeader) ∧
    (m.retryWanted = false → (m.cfgState = csHeader ∨ m.cfgState = csLoading ∨ m.cfgState = csPartial) → m.allTaken = false →
      m.takeBits enter wide n v = m.setCfg { m.cfg with buf := m.cfg.buf + v * 2 ^ m.cfg.len, len := m.cfg.len + n }) ∧
    (m.retryWanted = false → enter = false → (m.cfgState = csIdle ∨ m.cfgState = csFailed ∨ m.cfgState = csStarted) → m.takeBits enter wide n v = m)) ∧
  (∀ (s : State), s.m.alive .keeper = true →
    exec .tapReset s = .next ⟨s.m.setCfg { s.m.cfg with ir := 0x02 }, s.pending⟩ ∧
    exec .idcode s = .next ⟨(s.m.setIr 0x02).send (.tdo 32 0x1A006BC7), s.pending⟩ ∧
    (∀ (shift pins : BitVec 576) (m1 : Mach),
      (m1 = s.m.setIr 0x00 → exec (.extest shift pins) s = .next ⟨(m1.setCfg { m1.cfg with boundary := shift.toNat }).send (.tdo 576 pins.toNat), s.pending⟩) ∧
      (m1 = s.m.setIr 0x01 →
        exec (.samplePreload shift pins) s = .next ⟨(m1.setCfg { m1.cfg with boundary := shift.toNat }).send (.tdo 576 pins.toNat), s.pending⟩)) ∧
    exec .clamp s = .next ⟨s.m.setIr 0x03, s.pending⟩ ∧ exec .highz s = .next ⟨s.m.setIr 0x04, s.pending⟩ ∧
    (∀ code : Fin 256, (code.val ∉ tapCodes → exec (.bypass code) s = .next ⟨s.m.setIr code.val, s.pending⟩) ∧
      (code.val ∈ tapCodes → exec (.bypass code) s = .next s)) ∧
    (∀ (enter : Bool) (bits : List Bool) (m1 : Mach), m1 = (s.m.setIr 0x10).takeBits enter false bits.length (bitsNat bits) →
      exec (.cfgLoad enter bits) s = .next ⟨m1.send (.tdo 1 (b2n m1.retryWanted)), s.pending⟩) ∧
    (∀ (enter : Bool) (hs : List (BitVec 16)) (m1 : Mach), m1 = (s.m.setIr 0x11).takeBits enter true (16 * hs.length) (halves (hs.map BitVec.toNat)) →
      exec (.cfgWide enter hs) s = .next ⟨m1.send (.tdo 1 (b2n m1.retryWanted)), s.pending⟩) ∧
    (∀ (bits : List Bool), ∃ m1 m2 m3 : Mach, m1 = s.m.setCfg { s.m.cfg with ir := 0x12 } ∧
      m2 = (if s.m.cfg.ir ≠ 0x12 ∧ s.m.cfgBusy ∧ s.m.cfgState ≠ csHeader then m1.setCfg { m1.cfg with buf := 0, len := 0, resend := s.m.retryWanted } else m1) ∧
      m3 = (if m2.cfg.resend ∧ m2.retryWanted then
        m2.setCfg { m2.cfg with buf := m2.cfg.buf + bitsNat (bits.take (4160 - m2.cfg.len)) * 2 ^ m2.cfg.len, len := min 4160 (m2.cfg.len + bits.length) } else m2) ∧
      exec (.retry bits) s = .next ⟨m3.send (.tdo 1 (b2n m3.retryWanted)), s.pending⟩) ∧
    (∀ m1 : Mach, m1 = s.m.setIr 0x13 → exec .cfgStatus s = .next ⟨m1.send (.tdo 128 (m1.cfgStatusWord +
      2 ^ 32 * m1.rd F.cfgErrorCode 6 + 2 ^ 64 * m1.rd F.cfgFailAddr 6 + 2 ^ 96 * m1.rd F.cfgFramesOkCount 6)), s.pending⟩) ∧
    (∀ m1 : Mach, m1 = s.m.setCfg { s.m.cfg with ir := 0x14 } →
      (s.m.cfgBusy = true ∨ s.m.cfgState = csWaitDone → exec .cfgAbort s = .next ⟨m1.cfgAbortWith 6 s.m.lastVerified, s.pending⟩) ∧
      (s.m.cfgBusy = false → s.m.cfgState ≠ csWaitDone → exec .cfgAbort s = .next ⟨m1, s.pending⟩)) ∧
    (∀ (sel : Word) (d r : Nat) (m m1 : Mach), m = s.m.setIr 0x18 → d = sel.toNat / 2 ^ 29 → r = bitsOf 28 24 sel.toNat →
      (∀ h, m.cfg.hdr = some h → h.part = true → (d, r) ∈ h.regionList → exec (.harvestSel sel) s = .next ⟨m, s.pending⟩) ∧
      (m.cfg.hdr = none ∨ (∃ h, m.cfg.hdr = some h ∧ (h.part = false ∨ (d, r) ∉ h.regionList)) →
        (d < 6 → r < 24 → m.on F.frStatusStarted (rgnIx d r) = true →
          m1 = (m.setCfg { m.cfg with harvest := some (d, r, [m.harvestFrame d r 0, m.harvestFrame d r 1, m.harvestFrame d r 2]) }).wr
            F.cfgStatusHarvestReady 6 1 →
          exec (.harvestSel sel) s = .next ⟨if sel.toNat % 2 = 1 then m1.clkGate d r 0 else m1, s.pending⟩) ∧
        ((6 ≤ d ∨ 24 ≤ r ∨ m.on F.frStatusStarted (rgnIx d r) = false) → exec (.harvestSel sel) s =
          .next ⟨(m.setCfg { m.cfg with harvest := some (d, r, [0, 0, 0]) }).wr F.cfgStatusHarvestReady 6 1, s.pending⟩)))) ∧
  (∀ (s : State) (m : Mach), s.m.alive .uncore = true → m = s.m.setIr 0x19 →
    (m.cfg.harvest = none → exec .harvest s = .next ⟨m.send (.tdo 12480 0), s.pending⟩) ∧
    (∀ d r vs, m.cfg.harvest = some (d, r, vs) → exec .harvest s = .next ⟨m.send (.tdo 12480 (harvestBits d r 0 (nth 0 vs 0) +
      2 ^ 4160 * harvestBits d r 1 (nth 0 vs 1) + 2 ^ 8320 * harvestBits d r 2 (nth 0 vs 2))), s.pending⟩))

/-- 13 R305 to R314, R317, R319 to R322: loading the fabric. A header is judged once its words have come: a wrong sync word or IDCODE or a failed check ends
or refuses the load with its code and address, an accepted one takes its dies or regions back to hold and clears them; a frame with good CRC in its place is
written, a bad one wants a retry and a second bad one aborts with code 3, one outside the header's frames or seen before aborts with code 5; a verified
frame is counted, and the last one releases DONE; a gap or the backstop aborts with code 4, or 3 where a retry was wanted; start-up runs Table 13-6's steps
and ends in STARTED; a partial load starts once its FNIs' requests have ended. -/
def Obligations.FabricLoading : Prop :=
  (∀ (s : State) (v : Nat), s.m.alive .uncore = true → v = s.m.cfg.buf →
    (∀ (m : Mach) (code fail : Nat), (m.cfgState = csHeader → m.refuseHeader code fail = m.cfgAbortWith code fail) ∧
      (m.cfgState ≠ csHeader → m.refuseHeader code fail = (m.setCfg { m.cfg with buf := 0, len := 0 }).cfgError code fail)) ∧
    (s.m.cfg.len < 32 ∨ (s.m.cfgState ≠ csHeader ∧ s.m.cfgState ≠ csPartial ∧ s.m.cfgState ≠ csWaitDone) ∨ (s.m.cfgState = csPartial ∧ s.m.allTaken = false) →
      exec .streamHeader s = .next s) ∧
    (32 ≤ s.m.cfg.len → s.m.cfgState = csHeader ∨ (s.m.cfgState = csPartial ∧ s.m.allTaken = true) ∨ s.m.cfgState = csWaitDone →
      (cfgWord v 0 ≠ 0xC0F6A55A → exec .streamHeader s = .next ⟨s.m.refuseHeader 2 0, s.pending⟩) ∧
      (cfgWord v 0 = 0xC0F6A55A → ∃ m1 : Mach, m1 = s.m.cfgError 0 0 ∧
        (s.m.cfg.len < 64 → exec .streamHeader s = .next ⟨m1, s.pending⟩) ∧
        (64 ≤ s.m.cfg.len → cfgWord v 1 % 2 ^ 28 ≠ 0xA006BC7 ∨ 1 < cfgWord v 1 / 2 ^ 28 →
          exec .streamHeader s = .next ⟨m1.refuseHeader 1 (cfgWord v 1), s.pending⟩) ∧
        (cfgWord v 1 % 2 ^ 28 = 0xA006BC7 → cfgWord v 1 / 2 ^ 28 ≤ 1 →
          (64 ≤ s.m.cfg.len → s.m.cfg.len < 512 → exec .streamHeader s = .next ⟨m1, s.pending⟩) ∧
          (∀ e, 512 ≤ s.m.cfg.len → headerCheck s.m v = .inl e → exec .streamHeader s = .next ⟨m1.refuseHeader e.1 e.2, s.pending⟩) ∧
          (∀ (h : CfgHdr), 512 ≤ s.m.cfg.len → headerCheck s.m v = .inr h → ∃ m2 : Mach,
            m2 = (m1.setCfg { s.m.cfg with buf := v / 2 ^ 512, len := s.m.cfg.len - 512, hdr := some h, seen := [], waits := [], got := [], lastOk := none, dropped := 0 }).wr
              F.cfgFramesOkCount 6 0 ∧ exec .streamHeader s = .next ⟨if h.part then m2.acceptPart h else m2.acceptFull h, s.pending⟩)))) ∧
    (s.m.cfg.hdr = none ∨ s.m.cfg.len < 4160 ∨ s.m.allTaken = true ∨ (s.m.retryWanted = true ∧ s.m.cfg.resend = false) → exec .configFrame s = .next s) ∧
    (∀ (h : CfgHdr) (w a data : Nat) (rest : Mach), s.m.cfg.hdr = some h → 4160 ≤ s.m.cfg.len → s.m.allTaken = false →
      w = v % 2 ^ 4160 → a = w % 2 ^ 32 → data = w / 2 ^ 32 % 2 ^ 4096 →
      rest = s.m.setCfg { s.m.cfg with buf := v / 2 ^ 4160, len := s.m.cfg.len - 4160 } →
      (s.m.retryWanted = false → frameCrc w = w / 2 ^ 4128 →
        (h.covers a = true → SMap.get 0 a s.m.cfg.seen = 0 → exec .configFrame s = .next ⟨rest.putFrame a data false, s.pending⟩) ∧
        ((h.covers a = false ∨ SMap.get 0 a s.m.cfg.seen ≠ 0) → exec .configFrame s = .next ⟨s.m.cfgAbortWith 5 a, s.pending⟩)) ∧
      (s.m.retryWanted = false → frameCrc w ≠ w / 2 ^ 4128 → ∃ m1 : Mach,
        m1 = ((rest.setCfg { rest.cfg with failed := a, dropped := rest.cfg.len, buf := 0, len := 0, resend := false }).wr F.cfgStatusRetryWanted 6 1).setCfgState
          csRetry ∧ exec .configFrame s = .next ⟨if 8320 ≤ s.m.cfg.len then m1.cfgAbortWith 3 a else m1, s.pending⟩) ∧
      (s.m.retryWanted = true → s.m.cfg.resend = true →
        (frameCrc w ≠ w / 2 ^ 4128 ∨ a ≠ s.m.cfg.failed → exec .configFrame s = .next ⟨s.m.cfgAbortWith 3 s.m.cfg.failed, s.pending⟩) ∧
        (frameCrc w = w / 2 ^ 4128 → a = s.m.cfg.failed → ∃ m1 : Mach, m1 = ((rest.setCfg { rest.cfg with resend := false, dropped := 0 }).wr
            F.cfgStatusRetryWanted 6 0).setCfgState (if h.part then csPartial else csLoading) ∧
          (h.covers a = true → SMap.get 0 a s.m.cfg.seen = 0 → exec .configFrame s = .next ⟨m1.putFrame a data true, s.pending⟩) ∧
          ((h.covers a = false ∨ SMap.get 0 a s.m.cfg.seen ≠ 0) → exec .configFrame s = .next ⟨m1.cfgAbortWith 5 a, s.pending⟩)))) ∧
    (s.m.cfg.hdr = none ∨ s.m.cfg.waits = [] → exec .frameVerified s = .next s) ∧
    (∀ (h : CfgHdr) (a : Nat) (re : Bool) (l : List (Nat × Bool)) (n : Nat), s.m.cfg.hdr = some h → s.m.cfg.waits = (a, re) :: l →
      n = SMap.get 0 (a / 2 ^ 24) s.m.cfg.got + 1 → ∃ m1 m2 m3 : Mach,
      m1 = (s.m.setCfg { s.m.cfg with waits := l, got := SMap.put 0 (a / 2 ^ 24) n s.m.cfg.got, lastOk := some a }).wrap F.cfgFramesOkCount 6 1 ∧
      m2 = (if re then m1.cnt F.cfgRetries 6 1 else m1) ∧
      m3 = (if a / 2 ^ 24 % 32 < 24 ∧ n = regionFrames (a / 2 ^ 24 % 32) then
        m2.wr F.frStatusConfigured (rgnIx (a / 2 ^ 24 / 32) (a / 2 ^ 24 % 32)) 1 else m2) ∧
      (m3.rd F.cfgFramesOkCount 6 ≠ h.count ∨ h.part = true → exec .frameVerified s = .next ⟨m3, s.pending⟩) ∧
      (m3.rd F.cfgFramesOkCount 6 = h.count → h.part = false → exec .frameVerified s =
        .next ⟨((m3.wr F.cfgStatusDoneOut 6 1).wr F.cfgStatusDiesConfigured 6 (m3.rd F.cfgStatusDiesConfigured 6 ||| h.dies)).setCfgState csWaitDone, s.pending⟩)) ∧
    (∀ (vio : List (Fin 4)) (loads : List (Fin 8 × Fin 24 × Fin 64)), s.m.cfg.hdr = none ∨ s.m.cfgState ≠ csWaitDone → exec (.configStartup vio loads) s = .next s) ∧
    (∀ (h : CfgHdr) (vio : List (Fin 4)) (loads : List (Fin 8 × Fin 24 × Fin 64)) (m0 m1 : Mach), s.m.cfg.hdr = some h → s.m.cfgState = csWaitDone →
      m0 = (diesOf h.dies).foldl (fun m d => (upFrom 0 8).foldl (fun m b => if bankDie b = d then
        m.wr F.ioBankStatusVioDecl (ioIx b) (m.cfgNum d 31 5 0 8 (100 + 2 * b) 2) else m) (m.startPll d)) (s.m.wr F.cfgStatusDoneIn 6 1) →
      m1 = (diesOf h.dies).foldl (fun m d => m.dieHand d)
        (m0.startRegions h.regionList (vio.map Fin.val) (loads.map (fun x => (x.1.val, x.2.1.val, x.2.2.val)))) →
      exec (.configStartup vio loads) s = .next ⟨(m1.wr F.cfgDesignId 6 h.design).cfgDrop.setCfgState csStarted, s.pending⟩) ∧
    (∀ (vio : List (Fin 4)) (loads : List (Fin 8 × Fin 24 × Fin 64)), s.m.cfg.hdr = none ∨ s.m.cfgState ≠ csPartial ∨
      (∃ h, s.m.cfg.hdr = some h ∧ (s.m.rd F.cfgFramesOkCount 6 < h.count ∨ ∃ x ∈ h.regionList, ∃ f ∈ rgnFnis x.2, (s.m.fni (32 * x.1 + f)).tags ≠ [])) →
      exec (.partialRegionStart vio loads) s = .next s) ∧
    (∀ (h : CfgHdr) (vio : List (Fin 4)) (loads : List (Fin 8 × Fin 24 × Fin 64)), s.m.cfg.hdr = some h → s.m.cfgState = csPartial →
      h.count ≤ s.m.rd F.cfgFramesOkCount 6 → (∀ x ∈ h.regionList, ∀ f ∈ rgnFnis x.2, (s.m.fni (32 * x.1 + f)).tags = []) →
      exec (.partialRegionStart vio loads) s = .next ⟨(s.m.startRegions h.regionList (vio.map Fin.val)
        (loads.map (fun x => (x.1.val, x.2.1.val, x.2.2.val)))).cfgDrop.setCfgState csStarted, s.pending⟩)) ∧
  (∀ (s : State) (missing : Prop), s.m.alive .keeper = true →
    (missing ↔ (s.m.cfg.hdr = none ∨ ∃ h, s.m.cfg.hdr = some h ∧ s.m.rd F.cfgFramesOkCount 6 < h.count)) →
    (s.m.cfgBusy = true → missing → s.m.retryWanted = false → exec .gapTimeout s = .next ⟨s.m.cfgAbortWith 4 s.m.lastVerified, s.pending⟩) ∧
    (s.m.cfgBusy = true → missing → s.m.retryWanted = true → exec .gapTimeout s = .next ⟨s.m.cfgAbortWith 3 s.m.cfg.failed, s.pending⟩) ∧
    (s.m.cfgBusy = false ∨ ¬missing → exec .gapTimeout s = .next s) ∧
    ((s.m.cfgBusy = true ∨ s.m.cfgState = csWaitDone) → exec .tckBackstop s = .next ⟨s.m.cfgAbortWith 4 s.m.lastVerified, s.pending⟩) ∧
    (s.m.cfgBusy = false → s.m.cfgState ≠ csWaitDone → exec .tckBackstop s = .next s))

/-- 15 R357, R358, R360 to R363, R365, R371, R372, R374: messages on the host link, each answered with its TAG, WINDOW and ARG. WINDOW_SET takes sizes of
4 KiB to 4 GiB in pages with a direction, others are refused; WINDOW_CLEAR stops the rings based there; a doorbell that passes its ring, goes back or comes at
High-Speed is refused with BAD_DOORBELL; HELLO reports the absence and ends it; HELD_READ takes up to 64 held records in order; a request leaves the pipe
under its grant within its window, or fails; a response ends the oldest outstanding request, one out of order fails them all, a bad one sets BAD_RESPONSE;
events go out oldest first; while nothing is attached no message arrives. -/
def Obligations.HostLinkMessages : Prop :=
  ∀ (s : State), s.m.alive .keeper = true →
  (s.m.attached = true → ∀ g : Fin 65536,
    (∀ (w : Fin 16) (size : Nat) (r wr : Bool) (arg : Nat), arg = size + 2 ^ 33 * b2n r + 2 ^ 34 * b2n wr →
      ((size < 4096 ∨ 2 ^ 32 < size ∨ size % 4096 ≠ 0 ∨ (r = false ∧ wr = false)) →
        exec (.windowSet ⟨w, g⟩ size r wr) s = .next ⟨s.m.send (.peneb 0xA5 1 g.val w.val arg []), s.pending⟩) ∧
      (4096 ≤ size → size ≤ 2 ^ 32 → size % 4096 = 0 → (r = true ∨ wr = true) → exec (.windowSet ⟨w, g⟩ size r wr) s =
        .next ⟨((((s.m.wr F.hlWinValid (winIx w.val) 1).wr F.hlWinRead (winIx w.val) (b2n r)).wr F.hlWinWrite (winIx w.val) (b2n wr)).wr F.hlWinSize4k
          (winIx w.val) (size / 4096)).send (.peneb 0xA5 0 g.val w.val arg []), s.pending⟩)) ∧
    (∀ w : Fin 16, exec (.windowClear ⟨w, g⟩) s = .next ⟨((s.m.clearWindow w.val).stopRings w.val).send (.peneb 0xA5 0 g.val w.val 0 []), s.pending⟩) ∧
    (∀ (r : Fin 64) (i : Word) (q : Nat), q = ringIx r.val →
      (s.m.highSpeed = false → sub32 i.toNat (s.m.rd F.sqHead q) ≤ sqSize s.m r.val → sub32 i.toNat (s.m.rd F.sqTail q) < 2 ^ 31 →
        exec (.sqDoorbell ⟨r, g⟩ i) s = .next ⟨(s.m.wr F.sqTail q i.toNat).send (.peneb 0xA5 0 g.val 0 (i.toNat + 2 ^ 32 * r.val) []), s.pending⟩) ∧
      ((s.m.highSpeed = true ∨ sqSize s.m r.val < sub32 i.toNat (s.m.rd F.sqHead q) ∨ 2 ^ 31 ≤ sub32 i.toNat (s.m.rd F.sqTail q)) →
        exec (.sqDoorbell ⟨r, g⟩ i) s = .next ⟨(s.m.ev F.hlEventsBadDoorbell 6).send (.peneb 0xA5 1 g.val 0 (i.toNat + 2 ^ 32 * r.val) []), s.pending⟩) ∧
      (∀ m1 : Mach, s.m.highSpeed = false → sub32 (s.m.rd F.cqTail q) i.toNat ≤ cqSize s.m r.val →
        m1 = { s.m with hl := { s.m.hl with evSent := clearBit r.val s.m.hl.evSent } } → exec (.cqDoorbell ⟨r, g⟩ i) s =
        .next ⟨(m1.wr F.cqHead q i.toNat).send (.peneb 0xA5 0 g.val 0 (i.toNat + 2 ^ 32 * r.val + 2 ^ 40) []), s.pending⟩) ∧
      ((s.m.highSpeed = true ∨ cqSize s.m r.val < sub32 (s.m.rd F.cqTail q) i.toNat) → exec (.cqDoorbell ⟨r, g⟩ i) s =
        .next ⟨(s.m.ev F.hlEventsBadDoorbell 6).send (.peneb 0xA5 1 g.val 0 (i.toNat + 2 ^ 32 * r.val + 2 ^ 40) []), s.pending⟩)) ∧
    (∀ (v : Word) (ms rel : Nat), ms = (match s.m.hl.absentAt with
        | some t => (s.m.usec - t) / 1000
        | none => 0) → rel = s.m.rd F.fwReleaseRef 6 → ∃ (m1 m2 m3 : Mach), m1 = s.m.wr F.hostVersion 6 v.toNat ∧
      m2 = { m1 with hl := { m1.hl with absentAt := none }, alm := { m1.alm with jobs := m1.alm.jobs.map (fun (j : Job) => { j with grace := none }) } } ∧
      m3 = (if s.m.absent then (m2.wr F.hlStatusHostAbsent 6 0).wr F.hlAbsentMs 6 ms else m1) ∧ exec (.hello ⟨v, g⟩) s =
      .next ⟨m3.send (.peneb 0xA0 0 g.val 0 rel (leBytes 4 ms ++ leBytes 4 s.m.hl.held.length ++ leBytes 4 (s.m.rd F.hlHeldLost 6) ++ leBytes 4 rel ++
        List.replicate 16 0)), s.pending⟩) ∧
    (∀ n, 0 < n → n ≤ 64 → ∃ m1 : Mach, m1 = { s.m with hl := { s.m.hl with held := s.m.hl.held.drop n } } ∧ exec (.heldRead ⟨n, g⟩) s =
      .next ⟨m1.send (.peneb 0xA6 0 g.val 0 (s.m.hl.held.take n).length ((s.m.hl.held.take n).flatMap (fun c => c.bytes))), s.pending⟩) ∧
    (∀ n, (n = 0 ∨ 64 < n) → exec (.heldRead ⟨n, g⟩) s = .next ⟨s.m.send (.peneb 0xA6 1 g.val 0 0 []), s.pending⟩)) ∧
  (s.m.attached = true →
    (∀ e l, s.m.hl.events = e :: l → ∃ m1 : Mach, m1 = { s.m with hl := { s.m.hl with events := l } } ∧
      exec .event s = .next ⟨m1.send (.peneb 0xC0 e.kind e.tag 0 e.arg []), s.pending⟩) ∧
    exec (.keepalive true) s = .next s ∧ exec (.keepalive false) s = .next ⟨s.m.ev F.hlEventsBadResponse 6, s.pending⟩ ∧
    (∀ (tag st : Nat) (data : List Byte) (r : HostReq) (l : List (Nat × HostReq)) (m1 m2 : Mach), s.m.hl.outst = (tag, r) :: l →
      m1 = { s.m with hl := { s.m.hl with outst := l } } → m2 = { s.m with hl := { s.m.hl with outst := [] } } →
      (r.write = none → exec (.readData tag st data true) s = .next ⟨if st = 0 then m1.reqDone r data else m1.reqFail r, s.pending⟩) ∧
      (r.write.isSome = true → exec (.writeAck tag st true) s = .next ⟨if st = 0 then m1.reqDone r [] else m1.reqFail r, s.pending⟩) ∧
      (∀ g, g ≠ tag ∨ r.write = none → exec (.writeAck g st true) s =
        .next ⟨(m2.reqFails (r :: l.map (fun x => x.2))).ev F.hlEventsBadResponse 6, s.pending⟩) ∧
      (∀ g, g ≠ tag ∨ r.write.isSome = true → exec (.readData g st data true) s =
        .next ⟨(m2.reqFails (r :: l.map (fun x => x.2))).ev F.hlEventsBadResponse 6, s.pending⟩)) ∧
    (∀ tag st data ok, s.m.hl.outst = [] ∨ ok = false → exec (.readData tag st data ok) s = .next ⟨s.m.ev F.hlEventsBadResponse 6, s.pending⟩ ∧
      exec (.writeAck tag st ok) s = .next ⟨s.m.ev F.hlEventsBadResponse 6, s.pending⟩)) ∧
  (s.m.attached = false → (∀ w size r wr g, exec (.windowSet ⟨w, g⟩ size r wr) s = .next s) ∧ (∀ w g, exec (.windowClear ⟨w, g⟩) s = .next s) ∧
    (∀ r i g, exec (.sqDoorbell ⟨r, g⟩ i) s = .next s ∧ exec (.cqDoorbell ⟨r, g⟩ i) s = .next s) ∧ (∀ v g, exec (.hello ⟨v, g⟩) s = .next s) ∧
    (∀ n g, exec (.heldRead ⟨n, g⟩) s = .next s) ∧ exec .event s = .next s ∧ (∀ ok, exec (.keepalive ok) s = .next s) ∧
    (∀ tag st data ok, exec (.readData tag st data ok) s = .next s ∧ exec (.writeAck tag st ok) s = .next s)) ∧
  (∀ i : Fin 4, s.m.hl.waiting.find? (fun r => r.idx == i.val) = none ∨ (s.m.arb .proxy).holder.map (fun h => h.idx) ≠ some i.val ∨
    64 ≤ s.m.hl.outst.length → exec (.readReq i) s = .next s ∧ exec (.writeReq i) s = .next s) ∧
  (∀ (i : Fin 4) (r : HostReq) (hh : Holder) (m1 m2 : Mach), s.m.hl.waiting.find? (fun r => r.idx == i.val) = some r → (s.m.arb .proxy).holder = some hh →
    hh.idx = i.val → s.m.hl.outst.length < 64 → m1 = { s.m with hl := { s.m.hl with waiting := s.m.hl.waiting.erase r } } →
    m2 = m1.setArb .proxy { (s.m.arb .proxy) with holder := none } →
    (r.write = none → exec (.readReq i) s = .next ⟨m2.pipe r, s.pending⟩ ∧ exec (.writeReq i) s = .next s) ∧
    (r.write.isSome = true → exec (.writeReq i) s = .next ⟨m2.pipe r, s.pending⟩ ∧ exec (.readReq i) s = .next s)) ∧
  (∀ (m : Mach) (r : HostReq),
    (m.absent = true ∨ m.attached = false ∨ m.highSpeed = true ∨ m.winTakes r = false → m.pipe r = m.reqFail r) ∧
    (∀ m1 : Mach, m.absent = false → m.attached = true → m.highSpeed = false → m.winTakes r = true →
      m1 = { m with hl := { m.hl with outst := m.hl.outst ++ [(m.hl.nextTag, r)], nextTag := (m.hl.nextTag + 1) % 65536 } } →
      (r.write = none → m.pipe r = m1.send (.peneb 0x01 0 m.hl.nextTag r.win (r.off + r.len * 2 ^ 48) [])) ∧
      (∀ data, r.write = some data → m.pipe r = m1.send (.peneb 0x02 0 m.hl.nextTag r.win r.off data))))

/-- 15 R354, R356, R365, R369 to R371, R373: the host's presence and the rings. Attaching records the speed; a bus reset or the host's absence makes the link
absent: what is outstanding fails, what is formed is held, the windows clear, RUN clears and grace begins; a descriptor is fetched from the next ring in
turn with entries; a NOP descriptor ends OK; a record goes to its ring where it has room, is held where not, a held one first. -/
def Obligations.HostPresenceAndRings : Prop :=
  ∀ (s : State), s.m.alive .keeper = true →
  (∀ sp : Fin 5, sp ≠ 0 → exec (.usbAttach sp) s = .next ⟨(s.m.wr F.hlStatusAttached 6 1).wr F.hlStatusSpeed 6 sp.val, s.pending⟩) ∧
  exec (.usbAttach 0) s = .next s ∧
  exec .usbBusReset s = .next ⟨((s.m.goAbsent.ev F.hlEventsBusReset 6).wr F.hlStatusAttached 6 0).wr F.hlStatusSpeed 6 0, s.pending⟩ ∧
  exec .hostAbsent s = .next ⟨s.m.goAbsent, s.pending⟩ ∧ (s.m.absent = true → s.m.goAbsent = s.m) ∧
  (s.m.absent = false → s.m.goAbsent.absent = true ∧ s.m.goAbsent.hl.outst = [] ∧ s.m.goAbsent.hl.waiting = [] ∧ s.m.goAbsent.hl.formed = [] ∧
    s.m.goAbsent.on F.hlCtrlRun 6 = false ∧ s.m.goAbsent.on F.hlEventsHostAbsent 6 = true ∧ s.m.goAbsent.hl.absentAt = some s.m.usec ∧
    (∀ w, w < 16 → s.m.goAbsent.on F.hlWinValid (winIx w) = false) ∧ s.m.goAbsent.mem = s.m.mem) ∧
  (∀ r : Nat, s.m.ringPosts = true → ((upFrom (s.m.hl.lastRing + 1) 64).map (fun i => i % 64)).find? s.m.sqPending = some r → ∃ q : HostReq,
    q = ⟨0, s.m.rd F.sqWin (ringIx r), 64 * s.m.rd F.sqOff (ringIx r) + 64 * (s.m.rd F.sqHead (ringIx r) % sqSize s.m r), none, 64, .fetch r⟩ ∧
    exec .descriptorFetch s = .next ⟨{ s.m with hl := { s.m.hl with lastRing := r, waiting := s.m.hl.waiting ++ [q] } }, s.pending⟩) ∧
  (s.m.ringPosts = false ∨ ((upFrom (s.m.hl.lastRing + 1) 64).map (fun i => i % 64)).find? s.m.sqPending = none → exec .descriptorFetch s = .next s) ∧
  (∀ t, s.m.ticketOf 0 = some t → exec .nop s = .next ⟨s.m.endTicket t 0 stOk 0, s.pending⟩) ∧ (s.m.ticketOf 0 = none → exec .nop s = .next s) ∧
  (s.m.hl.held.find? (fun c => s.m.ringPosts && s.m.cqRoom c.ring) = none →
    (s.m.hl.formed = [] → exec .completionRecordWrite s = .next s) ∧
    (∀ (c : CRec) (l : List CRec) (m1 : Mach), s.m.hl.formed = c :: l → m1 = { s.m with hl := { s.m.hl with formed := l } } →
      (s.m.ringPosts = true → s.m.cqRoom c.ring = true → (∀ h ∈ s.m.hl.held, h.ring ≠ c.ring) →
        exec .completionRecordWrite s = .next ⟨m1.writeRec c, s.pending⟩) ∧
      ((s.m.ringPosts = false ∨ s.m.cqRoom c.ring = false ∨ ∃ h ∈ s.m.hl.held, h.ring = c.ring) →
        (s.m.hl.held.length < 4096 → exec .completionRecordWrite s = .next ⟨{ m1 with hl := { m1.hl with held := s.m.hl.held ++ [c] } }, s.pending⟩) ∧
        (4096 ≤ s.m.hl.held.length →
          exec .completionRecordWrite s = .next ⟨(m1.cnt F.hlHeldLost 6 1).ev F.hlEventsHeldOverflow 6, s.pending⟩)))) ∧
  (∀ c, s.m.hl.held.find? (fun c => s.m.ringPosts && s.m.cqRoom c.ring) = some c → ∃ m1 : Mach,
    m1 = { s.m with hl := { s.m.hl with held := s.m.hl.held.erase c } } ∧ exec .completionRecordWrite s = .next ⟨m1.writeRec c, s.pending⟩)

/-- 16 R378 to R382, R391 to R393, R395: processors, updates, attestation and the key. A processor boots in its turn from the preferred slot, from the other
when that fails, else its boot has failed; the first HEALTH to boot latches the release; a restarted ALMANAC restarts its copies and catches up; a crash
closes its mailboxes, records itself and starts it again, or holds it at the fourth crash in ten seconds; the watchdog crashes a processor that has not
kicked it for its period; the masters R393 lets restart a processor or release a hold, others are refused; an update asks for its image, then checks it and
replaces the slot that did not boot last; an attestation takes the nonce and signs its report; the key is fused once, by the test port. -/
def Obligations.FirmwareCommands : Prop :=
  (∀ (p : ProcNo) (s : State) (q : Nat), s.m.alive (procDom p.val) = true → q = procIx p.val →
    (∀ (m : Mach) (role first f1 f2 : Nat) (ref : Option Nat), role = procRole p.val →
      first = (if (m.proc p.val).useLast then m.rd F.fwStatusSlot q else SMap.get 0 role m.fw.prefer) →
      ref = (if m.fw.refLatched then some (m.rd F.fwReleaseRef 6) else none) →
      f1 = m.imageFault p.val ref (m.slot role first) → f2 = m.imageFault p.val ref (m.slot role (1 - first)) →
      (m.rd F.fwStatusState q ≠ 1 → (m.rd F.fwStatusState q ≠ 0 ∨ m.bootTurn p.val = false) → bootProc p.val m = m) ∧
      ((m.rd F.fwStatusState q = 0 ∧ m.bootTurn p.val = true) ∨ m.rd F.fwStatusState q = 1 →
        (∀ (sl : Nat) (x : FwImage) (m1 : Mach), (sl = first ∧ f1 = 0 ∨ sl = 1 - first ∧ f1 ≠ 0 ∧ f2 = 0) → m.slot role sl = some x →
          m1 = m.startImage p.val sl x →
          (p.val ≠ 3 ∨ m.fw.refLatched = true → bootProc p.val m = m1) ∧
          (p.val = 3 → m.fw.refLatched = false → ∃ m2 : Mach, m2 = { m1 with fw := { m1.fw with refLatched := true } } ∧
            bootProc p.val m = (bootOrder.drop 1).foldl (fun m r => m.wr F.fwStatusState (procIx r) 0) (m2.wr F.fwReleaseRef 6 x.release))) ∧
        (f1 ≠ 0 → f2 ≠ 0 → ∃ m1 : Mach, m1 = (m.wr F.fwStatusState q 4).wr F.fwStatusFail q f2 ∧
          bootProc p.val m = (if p.val = 3 ∧ m.fw.refLatched = false then (bootOrder.drop 1).foldl (fun m r => m.bootFailed r 3) m1 else m1)))) ∧
    (∀ m1 : Mach, m1 = bootProc p.val s.m →
      (p.val ≠ 1 ∨ m1.procUp 1 = false ∨ s.m.procUp 1 = true → exec (.boot p) s = .next ⟨m1, s.pending⟩) ∧
      (p.val = 1 → m1.procUp 1 = true → s.m.procUp 1 = false → ∃ (m2 : Mach) (migs : List Mig),
        m2 = { m1 with alm := { m1.alm with migs := migs } } ∧ exec (.boot p) s = .next ⟨if m2.on F.almCtrlRun 6 then m2.catchUp else m2, s.pending⟩ ∧
        migs = m1.alm.migs.map (fun g => match m1.tensorOfSlot g.slot with
          | some (_, t) => if (m1.partsOf (m1.pteEntry 0 (t.ptBase + g.page)) g).all (fun k => g.copied.contains k) then g else { g with copied := [] }
          | none => g))) ∧
    (∀ pc : Word, ((s.m.proc p.val).kicked + 1000 * s.m.rd F.fwWdtMs q ≤ s.m.procUsec p.val →
        exec (.watchdogExpiry p pc) s = .next ⟨s.m.crash p.val 1 pc.toNat 0, s.pending⟩) ∧
      (s.m.procUsec p.val < (s.m.proc p.val).kicked + 1000 * s.m.rd F.fwWdtMs q → exec (.watchdogExpiry p pc) s = .next s)) ∧
    (∀ (c : Fin 3) (pc addr : Word), exec (.processorCrash p c pc addr) s =
      .next ⟨s.m.crash p.val (c.val + 2) pc.toNat (if c.val = 1 then addr.toNat else 0), s.pending⟩) ∧
    (s.m.procUp p.val = false → ∀ cause pc addr, s.m.crash p.val cause pc addr = s.m) ∧
    (s.m.procUp p.val = true → ∀ cause pc addr, ∃ recent : List Nat,
      recent = (s.m.usec :: (s.m.proc p.val).crashes).filter (fun t => decide (s.m.usec < t + 10000000)) ∧
      (s.m.crash p.val cause pc addr).rd F.fwStatusState q = (if 4 ≤ recent.length then 3 else 1) ∧
      (s.m.crash p.val cause pc addr).fw.crashSeq = s.m.fw.crashSeq + 1 ∧ (s.m.crash p.val cause pc addr).mem = s.m.mem) ∧
    (∀ who (pc : Word), (fwWriter who = true → exec (.fwCtrlRestart p who pc) s = .next ⟨(s.m.crash p.val 5 pc.toNat 0).respond who rsOk, s.pending⟩) ∧
      (fwWriter who = false → exec (.fwCtrlRestart p who pc) s = .next ⟨s.m.respond who rsRefused, s.pending⟩ ∧
        exec (.fwCtrlReleaseHold p who) s = .next ⟨s.m.respond who rsRefused, s.pending⟩) ∧
      (fwWriter who = true →
        (s.m.rd F.fwStatusState q = 3 → exec (.fwCtrlReleaseHold p who) s =
          .next ⟨((s.m.respond who rsOk).wr F.fwStatusState q 1).setProc p.val { (s.m.proc p.val) with crashes := [], useLast := false }, s.pending⟩) ∧
        (s.m.rd F.fwStatusState q ≠ 3 → exec (.fwCtrlReleaseHold p who) s = .next ⟨if p.val = 3 ∧ s.m.rd F.fwStatusState q = 4 then
          (s.m.respond who rsOk).wr F.fwStatusState q 1 else s.m.respond who rsOk, s.pending⟩))) ∧
    (∀ who, (who = procId p.val → exec (.fwKick p who) s =
        .next ⟨(s.m.setProc p.val { (s.m.proc p.val) with kicked := s.m.procUsec p.val }).respond who rsOk, s.pending⟩) ∧
      (who ≠ procId p.val → exec (.fwKick p who) s = .next ⟨s.m.respond who rsRefused, s.pending⟩))) ∧
  (∀ (s : State), s.m.alive .keeper = true →
    (∀ (r : Fin 5) (w : Fin 16) (off len : Nat) (x : Io), x = s.m.io (updKey r.val) →
      (s.m.procUp 3 = false → exec (.fwUpdate r w off len) s = .next s) ∧
      (s.m.procUp 3 = true → s.m.rd F.fwUpdateStatusState 6 ≠ 1 → exec (.fwUpdate r w off len) s =
        .next ⟨((s.m.wr F.fwUpdateStatusState 6 1).setIo (updKey r.val) Io.none).askRead 3 (updKey r.val) w.val off len, s.pending⟩) ∧
      (s.m.procUp 3 = true → s.m.rd F.fwUpdateStatusState 6 = 1 → x.waits ≠ 0 → exec (.fwUpdate r w off len) s = .next s) ∧
      (s.m.procUp 3 = true → s.m.rd F.fwUpdateStatusState 6 = 1 → x.waits = 0 →
        (x.fail = true ∨ x.buf.length < 256 → exec (.fwUpdate r w off len) s =
          .next ⟨((s.m.setIo (updKey r.val) Io.none).wr F.fwUpdateStatusState 6 3).wr F.fwUpdateStatusReason 6 3, s.pending⟩) ∧
        (∀ (img : FwImage) (m0 : Mach), x.fail = false → 256 ≤ x.buf.length → m0 = s.m.setIo (updKey r.val) Io.none →
          img = ⟨x.buf.take 24 ++ x.buf.drop 256, Config.verify (leBytes 32 Config.vendorKey.toNat) (x.buf.take 24 ++ x.buf.drop 256) ((x.buf.drop 24).take 64) == 1,
            (x.buf.drop 88).take 64⟩ →
          (img.headerOk r.val (if r.val < 4 then procMem 0 else procMem 4) = false ∨ img.len ≠ x.buf.length - 256 → exec (.fwUpdate r w off len) s =
            .next ⟨(m0.wr F.fwUpdateStatusState 6 3).wr F.fwUpdateStatusReason 6 1, s.pending⟩) ∧
          (img.headerOk r.val (if r.val < 4 then procMem 0 else procMem 4) = true → img.len = x.buf.length - 256 →
            (m0.sigOk img = false → exec (.fwUpdate r w off len) s = .next ⟨(m0.wr F.fwUpdateStatusState 6 3).wr F.fwUpdateStatusReason 6 2, s.pending⟩) ∧
            (m0.sigOk img = true → ∃ (sl : Nat) (m1 : Mach), sl = 1 - SMap.get 0 r.val m0.fw.lastSlot ∧
              m1 = { m0 with fw := { m0.fw with flash := SMap.put none (2 * r.val + sl) (some img) m0.fw.flash, prefer := SMap.put 0 r.val sl m0.fw.prefer } } ∧
              exec (.fwUpdate r w off len) s = .next ⟨m1.wr F.fwUpdateStatusState 6 2, s.pending⟩))))) ∧
    (∀ who, s.m.on F.attestStatusBusy 6 = true → exec (.attestGo who) s = .next ⟨s.m.respond who rsOk, s.pending⟩) ∧
    (∀ (who : Nat) (m1 m2 : Mach) (n : List Nat), s.m.on F.attestStatusBusy 6 = false → n = (upFrom 0 8).map (fun w => s.m.rd F.attestNonce (ix 6 w 0 0)) →
      m1 = s.m.respond who rsOk → m2 = { m1 with fw := { m1.fw with nonce := n } } →
      exec (.attestGo who) s = .next ⟨(m2.wr F.attestStatusBusy 6 1).wr F.attestStatusReady 6 0, s.pending⟩) ∧
    (s.m.on F.attestStatusBusy 6 = true → ∃ (all : List Byte) (ws : List Nat) (m1 : Mach),
      all = attestBody s.m ++ leBytes 64 (Config.identitySign (attestBody s.m)).toNat ∧
      ws = (upFrom 0 200).map (fun i => leNat ((all.drop (4 * i)).take 4)) ∧ m1 = { s.m with fw := { s.m.fw with report := ws } } ∧
      exec .attestReady s = .next ⟨(m1.wr F.attestStatusBusy 6 0).wr F.attestStatusReady 6 1, s.pending⟩) ∧
    (s.m.on F.attestStatusBusy 6 = false → exec .attestReady s = .next s) ∧
    (∀ who, (who ≠ idTest ∨ s.m.fuses.intKey.isSome = true) → exec (.intKeyFuse who) s = .next ⟨s.m.respond who rsRefused, s.pending⟩) ∧
    (∀ (k : List Nat) (m1 : Mach), s.m.fuses.intKey = none → k = (upFrom 0 8).map (fun w => s.m.rd F.intKey (ix 6 w 0 0)) →
      m1 = { s.m with fuses := { s.m.fuses with intKey := some k } } → exec (.intKeyFuse idTest) s =
      .next ⟨(m1.wr F.keyStatusIntKeyPresent 6 1).respond idTest rsOk, s.pending⟩))

/-- 16 R383 to R389, 17 R402 and 10 R238: mailboxes. A message that has reached its port goes on once none before it came from its NI to its port: an open
mailbox stores it, FULL and doorbell set, a full one is overwritten and counted, and at a closed one its sender is told; the owner's read of word 0 latches
the message and its read of word 15 clears FULL unless another has come; a send port sends its sixteen words, or holds them while its last message is on
its way. -/
def Obligations.MailboxCommands : Prop :=
  (∀ (i : Nat) (s : State), s.m.alive (mailDom s.m i) = true → mayArrive s.m.fw.mails i = false → exec (.mailbox i) s = .next s) ∧
  (∀ (i : Nat) (s : State) (x : Mail), s.m.alive (mailDom s.m i) = true → s.m.fw.mails[i]? = some x → mbOf x.dest = none → exec (.mailbox i) s = .next s) ∧
  (∀ (i : Nat) (s : State) (x : Mail) (die j owner : Nat) (m1 : Mach), s.m.alive (mailDom s.m i) = true → mayArrive s.m.fw.mails i = true →
    s.m.fw.mails[i]? = some x → mbOf x.dest = some (die, j, owner) → m1 = { s.m with fw := { s.m.fw with mails := dropNth s.m.fw.mails i } } →
    (m1.mbOpen die j owner = true → exec (.mailbox i) s = .next ⟨(m1.mbArrive x.dest x.src x.words).1, s.pending⟩) ∧
    (m1.mbOpen die j owner = false → x.notice = false → exec (.mailbox i) s = .next ⟨m1.notice x.dest (procId owner) 2 x.src x.words, s.pending⟩) ∧
    (m1.mbOpen die j owner = false → x.notice = true → exec (.mailbox i) s = .next ⟨m1, s.pending⟩)) ∧
  (∀ (m : Mach) (n src die j owner : Nat) (ws : List Nat), mbOf n = some (die, j, owner) → m.mbOpen die j owner = true → ws.length = 16 →
    (m.mbArrive n src ws).2 = true ∧ (m.mbArrive n src ws).1.on F.mbStatusFull (mbPlace die j) = true ∧
    (m.mbArrive n src ws).1.rd F.mbStatusSender (mbPlace die j) = src % 65536 ∧ (m.mbArrive n src ws).1.mem = m.mem ∧
    (m.on F.mbStatusFull (mbPlace die j) = true → (m.mbArrive n src ws).1.on F.mbStatusCollide (mbPlace die j) = true ∧
      (m.mbArrive n src ws).1.rd F.mbOverwrites (mbPlace die j) = satAdd32 (m.rd F.mbOverwrites (mbPlace die j)) 1)) ∧
  (∀ (n who : Nat) (s : State), s.m.alive (boxDom n) = true → mbOf n = none →
    exec (.mailboxReadWord0 n who) s = .next s ∧ exec (.mailboxReadWord15 n who) s = .next s) ∧
  (∀ (n who : Nat) (s : State) (die j owner : Nat) (l : MbLatch) (m1 : Mach), s.m.alive (boxDom n) = true → mbOf n = some (die, j, owner) →
    m1 = s.m.send (.resp who rsOk (leBytes 4 (s.m.rd F.mbData (mbWordPlace die j 0))) 0) →
    (who ≠ procId owner → exec (.mailboxReadWord0 n who) s = .next ⟨m1, s.pending⟩) ∧
    (who = procId owner → l = ⟨(upFrom 0 16).map (fun w => s.m.rd F.mbData (mbWordPlace die j w)), s.m.rd F.mbStatusSender (mbPlace die j), false⟩ →
      exec (.mailboxReadWord0 n who) s =
        .next ⟨{ m1 with fw := { m1.fw with latches := SMap.put (MbLatch.mk [] 0 false) n l m1.fw.latches } }, s.pending⟩)) ∧
  (∀ (n who : Nat) (s : State) (die j owner : Nat) (l : MbLatch) (m1 : Mach), s.m.alive (boxDom n) = true → mbOf n = some (die, j, owner) →
    l = SMap.get (MbLatch.mk [] 0 false) n s.m.fw.latches →
    m1 = (s.m.send (.resp who rsOk (leBytes 4 (nth 0 l.words 15)) 0)).kindRead n (nth 0 l.words 0 % 256) →
    (who ≠ procId owner → exec (.mailboxReadWord15 n who) s =
      .next ⟨s.m.send (.resp who rsOk (leBytes 4 (s.m.rd F.mbData (mbWordPlace die j 15))) 0), s.pending⟩) ∧
    (who = procId owner → l.since = false → exec (.mailboxReadWord15 n who) s = .next ⟨m1.wr F.mbStatusFull (mbPlace die j) 0, s.pending⟩) ∧
    (who = procId owner → l.since = true → exec (.mailboxReadWord15 n who) s = .next ⟨m1, s.pending⟩)) ∧
  (∀ (m : Mach) (n kind : Nat), (n = 24 → 4 ≤ kind → kind < 16 → m.kindRead n kind = (m.wr F.vigilReqResultCode 6 2).wr F.vigilReqResultKind 6 kind) ∧
    (n ≠ 24 ∨ kind < 4 ∨ 16 ≤ kind → m.kindRead n kind = m)) ∧
  (∀ (port : Fin 2) (w : Word) (s : State) (src dest : Nat) (m0 : Mach) (ws : List Nat), s.m.alive .keeper = true →
    src = (if port.val = 0 then idHost else idTest) → m0 = s.m.wr F.mbSendData (ix 6 port.val 15 0) w.toNat →
    ws = (upFrom 0 16).map (fun i => m0.rd F.mbSendData (ix 6 port.val i 0)) → dest = m0.rd F.mbSendDest (ix 6 port.val 0 0) →
    (∀ who, who ≠ src → exec (.sendPortSend port who w) s = .next ⟨s.m.respond who rsRefused, s.pending⟩) ∧
    (m0.mailWaits src = true → exec (.sendPortSend port src w) s =
      .next ⟨{ m0 with fw := { m0.fw with sendHeld := SMap.put [] port.val ws m0.fw.sendHeld } }, s.pending⟩) ∧
    (m0.mailWaits src = false → exec (.sendPortSend port src w) s = .next ⟨((m0.mail src dest ws).wr F.mbSendState (ix 6 port.val 0 0)
      (if (mbOf dest).isSome || isSink dest then 1 else 3)).respond src rsOk, s.pending⟩))

/-- 17 R398, R399, R402 to R406, R410, R418 and 14 R344, 15 R356: states, supplies, resets and wakes. Standby starts Vigil from nothing, the rails follow; a
brown-out, MRESET_N or a keyed SW_RESET resets the module with its cause; HEALTH answers SET_STATE (BUSY where Table 17-5 forbids it), SET_CAP (within Table
17-10) and RELEASE_HOLD; its WAIT enters the state asked for, or finds a wake that came first; an enabled wake source is pending in ACTIVE, and below it
restores the domains or, from SOLSTICE, resets the module; the wake counter wakes WAKE_MS after entry; a trip enters SOLSTICE. -/
def Obligations.PowerStateCommands : Prop :=
  (∀ s : State,
    (s.m.pow.rails = 0 → ∃ n, exec .standbyPowerOn s = .next n ∧ n.m.pow = { PowSt.init with rails := 1 } ∧ n.m.fields = [] ∧ n.m.fuses = s.m.fuses ∧
      n.m.mem = [] ∧ n.m.out = s.m.out ∧ n.pending = s.pending) ∧
    (s.m.pow.rails ≠ 0 → exec .standbyPowerOn s = .next s)) ∧
  (∀ s : State, s.m.alive .vigil = true →
    (s.m.pow.rails = 1 → exec .railPowerUp s = .next ⟨s.m.setPow { s.m.pow with rails := 2 }, s.pending⟩) ∧
    (s.m.pow.rails ≠ 1 → exec .railPowerUp s = .next s) ∧
    exec .mresetN s = .next ⟨s.m.moduleReset 2, s.pending⟩ ∧
    (∃ n, exec (.brownOut 1) s = .next n ∧ n.m.pow = { PowSt.init with rails := 0 } ∧ n.m.fields = [] ∧ n.m.mem = []) ∧
    (s.m.pow.rails = 2 → ∃ m1 : Mach, m1 = s.m.moduleReset 3 ∧
      exec (.brownOut 0) s = .next ⟨m1.setPow { m1.pow with browned := some 0, rails := 1 }, s.pending⟩) ∧
    (s.m.pow.rails ≠ 2 → exec (.brownOut 0) s = .next s) ∧
    (∀ also : Fin 64, exec (.wakeIn also) s = .next ⟨s.m.wake (also.val ||| 1), s.pending⟩) ∧ exec .usbResume s = .next ⟨s.m.wake 2, s.pending⟩ ∧
    exec .testPortWake s = .next ⟨s.m.wake 32, s.pending⟩ ∧
    (∀ (d : DieNo) (i : Fin 48), exec (.laneWake d i) s = .next (if s.m.on F.lnCfgWake (lnIx (48 * d.val + i.val)) then ⟨s.m.wake 4, s.pending⟩ else s)) ∧
    (∀ ms, ms = s.m.rd F.vigilWakeMs 6 →
      (s.m.power ≠ 0 → ms ≠ 0 → s.m.pow.wakeAt + 1000 * ms ≤ s.m.usec → exec .wakeCounterExpiry s = .next ⟨s.m.wake 8, s.pending⟩) ∧
      (s.m.power = 0 ∨ ms = 0 ∨ s.m.usec < s.m.pow.wakeAt + 1000 * ms → exec .wakeCounterExpiry s = .next s)) ∧
    (∀ (j : Fin 31) (t : BitVec 16) (lvl : Int), lvl = 8 * (if j.val < 7 then 110 else 100) →
      (s.m.power ≠ 3 → t.toNat ≠ 0x8000 → lvl ≤ toSigned 16 t.toNat → exec (.thermalTrip j t) s =
        .next ⟨((s.m.wr F.vigilResetCauseTripped 6 1).setPow { s.m.pow with tripped := true, tripBy := j.val }).solstice, s.pending⟩) ∧
      (s.m.power = 3 ∨ t.toNat = 0x8000 ∨ toSigned 16 t.toNat < lvl → exec (.thermalTrip j t) s = .next s))) ∧
  (∀ (m : Mach) (mask act : Nat), act = mask % 64 &&& (if m.pow.tripped then clearBit 4 (m.rd F.vigilModeWakeEn 6) else m.rd F.vigilModeWakeEn 6) →
    (act = 0 → m.wake mask = m) ∧ (act ≠ 0 → m.power = 0 → m.wake mask = m.setPow { m.pow with pending := m.pow.pending ||| act }) ∧
    (act ≠ 0 → (m.power = 1 ∨ m.power = 2) → m.wake mask = (m.recordWake act).restored) ∧
    (act ≠ 0 → m.power = 3 → m.wake mask = (m.recordWake act).moduleReset (if m.pow.tripped then 4 else 6))) ∧
  (∀ s : State, s.m.alive .keeper = true →
    (∀ (who : Nat) (key : BitVec 16),
      (who = idHealth ∨ who = idTest ∨ who = idHost → key.toNat = 0x5EED → exec (.swReset who key) s = .next ⟨(s.m.moduleReset 5).respond who rsOk, s.pending⟩) ∧
      (who = idHealth ∨ who = idTest ∨ who = idHost → key.toNat ≠ 0x5EED → exec (.swReset who key) s = .next ⟨s.m.respond who rsOk, s.pending⟩) ∧
      (who ≠ idHealth → who ≠ idTest → who ≠ idHost → exec (.swReset who key) s = .next ⟨s.m.respond who rsRefused, s.pending⟩)) ∧
    (∀ (st : Fin 4) (w : Fin 64) (ms : Word) (ok : Prop),
      ok = (st.val = 0 ∨ (st.val = 1 ∧ s.m.mayIdle = true) ∨ (st.val = 2 ∧ s.m.mayNap = true) ∨ (st.val = 3 ∧ s.m.mayNap = true ∧ s.m.alm.plans = [])) →
      (s.m.procUp 3 = false ∨ s.m.on F.vigilStatusWaiting 6 = true → exec (.setState st w ms) s = .next s) ∧
      (s.m.procUp 3 = true → s.m.on F.vigilStatusWaiting 6 = false →
        (ok → exec (.setState st w ms) s = .next ⟨((((s.m.reqResult 1 0).wr F.vigilModeState 6 st.val).wr F.vigilModeWakeEn 6 w.val).wr F.vigilWakeMs 6
          ms.toNat).wr F.vigilStatusWaiting 6 1, s.pending⟩) ∧
        (¬ ok → exec (.setState st w ms) s = .next ⟨s.m.reqResult 1 1, s.pending⟩))) ∧
    (∀ (l : BitVec 16) (n : Byte),
      (s.m.procUp 3 = false → exec (.setCap l n) s = .next s) ∧
      (s.m.procUp 3 = true → 1600 ≤ l.toNat → l.toNat ≤ 2500 → 1 ≤ n.toNat → n.toNat ≤ 16 → exec (.setCap l n) s =
        .next ⟨((s.m.wr F.vigilCapLimit 6 l.toNat).wr F.vigilCapNMax 6 n.toNat).reqResult 2 0, s.pending⟩) ∧
      (s.m.procUp 3 = true → (l.toNat < 1600 ∨ 2500 < l.toNat ∨ n.toNat < 1 ∨ 16 < n.toNat) → exec (.setCap l n) s = .next ⟨s.m.reqResult 2 1, s.pending⟩)) ∧
    (∀ b : Byte, (s.m.procUp 3 = true → exec (.releaseHold b) s = .next ⟨(s.m.releaseBanks b.toNat).reqResult 3 0, s.pending⟩) ∧
      (s.m.procUp 3 = false → exec (.releaseHold b) s = .next s)) ∧
    (∀ (who : Nat) (b : Byte), ((who = idHealth ∨ who = idTest) → exec (.ioHoldRelease who b) s = .next ⟨(s.m.releaseBanks b.toNat).respond who rsOk, s.pending⟩) ∧
      (who ≠ idHealth → who ≠ idTest → exec (.ioHoldRelease who b) s = .next ⟨s.m.respond who rsRefused, s.pending⟩)) ∧
    (s.m.on F.vigilStatusWaiting 6 = false ∨ s.m.power ≠ 0 → exec .powerStateEnter s = .next s) ∧
    (s.m.on F.vigilStatusWaiting 6 = true → s.m.power = 0 → ∀ (woke st : Nat) (m1 : Mach), woke = s.m.pow.pending &&& s.m.rd F.vigilModeWakeEn 6 →
      st = s.m.rd F.vigilModeState 6 → m1 = s.m.setPow { s.m.pow with wakeAt := s.m.usec } →
      (st = 0 → exec .powerStateEnter s = .next ⟨s.m.wr F.vigilStatusWaiting 6 0, s.pending⟩) ∧
      (st ≠ 0 → woke ≠ 0 → exec .powerStateEnter s =
        .next ⟨(((s.m.recordWake woke).wr F.vigilStatusWaiting 6 0).reqResult 1 3).setPow { s.m.pow with pending := 0 }, s.pending⟩) ∧
      (st ≠ 0 → woke = 0 → exec .powerStateEnter s =
        .next ⟨if st = 1 then m1.wr F.vigilStatusState 6 1 else if st = 2 then m1.nap else m1.solstice, s.pending⟩)))

/-- 17 R407 to R409, R412 to R417 and 19 R439: capping, clocks, start-up and sensors. At a window's end n falls by one when power is above the limit or a
sensor at its cap, and rises by one after ten windows below both, within its bounds; a lock lost stops the clock and is reported, and lock comes back; a
fabric PLL that would pass 800 MHz is not enabled; start-up runs once after a reset, when HEALTH runs; a sample writes the readings and raises alerts and
the thermal wake; the I2C target takes a pointer, NACKs data and reads words; REFCLK_M is retried. -/
def Obligations.PowerClockAndSensorCommands : Prop :=
  (∀ s : State, s.m.alive .vigil = true →
    (∀ (w : Fin 65536) (n : Nat) (warm above : Bool) (a b : Mach), warm = (s.m.pow.warm || !s.m.capCool) →
      a = ((s.m.wr F.sensPowerW 6 w.val).setPow
        { s.m.pow with warm := false, watts := s.m.pow.watts + w.val, wattsN := s.m.pow.wattsN + 1 }).flowEnds →
      n = a.rd F.vigilCapN 6 → above = decide (a.rd F.vigilCapLimit 6 < w.val) → b = a.setPow { a.pow with windows := 0 } →
      (above = true ∨ a.capSensors ≠ [] → n ≤ 1 → exec (.capWindowEnd w) s = .next ⟨b, s.pending⟩) ∧
      (above = true ∨ a.capSensors ≠ [] → 1 < n → ∃ c : Mach,
        c = (((b.wr F.vigilCapN 6 (n - 1)).wr F.vigilCapPower 6 (b2n above)).wr F.vigilCapThermal 6 (b2n (!a.capSensors.isEmpty))).cnt F.vigilCapSteps 6 1 ∧
        exec (.capWindowEnd w) s = .next ⟨(if above then c.alert 5 0 else c).alertFirst 6 a.capSensors, s.pending⟩) ∧
      (above = false → a.capSensors = [] → ∀ (k : Nat) (c : Mach), k = a.pow.windows + 1 → c = a.setPow { a.pow with windows := k } →
        (w.val + a.rd F.vigilCapCfgHyst 6 < a.rd F.vigilCapLimit 6 → warm = false → exec (.capWindowEnd w) s =
          .next ⟨if 10 ≤ k ∧ n < a.rd F.vigilCapNMax 6 then c.wr F.vigilCapN 6 (n + 1) else c, s.pending⟩) ∧
        (a.rd F.vigilCapLimit 6 ≤ w.val + a.rd F.vigilCapCfgHyst 6 ∨ warm = true → exec (.capWindowEnd w) s = .next ⟨b, s.pending⟩))) ∧
    (∀ (rails : List (Fin 65536 × Fin 65536)) (temps : List (BitVec 16)) (m0 m1 : Mach) (hot : Bool),
      m0 = s.m.sampled (natPairs rails) (temps.map BitVec.toNat) s.m.pow.check →
      m1 = m0.setPow { m0.pow with check := false, warm := m0.pow.warm || !m0.capCool } →
      hot = (m1.tempGt 32 (m1.rd F.vigilThermWakeWake 6) || (m1.power == 2 && !m1.hotSensors.isEmpty)) →
      exec (.sensorSample rails temps) s = .next ⟨if hot then m1.wake 16 else m1.setPow { m1.pow with pending := clearBit 4 m1.pow.pending }, s.pending⟩) ∧
    exec (.i2cWrite []) s = .next s ∧
    (∀ (b : Byte) (l : List Byte), exec (.i2cWrite (b :: l)) s =
      .next ⟨l.foldl (fun m _ => m.send (.i2cAck false)) ((s.m.setPow { s.m.pow with i2c := b.toNat }).send (.i2cAck true)), s.pending⟩) ∧
    (∀ v, (∀ o, i2cReg s.m.pow.i2c = some o → v = s.m.rawWord 6 o) → (i2cReg s.m.pow.i2c = none → v = 0) → exec .i2cRead s =
      .next ⟨(s.m.setPow { s.m.pow with i2c := (s.m.pow.i2c + 1) % 256 }).send (.i2cWord v), s.pending⟩) ∧
    exec (.refclkRetry true) s = .next ⟨s.m.setPow { s.m.pow with refLost := false }, s.pending⟩ ∧
    (∃ t, exec (.refclkRetry false) s = .next t ∧ t.m.pow = { s.m.pow with refLost := true, started := false } ∧ t.m.mem = [] ∧ t.m.fuses = s.m.fuses)) ∧
  (∀ (d : DieNo) (i : Fin 6) (s : State), s.m.alive .uncore = true →
    (bitOf i.val (s.m.rd F.clkStatusLocked d.val) = true → ∀ m1 : Mach,
      m1 = (s.m.wr F.clkStatusLocked d.val (clearBit i.val (s.m.rd F.clkStatusLocked d.val))).orIn F.clkEventsLockLost d.val (2 ^ i.val) →
      exec (.pllLockLost d i) s = .next ⟨if m1.procUp 3 then m1.alert 9 d.val else m1, s.pending⟩) ∧
    (bitOf i.val (s.m.rd F.clkStatusLocked d.val) = false → exec (.pllLockLost d i) s = .next s) ∧
    (bitOf i.val (s.m.rd F.clkCtrlPllEn d.val) = true → s.m.power < 2 → exec (.pllLockReturn d i) s =
      .next ⟨s.m.wr F.clkStatusLocked d.val (setBit i.val (s.m.rd F.clkStatusLocked d.val)), s.pending⟩) ∧
    (bitOf i.val (s.m.rd F.clkCtrlPllEn d.val) = false ∨ 2 ≤ s.m.power → exec (.pllLockReturn d i) s = .next s) ∧
    (∀ (who : Nat) (v : Fin 64), (who = idHealth ∨ who = idTest) → exec (.pllEnable d who v) s = .next ⟨(s.m.pllEnable d.val v.val).respond who rsOk, s.pending⟩) ∧
    (∀ (who : Nat) (v : Fin 64), who ≠ idHealth → who ≠ idTest → exec (.pllEnable d who v) s = .next ⟨s.m.respond who rsRefused, s.pending⟩)) ∧
  (∀ (m : Mach) (d v : Nat), (∀ f ∈ [F.fpllOdivOdiv0, F.fpllOdivOdiv1, F.fpllOdivOdiv2, F.fpllOdivOdiv3], m.rd F.fpllCfgFb d ≤ 8 * m.rd f d) → v < 64 →
    (m.pllEnable d v).rd F.clkCtrlPllEn d = v ∧ (m.pllEnable d v).rd F.clkStatusLocked d = v) ∧
  (∀ (rails : List (Fin 65536 × Fin 65536)) (temps : List (BitVec 16)) (plls : List (DieNo × Fin 5)) (nears : List (Fin 24))
    (fars : List (Fin 24 × Fin 8 × Bool)) (s : State), s.m.alive .keeper = true →
    (s.m.procUp 3 = true → s.m.power = 0 → s.m.pow.started = false → ∀ m1 m2 : Mach,
      m1 = ((s.m.reports.sampled (natPairs rails) (temps.map BitVec.toNat) true).pllsStart (plls.map (fun x => (x.1.val, x.2.val)))).nearStart
        (nears.map (fun d => d.val)) →
      m2 = ((((m1.farStart (fars.map (fun x => (x.1.val, x.2.1.val + 1, x.2.2)))).nocStart).tilesSetUp).banksStart).runStart →
      exec (.startupSequence rails temps plls nears fars) s = .next ⟨m2.setPow { m2.pow with started := true }, s.pending⟩) ∧
    (s.m.procUp 3 = false ∨ s.m.power ≠ 0 ∨ s.m.pow.started = true → exec (.startupSequence rails temps plls nears fars) s = .next s))

/-- 00 R5 to R7, R9: what a write does to a field, by its access code. An rw field takes a legal encoding and keeps its value before a reserved one; an rws
field does so only while its function is stopped; a w1c field clears the bits written 1, but a bit that hardware sets in the same cycle ends set; ro, wo and
rc fields ignore the write; no byte of memory changes. -/
def Obligations.FieldsTakeWritesByAccessCode : Prop :=
  ∀ (m : Mach) (die o data hw : Nat) (f : Fld) (p v : Nat), v = bitsOf f.hi f.lo data →
  ((f.acc = .rw ∨ f.acc = .rws) → f.isLegal v = false → m.putFld die o data hw (f, p) = m) ∧
  (f.acc = .rw → f.isLegal v = true → (m.putFld die o data hw (f, p)).rd f p = v % 2 ^ f.width) ∧
  (f.acc = .rws → m.fieldStopped die o p = false → m.putFld die o data hw (f, p) = m) ∧
  (f.acc = .rws → m.fieldStopped die o p = true → f.isLegal v = true → (m.putFld die o data hw (f, p)).rd f p = v % 2 ^ f.width) ∧
  (f.acc = .w1c → ∀ i, i < f.width →
    (bitOf i (bitsOf f.hi f.lo hw) = true → bitOf i ((m.putFld die o data hw (f, p)).rd f p) = true) ∧
    (bitOf i (bitsOf f.hi f.lo hw) = false → bitOf i v = true → bitOf i ((m.putFld die o data hw (f, p)).rd f p) = false) ∧
    (bitOf i (bitsOf f.hi f.lo hw) = false → bitOf i v = false → bitOf i ((m.putFld die o data hw (f, p)).rd f p) = bitOf i (m.rd f p))) ∧
  ((f.acc = .ro ∨ f.acc = .wo ∨ f.acc = .rc) → m.putFld die o data hw (f, p) = m) ∧
  (m.putFld die o data hw (f, p)).mem = m.mem ∧ (m.putFld die o data hw (f, p)).fuses = m.fuses

/-- 00 R6, R8: a write of a register gives each of its rw fields its bits of the word, and a read of an rc field clears it but for the events of the same
cycle; fields of other registers keep their values. -/
def Obligations.RegisterWordsReachTheirFields : Prop :=
  ∀ (m : Mach) (die o data hw events : Nat) (x : Fld × Nat),
  (x ∈ fldsAt die o → (∀ y ∈ fldsAt die o, fkey y.1 y.2 = fkey x.1 x.2 → y = x) →
    (x.1.acc = .rw → x.1.isLegal (bitsOf x.1.hi x.1.lo data) = true →
      (m.putWord die o data hw).rd x.1 x.2 = bitsOf x.1.hi x.1.lo data % 2 ^ x.1.width) ∧
    (x.1.acc = .ro → (m.putWord die o data hw).rd x.1 x.2 = m.rd x.1 x.2) ∧
    (x.1.acc = .rc → (m.clearRead events (fldsAt die o)).rd x.1 x.2 = bitsOf x.1.hi x.1.lo events % 2 ^ x.1.width)) ∧
  ((∀ y ∈ fldsAt die o, fkey y.1 y.2 ≠ fkey x.1 x.2) → (m.putWord die o data hw).rd x.1 x.2 = m.rd x.1 x.2 ∧
    (m.clearRead events (fldsAt die o)).rd x.1 x.2 = m.rd x.1 x.2)

/-- 00 R4 and 10 R239, R19: what an access of a register meets first. An address that is no register's, and an offset outside the populated ranges, is answered
DECODE; an access that is not an aligned word is MALFORMED; a writer that the chapter does not let write is REFUSED; none of them changes a register. -/
def Obligations.RegisterAccessesAreGated : Prop :=
  ∀ (s : State) (who addr size die o : Nat) (data hw : Word), s.m.alive .keeper = true →
  ((∀ d x, placeOf s.m.fuses addr ≠ .reg d x) →
    exec (.registerWrite who addr size data hw) s = .next ⟨s.m.respond who rsDecode, s.pending⟩ ∧
    (∀ ev, exec (.readClear who addr ev) s = .next ⟨s.m.respond who rsDecode, s.pending⟩)) ∧
  (placeOf s.m.fuses addr = .reg die o →
    (regPopulated die o = false → exec (.registerWrite who addr size data hw) s = .next ⟨s.m.respond who rsDecode, s.pending⟩ ∧
      (∀ ev, exec (.readClear who addr ev) s = .next ⟨s.m.respond who rsDecode, s.pending⟩)) ∧
    (regPopulated die o = true → rowWindowAt die o = none → (size ≠ 4 ∨ o % 4 ≠ 0) →
      exec (.registerWrite who addr size data hw) s = .next ⟨s.m.respond who rsMalformed, s.pending⟩) ∧
    (regPopulated die o = true → rowWindowAt die o = none → o % 4 = 0 → s.m.alive (blockDom die o) = true → sliceMemAt die o = none →
      fniWindowAt die o = none → s.m.mayWriteReg die o who = false →
      exec (.registerWrite who addr 4 data hw) s = .next ⟨s.m.respond who rsRefused, s.pending⟩))

/-- 00 R4, R6, R8, 13 R326 and 15 R359: register commands. Each is answered with the status its access comes to, a read with its data, and an access that
is held answers later; the host's are the host identity's, answered in a Peneb reply with their tag, and nothing while it is not attached; the test port's
give their result to the next NET_ACCESS. A write that passes its gate reaches a register's fields, in the keeper's plain blocks all of them, and is OK; a
read returns the word and clears its rc fields but for the events of that cycle. -/
def Obligations.RegisterCommands : Prop :=
  (∀ s : State, s.m.alive .keeper = true →
    (∀ (who addr size : Nat) (data hw : Word) (m1 : Mach) (st : Nat),
      (s.m.busWrite who addr size data.toNat hw.toNat none = (some st, m1) →
        exec (.registerWrite who addr size data hw) s = .next ⟨m1.respond who st, s.pending⟩) ∧
      (s.m.busWrite who addr size data.toNat hw.toNat none = (none, m1) → exec (.registerWrite who addr size data hw) s = .next ⟨m1, s.pending⟩)) ∧
    (∀ (who addr ev st marks : Nat) (d : List Byte) (m1 : Mach),
      (s.m.busRead who addr 4 ev none = ⟨some st, d, marks, m1⟩ → exec (.readClear who addr ev) s = .next ⟨m1.send (.resp who st d marks), s.pending⟩) ∧
      (s.m.busRead who addr 4 ev none = ⟨none, d, marks, m1⟩ → exec (.readClear who addr ev) s = .next ⟨m1, s.pending⟩)) ∧
    (∀ (addr : Nat) (data : Word) (tag : Fin 65536), s.m.attached = false →
      exec (.regRead ⟨addr, tag⟩) s = .next s ∧ exec (.regWrite ⟨addr, tag⟩ data) s = .next s) ∧
    (∀ (addr : Nat) (tag : Fin 65536) (st marks : Nat) (d : List Byte) (m1 : Mach), s.m.attached = true →
      (s.m.busRead idHost addr 4 0 none = ⟨some st, d, marks, m1⟩ → exec (.regRead ⟨addr, tag⟩) s =
        .next ⟨m1.peneb 0xA4 (penebStatus st) tag.val 0 addr (if st = rsOk then d else []), s.pending⟩) ∧
      (s.m.busRead idHost addr 4 0 none = ⟨none, d, marks, m1⟩ → exec (.regRead ⟨addr, tag⟩) s = .next ⟨m1, s.pending⟩)) ∧
    (∀ (addr : Nat) (data : Word) (tag : Fin 65536) (st : Nat) (m1 : Mach), s.m.attached = true →
      (s.m.busWrite idHost addr 4 data.toNat 0 none = (some st, m1) → exec (.regWrite ⟨addr, tag⟩ data) s =
        .next ⟨m1.peneb 0xA5 (penebStatus st) tag.val 0 addr [], s.pending⟩) ∧
      (s.m.busWrite idHost addr 4 data.toNat 0 none = (none, m1) → exec (.regWrite ⟨addr, tag⟩ data) s = .next ⟨m1, s.pending⟩)) ∧
    (∀ (a : BitVec 48) (data : Word) (m m1 : Mach) (st marks : Nat) (d : List Byte),
      m = (s.m.netSettle.setIr 0x20).send (.tdo 120 s.m.netSettle.cfg.netCapture) →
      (m.cfg.netBusy = true → ∀ write, exec (.netAccess a data write) s = .next ⟨m, s.pending⟩) ∧
      (m.cfg.netBusy = false →
        (m.busWrite idTest a.toNat 4 data.toNat 0 none = (some st, m1) → exec (.netAccess a data true) s =
          .next ⟨m1.setCfg { m1.cfg with netBusy := false, netData := m.cfg.netData, netStatus := st, netDone := true }, s.pending⟩) ∧
        (m.busWrite idTest a.toNat 4 data.toNat 0 none = (none, m1) → exec (.netAccess a data true) s =
          .next ⟨m1.setCfg { m1.cfg with netBusy := true, netAt := m1.out.length, netDone := false }, s.pending⟩) ∧
        (m.busRead idTest a.toNat 4 0 none = ⟨some st, d, marks, m1⟩ → exec (.netAccess a data false) s =
          .next ⟨m1.setCfg { m1.cfg with netBusy := false, netData := leNat d, netStatus := st, netDone := true }, s.pending⟩) ∧
        (m.busRead idTest a.toNat 4 0 none = ⟨none, d, marks, m1⟩ → exec (.netAccess a data false) s =
          .next ⟨m1.setCfg { m1.cfg with netBusy := true, netAt := m1.out.length, netDone := false }, s.pending⟩)))) ∧
  (∀ (m : Mach) (addr o who : Nat), placeOf m.fuses addr = .reg 6 o →
    (∀ data hw : Nat, m.gate 6 o 4 who true = (none, false) → (blockOf o = 0 ∨ blockOf o = 4 ∨ blockOf o = 6) →
      m.busWrite who addr 4 data hw none = (some rsOk, m.putWord 6 o data hw)) ∧
    (∀ ev : Nat, m.gate 6 o 4 who false = (none, false) → blockOf o ≠ 2 → blockOf o ≠ 3 →
      m.busRead who addr 4 ev none = ⟨some rsOk, leBytes 4 (m.lookAll (fldsAt 6 o)), 0, m.clearRead ev (fldsAt 6 o)⟩))

/-- 18 R421 to R433: march runs, tile self-test, repair and retirement. Only HEALTH and the test port start or stop a run; a run starts at the first named bank
its group owns, and a second start does nothing; a transfer that gets no grant lengthens the run, one that does moves the bank in progress on by its mode's
step, and an abort ends it; a fence is ALMANAC's on a stopped tile without a share or the test port's; a self-test starts on a fenced, stopped tile, else
answers NOT_RUN, ends with its verdict and leaves the accumulator undefined; a repair is assigned by R430's table and recorded before the test that follows it,
and a tile whose faulty rows are as they were goes back to service, the third time into retirement; an unrepairable tile is retired. -/
def Obligations.SelfTestAndRepair : Prop :=
  (∀ (c : ClusterNo) (s : State) (p : Nat), s.m.alive (.sram (c.val / 10)) = true → p = clIx c.val →
    (∀ who d, exempt who = false → exec (.marchGo c who d) s = .next ⟨s.m.respond who rsRefused, s.pending⟩ ∧
      exec (.marchAbort c who) s = .next ⟨s.m.respond who rsRefused, s.pending⟩) ∧
    (∀ (who : Nat) (d : Word) (put : Mach → Fld → Nat → Mach) (m1 : Mach), exempt who = true → put = (fun m f v => if f.isLegal v then m.wr f p v else m) →
      m1 = (put (put (put (put s.m F.marchCtrlMode (bitsOf 3 2 d.toNat)) F.marchCtrlAlg (bitsOf 5 4 d.toNat)) F.marchCtrlBg (bitsOf 7 6 d.toNat))
        F.marchCtrlBanks (bitsOf 31 16 d.toNat)).respond who rsOk →
      (m1.on F.marchStatusBusy p = true → exec (.marchGo c who d) s = .next ⟨m1, s.pending⟩) ∧
      (m1.on F.marchStatusBusy p = false → ∀ r : March,
        r = { March.idle with mode := m1.rd F.marchCtrlMode p, alg := m1.rd F.marchCtrlAlg p, bg := m1.rd F.marchCtrlBg p } →
        exec (.marchGo c who d) s = .next ⟨(((m1.wr F.marchStatusBusy p 1).wr F.marchStatusNotPassed p 0).setMarch c.val r).marchReach c.val
          ((upFrom 0 16).filter (fun b => bitOf b (m1.rd F.marchCtrlBanks p))), s.pending⟩)) ∧
    (∀ (who : Nat) (m1 : Mach), exempt who = true → m1 = s.m.respond who rsOk →
      ((s.m.march c.val).banks = [] → exec (.marchAbort c who) s = .next ⟨m1, s.pending⟩) ∧
      (∀ b l, (s.m.march c.val).banks = b :: l →
        exec (.marchAbort c who) s = .next ⟨((m1.marchEarly c.val).marchStatus c.val b 4).marchReach c.val [], s.pending⟩)) ∧
    ((s.m.march c.val).banks = [] → ∀ u, exec (.marchTransfer c u) s = .next s) ∧
    (∀ (b : Nat) (l : List Nat) (u : List Nat) (g : Nat) (r : March), r = s.m.march c.val → r.banks = b :: l → g = c.val * 16 + b →
      (s.m.portBusy g 17 = true ∨ bankAdm s.m g (.local 17) = .held → exec (.marchTransfer c u) s = .next ⟨s.m.marchLost c.val, s.pending⟩) ∧
      (s.m.portBusy g 17 = false → bankAdm s.m g (.local 17) = .refused → exec (.marchTransfer c u) s =
        .next ⟨((s.m.bankRefuse g (.local 17)).marchEarly c.val).marchBankEnd c.val 5, s.pending⟩) ∧
      (s.m.portBusy g 17 = false → bankAdm s.m g (.local 17) = .ok → ∀ (m0 : Mach) (w a : Nat) (go : Mach → March → Nat → Bool → Mach),
        m0 = s.m.upsetLanes c.val u → w = 256 * r.seg + r.pos → a = bankBase g + 64 * w →
        go = (fun m x cy fin =>
          let m1 := m.setMarch c.val { x with failed := (m.march c.val).failed, recorded := (m.march c.val).recorded, cycles := x.cycles + cy }
          if fin then m1.marchBankEnd c.val (m1.march c.val).verdict else m1) →
        (r.mode = 0 → exec (.marchTransfer c u) s =
          .next ⟨go ((m0.marchWrite c.val b (2 * r.pos) (marchWord 0 0 false [])).marchWrite c.val b (2 * r.pos + 1) (marchWord 0 0 false []))
            { r with pos := r.pos + 1 } 1 (decide (10240 ≤ r.pos + 1)), s.pending⟩) ∧
        (r.mode = 1 → exec (.marchTransfer c u) s =
          .next ⟨go (m0.marchElem c.val b 0 20480 []).1 (marchNext r 20480).1 (m0.marchElem c.val b 0 20480 []).2 (marchNext r 20480).2, s.pending⟩) ∧
        (r.mode ≠ 0 → r.mode ≠ 1 →
          (r.step = 1 → ∀ (bad : List Nat) (rd : List Byte × Bool × Mach) (m1 : Mach) (r1 : March), bad = Sys2Proof.Machine.badLanes m0 a 0 16 →
            rd = m0.readWord g a → m1 = (match bad with
              | [] => rd.2.2
              | x :: _ => rd.2.2.marchFail c.val b w x 0x1F) →
            r1 = { r with save := r.save ++ [rd.1], saveBad := r.saveBad ++ [bad], pos := r.pos + 1 } →
            exec (.marchTransfer c u) s = .next ⟨go m1 (if r.pos + 1 = 256 then { r1 with pos := 0, step := 2 } else r1) 1 false, s.pending⟩) ∧
          (r.step = 2 → exec (.marchTransfer c u) s = .next ⟨go (m0.marchElem c.val b (256 * r.seg) 256 r.save).1
            (if (marchNext r 256).2 then { (marchNext r 256).1 with step := 3 } else (marchNext r 256).1)
            (2 * (m0.marchElem c.val b (256 * r.seg) 256 r.save).2) false, s.pending⟩) ∧
          (r.step = 3 → exec (.marchTransfer c u) s = .next ⟨go ((nth [] r.saveBad r.pos).foldl (fun m l => m.setLaneBad (laneOf a + l) true)
              (m0.marchWrite c.val b w (nth [] r.save r.pos)))
            (if r.pos + 1 = 256 then { r with pos := 0, step := 4 } else { r with pos := r.pos + 1 }) 1 false, s.pending⟩) ∧
          (r.step ≠ 1 → r.step ≠ 2 → r.step ≠ 3 → ∀ m1, m1 = m0.marchRead c.val b w (nth [] r.save r.pos) 0x1E →
            (r.pos + 1 = 256 → exec (.marchTransfer c u) s =
              .next ⟨go m1 { r with pos := 0, step := 1, seg := r.seg + 1, save := [], saveBad := [] } 1 (r.seg + 1 == 80), s.pending⟩) ∧
            (r.pos + 1 ≠ 256 → exec (.marchTransfer c u) s = .next ⟨go m1 { r with pos := r.pos + 1 } 1 false, s.pending⟩)))))) ∧
  (∀ (t : TileNo) (s : State) (p : Nat), s.m.alive (.core (t.val / 160)) = true → p = tileIx t.val →
    (∀ who on, who ≠ idAlmanac → who ≠ idTest → exec (.tileFenceWrite t who on) s = .next ⟨s.m.respond who rsRefused, s.pending⟩) ∧
    (s.m.tileStopped t.val = false ∨ s.m.tileHasShare t.val = true →
      exec (.tileFenceWrite t idAlmanac true) s = .next ⟨s.m.respond idAlmanac rsOk, s.pending⟩) ∧
    (∀ who on, (who = idTest ∨ (who = idAlmanac ∧ (on = false ∨ (s.m.tileStopped t.val = true ∧ s.m.tileHasShare t.val = false)))) →
      ((s.m.tile t.val).testing = true ∧ on = false → exec (.tileFenceWrite t who on) s =
        .next ⟨(s.m.setTile t.val { s.m.tile t.val with unfence := true }).respond who rsOk, s.pending⟩) ∧
      ((s.m.tile t.val).testing = false ∨ on = true → exec (.tileFenceWrite t who on) s =
        .next ⟨((s.m.setTile t.val { s.m.tile t.val with unfence := false }).wr F.tileFenceFenced p (b2n on)).respond who rsOk, s.pending⟩)) ∧
    (∀ (who : Nat) (r : Bool), exempt who = false → exec (.tileSelftestGo t who r) s = .next ⟨s.m.respond who rsRefused, s.pending⟩) ∧
    (∀ (who : Nat) (r : Bool), exempt who = true → (s.m.tile t.val).testing = true → exec (.tileSelftestGo t who r) s = .next ⟨s.m.respond who rsOk, s.pending⟩) ∧
    (∀ (who : Nat) (r : Bool) (m1 : Mach), exempt who = true → (s.m.tile t.val).testing = false →
      m1 = (s.m.wr F.tileSelftestUseRepair p (b2n r)).respond who rsOk →
      (m1.on F.tileFenceFenced p = true → m1.tileStopped t.val = true → exec (.tileSelftestGo t who r) s =
        .next ⟨(m1.setTile t.val { m1.tile t.val with testing := true, testRepair := r, tester := who }).wr F.tileSelftestResult p 1, s.pending⟩) ∧
      ((m1.on F.tileFenceFenced p = false ∨ m1.tileStopped t.val = false) → exec (.tileSelftestGo t who r) s =
        .next ⟨m1.wr F.tileSelftestResult p 4, s.pending⟩)) ∧
    (∀ (rows : BitVec 50) (j : Bool), (s.m.tile t.val).testing = false → exec (.tileSelftestEnd t rows j) s = .next s) ∧
    (∀ (rows : BitVec 50) (j rep fail : Bool) (used : List Nat) (m1 m2 m3 m4 : Mach) (x : Tile), x = s.m.tile t.val → x.testing = true → rep = x.testRepair →
      used = (if rep then usedRows (s.m.rd F.tileRepairSpare0Phys p) (s.m.rd F.tileRepairSpare1Phys p) else upFrom 0 50) →
      fail = (j || used.any (fun r => bitOf r rows.toNat)) → m1 = s.m.wr F.tileSelftestResult p (if fail then 3 else 2) →
      m2 = (if rep then m1 else
        ((m1.wr F.tileStRowsLo p (rows.toNat % 2 ^ 32)).wr F.tileStRowsHiRows p (rows.toNat / 2 ^ 32)).wr F.tileStRowsHiJunctionFail p (b2n j)) →
      m3 = m2.setTile t.val { x with testing := false, unfence := false, acc := [], epoch := x.epoch + 1, poison := 0 } →
      m4 = (if x.unfence then m3.wr F.tileFenceFenced p 0 else m3) →
      exec (.tileSelftestEnd t rows j) s =
        .next ⟨if rep && !fail && x.tester == idHealth && m4.healthUp then m4.send (.tell (.clearFence t.val)) else m4, s.pending⟩) ∧
    (∀ (ended why : Bool), ended = (s.m.rd F.tileSelftestResult p == 2 || s.m.rd F.tileSelftestResult p == 3) →
      why = (ended && ((assignSpares (faultySet s.m t.val)).isNone || s.m.on F.tileStRowsHiJunctionFail p ||
        ((s.m.tile t.val).testRepair && s.m.rd F.tileSelftestResult p == 3))) →
      (s.m.on F.tileFenceFenced p = true → (s.m.tile t.val).testing = false → why = true → exec (.tileRetire t) s = .next ⟨s.m.retireTile t.val, s.pending⟩) ∧
      (s.m.on F.tileFenceFenced p = false ∨ (s.m.tile t.val).testing = true ∨ why = false → exec (.tileRetire t) s = .next s)) ∧
    (∀ (ok : Bool) (f : Nat), ok = ((s.m.rd F.tileSelftestResult p == 2 || s.m.rd F.tileSelftestResult p == 3) && !(s.m.tile t.val).testRepair &&
        s.m.on F.tileFenceFenced p && !(s.m.tile t.val).testing && s.m.tileStopped t.val && !s.m.on F.tileStRowsHiJunctionFail p) → f = faultySet s.m t.val →
      (ok = false ∨ assignSpares f = none → exec (.repairAssign t) s = .next s) ∧
      (∀ s0 s1, ok = true → assignSpares f = some (s0, s1) →
        (SMap.get 0 t.val s.m.test.reported ≠ 0 → f = lastFaulty s.m t.val → ∀ (n : Nat) (m1 m2 : Mach),
          n = SMap.get 0 t.val ((s.m.test.record).getD RepairRec.empty).returns + 1 →
          m1 = s.m.writeRecord (fun r => { r with returns := SMap.put 0 t.val n r.returns }) →
          m2 = { m1 with test := { m1.test with reported := SMap.put 0 t.val 0 m1.test.reported } } →
          exec (.repairAssign t) s = .next ⟨if 3 ≤ n then m2.retireTile t.val else m2.send (.tell (.clearFence t.val)), s.pending⟩) ∧
        (SMap.get 0 t.val s.m.test.reported = 0 ∨ f ≠ lastFaulty s.m t.val → ∀ (m1 m2 : Mach),
          m1 = s.m.writeRecord (fun r => { r with tiles := SMap.put 0x3F3F t.val (entryOf s0 s1 false) r.tiles }) →
          m2 = { m1 with test := { m1.test with lastF := SMap.put 0 t.val (f + 1) m1.test.lastF, reported := SMap.put 0 t.val 0 m1.test.reported } } →
          exec (.repairAssign t) s = .next ⟨opTileSelftestGo t.val idHealth true (opTileRepairWrite t.val (s0 + 256 * s1) m2), s.pending⟩))))

/-- 18 R430: the assignment of spares. With no faulty logical row none is used; one takes SPARE0, on row 48 or, when that is faulty, SPARE1; two take both when
both spare rows are good; in every other case the tile is unrepairable. -/
def Obligations.SparesFollowTheFaultyRows : Prop :=
  ∀ f : Nat,
  ((∀ r, r < 48 → bitOf r f = false) → assignSpares f = some (0x3F, 0x3F)) ∧
  (∀ x, x < 48 → bitOf x f = true → (∀ r, r < 48 → r ≠ x → bitOf r f = false) →
    (bitOf 48 f = false → assignSpares f = some (x, 0x3F)) ∧ (bitOf 48 f = true → bitOf 49 f = false → assignSpares f = some (x, 48)) ∧
    (bitOf 48 f = true → bitOf 49 f = true → assignSpares f = none)) ∧
  (∀ x y, x < y → y < 48 → bitOf x f = true → bitOf y f = true → (∀ r, r < 48 → r ≠ x → r ≠ y → bitOf r f = false) →
    assignSpares f = if bitOf 48 f = false ∧ bitOf 49 f = false then some (x, y) else none) ∧
  (∀ x y z, x < y → y < z → z < 48 → bitOf x f = true → bitOf y f = true → bitOf z f = true → assignSpares f = none)

/-- 00 R8, whole (every rc field of the register map stands alone in its register): a read of an rc register returns the value from before the events of its cycle, and the register then holds those events. -/
def Obligations.ReadsOfCountersLoseNoEvent : Prop :=
  ∀ (s : State) (who addr die o ev p : Nat) (f : Fld), s.m.alive .keeper = true → placeOf s.m.fuses addr = .reg die o →
  s.m.gate die o 4 who false = (none, false) → rowWindowAt die o = none → fniWindowAt die o = none → sliceMemAt die o = none →
  mailWordAt die o = none → (die = 6 → s.m.crashWord o = none) → fldsAt die o = [(f, p)] → f.acc = .rc → (∀ v ∈ views, v.1.id ≠ f.id) →
  ∃ t, exec (.readClear who addr ev) s = .next t ∧ t.m.rd f p = bitsOf f.hi f.lo ev % 2 ^ f.width ∧
    t.m.out = s.m.out ++ [.resp who rsOk (leBytes 4 (s.m.rd f p * 2 ^ f.lo)) 0] ∧ t.m.mem = s.m.mem ∧ t.pending = s.pending

/-- 14 R340: a write of 1 to RECAL by a writer the block admits starts a recalibration in DISABLED or DOWN only; in any other state the lane keeps its state,
its configuration and its queues, and RECAL_REFUSED sets. -/
def Obligations.RecalibrationOnlyWhileTheLaneIsDown : Prop :=
  ∀ (d : DieNo) (i : Fin 48) (who : Nat) (s : State) (n : Nat), s.m.alive .uncore = true → n = lnK d.val i.val → laneWho (n / 48) who = true →
  ∃ t, exec (.laneRecal d i who) s = .next t ∧ t.pending = s.pending ∧ t.m.mem = s.m.mem ∧ t.m.lane n = s.m.lane n ∧
    ((s.m.lnState n = lsDisabled ∨ s.m.lnState n = lsDown) → t.m.lnState n = lsRecal) ∧
    (s.m.lnState n ≠ lsDisabled → s.m.lnState n ≠ lsDown → t.m.lnState n = s.m.lnState n ∧ t.m.on F.lnEventsRecalRefused (lnIx n) = true ∧
      ∀ f q, f.id ≠ F.lnEventsRecalRefused.id → q < 2 ^ 24 → lnIx n < 2 ^ 24 → t.m.rd f q = s.m.rd f q)

/-- 12 R294, whole: "OUT pushes a word into the egress queue. When the queue is full, the word is dropped and EGRESS_DROP sets. OUT never stalls." -/
def Obligations.OutPushesOrDrops : Prop :=
  ∀ (d : DieNo) (n : Fin 64) (s : State) (k : Nat) (b : SlIssued), s.m.alive (.slice d.val) = true → k = slK d.val n.val → (s.m.sl k).issued = some b →
  bitOf 3 b.todo = true → cCode b.word = 0x38 → ∃ t, exec (.slOut d n) s = .next t ∧ t.pending = s.pending ∧ t.m.mem = s.m.mem ∧
    (∃ b', (t.m.sl k).issued = some b' ∧ bitOf 3 b'.todo = false ∧ b'.word = b.word) ∧ (t.m.sl k).now = (s.m.sl k).now ∧
    ((s.m.sl k).egress.length < 32 → (t.m.sl k).egress = (s.m.sl k).egress ++ [s.m.slReg k b (cA b.word) % 2 ^ 32]) ∧
    (32 ≤ (s.m.sl k).egress.length → (t.m.sl k).egress = (s.m.sl k).egress ∧ t.m.on F.slEventsEgressDrop (slIx k) = true)

/-- 12 R280, whole: of two results that land in one register in the same cycle the later issued wins, and of one bundle slot C wins over L, and L over M. -/
def Obligations.LaterIssuedResultWins : Prop :=
  ∀ (d : DieNo) (n : Fin 64) (s : State) (k g va vb due ca cb sa sb : Nat) (sh : Bool) (ra rb : SlRes), s.m.alive (.slice d.val) = true → k = slK d.val n.val →
  (s.m.sl k).busy = false → due ≤ (s.m.sl k).now → ra = ⟨due, 4 * ca + sa, sh, .reg g va⟩ → rb = ⟨due, 4 * cb + sb, sh, .reg g vb⟩ → sa < 4 → sb < 4 →
  (ca < cb ∨ (ca = cb ∧ sa < sb)) → ((s.m.sl k).flight = [ra, rb] ∨ (s.m.sl k).flight = [rb, ra]) →
  ∃ t u, exec (.slResultLand d n) s = .next t ∧ exec (.slResultLand d n) t = .next u ∧ SMap.get 0 g (u.m.sl k).g = vb ∧ (u.m.sl k).flight = []

/-- 12 R276: the window. In the main bank Xx is G((WBASE + x) mod 32), in the shadow bank Hx; ROT turns WBASE back by 0, 1, 2 or 4 from the next bundle on, so
that Xx is then named X(x + n); it does nothing in the shadow bank; the bundle that carries it still resolves its names before the turn. -/
def Obligations.WindowRotatesFromTheNextBundle : Prop :=
  (∀ (b : SlIssued) (x : Nat), (b.shadow = false → b.phys x = (b.base + x) % 32) ∧ (b.shadow = true → b.phys x = 32 + x)) ∧
  (∀ (rot base : Nat), base < 32 → (rotBase true rot base = base) ∧ rotBase false 0 base = base ∧
    ((rotBase false 1 base : Int) = ((base : Int) - 1) % 32) ∧ ((rotBase false 2 base : Int) = ((base : Int) - 2) % 32) ∧
    ((rotBase false 3 base : Int) = ((base : Int) - 4) % 32)) ∧
  (∀ (b c : SlIssued) (rot x nn : Nat), b.base < 32 → b.shadow = false → c.shadow = false → rot < 4 → nn = (if rot = 0 then 0 else 2 ^ (rot - 1)) →
    c.base = rotBase false rot b.base → c.phys (x + nn) = b.phys x) ∧
  (∀ (d : DieNo) (n : Fin 64) (s : State) (k p w : Nat) (sh : Bool), s.m.alive (.slice d.val) = true → k = slK d.val n.val → p = slIx k → (s.m.sl k).busy = false →
    s.m.on F.slCtrlRun p = true → (s.m.sl k).flight = [] → s.m.slTakes k = false → s.m.on F.slStatusWaiting p = false →
    (s.m.sl k).pIsBad k (s.m.rd F.slStatusPc p) = false → w = (s.m.sl k).pword k (s.m.rd F.slStatusPc p) → sh = s.m.on F.slStatusInHandler p →
    ∃ t b, exec (.slBundleIssue d n false) s = .next t ∧ (t.m.sl k).issued = some b ∧ b.base = (s.m.sl k).wbase ∧ b.shadow = sh ∧ b.word = w ∧
      b.cycle = (s.m.sl k).now ∧ (t.m.sl k).wbase = rotBase sh (w % 4) (s.m.sl k).wbase ∧ (t.m.sl k).g = (s.m.sl k).g)

/-- 16 R387: a closed mailbox, one whose MB_OPEN bit is 0 or whose owner does not run, stores nothing; from reset every mailbox is closed; when a processor
crashes its mailboxes close and none of them is full. -/
def Obligations.ClosedMailboxesStoreNothing : Prop :=
  (∀ (m : Mach) (n src die j owner : Nat) (ws : List Nat), mbOf n = some (die, j, owner) →
    (bitOf j (m.rd F.mbOpen die) = false ∨ m.procUp owner = false) → m.mbArrive n src ws = (m, false)) ∧
  (∀ die j owner, Mach.reset.mbOpen die j owner = false) ∧
  (∀ (m : Mach) (p cause pc addr n die j : Nat), p < 10 → m.procUp p = true → n ∈ boxesOf p → mbOf n = some (die, j, p) →
    (m.crash p cause pc addr).mbOpen die j p = false ∧ (m.crash p cause pc addr).on F.mbStatusFull (mbPlace die j) = false)

/-- The model's queue (the row's form, log 1): every command answers a next state and leaves the queue to the step; a command whose domain does not run changes
nothing (log 5); on an empty queue a step is a tick, which moves time on and leaves memory, the fuses, the outputs and the queue. -/
def Obligations.StepsNeverStopAndLeaveTheQueue : Prop :=
  (∀ (c : Instr) (s : State), ∃ m, exec c s = .next ⟨m, s.pending⟩) ∧
  (∀ (s : State) (x : Dom) (f : Mach → Mach), s.m.alive x = false → s.on x f = .next s) ∧
  (∀ (c : Instr) (l : List Instr) (m : Mach), ∃ m', step ⟨m, c :: l⟩ = .next ⟨m', l⟩) ∧
  (∀ m : Mach, ∃ m', step ⟨m, []⟩ = .next ⟨m', []⟩ ∧ m'.ticks = m.ticks + 1 ∧ m'.mem = m.mem ∧ m'.fuses = m.fuses ∧ m'.out = m.out ∧ m'.tiles = m.tiles)

/-- 00 R6 and the register tables: what reset leaves. The queue and the outputs are empty, every register stands at its table's reset value, memory lists
nothing and is in its canonical form, and nothing of the units' stores is held. -/
def Obligations.ResetState : Prop :=
  State.reset.pending = [] ∧ State.reset.m.out = [] ∧ State.reset.memOk ∧ (∀ a, State.reset.m.byte a = memDefault) ∧
  (∀ f p, State.reset.m.rd f p = resetOf State.reset.m.fuses f p) ∧ (∀ t, State.reset.m.tile t = Tile.init) ∧ (∀ c, State.reset.m.ve c = Ve.init) ∧
  (∀ k, State.reset.m.sl k = Slice.init) ∧ (∀ n, State.reset.m.lane n = Lane.init) ∧ (∀ p, State.reset.m.port p = FramePort.init) ∧
  State.reset.m.rd F.slCl (slSub 0 0) = 4 ∧ State.reset.m.rd F.slIngLen (slIx 0) = 0x400 ∧ State.reset.m.power = 0 ∧ State.reset.m.cfgState = csIdle ∧
  (∀ p, State.reset.m.procUp p = false)

/-- 06 R126, R127 and the byte enables of every store: bytes written under enables read back where the enable is set and as before elsewhere, whatever was
written; a word written whole has fresh parity, and no register but the bank's parity record changes. -/
def Obligations.EnabledBytesAreWrittenAndNoOthers : Prop :=
  (∀ (m : Mach) (a c : Nat) (data : List Byte) (en : List Bool), data.length = en.length →
    (m.putEn a data en).byte c = if a ≤ c ∧ c < a + data.length ∧ nth false en (c - a) = true then nth 0 data (c - a) else m.byte c) ∧
  (∀ (m : Mach) (b a c : Nat) (data : List Byte) (en : List Bool), data.length = 64 → en.length = 64 →
    (m.writeWord b a data en).byte c = if a ≤ c ∧ c < a + 64 ∧ nth false en (c - a) = true then nth 0 data (c - a) else m.byte c) ∧
  (∀ (m : Mach) (b a c : Nat), (m.readWord b a).2.2.byte c = m.byte c ∧ (m.readWord b a).1 = m.bytes a 64) ∧
  (∀ (m : Mach) (b a i : Nat) (data : List Byte), data.length = 64 → i < 16 → a % 64 = 0 →
    (m.writeWord b a data (List.replicate 64 true)).laneBad (laneOf a + i) = false)

/-- 06 R127 and the model's form of memory (log 4): every step keeps memory in its canonical form. -/
def Obligations.EveryStepKeepsMemoryCanonical : Prop :=
  ∀ s t : State, s.memOk → step s = .next t → t.memOk

/-- The frame of every command that stores nothing (`mayStore`, in Safety.lean, names the 49 that can): whatever the state and the operands, it answers a
next state in which memory is as it was, every byte reads as before, and the queue is untouched. -/
def Obligations.CommandsThatStoreNothing : Prop :=
  ∀ (c : Instr) (s : State), mayStore c = false →
  ∃ t, exec c s = .next t ∧ t.m.mem = s.m.mem ∧ (∀ a, t.m.byte a = s.m.byte a) ∧ t.pending = s.pending

/-- 16 R395: "Fusing is irreversible." Once the integrator key is fused no step changes it, and no step changes any other fuse. -/
def Obligations.FusingIsIrreversible : Prop :=
  ∀ s t : State, step s = .next t →
  (∀ k, s.m.fuses.intKey = some k → t.m.fuses = s.m.fuses) ∧ { t.m.fuses with intKey := none } = { s.m.fuses with intKey := none }
end

