-- ==== Sys2Proof/Laws/Bits.lean ====
section
/-! SUPPORT. Bits of numbers: the model's bit helpers beside Nat.testBit, and lists by index. -/

namespace Sys2Proof

theorem bitOf_eq_testBit (k n : Nat) : bitOf k n = n.testBit k := by
  simp only [bitOf, Nat.testBit_eq_decide_div_mod_eq]
  by_cases h : n / 2 ^ k % 2 = 1 <;> simp [h]

theorem clearBit_eq (k n : Nat) : clearBit k n = if n.testBit k then n - 2 ^ k else n := by simp [clearBit, bitOf_eq_testBit]

/-- A number by its bit k: what is above it, the bit, and what is below it. -/
theorem split_at_bit (k n : Nat) : n = 2 ^ k * (2 * (n / 2 ^ k / 2) + n / 2 ^ k % 2) + n % 2 ^ k := by
  have h1 := Nat.div_add_mod n (2 ^ k)
  have h2 := Nat.div_add_mod (n / 2 ^ k) 2
  rw [h2]; exact h1.symm

theorem testBit_of_split {k a r : Nat} (c : Nat) (hc : c < 2) (hr : r < 2 ^ k) (j : Nat) :
    (2 ^ k * (2 * a + c) + r).testBit j = if j < k then r.testBit j else if j = k then decide (c = 1) else a.testBit (j - k - 1) := by
  rw [Nat.testBit_two_pow_mul_add _ hr]
  by_cases h : j < k
  · simp [h]
  · by_cases h2 : j = k
    · subst h2
      have : c = 0 ∨ c = 1 := by omega
      rcases this with rfl | rfl <;> simp
    · obtain ⟨i, hi⟩ : ∃ i, j - k = i + 1 := ⟨j - k - 1, by omega⟩
      simp only [h, h2, if_false, hi, Nat.add_sub_cancel]
      rw [Nat.testBit_succ]
      congr 1; omega

theorem testBit_sub_two_pow {n k : Nat} (h : n.testBit k = true) (j : Nat) : (n - 2 ^ k).testBit j = (n.testBit j && decide (j ≠ k)) := by
  have hm : n / 2 ^ k % 2 = 1 := by simpa [Nat.testBit_eq_decide_div_mod_eq] using h
  have hr : n % 2 ^ k < 2 ^ k := Nat.mod_lt _ (Nat.two_pow_pos k)
  have e := split_at_bit k n
  rw [hm] at e
  have e2 : n - 2 ^ k = 2 ^ k * (2 * (n / 2 ^ k / 2) + 0) + n % 2 ^ k := by
    have : 2 ^ k * (2 * (n / 2 ^ k / 2) + 1) = 2 ^ k * (2 * (n / 2 ^ k / 2) + 0) + 2 ^ k := by ring
    omega
  rw [e2, testBit_of_split 0 (by omega) hr]
  conv => rhs; rw [e]
  rw [testBit_of_split 1 (by omega) hr]
  by_cases h1 : j < k <;> by_cases h2 : j = k <;> simp [h1, h2]

theorem testBit_add_two_pow {n k : Nat} (h : n.testBit k = false) (j : Nat) : (n + 2 ^ k).testBit j = (n.testBit j || decide (j = k)) := by
  have hm : n / 2 ^ k % 2 = 0 := by
    have : ¬ n / 2 ^ k % 2 = 1 := by simpa [Nat.testBit_eq_decide_div_mod_eq] using h
    omega
  have hr : n % 2 ^ k < 2 ^ k := Nat.mod_lt _ (Nat.two_pow_pos k)
  have e := split_at_bit k n
  rw [hm] at e
  have e2 : n + 2 ^ k = 2 ^ k * (2 * (n / 2 ^ k / 2) + 1) + n % 2 ^ k := by
    have : 2 ^ k * (2 * (n / 2 ^ k / 2) + 1) = 2 ^ k * (2 * (n / 2 ^ k / 2) + 0) + 2 ^ k := by ring
    omega
  rw [e2, testBit_of_split 1 (by omega) hr]
  conv => rhs; rw [e]
  rw [testBit_of_split 0 (by omega) hr]
  by_cases h1 : j < k <;> by_cases h2 : j = k <;> simp [h1, h2]

/-- Clearing a bit clears it and leaves the others. -/
@[simp] theorem bitOf_clearBit (j k n : Nat) : bitOf j (clearBit k n) = (bitOf j n && decide (j ≠ k)) := by
  rw [clearBit_eq, bitOf_eq_testBit, bitOf_eq_testBit]
  by_cases h : n.testBit k = true
  · simp [h, testBit_sub_two_pow h]
  · by_cases hj : j = k
    · subst hj; simp [h]
    · simp [h, hj]

/-- Setting a bit sets it and leaves the others. -/
@[simp] theorem bitOf_setBit (j k n : Nat) : bitOf j (setBit k n) = (bitOf j n || decide (j = k)) := by
  simp only [setBit, bitOf_eq_testBit]
  by_cases h : n.testBit k = true
  · by_cases hj : j = k
    · subst hj; simp [h]
    · simp [h, hj]
  · simp only [h]
    exact testBit_add_two_pow (by simpa using h) j

theorem nth_setNth_self {α : Type} (d b : α) (l : List α) (n : Nat) (h : n < l.length) : nth d (setNth l n b) n = b := by
  induction l generalizing n with
  | nil => exact absurd h (Nat.not_lt_zero n)
  | cons a l ih =>
    cases n with
    | zero => rfl
    | succ n => exact ih n (by simpa using h)

theorem nth_setNth_other {α : Type} (d b : α) (l : List α) {j n : Nat} (h : j ≠ n) : nth d (setNth l n b) j = nth d l j := by
  induction l generalizing j n with
  | nil => rfl
  | cons a l ih =>
    cases n with
    | zero => cases j with
      | zero => exact absurd rfl h
      | succ j => rfl
    | succ n => cases j with
      | zero => rfl
      | succ j => exact ih (by omega)

theorem setNth_length {α : Type} (b : α) (l : List α) (n : Nat) : (setNth l n b).length = l.length := by
  induction l generalizing n with
  | nil => rfl
  | cons a l ih => cases n with
    | zero => rfl
    | succ n => simp [setNth, ih]

end Sys2Proof
end

