-- ==== Sys2Proof/Laws/Checks.lean ====
section
/-! SUPPORT. The one bit a burst's check is tested by is the comparison the spec makes: the stored check against the check
computed from the data (06 R143, 09 R209). -/

namespace Sys2Proof.Machine

/-- A word differs from itself under a mask just where the mask is not zero. -/
theorem xor_ne_self (a b : Nat) : a ^^^ b ≠ a ↔ b ≠ 0 :=
  ⟨fun h e => h (by rw [e, Nat.xor_zero]), fun h e => h (by
    have x : a ^^^ (a ^^^ b) = a ^^^ a := by rw [e]
    rwa [← Nat.xor_assoc, Nat.xor_self, Nat.zero_xor] at x)⟩

/-- A near burst is bad just where its stored CRC is not the CRC of its data. -/
theorem nearIsBad_iff (m : Mach) (a : Nat) : m.nearIsBad a = true ↔ m.nearStored a ≠ m.nearCrc a :=
  bne_iff_ne.trans (xor_ne_self _ _).symm

/-- A far unit is bad just where its stored check is not the check of its data. -/
theorem farIsBad_iff (m : Mach) (a : Nat) : m.farIsBad a = true ↔ m.farStored a ≠ m.farCheck a :=
  bne_iff_ne.trans (xor_ne_self _ _).symm

end Sys2Proof.Machine
end

