-- ==== Sys2Proof/Laws/Tables.lean ====
section
/-! SUPPORT. Sparse tables: reading back what was written, and that writing keeps the canonical form. -/

namespace Sys2Proof

theorem SMap.get_erase_self {α : Type} (d : α) (k : Nat) (m : SMap α) : SMap.get d k (SMap.erase k m) = d := by
  induction m with
  | nil => rfl
  | cons x m ih =>
    obtain ⟨k', v⟩ := x
    by_cases h : k' = k
    · simpa [SMap.erase, h] using ih
    · simpa [SMap.erase, SMap.get, h] using ih

theorem SMap.get_erase_other {α : Type} (d : α) {j k : Nat} (hjk : j ≠ k) (m : SMap α) : SMap.get d j (SMap.erase k m) = SMap.get d j m := by
  induction m with
  | nil => rfl
  | cons x m ih =>
    obtain ⟨k', v⟩ := x
    by_cases h : k' = k
    · have hj : ¬ k' = j := fun h2 => hjk (h2.symm.trans h)
      simpa [SMap.erase, SMap.get, h, Ne.symm hjk] using ih
    · simp only [SMap.erase, h, if_false, SMap.get, ih]

theorem SMap.get_insert_self {α : Type} (d : α) (k : Nat) (v : α) (m : SMap α) : SMap.get d k (SMap.insert k v m) = v := by
  induction m with
  | nil => simp [SMap.insert, SMap.get]
  | cons x m ih =>
    obtain ⟨k', v'⟩ := x
    by_cases h1 : k < k'
    · simp [SMap.insert, SMap.get, h1]
    · by_cases h2 : k = k'
      · simp [SMap.insert, SMap.get, h2]
      · simpa [SMap.insert, SMap.get, h1, h2, Ne.symm h2] using ih

theorem SMap.get_insert_other {α : Type} (d : α) {j k : Nat} (hjk : j ≠ k) (v : α) (m : SMap α) :
    SMap.get d j (SMap.insert k v m) = SMap.get d j m := by
  induction m with
  | nil => simp [SMap.insert, SMap.get, Ne.symm hjk]
  | cons x m ih =>
    obtain ⟨k', v'⟩ := x
    by_cases h1 : k < k'
    · simp [SMap.insert, SMap.get, h1, Ne.symm hjk]
    · by_cases h2 : k = k'
      · subst h2; simp [SMap.insert, SMap.get, Ne.symm hjk]
      · simp only [SMap.insert, h1, h2, if_false, SMap.get, ih]

/-- What was written under a key is read back. -/
@[simp] theorem SMap.get_put_self {α : Type} [DecidableEq α] (d : α) (k : Nat) (v : α) (m : SMap α) : SMap.get d k (SMap.put d k v m) = v := by
  by_cases h : v = d
  · simp [SMap.put, h, SMap.get_erase_self]
  · simp [SMap.put, h, SMap.get_insert_self]

/-- Writing one key leaves the others. -/
theorem SMap.get_put_other {α : Type} [DecidableEq α] (d : α) {j k : Nat} (hjk : j ≠ k) (v : α) (m : SMap α) (d' : α) :
    SMap.get d' j (SMap.put d k v m) = SMap.get d' j m := by
  by_cases h : v = d
  · simp [SMap.put, h, SMap.get_erase_other d' hjk]
  · simp [SMap.put, h, SMap.get_insert_other d' hjk]

theorem SMap.wfFrom_mono {α : Type} [DecidableEq α] (d : α) {a b : Nat} (hab : a ≤ b) (m : SMap α) (h : SMap.wfFrom d b m = true) :
    SMap.wfFrom d a m = true := by
  cases m with
  | nil => rfl
  | cons x m =>
    obtain ⟨k, v⟩ := x
    simp only [SMap.wfFrom, Bool.and_eq_true, decide_eq_true_eq] at h ⊢
    exact ⟨⟨le_trans hab h.1.1, h.1.2⟩, h.2⟩

theorem SMap.wfFrom_erase {α : Type} [DecidableEq α] (d : α) (k b : Nat) (m : SMap α) (h : SMap.wfFrom d b m = true) :
    SMap.wfFrom d b (SMap.erase k m) = true := by
  induction m generalizing b with
  | nil => rfl
  | cons x m ih =>
    obtain ⟨k', v⟩ := x
    simp only [SMap.wfFrom, Bool.and_eq_true, decide_eq_true_eq] at h
    by_cases h1 : k' = k
    · have := ih (k' + 1) h.2
      simpa [SMap.erase, h1] using SMap.wfFrom_mono d (by omega) _ (h1 ▸ this)
    · simp only [SMap.erase, h1, if_false, SMap.wfFrom, Bool.and_eq_true, decide_eq_true_eq]
      exact ⟨h.1, ih _ h.2⟩

theorem SMap.wfFrom_insert {α : Type} [DecidableEq α] (d : α) {k b : Nat} {v : α} (hv : v ≠ d) (hb : b ≤ k) (m : SMap α)
    (h : SMap.wfFrom d b m = true) : SMap.wfFrom d b (SMap.insert k v m) = true := by
  induction m generalizing b with
  | nil => simp [SMap.insert, SMap.wfFrom, hv, hb]
  | cons x m ih =>
    obtain ⟨k', v'⟩ := x
    simp only [SMap.wfFrom, Bool.and_eq_true, decide_eq_true_eq] at h
    by_cases h1 : k < k'
    · simp only [SMap.insert, h1, if_true, SMap.wfFrom, Bool.and_eq_true, decide_eq_true_eq]
      exact ⟨⟨hb, hv⟩, ⟨by omega, h.1.2⟩, h.2⟩
    · by_cases h2 : k = k'
      · subst h2
        simp only [SMap.insert, h1, if_false, if_true, SMap.wfFrom, Bool.and_eq_true, decide_eq_true_eq]
        exact ⟨⟨hb, hv⟩, h.2⟩
      · simp only [SMap.insert, h1, h2, if_false, SMap.wfFrom, Bool.and_eq_true, decide_eq_true_eq]
        exact ⟨h.1, ih (by omega) h.2⟩

/-- Writing a key keeps the canonical form. -/
theorem SMap.wf_put {α : Type} [DecidableEq α] (d : α) (k : Nat) (v : α) (m : SMap α) (h : SMap.wf d m = true) :
    SMap.wf d (SMap.put d k v m) = true := by
  by_cases hv : v = d
  · simpa [SMap.put, hv, SMap.wf] using SMap.wfFrom_erase d k 0 m h
  · simpa [SMap.put, hv, SMap.wf] using SMap.wfFrom_insert d hv (Nat.zero_le k) m h

/-- Dropping entries keeps the canonical form. -/
theorem SMap.wfFrom_filter {α : Type} [DecidableEq α] (d : α) (p : Nat × α → Bool) (b : Nat) (m : SMap α) (h : SMap.wfFrom d b m = true) :
    SMap.wfFrom d b (m.filter p) = true := by
  induction m generalizing b with
  | nil => rfl
  | cons x m ih =>
    obtain ⟨k, v⟩ := x
    simp only [SMap.wfFrom, Bool.and_eq_true, decide_eq_true_eq] at h
    by_cases hp : p (k, v) = true
    · simp only [List.filter_cons, hp, if_true, SMap.wfFrom, Bool.and_eq_true, decide_eq_true_eq]
      exact ⟨h.1, ih _ h.2⟩
    · simp only [List.filter_cons, hp, Bool.false_eq_true, if_false]
      exact SMap.wfFrom_mono d (by omega) _ (ih _ h.2)

end Sys2Proof
end

