-- ==== Sys2Proof/Laws/State.lean ====
section
/-! SUPPORT. What each primitive update of the machine leaves as it was, and what it reads back: one lemma per field and update. -/

namespace Sys2Proof.Machine

@[simp] theorem Mach.wr_fuses (m : Mach) (f : Fld) (p v : Nat) : (m.wr f p v).fuses = m.fuses := (rfl)
@[simp] theorem Mach.wr_mem (m : Mach) (f : Fld) (p v : Nat) : (m.wr f p v).mem = m.mem := (rfl)
@[simp] theorem Mach.wr_bankBad (m : Mach) (f : Fld) (p v : Nat) : (m.wr f p v).bankBad = m.bankBad := (rfl)
@[simp] theorem Mach.wr_tiles (m : Mach) (f : Fld) (p v : Nat) : (m.wr f p v).tiles = m.tiles := (rfl)
@[simp] theorem Mach.wr_ves (m : Mach) (f : Fld) (p v : Nat) : (m.wr f p v).ves = m.ves := (rfl)
@[simp] theorem Mach.wr_arbs (m : Mach) (f : Fld) (p v : Nat) : (m.wr f p v).arbs = m.arbs := (rfl)
@[simp] theorem Mach.wr_bankOut (m : Mach) (f : Fld) (p v : Nat) : (m.wr f p v).bankOut = m.bankOut := (rfl)
@[simp] theorem Mach.wr_arrayCycle (m : Mach) (f : Fld) (p v : Nat) : (m.wr f p v).arrayCycle = m.arrayCycle := (rfl)
@[simp] theorem Mach.wr_nocCycle (m : Mach) (f : Fld) (p v : Nat) : (m.wr f p v).nocCycle = m.nocCycle := (rfl)
@[simp] theorem Mach.wr_near (m : Mach) (f : Fld) (p v : Nat) : (m.wr f p v).near = m.near := (rfl)
@[simp] theorem Mach.wr_test (m : Mach) (f : Fld) (p v : Nat) : (m.wr f p v).test = m.test := (rfl)
@[simp] theorem Mach.wr_far (m : Mach) (f : Fld) (p v : Nat) : (m.wr f p v).far = m.far := (rfl)
@[simp] theorem Mach.wr_alm (m : Mach) (f : Fld) (p v : Nat) : (m.wr f p v).alm = m.alm := (rfl)
@[simp] theorem Mach.wr_ses (m : Mach) (f : Fld) (p v : Nat) : (m.wr f p v).ses = m.ses := (rfl)
@[simp] theorem Mach.wr_net (m : Mach) (f : Fld) (p v : Nat) : (m.wr f p v).net = m.net := (rfl)
@[simp] theorem Mach.wr_fab (m : Mach) (f : Fld) (p v : Nat) : (m.wr f p v).fab = m.fab := (rfl)
@[simp] theorem Mach.wr_slices (m : Mach) (f : Fld) (p v : Nat) : (m.wr f p v).slices = m.slices := (rfl)
@[simp] theorem Mach.wr_cfg (m : Mach) (f : Fld) (p v : Nat) : (m.wr f p v).cfg = m.cfg := (rfl)
@[simp] theorem Mach.wr_lanes (m : Mach) (f : Fld) (p v : Nat) : (m.wr f p v).lanes = m.lanes := (rfl)
@[simp] theorem Mach.wr_ports (m : Mach) (f : Fld) (p v : Nat) : (m.wr f p v).ports = m.ports := (rfl)
@[simp] theorem Mach.wr_hl (m : Mach) (f : Fld) (p v : Nat) : (m.wr f p v).hl = m.hl := (rfl)
@[simp] theorem Mach.wr_fw (m : Mach) (f : Fld) (p v : Nat) : (m.wr f p v).fw = m.fw := (rfl)
@[simp] theorem Mach.wr_ticks (m : Mach) (f : Fld) (p v : Nat) : (m.wr f p v).ticks = m.ticks := (rfl)
@[simp] theorem Mach.wr_pow (m : Mach) (f : Fld) (p v : Nat) : (m.wr f p v).pow = m.pow := (rfl)
@[simp] theorem Mach.wr_out (m : Mach) (f : Fld) (p v : Nat) : (m.wr f p v).out = m.out := (rfl)
@[simp] theorem Mach.wr_free (m : Mach) (f : Fld) (p v : Nat) : (m.wr f p v).free = m.free := (rfl)
@[simp] theorem Mach.wr_byte (m : Mach) (f : Fld) (p v : Nat) (a : Nat) : (m.wr f p v).byte a = m.byte a := (rfl)
@[simp] theorem Mach.wr_tile (m : Mach) (f : Fld) (p v : Nat) (t : Nat) : (m.wr f p v).tile t = m.tile t := (rfl)
@[simp] theorem Mach.wr_ve (m : Mach) (f : Fld) (p v : Nat) (c : Nat) : (m.wr f p v).ve c = m.ve c := (rfl)
@[simp] theorem Mach.wr_arb (m : Mach) (f : Fld) (p v : Nat) (a : ArbId) : (m.wr f p v).arb a = m.arb a := (rfl)
@[simp] theorem Mach.wr_sl (m : Mach) (f : Fld) (p v : Nat) (k : Nat) : (m.wr f p v).sl k = m.sl k := (rfl)
@[simp] theorem Mach.wr_lane (m : Mach) (f : Fld) (p v : Nat) (n : Nat) : (m.wr f p v).lane n = m.lane n := (rfl)
@[simp] theorem Mach.wr_port (m : Mach) (f : Fld) (p v : Nat) (n : Nat) : (m.wr f p v).port n = m.port n := (rfl)
@[simp] theorem Mach.wr_se (m : Mach) (f : Fld) (p v : Nat) (d e : Nat) : (m.wr f p v).se d e = m.se d e := (rfl)
@[simp] theorem Mach.wr_farCh (m : Mach) (f : Fld) (p v : Nat) (h : Nat) : (m.wr f p v).farCh h = m.farCh h := (rfl)
@[simp] theorem Mach.wr_fni (m : Mach) (f : Fld) (p v : Nat) (k : Nat) : (m.wr f p v).fni k = m.fni k := (rfl)
@[simp] theorem Mach.wr_proc (m : Mach) (f : Fld) (p v : Nat) (p' : Nat) : (m.wr f p v).proc p' = m.proc p' := (rfl)

@[simp] theorem Mach.ev_fuses (m : Mach) (f : Fld) (p : Nat) : (m.ev f p).fuses = m.fuses := (rfl)
@[simp] theorem Mach.ev_mem (m : Mach) (f : Fld) (p : Nat) : (m.ev f p).mem = m.mem := (rfl)
@[simp] theorem Mach.ev_bankBad (m : Mach) (f : Fld) (p : Nat) : (m.ev f p).bankBad = m.bankBad := (rfl)
@[simp] theorem Mach.ev_tiles (m : Mach) (f : Fld) (p : Nat) : (m.ev f p).tiles = m.tiles := (rfl)
@[simp] theorem Mach.ev_ves (m : Mach) (f : Fld) (p : Nat) : (m.ev f p).ves = m.ves := (rfl)
@[simp] theorem Mach.ev_arbs (m : Mach) (f : Fld) (p : Nat) : (m.ev f p).arbs = m.arbs := (rfl)
@[simp] theorem Mach.ev_bankOut (m : Mach) (f : Fld) (p : Nat) : (m.ev f p).bankOut = m.bankOut := (rfl)
@[simp] theorem Mach.ev_arrayCycle (m : Mach) (f : Fld) (p : Nat) : (m.ev f p).arrayCycle = m.arrayCycle := (rfl)
@[simp] theorem Mach.ev_nocCycle (m : Mach) (f : Fld) (p : Nat) : (m.ev f p).nocCycle = m.nocCycle := (rfl)
@[simp] theorem Mach.ev_near (m : Mach) (f : Fld) (p : Nat) : (m.ev f p).near = m.near := (rfl)
@[simp] theorem Mach.ev_test (m : Mach) (f : Fld) (p : Nat) : (m.ev f p).test = m.test := (rfl)
@[simp] theorem Mach.ev_far (m : Mach) (f : Fld) (p : Nat) : (m.ev f p).far = m.far := (rfl)
@[simp] theorem Mach.ev_alm (m : Mach) (f : Fld) (p : Nat) : (m.ev f p).alm = m.alm := (rfl)
@[simp] theorem Mach.ev_ses (m : Mach) (f : Fld) (p : Nat) : (m.ev f p).ses = m.ses := (rfl)
@[simp] theorem Mach.ev_net (m : Mach) (f : Fld) (p : Nat) : (m.ev f p).net = m.net := (rfl)
@[simp] theorem Mach.ev_fab (m : Mach) (f : Fld) (p : Nat) : (m.ev f p).fab = m.fab := (rfl)
@[simp] theorem Mach.ev_slices (m : Mach) (f : Fld) (p : Nat) : (m.ev f p).slices = m.slices := (rfl)
@[simp] theorem Mach.ev_cfg (m : Mach) (f : Fld) (p : Nat) : (m.ev f p).cfg = m.cfg := (rfl)
@[simp] theorem Mach.ev_lanes (m : Mach) (f : Fld) (p : Nat) : (m.ev f p).lanes = m.lanes := (rfl)
@[simp] theorem Mach.ev_ports (m : Mach) (f : Fld) (p : Nat) : (m.ev f p).ports = m.ports := (rfl)
@[simp] theorem Mach.ev_hl (m : Mach) (f : Fld) (p : Nat) : (m.ev f p).hl = m.hl := (rfl)
@[simp] theorem Mach.ev_fw (m : Mach) (f : Fld) (p : Nat) : (m.ev f p).fw = m.fw := (rfl)
@[simp] theorem Mach.ev_ticks (m : Mach) (f : Fld) (p : Nat) : (m.ev f p).ticks = m.ticks := (rfl)
@[simp] theorem Mach.ev_pow (m : Mach) (f : Fld) (p : Nat) : (m.ev f p).pow = m.pow := (rfl)
@[simp] theorem Mach.ev_out (m : Mach) (f : Fld) (p : Nat) : (m.ev f p).out = m.out := (rfl)
@[simp] theorem Mach.ev_free (m : Mach) (f : Fld) (p : Nat) : (m.ev f p).free = m.free := (rfl)
@[simp] theorem Mach.ev_byte (m : Mach) (f : Fld) (p : Nat) (a : Nat) : (m.ev f p).byte a = m.byte a := (rfl)
@[simp] theorem Mach.ev_tile (m : Mach) (f : Fld) (p : Nat) (t : Nat) : (m.ev f p).tile t = m.tile t := (rfl)
@[simp] theorem Mach.ev_ve (m : Mach) (f : Fld) (p : Nat) (c : Nat) : (m.ev f p).ve c = m.ve c := (rfl)
@[simp] theorem Mach.ev_arb (m : Mach) (f : Fld) (p : Nat) (a : ArbId) : (m.ev f p).arb a = m.arb a := (rfl)
@[simp] theorem Mach.ev_sl (m : Mach) (f : Fld) (p : Nat) (k : Nat) : (m.ev f p).sl k = m.sl k := (rfl)
@[simp] theorem Mach.ev_lane (m : Mach) (f : Fld) (p : Nat) (n : Nat) : (m.ev f p).lane n = m.lane n := (rfl)
@[simp] theorem Mach.ev_port (m : Mach) (f : Fld) (p : Nat) (n : Nat) : (m.ev f p).port n = m.port n := (rfl)
@[simp] theorem Mach.ev_se (m : Mach) (f : Fld) (p : Nat) (d e : Nat) : (m.ev f p).se d e = m.se d e := (rfl)
@[simp] theorem Mach.ev_farCh (m : Mach) (f : Fld) (p : Nat) (h : Nat) : (m.ev f p).farCh h = m.farCh h := (rfl)
@[simp] theorem Mach.ev_fni (m : Mach) (f : Fld) (p : Nat) (k : Nat) : (m.ev f p).fni k = m.fni k := (rfl)
@[simp] theorem Mach.ev_proc (m : Mach) (f : Fld) (p : Nat) (p' : Nat) : (m.ev f p).proc p' = m.proc p' := (rfl)

@[simp] theorem Mach.cnt_fuses (m : Mach) (f : Fld) (p n : Nat) : (m.cnt f p n).fuses = m.fuses := (rfl)
@[simp] theorem Mach.cnt_mem (m : Mach) (f : Fld) (p n : Nat) : (m.cnt f p n).mem = m.mem := (rfl)
@[simp] theorem Mach.cnt_bankBad (m : Mach) (f : Fld) (p n : Nat) : (m.cnt f p n).bankBad = m.bankBad := (rfl)
@[simp] theorem Mach.cnt_tiles (m : Mach) (f : Fld) (p n : Nat) : (m.cnt f p n).tiles = m.tiles := (rfl)
@[simp] theorem Mach.cnt_ves (m : Mach) (f : Fld) (p n : Nat) : (m.cnt f p n).ves = m.ves := (rfl)
@[simp] theorem Mach.cnt_arbs (m : Mach) (f : Fld) (p n : Nat) : (m.cnt f p n).arbs = m.arbs := (rfl)
@[simp] theorem Mach.cnt_bankOut (m : Mach) (f : Fld) (p n : Nat) : (m.cnt f p n).bankOut = m.bankOut := (rfl)
@[simp] theorem Mach.cnt_arrayCycle (m : Mach) (f : Fld) (p n : Nat) : (m.cnt f p n).arrayCycle = m.arrayCycle := (rfl)
@[simp] theorem Mach.cnt_nocCycle (m : Mach) (f : Fld) (p n : Nat) : (m.cnt f p n).nocCycle = m.nocCycle := (rfl)
@[simp] theorem Mach.cnt_near (m : Mach) (f : Fld) (p n : Nat) : (m.cnt f p n).near = m.near := (rfl)
@[simp] theorem Mach.cnt_test (m : Mach) (f : Fld) (p n : Nat) : (m.cnt f p n).test = m.test := (rfl)
@[simp] theorem Mach.cnt_far (m : Mach) (f : Fld) (p n : Nat) : (m.cnt f p n).far = m.far := (rfl)
@[simp] theorem Mach.cnt_alm (m : Mach) (f : Fld) (p n : Nat) : (m.cnt f p n).alm = m.alm := (rfl)
@[simp] theorem Mach.cnt_ses (m : Mach) (f : Fld) (p n : Nat) : (m.cnt f p n).ses = m.ses := (rfl)
@[simp] theorem Mach.cnt_net (m : Mach) (f : Fld) (p n : Nat) : (m.cnt f p n).net = m.net := (rfl)
@[simp] theorem Mach.cnt_fab (m : Mach) (f : Fld) (p n : Nat) : (m.cnt f p n).fab = m.fab := (rfl)
@[simp] theorem Mach.cnt_slices (m : Mach) (f : Fld) (p n : Nat) : (m.cnt f p n).slices = m.slices := (rfl)
@[simp] theorem Mach.cnt_cfg (m : Mach) (f : Fld) (p n : Nat) : (m.cnt f p n).cfg = m.cfg := (rfl)
@[simp] theorem Mach.cnt_lanes (m : Mach) (f : Fld) (p n : Nat) : (m.cnt f p n).lanes = m.lanes := (rfl)
@[simp] theorem Mach.cnt_ports (m : Mach) (f : Fld) (p n : Nat) : (m.cnt f p n).ports = m.ports := (rfl)
@[simp] theorem Mach.cnt_hl (m : Mach) (f : Fld) (p n : Nat) : (m.cnt f p n).hl = m.hl := (rfl)
@[simp] theorem Mach.cnt_fw (m : Mach) (f : Fld) (p n : Nat) : (m.cnt f p n).fw = m.fw := (rfl)
@[simp] theorem Mach.cnt_ticks (m : Mach) (f : Fld) (p n : Nat) : (m.cnt f p n).ticks = m.ticks := (rfl)
@[simp] theorem Mach.cnt_pow (m : Mach) (f : Fld) (p n : Nat) : (m.cnt f p n).pow = m.pow := (rfl)
@[simp] theorem Mach.cnt_out (m : Mach) (f : Fld) (p n : Nat) : (m.cnt f p n).out = m.out := (rfl)
@[simp] theorem Mach.cnt_free (m : Mach) (f : Fld) (p n : Nat) : (m.cnt f p n).free = m.free := (rfl)
@[simp] theorem Mach.cnt_byte (m : Mach) (f : Fld) (p n : Nat) (a : Nat) : (m.cnt f p n).byte a = m.byte a := (rfl)
@[simp] theorem Mach.cnt_tile (m : Mach) (f : Fld) (p n : Nat) (t : Nat) : (m.cnt f p n).tile t = m.tile t := (rfl)
@[simp] theorem Mach.cnt_ve (m : Mach) (f : Fld) (p n : Nat) (c : Nat) : (m.cnt f p n).ve c = m.ve c := (rfl)
@[simp] theorem Mach.cnt_arb (m : Mach) (f : Fld) (p n : Nat) (a : ArbId) : (m.cnt f p n).arb a = m.arb a := (rfl)
@[simp] theorem Mach.cnt_sl (m : Mach) (f : Fld) (p n : Nat) (k : Nat) : (m.cnt f p n).sl k = m.sl k := (rfl)
@[simp] theorem Mach.cnt_lane (m : Mach) (f : Fld) (p n : Nat) (n' : Nat) : (m.cnt f p n).lane n' = m.lane n' := (rfl)
@[simp] theorem Mach.cnt_port (m : Mach) (f : Fld) (p n : Nat) (n' : Nat) : (m.cnt f p n).port n' = m.port n' := (rfl)
@[simp] theorem Mach.cnt_se (m : Mach) (f : Fld) (p n : Nat) (d e : Nat) : (m.cnt f p n).se d e = m.se d e := (rfl)
@[simp] theorem Mach.cnt_farCh (m : Mach) (f : Fld) (p n : Nat) (h : Nat) : (m.cnt f p n).farCh h = m.farCh h := (rfl)
@[simp] theorem Mach.cnt_fni (m : Mach) (f : Fld) (p n : Nat) (k : Nat) : (m.cnt f p n).fni k = m.fni k := (rfl)
@[simp] theorem Mach.cnt_proc (m : Mach) (f : Fld) (p n : Nat) (p' : Nat) : (m.cnt f p n).proc p' = m.proc p' := (rfl)

@[simp] theorem Mach.wrap_fuses (m : Mach) (f : Fld) (p n : Nat) : (m.wrap f p n).fuses = m.fuses := (rfl)
@[simp] theorem Mach.wrap_mem (m : Mach) (f : Fld) (p n : Nat) : (m.wrap f p n).mem = m.mem := (rfl)
@[simp] theorem Mach.wrap_bankBad (m : Mach) (f : Fld) (p n : Nat) : (m.wrap f p n).bankBad = m.bankBad := (rfl)
@[simp] theorem Mach.wrap_tiles (m : Mach) (f : Fld) (p n : Nat) : (m.wrap f p n).tiles = m.tiles := (rfl)
@[simp] theorem Mach.wrap_ves (m : Mach) (f : Fld) (p n : Nat) : (m.wrap f p n).ves = m.ves := (rfl)
@[simp] theorem Mach.wrap_arbs (m : Mach) (f : Fld) (p n : Nat) : (m.wrap f p n).arbs = m.arbs := (rfl)
@[simp] theorem Mach.wrap_bankOut (m : Mach) (f : Fld) (p n : Nat) : (m.wrap f p n).bankOut = m.bankOut := (rfl)
@[simp] theorem Mach.wrap_arrayCycle (m : Mach) (f : Fld) (p n : Nat) : (m.wrap f p n).arrayCycle = m.arrayCycle := (rfl)
@[simp] theorem Mach.wrap_nocCycle (m : Mach) (f : Fld) (p n : Nat) : (m.wrap f p n).nocCycle = m.nocCycle := (rfl)
@[simp] theorem Mach.wrap_near (m : Mach) (f : Fld) (p n : Nat) : (m.wrap f p n).near = m.near := (rfl)
@[simp] theorem Mach.wrap_test (m : Mach) (f : Fld) (p n : Nat) : (m.wrap f p n).test = m.test := (rfl)
@[simp] theorem Mach.wrap_far (m : Mach) (f : Fld) (p n : Nat) : (m.wrap f p n).far = m.far := (rfl)
@[simp] theorem Mach.wrap_alm (m : Mach) (f : Fld) (p n : Nat) : (m.wrap f p n).alm = m.alm := (rfl)
@[simp] theorem Mach.wrap_ses (m : Mach) (f : Fld) (p n : Nat) : (m.wrap f p n).ses = m.ses := (rfl)
@[simp] theorem Mach.wrap_net (m : Mach) (f : Fld) (p n : Nat) : (m.wrap f p n).net = m.net := (rfl)
@[simp] theorem Mach.wrap_fab (m : Mach) (f : Fld) (p n : Nat) : (m.wrap f p n).fab = m.fab := (rfl)
@[simp] theorem Mach.wrap_slices (m : Mach) (f : Fld) (p n : Nat) : (m.wrap f p n).slices = m.slices := (rfl)
@[simp] theorem Mach.wrap_cfg (m : Mach) (f : Fld) (p n : Nat) : (m.wrap f p n).cfg = m.cfg := (rfl)
@[simp] theorem Mach.wrap_lanes (m : Mach) (f : Fld) (p n : Nat) : (m.wrap f p n).lanes = m.lanes := (rfl)
@[simp] theorem Mach.wrap_ports (m : Mach) (f : Fld) (p n : Nat) : (m.wrap f p n).ports = m.ports := (rfl)
@[simp] theorem Mach.wrap_hl (m : Mach) (f : Fld) (p n : Nat) : (m.wrap f p n).hl = m.hl := (rfl)
@[simp] theorem Mach.wrap_fw (m : Mach) (f : Fld) (p n : Nat) : (m.wrap f p n).fw = m.fw := (rfl)
@[simp] theorem Mach.wrap_ticks (m : Mach) (f : Fld) (p n : Nat) : (m.wrap f p n).ticks = m.ticks := (rfl)
@[simp] theorem Mach.wrap_pow (m : Mach) (f : Fld) (p n : Nat) : (m.wrap f p n).pow = m.pow := (rfl)
@[simp] theorem Mach.wrap_out (m : Mach) (f : Fld) (p n : Nat) : (m.wrap f p n).out = m.out := (rfl)
@[simp] theorem Mach.wrap_free (m : Mach) (f : Fld) (p n : Nat) : (m.wrap f p n).free = m.free := (rfl)
@[simp] theorem Mach.wrap_byte (m : Mach) (f : Fld) (p n : Nat) (a : Nat) : (m.wrap f p n).byte a = m.byte a := (rfl)
@[simp] theorem Mach.wrap_tile (m : Mach) (f : Fld) (p n : Nat) (t : Nat) : (m.wrap f p n).tile t = m.tile t := (rfl)
@[simp] theorem Mach.wrap_ve (m : Mach) (f : Fld) (p n : Nat) (c : Nat) : (m.wrap f p n).ve c = m.ve c := (rfl)
@[simp] theorem Mach.wrap_arb (m : Mach) (f : Fld) (p n : Nat) (a : ArbId) : (m.wrap f p n).arb a = m.arb a := (rfl)
@[simp] theorem Mach.wrap_sl (m : Mach) (f : Fld) (p n : Nat) (k : Nat) : (m.wrap f p n).sl k = m.sl k := (rfl)
@[simp] theorem Mach.wrap_lane (m : Mach) (f : Fld) (p n : Nat) (n' : Nat) : (m.wrap f p n).lane n' = m.lane n' := (rfl)
@[simp] theorem Mach.wrap_port (m : Mach) (f : Fld) (p n : Nat) (n' : Nat) : (m.wrap f p n).port n' = m.port n' := (rfl)
@[simp] theorem Mach.wrap_se (m : Mach) (f : Fld) (p n : Nat) (d e : Nat) : (m.wrap f p n).se d e = m.se d e := (rfl)
@[simp] theorem Mach.wrap_farCh (m : Mach) (f : Fld) (p n : Nat) (h : Nat) : (m.wrap f p n).farCh h = m.farCh h := (rfl)
@[simp] theorem Mach.wrap_fni (m : Mach) (f : Fld) (p n : Nat) (k : Nat) : (m.wrap f p n).fni k = m.fni k := (rfl)
@[simp] theorem Mach.wrap_proc (m : Mach) (f : Fld) (p n : Nat) (p' : Nat) : (m.wrap f p n).proc p' = m.proc p' := (rfl)

@[simp] theorem Mach.orIn_fuses (m : Mach) (f : Fld) (p v : Nat) : (m.orIn f p v).fuses = m.fuses := (rfl)
@[simp] theorem Mach.orIn_mem (m : Mach) (f : Fld) (p v : Nat) : (m.orIn f p v).mem = m.mem := (rfl)
@[simp] theorem Mach.orIn_bankBad (m : Mach) (f : Fld) (p v : Nat) : (m.orIn f p v).bankBad = m.bankBad := (rfl)
@[simp] theorem Mach.orIn_tiles (m : Mach) (f : Fld) (p v : Nat) : (m.orIn f p v).tiles = m.tiles := (rfl)
@[simp] theorem Mach.orIn_ves (m : Mach) (f : Fld) (p v : Nat) : (m.orIn f p v).ves = m.ves := (rfl)
@[simp] theorem Mach.orIn_arbs (m : Mach) (f : Fld) (p v : Nat) : (m.orIn f p v).arbs = m.arbs := (rfl)
@[simp] theorem Mach.orIn_bankOut (m : Mach) (f : Fld) (p v : Nat) : (m.orIn f p v).bankOut = m.bankOut := (rfl)
@[simp] theorem Mach.orIn_arrayCycle (m : Mach) (f : Fld) (p v : Nat) : (m.orIn f p v).arrayCycle = m.arrayCycle := (rfl)
@[simp] theorem Mach.orIn_nocCycle (m : Mach) (f : Fld) (p v : Nat) : (m.orIn f p v).nocCycle = m.nocCycle := (rfl)
@[simp] theorem Mach.orIn_near (m : Mach) (f : Fld) (p v : Nat) : (m.orIn f p v).near = m.near := (rfl)
@[simp] theorem Mach.orIn_test (m : Mach) (f : Fld) (p v : Nat) : (m.orIn f p v).test = m.test := (rfl)
@[simp] theorem Mach.orIn_far (m : Mach) (f : Fld) (p v : Nat) : (m.orIn f p v).far = m.far := (rfl)
@[simp] theorem Mach.orIn_alm (m : Mach) (f : Fld) (p v : Nat) : (m.orIn f p v).alm = m.alm := (rfl)
@[simp] theorem Mach.orIn_ses (m : Mach) (f : Fld) (p v : Nat) : (m.orIn f p v).ses = m.ses := (rfl)
@[simp] theorem Mach.orIn_net (m : Mach) (f : Fld) (p v : Nat) : (m.orIn f p v).net = m.net := (rfl)
@[simp] theorem Mach.orIn_fab (m : Mach) (f : Fld) (p v : Nat) : (m.orIn f p v).fab = m.fab := (rfl)
@[simp] theorem Mach.orIn_slices (m : Mach) (f : Fld) (p v : Nat) : (m.orIn f p v).slices = m.slices := (rfl)
@[simp] theorem Mach.orIn_cfg (m : Mach) (f : Fld) (p v : Nat) : (m.orIn f p v).cfg = m.cfg := (rfl)
@[simp] theorem Mach.orIn_lanes (m : Mach) (f : Fld) (p v : Nat) : (m.orIn f p v).lanes = m.lanes := (rfl)
@[simp] theorem Mach.orIn_ports (m : Mach) (f : Fld) (p v : Nat) : (m.orIn f p v).ports = m.ports := (rfl)
@[simp] theorem Mach.orIn_hl (m : Mach) (f : Fld) (p v : Nat) : (m.orIn f p v).hl = m.hl := (rfl)
@[simp] theorem Mach.orIn_fw (m : Mach) (f : Fld) (p v : Nat) : (m.orIn f p v).fw = m.fw := (rfl)
@[simp] theorem Mach.orIn_ticks (m : Mach) (f : Fld) (p v : Nat) : (m.orIn f p v).ticks = m.ticks := (rfl)
@[simp] theorem Mach.orIn_pow (m : Mach) (f : Fld) (p v : Nat) : (m.orIn f p v).pow = m.pow := (rfl)
@[simp] theorem Mach.orIn_out (m : Mach) (f : Fld) (p v : Nat) : (m.orIn f p v).out = m.out := (rfl)
@[simp] theorem Mach.orIn_free (m : Mach) (f : Fld) (p v : Nat) : (m.orIn f p v).free = m.free := (rfl)
@[simp] theorem Mach.orIn_byte (m : Mach) (f : Fld) (p v : Nat) (a : Nat) : (m.orIn f p v).byte a = m.byte a := (rfl)
@[simp] theorem Mach.orIn_tile (m : Mach) (f : Fld) (p v : Nat) (t : Nat) : (m.orIn f p v).tile t = m.tile t := (rfl)
@[simp] theorem Mach.orIn_ve (m : Mach) (f : Fld) (p v : Nat) (c : Nat) : (m.orIn f p v).ve c = m.ve c := (rfl)
@[simp] theorem Mach.orIn_arb (m : Mach) (f : Fld) (p v : Nat) (a : ArbId) : (m.orIn f p v).arb a = m.arb a := (rfl)
@[simp] theorem Mach.orIn_sl (m : Mach) (f : Fld) (p v : Nat) (k : Nat) : (m.orIn f p v).sl k = m.sl k := (rfl)
@[simp] theorem Mach.orIn_lane (m : Mach) (f : Fld) (p v : Nat) (n : Nat) : (m.orIn f p v).lane n = m.lane n := (rfl)
@[simp] theorem Mach.orIn_port (m : Mach) (f : Fld) (p v : Nat) (n : Nat) : (m.orIn f p v).port n = m.port n := (rfl)
@[simp] theorem Mach.orIn_se (m : Mach) (f : Fld) (p v : Nat) (d e : Nat) : (m.orIn f p v).se d e = m.se d e := (rfl)
@[simp] theorem Mach.orIn_farCh (m : Mach) (f : Fld) (p v : Nat) (h : Nat) : (m.orIn f p v).farCh h = m.farCh h := (rfl)
@[simp] theorem Mach.orIn_fni (m : Mach) (f : Fld) (p v : Nat) (k : Nat) : (m.orIn f p v).fni k = m.fni k := (rfl)
@[simp] theorem Mach.orIn_proc (m : Mach) (f : Fld) (p v : Nat) (p' : Nat) : (m.orIn f p v).proc p' = m.proc p' := (rfl)

@[simp] theorem Mach.send_fuses (m : Mach) (o : Output) : (m.send o).fuses = m.fuses := (rfl)
@[simp] theorem Mach.send_fields (m : Mach) (o : Output) : (m.send o).fields = m.fields := (rfl)
@[simp] theorem Mach.send_mem (m : Mach) (o : Output) : (m.send o).mem = m.mem := (rfl)
@[simp] theorem Mach.send_bankBad (m : Mach) (o : Output) : (m.send o).bankBad = m.bankBad := (rfl)
@[simp] theorem Mach.send_tiles (m : Mach) (o : Output) : (m.send o).tiles = m.tiles := (rfl)
@[simp] theorem Mach.send_ves (m : Mach) (o : Output) : (m.send o).ves = m.ves := (rfl)
@[simp] theorem Mach.send_arbs (m : Mach) (o : Output) : (m.send o).arbs = m.arbs := (rfl)
@[simp] theorem Mach.send_bankOut (m : Mach) (o : Output) : (m.send o).bankOut = m.bankOut := (rfl)
@[simp] theorem Mach.send_arrayCycle (m : Mach) (o : Output) : (m.send o).arrayCycle = m.arrayCycle := (rfl)
@[simp] theorem Mach.send_nocCycle (m : Mach) (o : Output) : (m.send o).nocCycle = m.nocCycle := (rfl)
@[simp] theorem Mach.send_near (m : Mach) (o : Output) : (m.send o).near = m.near := (rfl)
@[simp] theorem Mach.send_test (m : Mach) (o : Output) : (m.send o).test = m.test := (rfl)
@[simp] theorem Mach.send_far (m : Mach) (o : Output) : (m.send o).far = m.far := (rfl)
@[simp] theorem Mach.send_alm (m : Mach) (o : Output) : (m.send o).alm = m.alm := (rfl)
@[simp] theorem Mach.send_ses (m : Mach) (o : Output) : (m.send o).ses = m.ses := (rfl)
@[simp] theorem Mach.send_net (m : Mach) (o : Output) : (m.send o).net = m.net := (rfl)
@[simp] theorem Mach.send_fab (m : Mach) (o : Output) : (m.send o).fab = m.fab := (rfl)
@[simp] theorem Mach.send_slices (m : Mach) (o : Output) : (m.send o).slices = m.slices := (rfl)
@[simp] theorem Mach.send_cfg (m : Mach) (o : Output) : (m.send o).cfg = m.cfg := (rfl)
@[simp] theorem Mach.send_lanes (m : Mach) (o : Output) : (m.send o).lanes = m.lanes := (rfl)
@[simp] theorem Mach.send_ports (m : Mach) (o : Output) : (m.send o).ports = m.ports := (rfl)
@[simp] theorem Mach.send_hl (m : Mach) (o : Output) : (m.send o).hl = m.hl := (rfl)
@[simp] theorem Mach.send_fw (m : Mach) (o : Output) : (m.send o).fw = m.fw := (rfl)
@[simp] theorem Mach.send_ticks (m : Mach) (o : Output) : (m.send o).ticks = m.ticks := (rfl)
@[simp] theorem Mach.send_pow (m : Mach) (o : Output) : (m.send o).pow = m.pow := (rfl)
@[simp] theorem Mach.send_free (m : Mach) (o : Output) : (m.send o).free = m.free := (rfl)
@[simp] theorem Mach.send_rd (m : Mach) (o : Output) (f : Fld) (p : Nat) : (m.send o).rd f p = m.rd f p := (rfl)
@[simp] theorem Mach.send_on (m : Mach) (o : Output) (f : Fld) (p : Nat) : (m.send o).on f p = m.on f p := (rfl)
@[simp] theorem Mach.send_byte (m : Mach) (o : Output) (a : Nat) : (m.send o).byte a = m.byte a := (rfl)
@[simp] theorem Mach.send_tile (m : Mach) (o : Output) (t : Nat) : (m.send o).tile t = m.tile t := (rfl)
@[simp] theorem Mach.send_ve (m : Mach) (o : Output) (c : Nat) : (m.send o).ve c = m.ve c := (rfl)
@[simp] theorem Mach.send_arb (m : Mach) (o : Output) (a : ArbId) : (m.send o).arb a = m.arb a := (rfl)
@[simp] theorem Mach.send_sl (m : Mach) (o : Output) (k : Nat) : (m.send o).sl k = m.sl k := (rfl)
@[simp] theorem Mach.send_lane (m : Mach) (o : Output) (n : Nat) : (m.send o).lane n = m.lane n := (rfl)
@[simp] theorem Mach.send_port (m : Mach) (o : Output) (n : Nat) : (m.send o).port n = m.port n := (rfl)
@[simp] theorem Mach.send_se (m : Mach) (o : Output) (d e : Nat) : (m.send o).se d e = m.se d e := (rfl)
@[simp] theorem Mach.send_farCh (m : Mach) (o : Output) (h : Nat) : (m.send o).farCh h = m.farCh h := (rfl)
@[simp] theorem Mach.send_fni (m : Mach) (o : Output) (k : Nat) : (m.send o).fni k = m.fni k := (rfl)
@[simp] theorem Mach.send_proc (m : Mach) (o : Output) (p : Nat) : (m.send o).proc p = m.proc p := (rfl)

@[simp] theorem Mach.respond_fuses (m : Mach) (who st : Nat) : (m.respond who st).fuses = m.fuses := (rfl)
@[simp] theorem Mach.respond_fields (m : Mach) (who st : Nat) : (m.respond who st).fields = m.fields := (rfl)
@[simp] theorem Mach.respond_mem (m : Mach) (who st : Nat) : (m.respond who st).mem = m.mem := (rfl)
@[simp] theorem Mach.respond_bankBad (m : Mach) (who st : Nat) : (m.respond who st).bankBad = m.bankBad := (rfl)
@[simp] theorem Mach.respond_tiles (m : Mach) (who st : Nat) : (m.respond who st).tiles = m.tiles := (rfl)
@[simp] theorem Mach.respond_ves (m : Mach) (who st : Nat) : (m.respond who st).ves = m.ves := (rfl)
@[simp] theorem Mach.respond_arbs (m : Mach) (who st : Nat) : (m.respond who st).arbs = m.arbs := (rfl)
@[simp] theorem Mach.respond_bankOut (m : Mach) (who st : Nat) : (m.respond who st).bankOut = m.bankOut := (rfl)
@[simp] theorem Mach.respond_arrayCycle (m : Mach) (who st : Nat) : (m.respond who st).arrayCycle = m.arrayCycle := (rfl)
@[simp] theorem Mach.respond_nocCycle (m : Mach) (who st : Nat) : (m.respond who st).nocCycle = m.nocCycle := (rfl)
@[simp] theorem Mach.respond_near (m : Mach) (who st : Nat) : (m.respond who st).near = m.near := (rfl)
@[simp] theorem Mach.respond_test (m : Mach) (who st : Nat) : (m.respond who st).test = m.test := (rfl)
@[simp] theorem Mach.respond_far (m : Mach) (who st : Nat) : (m.respond who st).far = m.far := (rfl)
@[simp] theorem Mach.respond_alm (m : Mach) (who st : Nat) : (m.respond who st).alm = m.alm := (rfl)
@[simp] theorem Mach.respond_ses (m : Mach) (who st : Nat) : (m.respond who st).ses = m.ses := (rfl)
@[simp] theorem Mach.respond_net (m : Mach) (who st : Nat) : (m.respond who st).net = m.net := (rfl)
@[simp] theorem Mach.respond_fab (m : Mach) (who st : Nat) : (m.respond who st).fab = m.fab := (rfl)
@[simp] theorem Mach.respond_slices (m : Mach) (who st : Nat) : (m.respond who st).slices = m.slices := (rfl)
@[simp] theorem Mach.respond_cfg (m : Mach) (who st : Nat) : (m.respond who st).cfg = m.cfg := (rfl)
@[simp] theorem Mach.respond_lanes (m : Mach) (who st : Nat) : (m.respond who st).lanes = m.lanes := (rfl)
@[simp] theorem Mach.respond_ports (m : Mach) (who st : Nat) : (m.respond who st).ports = m.ports := (rfl)
@[simp] theorem Mach.respond_hl (m : Mach) (who st : Nat) : (m.respond who st).hl = m.hl := (rfl)
@[simp] theorem Mach.respond_fw (m : Mach) (who st : Nat) : (m.respond who st).fw = m.fw := (rfl)
@[simp] theorem Mach.respond_ticks (m : Mach) (who st : Nat) : (m.respond who st).ticks = m.ticks := (rfl)
@[simp] theorem Mach.respond_pow (m : Mach) (who st : Nat) : (m.respond who st).pow = m.pow := (rfl)
@[simp] theorem Mach.respond_free (m : Mach) (who st : Nat) : (m.respond who st).free = m.free := (rfl)
@[simp] theorem Mach.respond_rd (m : Mach) (who st : Nat) (f : Fld) (p : Nat) : (m.respond who st).rd f p = m.rd f p := (rfl)
@[simp] theorem Mach.respond_on (m : Mach) (who st : Nat) (f : Fld) (p : Nat) : (m.respond who st).on f p = m.on f p := (rfl)
@[simp] theorem Mach.respond_byte (m : Mach) (who st : Nat) (a : Nat) : (m.respond who st).byte a = m.byte a := (rfl)
@[simp] theorem Mach.respond_tile (m : Mach) (who st : Nat) (t : Nat) : (m.respond who st).tile t = m.tile t := (rfl)
@[simp] theorem Mach.respond_ve (m : Mach) (who st : Nat) (c : Nat) : (m.respond who st).ve c = m.ve c := (rfl)
@[simp] theorem Mach.respond_arb (m : Mach) (who st : Nat) (a : ArbId) : (m.respond who st).arb a = m.arb a := (rfl)
@[simp] theorem Mach.respond_sl (m : Mach) (who st : Nat) (k : Nat) : (m.respond who st).sl k = m.sl k := (rfl)
@[simp] theorem Mach.respond_lane (m : Mach) (who st : Nat) (n : Nat) : (m.respond who st).lane n = m.lane n := (rfl)
@[simp] theorem Mach.respond_port (m : Mach) (who st : Nat) (n : Nat) : (m.respond who st).port n = m.port n := (rfl)
@[simp] theorem Mach.respond_se (m : Mach) (who st : Nat) (d e : Nat) : (m.respond who st).se d e = m.se d e := (rfl)
@[simp] theorem Mach.respond_farCh (m : Mach) (who st : Nat) (h : Nat) : (m.respond who st).farCh h = m.farCh h := (rfl)
@[simp] theorem Mach.respond_fni (m : Mach) (who st : Nat) (k : Nat) : (m.respond who st).fni k = m.fni k := (rfl)
@[simp] theorem Mach.respond_proc (m : Mach) (who st : Nat) (p : Nat) : (m.respond who st).proc p = m.proc p := (rfl)

@[simp] theorem Mach.putByte_fuses (m : Mach) (a : Nat) (b : Byte) : (m.putByte a b).fuses = m.fuses := (rfl)
@[simp] theorem Mach.putByte_fields (m : Mach) (a : Nat) (b : Byte) : (m.putByte a b).fields = m.fields := (rfl)
@[simp] theorem Mach.putByte_bankBad (m : Mach) (a : Nat) (b : Byte) : (m.putByte a b).bankBad = m.bankBad := (rfl)
@[simp] theorem Mach.putByte_tiles (m : Mach) (a : Nat) (b : Byte) : (m.putByte a b).tiles = m.tiles := (rfl)
@[simp] theorem Mach.putByte_ves (m : Mach) (a : Nat) (b : Byte) : (m.putByte a b).ves = m.ves := (rfl)
@[simp] theorem Mach.putByte_arbs (m : Mach) (a : Nat) (b : Byte) : (m.putByte a b).arbs = m.arbs := (rfl)
@[simp] theorem Mach.putByte_bankOut (m : Mach) (a : Nat) (b : Byte) : (m.putByte a b).bankOut = m.bankOut := (rfl)
@[simp] theorem Mach.putByte_arrayCycle (m : Mach) (a : Nat) (b : Byte) : (m.putByte a b).arrayCycle = m.arrayCycle := (rfl)
@[simp] theorem Mach.putByte_nocCycle (m : Mach) (a : Nat) (b : Byte) : (m.putByte a b).nocCycle = m.nocCycle := (rfl)
@[simp] theorem Mach.putByte_near (m : Mach) (a : Nat) (b : Byte) : (m.putByte a b).near = m.near := (rfl)
@[simp] theorem Mach.putByte_test (m : Mach) (a : Nat) (b : Byte) : (m.putByte a b).test = m.test := (rfl)
@[simp] theorem Mach.putByte_far (m : Mach) (a : Nat) (b : Byte) : (m.putByte a b).far = m.far := (rfl)
@[simp] theorem Mach.putByte_alm (m : Mach) (a : Nat) (b : Byte) : (m.putByte a b).alm = m.alm := (rfl)
@[simp] theorem Mach.putByte_ses (m : Mach) (a : Nat) (b : Byte) : (m.putByte a b).ses = m.ses := (rfl)
@[simp] theorem Mach.putByte_net (m : Mach) (a : Nat) (b : Byte) : (m.putByte a b).net = m.net := (rfl)
@[simp] theorem Mach.putByte_fab (m : Mach) (a : Nat) (b : Byte) : (m.putByte a b).fab = m.fab := (rfl)
@[simp] theorem Mach.putByte_slices (m : Mach) (a : Nat) (b : Byte) : (m.putByte a b).slices = m.slices := (rfl)
@[simp] theorem Mach.putByte_cfg (m : Mach) (a : Nat) (b : Byte) : (m.putByte a b).cfg = m.cfg := (rfl)
@[simp] theorem Mach.putByte_lanes (m : Mach) (a : Nat) (b : Byte) : (m.putByte a b).lanes = m.lanes := (rfl)
@[simp] theorem Mach.putByte_ports (m : Mach) (a : Nat) (b : Byte) : (m.putByte a b).ports = m.ports := (rfl)
@[simp] theorem Mach.putByte_hl (m : Mach) (a : Nat) (b : Byte) : (m.putByte a b).hl = m.hl := (rfl)
@[simp] theorem Mach.putByte_fw (m : Mach) (a : Nat) (b : Byte) : (m.putByte a b).fw = m.fw := (rfl)
@[simp] theorem Mach.putByte_ticks (m : Mach) (a : Nat) (b : Byte) : (m.putByte a b).ticks = m.ticks := (rfl)
@[simp] theorem Mach.putByte_pow (m : Mach) (a : Nat) (b : Byte) : (m.putByte a b).pow = m.pow := (rfl)
@[simp] theorem Mach.putByte_out (m : Mach) (a : Nat) (b : Byte) : (m.putByte a b).out = m.out := (rfl)
@[simp] theorem Mach.putByte_free (m : Mach) (a : Nat) (b : Byte) : (m.putByte a b).free = m.free := (rfl)
@[simp] theorem Mach.putByte_rd (m : Mach) (a : Nat) (b : Byte) (f : Fld) (p : Nat) : (m.putByte a b).rd f p = m.rd f p := (rfl)
@[simp] theorem Mach.putByte_on (m : Mach) (a : Nat) (b : Byte) (f : Fld) (p : Nat) : (m.putByte a b).on f p = m.on f p := (rfl)
@[simp] theorem Mach.putByte_tile (m : Mach) (a : Nat) (b : Byte) (t : Nat) : (m.putByte a b).tile t = m.tile t := (rfl)
@[simp] theorem Mach.putByte_ve (m : Mach) (a : Nat) (b : Byte) (c : Nat) : (m.putByte a b).ve c = m.ve c := (rfl)
@[simp] theorem Mach.putByte_arb (m : Mach) (a : Nat) (b : Byte) (a' : ArbId) : (m.putByte a b).arb a' = m.arb a' := (rfl)
@[simp] theorem Mach.putByte_sl (m : Mach) (a : Nat) (b : Byte) (k : Nat) : (m.putByte a b).sl k = m.sl k := (rfl)
@[simp] theorem Mach.putByte_lane (m : Mach) (a : Nat) (b : Byte) (n : Nat) : (m.putByte a b).lane n = m.lane n := (rfl)
@[simp] theorem Mach.putByte_port (m : Mach) (a : Nat) (b : Byte) (n : Nat) : (m.putByte a b).port n = m.port n := (rfl)
@[simp] theorem Mach.putByte_se (m : Mach) (a : Nat) (b : Byte) (d e : Nat) : (m.putByte a b).se d e = m.se d e := (rfl)
@[simp] theorem Mach.putByte_farCh (m : Mach) (a : Nat) (b : Byte) (h : Nat) : (m.putByte a b).farCh h = m.farCh h := (rfl)
@[simp] theorem Mach.putByte_fni (m : Mach) (a : Nat) (b : Byte) (k : Nat) : (m.putByte a b).fni k = m.fni k := (rfl)
@[simp] theorem Mach.putByte_proc (m : Mach) (a : Nat) (b : Byte) (p : Nat) : (m.putByte a b).proc p = m.proc p := (rfl)

@[simp] theorem Mach.setTile_fuses (m : Mach) (t : Nat) (x : Tile) : (m.setTile t x).fuses = m.fuses := (rfl)
@[simp] theorem Mach.setTile_fields (m : Mach) (t : Nat) (x : Tile) : (m.setTile t x).fields = m.fields := (rfl)
@[simp] theorem Mach.setTile_mem (m : Mach) (t : Nat) (x : Tile) : (m.setTile t x).mem = m.mem := (rfl)
@[simp] theorem Mach.setTile_bankBad (m : Mach) (t : Nat) (x : Tile) : (m.setTile t x).bankBad = m.bankBad := (rfl)
@[simp] theorem Mach.setTile_ves (m : Mach) (t : Nat) (x : Tile) : (m.setTile t x).ves = m.ves := (rfl)
@[simp] theorem Mach.setTile_arbs (m : Mach) (t : Nat) (x : Tile) : (m.setTile t x).arbs = m.arbs := (rfl)
@[simp] theorem Mach.setTile_bankOut (m : Mach) (t : Nat) (x : Tile) : (m.setTile t x).bankOut = m.bankOut := (rfl)
@[simp] theorem Mach.setTile_arrayCycle (m : Mach) (t : Nat) (x : Tile) : (m.setTile t x).arrayCycle = m.arrayCycle := (rfl)
@[simp] theorem Mach.setTile_nocCycle (m : Mach) (t : Nat) (x : Tile) : (m.setTile t x).nocCycle = m.nocCycle := (rfl)
@[simp] theorem Mach.setTile_near (m : Mach) (t : Nat) (x : Tile) : (m.setTile t x).near = m.near := (rfl)
@[simp] theorem Mach.setTile_test (m : Mach) (t : Nat) (x : Tile) : (m.setTile t x).test = m.test := (rfl)
@[simp] theorem Mach.setTile_far (m : Mach) (t : Nat) (x : Tile) : (m.setTile t x).far = m.far := (rfl)
@[simp] theorem Mach.setTile_alm (m : Mach) (t : Nat) (x : Tile) : (m.setTile t x).alm = m.alm := (rfl)
@[simp] theorem Mach.setTile_ses (m : Mach) (t : Nat) (x : Tile) : (m.setTile t x).ses = m.ses := (rfl)
@[simp] theorem Mach.setTile_net (m : Mach) (t : Nat) (x : Tile) : (m.setTile t x).net = m.net := (rfl)
@[simp] theorem Mach.setTile_fab (m : Mach) (t : Nat) (x : Tile) : (m.setTile t x).fab = m.fab := (rfl)
@[simp] theorem Mach.setTile_slices (m : Mach) (t : Nat) (x : Tile) : (m.setTile t x).slices = m.slices := (rfl)
@[simp] theorem Mach.setTile_cfg (m : Mach) (t : Nat) (x : Tile) : (m.setTile t x).cfg = m.cfg := (rfl)
@[simp] theorem Mach.setTile_lanes (m : Mach) (t : Nat) (x : Tile) : (m.setTile t x).lanes = m.lanes := (rfl)
@[simp] theorem Mach.setTile_ports (m : Mach) (t : Nat) (x : Tile) : (m.setTile t x).ports = m.ports := (rfl)
@[simp] theorem Mach.setTile_hl (m : Mach) (t : Nat) (x : Tile) : (m.setTile t x).hl = m.hl := (rfl)
@[simp] theorem Mach.setTile_fw (m : Mach) (t : Nat) (x : Tile) : (m.setTile t x).fw = m.fw := (rfl)
@[simp] theorem Mach.setTile_ticks (m : Mach) (t : Nat) (x : Tile) : (m.setTile t x).ticks = m.ticks := (rfl)
@[simp] theorem Mach.setTile_pow (m : Mach) (t : Nat) (x : Tile) : (m.setTile t x).pow = m.pow := (rfl)
@[simp] theorem Mach.setTile_out (m : Mach) (t : Nat) (x : Tile) : (m.setTile t x).out = m.out := (rfl)
@[simp] theorem Mach.setTile_free (m : Mach) (t : Nat) (x : Tile) : (m.setTile t x).free = m.free := (rfl)
@[simp] theorem Mach.setTile_rd (m : Mach) (t : Nat) (x : Tile) (f : Fld) (p : Nat) : (m.setTile t x).rd f p = m.rd f p := (rfl)
@[simp] theorem Mach.setTile_on (m : Mach) (t : Nat) (x : Tile) (f : Fld) (p : Nat) : (m.setTile t x).on f p = m.on f p := (rfl)
@[simp] theorem Mach.setTile_byte (m : Mach) (t : Nat) (x : Tile) (a : Nat) : (m.setTile t x).byte a = m.byte a := (rfl)
@[simp] theorem Mach.setTile_ve (m : Mach) (t : Nat) (x : Tile) (c : Nat) : (m.setTile t x).ve c = m.ve c := (rfl)
@[simp] theorem Mach.setTile_arb (m : Mach) (t : Nat) (x : Tile) (a : ArbId) : (m.setTile t x).arb a = m.arb a := (rfl)
@[simp] theorem Mach.setTile_sl (m : Mach) (t : Nat) (x : Tile) (k : Nat) : (m.setTile t x).sl k = m.sl k := (rfl)
@[simp] theorem Mach.setTile_lane (m : Mach) (t : Nat) (x : Tile) (n : Nat) : (m.setTile t x).lane n = m.lane n := (rfl)
@[simp] theorem Mach.setTile_port (m : Mach) (t : Nat) (x : Tile) (n : Nat) : (m.setTile t x).port n = m.port n := (rfl)
@[simp] theorem Mach.setTile_se (m : Mach) (t : Nat) (x : Tile) (d e : Nat) : (m.setTile t x).se d e = m.se d e := (rfl)
@[simp] theorem Mach.setTile_farCh (m : Mach) (t : Nat) (x : Tile) (h : Nat) : (m.setTile t x).farCh h = m.farCh h := (rfl)
@[simp] theorem Mach.setTile_fni (m : Mach) (t : Nat) (x : Tile) (k : Nat) : (m.setTile t x).fni k = m.fni k := (rfl)
@[simp] theorem Mach.setTile_proc (m : Mach) (t : Nat) (x : Tile) (p : Nat) : (m.setTile t x).proc p = m.proc p := (rfl)

@[simp] theorem Mach.setVe_fuses (m : Mach) (c : Nat) (x : Ve) : (m.setVe c x).fuses = m.fuses := (rfl)
@[simp] theorem Mach.setVe_fields (m : Mach) (c : Nat) (x : Ve) : (m.setVe c x).fields = m.fields := (rfl)
@[simp] theorem Mach.setVe_mem (m : Mach) (c : Nat) (x : Ve) : (m.setVe c x).mem = m.mem := (rfl)
@[simp] theorem Mach.setVe_bankBad (m : Mach) (c : Nat) (x : Ve) : (m.setVe c x).bankBad = m.bankBad := (rfl)
@[simp] theorem Mach.setVe_tiles (m : Mach) (c : Nat) (x : Ve) : (m.setVe c x).tiles = m.tiles := (rfl)
@[simp] theorem Mach.setVe_arbs (m : Mach) (c : Nat) (x : Ve) : (m.setVe c x).arbs = m.arbs := (rfl)
@[simp] theorem Mach.setVe_bankOut (m : Mach) (c : Nat) (x : Ve) : (m.setVe c x).bankOut = m.bankOut := (rfl)
@[simp] theorem Mach.setVe_arrayCycle (m : Mach) (c : Nat) (x : Ve) : (m.setVe c x).arrayCycle = m.arrayCycle := (rfl)
@[simp] theorem Mach.setVe_nocCycle (m : Mach) (c : Nat) (x : Ve) : (m.setVe c x).nocCycle = m.nocCycle := (rfl)
@[simp] theorem Mach.setVe_near (m : Mach) (c : Nat) (x : Ve) : (m.setVe c x).near = m.near := (rfl)
@[simp] theorem Mach.setVe_test (m : Mach) (c : Nat) (x : Ve) : (m.setVe c x).test = m.test := (rfl)
@[simp] theorem Mach.setVe_far (m : Mach) (c : Nat) (x : Ve) : (m.setVe c x).far = m.far := (rfl)
@[simp] theorem Mach.setVe_alm (m : Mach) (c : Nat) (x : Ve) : (m.setVe c x).alm = m.alm := (rfl)
@[simp] theorem Mach.setVe_ses (m : Mach) (c : Nat) (x : Ve) : (m.setVe c x).ses = m.ses := (rfl)
@[simp] theorem Mach.setVe_net (m : Mach) (c : Nat) (x : Ve) : (m.setVe c x).net = m.net := (rfl)
@[simp] theorem Mach.setVe_fab (m : Mach) (c : Nat) (x : Ve) : (m.setVe c x).fab = m.fab := (rfl)
@[simp] theorem Mach.setVe_slices (m : Mach) (c : Nat) (x : Ve) : (m.setVe c x).slices = m.slices := (rfl)
@[simp] theorem Mach.setVe_cfg (m : Mach) (c : Nat) (x : Ve) : (m.setVe c x).cfg = m.cfg := (rfl)
@[simp] theorem Mach.setVe_lanes (m : Mach) (c : Nat) (x : Ve) : (m.setVe c x).lanes = m.lanes := (rfl)
@[simp] theorem Mach.setVe_ports (m : Mach) (c : Nat) (x : Ve) : (m.setVe c x).ports = m.ports := (rfl)
@[simp] theorem Mach.setVe_hl (m : Mach) (c : Nat) (x : Ve) : (m.setVe c x).hl = m.hl := (rfl)
@[simp] theorem Mach.setVe_fw (m : Mach) (c : Nat) (x : Ve) : (m.setVe c x).fw = m.fw := (rfl)
@[simp] theorem Mach.setVe_ticks (m : Mach) (c : Nat) (x : Ve) : (m.setVe c x).ticks = m.ticks := (rfl)
@[simp] theorem Mach.setVe_pow (m : Mach) (c : Nat) (x : Ve) : (m.setVe c x).pow = m.pow := (rfl)
@[simp] theorem Mach.setVe_out (m : Mach) (c : Nat) (x : Ve) : (m.setVe c x).out = m.out := (rfl)
@[simp] theorem Mach.setVe_free (m : Mach) (c : Nat) (x : Ve) : (m.setVe c x).free = m.free := (rfl)
@[simp] theorem Mach.setVe_rd (m : Mach) (c : Nat) (x : Ve) (f : Fld) (p : Nat) : (m.setVe c x).rd f p = m.rd f p := (rfl)
@[simp] theorem Mach.setVe_on (m : Mach) (c : Nat) (x : Ve) (f : Fld) (p : Nat) : (m.setVe c x).on f p = m.on f p := (rfl)
@[simp] theorem Mach.setVe_byte (m : Mach) (c : Nat) (x : Ve) (a : Nat) : (m.setVe c x).byte a = m.byte a := (rfl)
@[simp] theorem Mach.setVe_tile (m : Mach) (c : Nat) (x : Ve) (t : Nat) : (m.setVe c x).tile t = m.tile t := (rfl)
@[simp] theorem Mach.setVe_arb (m : Mach) (c : Nat) (x : Ve) (a : ArbId) : (m.setVe c x).arb a = m.arb a := (rfl)
@[simp] theorem Mach.setVe_sl (m : Mach) (c : Nat) (x : Ve) (k : Nat) : (m.setVe c x).sl k = m.sl k := (rfl)
@[simp] theorem Mach.setVe_lane (m : Mach) (c : Nat) (x : Ve) (n : Nat) : (m.setVe c x).lane n = m.lane n := (rfl)
@[simp] theorem Mach.setVe_port (m : Mach) (c : Nat) (x : Ve) (n : Nat) : (m.setVe c x).port n = m.port n := (rfl)
@[simp] theorem Mach.setVe_se (m : Mach) (c : Nat) (x : Ve) (d e : Nat) : (m.setVe c x).se d e = m.se d e := (rfl)
@[simp] theorem Mach.setVe_farCh (m : Mach) (c : Nat) (x : Ve) (h : Nat) : (m.setVe c x).farCh h = m.farCh h := (rfl)
@[simp] theorem Mach.setVe_fni (m : Mach) (c : Nat) (x : Ve) (k : Nat) : (m.setVe c x).fni k = m.fni k := (rfl)
@[simp] theorem Mach.setVe_proc (m : Mach) (c : Nat) (x : Ve) (p : Nat) : (m.setVe c x).proc p = m.proc p := (rfl)

@[simp] theorem Mach.setArb_fuses (m : Mach) (a : ArbId) (x : Arb) : (m.setArb a x).fuses = m.fuses := (rfl)
@[simp] theorem Mach.setArb_fields (m : Mach) (a : ArbId) (x : Arb) : (m.setArb a x).fields = m.fields := (rfl)
@[simp] theorem Mach.setArb_mem (m : Mach) (a : ArbId) (x : Arb) : (m.setArb a x).mem = m.mem := (rfl)
@[simp] theorem Mach.setArb_bankBad (m : Mach) (a : ArbId) (x : Arb) : (m.setArb a x).bankBad = m.bankBad := (rfl)
@[simp] theorem Mach.setArb_tiles (m : Mach) (a : ArbId) (x : Arb) : (m.setArb a x).tiles = m.tiles := (rfl)
@[simp] theorem Mach.setArb_ves (m : Mach) (a : ArbId) (x : Arb) : (m.setArb a x).ves = m.ves := (rfl)
@[simp] theorem Mach.setArb_bankOut (m : Mach) (a : ArbId) (x : Arb) : (m.setArb a x).bankOut = m.bankOut := (rfl)
@[simp] theorem Mach.setArb_arrayCycle (m : Mach) (a : ArbId) (x : Arb) : (m.setArb a x).arrayCycle = m.arrayCycle := (rfl)
@[simp] theorem Mach.setArb_nocCycle (m : Mach) (a : ArbId) (x : Arb) : (m.setArb a x).nocCycle = m.nocCycle := (rfl)
@[simp] theorem Mach.setArb_near (m : Mach) (a : ArbId) (x : Arb) : (m.setArb a x).near = m.near := (rfl)
@[simp] theorem Mach.setArb_test (m : Mach) (a : ArbId) (x : Arb) : (m.setArb a x).test = m.test := (rfl)
@[simp] theorem Mach.setArb_far (m : Mach) (a : ArbId) (x : Arb) : (m.setArb a x).far = m.far := (rfl)
@[simp] theorem Mach.setArb_alm (m : Mach) (a : ArbId) (x : Arb) : (m.setArb a x).alm = m.alm := (rfl)
@[simp] theorem Mach.setArb_ses (m : Mach) (a : ArbId) (x : Arb) : (m.setArb a x).ses = m.ses := (rfl)
@[simp] theorem Mach.setArb_net (m : Mach) (a : ArbId) (x : Arb) : (m.setArb a x).net = m.net := (rfl)
@[simp] theorem Mach.setArb_fab (m : Mach) (a : ArbId) (x : Arb) : (m.setArb a x).fab = m.fab := (rfl)
@[simp] theorem Mach.setArb_slices (m : Mach) (a : ArbId) (x : Arb) : (m.setArb a x).slices = m.slices := (rfl)
@[simp] theorem Mach.setArb_cfg (m : Mach) (a : ArbId) (x : Arb) : (m.setArb a x).cfg = m.cfg := (rfl)
@[simp] theorem Mach.setArb_lanes (m : Mach) (a : ArbId) (x : Arb) : (m.setArb a x).lanes = m.lanes := (rfl)
@[simp] theorem Mach.setArb_ports (m : Mach) (a : ArbId) (x : Arb) : (m.setArb a x).ports = m.ports := (rfl)
@[simp] theorem Mach.setArb_hl (m : Mach) (a : ArbId) (x : Arb) : (m.setArb a x).hl = m.hl := (rfl)
@[simp] theorem Mach.setArb_fw (m : Mach) (a : ArbId) (x : Arb) : (m.setArb a x).fw = m.fw := (rfl)
@[simp] theorem Mach.setArb_ticks (m : Mach) (a : ArbId) (x : Arb) : (m.setArb a x).ticks = m.ticks := (rfl)
@[simp] theorem Mach.setArb_pow (m : Mach) (a : ArbId) (x : Arb) : (m.setArb a x).pow = m.pow := (rfl)
@[simp] theorem Mach.setArb_out (m : Mach) (a : ArbId) (x : Arb) : (m.setArb a x).out = m.out := (rfl)
@[simp] theorem Mach.setArb_free (m : Mach) (a : ArbId) (x : Arb) : (m.setArb a x).free = m.free := (rfl)
@[simp] theorem Mach.setArb_rd (m : Mach) (a : ArbId) (x : Arb) (f : Fld) (p : Nat) : (m.setArb a x).rd f p = m.rd f p := (rfl)
@[simp] theorem Mach.setArb_on (m : Mach) (a : ArbId) (x : Arb) (f : Fld) (p : Nat) : (m.setArb a x).on f p = m.on f p := (rfl)
@[simp] theorem Mach.setArb_byte (m : Mach) (a : ArbId) (x : Arb) (a' : Nat) : (m.setArb a x).byte a' = m.byte a' := (rfl)
@[simp] theorem Mach.setArb_tile (m : Mach) (a : ArbId) (x : Arb) (t : Nat) : (m.setArb a x).tile t = m.tile t := (rfl)
@[simp] theorem Mach.setArb_ve (m : Mach) (a : ArbId) (x : Arb) (c : Nat) : (m.setArb a x).ve c = m.ve c := (rfl)
@[simp] theorem Mach.setArb_sl (m : Mach) (a : ArbId) (x : Arb) (k : Nat) : (m.setArb a x).sl k = m.sl k := (rfl)
@[simp] theorem Mach.setArb_lane (m : Mach) (a : ArbId) (x : Arb) (n : Nat) : (m.setArb a x).lane n = m.lane n := (rfl)
@[simp] theorem Mach.setArb_port (m : Mach) (a : ArbId) (x : Arb) (n : Nat) : (m.setArb a x).port n = m.port n := (rfl)
@[simp] theorem Mach.setArb_se (m : Mach) (a : ArbId) (x : Arb) (d e : Nat) : (m.setArb a x).se d e = m.se d e := (rfl)
@[simp] theorem Mach.setArb_farCh (m : Mach) (a : ArbId) (x : Arb) (h : Nat) : (m.setArb a x).farCh h = m.farCh h := (rfl)
@[simp] theorem Mach.setArb_fni (m : Mach) (a : ArbId) (x : Arb) (k : Nat) : (m.setArb a x).fni k = m.fni k := (rfl)
@[simp] theorem Mach.setArb_proc (m : Mach) (a : ArbId) (x : Arb) (p : Nat) : (m.setArb a x).proc p = m.proc p := (rfl)

@[simp] theorem Mach.setFar_fuses (m : Mach) (h : Nat) (x : FarCh) : (m.setFar h x).fuses = m.fuses := (rfl)
@[simp] theorem Mach.setFar_fields (m : Mach) (h : Nat) (x : FarCh) : (m.setFar h x).fields = m.fields := (rfl)
@[simp] theorem Mach.setFar_mem (m : Mach) (h : Nat) (x : FarCh) : (m.setFar h x).mem = m.mem := (rfl)
@[simp] theorem Mach.setFar_bankBad (m : Mach) (h : Nat) (x : FarCh) : (m.setFar h x).bankBad = m.bankBad := (rfl)
@[simp] theorem Mach.setFar_tiles (m : Mach) (h : Nat) (x : FarCh) : (m.setFar h x).tiles = m.tiles := (rfl)
@[simp] theorem Mach.setFar_ves (m : Mach) (h : Nat) (x : FarCh) : (m.setFar h x).ves = m.ves := (rfl)
@[simp] theorem Mach.setFar_arbs (m : Mach) (h : Nat) (x : FarCh) : (m.setFar h x).arbs = m.arbs := (rfl)
@[simp] theorem Mach.setFar_bankOut (m : Mach) (h : Nat) (x : FarCh) : (m.setFar h x).bankOut = m.bankOut := (rfl)
@[simp] theorem Mach.setFar_arrayCycle (m : Mach) (h : Nat) (x : FarCh) : (m.setFar h x).arrayCycle = m.arrayCycle := (rfl)
@[simp] theorem Mach.setFar_nocCycle (m : Mach) (h : Nat) (x : FarCh) : (m.setFar h x).nocCycle = m.nocCycle := (rfl)
@[simp] theorem Mach.setFar_near (m : Mach) (h : Nat) (x : FarCh) : (m.setFar h x).near = m.near := (rfl)
@[simp] theorem Mach.setFar_test (m : Mach) (h : Nat) (x : FarCh) : (m.setFar h x).test = m.test := (rfl)
@[simp] theorem Mach.setFar_alm (m : Mach) (h : Nat) (x : FarCh) : (m.setFar h x).alm = m.alm := (rfl)
@[simp] theorem Mach.setFar_ses (m : Mach) (h : Nat) (x : FarCh) : (m.setFar h x).ses = m.ses := (rfl)
@[simp] theorem Mach.setFar_net (m : Mach) (h : Nat) (x : FarCh) : (m.setFar h x).net = m.net := (rfl)
@[simp] theorem Mach.setFar_fab (m : Mach) (h : Nat) (x : FarCh) : (m.setFar h x).fab = m.fab := (rfl)
@[simp] theorem Mach.setFar_slices (m : Mach) (h : Nat) (x : FarCh) : (m.setFar h x).slices = m.slices := (rfl)
@[simp] theorem Mach.setFar_cfg (m : Mach) (h : Nat) (x : FarCh) : (m.setFar h x).cfg = m.cfg := (rfl)
@[simp] theorem Mach.setFar_lanes (m : Mach) (h : Nat) (x : FarCh) : (m.setFar h x).lanes = m.lanes := (rfl)
@[simp] theorem Mach.setFar_ports (m : Mach) (h : Nat) (x : FarCh) : (m.setFar h x).ports = m.ports := (rfl)
@[simp] theorem Mach.setFar_hl (m : Mach) (h : Nat) (x : FarCh) : (m.setFar h x).hl = m.hl := (rfl)
@[simp] theorem Mach.setFar_fw (m : Mach) (h : Nat) (x : FarCh) : (m.setFar h x).fw = m.fw := (rfl)
@[simp] theorem Mach.setFar_ticks (m : Mach) (h : Nat) (x : FarCh) : (m.setFar h x).ticks = m.ticks := (rfl)
@[simp] theorem Mach.setFar_pow (m : Mach) (h : Nat) (x : FarCh) : (m.setFar h x).pow = m.pow := (rfl)
@[simp] theorem Mach.setFar_out (m : Mach) (h : Nat) (x : FarCh) : (m.setFar h x).out = m.out := (rfl)
@[simp] theorem Mach.setFar_free (m : Mach) (h : Nat) (x : FarCh) : (m.setFar h x).free = m.free := (rfl)
@[simp] theorem Mach.setFar_rd (m : Mach) (h : Nat) (x : FarCh) (f : Fld) (p : Nat) : (m.setFar h x).rd f p = m.rd f p := (rfl)
@[simp] theorem Mach.setFar_on (m : Mach) (h : Nat) (x : FarCh) (f : Fld) (p : Nat) : (m.setFar h x).on f p = m.on f p := (rfl)
@[simp] theorem Mach.setFar_byte (m : Mach) (h : Nat) (x : FarCh) (a : Nat) : (m.setFar h x).byte a = m.byte a := (rfl)
@[simp] theorem Mach.setFar_tile (m : Mach) (h : Nat) (x : FarCh) (t : Nat) : (m.setFar h x).tile t = m.tile t := (rfl)
@[simp] theorem Mach.setFar_ve (m : Mach) (h : Nat) (x : FarCh) (c : Nat) : (m.setFar h x).ve c = m.ve c := (rfl)
@[simp] theorem Mach.setFar_arb (m : Mach) (h : Nat) (x : FarCh) (a : ArbId) : (m.setFar h x).arb a = m.arb a := (rfl)
@[simp] theorem Mach.setFar_sl (m : Mach) (h : Nat) (x : FarCh) (k : Nat) : (m.setFar h x).sl k = m.sl k := (rfl)
@[simp] theorem Mach.setFar_lane (m : Mach) (h : Nat) (x : FarCh) (n : Nat) : (m.setFar h x).lane n = m.lane n := (rfl)
@[simp] theorem Mach.setFar_port (m : Mach) (h : Nat) (x : FarCh) (n : Nat) : (m.setFar h x).port n = m.port n := (rfl)
@[simp] theorem Mach.setFar_se (m : Mach) (h : Nat) (x : FarCh) (d e : Nat) : (m.setFar h x).se d e = m.se d e := (rfl)
@[simp] theorem Mach.setFar_fni (m : Mach) (h : Nat) (x : FarCh) (k : Nat) : (m.setFar h x).fni k = m.fni k := (rfl)
@[simp] theorem Mach.setFar_proc (m : Mach) (h : Nat) (x : FarCh) (p : Nat) : (m.setFar h x).proc p = m.proc p := (rfl)

@[simp] theorem Mach.setSl_fuses (m : Mach) (k : Nat) (x : Slice) : (m.setSl k x).fuses = m.fuses := (rfl)
@[simp] theorem Mach.setSl_fields (m : Mach) (k : Nat) (x : Slice) : (m.setSl k x).fields = m.fields := (rfl)
@[simp] theorem Mach.setSl_mem (m : Mach) (k : Nat) (x : Slice) : (m.setSl k x).mem = m.mem := (rfl)
@[simp] theorem Mach.setSl_bankBad (m : Mach) (k : Nat) (x : Slice) : (m.setSl k x).bankBad = m.bankBad := (rfl)
@[simp] theorem Mach.setSl_tiles (m : Mach) (k : Nat) (x : Slice) : (m.setSl k x).tiles = m.tiles := (rfl)
@[simp] theorem Mach.setSl_ves (m : Mach) (k : Nat) (x : Slice) : (m.setSl k x).ves = m.ves := (rfl)
@[simp] theorem Mach.setSl_arbs (m : Mach) (k : Nat) (x : Slice) : (m.setSl k x).arbs = m.arbs := (rfl)
@[simp] theorem Mach.setSl_bankOut (m : Mach) (k : Nat) (x : Slice) : (m.setSl k x).bankOut = m.bankOut := (rfl)
@[simp] theorem Mach.setSl_arrayCycle (m : Mach) (k : Nat) (x : Slice) : (m.setSl k x).arrayCycle = m.arrayCycle := (rfl)
@[simp] theorem Mach.setSl_nocCycle (m : Mach) (k : Nat) (x : Slice) : (m.setSl k x).nocCycle = m.nocCycle := (rfl)
@[simp] theorem Mach.setSl_near (m : Mach) (k : Nat) (x : Slice) : (m.setSl k x).near = m.near := (rfl)
@[simp] theorem Mach.setSl_test (m : Mach) (k : Nat) (x : Slice) : (m.setSl k x).test = m.test := (rfl)
@[simp] theorem Mach.setSl_far (m : Mach) (k : Nat) (x : Slice) : (m.setSl k x).far = m.far := (rfl)
@[simp] theorem Mach.setSl_alm (m : Mach) (k : Nat) (x : Slice) : (m.setSl k x).alm = m.alm := (rfl)
@[simp] theorem Mach.setSl_ses (m : Mach) (k : Nat) (x : Slice) : (m.setSl k x).ses = m.ses := (rfl)
@[simp] theorem Mach.setSl_net (m : Mach) (k : Nat) (x : Slice) : (m.setSl k x).net = m.net := (rfl)
@[simp] theorem Mach.setSl_fab (m : Mach) (k : Nat) (x : Slice) : (m.setSl k x).fab = m.fab := (rfl)
@[simp] theorem Mach.setSl_cfg (m : Mach) (k : Nat) (x : Slice) : (m.setSl k x).cfg = m.cfg := (rfl)
@[simp] theorem Mach.setSl_lanes (m : Mach) (k : Nat) (x : Slice) : (m.setSl k x).lanes = m.lanes := (rfl)
@[simp] theorem Mach.setSl_ports (m : Mach) (k : Nat) (x : Slice) : (m.setSl k x).ports = m.ports := (rfl)
@[simp] theorem Mach.setSl_hl (m : Mach) (k : Nat) (x : Slice) : (m.setSl k x).hl = m.hl := (rfl)
@[simp] theorem Mach.setSl_fw (m : Mach) (k : Nat) (x : Slice) : (m.setSl k x).fw = m.fw := (rfl)
@[simp] theorem Mach.setSl_ticks (m : Mach) (k : Nat) (x : Slice) : (m.setSl k x).ticks = m.ticks := (rfl)
@[simp] theorem Mach.setSl_pow (m : Mach) (k : Nat) (x : Slice) : (m.setSl k x).pow = m.pow := (rfl)
@[simp] theorem Mach.setSl_out (m : Mach) (k : Nat) (x : Slice) : (m.setSl k x).out = m.out := (rfl)
@[simp] theorem Mach.setSl_free (m : Mach) (k : Nat) (x : Slice) : (m.setSl k x).free = m.free := (rfl)
@[simp] theorem Mach.setSl_rd (m : Mach) (k : Nat) (x : Slice) (f : Fld) (p : Nat) : (m.setSl k x).rd f p = m.rd f p := (rfl)
@[simp] theorem Mach.setSl_on (m : Mach) (k : Nat) (x : Slice) (f : Fld) (p : Nat) : (m.setSl k x).on f p = m.on f p := (rfl)
@[simp] theorem Mach.setSl_byte (m : Mach) (k : Nat) (x : Slice) (a : Nat) : (m.setSl k x).byte a = m.byte a := (rfl)
@[simp] theorem Mach.setSl_tile (m : Mach) (k : Nat) (x : Slice) (t : Nat) : (m.setSl k x).tile t = m.tile t := (rfl)
@[simp] theorem Mach.setSl_ve (m : Mach) (k : Nat) (x : Slice) (c : Nat) : (m.setSl k x).ve c = m.ve c := (rfl)
@[simp] theorem Mach.setSl_arb (m : Mach) (k : Nat) (x : Slice) (a : ArbId) : (m.setSl k x).arb a = m.arb a := (rfl)
@[simp] theorem Mach.setSl_lane (m : Mach) (k : Nat) (x : Slice) (n : Nat) : (m.setSl k x).lane n = m.lane n := (rfl)
@[simp] theorem Mach.setSl_port (m : Mach) (k : Nat) (x : Slice) (n : Nat) : (m.setSl k x).port n = m.port n := (rfl)
@[simp] theorem Mach.setSl_se (m : Mach) (k : Nat) (x : Slice) (d e : Nat) : (m.setSl k x).se d e = m.se d e := (rfl)
@[simp] theorem Mach.setSl_farCh (m : Mach) (k : Nat) (x : Slice) (h : Nat) : (m.setSl k x).farCh h = m.farCh h := (rfl)
@[simp] theorem Mach.setSl_fni (m : Mach) (k : Nat) (x : Slice) (k' : Nat) : (m.setSl k x).fni k' = m.fni k' := (rfl)
@[simp] theorem Mach.setSl_proc (m : Mach) (k : Nat) (x : Slice) (p : Nat) : (m.setSl k x).proc p = m.proc p := (rfl)

@[simp] theorem Mach.setLane_fuses (m : Mach) (n : Nat) (x : Lane) : (m.setLane n x).fuses = m.fuses := (rfl)
@[simp] theorem Mach.setLane_fields (m : Mach) (n : Nat) (x : Lane) : (m.setLane n x).fields = m.fields := (rfl)
@[simp] theorem Mach.setLane_mem (m : Mach) (n : Nat) (x : Lane) : (m.setLane n x).mem = m.mem := (rfl)
@[simp] theorem Mach.setLane_bankBad (m : Mach) (n : Nat) (x : Lane) : (m.setLane n x).bankBad = m.bankBad := (rfl)
@[simp] theorem Mach.setLane_tiles (m : Mach) (n : Nat) (x : Lane) : (m.setLane n x).tiles = m.tiles := (rfl)
@[simp] theorem Mach.setLane_ves (m : Mach) (n : Nat) (x : Lane) : (m.setLane n x).ves = m.ves := (rfl)
@[simp] theorem Mach.setLane_arbs (m : Mach) (n : Nat) (x : Lane) : (m.setLane n x).arbs = m.arbs := (rfl)
@[simp] theorem Mach.setLane_bankOut (m : Mach) (n : Nat) (x : Lane) : (m.setLane n x).bankOut = m.bankOut := (rfl)
@[simp] theorem Mach.setLane_arrayCycle (m : Mach) (n : Nat) (x : Lane) : (m.setLane n x).arrayCycle = m.arrayCycle := (rfl)
@[simp] theorem Mach.setLane_nocCycle (m : Mach) (n : Nat) (x : Lane) : (m.setLane n x).nocCycle = m.nocCycle := (rfl)
@[simp] theorem Mach.setLane_near (m : Mach) (n : Nat) (x : Lane) : (m.setLane n x).near = m.near := (rfl)
@[simp] theorem Mach.setLane_test (m : Mach) (n : Nat) (x : Lane) : (m.setLane n x).test = m.test := (rfl)
@[simp] theorem Mach.setLane_far (m : Mach) (n : Nat) (x : Lane) : (m.setLane n x).far = m.far := (rfl)
@[simp] theorem Mach.setLane_alm (m : Mach) (n : Nat) (x : Lane) : (m.setLane n x).alm = m.alm := (rfl)
@[simp] theorem Mach.setLane_ses (m : Mach) (n : Nat) (x : Lane) : (m.setLane n x).ses = m.ses := (rfl)
@[simp] theorem Mach.setLane_net (m : Mach) (n : Nat) (x : Lane) : (m.setLane n x).net = m.net := (rfl)
@[simp] theorem Mach.setLane_fab (m : Mach) (n : Nat) (x : Lane) : (m.setLane n x).fab = m.fab := (rfl)
@[simp] theorem Mach.setLane_slices (m : Mach) (n : Nat) (x : Lane) : (m.setLane n x).slices = m.slices := (rfl)
@[simp] theorem Mach.setLane_cfg (m : Mach) (n : Nat) (x : Lane) : (m.setLane n x).cfg = m.cfg := (rfl)
@[simp] theorem Mach.setLane_ports (m : Mach) (n : Nat) (x : Lane) : (m.setLane n x).ports = m.ports := (rfl)
@[simp] theorem Mach.setLane_hl (m : Mach) (n : Nat) (x : Lane) : (m.setLane n x).hl = m.hl := (rfl)
@[simp] theorem Mach.setLane_fw (m : Mach) (n : Nat) (x : Lane) : (m.setLane n x).fw = m.fw := (rfl)
@[simp] theorem Mach.setLane_ticks (m : Mach) (n : Nat) (x : Lane) : (m.setLane n x).ticks = m.ticks := (rfl)
@[simp] theorem Mach.setLane_pow (m : Mach) (n : Nat) (x : Lane) : (m.setLane n x).pow = m.pow := (rfl)
@[simp] theorem Mach.setLane_out (m : Mach) (n : Nat) (x : Lane) : (m.setLane n x).out = m.out := (rfl)
@[simp] theorem Mach.setLane_free (m : Mach) (n : Nat) (x : Lane) : (m.setLane n x).free = m.free := (rfl)
@[simp] theorem Mach.setLane_rd (m : Mach) (n : Nat) (x : Lane) (f : Fld) (p : Nat) : (m.setLane n x).rd f p = m.rd f p := (rfl)
@[simp] theorem Mach.setLane_on (m : Mach) (n : Nat) (x : Lane) (f : Fld) (p : Nat) : (m.setLane n x).on f p = m.on f p := (rfl)
@[simp] theorem Mach.setLane_byte (m : Mach) (n : Nat) (x : Lane) (a : Nat) : (m.setLane n x).byte a = m.byte a := (rfl)
@[simp] theorem Mach.setLane_tile (m : Mach) (n : Nat) (x : Lane) (t : Nat) : (m.setLane n x).tile t = m.tile t := (rfl)
@[simp] theorem Mach.setLane_ve (m : Mach) (n : Nat) (x : Lane) (c : Nat) : (m.setLane n x).ve c = m.ve c := (rfl)
@[simp] theorem Mach.setLane_arb (m : Mach) (n : Nat) (x : Lane) (a : ArbId) : (m.setLane n x).arb a = m.arb a := (rfl)
@[simp] theorem Mach.setLane_sl (m : Mach) (n : Nat) (x : Lane) (k : Nat) : (m.setLane n x).sl k = m.sl k := (rfl)
@[simp] theorem Mach.setLane_port (m : Mach) (n : Nat) (x : Lane) (n' : Nat) : (m.setLane n x).port n' = m.port n' := (rfl)
@[simp] theorem Mach.setLane_se (m : Mach) (n : Nat) (x : Lane) (d e : Nat) : (m.setLane n x).se d e = m.se d e := (rfl)
@[simp] theorem Mach.setLane_farCh (m : Mach) (n : Nat) (x : Lane) (h : Nat) : (m.setLane n x).farCh h = m.farCh h := (rfl)
@[simp] theorem Mach.setLane_fni (m : Mach) (n : Nat) (x : Lane) (k : Nat) : (m.setLane n x).fni k = m.fni k := (rfl)
@[simp] theorem Mach.setLane_proc (m : Mach) (n : Nat) (x : Lane) (p : Nat) : (m.setLane n x).proc p = m.proc p := (rfl)

@[simp] theorem Mach.setPort_fuses (m : Mach) (n : Nat) (x : FramePort) : (m.setPort n x).fuses = m.fuses := (rfl)
@[simp] theorem Mach.setPort_fields (m : Mach) (n : Nat) (x : FramePort) : (m.setPort n x).fields = m.fields := (rfl)
@[simp] theorem Mach.setPort_mem (m : Mach) (n : Nat) (x : FramePort) : (m.setPort n x).mem = m.mem := (rfl)
@[simp] theorem Mach.setPort_bankBad (m : Mach) (n : Nat) (x : FramePort) : (m.setPort n x).bankBad = m.bankBad := (rfl)
@[simp] theorem Mach.setPort_tiles (m : Mach) (n : Nat) (x : FramePort) : (m.setPort n x).tiles = m.tiles := (rfl)
@[simp] theorem Mach.setPort_ves (m : Mach) (n : Nat) (x : FramePort) : (m.setPort n x).ves = m.ves := (rfl)
@[simp] theorem Mach.setPort_arbs (m : Mach) (n : Nat) (x : FramePort) : (m.setPort n x).arbs = m.arbs := (rfl)
@[simp] theorem Mach.setPort_bankOut (m : Mach) (n : Nat) (x : FramePort) : (m.setPort n x).bankOut = m.bankOut := (rfl)
@[simp] theorem Mach.setPort_arrayCycle (m : Mach) (n : Nat) (x : FramePort) : (m.setPort n x).arrayCycle = m.arrayCycle := (rfl)
@[simp] theorem Mach.setPort_nocCycle (m : Mach) (n : Nat) (x : FramePort) : (m.setPort n x).nocCycle = m.nocCycle := (rfl)
@[simp] theorem Mach.setPort_near (m : Mach) (n : Nat) (x : FramePort) : (m.setPort n x).near = m.near := (rfl)
@[simp] theorem Mach.setPort_test (m : Mach) (n : Nat) (x : FramePort) : (m.setPort n x).test = m.test := (rfl)
@[simp] theorem Mach.setPort_far (m : Mach) (n : Nat) (x : FramePort) : (m.setPort n x).far = m.far := (rfl)
@[simp] theorem Mach.setPort_alm (m : Mach) (n : Nat) (x : FramePort) : (m.setPort n x).alm = m.alm := (rfl)
@[simp] theorem Mach.setPort_ses (m : Mach) (n : Nat) (x : FramePort) : (m.setPort n x).ses = m.ses := (rfl)
@[simp] theorem Mach.setPort_net (m : Mach) (n : Nat) (x : FramePort) : (m.setPort n x).net = m.net := (rfl)
@[simp] theorem Mach.setPort_fab (m : Mach) (n : Nat) (x : FramePort) : (m.setPort n x).fab = m.fab := (rfl)
@[simp] theorem Mach.setPort_slices (m : Mach) (n : Nat) (x : FramePort) : (m.setPort n x).slices = m.slices := (rfl)
@[simp] theorem Mach.setPort_cfg (m : Mach) (n : Nat) (x : FramePort) : (m.setPort n x).cfg = m.cfg := (rfl)
@[simp] theorem Mach.setPort_lanes (m : Mach) (n : Nat) (x : FramePort) : (m.setPort n x).lanes = m.lanes := (rfl)
@[simp] theorem Mach.setPort_hl (m : Mach) (n : Nat) (x : FramePort) : (m.setPort n x).hl = m.hl := (rfl)
@[simp] theorem Mach.setPort_fw (m : Mach) (n : Nat) (x : FramePort) : (m.setPort n x).fw = m.fw := (rfl)
@[simp] theorem Mach.setPort_ticks (m : Mach) (n : Nat) (x : FramePort) : (m.setPort n x).ticks = m.ticks := (rfl)
@[simp] theorem Mach.setPort_pow (m : Mach) (n : Nat) (x : FramePort) : (m.setPort n x).pow = m.pow := (rfl)
@[simp] theorem Mach.setPort_out (m : Mach) (n : Nat) (x : FramePort) : (m.setPort n x).out = m.out := (rfl)
@[simp] theorem Mach.setPort_free (m : Mach) (n : Nat) (x : FramePort) : (m.setPort n x).free = m.free := (rfl)
@[simp] theorem Mach.setPort_rd (m : Mach) (n : Nat) (x : FramePort) (f : Fld) (p : Nat) : (m.setPort n x).rd f p = m.rd f p := (rfl)
@[simp] theorem Mach.setPort_on (m : Mach) (n : Nat) (x : FramePort) (f : Fld) (p : Nat) : (m.setPort n x).on f p = m.on f p := (rfl)
@[simp] theorem Mach.setPort_byte (m : Mach) (n : Nat) (x : FramePort) (a : Nat) : (m.setPort n x).byte a = m.byte a := (rfl)
@[simp] theorem Mach.setPort_tile (m : Mach) (n : Nat) (x : FramePort) (t : Nat) : (m.setPort n x).tile t = m.tile t := (rfl)
@[simp] theorem Mach.setPort_ve (m : Mach) (n : Nat) (x : FramePort) (c : Nat) : (m.setPort n x).ve c = m.ve c := (rfl)
@[simp] theorem Mach.setPort_arb (m : Mach) (n : Nat) (x : FramePort) (a : ArbId) : (m.setPort n x).arb a = m.arb a := (rfl)
@[simp] theorem Mach.setPort_sl (m : Mach) (n : Nat) (x : FramePort) (k : Nat) : (m.setPort n x).sl k = m.sl k := (rfl)
@[simp] theorem Mach.setPort_lane (m : Mach) (n : Nat) (x : FramePort) (n' : Nat) : (m.setPort n x).lane n' = m.lane n' := (rfl)
@[simp] theorem Mach.setPort_se (m : Mach) (n : Nat) (x : FramePort) (d e : Nat) : (m.setPort n x).se d e = m.se d e := (rfl)
@[simp] theorem Mach.setPort_farCh (m : Mach) (n : Nat) (x : FramePort) (h : Nat) : (m.setPort n x).farCh h = m.farCh h := (rfl)
@[simp] theorem Mach.setPort_fni (m : Mach) (n : Nat) (x : FramePort) (k : Nat) : (m.setPort n x).fni k = m.fni k := (rfl)
@[simp] theorem Mach.setPort_proc (m : Mach) (n : Nat) (x : FramePort) (p : Nat) : (m.setPort n x).proc p = m.proc p := (rfl)

@[simp] theorem Mach.setSe_fuses (m : Mach) (d e : Nat) (x : StreamEng) : (m.setSe d e x).fuses = m.fuses := (rfl)
@[simp] theorem Mach.setSe_fields (m : Mach) (d e : Nat) (x : StreamEng) : (m.setSe d e x).fields = m.fields := (rfl)
@[simp] theorem Mach.setSe_mem (m : Mach) (d e : Nat) (x : StreamEng) : (m.setSe d e x).mem = m.mem := (rfl)
@[simp] theorem Mach.setSe_bankBad (m : Mach) (d e : Nat) (x : StreamEng) : (m.setSe d e x).bankBad = m.bankBad := (rfl)
@[simp] theorem Mach.setSe_tiles (m : Mach) (d e : Nat) (x : StreamEng) : (m.setSe d e x).tiles = m.tiles := (rfl)
@[simp] theorem Mach.setSe_ves (m : Mach) (d e : Nat) (x : StreamEng) : (m.setSe d e x).ves = m.ves := (rfl)
@[simp] theorem Mach.setSe_arbs (m : Mach) (d e : Nat) (x : StreamEng) : (m.setSe d e x).arbs = m.arbs := (rfl)
@[simp] theorem Mach.setSe_bankOut (m : Mach) (d e : Nat) (x : StreamEng) : (m.setSe d e x).bankOut = m.bankOut := (rfl)
@[simp] theorem Mach.setSe_arrayCycle (m : Mach) (d e : Nat) (x : StreamEng) : (m.setSe d e x).arrayCycle = m.arrayCycle := (rfl)
@[simp] theorem Mach.setSe_nocCycle (m : Mach) (d e : Nat) (x : StreamEng) : (m.setSe d e x).nocCycle = m.nocCycle := (rfl)
@[simp] theorem Mach.setSe_near (m : Mach) (d e : Nat) (x : StreamEng) : (m.setSe d e x).near = m.near := (rfl)
@[simp] theorem Mach.setSe_test (m : Mach) (d e : Nat) (x : StreamEng) : (m.setSe d e x).test = m.test := (rfl)
@[simp] theorem Mach.setSe_far (m : Mach) (d e : Nat) (x : StreamEng) : (m.setSe d e x).far = m.far := (rfl)
@[simp] theorem Mach.setSe_alm (m : Mach) (d e : Nat) (x : StreamEng) : (m.setSe d e x).alm = m.alm := (rfl)
@[simp] theorem Mach.setSe_net (m : Mach) (d e : Nat) (x : StreamEng) : (m.setSe d e x).net = m.net := (rfl)
@[simp] theorem Mach.setSe_fab (m : Mach) (d e : Nat) (x : StreamEng) : (m.setSe d e x).fab = m.fab := (rfl)
@[simp] theorem Mach.setSe_slices (m : Mach) (d e : Nat) (x : StreamEng) : (m.setSe d e x).slices = m.slices := (rfl)
@[simp] theorem Mach.setSe_cfg (m : Mach) (d e : Nat) (x : StreamEng) : (m.setSe d e x).cfg = m.cfg := (rfl)
@[simp] theorem Mach.setSe_lanes (m : Mach) (d e : Nat) (x : StreamEng) : (m.setSe d e x).lanes = m.lanes := (rfl)
@[simp] theorem Mach.setSe_ports (m : Mach) (d e : Nat) (x : StreamEng) : (m.setSe d e x).ports = m.ports := (rfl)
@[simp] theorem Mach.setSe_hl (m : Mach) (d e : Nat) (x : StreamEng) : (m.setSe d e x).hl = m.hl := (rfl)
@[simp] theorem Mach.setSe_fw (m : Mach) (d e : Nat) (x : StreamEng) : (m.setSe d e x).fw = m.fw := (rfl)
@[simp] theorem Mach.setSe_ticks (m : Mach) (d e : Nat) (x : StreamEng) : (m.setSe d e x).ticks = m.ticks := (rfl)
@[simp] theorem Mach.setSe_pow (m : Mach) (d e : Nat) (x : StreamEng) : (m.setSe d e x).pow = m.pow := (rfl)
@[simp] theorem Mach.setSe_out (m : Mach) (d e : Nat) (x : StreamEng) : (m.setSe d e x).out = m.out := (rfl)
@[simp] theorem Mach.setSe_free (m : Mach) (d e : Nat) (x : StreamEng) : (m.setSe d e x).free = m.free := (rfl)
@[simp] theorem Mach.setSe_rd (m : Mach) (d e : Nat) (x : StreamEng) (f : Fld) (p : Nat) : (m.setSe d e x).rd f p = m.rd f p := (rfl)
@[simp] theorem Mach.setSe_on (m : Mach) (d e : Nat) (x : StreamEng) (f : Fld) (p : Nat) : (m.setSe d e x).on f p = m.on f p := (rfl)
@[simp] theorem Mach.setSe_byte (m : Mach) (d e : Nat) (x : StreamEng) (a : Nat) : (m.setSe d e x).byte a = m.byte a := (rfl)
@[simp] theorem Mach.setSe_tile (m : Mach) (d e : Nat) (x : StreamEng) (t : Nat) : (m.setSe d e x).tile t = m.tile t := (rfl)
@[simp] theorem Mach.setSe_ve (m : Mach) (d e : Nat) (x : StreamEng) (c : Nat) : (m.setSe d e x).ve c = m.ve c := (rfl)
@[simp] theorem Mach.setSe_arb (m : Mach) (d e : Nat) (x : StreamEng) (a : ArbId) : (m.setSe d e x).arb a = m.arb a := (rfl)
@[simp] theorem Mach.setSe_sl (m : Mach) (d e : Nat) (x : StreamEng) (k : Nat) : (m.setSe d e x).sl k = m.sl k := (rfl)
@[simp] theorem Mach.setSe_lane (m : Mach) (d e : Nat) (x : StreamEng) (n : Nat) : (m.setSe d e x).lane n = m.lane n := (rfl)
@[simp] theorem Mach.setSe_port (m : Mach) (d e : Nat) (x : StreamEng) (n : Nat) : (m.setSe d e x).port n = m.port n := (rfl)
@[simp] theorem Mach.setSe_farCh (m : Mach) (d e : Nat) (x : StreamEng) (h : Nat) : (m.setSe d e x).farCh h = m.farCh h := (rfl)
@[simp] theorem Mach.setSe_fni (m : Mach) (d e : Nat) (x : StreamEng) (k : Nat) : (m.setSe d e x).fni k = m.fni k := (rfl)
@[simp] theorem Mach.setSe_proc (m : Mach) (d e : Nat) (x : StreamEng) (p : Nat) : (m.setSe d e x).proc p = m.proc p := (rfl)

@[simp] theorem Mach.setFni_fuses (m : Mach) (k : Nat) (x : Fni) : (m.setFni k x).fuses = m.fuses := (rfl)
@[simp] theorem Mach.setFni_fields (m : Mach) (k : Nat) (x : Fni) : (m.setFni k x).fields = m.fields := (rfl)
@[simp] theorem Mach.setFni_mem (m : Mach) (k : Nat) (x : Fni) : (m.setFni k x).mem = m.mem := (rfl)
@[simp] theorem Mach.setFni_bankBad (m : Mach) (k : Nat) (x : Fni) : (m.setFni k x).bankBad = m.bankBad := (rfl)
@[simp] theorem Mach.setFni_tiles (m : Mach) (k : Nat) (x : Fni) : (m.setFni k x).tiles = m.tiles := (rfl)
@[simp] theorem Mach.setFni_ves (m : Mach) (k : Nat) (x : Fni) : (m.setFni k x).ves = m.ves := (rfl)
@[simp] theorem Mach.setFni_arbs (m : Mach) (k : Nat) (x : Fni) : (m.setFni k x).arbs = m.arbs := (rfl)
@[simp] theorem Mach.setFni_bankOut (m : Mach) (k : Nat) (x : Fni) : (m.setFni k x).bankOut = m.bankOut := (rfl)
@[simp] theorem Mach.setFni_arrayCycle (m : Mach) (k : Nat) (x : Fni) : (m.setFni k x).arrayCycle = m.arrayCycle := (rfl)
@[simp] theorem Mach.setFni_nocCycle (m : Mach) (k : Nat) (x : Fni) : (m.setFni k x).nocCycle = m.nocCycle := (rfl)
@[simp] theorem Mach.setFni_near (m : Mach) (k : Nat) (x : Fni) : (m.setFni k x).near = m.near := (rfl)
@[simp] theorem Mach.setFni_test (m : Mach) (k : Nat) (x : Fni) : (m.setFni k x).test = m.test := (rfl)
@[simp] theorem Mach.setFni_far (m : Mach) (k : Nat) (x : Fni) : (m.setFni k x).far = m.far := (rfl)
@[simp] theorem Mach.setFni_alm (m : Mach) (k : Nat) (x : Fni) : (m.setFni k x).alm = m.alm := (rfl)
@[simp] theorem Mach.setFni_ses (m : Mach) (k : Nat) (x : Fni) : (m.setFni k x).ses = m.ses := (rfl)
@[simp] theorem Mach.setFni_net (m : Mach) (k : Nat) (x : Fni) : (m.setFni k x).net = m.net := (rfl)
@[simp] theorem Mach.setFni_slices (m : Mach) (k : Nat) (x : Fni) : (m.setFni k x).slices = m.slices := (rfl)
@[simp] theorem Mach.setFni_cfg (m : Mach) (k : Nat) (x : Fni) : (m.setFni k x).cfg = m.cfg := (rfl)
@[simp] theorem Mach.setFni_lanes (m : Mach) (k : Nat) (x : Fni) : (m.setFni k x).lanes = m.lanes := (rfl)
@[simp] theorem Mach.setFni_ports (m : Mach) (k : Nat) (x : Fni) : (m.setFni k x).ports = m.ports := (rfl)
@[simp] theorem Mach.setFni_hl (m : Mach) (k : Nat) (x : Fni) : (m.setFni k x).hl = m.hl := (rfl)
@[simp] theorem Mach.setFni_fw (m : Mach) (k : Nat) (x : Fni) : (m.setFni k x).fw = m.fw := (rfl)
@[simp] theorem Mach.setFni_ticks (m : Mach) (k : Nat) (x : Fni) : (m.setFni k x).ticks = m.ticks := (rfl)
@[simp] theorem Mach.setFni_pow (m : Mach) (k : Nat) (x : Fni) : (m.setFni k x).pow = m.pow := (rfl)
@[simp] theorem Mach.setFni_out (m : Mach) (k : Nat) (x : Fni) : (m.setFni k x).out = m.out := (rfl)
@[simp] theorem Mach.setFni_free (m : Mach) (k : Nat) (x : Fni) : (m.setFni k x).free = m.free := (rfl)
@[simp] theorem Mach.setFni_rd (m : Mach) (k : Nat) (x : Fni) (f : Fld) (p : Nat) : (m.setFni k x).rd f p = m.rd f p := (rfl)
@[simp] theorem Mach.setFni_on (m : Mach) (k : Nat) (x : Fni) (f : Fld) (p : Nat) : (m.setFni k x).on f p = m.on f p := (rfl)
@[simp] theorem Mach.setFni_byte (m : Mach) (k : Nat) (x : Fni) (a : Nat) : (m.setFni k x).byte a = m.byte a := (rfl)
@[simp] theorem Mach.setFni_tile (m : Mach) (k : Nat) (x : Fni) (t : Nat) : (m.setFni k x).tile t = m.tile t := (rfl)
@[simp] theorem Mach.setFni_ve (m : Mach) (k : Nat) (x : Fni) (c : Nat) : (m.setFni k x).ve c = m.ve c := (rfl)
@[simp] theorem Mach.setFni_arb (m : Mach) (k : Nat) (x : Fni) (a : ArbId) : (m.setFni k x).arb a = m.arb a := (rfl)
@[simp] theorem Mach.setFni_sl (m : Mach) (k : Nat) (x : Fni) (k' : Nat) : (m.setFni k x).sl k' = m.sl k' := (rfl)
@[simp] theorem Mach.setFni_lane (m : Mach) (k : Nat) (x : Fni) (n : Nat) : (m.setFni k x).lane n = m.lane n := (rfl)
@[simp] theorem Mach.setFni_port (m : Mach) (k : Nat) (x : Fni) (n : Nat) : (m.setFni k x).port n = m.port n := (rfl)
@[simp] theorem Mach.setFni_se (m : Mach) (k : Nat) (x : Fni) (d e : Nat) : (m.setFni k x).se d e = m.se d e := (rfl)
@[simp] theorem Mach.setFni_farCh (m : Mach) (k : Nat) (x : Fni) (h : Nat) : (m.setFni k x).farCh h = m.farCh h := (rfl)
@[simp] theorem Mach.setFni_proc (m : Mach) (k : Nat) (x : Fni) (p : Nat) : (m.setFni k x).proc p = m.proc p := (rfl)

@[simp] theorem Mach.setProc_fuses (m : Mach) (p : Nat) (x : Proc) : (m.setProc p x).fuses = m.fuses := (rfl)
@[simp] theorem Mach.setProc_fields (m : Mach) (p : Nat) (x : Proc) : (m.setProc p x).fields = m.fields := (rfl)
@[simp] theorem Mach.setProc_mem (m : Mach) (p : Nat) (x : Proc) : (m.setProc p x).mem = m.mem := (rfl)
@[simp] theorem Mach.setProc_bankBad (m : Mach) (p : Nat) (x : Proc) : (m.setProc p x).bankBad = m.bankBad := (rfl)
@[simp] theorem Mach.setProc_tiles (m : Mach) (p : Nat) (x : Proc) : (m.setProc p x).tiles = m.tiles := (rfl)
@[simp] theorem Mach.setProc_ves (m : Mach) (p : Nat) (x : Proc) : (m.setProc p x).ves = m.ves := (rfl)
@[simp] theorem Mach.setProc_arbs (m : Mach) (p : Nat) (x : Proc) : (m.setProc p x).arbs = m.arbs := (rfl)
@[simp] theorem Mach.setProc_bankOut (m : Mach) (p : Nat) (x : Proc) : (m.setProc p x).bankOut = m.bankOut := (rfl)
@[simp] theorem Mach.setProc_arrayCycle (m : Mach) (p : Nat) (x : Proc) : (m.setProc p x).arrayCycle = m.arrayCycle := (rfl)
@[simp] theorem Mach.setProc_nocCycle (m : Mach) (p : Nat) (x : Proc) : (m.setProc p x).nocCycle = m.nocCycle := (rfl)
@[simp] theorem Mach.setProc_near (m : Mach) (p : Nat) (x : Proc) : (m.setProc p x).near = m.near := (rfl)
@[simp] theorem Mach.setProc_test (m : Mach) (p : Nat) (x : Proc) : (m.setProc p x).test = m.test := (rfl)
@[simp] theorem Mach.setProc_far (m : Mach) (p : Nat) (x : Proc) : (m.setProc p x).far = m.far := (rfl)
@[simp] theorem Mach.setProc_alm (m : Mach) (p : Nat) (x : Proc) : (m.setProc p x).alm = m.alm := (rfl)
@[simp] theorem Mach.setProc_ses (m : Mach) (p : Nat) (x : Proc) : (m.setProc p x).ses = m.ses := (rfl)
@[simp] theorem Mach.setProc_net (m : Mach) (p : Nat) (x : Proc) : (m.setProc p x).net = m.net := (rfl)
@[simp] theorem Mach.setProc_fab (m : Mach) (p : Nat) (x : Proc) : (m.setProc p x).fab = m.fab := (rfl)
@[simp] theorem Mach.setProc_slices (m : Mach) (p : Nat) (x : Proc) : (m.setProc p x).slices = m.slices := (rfl)
@[simp] theorem Mach.setProc_cfg (m : Mach) (p : Nat) (x : Proc) : (m.setProc p x).cfg = m.cfg := (rfl)
@[simp] theorem Mach.setProc_lanes (m : Mach) (p : Nat) (x : Proc) : (m.setProc p x).lanes = m.lanes := (rfl)
@[simp] theorem Mach.setProc_ports (m : Mach) (p : Nat) (x : Proc) : (m.setProc p x).ports = m.ports := (rfl)
@[simp] theorem Mach.setProc_hl (m : Mach) (p : Nat) (x : Proc) : (m.setProc p x).hl = m.hl := (rfl)
@[simp] theorem Mach.setProc_ticks (m : Mach) (p : Nat) (x : Proc) : (m.setProc p x).ticks = m.ticks := (rfl)
@[simp] theorem Mach.setProc_pow (m : Mach) (p : Nat) (x : Proc) : (m.setProc p x).pow = m.pow := (rfl)
@[simp] theorem Mach.setProc_out (m : Mach) (p : Nat) (x : Proc) : (m.setProc p x).out = m.out := (rfl)
@[simp] theorem Mach.setProc_free (m : Mach) (p : Nat) (x : Proc) : (m.setProc p x).free = m.free := (rfl)
@[simp] theorem Mach.setProc_rd (m : Mach) (p : Nat) (x : Proc) (f : Fld) (p' : Nat) : (m.setProc p x).rd f p' = m.rd f p' := (rfl)
@[simp] theorem Mach.setProc_on (m : Mach) (p : Nat) (x : Proc) (f : Fld) (p' : Nat) : (m.setProc p x).on f p' = m.on f p' := (rfl)
@[simp] theorem Mach.setProc_byte (m : Mach) (p : Nat) (x : Proc) (a : Nat) : (m.setProc p x).byte a = m.byte a := (rfl)
@[simp] theorem Mach.setProc_tile (m : Mach) (p : Nat) (x : Proc) (t : Nat) : (m.setProc p x).tile t = m.tile t := (rfl)
@[simp] theorem Mach.setProc_ve (m : Mach) (p : Nat) (x : Proc) (c : Nat) : (m.setProc p x).ve c = m.ve c := (rfl)
@[simp] theorem Mach.setProc_arb (m : Mach) (p : Nat) (x : Proc) (a : ArbId) : (m.setProc p x).arb a = m.arb a := (rfl)
@[simp] theorem Mach.setProc_sl (m : Mach) (p : Nat) (x : Proc) (k : Nat) : (m.setProc p x).sl k = m.sl k := (rfl)
@[simp] theorem Mach.setProc_lane (m : Mach) (p : Nat) (x : Proc) (n : Nat) : (m.setProc p x).lane n = m.lane n := (rfl)
@[simp] theorem Mach.setProc_port (m : Mach) (p : Nat) (x : Proc) (n : Nat) : (m.setProc p x).port n = m.port n := (rfl)
@[simp] theorem Mach.setProc_se (m : Mach) (p : Nat) (x : Proc) (d e : Nat) : (m.setProc p x).se d e = m.se d e := (rfl)
@[simp] theorem Mach.setProc_farCh (m : Mach) (p : Nat) (x : Proc) (h : Nat) : (m.setProc p x).farCh h = m.farCh h := (rfl)
@[simp] theorem Mach.setProc_fni (m : Mach) (p : Nat) (x : Proc) (k : Nat) : (m.setProc p x).fni k = m.fni k := (rfl)

@[simp] theorem Mach.setIo_fuses (m : Mach) (k : Nat) (x : Io) : (m.setIo k x).fuses = m.fuses := (rfl)
@[simp] theorem Mach.setIo_fields (m : Mach) (k : Nat) (x : Io) : (m.setIo k x).fields = m.fields := (rfl)
@[simp] theorem Mach.setIo_mem (m : Mach) (k : Nat) (x : Io) : (m.setIo k x).mem = m.mem := (rfl)
@[simp] theorem Mach.setIo_bankBad (m : Mach) (k : Nat) (x : Io) : (m.setIo k x).bankBad = m.bankBad := (rfl)
@[simp] theorem Mach.setIo_tiles (m : Mach) (k : Nat) (x : Io) : (m.setIo k x).tiles = m.tiles := (rfl)
@[simp] theorem Mach.setIo_ves (m : Mach) (k : Nat) (x : Io) : (m.setIo k x).ves = m.ves := (rfl)
@[simp] theorem Mach.setIo_arbs (m : Mach) (k : Nat) (x : Io) : (m.setIo k x).arbs = m.arbs := (rfl)
@[simp] theorem Mach.setIo_bankOut (m : Mach) (k : Nat) (x : Io) : (m.setIo k x).bankOut = m.bankOut := (rfl)
@[simp] theorem Mach.setIo_arrayCycle (m : Mach) (k : Nat) (x : Io) : (m.setIo k x).arrayCycle = m.arrayCycle := (rfl)
@[simp] theorem Mach.setIo_nocCycle (m : Mach) (k : Nat) (x : Io) : (m.setIo k x).nocCycle = m.nocCycle := (rfl)
@[simp] theorem Mach.setIo_near (m : Mach) (k : Nat) (x : Io) : (m.setIo k x).near = m.near := (rfl)
@[simp] theorem Mach.setIo_test (m : Mach) (k : Nat) (x : Io) : (m.setIo k x).test = m.test := (rfl)
@[simp] theorem Mach.setIo_far (m : Mach) (k : Nat) (x : Io) : (m.setIo k x).far = m.far := (rfl)
@[simp] theorem Mach.setIo_alm (m : Mach) (k : Nat) (x : Io) : (m.setIo k x).alm = m.alm := (rfl)
@[simp] theorem Mach.setIo_ses (m : Mach) (k : Nat) (x : Io) : (m.setIo k x).ses = m.ses := (rfl)
@[simp] theorem Mach.setIo_net (m : Mach) (k : Nat) (x : Io) : (m.setIo k x).net = m.net := (rfl)
@[simp] theorem Mach.setIo_fab (m : Mach) (k : Nat) (x : Io) : (m.setIo k x).fab = m.fab := (rfl)
@[simp] theorem Mach.setIo_slices (m : Mach) (k : Nat) (x : Io) : (m.setIo k x).slices = m.slices := (rfl)
@[simp] theorem Mach.setIo_cfg (m : Mach) (k : Nat) (x : Io) : (m.setIo k x).cfg = m.cfg := (rfl)
@[simp] theorem Mach.setIo_lanes (m : Mach) (k : Nat) (x : Io) : (m.setIo k x).lanes = m.lanes := (rfl)
@[simp] theorem Mach.setIo_ports (m : Mach) (k : Nat) (x : Io) : (m.setIo k x).ports = m.ports := (rfl)
@[simp] theorem Mach.setIo_fw (m : Mach) (k : Nat) (x : Io) : (m.setIo k x).fw = m.fw := (rfl)
@[simp] theorem Mach.setIo_ticks (m : Mach) (k : Nat) (x : Io) : (m.setIo k x).ticks = m.ticks := (rfl)
@[simp] theorem Mach.setIo_pow (m : Mach) (k : Nat) (x : Io) : (m.setIo k x).pow = m.pow := (rfl)
@[simp] theorem Mach.setIo_out (m : Mach) (k : Nat) (x : Io) : (m.setIo k x).out = m.out := (rfl)
@[simp] theorem Mach.setIo_free (m : Mach) (k : Nat) (x : Io) : (m.setIo k x).free = m.free := (rfl)
@[simp] theorem Mach.setIo_rd (m : Mach) (k : Nat) (x : Io) (f : Fld) (p : Nat) : (m.setIo k x).rd f p = m.rd f p := (rfl)
@[simp] theorem Mach.setIo_on (m : Mach) (k : Nat) (x : Io) (f : Fld) (p : Nat) : (m.setIo k x).on f p = m.on f p := (rfl)
@[simp] theorem Mach.setIo_byte (m : Mach) (k : Nat) (x : Io) (a : Nat) : (m.setIo k x).byte a = m.byte a := (rfl)
@[simp] theorem Mach.setIo_tile (m : Mach) (k : Nat) (x : Io) (t : Nat) : (m.setIo k x).tile t = m.tile t := (rfl)
@[simp] theorem Mach.setIo_ve (m : Mach) (k : Nat) (x : Io) (c : Nat) : (m.setIo k x).ve c = m.ve c := (rfl)
@[simp] theorem Mach.setIo_arb (m : Mach) (k : Nat) (x : Io) (a : ArbId) : (m.setIo k x).arb a = m.arb a := (rfl)
@[simp] theorem Mach.setIo_sl (m : Mach) (k : Nat) (x : Io) (k' : Nat) : (m.setIo k x).sl k' = m.sl k' := (rfl)
@[simp] theorem Mach.setIo_lane (m : Mach) (k : Nat) (x : Io) (n : Nat) : (m.setIo k x).lane n = m.lane n := (rfl)
@[simp] theorem Mach.setIo_port (m : Mach) (k : Nat) (x : Io) (n : Nat) : (m.setIo k x).port n = m.port n := (rfl)
@[simp] theorem Mach.setIo_se (m : Mach) (k : Nat) (x : Io) (d e : Nat) : (m.setIo k x).se d e = m.se d e := (rfl)
@[simp] theorem Mach.setIo_farCh (m : Mach) (k : Nat) (x : Io) (h : Nat) : (m.setIo k x).farCh h = m.farCh h := (rfl)
@[simp] theorem Mach.setIo_fni (m : Mach) (k : Nat) (x : Io) (k' : Nat) : (m.setIo k x).fni k' = m.fni k' := (rfl)
@[simp] theorem Mach.setIo_proc (m : Mach) (k : Nat) (x : Io) (p : Nat) : (m.setIo k x).proc p = m.proc p := (rfl)

@[simp] theorem Mach.setCfg_fuses (m : Mach) (x : CfgSt) : (m.setCfg x).fuses = m.fuses := (rfl)
@[simp] theorem Mach.setCfg_fields (m : Mach) (x : CfgSt) : (m.setCfg x).fields = m.fields := (rfl)
@[simp] theorem Mach.setCfg_mem (m : Mach) (x : CfgSt) : (m.setCfg x).mem = m.mem := (rfl)
@[simp] theorem Mach.setCfg_bankBad (m : Mach) (x : CfgSt) : (m.setCfg x).bankBad = m.bankBad := (rfl)
@[simp] theorem Mach.setCfg_tiles (m : Mach) (x : CfgSt) : (m.setCfg x).tiles = m.tiles := (rfl)
@[simp] theorem Mach.setCfg_ves (m : Mach) (x : CfgSt) : (m.setCfg x).ves = m.ves := (rfl)
@[simp] theorem Mach.setCfg_arbs (m : Mach) (x : CfgSt) : (m.setCfg x).arbs = m.arbs := (rfl)
@[simp] theorem Mach.setCfg_bankOut (m : Mach) (x : CfgSt) : (m.setCfg x).bankOut = m.bankOut := (rfl)
@[simp] theorem Mach.setCfg_arrayCycle (m : Mach) (x : CfgSt) : (m.setCfg x).arrayCycle = m.arrayCycle := (rfl)
@[simp] theorem Mach.setCfg_nocCycle (m : Mach) (x : CfgSt) : (m.setCfg x).nocCycle = m.nocCycle := (rfl)
@[simp] theorem Mach.setCfg_near (m : Mach) (x : CfgSt) : (m.setCfg x).near = m.near := (rfl)
@[simp] theorem Mach.setCfg_test (m : Mach) (x : CfgSt) : (m.setCfg x).test = m.test := (rfl)
@[simp] theorem Mach.setCfg_far (m : Mach) (x : CfgSt) : (m.setCfg x).far = m.far := (rfl)
@[simp] theorem Mach.setCfg_alm (m : Mach) (x : CfgSt) : (m.setCfg x).alm = m.alm := (rfl)
@[simp] theorem Mach.setCfg_ses (m : Mach) (x : CfgSt) : (m.setCfg x).ses = m.ses := (rfl)
@[simp] theorem Mach.setCfg_net (m : Mach) (x : CfgSt) : (m.setCfg x).net = m.net := (rfl)
@[simp] theorem Mach.setCfg_fab (m : Mach) (x : CfgSt) : (m.setCfg x).fab = m.fab := (rfl)
@[simp] theorem Mach.setCfg_slices (m : Mach) (x : CfgSt) : (m.setCfg x).slices = m.slices := (rfl)
@[simp] theorem Mach.setCfg_lanes (m : Mach) (x : CfgSt) : (m.setCfg x).lanes = m.lanes := (rfl)
@[simp] theorem Mach.setCfg_ports (m : Mach) (x : CfgSt) : (m.setCfg x).ports = m.ports := (rfl)
@[simp] theorem Mach.setCfg_hl (m : Mach) (x : CfgSt) : (m.setCfg x).hl = m.hl := (rfl)
@[simp] theorem Mach.setCfg_fw (m : Mach) (x : CfgSt) : (m.setCfg x).fw = m.fw := (rfl)
@[simp] theorem Mach.setCfg_ticks (m : Mach) (x : CfgSt) : (m.setCfg x).ticks = m.ticks := (rfl)
@[simp] theorem Mach.setCfg_pow (m : Mach) (x : CfgSt) : (m.setCfg x).pow = m.pow := (rfl)
@[simp] theorem Mach.setCfg_out (m : Mach) (x : CfgSt) : (m.setCfg x).out = m.out := (rfl)
@[simp] theorem Mach.setCfg_free (m : Mach) (x : CfgSt) : (m.setCfg x).free = m.free := (rfl)
@[simp] theorem Mach.setCfg_rd (m : Mach) (x : CfgSt) (f : Fld) (p : Nat) : (m.setCfg x).rd f p = m.rd f p := (rfl)
@[simp] theorem Mach.setCfg_on (m : Mach) (x : CfgSt) (f : Fld) (p : Nat) : (m.setCfg x).on f p = m.on f p := (rfl)
@[simp] theorem Mach.setCfg_byte (m : Mach) (x : CfgSt) (a : Nat) : (m.setCfg x).byte a = m.byte a := (rfl)
@[simp] theorem Mach.setCfg_tile (m : Mach) (x : CfgSt) (t : Nat) : (m.setCfg x).tile t = m.tile t := (rfl)
@[simp] theorem Mach.setCfg_ve (m : Mach) (x : CfgSt) (c : Nat) : (m.setCfg x).ve c = m.ve c := (rfl)
@[simp] theorem Mach.setCfg_arb (m : Mach) (x : CfgSt) (a : ArbId) : (m.setCfg x).arb a = m.arb a := (rfl)
@[simp] theorem Mach.setCfg_sl (m : Mach) (x : CfgSt) (k : Nat) : (m.setCfg x).sl k = m.sl k := (rfl)
@[simp] theorem Mach.setCfg_lane (m : Mach) (x : CfgSt) (n : Nat) : (m.setCfg x).lane n = m.lane n := (rfl)
@[simp] theorem Mach.setCfg_port (m : Mach) (x : CfgSt) (n : Nat) : (m.setCfg x).port n = m.port n := (rfl)
@[simp] theorem Mach.setCfg_se (m : Mach) (x : CfgSt) (d e : Nat) : (m.setCfg x).se d e = m.se d e := (rfl)
@[simp] theorem Mach.setCfg_farCh (m : Mach) (x : CfgSt) (h : Nat) : (m.setCfg x).farCh h = m.farCh h := (rfl)
@[simp] theorem Mach.setCfg_fni (m : Mach) (x : CfgSt) (k : Nat) : (m.setCfg x).fni k = m.fni k := (rfl)
@[simp] theorem Mach.setCfg_proc (m : Mach) (x : CfgSt) (p : Nat) : (m.setCfg x).proc p = m.proc p := (rfl)

@[simp] theorem Mach.setPow_fuses (m : Mach) (x : PowSt) : (m.setPow x).fuses = m.fuses := (rfl)
@[simp] theorem Mach.setPow_fields (m : Mach) (x : PowSt) : (m.setPow x).fields = m.fields := (rfl)
@[simp] theorem Mach.setPow_mem (m : Mach) (x : PowSt) : (m.setPow x).mem = m.mem := (rfl)
@[simp] theorem Mach.setPow_bankBad (m : Mach) (x : PowSt) : (m.setPow x).bankBad = m.bankBad := (rfl)
@[simp] theorem Mach.setPow_tiles (m : Mach) (x : PowSt) : (m.setPow x).tiles = m.tiles := (rfl)
@[simp] theorem Mach.setPow_ves (m : Mach) (x : PowSt) : (m.setPow x).ves = m.ves := (rfl)
@[simp] theorem Mach.setPow_arbs (m : Mach) (x : PowSt) : (m.setPow x).arbs = m.arbs := (rfl)
@[simp] theorem Mach.setPow_bankOut (m : Mach) (x : PowSt) : (m.setPow x).bankOut = m.bankOut := (rfl)
@[simp] theorem Mach.setPow_arrayCycle (m : Mach) (x : PowSt) : (m.setPow x).arrayCycle = m.arrayCycle := (rfl)
@[simp] theorem Mach.setPow_nocCycle (m : Mach) (x : PowSt) : (m.setPow x).nocCycle = m.nocCycle := (rfl)
@[simp] theorem Mach.setPow_near (m : Mach) (x : PowSt) : (m.setPow x).near = m.near := (rfl)
@[simp] theorem Mach.setPow_test (m : Mach) (x : PowSt) : (m.setPow x).test = m.test := (rfl)
@[simp] theorem Mach.setPow_far (m : Mach) (x : PowSt) : (m.setPow x).far = m.far := (rfl)
@[simp] theorem Mach.setPow_alm (m : Mach) (x : PowSt) : (m.setPow x).alm = m.alm := (rfl)
@[simp] theorem Mach.setPow_ses (m : Mach) (x : PowSt) : (m.setPow x).ses = m.ses := (rfl)
@[simp] theorem Mach.setPow_net (m : Mach) (x : PowSt) : (m.setPow x).net = m.net := (rfl)
@[simp] theorem Mach.setPow_fab (m : Mach) (x : PowSt) : (m.setPow x).fab = m.fab := (rfl)
@[simp] theorem Mach.setPow_slices (m : Mach) (x : PowSt) : (m.setPow x).slices = m.slices := (rfl)
@[simp] theorem Mach.setPow_cfg (m : Mach) (x : PowSt) : (m.setPow x).cfg = m.cfg := (rfl)
@[simp] theorem Mach.setPow_lanes (m : Mach) (x : PowSt) : (m.setPow x).lanes = m.lanes := (rfl)
@[simp] theorem Mach.setPow_ports (m : Mach) (x : PowSt) : (m.setPow x).ports = m.ports := (rfl)
@[simp] theorem Mach.setPow_hl (m : Mach) (x : PowSt) : (m.setPow x).hl = m.hl := (rfl)
@[simp] theorem Mach.setPow_fw (m : Mach) (x : PowSt) : (m.setPow x).fw = m.fw := (rfl)
@[simp] theorem Mach.setPow_ticks (m : Mach) (x : PowSt) : (m.setPow x).ticks = m.ticks := (rfl)
@[simp] theorem Mach.setPow_out (m : Mach) (x : PowSt) : (m.setPow x).out = m.out := (rfl)
@[simp] theorem Mach.setPow_free (m : Mach) (x : PowSt) : (m.setPow x).free = m.free := (rfl)
@[simp] theorem Mach.setPow_rd (m : Mach) (x : PowSt) (f : Fld) (p : Nat) : (m.setPow x).rd f p = m.rd f p := (rfl)
@[simp] theorem Mach.setPow_on (m : Mach) (x : PowSt) (f : Fld) (p : Nat) : (m.setPow x).on f p = m.on f p := (rfl)
@[simp] theorem Mach.setPow_byte (m : Mach) (x : PowSt) (a : Nat) : (m.setPow x).byte a = m.byte a := (rfl)
@[simp] theorem Mach.setPow_tile (m : Mach) (x : PowSt) (t : Nat) : (m.setPow x).tile t = m.tile t := (rfl)
@[simp] theorem Mach.setPow_ve (m : Mach) (x : PowSt) (c : Nat) : (m.setPow x).ve c = m.ve c := (rfl)
@[simp] theorem Mach.setPow_arb (m : Mach) (x : PowSt) (a : ArbId) : (m.setPow x).arb a = m.arb a := (rfl)
@[simp] theorem Mach.setPow_sl (m : Mach) (x : PowSt) (k : Nat) : (m.setPow x).sl k = m.sl k := (rfl)
@[simp] theorem Mach.setPow_lane (m : Mach) (x : PowSt) (n : Nat) : (m.setPow x).lane n = m.lane n := (rfl)
@[simp] theorem Mach.setPow_port (m : Mach) (x : PowSt) (n : Nat) : (m.setPow x).port n = m.port n := (rfl)
@[simp] theorem Mach.setPow_se (m : Mach) (x : PowSt) (d e : Nat) : (m.setPow x).se d e = m.se d e := (rfl)
@[simp] theorem Mach.setPow_farCh (m : Mach) (x : PowSt) (h : Nat) : (m.setPow x).farCh h = m.farCh h := (rfl)
@[simp] theorem Mach.setPow_fni (m : Mach) (x : PowSt) (k : Nat) : (m.setPow x).fni k = m.fni k := (rfl)
@[simp] theorem Mach.setPow_proc (m : Mach) (x : PowSt) (p : Nat) : (m.setPow x).proc p = m.proc p := (rfl)

@[simp] theorem Mach.setLaneBad_fuses (m : Mach) (l : Nat) (b : Bool) : (m.setLaneBad l b).fuses = m.fuses := (rfl)
@[simp] theorem Mach.setLaneBad_fields (m : Mach) (l : Nat) (b : Bool) : (m.setLaneBad l b).fields = m.fields := (rfl)
@[simp] theorem Mach.setLaneBad_mem (m : Mach) (l : Nat) (b : Bool) : (m.setLaneBad l b).mem = m.mem := (rfl)
@[simp] theorem Mach.setLaneBad_tiles (m : Mach) (l : Nat) (b : Bool) : (m.setLaneBad l b).tiles = m.tiles := (rfl)
@[simp] theorem Mach.setLaneBad_ves (m : Mach) (l : Nat) (b : Bool) : (m.setLaneBad l b).ves = m.ves := (rfl)
@[simp] theorem Mach.setLaneBad_arbs (m : Mach) (l : Nat) (b : Bool) : (m.setLaneBad l b).arbs = m.arbs := (rfl)
@[simp] theorem Mach.setLaneBad_bankOut (m : Mach) (l : Nat) (b : Bool) : (m.setLaneBad l b).bankOut = m.bankOut := (rfl)
@[simp] theorem Mach.setLaneBad_arrayCycle (m : Mach) (l : Nat) (b : Bool) : (m.setLaneBad l b).arrayCycle = m.arrayCycle := (rfl)
@[simp] theorem Mach.setLaneBad_nocCycle (m : Mach) (l : Nat) (b : Bool) : (m.setLaneBad l b).nocCycle = m.nocCycle := (rfl)
@[simp] theorem Mach.setLaneBad_near (m : Mach) (l : Nat) (b : Bool) : (m.setLaneBad l b).near = m.near := (rfl)
@[simp] theorem Mach.setLaneBad_test (m : Mach) (l : Nat) (b : Bool) : (m.setLaneBad l b).test = m.test := (rfl)
@[simp] theorem Mach.setLaneBad_far (m : Mach) (l : Nat) (b : Bool) : (m.setLaneBad l b).far = m.far := (rfl)
@[simp] theorem Mach.setLaneBad_alm (m : Mach) (l : Nat) (b : Bool) : (m.setLaneBad l b).alm = m.alm := (rfl)
@[simp] theorem Mach.setLaneBad_ses (m : Mach) (l : Nat) (b : Bool) : (m.setLaneBad l b).ses = m.ses := (rfl)
@[simp] theorem Mach.setLaneBad_net (m : Mach) (l : Nat) (b : Bool) : (m.setLaneBad l b).net = m.net := (rfl)
@[simp] theorem Mach.setLaneBad_fab (m : Mach) (l : Nat) (b : Bool) : (m.setLaneBad l b).fab = m.fab := (rfl)
@[simp] theorem Mach.setLaneBad_slices (m : Mach) (l : Nat) (b : Bool) : (m.setLaneBad l b).slices = m.slices := (rfl)
@[simp] theorem Mach.setLaneBad_cfg (m : Mach) (l : Nat) (b : Bool) : (m.setLaneBad l b).cfg = m.cfg := (rfl)
@[simp] theorem Mach.setLaneBad_lanes (m : Mach) (l : Nat) (b : Bool) : (m.setLaneBad l b).lanes = m.lanes := (rfl)
@[simp] theorem Mach.setLaneBad_ports (m : Mach) (l : Nat) (b : Bool) : (m.setLaneBad l b).ports = m.ports := (rfl)
@[simp] theorem Mach.setLaneBad_hl (m : Mach) (l : Nat) (b : Bool) : (m.setLaneBad l b).hl = m.hl := (rfl)
@[simp] theorem Mach.setLaneBad_fw (m : Mach) (l : Nat) (b : Bool) : (m.setLaneBad l b).fw = m.fw := (rfl)
@[simp] theorem Mach.setLaneBad_ticks (m : Mach) (l : Nat) (b : Bool) : (m.setLaneBad l b).ticks = m.ticks := (rfl)
@[simp] theorem Mach.setLaneBad_pow (m : Mach) (l : Nat) (b : Bool) : (m.setLaneBad l b).pow = m.pow := (rfl)
@[simp] theorem Mach.setLaneBad_out (m : Mach) (l : Nat) (b : Bool) : (m.setLaneBad l b).out = m.out := (rfl)
@[simp] theorem Mach.setLaneBad_free (m : Mach) (l : Nat) (b : Bool) : (m.setLaneBad l b).free = m.free := (rfl)
@[simp] theorem Mach.setLaneBad_rd (m : Mach) (l : Nat) (b : Bool) (f : Fld) (p : Nat) : (m.setLaneBad l b).rd f p = m.rd f p := (rfl)
@[simp] theorem Mach.setLaneBad_on (m : Mach) (l : Nat) (b : Bool) (f : Fld) (p : Nat) : (m.setLaneBad l b).on f p = m.on f p := (rfl)
@[simp] theorem Mach.setLaneBad_byte (m : Mach) (l : Nat) (b : Bool) (a : Nat) : (m.setLaneBad l b).byte a = m.byte a := (rfl)
@[simp] theorem Mach.setLaneBad_tile (m : Mach) (l : Nat) (b : Bool) (t : Nat) : (m.setLaneBad l b).tile t = m.tile t := (rfl)
@[simp] theorem Mach.setLaneBad_ve (m : Mach) (l : Nat) (b : Bool) (c : Nat) : (m.setLaneBad l b).ve c = m.ve c := (rfl)
@[simp] theorem Mach.setLaneBad_arb (m : Mach) (l : Nat) (b : Bool) (a : ArbId) : (m.setLaneBad l b).arb a = m.arb a := (rfl)
@[simp] theorem Mach.setLaneBad_sl (m : Mach) (l : Nat) (b : Bool) (k : Nat) : (m.setLaneBad l b).sl k = m.sl k := (rfl)
@[simp] theorem Mach.setLaneBad_lane (m : Mach) (l : Nat) (b : Bool) (n : Nat) : (m.setLaneBad l b).lane n = m.lane n := (rfl)
@[simp] theorem Mach.setLaneBad_port (m : Mach) (l : Nat) (b : Bool) (n : Nat) : (m.setLaneBad l b).port n = m.port n := (rfl)
@[simp] theorem Mach.setLaneBad_se (m : Mach) (l : Nat) (b : Bool) (d e : Nat) : (m.setLaneBad l b).se d e = m.se d e := (rfl)
@[simp] theorem Mach.setLaneBad_farCh (m : Mach) (l : Nat) (b : Bool) (h : Nat) : (m.setLaneBad l b).farCh h = m.farCh h := (rfl)
@[simp] theorem Mach.setLaneBad_fni (m : Mach) (l : Nat) (b : Bool) (k : Nat) : (m.setLaneBad l b).fni k = m.fni k := (rfl)
@[simp] theorem Mach.setLaneBad_proc (m : Mach) (l : Nat) (b : Bool) (p : Nat) : (m.setLaneBad l b).proc p = m.proc p := (rfl)

@[simp] theorem Mach.setNq_fuses (m : Mach) (k : Nat) (l : List Packet) : (m.setNq k l).fuses = m.fuses := (rfl)
@[simp] theorem Mach.setNq_fields (m : Mach) (k : Nat) (l : List Packet) : (m.setNq k l).fields = m.fields := (rfl)
@[simp] theorem Mach.setNq_mem (m : Mach) (k : Nat) (l : List Packet) : (m.setNq k l).mem = m.mem := (rfl)
@[simp] theorem Mach.setNq_bankBad (m : Mach) (k : Nat) (l : List Packet) : (m.setNq k l).bankBad = m.bankBad := (rfl)
@[simp] theorem Mach.setNq_tiles (m : Mach) (k : Nat) (l : List Packet) : (m.setNq k l).tiles = m.tiles := (rfl)
@[simp] theorem Mach.setNq_ves (m : Mach) (k : Nat) (l : List Packet) : (m.setNq k l).ves = m.ves := (rfl)
@[simp] theorem Mach.setNq_arbs (m : Mach) (k : Nat) (l : List Packet) : (m.setNq k l).arbs = m.arbs := (rfl)
@[simp] theorem Mach.setNq_bankOut (m : Mach) (k : Nat) (l : List Packet) : (m.setNq k l).bankOut = m.bankOut := (rfl)
@[simp] theorem Mach.setNq_arrayCycle (m : Mach) (k : Nat) (l : List Packet) : (m.setNq k l).arrayCycle = m.arrayCycle := (rfl)
@[simp] theorem Mach.setNq_nocCycle (m : Mach) (k : Nat) (l : List Packet) : (m.setNq k l).nocCycle = m.nocCycle := (rfl)
@[simp] theorem Mach.setNq_near (m : Mach) (k : Nat) (l : List Packet) : (m.setNq k l).near = m.near := (rfl)
@[simp] theorem Mach.setNq_test (m : Mach) (k : Nat) (l : List Packet) : (m.setNq k l).test = m.test := (rfl)
@[simp] theorem Mach.setNq_far (m : Mach) (k : Nat) (l : List Packet) : (m.setNq k l).far = m.far := (rfl)
@[simp] theorem Mach.setNq_alm (m : Mach) (k : Nat) (l : List Packet) : (m.setNq k l).alm = m.alm := (rfl)
@[simp] theorem Mach.setNq_ses (m : Mach) (k : Nat) (l : List Packet) : (m.setNq k l).ses = m.ses := (rfl)
@[simp] theorem Mach.setNq_fab (m : Mach) (k : Nat) (l : List Packet) : (m.setNq k l).fab = m.fab := (rfl)
@[simp] theorem Mach.setNq_slices (m : Mach) (k : Nat) (l : List Packet) : (m.setNq k l).slices = m.slices := (rfl)
@[simp] theorem Mach.setNq_cfg (m : Mach) (k : Nat) (l : List Packet) : (m.setNq k l).cfg = m.cfg := (rfl)
@[simp] theorem Mach.setNq_lanes (m : Mach) (k : Nat) (l : List Packet) : (m.setNq k l).lanes = m.lanes := (rfl)
@[simp] theorem Mach.setNq_ports (m : Mach) (k : Nat) (l : List Packet) : (m.setNq k l).ports = m.ports := (rfl)
@[simp] theorem Mach.setNq_hl (m : Mach) (k : Nat) (l : List Packet) : (m.setNq k l).hl = m.hl := (rfl)
@[simp] theorem Mach.setNq_fw (m : Mach) (k : Nat) (l : List Packet) : (m.setNq k l).fw = m.fw := (rfl)
@[simp] theorem Mach.setNq_ticks (m : Mach) (k : Nat) (l : List Packet) : (m.setNq k l).ticks = m.ticks := (rfl)
@[simp] theorem Mach.setNq_pow (m : Mach) (k : Nat) (l : List Packet) : (m.setNq k l).pow = m.pow := (rfl)
@[simp] theorem Mach.setNq_out (m : Mach) (k : Nat) (l : List Packet) : (m.setNq k l).out = m.out := (rfl)
@[simp] theorem Mach.setNq_free (m : Mach) (k : Nat) (l : List Packet) : (m.setNq k l).free = m.free := (rfl)
@[simp] theorem Mach.setNq_rd (m : Mach) (k : Nat) (l : List Packet) (f : Fld) (p : Nat) : (m.setNq k l).rd f p = m.rd f p := (rfl)
@[simp] theorem Mach.setNq_on (m : Mach) (k : Nat) (l : List Packet) (f : Fld) (p : Nat) : (m.setNq k l).on f p = m.on f p := (rfl)
@[simp] theorem Mach.setNq_byte (m : Mach) (k : Nat) (l : List Packet) (a : Nat) : (m.setNq k l).byte a = m.byte a := (rfl)
@[simp] theorem Mach.setNq_tile (m : Mach) (k : Nat) (l : List Packet) (t : Nat) : (m.setNq k l).tile t = m.tile t := (rfl)
@[simp] theorem Mach.setNq_ve (m : Mach) (k : Nat) (l : List Packet) (c : Nat) : (m.setNq k l).ve c = m.ve c := (rfl)
@[simp] theorem Mach.setNq_arb (m : Mach) (k : Nat) (l : List Packet) (a : ArbId) : (m.setNq k l).arb a = m.arb a := (rfl)
@[simp] theorem Mach.setNq_sl (m : Mach) (k : Nat) (l : List Packet) (k' : Nat) : (m.setNq k l).sl k' = m.sl k' := (rfl)
@[simp] theorem Mach.setNq_lane (m : Mach) (k : Nat) (l : List Packet) (n : Nat) : (m.setNq k l).lane n = m.lane n := (rfl)
@[simp] theorem Mach.setNq_port (m : Mach) (k : Nat) (l : List Packet) (n : Nat) : (m.setNq k l).port n = m.port n := (rfl)
@[simp] theorem Mach.setNq_se (m : Mach) (k : Nat) (l : List Packet) (d e : Nat) : (m.setNq k l).se d e = m.se d e := (rfl)
@[simp] theorem Mach.setNq_farCh (m : Mach) (k : Nat) (l : List Packet) (h : Nat) : (m.setNq k l).farCh h = m.farCh h := (rfl)
@[simp] theorem Mach.setNq_fni (m : Mach) (k : Nat) (l : List Packet) (k' : Nat) : (m.setNq k l).fni k' = m.fni k' := (rfl)
@[simp] theorem Mach.setNq_proc (m : Mach) (k : Nat) (l : List Packet) (p : Nat) : (m.setNq k l).proc p = m.proc p := (rfl)

@[simp] theorem Mach.setTracer_fuses (m : Mach) (d : Nat) (x : Tracer) : (m.setTracer d x).fuses = m.fuses := (rfl)
@[simp] theorem Mach.setTracer_fields (m : Mach) (d : Nat) (x : Tracer) : (m.setTracer d x).fields = m.fields := (rfl)
@[simp] theorem Mach.setTracer_mem (m : Mach) (d : Nat) (x : Tracer) : (m.setTracer d x).mem = m.mem := (rfl)
@[simp] theorem Mach.setTracer_bankBad (m : Mach) (d : Nat) (x : Tracer) : (m.setTracer d x).bankBad = m.bankBad := (rfl)
@[simp] theorem Mach.setTracer_tiles (m : Mach) (d : Nat) (x : Tracer) : (m.setTracer d x).tiles = m.tiles := (rfl)
@[simp] theorem Mach.setTracer_ves (m : Mach) (d : Nat) (x : Tracer) : (m.setTracer d x).ves = m.ves := (rfl)
@[simp] theorem Mach.setTracer_arbs (m : Mach) (d : Nat) (x : Tracer) : (m.setTracer d x).arbs = m.arbs := (rfl)
@[simp] theorem Mach.setTracer_bankOut (m : Mach) (d : Nat) (x : Tracer) : (m.setTracer d x).bankOut = m.bankOut := (rfl)
@[simp] theorem Mach.setTracer_arrayCycle (m : Mach) (d : Nat) (x : Tracer) : (m.setTracer d x).arrayCycle = m.arrayCycle := (rfl)
@[simp] theorem Mach.setTracer_nocCycle (m : Mach) (d : Nat) (x : Tracer) : (m.setTracer d x).nocCycle = m.nocCycle := (rfl)
@[simp] theorem Mach.setTracer_near (m : Mach) (d : Nat) (x : Tracer) : (m.setTracer d x).near = m.near := (rfl)
@[simp] theorem Mach.setTracer_test (m : Mach) (d : Nat) (x : Tracer) : (m.setTracer d x).test = m.test := (rfl)
@[simp] theorem Mach.setTracer_far (m : Mach) (d : Nat) (x : Tracer) : (m.setTracer d x).far = m.far := (rfl)
@[simp] theorem Mach.setTracer_alm (m : Mach) (d : Nat) (x : Tracer) : (m.setTracer d x).alm = m.alm := (rfl)
@[simp] theorem Mach.setTracer_ses (m : Mach) (d : Nat) (x : Tracer) : (m.setTracer d x).ses = m.ses := (rfl)
@[simp] theorem Mach.setTracer_fab (m : Mach) (d : Nat) (x : Tracer) : (m.setTracer d x).fab = m.fab := (rfl)
@[simp] theorem Mach.setTracer_slices (m : Mach) (d : Nat) (x : Tracer) : (m.setTracer d x).slices = m.slices := (rfl)
@[simp] theorem Mach.setTracer_cfg (m : Mach) (d : Nat) (x : Tracer) : (m.setTracer d x).cfg = m.cfg := (rfl)
@[simp] theorem Mach.setTracer_lanes (m : Mach) (d : Nat) (x : Tracer) : (m.setTracer d x).lanes = m.lanes := (rfl)
@[simp] theorem Mach.setTracer_ports (m : Mach) (d : Nat) (x : Tracer) : (m.setTracer d x).ports = m.ports := (rfl)
@[simp] theorem Mach.setTracer_hl (m : Mach) (d : Nat) (x : Tracer) : (m.setTracer d x).hl = m.hl := (rfl)
@[simp] theorem Mach.setTracer_fw (m : Mach) (d : Nat) (x : Tracer) : (m.setTracer d x).fw = m.fw := (rfl)
@[simp] theorem Mach.setTracer_ticks (m : Mach) (d : Nat) (x : Tracer) : (m.setTracer d x).ticks = m.ticks := (rfl)
@[simp] theorem Mach.setTracer_pow (m : Mach) (d : Nat) (x : Tracer) : (m.setTracer d x).pow = m.pow := (rfl)
@[simp] theorem Mach.setTracer_out (m : Mach) (d : Nat) (x : Tracer) : (m.setTracer d x).out = m.out := (rfl)
@[simp] theorem Mach.setTracer_free (m : Mach) (d : Nat) (x : Tracer) : (m.setTracer d x).free = m.free := (rfl)
@[simp] theorem Mach.setTracer_rd (m : Mach) (d : Nat) (x : Tracer) (f : Fld) (p : Nat) : (m.setTracer d x).rd f p = m.rd f p := (rfl)
@[simp] theorem Mach.setTracer_on (m : Mach) (d : Nat) (x : Tracer) (f : Fld) (p : Nat) : (m.setTracer d x).on f p = m.on f p := (rfl)
@[simp] theorem Mach.setTracer_byte (m : Mach) (d : Nat) (x : Tracer) (a : Nat) : (m.setTracer d x).byte a = m.byte a := (rfl)
@[simp] theorem Mach.setTracer_tile (m : Mach) (d : Nat) (x : Tracer) (t : Nat) : (m.setTracer d x).tile t = m.tile t := (rfl)
@[simp] theorem Mach.setTracer_ve (m : Mach) (d : Nat) (x : Tracer) (c : Nat) : (m.setTracer d x).ve c = m.ve c := (rfl)
@[simp] theorem Mach.setTracer_arb (m : Mach) (d : Nat) (x : Tracer) (a : ArbId) : (m.setTracer d x).arb a = m.arb a := (rfl)
@[simp] theorem Mach.setTracer_sl (m : Mach) (d : Nat) (x : Tracer) (k : Nat) : (m.setTracer d x).sl k = m.sl k := (rfl)
@[simp] theorem Mach.setTracer_lane (m : Mach) (d : Nat) (x : Tracer) (n : Nat) : (m.setTracer d x).lane n = m.lane n := (rfl)
@[simp] theorem Mach.setTracer_port (m : Mach) (d : Nat) (x : Tracer) (n : Nat) : (m.setTracer d x).port n = m.port n := (rfl)
@[simp] theorem Mach.setTracer_se (m : Mach) (d : Nat) (x : Tracer) (d' e : Nat) : (m.setTracer d x).se d' e = m.se d' e := (rfl)
@[simp] theorem Mach.setTracer_farCh (m : Mach) (d : Nat) (x : Tracer) (h : Nat) : (m.setTracer d x).farCh h = m.farCh h := (rfl)
@[simp] theorem Mach.setTracer_fni (m : Mach) (d : Nat) (x : Tracer) (k : Nat) : (m.setTracer d x).fni k = m.fni k := (rfl)
@[simp] theorem Mach.setTracer_proc (m : Mach) (d : Nat) (x : Tracer) (p : Nat) : (m.setTracer d x).proc p = m.proc p := (rfl)

/-! Reading back -/

@[simp] theorem Mach.tile_setTile (m : Mach) (t : Nat) (x : Tile) : (m.setTile t x).tile t = x := by simp [Mach.tile, Mach.setTile]
theorem Mach.tile_setTile_other (m : Mach) {t u : Nat} (h : u ≠ t) (x : Tile) : (m.setTile t x).tile u = m.tile u := by
  simp [Mach.tile, Mach.setTile, SMap.get_put_other _ h]
@[simp] theorem Mach.ve_setVe (m : Mach) (c : Nat) (x : Ve) : (m.setVe c x).ve c = x := by simp [Mach.ve, Mach.setVe]
theorem Mach.ve_setVe_other (m : Mach) {c e : Nat} (h : e ≠ c) (x : Ve) : (m.setVe c x).ve e = m.ve e := by
  simp [Mach.ve, Mach.setVe, SMap.get_put_other _ h]
@[simp] theorem Mach.sl_setSl (m : Mach) (k : Nat) (x : Slice) : (m.setSl k x).sl k = x := by simp [Mach.sl, Mach.setSl]
@[simp] theorem Mach.lane_setLane (m : Mach) (n : Nat) (x : Lane) : (m.setLane n x).lane n = x := by simp [Mach.lane, Mach.setLane]
@[simp] theorem Mach.port_setPort (m : Mach) (n : Nat) (x : FramePort) : (m.setPort n x).port n = x := by simp [Mach.port, Mach.setPort]
@[simp] theorem Mach.se_setSe (m : Mach) (d e : Nat) (x : StreamEng) : (m.setSe d e x).se d e = x := by simp [Mach.se, Mach.setSe]
@[simp] theorem Mach.fni_setFni (m : Mach) (k : Nat) (x : Fni) : (m.setFni k x).fni k = x := by simp [Mach.fni, Mach.setFni]
@[simp] theorem Mach.arb_setArb (m : Mach) (a : ArbId) (x : Arb) : (m.setArb a x).arb a = x := by simp [Mach.arb, Mach.setArb]
@[simp] theorem Mach.cfg_setCfg (m : Mach) (x : CfgSt) : (m.setCfg x).cfg = x := rfl
@[simp] theorem Mach.pow_setPow (m : Mach) (x : PowSt) : (m.setPow x).pow = x := rfl
@[simp] theorem Mach.out_send (m : Mach) (o : Output) : (m.send o).out = m.out ++ [o] := rfl
@[simp] theorem Mach.out_respond (m : Mach) (who st : Nat) : (m.respond who st).out = m.out ++ [.resp who st [] 0] := rfl
@[simp] theorem Mach.byte_putByte (m : Mach) (a : Nat) (b : Byte) : (m.putByte a b).byte a = b := by simp [Mach.byte, Mach.putByte]
theorem Mach.byte_putByte_other (m : Mach) {a c : Nat} (h : c ≠ a) (b : Byte) : (m.putByte a b).byte c = m.byte c := by
  simp [Mach.byte, Mach.putByte, SMap.get_put_other _ h]

/-- A field that was written reads as the value cut to its width (00 R6). -/
@[simp] theorem Mach.rd_wr (m : Mach) (f : Fld) (p v : Nat) : (m.wr f p v).rd f p = v % 2 ^ f.width := by simp [Mach.rd, Mach.wr]

/-- Writing a field leaves every field of another key. -/
theorem Mach.rd_wr_other (m : Mach) (f g : Fld) (p q v : Nat) (h : fkey g q ≠ fkey f p) : (m.wr f p v).rd g q = m.rd g q := by
  simp [Mach.rd, Mach.wr, SMap.get_put_other _ h]

/-- Fields with different numbers at one place have different keys. -/
theorem fkey_ne {f g : Fld} (p : Nat) (h : g.id ≠ f.id) : fkey g p ≠ fkey f p := by
  simp only [fkey]; intro h2; exact h (by omega)

/-- Writing a field leaves every other field of its place. -/
theorem Mach.rd_wr_ne (m : Mach) (f g : Fld) (p v : Nat) (h : g.id ≠ f.id) : (m.wr f p v).rd g p = m.rd g p :=
  m.rd_wr_other f g p p v (fkey_ne p h)

/-- A field and a place make a key, so long as the place has fewer than 25 bits. -/
theorem fkey_inj {f g : Fld} {p q : Nat} (hp : p < 2 ^ 24) (hq : q < 2 ^ 24) (h : fkey f p = fkey g q) : f.id = g.id ∧ p = q := by
  simp only [fkey] at h; omega

/-! Memory keeps its form -/

theorem Mach.putByte_wf (m : Mach) (a : Nat) (b : Byte) (h : Memory.wf m.mem = true) : Memory.wf (m.putByte a b).mem = true := SMap.wf_put _ _ _ _ h

theorem Mach.putBytes_wf (l : List Byte) : ∀ (m : Mach) (a : Nat), Memory.wf m.mem = true → Memory.wf (m.putBytes a l).mem = true := by
  induction l with
  | nil => intro m a h; exact h
  | cons b l ih => intro m a h; exact ih _ _ (m.putByte_wf a b h)

theorem Mach.putEn_wf (l : List Byte) : ∀ (m : Mach) (a : Nat) (es : List Bool), Memory.wf m.mem = true → Memory.wf (m.putEn a l es).mem = true := by
  induction l with
  | nil => intro m a es h; exact h
  | cons b l ih =>
    intro m a es h
    cases es with
    | nil => exact h
    | cons e es => cases e with
      | false => exact ih _ _ _ h
      | true => exact ih _ _ _ (m.putByte_wf a b h)

theorem memory_filter_wf (l : List Host.Cell) (p : Host.Cell → Bool) (h : Memory.wf l = true) : Memory.wf (l.filter p) = true :=
  SMap.wfFrom_filter _ p 0 l h

/-! The commands' outermost shape -/

/-- A command to a domain that runs acts on the machine and leaves the queue. -/
theorem State.on_alive (s : State) (x : Dom) (f : Mach → Mach) (h : s.m.alive x = true) : s.on x f = .next { s with m := f s.m } := by simp [State.on, h]

/-- A command to a domain that does not run changes nothing (log 5). -/
theorem State.on_stopped (s : State) (x : Dom) (f : Mach → Mach) (h : s.m.alive x = false) : s.on x f = .next s := by simp [State.on, h]

end Sys2Proof.Machine
end

