-- ==== Sys2Proof/Laws/Updates.lean ====
section
/-! SUPPORT. What the updates of one unit's part leave as it was, and what they read back, beside those of Laws/State.lean. -/

namespace Sys2Proof.Machine

@[simp] theorem Mach.setBankQ_fuses (m : Mach) (b : Nat) (q : Bool) (l : List BankAcc) : (m.setBankQ b q l).fuses = m.fuses := (rfl)
@[simp] theorem Mach.setBankQ_fields (m : Mach) (b : Nat) (q : Bool) (l : List BankAcc) : (m.setBankQ b q l).fields = m.fields := (rfl)
@[simp] theorem Mach.setBankQ_mem (m : Mach) (b : Nat) (q : Bool) (l : List BankAcc) : (m.setBankQ b q l).mem = m.mem := (rfl)
@[simp] theorem Mach.setBankQ_bankBad (m : Mach) (b : Nat) (q : Bool) (l : List BankAcc) : (m.setBankQ b q l).bankBad = m.bankBad := (rfl)
@[simp] theorem Mach.setBankQ_tiles (m : Mach) (b : Nat) (q : Bool) (l : List BankAcc) : (m.setBankQ b q l).tiles = m.tiles := (rfl)
@[simp] theorem Mach.setBankQ_ves (m : Mach) (b : Nat) (q : Bool) (l : List BankAcc) : (m.setBankQ b q l).ves = m.ves := (rfl)
@[simp] theorem Mach.setBankQ_arbs (m : Mach) (b : Nat) (q : Bool) (l : List BankAcc) : (m.setBankQ b q l).arbs = m.arbs := (rfl)
@[simp] theorem Mach.setBankQ_arrayCycle (m : Mach) (b : Nat) (q : Bool) (l : List BankAcc) : (m.setBankQ b q l).arrayCycle = m.arrayCycle := (rfl)
@[simp] theorem Mach.setBankQ_nocCycle (m : Mach) (b : Nat) (q : Bool) (l : List BankAcc) : (m.setBankQ b q l).nocCycle = m.nocCycle := (rfl)
@[simp] theorem Mach.setBankQ_near (m : Mach) (b : Nat) (q : Bool) (l : List BankAcc) : (m.setBankQ b q l).near = m.near := (rfl)
@[simp] theorem Mach.setBankQ_test (m : Mach) (b : Nat) (q : Bool) (l : List BankAcc) : (m.setBankQ b q l).test = m.test := (rfl)
@[simp] theorem Mach.setBankQ_far (m : Mach) (b : Nat) (q : Bool) (l : List BankAcc) : (m.setBankQ b q l).far = m.far := (rfl)
@[simp] theorem Mach.setBankQ_alm (m : Mach) (b : Nat) (q : Bool) (l : List BankAcc) : (m.setBankQ b q l).alm = m.alm := (rfl)
@[simp] theorem Mach.setBankQ_ses (m : Mach) (b : Nat) (q : Bool) (l : List BankAcc) : (m.setBankQ b q l).ses = m.ses := (rfl)
@[simp] theorem Mach.setBankQ_net (m : Mach) (b : Nat) (q : Bool) (l : List BankAcc) : (m.setBankQ b q l).net = m.net := (rfl)
@[simp] theorem Mach.setBankQ_fab (m : Mach) (b : Nat) (q : Bool) (l : List BankAcc) : (m.setBankQ b q l).fab = m.fab := (rfl)
@[simp] theorem Mach.setBankQ_slices (m : Mach) (b : Nat) (q : Bool) (l : List BankAcc) : (m.setBankQ b q l).slices = m.slices := (rfl)
@[simp] theorem Mach.setBankQ_cfg (m : Mach) (b : Nat) (q : Bool) (l : List BankAcc) : (m.setBankQ b q l).cfg = m.cfg := (rfl)
@[simp] theorem Mach.setBankQ_lanes (m : Mach) (b : Nat) (q : Bool) (l : List BankAcc) : (m.setBankQ b q l).lanes = m.lanes := (rfl)
@[simp] theorem Mach.setBankQ_ports (m : Mach) (b : Nat) (q : Bool) (l : List BankAcc) : (m.setBankQ b q l).ports = m.ports := (rfl)
@[simp] theorem Mach.setBankQ_hl (m : Mach) (b : Nat) (q : Bool) (l : List BankAcc) : (m.setBankQ b q l).hl = m.hl := (rfl)
@[simp] theorem Mach.setBankQ_fw (m : Mach) (b : Nat) (q : Bool) (l : List BankAcc) : (m.setBankQ b q l).fw = m.fw := (rfl)
@[simp] theorem Mach.setBankQ_ticks (m : Mach) (b : Nat) (q : Bool) (l : List BankAcc) : (m.setBankQ b q l).ticks = m.ticks := (rfl)
@[simp] theorem Mach.setBankQ_pow (m : Mach) (b : Nat) (q : Bool) (l : List BankAcc) : (m.setBankQ b q l).pow = m.pow := (rfl)
@[simp] theorem Mach.setBankQ_out (m : Mach) (b : Nat) (q : Bool) (l : List BankAcc) : (m.setBankQ b q l).out = m.out := (rfl)
@[simp] theorem Mach.setBankQ_free (m : Mach) (b : Nat) (q : Bool) (l : List BankAcc) : (m.setBankQ b q l).free = m.free := (rfl)
@[simp] theorem Mach.setBankQ_rd (m : Mach) (b : Nat) (q : Bool) (l : List BankAcc) (f : Fld) (p : Nat) : (m.setBankQ b q l).rd f p = m.rd f p := (rfl)
@[simp] theorem Mach.setBankQ_on (m : Mach) (b : Nat) (q : Bool) (l : List BankAcc) (f : Fld) (p : Nat) : (m.setBankQ b q l).on f p = m.on f p := (rfl)
@[simp] theorem Mach.setBankQ_byte (m : Mach) (b : Nat) (q : Bool) (l : List BankAcc) (a : Nat) : (m.setBankQ b q l).byte a = m.byte a := (rfl)
@[simp] theorem Mach.setBankQ_tile (m : Mach) (b : Nat) (q : Bool) (l : List BankAcc) (t : Nat) : (m.setBankQ b q l).tile t = m.tile t := (rfl)
@[simp] theorem Mach.setBankQ_ve (m : Mach) (b : Nat) (q : Bool) (l : List BankAcc) (c : Nat) : (m.setBankQ b q l).ve c = m.ve c := (rfl)
@[simp] theorem Mach.setBankQ_arb (m : Mach) (b : Nat) (q : Bool) (l : List BankAcc) (a : ArbId) : (m.setBankQ b q l).arb a = m.arb a := (rfl)
@[simp] theorem Mach.setBankQ_sl (m : Mach) (b : Nat) (q : Bool) (l : List BankAcc) (k : Nat) : (m.setBankQ b q l).sl k = m.sl k := (rfl)
@[simp] theorem Mach.setBankQ_lane (m : Mach) (b : Nat) (q : Bool) (l : List BankAcc) (n : Nat) : (m.setBankQ b q l).lane n = m.lane n := (rfl)
@[simp] theorem Mach.setBankQ_port (m : Mach) (b : Nat) (q : Bool) (l : List BankAcc) (n : Nat) : (m.setBankQ b q l).port n = m.port n := (rfl)
@[simp] theorem Mach.setBankQ_se (m : Mach) (b : Nat) (q : Bool) (l : List BankAcc) (d e : Nat) : (m.setBankQ b q l).se d e = m.se d e := (rfl)
@[simp] theorem Mach.setBankQ_farCh (m : Mach) (b : Nat) (q : Bool) (l : List BankAcc) (h : Nat) : (m.setBankQ b q l).farCh h = m.farCh h := (rfl)
@[simp] theorem Mach.setBankQ_fni (m : Mach) (b : Nat) (q : Bool) (l : List BankAcc) (k : Nat) : (m.setBankQ b q l).fni k = m.fni k := (rfl)
@[simp] theorem Mach.setBankQ_proc (m : Mach) (b : Nat) (q : Bool) (l : List BankAcc) (p : Nat) : (m.setBankQ b q l).proc p = m.proc p := (rfl)

@[simp] theorem Mach.setFarBad_fuses (m : Mach) (a : Nat) (b : Bool) : (m.setFarBad a b).fuses = m.fuses := (rfl)
@[simp] theorem Mach.setFarBad_fields (m : Mach) (a : Nat) (b : Bool) : (m.setFarBad a b).fields = m.fields := (rfl)
@[simp] theorem Mach.setFarBad_mem (m : Mach) (a : Nat) (b : Bool) : (m.setFarBad a b).mem = m.mem := (rfl)
@[simp] theorem Mach.setFarBad_bankBad (m : Mach) (a : Nat) (b : Bool) : (m.setFarBad a b).bankBad = m.bankBad := (rfl)
@[simp] theorem Mach.setFarBad_tiles (m : Mach) (a : Nat) (b : Bool) : (m.setFarBad a b).tiles = m.tiles := (rfl)
@[simp] theorem Mach.setFarBad_ves (m : Mach) (a : Nat) (b : Bool) : (m.setFarBad a b).ves = m.ves := (rfl)
@[simp] theorem Mach.setFarBad_arbs (m : Mach) (a : Nat) (b : Bool) : (m.setFarBad a b).arbs = m.arbs := (rfl)
@[simp] theorem Mach.setFarBad_bankOut (m : Mach) (a : Nat) (b : Bool) : (m.setFarBad a b).bankOut = m.bankOut := (rfl)
@[simp] theorem Mach.setFarBad_arrayCycle (m : Mach) (a : Nat) (b : Bool) : (m.setFarBad a b).arrayCycle = m.arrayCycle := (rfl)
@[simp] theorem Mach.setFarBad_nocCycle (m : Mach) (a : Nat) (b : Bool) : (m.setFarBad a b).nocCycle = m.nocCycle := (rfl)
@[simp] theorem Mach.setFarBad_near (m : Mach) (a : Nat) (b : Bool) : (m.setFarBad a b).near = m.near := (rfl)
@[simp] theorem Mach.setFarBad_test (m : Mach) (a : Nat) (b : Bool) : (m.setFarBad a b).test = m.test := (rfl)
@[simp] theorem Mach.setFarBad_alm (m : Mach) (a : Nat) (b : Bool) : (m.setFarBad a b).alm = m.alm := (rfl)
@[simp] theorem Mach.setFarBad_ses (m : Mach) (a : Nat) (b : Bool) : (m.setFarBad a b).ses = m.ses := (rfl)
@[simp] theorem Mach.setFarBad_net (m : Mach) (a : Nat) (b : Bool) : (m.setFarBad a b).net = m.net := (rfl)
@[simp] theorem Mach.setFarBad_fab (m : Mach) (a : Nat) (b : Bool) : (m.setFarBad a b).fab = m.fab := (rfl)
@[simp] theorem Mach.setFarBad_slices (m : Mach) (a : Nat) (b : Bool) : (m.setFarBad a b).slices = m.slices := (rfl)
@[simp] theorem Mach.setFarBad_cfg (m : Mach) (a : Nat) (b : Bool) : (m.setFarBad a b).cfg = m.cfg := (rfl)
@[simp] theorem Mach.setFarBad_lanes (m : Mach) (a : Nat) (b : Bool) : (m.setFarBad a b).lanes = m.lanes := (rfl)
@[simp] theorem Mach.setFarBad_ports (m : Mach) (a : Nat) (b : Bool) : (m.setFarBad a b).ports = m.ports := (rfl)
@[simp] theorem Mach.setFarBad_hl (m : Mach) (a : Nat) (b : Bool) : (m.setFarBad a b).hl = m.hl := (rfl)
@[simp] theorem Mach.setFarBad_fw (m : Mach) (a : Nat) (b : Bool) : (m.setFarBad a b).fw = m.fw := (rfl)
@[simp] theorem Mach.setFarBad_ticks (m : Mach) (a : Nat) (b : Bool) : (m.setFarBad a b).ticks = m.ticks := (rfl)
@[simp] theorem Mach.setFarBad_pow (m : Mach) (a : Nat) (b : Bool) : (m.setFarBad a b).pow = m.pow := (rfl)
@[simp] theorem Mach.setFarBad_out (m : Mach) (a : Nat) (b : Bool) : (m.setFarBad a b).out = m.out := (rfl)
@[simp] theorem Mach.setFarBad_free (m : Mach) (a : Nat) (b : Bool) : (m.setFarBad a b).free = m.free := (rfl)
@[simp] theorem Mach.setFarBad_rd (m : Mach) (a : Nat) (b : Bool) (f : Fld) (p : Nat) : (m.setFarBad a b).rd f p = m.rd f p := (rfl)
@[simp] theorem Mach.setFarBad_on (m : Mach) (a : Nat) (b : Bool) (f : Fld) (p : Nat) : (m.setFarBad a b).on f p = m.on f p := (rfl)
@[simp] theorem Mach.setFarBad_byte (m : Mach) (a : Nat) (b : Bool) (a' : Nat) : (m.setFarBad a b).byte a' = m.byte a' := (rfl)
@[simp] theorem Mach.setFarBad_tile (m : Mach) (a : Nat) (b : Bool) (t : Nat) : (m.setFarBad a b).tile t = m.tile t := (rfl)
@[simp] theorem Mach.setFarBad_ve (m : Mach) (a : Nat) (b : Bool) (c : Nat) : (m.setFarBad a b).ve c = m.ve c := (rfl)
@[simp] theorem Mach.setFarBad_arb (m : Mach) (a : Nat) (b : Bool) (a' : ArbId) : (m.setFarBad a b).arb a' = m.arb a' := (rfl)
@[simp] theorem Mach.setFarBad_sl (m : Mach) (a : Nat) (b : Bool) (k : Nat) : (m.setFarBad a b).sl k = m.sl k := (rfl)
@[simp] theorem Mach.setFarBad_lane (m : Mach) (a : Nat) (b : Bool) (n : Nat) : (m.setFarBad a b).lane n = m.lane n := (rfl)
@[simp] theorem Mach.setFarBad_port (m : Mach) (a : Nat) (b : Bool) (n : Nat) : (m.setFarBad a b).port n = m.port n := (rfl)
@[simp] theorem Mach.setFarBad_se (m : Mach) (a : Nat) (b : Bool) (d e : Nat) : (m.setFarBad a b).se d e = m.se d e := (rfl)
@[simp] theorem Mach.setFarBad_farCh (m : Mach) (a : Nat) (b : Bool) (h : Nat) : (m.setFarBad a b).farCh h = m.farCh h := (rfl)
@[simp] theorem Mach.setFarBad_fni (m : Mach) (a : Nat) (b : Bool) (k : Nat) : (m.setFarBad a b).fni k = m.fni k := (rfl)
@[simp] theorem Mach.setFarBad_proc (m : Mach) (a : Nat) (b : Bool) (p : Nat) : (m.setFarBad a b).proc p = m.proc p := (rfl)

@[simp] theorem Mach.setNearBad_fuses (m : Mach) (a : Nat) (b : Bool) : (m.setNearBad a b).fuses = m.fuses := (rfl)
@[simp] theorem Mach.setNearBad_fields (m : Mach) (a : Nat) (b : Bool) : (m.setNearBad a b).fields = m.fields := (rfl)
@[simp] theorem Mach.setNearBad_mem (m : Mach) (a : Nat) (b : Bool) : (m.setNearBad a b).mem = m.mem := (rfl)
@[simp] theorem Mach.setNearBad_bankBad (m : Mach) (a : Nat) (b : Bool) : (m.setNearBad a b).bankBad = m.bankBad := (rfl)
@[simp] theorem Mach.setNearBad_tiles (m : Mach) (a : Nat) (b : Bool) : (m.setNearBad a b).tiles = m.tiles := (rfl)
@[simp] theorem Mach.setNearBad_ves (m : Mach) (a : Nat) (b : Bool) : (m.setNearBad a b).ves = m.ves := (rfl)
@[simp] theorem Mach.setNearBad_arbs (m : Mach) (a : Nat) (b : Bool) : (m.setNearBad a b).arbs = m.arbs := (rfl)
@[simp] theorem Mach.setNearBad_bankOut (m : Mach) (a : Nat) (b : Bool) : (m.setNearBad a b).bankOut = m.bankOut := (rfl)
@[simp] theorem Mach.setNearBad_arrayCycle (m : Mach) (a : Nat) (b : Bool) : (m.setNearBad a b).arrayCycle = m.arrayCycle := (rfl)
@[simp] theorem Mach.setNearBad_nocCycle (m : Mach) (a : Nat) (b : Bool) : (m.setNearBad a b).nocCycle = m.nocCycle := (rfl)
@[simp] theorem Mach.setNearBad_test (m : Mach) (a : Nat) (b : Bool) : (m.setNearBad a b).test = m.test := (rfl)
@[simp] theorem Mach.setNearBad_far (m : Mach) (a : Nat) (b : Bool) : (m.setNearBad a b).far = m.far := (rfl)
@[simp] theorem Mach.setNearBad_alm (m : Mach) (a : Nat) (b : Bool) : (m.setNearBad a b).alm = m.alm := (rfl)
@[simp] theorem Mach.setNearBad_ses (m : Mach) (a : Nat) (b : Bool) : (m.setNearBad a b).ses = m.ses := (rfl)
@[simp] theorem Mach.setNearBad_net (m : Mach) (a : Nat) (b : Bool) : (m.setNearBad a b).net = m.net := (rfl)
@[simp] theorem Mach.setNearBad_fab (m : Mach) (a : Nat) (b : Bool) : (m.setNearBad a b).fab = m.fab := (rfl)
@[simp] theorem Mach.setNearBad_slices (m : Mach) (a : Nat) (b : Bool) : (m.setNearBad a b).slices = m.slices := (rfl)
@[simp] theorem Mach.setNearBad_cfg (m : Mach) (a : Nat) (b : Bool) : (m.setNearBad a b).cfg = m.cfg := (rfl)
@[simp] theorem Mach.setNearBad_lanes (m : Mach) (a : Nat) (b : Bool) : (m.setNearBad a b).lanes = m.lanes := (rfl)
@[simp] theorem Mach.setNearBad_ports (m : Mach) (a : Nat) (b : Bool) : (m.setNearBad a b).ports = m.ports := (rfl)
@[simp] theorem Mach.setNearBad_hl (m : Mach) (a : Nat) (b : Bool) : (m.setNearBad a b).hl = m.hl := (rfl)
@[simp] theorem Mach.setNearBad_fw (m : Mach) (a : Nat) (b : Bool) : (m.setNearBad a b).fw = m.fw := (rfl)
@[simp] theorem Mach.setNearBad_ticks (m : Mach) (a : Nat) (b : Bool) : (m.setNearBad a b).ticks = m.ticks := (rfl)
@[simp] theorem Mach.setNearBad_pow (m : Mach) (a : Nat) (b : Bool) : (m.setNearBad a b).pow = m.pow := (rfl)
@[simp] theorem Mach.setNearBad_out (m : Mach) (a : Nat) (b : Bool) : (m.setNearBad a b).out = m.out := (rfl)
@[simp] theorem Mach.setNearBad_free (m : Mach) (a : Nat) (b : Bool) : (m.setNearBad a b).free = m.free := (rfl)
@[simp] theorem Mach.setNearBad_rd (m : Mach) (a : Nat) (b : Bool) (f : Fld) (p : Nat) : (m.setNearBad a b).rd f p = m.rd f p := (rfl)
@[simp] theorem Mach.setNearBad_on (m : Mach) (a : Nat) (b : Bool) (f : Fld) (p : Nat) : (m.setNearBad a b).on f p = m.on f p := (rfl)
@[simp] theorem Mach.setNearBad_byte (m : Mach) (a : Nat) (b : Bool) (a' : Nat) : (m.setNearBad a b).byte a' = m.byte a' := (rfl)
@[simp] theorem Mach.setNearBad_tile (m : Mach) (a : Nat) (b : Bool) (t : Nat) : (m.setNearBad a b).tile t = m.tile t := (rfl)
@[simp] theorem Mach.setNearBad_ve (m : Mach) (a : Nat) (b : Bool) (c : Nat) : (m.setNearBad a b).ve c = m.ve c := (rfl)
@[simp] theorem Mach.setNearBad_arb (m : Mach) (a : Nat) (b : Bool) (a' : ArbId) : (m.setNearBad a b).arb a' = m.arb a' := (rfl)
@[simp] theorem Mach.setNearBad_sl (m : Mach) (a : Nat) (b : Bool) (k : Nat) : (m.setNearBad a b).sl k = m.sl k := (rfl)
@[simp] theorem Mach.setNearBad_lane (m : Mach) (a : Nat) (b : Bool) (n : Nat) : (m.setNearBad a b).lane n = m.lane n := (rfl)
@[simp] theorem Mach.setNearBad_port (m : Mach) (a : Nat) (b : Bool) (n : Nat) : (m.setNearBad a b).port n = m.port n := (rfl)
@[simp] theorem Mach.setNearBad_se (m : Mach) (a : Nat) (b : Bool) (d e : Nat) : (m.setNearBad a b).se d e = m.se d e := (rfl)
@[simp] theorem Mach.setNearBad_farCh (m : Mach) (a : Nat) (b : Bool) (h : Nat) : (m.setNearBad a b).farCh h = m.farCh h := (rfl)
@[simp] theorem Mach.setNearBad_fni (m : Mach) (a : Nat) (b : Bool) (k : Nat) : (m.setNearBad a b).fni k = m.fni k := (rfl)
@[simp] theorem Mach.setNearBad_proc (m : Mach) (a : Nat) (b : Bool) (p : Nat) : (m.setNearBad a b).proc p = m.proc p := (rfl)

@[simp] theorem Mach.setWaits_fuses (m : Mach) (l : List NearWait) : (m.setWaits l).fuses = m.fuses := (rfl)
@[simp] theorem Mach.setWaits_fields (m : Mach) (l : List NearWait) : (m.setWaits l).fields = m.fields := (rfl)
@[simp] theorem Mach.setWaits_mem (m : Mach) (l : List NearWait) : (m.setWaits l).mem = m.mem := (rfl)
@[simp] theorem Mach.setWaits_bankBad (m : Mach) (l : List NearWait) : (m.setWaits l).bankBad = m.bankBad := (rfl)
@[simp] theorem Mach.setWaits_tiles (m : Mach) (l : List NearWait) : (m.setWaits l).tiles = m.tiles := (rfl)
@[simp] theorem Mach.setWaits_ves (m : Mach) (l : List NearWait) : (m.setWaits l).ves = m.ves := (rfl)
@[simp] theorem Mach.setWaits_arbs (m : Mach) (l : List NearWait) : (m.setWaits l).arbs = m.arbs := (rfl)
@[simp] theorem Mach.setWaits_bankOut (m : Mach) (l : List NearWait) : (m.setWaits l).bankOut = m.bankOut := (rfl)
@[simp] theorem Mach.setWaits_arrayCycle (m : Mach) (l : List NearWait) : (m.setWaits l).arrayCycle = m.arrayCycle := (rfl)
@[simp] theorem Mach.setWaits_nocCycle (m : Mach) (l : List NearWait) : (m.setWaits l).nocCycle = m.nocCycle := (rfl)
@[simp] theorem Mach.setWaits_test (m : Mach) (l : List NearWait) : (m.setWaits l).test = m.test := (rfl)
@[simp] theorem Mach.setWaits_far (m : Mach) (l : List NearWait) : (m.setWaits l).far = m.far := (rfl)
@[simp] theorem Mach.setWaits_alm (m : Mach) (l : List NearWait) : (m.setWaits l).alm = m.alm := (rfl)
@[simp] theorem Mach.setWaits_ses (m : Mach) (l : List NearWait) : (m.setWaits l).ses = m.ses := (rfl)
@[simp] theorem Mach.setWaits_net (m : Mach) (l : List NearWait) : (m.setWaits l).net = m.net := (rfl)
@[simp] theorem Mach.setWaits_fab (m : Mach) (l : List NearWait) : (m.setWaits l).fab = m.fab := (rfl)
@[simp] theorem Mach.setWaits_slices (m : Mach) (l : List NearWait) : (m.setWaits l).slices = m.slices := (rfl)
@[simp] theorem Mach.setWaits_cfg (m : Mach) (l : List NearWait) : (m.setWaits l).cfg = m.cfg := (rfl)
@[simp] theorem Mach.setWaits_lanes (m : Mach) (l : List NearWait) : (m.setWaits l).lanes = m.lanes := (rfl)
@[simp] theorem Mach.setWaits_ports (m : Mach) (l : List NearWait) : (m.setWaits l).ports = m.ports := (rfl)
@[simp] theorem Mach.setWaits_hl (m : Mach) (l : List NearWait) : (m.setWaits l).hl = m.hl := (rfl)
@[simp] theorem Mach.setWaits_fw (m : Mach) (l : List NearWait) : (m.setWaits l).fw = m.fw := (rfl)
@[simp] theorem Mach.setWaits_ticks (m : Mach) (l : List NearWait) : (m.setWaits l).ticks = m.ticks := (rfl)
@[simp] theorem Mach.setWaits_pow (m : Mach) (l : List NearWait) : (m.setWaits l).pow = m.pow := (rfl)
@[simp] theorem Mach.setWaits_out (m : Mach) (l : List NearWait) : (m.setWaits l).out = m.out := (rfl)
@[simp] theorem Mach.setWaits_free (m : Mach) (l : List NearWait) : (m.setWaits l).free = m.free := (rfl)
@[simp] theorem Mach.setWaits_rd (m : Mach) (l : List NearWait) (f : Fld) (p : Nat) : (m.setWaits l).rd f p = m.rd f p := (rfl)
@[simp] theorem Mach.setWaits_on (m : Mach) (l : List NearWait) (f : Fld) (p : Nat) : (m.setWaits l).on f p = m.on f p := (rfl)
@[simp] theorem Mach.setWaits_byte (m : Mach) (l : List NearWait) (a : Nat) : (m.setWaits l).byte a = m.byte a := (rfl)
@[simp] theorem Mach.setWaits_tile (m : Mach) (l : List NearWait) (t : Nat) : (m.setWaits l).tile t = m.tile t := (rfl)
@[simp] theorem Mach.setWaits_ve (m : Mach) (l : List NearWait) (c : Nat) : (m.setWaits l).ve c = m.ve c := (rfl)
@[simp] theorem Mach.setWaits_arb (m : Mach) (l : List NearWait) (a : ArbId) : (m.setWaits l).arb a = m.arb a := (rfl)
@[simp] theorem Mach.setWaits_sl (m : Mach) (l : List NearWait) (k : Nat) : (m.setWaits l).sl k = m.sl k := (rfl)
@[simp] theorem Mach.setWaits_lane (m : Mach) (l : List NearWait) (n : Nat) : (m.setWaits l).lane n = m.lane n := (rfl)
@[simp] theorem Mach.setWaits_port (m : Mach) (l : List NearWait) (n : Nat) : (m.setWaits l).port n = m.port n := (rfl)
@[simp] theorem Mach.setWaits_se (m : Mach) (l : List NearWait) (d e : Nat) : (m.setWaits l).se d e = m.se d e := (rfl)
@[simp] theorem Mach.setWaits_farCh (m : Mach) (l : List NearWait) (h : Nat) : (m.setWaits l).farCh h = m.farCh h := (rfl)
@[simp] theorem Mach.setWaits_fni (m : Mach) (l : List NearWait) (k : Nat) : (m.setWaits l).fni k = m.fni k := (rfl)
@[simp] theorem Mach.setWaits_proc (m : Mach) (l : List NearWait) (p : Nat) : (m.setWaits l).proc p = m.proc p := (rfl)

@[simp] theorem Mach.setMarch_fuses (m : Mach) (c : Nat) (r : March) : (m.setMarch c r).fuses = m.fuses := (rfl)
@[simp] theorem Mach.setMarch_fields (m : Mach) (c : Nat) (r : March) : (m.setMarch c r).fields = m.fields := (rfl)
@[simp] theorem Mach.setMarch_mem (m : Mach) (c : Nat) (r : March) : (m.setMarch c r).mem = m.mem := (rfl)
@[simp] theorem Mach.setMarch_bankBad (m : Mach) (c : Nat) (r : March) : (m.setMarch c r).bankBad = m.bankBad := (rfl)
@[simp] theorem Mach.setMarch_tiles (m : Mach) (c : Nat) (r : March) : (m.setMarch c r).tiles = m.tiles := (rfl)
@[simp] theorem Mach.setMarch_ves (m : Mach) (c : Nat) (r : March) : (m.setMarch c r).ves = m.ves := (rfl)
@[simp] theorem Mach.setMarch_arbs (m : Mach) (c : Nat) (r : March) : (m.setMarch c r).arbs = m.arbs := (rfl)
@[simp] theorem Mach.setMarch_bankOut (m : Mach) (c : Nat) (r : March) : (m.setMarch c r).bankOut = m.bankOut := (rfl)
@[simp] theorem Mach.setMarch_arrayCycle (m : Mach) (c : Nat) (r : March) : (m.setMarch c r).arrayCycle = m.arrayCycle := (rfl)
@[simp] theorem Mach.setMarch_nocCycle (m : Mach) (c : Nat) (r : March) : (m.setMarch c r).nocCycle = m.nocCycle := (rfl)
@[simp] theorem Mach.setMarch_near (m : Mach) (c : Nat) (r : March) : (m.setMarch c r).near = m.near := (rfl)
@[simp] theorem Mach.setMarch_far (m : Mach) (c : Nat) (r : March) : (m.setMarch c r).far = m.far := (rfl)
@[simp] theorem Mach.setMarch_alm (m : Mach) (c : Nat) (r : March) : (m.setMarch c r).alm = m.alm := (rfl)
@[simp] theorem Mach.setMarch_ses (m : Mach) (c : Nat) (r : March) : (m.setMarch c r).ses = m.ses := (rfl)
@[simp] theorem Mach.setMarch_net (m : Mach) (c : Nat) (r : March) : (m.setMarch c r).net = m.net := (rfl)
@[simp] theorem Mach.setMarch_fab (m : Mach) (c : Nat) (r : March) : (m.setMarch c r).fab = m.fab := (rfl)
@[simp] theorem Mach.setMarch_slices (m : Mach) (c : Nat) (r : March) : (m.setMarch c r).slices = m.slices := (rfl)
@[simp] theorem Mach.setMarch_cfg (m : Mach) (c : Nat) (r : March) : (m.setMarch c r).cfg = m.cfg := (rfl)
@[simp] theorem Mach.setMarch_lanes (m : Mach) (c : Nat) (r : March) : (m.setMarch c r).lanes = m.lanes := (rfl)
@[simp] theorem Mach.setMarch_ports (m : Mach) (c : Nat) (r : March) : (m.setMarch c r).ports = m.ports := (rfl)
@[simp] theorem Mach.setMarch_hl (m : Mach) (c : Nat) (r : March) : (m.setMarch c r).hl = m.hl := (rfl)
@[simp] theorem Mach.setMarch_fw (m : Mach) (c : Nat) (r : March) : (m.setMarch c r).fw = m.fw := (rfl)
@[simp] theorem Mach.setMarch_ticks (m : Mach) (c : Nat) (r : March) : (m.setMarch c r).ticks = m.ticks := (rfl)
@[simp] theorem Mach.setMarch_pow (m : Mach) (c : Nat) (r : March) : (m.setMarch c r).pow = m.pow := (rfl)
@[simp] theorem Mach.setMarch_out (m : Mach) (c : Nat) (r : March) : (m.setMarch c r).out = m.out := (rfl)
@[simp] theorem Mach.setMarch_free (m : Mach) (c : Nat) (r : March) : (m.setMarch c r).free = m.free := (rfl)
@[simp] theorem Mach.setMarch_rd (m : Mach) (c : Nat) (r : March) (f : Fld) (p : Nat) : (m.setMarch c r).rd f p = m.rd f p := (rfl)
@[simp] theorem Mach.setMarch_on (m : Mach) (c : Nat) (r : March) (f : Fld) (p : Nat) : (m.setMarch c r).on f p = m.on f p := (rfl)
@[simp] theorem Mach.setMarch_byte (m : Mach) (c : Nat) (r : March) (a : Nat) : (m.setMarch c r).byte a = m.byte a := (rfl)
@[simp] theorem Mach.setMarch_tile (m : Mach) (c : Nat) (r : March) (t : Nat) : (m.setMarch c r).tile t = m.tile t := (rfl)
@[simp] theorem Mach.setMarch_ve (m : Mach) (c : Nat) (r : March) (c' : Nat) : (m.setMarch c r).ve c' = m.ve c' := (rfl)
@[simp] theorem Mach.setMarch_arb (m : Mach) (c : Nat) (r : March) (a : ArbId) : (m.setMarch c r).arb a = m.arb a := (rfl)
@[simp] theorem Mach.setMarch_sl (m : Mach) (c : Nat) (r : March) (k : Nat) : (m.setMarch c r).sl k = m.sl k := (rfl)
@[simp] theorem Mach.setMarch_lane (m : Mach) (c : Nat) (r : March) (n : Nat) : (m.setMarch c r).lane n = m.lane n := (rfl)
@[simp] theorem Mach.setMarch_port (m : Mach) (c : Nat) (r : March) (n : Nat) : (m.setMarch c r).port n = m.port n := (rfl)
@[simp] theorem Mach.setMarch_se (m : Mach) (c : Nat) (r : March) (d e : Nat) : (m.setMarch c r).se d e = m.se d e := (rfl)
@[simp] theorem Mach.setMarch_farCh (m : Mach) (c : Nat) (r : March) (h : Nat) : (m.setMarch c r).farCh h = m.farCh h := (rfl)
@[simp] theorem Mach.setMarch_fni (m : Mach) (c : Nat) (r : March) (k : Nat) : (m.setMarch c r).fni k = m.fni k := (rfl)
@[simp] theorem Mach.setMarch_proc (m : Mach) (c : Nat) (r : March) (p : Nat) : (m.setMarch c r).proc p = m.proc p := (rfl)

@[simp] theorem Mach.setJob_fuses (m : Mach) (x : Job) : (m.setJob x).fuses = m.fuses := (rfl)
@[simp] theorem Mach.setJob_fields (m : Mach) (x : Job) : (m.setJob x).fields = m.fields := (rfl)
@[simp] theorem Mach.setJob_mem (m : Mach) (x : Job) : (m.setJob x).mem = m.mem := (rfl)
@[simp] theorem Mach.setJob_bankBad (m : Mach) (x : Job) : (m.setJob x).bankBad = m.bankBad := (rfl)
@[simp] theorem Mach.setJob_tiles (m : Mach) (x : Job) : (m.setJob x).tiles = m.tiles := (rfl)
@[simp] theorem Mach.setJob_ves (m : Mach) (x : Job) : (m.setJob x).ves = m.ves := (rfl)
@[simp] theorem Mach.setJob_arbs (m : Mach) (x : Job) : (m.setJob x).arbs = m.arbs := (rfl)
@[simp] theorem Mach.setJob_bankOut (m : Mach) (x : Job) : (m.setJob x).bankOut = m.bankOut := (rfl)
@[simp] theorem Mach.setJob_arrayCycle (m : Mach) (x : Job) : (m.setJob x).arrayCycle = m.arrayCycle := (rfl)
@[simp] theorem Mach.setJob_nocCycle (m : Mach) (x : Job) : (m.setJob x).nocCycle = m.nocCycle := (rfl)
@[simp] theorem Mach.setJob_near (m : Mach) (x : Job) : (m.setJob x).near = m.near := (rfl)
@[simp] theorem Mach.setJob_test (m : Mach) (x : Job) : (m.setJob x).test = m.test := (rfl)
@[simp] theorem Mach.setJob_far (m : Mach) (x : Job) : (m.setJob x).far = m.far := (rfl)
@[simp] theorem Mach.setJob_ses (m : Mach) (x : Job) : (m.setJob x).ses = m.ses := (rfl)
@[simp] theorem Mach.setJob_net (m : Mach) (x : Job) : (m.setJob x).net = m.net := (rfl)
@[simp] theorem Mach.setJob_fab (m : Mach) (x : Job) : (m.setJob x).fab = m.fab := (rfl)
@[simp] theorem Mach.setJob_slices (m : Mach) (x : Job) : (m.setJob x).slices = m.slices := (rfl)
@[simp] theorem Mach.setJob_cfg (m : Mach) (x : Job) : (m.setJob x).cfg = m.cfg := (rfl)
@[simp] theorem Mach.setJob_lanes (m : Mach) (x : Job) : (m.setJob x).lanes = m.lanes := (rfl)
@[simp] theorem Mach.setJob_ports (m : Mach) (x : Job) : (m.setJob x).ports = m.ports := (rfl)
@[simp] theorem Mach.setJob_hl (m : Mach) (x : Job) : (m.setJob x).hl = m.hl := (rfl)
@[simp] theorem Mach.setJob_fw (m : Mach) (x : Job) : (m.setJob x).fw = m.fw := (rfl)
@[simp] theorem Mach.setJob_ticks (m : Mach) (x : Job) : (m.setJob x).ticks = m.ticks := (rfl)
@[simp] theorem Mach.setJob_pow (m : Mach) (x : Job) : (m.setJob x).pow = m.pow := (rfl)
@[simp] theorem Mach.setJob_out (m : Mach) (x : Job) : (m.setJob x).out = m.out := (rfl)
@[simp] theorem Mach.setJob_free (m : Mach) (x : Job) : (m.setJob x).free = m.free := (rfl)
@[simp] theorem Mach.setJob_rd (m : Mach) (x : Job) (f : Fld) (p : Nat) : (m.setJob x).rd f p = m.rd f p := (rfl)
@[simp] theorem Mach.setJob_on (m : Mach) (x : Job) (f : Fld) (p : Nat) : (m.setJob x).on f p = m.on f p := (rfl)
@[simp] theorem Mach.setJob_byte (m : Mach) (x : Job) (a : Nat) : (m.setJob x).byte a = m.byte a := (rfl)
@[simp] theorem Mach.setJob_tile (m : Mach) (x : Job) (t : Nat) : (m.setJob x).tile t = m.tile t := (rfl)
@[simp] theorem Mach.setJob_ve (m : Mach) (x : Job) (c : Nat) : (m.setJob x).ve c = m.ve c := (rfl)
@[simp] theorem Mach.setJob_arb (m : Mach) (x : Job) (a : ArbId) : (m.setJob x).arb a = m.arb a := (rfl)
@[simp] theorem Mach.setJob_sl (m : Mach) (x : Job) (k : Nat) : (m.setJob x).sl k = m.sl k := (rfl)
@[simp] theorem Mach.setJob_lane (m : Mach) (x : Job) (n : Nat) : (m.setJob x).lane n = m.lane n := (rfl)
@[simp] theorem Mach.setJob_port (m : Mach) (x : Job) (n : Nat) : (m.setJob x).port n = m.port n := (rfl)
@[simp] theorem Mach.setJob_se (m : Mach) (x : Job) (d e : Nat) : (m.setJob x).se d e = m.se d e := (rfl)
@[simp] theorem Mach.setJob_farCh (m : Mach) (x : Job) (h : Nat) : (m.setJob x).farCh h = m.farCh h := (rfl)
@[simp] theorem Mach.setJob_fni (m : Mach) (x : Job) (k : Nat) : (m.setJob x).fni k = m.fni k := (rfl)
@[simp] theorem Mach.setJob_proc (m : Mach) (x : Job) (p : Nat) : (m.setJob x).proc p = m.proc p := (rfl)

@[simp] theorem Mach.setShare_fuses (m : Mach) (x : Share) : (m.setShare x).fuses = m.fuses := (rfl)
@[simp] theorem Mach.setShare_fields (m : Mach) (x : Share) : (m.setShare x).fields = m.fields := (rfl)
@[simp] theorem Mach.setShare_mem (m : Mach) (x : Share) : (m.setShare x).mem = m.mem := (rfl)
@[simp] theorem Mach.setShare_bankBad (m : Mach) (x : Share) : (m.setShare x).bankBad = m.bankBad := (rfl)
@[simp] theorem Mach.setShare_tiles (m : Mach) (x : Share) : (m.setShare x).tiles = m.tiles := (rfl)
@[simp] theorem Mach.setShare_ves (m : Mach) (x : Share) : (m.setShare x).ves = m.ves := (rfl)
@[simp] theorem Mach.setShare_arbs (m : Mach) (x : Share) : (m.setShare x).arbs = m.arbs := (rfl)
@[simp] theorem Mach.setShare_bankOut (m : Mach) (x : Share) : (m.setShare x).bankOut = m.bankOut := (rfl)
@[simp] theorem Mach.setShare_arrayCycle (m : Mach) (x : Share) : (m.setShare x).arrayCycle = m.arrayCycle := (rfl)
@[simp] theorem Mach.setShare_nocCycle (m : Mach) (x : Share) : (m.setShare x).nocCycle = m.nocCycle := (rfl)
@[simp] theorem Mach.setShare_near (m : Mach) (x : Share) : (m.setShare x).near = m.near := (rfl)
@[simp] theorem Mach.setShare_test (m : Mach) (x : Share) : (m.setShare x).test = m.test := (rfl)
@[simp] theorem Mach.setShare_far (m : Mach) (x : Share) : (m.setShare x).far = m.far := (rfl)
@[simp] theorem Mach.setShare_ses (m : Mach) (x : Share) : (m.setShare x).ses = m.ses := (rfl)
@[simp] theorem Mach.setShare_net (m : Mach) (x : Share) : (m.setShare x).net = m.net := (rfl)
@[simp] theorem Mach.setShare_fab (m : Mach) (x : Share) : (m.setShare x).fab = m.fab := (rfl)
@[simp] theorem Mach.setShare_slices (m : Mach) (x : Share) : (m.setShare x).slices = m.slices := (rfl)
@[simp] theorem Mach.setShare_cfg (m : Mach) (x : Share) : (m.setShare x).cfg = m.cfg := (rfl)
@[simp] theorem Mach.setShare_lanes (m : Mach) (x : Share) : (m.setShare x).lanes = m.lanes := (rfl)
@[simp] theorem Mach.setShare_ports (m : Mach) (x : Share) : (m.setShare x).ports = m.ports := (rfl)
@[simp] theorem Mach.setShare_hl (m : Mach) (x : Share) : (m.setShare x).hl = m.hl := (rfl)
@[simp] theorem Mach.setShare_fw (m : Mach) (x : Share) : (m.setShare x).fw = m.fw := (rfl)
@[simp] theorem Mach.setShare_ticks (m : Mach) (x : Share) : (m.setShare x).ticks = m.ticks := (rfl)
@[simp] theorem Mach.setShare_pow (m : Mach) (x : Share) : (m.setShare x).pow = m.pow := (rfl)
@[simp] theorem Mach.setShare_out (m : Mach) (x : Share) : (m.setShare x).out = m.out := (rfl)
@[simp] theorem Mach.setShare_free (m : Mach) (x : Share) : (m.setShare x).free = m.free := (rfl)
@[simp] theorem Mach.setShare_rd (m : Mach) (x : Share) (f : Fld) (p : Nat) : (m.setShare x).rd f p = m.rd f p := (rfl)
@[simp] theorem Mach.setShare_on (m : Mach) (x : Share) (f : Fld) (p : Nat) : (m.setShare x).on f p = m.on f p := (rfl)
@[simp] theorem Mach.setShare_byte (m : Mach) (x : Share) (a : Nat) : (m.setShare x).byte a = m.byte a := (rfl)
@[simp] theorem Mach.setShare_tile (m : Mach) (x : Share) (t : Nat) : (m.setShare x).tile t = m.tile t := (rfl)
@[simp] theorem Mach.setShare_ve (m : Mach) (x : Share) (c : Nat) : (m.setShare x).ve c = m.ve c := (rfl)
@[simp] theorem Mach.setShare_arb (m : Mach) (x : Share) (a : ArbId) : (m.setShare x).arb a = m.arb a := (rfl)
@[simp] theorem Mach.setShare_sl (m : Mach) (x : Share) (k : Nat) : (m.setShare x).sl k = m.sl k := (rfl)
@[simp] theorem Mach.setShare_lane (m : Mach) (x : Share) (n : Nat) : (m.setShare x).lane n = m.lane n := (rfl)
@[simp] theorem Mach.setShare_port (m : Mach) (x : Share) (n : Nat) : (m.setShare x).port n = m.port n := (rfl)
@[simp] theorem Mach.setShare_se (m : Mach) (x : Share) (d e : Nat) : (m.setShare x).se d e = m.se d e := (rfl)
@[simp] theorem Mach.setShare_farCh (m : Mach) (x : Share) (h : Nat) : (m.setShare x).farCh h = m.farCh h := (rfl)
@[simp] theorem Mach.setShare_fni (m : Mach) (x : Share) (k : Nat) : (m.setShare x).fni k = m.fni k := (rfl)
@[simp] theorem Mach.setShare_proc (m : Mach) (x : Share) (p : Nat) : (m.setShare x).proc p = m.proc p := (rfl)

@[simp] theorem Mach.setMover_fuses (m : Mach) (d k : Nat) (x : Mover) : (m.setMover d k x).fuses = m.fuses := (rfl)
@[simp] theorem Mach.setMover_fields (m : Mach) (d k : Nat) (x : Mover) : (m.setMover d k x).fields = m.fields := (rfl)
@[simp] theorem Mach.setMover_mem (m : Mach) (d k : Nat) (x : Mover) : (m.setMover d k x).mem = m.mem := (rfl)
@[simp] theorem Mach.setMover_bankBad (m : Mach) (d k : Nat) (x : Mover) : (m.setMover d k x).bankBad = m.bankBad := (rfl)
@[simp] theorem Mach.setMover_tiles (m : Mach) (d k : Nat) (x : Mover) : (m.setMover d k x).tiles = m.tiles := (rfl)
@[simp] theorem Mach.setMover_ves (m : Mach) (d k : Nat) (x : Mover) : (m.setMover d k x).ves = m.ves := (rfl)
@[simp] theorem Mach.setMover_arbs (m : Mach) (d k : Nat) (x : Mover) : (m.setMover d k x).arbs = m.arbs := (rfl)
@[simp] theorem Mach.setMover_bankOut (m : Mach) (d k : Nat) (x : Mover) : (m.setMover d k x).bankOut = m.bankOut := (rfl)
@[simp] theorem Mach.setMover_arrayCycle (m : Mach) (d k : Nat) (x : Mover) : (m.setMover d k x).arrayCycle = m.arrayCycle := (rfl)
@[simp] theorem Mach.setMover_nocCycle (m : Mach) (d k : Nat) (x : Mover) : (m.setMover d k x).nocCycle = m.nocCycle := (rfl)
@[simp] theorem Mach.setMover_near (m : Mach) (d k : Nat) (x : Mover) : (m.setMover d k x).near = m.near := (rfl)
@[simp] theorem Mach.setMover_test (m : Mach) (d k : Nat) (x : Mover) : (m.setMover d k x).test = m.test := (rfl)
@[simp] theorem Mach.setMover_far (m : Mach) (d k : Nat) (x : Mover) : (m.setMover d k x).far = m.far := (rfl)
@[simp] theorem Mach.setMover_ses (m : Mach) (d k : Nat) (x : Mover) : (m.setMover d k x).ses = m.ses := (rfl)
@[simp] theorem Mach.setMover_net (m : Mach) (d k : Nat) (x : Mover) : (m.setMover d k x).net = m.net := (rfl)
@[simp] theorem Mach.setMover_fab (m : Mach) (d k : Nat) (x : Mover) : (m.setMover d k x).fab = m.fab := (rfl)
@[simp] theorem Mach.setMover_slices (m : Mach) (d k : Nat) (x : Mover) : (m.setMover d k x).slices = m.slices := (rfl)
@[simp] theorem Mach.setMover_cfg (m : Mach) (d k : Nat) (x : Mover) : (m.setMover d k x).cfg = m.cfg := (rfl)
@[simp] theorem Mach.setMover_lanes (m : Mach) (d k : Nat) (x : Mover) : (m.setMover d k x).lanes = m.lanes := (rfl)
@[simp] theorem Mach.setMover_ports (m : Mach) (d k : Nat) (x : Mover) : (m.setMover d k x).ports = m.ports := (rfl)
@[simp] theorem Mach.setMover_hl (m : Mach) (d k : Nat) (x : Mover) : (m.setMover d k x).hl = m.hl := (rfl)
@[simp] theorem Mach.setMover_fw (m : Mach) (d k : Nat) (x : Mover) : (m.setMover d k x).fw = m.fw := (rfl)
@[simp] theorem Mach.setMover_ticks (m : Mach) (d k : Nat) (x : Mover) : (m.setMover d k x).ticks = m.ticks := (rfl)
@[simp] theorem Mach.setMover_pow (m : Mach) (d k : Nat) (x : Mover) : (m.setMover d k x).pow = m.pow := (rfl)
@[simp] theorem Mach.setMover_out (m : Mach) (d k : Nat) (x : Mover) : (m.setMover d k x).out = m.out := (rfl)
@[simp] theorem Mach.setMover_free (m : Mach) (d k : Nat) (x : Mover) : (m.setMover d k x).free = m.free := (rfl)
@[simp] theorem Mach.setMover_rd (m : Mach) (d k : Nat) (x : Mover) (f : Fld) (p : Nat) : (m.setMover d k x).rd f p = m.rd f p := (rfl)
@[simp] theorem Mach.setMover_on (m : Mach) (d k : Nat) (x : Mover) (f : Fld) (p : Nat) : (m.setMover d k x).on f p = m.on f p := (rfl)
@[simp] theorem Mach.setMover_byte (m : Mach) (d k : Nat) (x : Mover) (a : Nat) : (m.setMover d k x).byte a = m.byte a := (rfl)
@[simp] theorem Mach.setMover_tile (m : Mach) (d k : Nat) (x : Mover) (t : Nat) : (m.setMover d k x).tile t = m.tile t := (rfl)
@[simp] theorem Mach.setMover_ve (m : Mach) (d k : Nat) (x : Mover) (c : Nat) : (m.setMover d k x).ve c = m.ve c := (rfl)
@[simp] theorem Mach.setMover_arb (m : Mach) (d k : Nat) (x : Mover) (a : ArbId) : (m.setMover d k x).arb a = m.arb a := (rfl)
@[simp] theorem Mach.setMover_sl (m : Mach) (d k : Nat) (x : Mover) (k' : Nat) : (m.setMover d k x).sl k' = m.sl k' := (rfl)
@[simp] theorem Mach.setMover_lane (m : Mach) (d k : Nat) (x : Mover) (n : Nat) : (m.setMover d k x).lane n = m.lane n := (rfl)
@[simp] theorem Mach.setMover_port (m : Mach) (d k : Nat) (x : Mover) (n : Nat) : (m.setMover d k x).port n = m.port n := (rfl)
@[simp] theorem Mach.setMover_se (m : Mach) (d k : Nat) (x : Mover) (d' e : Nat) : (m.setMover d k x).se d' e = m.se d' e := (rfl)
@[simp] theorem Mach.setMover_farCh (m : Mach) (d k : Nat) (x : Mover) (h : Nat) : (m.setMover d k x).farCh h = m.farCh h := (rfl)
@[simp] theorem Mach.setMover_fni (m : Mach) (d k : Nat) (x : Mover) (k' : Nat) : (m.setMover d k x).fni k' = m.fni k' := (rfl)
@[simp] theorem Mach.setMover_proc (m : Mach) (d k : Nat) (x : Mover) (p : Nat) : (m.setMover d k x).proc p = m.proc p := (rfl)

@[simp] theorem Mach.setHolds_fuses (m : Mach) (d : Nat) (l : List XlatHold) : (m.setHolds d l).fuses = m.fuses := (rfl)
@[simp] theorem Mach.setHolds_fields (m : Mach) (d : Nat) (l : List XlatHold) : (m.setHolds d l).fields = m.fields := (rfl)
@[simp] theorem Mach.setHolds_mem (m : Mach) (d : Nat) (l : List XlatHold) : (m.setHolds d l).mem = m.mem := (rfl)
@[simp] theorem Mach.setHolds_bankBad (m : Mach) (d : Nat) (l : List XlatHold) : (m.setHolds d l).bankBad = m.bankBad := (rfl)
@[simp] theorem Mach.setHolds_tiles (m : Mach) (d : Nat) (l : List XlatHold) : (m.setHolds d l).tiles = m.tiles := (rfl)
@[simp] theorem Mach.setHolds_ves (m : Mach) (d : Nat) (l : List XlatHold) : (m.setHolds d l).ves = m.ves := (rfl)
@[simp] theorem Mach.setHolds_arbs (m : Mach) (d : Nat) (l : List XlatHold) : (m.setHolds d l).arbs = m.arbs := (rfl)
@[simp] theorem Mach.setHolds_bankOut (m : Mach) (d : Nat) (l : List XlatHold) : (m.setHolds d l).bankOut = m.bankOut := (rfl)
@[simp] theorem Mach.setHolds_arrayCycle (m : Mach) (d : Nat) (l : List XlatHold) : (m.setHolds d l).arrayCycle = m.arrayCycle := (rfl)
@[simp] theorem Mach.setHolds_nocCycle (m : Mach) (d : Nat) (l : List XlatHold) : (m.setHolds d l).nocCycle = m.nocCycle := (rfl)
@[simp] theorem Mach.setHolds_near (m : Mach) (d : Nat) (l : List XlatHold) : (m.setHolds d l).near = m.near := (rfl)
@[simp] theorem Mach.setHolds_test (m : Mach) (d : Nat) (l : List XlatHold) : (m.setHolds d l).test = m.test := (rfl)
@[simp] theorem Mach.setHolds_far (m : Mach) (d : Nat) (l : List XlatHold) : (m.setHolds d l).far = m.far := (rfl)
@[simp] theorem Mach.setHolds_ses (m : Mach) (d : Nat) (l : List XlatHold) : (m.setHolds d l).ses = m.ses := (rfl)
@[simp] theorem Mach.setHolds_net (m : Mach) (d : Nat) (l : List XlatHold) : (m.setHolds d l).net = m.net := (rfl)
@[simp] theorem Mach.setHolds_fab (m : Mach) (d : Nat) (l : List XlatHold) : (m.setHolds d l).fab = m.fab := (rfl)
@[simp] theorem Mach.setHolds_slices (m : Mach) (d : Nat) (l : List XlatHold) : (m.setHolds d l).slices = m.slices := (rfl)
@[simp] theorem Mach.setHolds_cfg (m : Mach) (d : Nat) (l : List XlatHold) : (m.setHolds d l).cfg = m.cfg := (rfl)
@[simp] theorem Mach.setHolds_lanes (m : Mach) (d : Nat) (l : List XlatHold) : (m.setHolds d l).lanes = m.lanes := (rfl)
@[simp] theorem Mach.setHolds_ports (m : Mach) (d : Nat) (l : List XlatHold) : (m.setHolds d l).ports = m.ports := (rfl)
@[simp] theorem Mach.setHolds_hl (m : Mach) (d : Nat) (l : List XlatHold) : (m.setHolds d l).hl = m.hl := (rfl)
@[simp] theorem Mach.setHolds_fw (m : Mach) (d : Nat) (l : List XlatHold) : (m.setHolds d l).fw = m.fw := (rfl)
@[simp] theorem Mach.setHolds_ticks (m : Mach) (d : Nat) (l : List XlatHold) : (m.setHolds d l).ticks = m.ticks := (rfl)
@[simp] theorem Mach.setHolds_pow (m : Mach) (d : Nat) (l : List XlatHold) : (m.setHolds d l).pow = m.pow := (rfl)
@[simp] theorem Mach.setHolds_out (m : Mach) (d : Nat) (l : List XlatHold) : (m.setHolds d l).out = m.out := (rfl)
@[simp] theorem Mach.setHolds_free (m : Mach) (d : Nat) (l : List XlatHold) : (m.setHolds d l).free = m.free := (rfl)
@[simp] theorem Mach.setHolds_rd (m : Mach) (d : Nat) (l : List XlatHold) (f : Fld) (p : Nat) : (m.setHolds d l).rd f p = m.rd f p := (rfl)
@[simp] theorem Mach.setHolds_on (m : Mach) (d : Nat) (l : List XlatHold) (f : Fld) (p : Nat) : (m.setHolds d l).on f p = m.on f p := (rfl)
@[simp] theorem Mach.setHolds_byte (m : Mach) (d : Nat) (l : List XlatHold) (a : Nat) : (m.setHolds d l).byte a = m.byte a := (rfl)
@[simp] theorem Mach.setHolds_tile (m : Mach) (d : Nat) (l : List XlatHold) (t : Nat) : (m.setHolds d l).tile t = m.tile t := (rfl)
@[simp] theorem Mach.setHolds_ve (m : Mach) (d : Nat) (l : List XlatHold) (c : Nat) : (m.setHolds d l).ve c = m.ve c := (rfl)
@[simp] theorem Mach.setHolds_arb (m : Mach) (d : Nat) (l : List XlatHold) (a : ArbId) : (m.setHolds d l).arb a = m.arb a := (rfl)
@[simp] theorem Mach.setHolds_sl (m : Mach) (d : Nat) (l : List XlatHold) (k : Nat) : (m.setHolds d l).sl k = m.sl k := (rfl)
@[simp] theorem Mach.setHolds_lane (m : Mach) (d : Nat) (l : List XlatHold) (n : Nat) : (m.setHolds d l).lane n = m.lane n := (rfl)
@[simp] theorem Mach.setHolds_port (m : Mach) (d : Nat) (l : List XlatHold) (n : Nat) : (m.setHolds d l).port n = m.port n := (rfl)
@[simp] theorem Mach.setHolds_se (m : Mach) (d : Nat) (l : List XlatHold) (d' e : Nat) : (m.setHolds d l).se d' e = m.se d' e := (rfl)
@[simp] theorem Mach.setHolds_farCh (m : Mach) (d : Nat) (l : List XlatHold) (h : Nat) : (m.setHolds d l).farCh h = m.farCh h := (rfl)
@[simp] theorem Mach.setHolds_fni (m : Mach) (d : Nat) (l : List XlatHold) (k : Nat) : (m.setHolds d l).fni k = m.fni k := (rfl)
@[simp] theorem Mach.setHolds_proc (m : Mach) (d : Nat) (l : List XlatHold) (p : Nat) : (m.setHolds d l).proc p = m.proc p := (rfl)

@[simp] theorem Mach.setIngr_fuses (m : Mach) (k : Nat) (l : List Packet) : (m.setIngr k l).fuses = m.fuses := (rfl)
@[simp] theorem Mach.setIngr_fields (m : Mach) (k : Nat) (l : List Packet) : (m.setIngr k l).fields = m.fields := (rfl)
@[simp] theorem Mach.setIngr_mem (m : Mach) (k : Nat) (l : List Packet) : (m.setIngr k l).mem = m.mem := (rfl)
@[simp] theorem Mach.setIngr_bankBad (m : Mach) (k : Nat) (l : List Packet) : (m.setIngr k l).bankBad = m.bankBad := (rfl)
@[simp] theorem Mach.setIngr_tiles (m : Mach) (k : Nat) (l : List Packet) : (m.setIngr k l).tiles = m.tiles := (rfl)
@[simp] theorem Mach.setIngr_ves (m : Mach) (k : Nat) (l : List Packet) : (m.setIngr k l).ves = m.ves := (rfl)
@[simp] theorem Mach.setIngr_arbs (m : Mach) (k : Nat) (l : List Packet) : (m.setIngr k l).arbs = m.arbs := (rfl)
@[simp] theorem Mach.setIngr_bankOut (m : Mach) (k : Nat) (l : List Packet) : (m.setIngr k l).bankOut = m.bankOut := (rfl)
@[simp] theorem Mach.setIngr_arrayCycle (m : Mach) (k : Nat) (l : List Packet) : (m.setIngr k l).arrayCycle = m.arrayCycle := (rfl)
@[simp] theorem Mach.setIngr_nocCycle (m : Mach) (k : Nat) (l : List Packet) : (m.setIngr k l).nocCycle = m.nocCycle := (rfl)
@[simp] theorem Mach.setIngr_near (m : Mach) (k : Nat) (l : List Packet) : (m.setIngr k l).near = m.near := (rfl)
@[simp] theorem Mach.setIngr_test (m : Mach) (k : Nat) (l : List Packet) : (m.setIngr k l).test = m.test := (rfl)
@[simp] theorem Mach.setIngr_far (m : Mach) (k : Nat) (l : List Packet) : (m.setIngr k l).far = m.far := (rfl)
@[simp] theorem Mach.setIngr_alm (m : Mach) (k : Nat) (l : List Packet) : (m.setIngr k l).alm = m.alm := (rfl)
@[simp] theorem Mach.setIngr_ses (m : Mach) (k : Nat) (l : List Packet) : (m.setIngr k l).ses = m.ses := (rfl)
@[simp] theorem Mach.setIngr_fab (m : Mach) (k : Nat) (l : List Packet) : (m.setIngr k l).fab = m.fab := (rfl)
@[simp] theorem Mach.setIngr_slices (m : Mach) (k : Nat) (l : List Packet) : (m.setIngr k l).slices = m.slices := (rfl)
@[simp] theorem Mach.setIngr_cfg (m : Mach) (k : Nat) (l : List Packet) : (m.setIngr k l).cfg = m.cfg := (rfl)
@[simp] theorem Mach.setIngr_lanes (m : Mach) (k : Nat) (l : List Packet) : (m.setIngr k l).lanes = m.lanes := (rfl)
@[simp] theorem Mach.setIngr_ports (m : Mach) (k : Nat) (l : List Packet) : (m.setIngr k l).ports = m.ports := (rfl)
@[simp] theorem Mach.setIngr_hl (m : Mach) (k : Nat) (l : List Packet) : (m.setIngr k l).hl = m.hl := (rfl)
@[simp] theorem Mach.setIngr_fw (m : Mach) (k : Nat) (l : List Packet) : (m.setIngr k l).fw = m.fw := (rfl)
@[simp] theorem Mach.setIngr_ticks (m : Mach) (k : Nat) (l : List Packet) : (m.setIngr k l).ticks = m.ticks := (rfl)
@[simp] theorem Mach.setIngr_pow (m : Mach) (k : Nat) (l : List Packet) : (m.setIngr k l).pow = m.pow := (rfl)
@[simp] theorem Mach.setIngr_out (m : Mach) (k : Nat) (l : List Packet) : (m.setIngr k l).out = m.out := (rfl)
@[simp] theorem Mach.setIngr_free (m : Mach) (k : Nat) (l : List Packet) : (m.setIngr k l).free = m.free := (rfl)
@[simp] theorem Mach.setIngr_rd (m : Mach) (k : Nat) (l : List Packet) (f : Fld) (p : Nat) : (m.setIngr k l).rd f p = m.rd f p := (rfl)
@[simp] theorem Mach.setIngr_on (m : Mach) (k : Nat) (l : List Packet) (f : Fld) (p : Nat) : (m.setIngr k l).on f p = m.on f p := (rfl)
@[simp] theorem Mach.setIngr_byte (m : Mach) (k : Nat) (l : List Packet) (a : Nat) : (m.setIngr k l).byte a = m.byte a := (rfl)
@[simp] theorem Mach.setIngr_tile (m : Mach) (k : Nat) (l : List Packet) (t : Nat) : (m.setIngr k l).tile t = m.tile t := (rfl)
@[simp] theorem Mach.setIngr_ve (m : Mach) (k : Nat) (l : List Packet) (c : Nat) : (m.setIngr k l).ve c = m.ve c := (rfl)
@[simp] theorem Mach.setIngr_arb (m : Mach) (k : Nat) (l : List Packet) (a : ArbId) : (m.setIngr k l).arb a = m.arb a := (rfl)
@[simp] theorem Mach.setIngr_sl (m : Mach) (k : Nat) (l : List Packet) (k' : Nat) : (m.setIngr k l).sl k' = m.sl k' := (rfl)
@[simp] theorem Mach.setIngr_lane (m : Mach) (k : Nat) (l : List Packet) (n : Nat) : (m.setIngr k l).lane n = m.lane n := (rfl)
@[simp] theorem Mach.setIngr_port (m : Mach) (k : Nat) (l : List Packet) (n : Nat) : (m.setIngr k l).port n = m.port n := (rfl)
@[simp] theorem Mach.setIngr_se (m : Mach) (k : Nat) (l : List Packet) (d e : Nat) : (m.setIngr k l).se d e = m.se d e := (rfl)
@[simp] theorem Mach.setIngr_farCh (m : Mach) (k : Nat) (l : List Packet) (h : Nat) : (m.setIngr k l).farCh h = m.farCh h := (rfl)
@[simp] theorem Mach.setIngr_fni (m : Mach) (k : Nat) (l : List Packet) (k' : Nat) : (m.setIngr k l).fni k' = m.fni k' := (rfl)
@[simp] theorem Mach.setIngr_proc (m : Mach) (k : Nat) (l : List Packet) (p : Nat) : (m.setIngr k l).proc p = m.proc p := (rfl)

@[simp] theorem Mach.setOuts_fuses (m : Mach) (k : Nat) (l : List Pending) : (m.setOuts k l).fuses = m.fuses := (rfl)
@[simp] theorem Mach.setOuts_fields (m : Mach) (k : Nat) (l : List Pending) : (m.setOuts k l).fields = m.fields := (rfl)
@[simp] theorem Mach.setOuts_mem (m : Mach) (k : Nat) (l : List Pending) : (m.setOuts k l).mem = m.mem := (rfl)
@[simp] theorem Mach.setOuts_bankBad (m : Mach) (k : Nat) (l : List Pending) : (m.setOuts k l).bankBad = m.bankBad := (rfl)
@[simp] theorem Mach.setOuts_tiles (m : Mach) (k : Nat) (l : List Pending) : (m.setOuts k l).tiles = m.tiles := (rfl)
@[simp] theorem Mach.setOuts_ves (m : Mach) (k : Nat) (l : List Pending) : (m.setOuts k l).ves = m.ves := (rfl)
@[simp] theorem Mach.setOuts_arbs (m : Mach) (k : Nat) (l : List Pending) : (m.setOuts k l).arbs = m.arbs := (rfl)
@[simp] theorem Mach.setOuts_bankOut (m : Mach) (k : Nat) (l : List Pending) : (m.setOuts k l).bankOut = m.bankOut := (rfl)
@[simp] theorem Mach.setOuts_arrayCycle (m : Mach) (k : Nat) (l : List Pending) : (m.setOuts k l).arrayCycle = m.arrayCycle := (rfl)
@[simp] theorem Mach.setOuts_nocCycle (m : Mach) (k : Nat) (l : List Pending) : (m.setOuts k l).nocCycle = m.nocCycle := (rfl)
@[simp] theorem Mach.setOuts_near (m : Mach) (k : Nat) (l : List Pending) : (m.setOuts k l).near = m.near := (rfl)
@[simp] theorem Mach.setOuts_test (m : Mach) (k : Nat) (l : List Pending) : (m.setOuts k l).test = m.test := (rfl)
@[simp] theorem Mach.setOuts_far (m : Mach) (k : Nat) (l : List Pending) : (m.setOuts k l).far = m.far := (rfl)
@[simp] theorem Mach.setOuts_alm (m : Mach) (k : Nat) (l : List Pending) : (m.setOuts k l).alm = m.alm := (rfl)
@[simp] theorem Mach.setOuts_ses (m : Mach) (k : Nat) (l : List Pending) : (m.setOuts k l).ses = m.ses := (rfl)
@[simp] theorem Mach.setOuts_fab (m : Mach) (k : Nat) (l : List Pending) : (m.setOuts k l).fab = m.fab := (rfl)
@[simp] theorem Mach.setOuts_slices (m : Mach) (k : Nat) (l : List Pending) : (m.setOuts k l).slices = m.slices := (rfl)
@[simp] theorem Mach.setOuts_cfg (m : Mach) (k : Nat) (l : List Pending) : (m.setOuts k l).cfg = m.cfg := (rfl)
@[simp] theorem Mach.setOuts_lanes (m : Mach) (k : Nat) (l : List Pending) : (m.setOuts k l).lanes = m.lanes := (rfl)
@[simp] theorem Mach.setOuts_ports (m : Mach) (k : Nat) (l : List Pending) : (m.setOuts k l).ports = m.ports := (rfl)
@[simp] theorem Mach.setOuts_hl (m : Mach) (k : Nat) (l : List Pending) : (m.setOuts k l).hl = m.hl := (rfl)
@[simp] theorem Mach.setOuts_fw (m : Mach) (k : Nat) (l : List Pending) : (m.setOuts k l).fw = m.fw := (rfl)
@[simp] theorem Mach.setOuts_ticks (m : Mach) (k : Nat) (l : List Pending) : (m.setOuts k l).ticks = m.ticks := (rfl)
@[simp] theorem Mach.setOuts_pow (m : Mach) (k : Nat) (l : List Pending) : (m.setOuts k l).pow = m.pow := (rfl)
@[simp] theorem Mach.setOuts_out (m : Mach) (k : Nat) (l : List Pending) : (m.setOuts k l).out = m.out := (rfl)
@[simp] theorem Mach.setOuts_free (m : Mach) (k : Nat) (l : List Pending) : (m.setOuts k l).free = m.free := (rfl)
@[simp] theorem Mach.setOuts_rd (m : Mach) (k : Nat) (l : List Pending) (f : Fld) (p : Nat) : (m.setOuts k l).rd f p = m.rd f p := (rfl)
@[simp] theorem Mach.setOuts_on (m : Mach) (k : Nat) (l : List Pending) (f : Fld) (p : Nat) : (m.setOuts k l).on f p = m.on f p := (rfl)
@[simp] theorem Mach.setOuts_byte (m : Mach) (k : Nat) (l : List Pending) (a : Nat) : (m.setOuts k l).byte a = m.byte a := (rfl)
@[simp] theorem Mach.setOuts_tile (m : Mach) (k : Nat) (l : List Pending) (t : Nat) : (m.setOuts k l).tile t = m.tile t := (rfl)
@[simp] theorem Mach.setOuts_ve (m : Mach) (k : Nat) (l : List Pending) (c : Nat) : (m.setOuts k l).ve c = m.ve c := (rfl)
@[simp] theorem Mach.setOuts_arb (m : Mach) (k : Nat) (l : List Pending) (a : ArbId) : (m.setOuts k l).arb a = m.arb a := (rfl)
@[simp] theorem Mach.setOuts_sl (m : Mach) (k : Nat) (l : List Pending) (k' : Nat) : (m.setOuts k l).sl k' = m.sl k' := (rfl)
@[simp] theorem Mach.setOuts_lane (m : Mach) (k : Nat) (l : List Pending) (n : Nat) : (m.setOuts k l).lane n = m.lane n := (rfl)
@[simp] theorem Mach.setOuts_port (m : Mach) (k : Nat) (l : List Pending) (n : Nat) : (m.setOuts k l).port n = m.port n := (rfl)
@[simp] theorem Mach.setOuts_se (m : Mach) (k : Nat) (l : List Pending) (d e : Nat) : (m.setOuts k l).se d e = m.se d e := (rfl)
@[simp] theorem Mach.setOuts_farCh (m : Mach) (k : Nat) (l : List Pending) (h : Nat) : (m.setOuts k l).farCh h = m.farCh h := (rfl)
@[simp] theorem Mach.setOuts_fni (m : Mach) (k : Nat) (l : List Pending) (k' : Nat) : (m.setOuts k l).fni k' = m.fni k' := (rfl)
@[simp] theorem Mach.setOuts_proc (m : Mach) (k : Nat) (l : List Pending) (p : Nat) : (m.setOuts k l).proc p = m.proc p := (rfl)

@[simp] theorem Mach.setArrd_fuses (m : Mach) (k : Nat) (l : List Packet) : (m.setArrd k l).fuses = m.fuses := (rfl)
@[simp] theorem Mach.setArrd_fields (m : Mach) (k : Nat) (l : List Packet) : (m.setArrd k l).fields = m.fields := (rfl)
@[simp] theorem Mach.setArrd_mem (m : Mach) (k : Nat) (l : List Packet) : (m.setArrd k l).mem = m.mem := (rfl)
@[simp] theorem Mach.setArrd_bankBad (m : Mach) (k : Nat) (l : List Packet) : (m.setArrd k l).bankBad = m.bankBad := (rfl)
@[simp] theorem Mach.setArrd_tiles (m : Mach) (k : Nat) (l : List Packet) : (m.setArrd k l).tiles = m.tiles := (rfl)
@[simp] theorem Mach.setArrd_ves (m : Mach) (k : Nat) (l : List Packet) : (m.setArrd k l).ves = m.ves := (rfl)
@[simp] theorem Mach.setArrd_arbs (m : Mach) (k : Nat) (l : List Packet) : (m.setArrd k l).arbs = m.arbs := (rfl)
@[simp] theorem Mach.setArrd_bankOut (m : Mach) (k : Nat) (l : List Packet) : (m.setArrd k l).bankOut = m.bankOut := (rfl)
@[simp] theorem Mach.setArrd_arrayCycle (m : Mach) (k : Nat) (l : List Packet) : (m.setArrd k l).arrayCycle = m.arrayCycle := (rfl)
@[simp] theorem Mach.setArrd_nocCycle (m : Mach) (k : Nat) (l : List Packet) : (m.setArrd k l).nocCycle = m.nocCycle := (rfl)
@[simp] theorem Mach.setArrd_near (m : Mach) (k : Nat) (l : List Packet) : (m.setArrd k l).near = m.near := (rfl)
@[simp] theorem Mach.setArrd_test (m : Mach) (k : Nat) (l : List Packet) : (m.setArrd k l).test = m.test := (rfl)
@[simp] theorem Mach.setArrd_far (m : Mach) (k : Nat) (l : List Packet) : (m.setArrd k l).far = m.far := (rfl)
@[simp] theorem Mach.setArrd_alm (m : Mach) (k : Nat) (l : List Packet) : (m.setArrd k l).alm = m.alm := (rfl)
@[simp] theorem Mach.setArrd_ses (m : Mach) (k : Nat) (l : List Packet) : (m.setArrd k l).ses = m.ses := (rfl)
@[simp] theorem Mach.setArrd_fab (m : Mach) (k : Nat) (l : List Packet) : (m.setArrd k l).fab = m.fab := (rfl)
@[simp] theorem Mach.setArrd_slices (m : Mach) (k : Nat) (l : List Packet) : (m.setArrd k l).slices = m.slices := (rfl)
@[simp] theorem Mach.setArrd_cfg (m : Mach) (k : Nat) (l : List Packet) : (m.setArrd k l).cfg = m.cfg := (rfl)
@[simp] theorem Mach.setArrd_lanes (m : Mach) (k : Nat) (l : List Packet) : (m.setArrd k l).lanes = m.lanes := (rfl)
@[simp] theorem Mach.setArrd_ports (m : Mach) (k : Nat) (l : List Packet) : (m.setArrd k l).ports = m.ports := (rfl)
@[simp] theorem Mach.setArrd_hl (m : Mach) (k : Nat) (l : List Packet) : (m.setArrd k l).hl = m.hl := (rfl)
@[simp] theorem Mach.setArrd_fw (m : Mach) (k : Nat) (l : List Packet) : (m.setArrd k l).fw = m.fw := (rfl)
@[simp] theorem Mach.setArrd_ticks (m : Mach) (k : Nat) (l : List Packet) : (m.setArrd k l).ticks = m.ticks := (rfl)
@[simp] theorem Mach.setArrd_pow (m : Mach) (k : Nat) (l : List Packet) : (m.setArrd k l).pow = m.pow := (rfl)
@[simp] theorem Mach.setArrd_out (m : Mach) (k : Nat) (l : List Packet) : (m.setArrd k l).out = m.out := (rfl)
@[simp] theorem Mach.setArrd_free (m : Mach) (k : Nat) (l : List Packet) : (m.setArrd k l).free = m.free := (rfl)
@[simp] theorem Mach.setArrd_rd (m : Mach) (k : Nat) (l : List Packet) (f : Fld) (p : Nat) : (m.setArrd k l).rd f p = m.rd f p := (rfl)
@[simp] theorem Mach.setArrd_on (m : Mach) (k : Nat) (l : List Packet) (f : Fld) (p : Nat) : (m.setArrd k l).on f p = m.on f p := (rfl)
@[simp] theorem Mach.setArrd_byte (m : Mach) (k : Nat) (l : List Packet) (a : Nat) : (m.setArrd k l).byte a = m.byte a := (rfl)
@[simp] theorem Mach.setArrd_tile (m : Mach) (k : Nat) (l : List Packet) (t : Nat) : (m.setArrd k l).tile t = m.tile t := (rfl)
@[simp] theorem Mach.setArrd_ve (m : Mach) (k : Nat) (l : List Packet) (c : Nat) : (m.setArrd k l).ve c = m.ve c := (rfl)
@[simp] theorem Mach.setArrd_arb (m : Mach) (k : Nat) (l : List Packet) (a : ArbId) : (m.setArrd k l).arb a = m.arb a := (rfl)
@[simp] theorem Mach.setArrd_sl (m : Mach) (k : Nat) (l : List Packet) (k' : Nat) : (m.setArrd k l).sl k' = m.sl k' := (rfl)
@[simp] theorem Mach.setArrd_lane (m : Mach) (k : Nat) (l : List Packet) (n : Nat) : (m.setArrd k l).lane n = m.lane n := (rfl)
@[simp] theorem Mach.setArrd_port (m : Mach) (k : Nat) (l : List Packet) (n : Nat) : (m.setArrd k l).port n = m.port n := (rfl)
@[simp] theorem Mach.setArrd_se (m : Mach) (k : Nat) (l : List Packet) (d e : Nat) : (m.setArrd k l).se d e = m.se d e := (rfl)
@[simp] theorem Mach.setArrd_farCh (m : Mach) (k : Nat) (l : List Packet) (h : Nat) : (m.setArrd k l).farCh h = m.farCh h := (rfl)
@[simp] theorem Mach.setArrd_fni (m : Mach) (k : Nat) (l : List Packet) (k' : Nat) : (m.setArrd k l).fni k' = m.fni k' := (rfl)
@[simp] theorem Mach.setArrd_proc (m : Mach) (k : Nat) (l : List Packet) (p : Nat) : (m.setArrd k l).proc p = m.proc p := (rfl)

@[simp] theorem Mach.setFf_fuses (m : Mach) (d r p v : Nat) : (m.setFf d r p v).fuses = m.fuses := (rfl)
@[simp] theorem Mach.setFf_fields (m : Mach) (d r p v : Nat) : (m.setFf d r p v).fields = m.fields := (rfl)
@[simp] theorem Mach.setFf_mem (m : Mach) (d r p v : Nat) : (m.setFf d r p v).mem = m.mem := (rfl)
@[simp] theorem Mach.setFf_bankBad (m : Mach) (d r p v : Nat) : (m.setFf d r p v).bankBad = m.bankBad := (rfl)
@[simp] theorem Mach.setFf_tiles (m : Mach) (d r p v : Nat) : (m.setFf d r p v).tiles = m.tiles := (rfl)
@[simp] theorem Mach.setFf_ves (m : Mach) (d r p v : Nat) : (m.setFf d r p v).ves = m.ves := (rfl)
@[simp] theorem Mach.setFf_arbs (m : Mach) (d r p v : Nat) : (m.setFf d r p v).arbs = m.arbs := (rfl)
@[simp] theorem Mach.setFf_bankOut (m : Mach) (d r p v : Nat) : (m.setFf d r p v).bankOut = m.bankOut := (rfl)
@[simp] theorem Mach.setFf_arrayCycle (m : Mach) (d r p v : Nat) : (m.setFf d r p v).arrayCycle = m.arrayCycle := (rfl)
@[simp] theorem Mach.setFf_nocCycle (m : Mach) (d r p v : Nat) : (m.setFf d r p v).nocCycle = m.nocCycle := (rfl)
@[simp] theorem Mach.setFf_near (m : Mach) (d r p v : Nat) : (m.setFf d r p v).near = m.near := (rfl)
@[simp] theorem Mach.setFf_test (m : Mach) (d r p v : Nat) : (m.setFf d r p v).test = m.test := (rfl)
@[simp] theorem Mach.setFf_far (m : Mach) (d r p v : Nat) : (m.setFf d r p v).far = m.far := (rfl)
@[simp] theorem Mach.setFf_alm (m : Mach) (d r p v : Nat) : (m.setFf d r p v).alm = m.alm := (rfl)
@[simp] theorem Mach.setFf_ses (m : Mach) (d r p v : Nat) : (m.setFf d r p v).ses = m.ses := (rfl)
@[simp] theorem Mach.setFf_net (m : Mach) (d r p v : Nat) : (m.setFf d r p v).net = m.net := (rfl)
@[simp] theorem Mach.setFf_slices (m : Mach) (d r p v : Nat) : (m.setFf d r p v).slices = m.slices := (rfl)
@[simp] theorem Mach.setFf_cfg (m : Mach) (d r p v : Nat) : (m.setFf d r p v).cfg = m.cfg := (rfl)
@[simp] theorem Mach.setFf_lanes (m : Mach) (d r p v : Nat) : (m.setFf d r p v).lanes = m.lanes := (rfl)
@[simp] theorem Mach.setFf_ports (m : Mach) (d r p v : Nat) : (m.setFf d r p v).ports = m.ports := (rfl)
@[simp] theorem Mach.setFf_hl (m : Mach) (d r p v : Nat) : (m.setFf d r p v).hl = m.hl := (rfl)
@[simp] theorem Mach.setFf_fw (m : Mach) (d r p v : Nat) : (m.setFf d r p v).fw = m.fw := (rfl)
@[simp] theorem Mach.setFf_ticks (m : Mach) (d r p v : Nat) : (m.setFf d r p v).ticks = m.ticks := (rfl)
@[simp] theorem Mach.setFf_pow (m : Mach) (d r p v : Nat) : (m.setFf d r p v).pow = m.pow := (rfl)
@[simp] theorem Mach.setFf_out (m : Mach) (d r p v : Nat) : (m.setFf d r p v).out = m.out := (rfl)
@[simp] theorem Mach.setFf_free (m : Mach) (d r p v : Nat) : (m.setFf d r p v).free = m.free := (rfl)
@[simp] theorem Mach.setFf_rd (m : Mach) (d r p v : Nat) (f : Fld) (p' : Nat) : (m.setFf d r p v).rd f p' = m.rd f p' := (rfl)
@[simp] theorem Mach.setFf_on (m : Mach) (d r p v : Nat) (f : Fld) (p' : Nat) : (m.setFf d r p v).on f p' = m.on f p' := (rfl)
@[simp] theorem Mach.setFf_byte (m : Mach) (d r p v : Nat) (a : Nat) : (m.setFf d r p v).byte a = m.byte a := (rfl)
@[simp] theorem Mach.setFf_tile (m : Mach) (d r p v : Nat) (t : Nat) : (m.setFf d r p v).tile t = m.tile t := (rfl)
@[simp] theorem Mach.setFf_ve (m : Mach) (d r p v : Nat) (c : Nat) : (m.setFf d r p v).ve c = m.ve c := (rfl)
@[simp] theorem Mach.setFf_arb (m : Mach) (d r p v : Nat) (a : ArbId) : (m.setFf d r p v).arb a = m.arb a := (rfl)
@[simp] theorem Mach.setFf_sl (m : Mach) (d r p v : Nat) (k : Nat) : (m.setFf d r p v).sl k = m.sl k := (rfl)
@[simp] theorem Mach.setFf_lane (m : Mach) (d r p v : Nat) (n : Nat) : (m.setFf d r p v).lane n = m.lane n := (rfl)
@[simp] theorem Mach.setFf_port (m : Mach) (d r p v : Nat) (n : Nat) : (m.setFf d r p v).port n = m.port n := (rfl)
@[simp] theorem Mach.setFf_se (m : Mach) (d r p v : Nat) (d' e : Nat) : (m.setFf d r p v).se d' e = m.se d' e := (rfl)
@[simp] theorem Mach.setFf_farCh (m : Mach) (d r p v : Nat) (h : Nat) : (m.setFf d r p v).farCh h = m.farCh h := (rfl)
@[simp] theorem Mach.setFf_proc (m : Mach) (d r p v : Nat) (p' : Nat) : (m.setFf d r p v).proc p' = m.proc p' := (rfl)

@[simp] theorem Mach.setPmem_fuses (m : Mach) (d r p w v : Nat) : (m.setPmem d r p w v).fuses = m.fuses := (rfl)
@[simp] theorem Mach.setPmem_fields (m : Mach) (d r p w v : Nat) : (m.setPmem d r p w v).fields = m.fields := (rfl)
@[simp] theorem Mach.setPmem_mem (m : Mach) (d r p w v : Nat) : (m.setPmem d r p w v).mem = m.mem := (rfl)
@[simp] theorem Mach.setPmem_bankBad (m : Mach) (d r p w v : Nat) : (m.setPmem d r p w v).bankBad = m.bankBad := (rfl)
@[simp] theorem Mach.setPmem_tiles (m : Mach) (d r p w v : Nat) : (m.setPmem d r p w v).tiles = m.tiles := (rfl)
@[simp] theorem Mach.setPmem_ves (m : Mach) (d r p w v : Nat) : (m.setPmem d r p w v).ves = m.ves := (rfl)
@[simp] theorem Mach.setPmem_arbs (m : Mach) (d r p w v : Nat) : (m.setPmem d r p w v).arbs = m.arbs := (rfl)
@[simp] theorem Mach.setPmem_bankOut (m : Mach) (d r p w v : Nat) : (m.setPmem d r p w v).bankOut = m.bankOut := (rfl)
@[simp] theorem Mach.setPmem_arrayCycle (m : Mach) (d r p w v : Nat) : (m.setPmem d r p w v).arrayCycle = m.arrayCycle := (rfl)
@[simp] theorem Mach.setPmem_nocCycle (m : Mach) (d r p w v : Nat) : (m.setPmem d r p w v).nocCycle = m.nocCycle := (rfl)
@[simp] theorem Mach.setPmem_near (m : Mach) (d r p w v : Nat) : (m.setPmem d r p w v).near = m.near := (rfl)
@[simp] theorem Mach.setPmem_test (m : Mach) (d r p w v : Nat) : (m.setPmem d r p w v).test = m.test := (rfl)
@[simp] theorem Mach.setPmem_far (m : Mach) (d r p w v : Nat) : (m.setPmem d r p w v).far = m.far := (rfl)
@[simp] theorem Mach.setPmem_alm (m : Mach) (d r p w v : Nat) : (m.setPmem d r p w v).alm = m.alm := (rfl)
@[simp] theorem Mach.setPmem_ses (m : Mach) (d r p w v : Nat) : (m.setPmem d r p w v).ses = m.ses := (rfl)
@[simp] theorem Mach.setPmem_net (m : Mach) (d r p w v : Nat) : (m.setPmem d r p w v).net = m.net := (rfl)
@[simp] theorem Mach.setPmem_slices (m : Mach) (d r p w v : Nat) : (m.setPmem d r p w v).slices = m.slices := (rfl)
@[simp] theorem Mach.setPmem_cfg (m : Mach) (d r p w v : Nat) : (m.setPmem d r p w v).cfg = m.cfg := (rfl)
@[simp] theorem Mach.setPmem_lanes (m : Mach) (d r p w v : Nat) : (m.setPmem d r p w v).lanes = m.lanes := (rfl)
@[simp] theorem Mach.setPmem_ports (m : Mach) (d r p w v : Nat) : (m.setPmem d r p w v).ports = m.ports := (rfl)
@[simp] theorem Mach.setPmem_hl (m : Mach) (d r p w v : Nat) : (m.setPmem d r p w v).hl = m.hl := (rfl)
@[simp] theorem Mach.setPmem_fw (m : Mach) (d r p w v : Nat) : (m.setPmem d r p w v).fw = m.fw := (rfl)
@[simp] theorem Mach.setPmem_ticks (m : Mach) (d r p w v : Nat) : (m.setPmem d r p w v).ticks = m.ticks := (rfl)
@[simp] theorem Mach.setPmem_pow (m : Mach) (d r p w v : Nat) : (m.setPmem d r p w v).pow = m.pow := (rfl)
@[simp] theorem Mach.setPmem_out (m : Mach) (d r p w v : Nat) : (m.setPmem d r p w v).out = m.out := (rfl)
@[simp] theorem Mach.setPmem_free (m : Mach) (d r p w v : Nat) : (m.setPmem d r p w v).free = m.free := (rfl)
@[simp] theorem Mach.setPmem_rd (m : Mach) (d r p w v : Nat) (f : Fld) (p' : Nat) : (m.setPmem d r p w v).rd f p' = m.rd f p' := (rfl)
@[simp] theorem Mach.setPmem_on (m : Mach) (d r p w v : Nat) (f : Fld) (p' : Nat) : (m.setPmem d r p w v).on f p' = m.on f p' := (rfl)
@[simp] theorem Mach.setPmem_byte (m : Mach) (d r p w v : Nat) (a : Nat) : (m.setPmem d r p w v).byte a = m.byte a := (rfl)
@[simp] theorem Mach.setPmem_tile (m : Mach) (d r p w v : Nat) (t : Nat) : (m.setPmem d r p w v).tile t = m.tile t := (rfl)
@[simp] theorem Mach.setPmem_ve (m : Mach) (d r p w v : Nat) (c : Nat) : (m.setPmem d r p w v).ve c = m.ve c := (rfl)
@[simp] theorem Mach.setPmem_arb (m : Mach) (d r p w v : Nat) (a : ArbId) : (m.setPmem d r p w v).arb a = m.arb a := (rfl)
@[simp] theorem Mach.setPmem_sl (m : Mach) (d r p w v : Nat) (k : Nat) : (m.setPmem d r p w v).sl k = m.sl k := (rfl)
@[simp] theorem Mach.setPmem_lane (m : Mach) (d r p w v : Nat) (n : Nat) : (m.setPmem d r p w v).lane n = m.lane n := (rfl)
@[simp] theorem Mach.setPmem_port (m : Mach) (d r p w v : Nat) (n : Nat) : (m.setPmem d r p w v).port n = m.port n := (rfl)
@[simp] theorem Mach.setPmem_se (m : Mach) (d r p w v : Nat) (d' e : Nat) : (m.setPmem d r p w v).se d' e = m.se d' e := (rfl)
@[simp] theorem Mach.setPmem_farCh (m : Mach) (d r p w v : Nat) (h : Nat) : (m.setPmem d r p w v).farCh h = m.farCh h := (rfl)
@[simp] theorem Mach.setPmem_proc (m : Mach) (d r p w v : Nat) (p' : Nat) : (m.setPmem d r p w v).proc p' = m.proc p' := (rfl)

@[simp] theorem Mach.setRamByte_fuses (m : Mach) (d r b i v : Nat) : (m.setRamByte d r b i v).fuses = m.fuses := (rfl)
@[simp] theorem Mach.setRamByte_fields (m : Mach) (d r b i v : Nat) : (m.setRamByte d r b i v).fields = m.fields := (rfl)
@[simp] theorem Mach.setRamByte_mem (m : Mach) (d r b i v : Nat) : (m.setRamByte d r b i v).mem = m.mem := (rfl)
@[simp] theorem Mach.setRamByte_bankBad (m : Mach) (d r b i v : Nat) : (m.setRamByte d r b i v).bankBad = m.bankBad := (rfl)
@[simp] theorem Mach.setRamByte_tiles (m : Mach) (d r b i v : Nat) : (m.setRamByte d r b i v).tiles = m.tiles := (rfl)
@[simp] theorem Mach.setRamByte_ves (m : Mach) (d r b i v : Nat) : (m.setRamByte d r b i v).ves = m.ves := (rfl)
@[simp] theorem Mach.setRamByte_arbs (m : Mach) (d r b i v : Nat) : (m.setRamByte d r b i v).arbs = m.arbs := (rfl)
@[simp] theorem Mach.setRamByte_bankOut (m : Mach) (d r b i v : Nat) : (m.setRamByte d r b i v).bankOut = m.bankOut := (rfl)
@[simp] theorem Mach.setRamByte_arrayCycle (m : Mach) (d r b i v : Nat) : (m.setRamByte d r b i v).arrayCycle = m.arrayCycle := (rfl)
@[simp] theorem Mach.setRamByte_nocCycle (m : Mach) (d r b i v : Nat) : (m.setRamByte d r b i v).nocCycle = m.nocCycle := (rfl)
@[simp] theorem Mach.setRamByte_near (m : Mach) (d r b i v : Nat) : (m.setRamByte d r b i v).near = m.near := (rfl)
@[simp] theorem Mach.setRamByte_test (m : Mach) (d r b i v : Nat) : (m.setRamByte d r b i v).test = m.test := (rfl)
@[simp] theorem Mach.setRamByte_far (m : Mach) (d r b i v : Nat) : (m.setRamByte d r b i v).far = m.far := (rfl)
@[simp] theorem Mach.setRamByte_alm (m : Mach) (d r b i v : Nat) : (m.setRamByte d r b i v).alm = m.alm := (rfl)
@[simp] theorem Mach.setRamByte_ses (m : Mach) (d r b i v : Nat) : (m.setRamByte d r b i v).ses = m.ses := (rfl)
@[simp] theorem Mach.setRamByte_net (m : Mach) (d r b i v : Nat) : (m.setRamByte d r b i v).net = m.net := (rfl)
@[simp] theorem Mach.setRamByte_slices (m : Mach) (d r b i v : Nat) : (m.setRamByte d r b i v).slices = m.slices := (rfl)
@[simp] theorem Mach.setRamByte_cfg (m : Mach) (d r b i v : Nat) : (m.setRamByte d r b i v).cfg = m.cfg := (rfl)
@[simp] theorem Mach.setRamByte_lanes (m : Mach) (d r b i v : Nat) : (m.setRamByte d r b i v).lanes = m.lanes := (rfl)
@[simp] theorem Mach.setRamByte_ports (m : Mach) (d r b i v : Nat) : (m.setRamByte d r b i v).ports = m.ports := (rfl)
@[simp] theorem Mach.setRamByte_hl (m : Mach) (d r b i v : Nat) : (m.setRamByte d r b i v).hl = m.hl := (rfl)
@[simp] theorem Mach.setRamByte_fw (m : Mach) (d r b i v : Nat) : (m.setRamByte d r b i v).fw = m.fw := (rfl)
@[simp] theorem Mach.setRamByte_ticks (m : Mach) (d r b i v : Nat) : (m.setRamByte d r b i v).ticks = m.ticks := (rfl)
@[simp] theorem Mach.setRamByte_pow (m : Mach) (d r b i v : Nat) : (m.setRamByte d r b i v).pow = m.pow := (rfl)
@[simp] theorem Mach.setRamByte_out (m : Mach) (d r b i v : Nat) : (m.setRamByte d r b i v).out = m.out := (rfl)
@[simp] theorem Mach.setRamByte_free (m : Mach) (d r b i v : Nat) : (m.setRamByte d r b i v).free = m.free := (rfl)
@[simp] theorem Mach.setRamByte_rd (m : Mach) (d r b i v : Nat) (f : Fld) (p : Nat) : (m.setRamByte d r b i v).rd f p = m.rd f p := (rfl)
@[simp] theorem Mach.setRamByte_on (m : Mach) (d r b i v : Nat) (f : Fld) (p : Nat) : (m.setRamByte d r b i v).on f p = m.on f p := (rfl)
@[simp] theorem Mach.setRamByte_byte (m : Mach) (d r b i v : Nat) (a : Nat) : (m.setRamByte d r b i v).byte a = m.byte a := (rfl)
@[simp] theorem Mach.setRamByte_tile (m : Mach) (d r b i v : Nat) (t : Nat) : (m.setRamByte d r b i v).tile t = m.tile t := (rfl)
@[simp] theorem Mach.setRamByte_ve (m : Mach) (d r b i v : Nat) (c : Nat) : (m.setRamByte d r b i v).ve c = m.ve c := (rfl)
@[simp] theorem Mach.setRamByte_arb (m : Mach) (d r b i v : Nat) (a : ArbId) : (m.setRamByte d r b i v).arb a = m.arb a := (rfl)
@[simp] theorem Mach.setRamByte_sl (m : Mach) (d r b i v : Nat) (k : Nat) : (m.setRamByte d r b i v).sl k = m.sl k := (rfl)
@[simp] theorem Mach.setRamByte_lane (m : Mach) (d r b i v : Nat) (n : Nat) : (m.setRamByte d r b i v).lane n = m.lane n := (rfl)
@[simp] theorem Mach.setRamByte_port (m : Mach) (d r b i v : Nat) (n : Nat) : (m.setRamByte d r b i v).port n = m.port n := (rfl)
@[simp] theorem Mach.setRamByte_se (m : Mach) (d r b i v : Nat) (d' e : Nat) : (m.setRamByte d r b i v).se d' e = m.se d' e := (rfl)
@[simp] theorem Mach.setRamByte_farCh (m : Mach) (d r b i v : Nat) (h : Nat) : (m.setRamByte d r b i v).farCh h = m.farCh h := (rfl)
@[simp] theorem Mach.setRamByte_proc (m : Mach) (d r b i v : Nat) (p : Nat) : (m.setRamByte d r b i v).proc p = m.proc p := (rfl)

@[simp] theorem Mach.setRgnStep_fuses (m : Mach) (d r n : Nat) : (m.setRgnStep d r n).fuses = m.fuses := (rfl)
@[simp] theorem Mach.setRgnStep_fields (m : Mach) (d r n : Nat) : (m.setRgnStep d r n).fields = m.fields := (rfl)
@[simp] theorem Mach.setRgnStep_mem (m : Mach) (d r n : Nat) : (m.setRgnStep d r n).mem = m.mem := (rfl)
@[simp] theorem Mach.setRgnStep_bankBad (m : Mach) (d r n : Nat) : (m.setRgnStep d r n).bankBad = m.bankBad := (rfl)
@[simp] theorem Mach.setRgnStep_tiles (m : Mach) (d r n : Nat) : (m.setRgnStep d r n).tiles = m.tiles := (rfl)
@[simp] theorem Mach.setRgnStep_ves (m : Mach) (d r n : Nat) : (m.setRgnStep d r n).ves = m.ves := (rfl)
@[simp] theorem Mach.setRgnStep_arbs (m : Mach) (d r n : Nat) : (m.setRgnStep d r n).arbs = m.arbs := (rfl)
@[simp] theorem Mach.setRgnStep_bankOut (m : Mach) (d r n : Nat) : (m.setRgnStep d r n).bankOut = m.bankOut := (rfl)
@[simp] theorem Mach.setRgnStep_arrayCycle (m : Mach) (d r n : Nat) : (m.setRgnStep d r n).arrayCycle = m.arrayCycle := (rfl)
@[simp] theorem Mach.setRgnStep_nocCycle (m : Mach) (d r n : Nat) : (m.setRgnStep d r n).nocCycle = m.nocCycle := (rfl)
@[simp] theorem Mach.setRgnStep_near (m : Mach) (d r n : Nat) : (m.setRgnStep d r n).near = m.near := (rfl)
@[simp] theorem Mach.setRgnStep_test (m : Mach) (d r n : Nat) : (m.setRgnStep d r n).test = m.test := (rfl)
@[simp] theorem Mach.setRgnStep_far (m : Mach) (d r n : Nat) : (m.setRgnStep d r n).far = m.far := (rfl)
@[simp] theorem Mach.setRgnStep_alm (m : Mach) (d r n : Nat) : (m.setRgnStep d r n).alm = m.alm := (rfl)
@[simp] theorem Mach.setRgnStep_ses (m : Mach) (d r n : Nat) : (m.setRgnStep d r n).ses = m.ses := (rfl)
@[simp] theorem Mach.setRgnStep_net (m : Mach) (d r n : Nat) : (m.setRgnStep d r n).net = m.net := (rfl)
@[simp] theorem Mach.setRgnStep_slices (m : Mach) (d r n : Nat) : (m.setRgnStep d r n).slices = m.slices := (rfl)
@[simp] theorem Mach.setRgnStep_cfg (m : Mach) (d r n : Nat) : (m.setRgnStep d r n).cfg = m.cfg := (rfl)
@[simp] theorem Mach.setRgnStep_lanes (m : Mach) (d r n : Nat) : (m.setRgnStep d r n).lanes = m.lanes := (rfl)
@[simp] theorem Mach.setRgnStep_ports (m : Mach) (d r n : Nat) : (m.setRgnStep d r n).ports = m.ports := (rfl)
@[simp] theorem Mach.setRgnStep_hl (m : Mach) (d r n : Nat) : (m.setRgnStep d r n).hl = m.hl := (rfl)
@[simp] theorem Mach.setRgnStep_fw (m : Mach) (d r n : Nat) : (m.setRgnStep d r n).fw = m.fw := (rfl)
@[simp] theorem Mach.setRgnStep_ticks (m : Mach) (d r n : Nat) : (m.setRgnStep d r n).ticks = m.ticks := (rfl)
@[simp] theorem Mach.setRgnStep_pow (m : Mach) (d r n : Nat) : (m.setRgnStep d r n).pow = m.pow := (rfl)
@[simp] theorem Mach.setRgnStep_out (m : Mach) (d r n : Nat) : (m.setRgnStep d r n).out = m.out := (rfl)
@[simp] theorem Mach.setRgnStep_free (m : Mach) (d r n : Nat) : (m.setRgnStep d r n).free = m.free := (rfl)
@[simp] theorem Mach.setRgnStep_rd (m : Mach) (d r n : Nat) (f : Fld) (p : Nat) : (m.setRgnStep d r n).rd f p = m.rd f p := (rfl)
@[simp] theorem Mach.setRgnStep_on (m : Mach) (d r n : Nat) (f : Fld) (p : Nat) : (m.setRgnStep d r n).on f p = m.on f p := (rfl)
@[simp] theorem Mach.setRgnStep_byte (m : Mach) (d r n : Nat) (a : Nat) : (m.setRgnStep d r n).byte a = m.byte a := (rfl)
@[simp] theorem Mach.setRgnStep_tile (m : Mach) (d r n : Nat) (t : Nat) : (m.setRgnStep d r n).tile t = m.tile t := (rfl)
@[simp] theorem Mach.setRgnStep_ve (m : Mach) (d r n : Nat) (c : Nat) : (m.setRgnStep d r n).ve c = m.ve c := (rfl)
@[simp] theorem Mach.setRgnStep_arb (m : Mach) (d r n : Nat) (a : ArbId) : (m.setRgnStep d r n).arb a = m.arb a := (rfl)
@[simp] theorem Mach.setRgnStep_sl (m : Mach) (d r n : Nat) (k : Nat) : (m.setRgnStep d r n).sl k = m.sl k := (rfl)
@[simp] theorem Mach.setRgnStep_lane (m : Mach) (d r n : Nat) (n' : Nat) : (m.setRgnStep d r n).lane n' = m.lane n' := (rfl)
@[simp] theorem Mach.setRgnStep_port (m : Mach) (d r n : Nat) (n' : Nat) : (m.setRgnStep d r n).port n' = m.port n' := (rfl)
@[simp] theorem Mach.setRgnStep_se (m : Mach) (d r n : Nat) (d' e : Nat) : (m.setRgnStep d r n).se d' e = m.se d' e := (rfl)
@[simp] theorem Mach.setRgnStep_farCh (m : Mach) (d r n : Nat) (h : Nat) : (m.setRgnStep d r n).farCh h = m.farCh h := (rfl)
@[simp] theorem Mach.setRgnStep_proc (m : Mach) (d r n : Nat) (p : Nat) : (m.setRgnStep d r n).proc p = m.proc p := (rfl)

@[simp] theorem Mach.setNiq_fuses (m : Mach) (k : Nat) (l : List Packet) : (m.setNiq k l).fuses = m.fuses := (rfl)
@[simp] theorem Mach.setNiq_fields (m : Mach) (k : Nat) (l : List Packet) : (m.setNiq k l).fields = m.fields := (rfl)
@[simp] theorem Mach.setNiq_mem (m : Mach) (k : Nat) (l : List Packet) : (m.setNiq k l).mem = m.mem := (rfl)
@[simp] theorem Mach.setNiq_bankBad (m : Mach) (k : Nat) (l : List Packet) : (m.setNiq k l).bankBad = m.bankBad := (rfl)
@[simp] theorem Mach.setNiq_tiles (m : Mach) (k : Nat) (l : List Packet) : (m.setNiq k l).tiles = m.tiles := (rfl)
@[simp] theorem Mach.setNiq_ves (m : Mach) (k : Nat) (l : List Packet) : (m.setNiq k l).ves = m.ves := (rfl)
@[simp] theorem Mach.setNiq_arbs (m : Mach) (k : Nat) (l : List Packet) : (m.setNiq k l).arbs = m.arbs := (rfl)
@[simp] theorem Mach.setNiq_bankOut (m : Mach) (k : Nat) (l : List Packet) : (m.setNiq k l).bankOut = m.bankOut := (rfl)
@[simp] theorem Mach.setNiq_arrayCycle (m : Mach) (k : Nat) (l : List Packet) : (m.setNiq k l).arrayCycle = m.arrayCycle := (rfl)
@[simp] theorem Mach.setNiq_nocCycle (m : Mach) (k : Nat) (l : List Packet) : (m.setNiq k l).nocCycle = m.nocCycle := (rfl)
@[simp] theorem Mach.setNiq_near (m : Mach) (k : Nat) (l : List Packet) : (m.setNiq k l).near = m.near := (rfl)
@[simp] theorem Mach.setNiq_test (m : Mach) (k : Nat) (l : List Packet) : (m.setNiq k l).test = m.test := (rfl)
@[simp] theorem Mach.setNiq_far (m : Mach) (k : Nat) (l : List Packet) : (m.setNiq k l).far = m.far := (rfl)
@[simp] theorem Mach.setNiq_alm (m : Mach) (k : Nat) (l : List Packet) : (m.setNiq k l).alm = m.alm := (rfl)
@[simp] theorem Mach.setNiq_ses (m : Mach) (k : Nat) (l : List Packet) : (m.setNiq k l).ses = m.ses := (rfl)
@[simp] theorem Mach.setNiq_fab (m : Mach) (k : Nat) (l : List Packet) : (m.setNiq k l).fab = m.fab := (rfl)
@[simp] theorem Mach.setNiq_slices (m : Mach) (k : Nat) (l : List Packet) : (m.setNiq k l).slices = m.slices := (rfl)
@[simp] theorem Mach.setNiq_cfg (m : Mach) (k : Nat) (l : List Packet) : (m.setNiq k l).cfg = m.cfg := (rfl)
@[simp] theorem Mach.setNiq_lanes (m : Mach) (k : Nat) (l : List Packet) : (m.setNiq k l).lanes = m.lanes := (rfl)
@[simp] theorem Mach.setNiq_ports (m : Mach) (k : Nat) (l : List Packet) : (m.setNiq k l).ports = m.ports := (rfl)
@[simp] theorem Mach.setNiq_hl (m : Mach) (k : Nat) (l : List Packet) : (m.setNiq k l).hl = m.hl := (rfl)
@[simp] theorem Mach.setNiq_fw (m : Mach) (k : Nat) (l : List Packet) : (m.setNiq k l).fw = m.fw := (rfl)
@[simp] theorem Mach.setNiq_ticks (m : Mach) (k : Nat) (l : List Packet) : (m.setNiq k l).ticks = m.ticks := (rfl)
@[simp] theorem Mach.setNiq_pow (m : Mach) (k : Nat) (l : List Packet) : (m.setNiq k l).pow = m.pow := (rfl)
@[simp] theorem Mach.setNiq_out (m : Mach) (k : Nat) (l : List Packet) : (m.setNiq k l).out = m.out := (rfl)
@[simp] theorem Mach.setNiq_free (m : Mach) (k : Nat) (l : List Packet) : (m.setNiq k l).free = m.free := (rfl)
@[simp] theorem Mach.setNiq_rd (m : Mach) (k : Nat) (l : List Packet) (f : Fld) (p : Nat) : (m.setNiq k l).rd f p = m.rd f p := (rfl)
@[simp] theorem Mach.setNiq_on (m : Mach) (k : Nat) (l : List Packet) (f : Fld) (p : Nat) : (m.setNiq k l).on f p = m.on f p := (rfl)
@[simp] theorem Mach.setNiq_byte (m : Mach) (k : Nat) (l : List Packet) (a : Nat) : (m.setNiq k l).byte a = m.byte a := (rfl)
@[simp] theorem Mach.setNiq_tile (m : Mach) (k : Nat) (l : List Packet) (t : Nat) : (m.setNiq k l).tile t = m.tile t := (rfl)
@[simp] theorem Mach.setNiq_ve (m : Mach) (k : Nat) (l : List Packet) (c : Nat) : (m.setNiq k l).ve c = m.ve c := (rfl)
@[simp] theorem Mach.setNiq_arb (m : Mach) (k : Nat) (l : List Packet) (a : ArbId) : (m.setNiq k l).arb a = m.arb a := (rfl)
@[simp] theorem Mach.setNiq_sl (m : Mach) (k : Nat) (l : List Packet) (k' : Nat) : (m.setNiq k l).sl k' = m.sl k' := (rfl)
@[simp] theorem Mach.setNiq_lane (m : Mach) (k : Nat) (l : List Packet) (n : Nat) : (m.setNiq k l).lane n = m.lane n := (rfl)
@[simp] theorem Mach.setNiq_port (m : Mach) (k : Nat) (l : List Packet) (n : Nat) : (m.setNiq k l).port n = m.port n := (rfl)
@[simp] theorem Mach.setNiq_se (m : Mach) (k : Nat) (l : List Packet) (d e : Nat) : (m.setNiq k l).se d e = m.se d e := (rfl)
@[simp] theorem Mach.setNiq_farCh (m : Mach) (k : Nat) (l : List Packet) (h : Nat) : (m.setNiq k l).farCh h = m.farCh h := (rfl)
@[simp] theorem Mach.setNiq_fni (m : Mach) (k : Nat) (l : List Packet) (k' : Nat) : (m.setNiq k l).fni k' = m.fni k' := (rfl)
@[simp] theorem Mach.setNiq_proc (m : Mach) (k : Nat) (l : List Packet) (p : Nat) : (m.setNiq k l).proc p = m.proc p := (rfl)

@[simp] theorem Mach.setClkLow_fuses (m : Mach) (d r k : Nat) (v : Bool) : (m.setClkLow d r k v).fuses = m.fuses := (rfl)
@[simp] theorem Mach.setClkLow_fields (m : Mach) (d r k : Nat) (v : Bool) : (m.setClkLow d r k v).fields = m.fields := (rfl)
@[simp] theorem Mach.setClkLow_mem (m : Mach) (d r k : Nat) (v : Bool) : (m.setClkLow d r k v).mem = m.mem := (rfl)
@[simp] theorem Mach.setClkLow_bankBad (m : Mach) (d r k : Nat) (v : Bool) : (m.setClkLow d r k v).bankBad = m.bankBad := (rfl)
@[simp] theorem Mach.setClkLow_tiles (m : Mach) (d r k : Nat) (v : Bool) : (m.setClkLow d r k v).tiles = m.tiles := (rfl)
@[simp] theorem Mach.setClkLow_ves (m : Mach) (d r k : Nat) (v : Bool) : (m.setClkLow d r k v).ves = m.ves := (rfl)
@[simp] theorem Mach.setClkLow_arbs (m : Mach) (d r k : Nat) (v : Bool) : (m.setClkLow d r k v).arbs = m.arbs := (rfl)
@[simp] theorem Mach.setClkLow_bankOut (m : Mach) (d r k : Nat) (v : Bool) : (m.setClkLow d r k v).bankOut = m.bankOut := (rfl)
@[simp] theorem Mach.setClkLow_arrayCycle (m : Mach) (d r k : Nat) (v : Bool) : (m.setClkLow d r k v).arrayCycle = m.arrayCycle := (rfl)
@[simp] theorem Mach.setClkLow_nocCycle (m : Mach) (d r k : Nat) (v : Bool) : (m.setClkLow d r k v).nocCycle = m.nocCycle := (rfl)
@[simp] theorem Mach.setClkLow_near (m : Mach) (d r k : Nat) (v : Bool) : (m.setClkLow d r k v).near = m.near := (rfl)
@[simp] theorem Mach.setClkLow_test (m : Mach) (d r k : Nat) (v : Bool) : (m.setClkLow d r k v).test = m.test := (rfl)
@[simp] theorem Mach.setClkLow_far (m : Mach) (d r k : Nat) (v : Bool) : (m.setClkLow d r k v).far = m.far := (rfl)
@[simp] theorem Mach.setClkLow_alm (m : Mach) (d r k : Nat) (v : Bool) : (m.setClkLow d r k v).alm = m.alm := (rfl)
@[simp] theorem Mach.setClkLow_ses (m : Mach) (d r k : Nat) (v : Bool) : (m.setClkLow d r k v).ses = m.ses := (rfl)
@[simp] theorem Mach.setClkLow_net (m : Mach) (d r k : Nat) (v : Bool) : (m.setClkLow d r k v).net = m.net := (rfl)
@[simp] theorem Mach.setClkLow_slices (m : Mach) (d r k : Nat) (v : Bool) : (m.setClkLow d r k v).slices = m.slices := (rfl)
@[simp] theorem Mach.setClkLow_cfg (m : Mach) (d r k : Nat) (v : Bool) : (m.setClkLow d r k v).cfg = m.cfg := (rfl)
@[simp] theorem Mach.setClkLow_lanes (m : Mach) (d r k : Nat) (v : Bool) : (m.setClkLow d r k v).lanes = m.lanes := (rfl)
@[simp] theorem Mach.setClkLow_ports (m : Mach) (d r k : Nat) (v : Bool) : (m.setClkLow d r k v).ports = m.ports := (rfl)
@[simp] theorem Mach.setClkLow_hl (m : Mach) (d r k : Nat) (v : Bool) : (m.setClkLow d r k v).hl = m.hl := (rfl)
@[simp] theorem Mach.setClkLow_fw (m : Mach) (d r k : Nat) (v : Bool) : (m.setClkLow d r k v).fw = m.fw := (rfl)
@[simp] theorem Mach.setClkLow_ticks (m : Mach) (d r k : Nat) (v : Bool) : (m.setClkLow d r k v).ticks = m.ticks := (rfl)
@[simp] theorem Mach.setClkLow_pow (m : Mach) (d r k : Nat) (v : Bool) : (m.setClkLow d r k v).pow = m.pow := (rfl)
@[simp] theorem Mach.setClkLow_out (m : Mach) (d r k : Nat) (v : Bool) : (m.setClkLow d r k v).out = m.out := (rfl)
@[simp] theorem Mach.setClkLow_free (m : Mach) (d r k : Nat) (v : Bool) : (m.setClkLow d r k v).free = m.free := (rfl)
@[simp] theorem Mach.setClkLow_rd (m : Mach) (d r k : Nat) (v : Bool) (f : Fld) (p : Nat) : (m.setClkLow d r k v).rd f p = m.rd f p := (rfl)
@[simp] theorem Mach.setClkLow_on (m : Mach) (d r k : Nat) (v : Bool) (f : Fld) (p : Nat) : (m.setClkLow d r k v).on f p = m.on f p := (rfl)
@[simp] theorem Mach.setClkLow_byte (m : Mach) (d r k : Nat) (v : Bool) (a : Nat) : (m.setClkLow d r k v).byte a = m.byte a := (rfl)
@[simp] theorem Mach.setClkLow_tile (m : Mach) (d r k : Nat) (v : Bool) (t : Nat) : (m.setClkLow d r k v).tile t = m.tile t := (rfl)
@[simp] theorem Mach.setClkLow_ve (m : Mach) (d r k : Nat) (v : Bool) (c : Nat) : (m.setClkLow d r k v).ve c = m.ve c := (rfl)
@[simp] theorem Mach.setClkLow_arb (m : Mach) (d r k : Nat) (v : Bool) (a : ArbId) : (m.setClkLow d r k v).arb a = m.arb a := (rfl)
@[simp] theorem Mach.setClkLow_sl (m : Mach) (d r k : Nat) (v : Bool) (k' : Nat) : (m.setClkLow d r k v).sl k' = m.sl k' := (rfl)
@[simp] theorem Mach.setClkLow_lane (m : Mach) (d r k : Nat) (v : Bool) (n : Nat) : (m.setClkLow d r k v).lane n = m.lane n := (rfl)
@[simp] theorem Mach.setClkLow_port (m : Mach) (d r k : Nat) (v : Bool) (n : Nat) : (m.setClkLow d r k v).port n = m.port n := (rfl)
@[simp] theorem Mach.setClkLow_se (m : Mach) (d r k : Nat) (v : Bool) (d' e : Nat) : (m.setClkLow d r k v).se d' e = m.se d' e := (rfl)
@[simp] theorem Mach.setClkLow_farCh (m : Mach) (d r k : Nat) (v : Bool) (h : Nat) : (m.setClkLow d r k v).farCh h = m.farCh h := (rfl)
@[simp] theorem Mach.setClkLow_proc (m : Mach) (d r k : Nat) (v : Bool) (p : Nat) : (m.setClkLow d r k v).proc p = m.proc p := (rfl)

@[simp] theorem Mach.setClkDiv_fuses (m : Mach) (d r k v : Nat) : (m.setClkDiv d r k v).fuses = m.fuses := (rfl)
@[simp] theorem Mach.setClkDiv_fields (m : Mach) (d r k v : Nat) : (m.setClkDiv d r k v).fields = m.fields := (rfl)
@[simp] theorem Mach.setClkDiv_mem (m : Mach) (d r k v : Nat) : (m.setClkDiv d r k v).mem = m.mem := (rfl)
@[simp] theorem Mach.setClkDiv_bankBad (m : Mach) (d r k v : Nat) : (m.setClkDiv d r k v).bankBad = m.bankBad := (rfl)
@[simp] theorem Mach.setClkDiv_tiles (m : Mach) (d r k v : Nat) : (m.setClkDiv d r k v).tiles = m.tiles := (rfl)
@[simp] theorem Mach.setClkDiv_ves (m : Mach) (d r k v : Nat) : (m.setClkDiv d r k v).ves = m.ves := (rfl)
@[simp] theorem Mach.setClkDiv_arbs (m : Mach) (d r k v : Nat) : (m.setClkDiv d r k v).arbs = m.arbs := (rfl)
@[simp] theorem Mach.setClkDiv_bankOut (m : Mach) (d r k v : Nat) : (m.setClkDiv d r k v).bankOut = m.bankOut := (rfl)
@[simp] theorem Mach.setClkDiv_arrayCycle (m : Mach) (d r k v : Nat) : (m.setClkDiv d r k v).arrayCycle = m.arrayCycle := (rfl)
@[simp] theorem Mach.setClkDiv_nocCycle (m : Mach) (d r k v : Nat) : (m.setClkDiv d r k v).nocCycle = m.nocCycle := (rfl)
@[simp] theorem Mach.setClkDiv_near (m : Mach) (d r k v : Nat) : (m.setClkDiv d r k v).near = m.near := (rfl)
@[simp] theorem Mach.setClkDiv_test (m : Mach) (d r k v : Nat) : (m.setClkDiv d r k v).test = m.test := (rfl)
@[simp] theorem Mach.setClkDiv_far (m : Mach) (d r k v : Nat) : (m.setClkDiv d r k v).far = m.far := (rfl)
@[simp] theorem Mach.setClkDiv_alm (m : Mach) (d r k v : Nat) : (m.setClkDiv d r k v).alm = m.alm := (rfl)
@[simp] theorem Mach.setClkDiv_ses (m : Mach) (d r k v : Nat) : (m.setClkDiv d r k v).ses = m.ses := (rfl)
@[simp] theorem Mach.setClkDiv_net (m : Mach) (d r k v : Nat) : (m.setClkDiv d r k v).net = m.net := (rfl)
@[simp] theorem Mach.setClkDiv_slices (m : Mach) (d r k v : Nat) : (m.setClkDiv d r k v).slices = m.slices := (rfl)
@[simp] theorem Mach.setClkDiv_cfg (m : Mach) (d r k v : Nat) : (m.setClkDiv d r k v).cfg = m.cfg := (rfl)
@[simp] theorem Mach.setClkDiv_lanes (m : Mach) (d r k v : Nat) : (m.setClkDiv d r k v).lanes = m.lanes := (rfl)
@[simp] theorem Mach.setClkDiv_ports (m : Mach) (d r k v : Nat) : (m.setClkDiv d r k v).ports = m.ports := (rfl)
@[simp] theorem Mach.setClkDiv_hl (m : Mach) (d r k v : Nat) : (m.setClkDiv d r k v).hl = m.hl := (rfl)
@[simp] theorem Mach.setClkDiv_fw (m : Mach) (d r k v : Nat) : (m.setClkDiv d r k v).fw = m.fw := (rfl)
@[simp] theorem Mach.setClkDiv_ticks (m : Mach) (d r k v : Nat) : (m.setClkDiv d r k v).ticks = m.ticks := (rfl)
@[simp] theorem Mach.setClkDiv_pow (m : Mach) (d r k v : Nat) : (m.setClkDiv d r k v).pow = m.pow := (rfl)
@[simp] theorem Mach.setClkDiv_out (m : Mach) (d r k v : Nat) : (m.setClkDiv d r k v).out = m.out := (rfl)
@[simp] theorem Mach.setClkDiv_free (m : Mach) (d r k v : Nat) : (m.setClkDiv d r k v).free = m.free := (rfl)
@[simp] theorem Mach.setClkDiv_rd (m : Mach) (d r k v : Nat) (f : Fld) (p : Nat) : (m.setClkDiv d r k v).rd f p = m.rd f p := (rfl)
@[simp] theorem Mach.setClkDiv_on (m : Mach) (d r k v : Nat) (f : Fld) (p : Nat) : (m.setClkDiv d r k v).on f p = m.on f p := (rfl)
@[simp] theorem Mach.setClkDiv_byte (m : Mach) (d r k v : Nat) (a : Nat) : (m.setClkDiv d r k v).byte a = m.byte a := (rfl)
@[simp] theorem Mach.setClkDiv_tile (m : Mach) (d r k v : Nat) (t : Nat) : (m.setClkDiv d r k v).tile t = m.tile t := (rfl)
@[simp] theorem Mach.setClkDiv_ve (m : Mach) (d r k v : Nat) (c : Nat) : (m.setClkDiv d r k v).ve c = m.ve c := (rfl)
@[simp] theorem Mach.setClkDiv_arb (m : Mach) (d r k v : Nat) (a : ArbId) : (m.setClkDiv d r k v).arb a = m.arb a := (rfl)
@[simp] theorem Mach.setClkDiv_sl (m : Mach) (d r k v : Nat) (k' : Nat) : (m.setClkDiv d r k v).sl k' = m.sl k' := (rfl)
@[simp] theorem Mach.setClkDiv_lane (m : Mach) (d r k v : Nat) (n : Nat) : (m.setClkDiv d r k v).lane n = m.lane n := (rfl)
@[simp] theorem Mach.setClkDiv_port (m : Mach) (d r k v : Nat) (n : Nat) : (m.setClkDiv d r k v).port n = m.port n := (rfl)
@[simp] theorem Mach.setClkDiv_se (m : Mach) (d r k v : Nat) (d' e : Nat) : (m.setClkDiv d r k v).se d' e = m.se d' e := (rfl)
@[simp] theorem Mach.setClkDiv_farCh (m : Mach) (d r k v : Nat) (h : Nat) : (m.setClkDiv d r k v).farCh h = m.farCh h := (rfl)
@[simp] theorem Mach.setClkDiv_proc (m : Mach) (d r k v : Nat) (p : Nat) : (m.setClkDiv d r k v).proc p = m.proc p := (rfl)

@[simp] theorem Mach.setIoPin_fuses (m : Mach) (i : Nat) (x : IoPin) : (m.setIoPin i x).fuses = m.fuses := (rfl)
@[simp] theorem Mach.setIoPin_fields (m : Mach) (i : Nat) (x : IoPin) : (m.setIoPin i x).fields = m.fields := (rfl)
@[simp] theorem Mach.setIoPin_mem (m : Mach) (i : Nat) (x : IoPin) : (m.setIoPin i x).mem = m.mem := (rfl)
@[simp] theorem Mach.setIoPin_bankBad (m : Mach) (i : Nat) (x : IoPin) : (m.setIoPin i x).bankBad = m.bankBad := (rfl)
@[simp] theorem Mach.setIoPin_tiles (m : Mach) (i : Nat) (x : IoPin) : (m.setIoPin i x).tiles = m.tiles := (rfl)
@[simp] theorem Mach.setIoPin_ves (m : Mach) (i : Nat) (x : IoPin) : (m.setIoPin i x).ves = m.ves := (rfl)
@[simp] theorem Mach.setIoPin_arbs (m : Mach) (i : Nat) (x : IoPin) : (m.setIoPin i x).arbs = m.arbs := (rfl)
@[simp] theorem Mach.setIoPin_bankOut (m : Mach) (i : Nat) (x : IoPin) : (m.setIoPin i x).bankOut = m.bankOut := (rfl)
@[simp] theorem Mach.setIoPin_arrayCycle (m : Mach) (i : Nat) (x : IoPin) : (m.setIoPin i x).arrayCycle = m.arrayCycle := (rfl)
@[simp] theorem Mach.setIoPin_nocCycle (m : Mach) (i : Nat) (x : IoPin) : (m.setIoPin i x).nocCycle = m.nocCycle := (rfl)
@[simp] theorem Mach.setIoPin_near (m : Mach) (i : Nat) (x : IoPin) : (m.setIoPin i x).near = m.near := (rfl)
@[simp] theorem Mach.setIoPin_test (m : Mach) (i : Nat) (x : IoPin) : (m.setIoPin i x).test = m.test := (rfl)
@[simp] theorem Mach.setIoPin_far (m : Mach) (i : Nat) (x : IoPin) : (m.setIoPin i x).far = m.far := (rfl)
@[simp] theorem Mach.setIoPin_alm (m : Mach) (i : Nat) (x : IoPin) : (m.setIoPin i x).alm = m.alm := (rfl)
@[simp] theorem Mach.setIoPin_ses (m : Mach) (i : Nat) (x : IoPin) : (m.setIoPin i x).ses = m.ses := (rfl)
@[simp] theorem Mach.setIoPin_net (m : Mach) (i : Nat) (x : IoPin) : (m.setIoPin i x).net = m.net := (rfl)
@[simp] theorem Mach.setIoPin_slices (m : Mach) (i : Nat) (x : IoPin) : (m.setIoPin i x).slices = m.slices := (rfl)
@[simp] theorem Mach.setIoPin_cfg (m : Mach) (i : Nat) (x : IoPin) : (m.setIoPin i x).cfg = m.cfg := (rfl)
@[simp] theorem Mach.setIoPin_lanes (m : Mach) (i : Nat) (x : IoPin) : (m.setIoPin i x).lanes = m.lanes := (rfl)
@[simp] theorem Mach.setIoPin_ports (m : Mach) (i : Nat) (x : IoPin) : (m.setIoPin i x).ports = m.ports := (rfl)
@[simp] theorem Mach.setIoPin_hl (m : Mach) (i : Nat) (x : IoPin) : (m.setIoPin i x).hl = m.hl := (rfl)
@[simp] theorem Mach.setIoPin_fw (m : Mach) (i : Nat) (x : IoPin) : (m.setIoPin i x).fw = m.fw := (rfl)
@[simp] theorem Mach.setIoPin_ticks (m : Mach) (i : Nat) (x : IoPin) : (m.setIoPin i x).ticks = m.ticks := (rfl)
@[simp] theorem Mach.setIoPin_pow (m : Mach) (i : Nat) (x : IoPin) : (m.setIoPin i x).pow = m.pow := (rfl)
@[simp] theorem Mach.setIoPin_out (m : Mach) (i : Nat) (x : IoPin) : (m.setIoPin i x).out = m.out := (rfl)
@[simp] theorem Mach.setIoPin_free (m : Mach) (i : Nat) (x : IoPin) : (m.setIoPin i x).free = m.free := (rfl)
@[simp] theorem Mach.setIoPin_rd (m : Mach) (i : Nat) (x : IoPin) (f : Fld) (p : Nat) : (m.setIoPin i x).rd f p = m.rd f p := (rfl)
@[simp] theorem Mach.setIoPin_on (m : Mach) (i : Nat) (x : IoPin) (f : Fld) (p : Nat) : (m.setIoPin i x).on f p = m.on f p := (rfl)
@[simp] theorem Mach.setIoPin_byte (m : Mach) (i : Nat) (x : IoPin) (a : Nat) : (m.setIoPin i x).byte a = m.byte a := (rfl)
@[simp] theorem Mach.setIoPin_tile (m : Mach) (i : Nat) (x : IoPin) (t : Nat) : (m.setIoPin i x).tile t = m.tile t := (rfl)
@[simp] theorem Mach.setIoPin_ve (m : Mach) (i : Nat) (x : IoPin) (c : Nat) : (m.setIoPin i x).ve c = m.ve c := (rfl)
@[simp] theorem Mach.setIoPin_arb (m : Mach) (i : Nat) (x : IoPin) (a : ArbId) : (m.setIoPin i x).arb a = m.arb a := (rfl)
@[simp] theorem Mach.setIoPin_sl (m : Mach) (i : Nat) (x : IoPin) (k : Nat) : (m.setIoPin i x).sl k = m.sl k := (rfl)
@[simp] theorem Mach.setIoPin_lane (m : Mach) (i : Nat) (x : IoPin) (n : Nat) : (m.setIoPin i x).lane n = m.lane n := (rfl)
@[simp] theorem Mach.setIoPin_port (m : Mach) (i : Nat) (x : IoPin) (n : Nat) : (m.setIoPin i x).port n = m.port n := (rfl)
@[simp] theorem Mach.setIoPin_se (m : Mach) (i : Nat) (x : IoPin) (d e : Nat) : (m.setIoPin i x).se d e = m.se d e := (rfl)
@[simp] theorem Mach.setIoPin_farCh (m : Mach) (i : Nat) (x : IoPin) (h : Nat) : (m.setIoPin i x).farCh h = m.farCh h := (rfl)
@[simp] theorem Mach.setIoPin_proc (m : Mach) (i : Nat) (x : IoPin) (p : Nat) : (m.setIoPin i x).proc p = m.proc p := (rfl)

/-! Reading back -/

@[simp] theorem Mach.farCh_setFar (m : Mach) (h : Nat) (x : FarCh) : (m.setFar h x).farCh h = x := by simp [Mach.farCh, Mach.setFar, FarSt.get]
@[simp] theorem Mach.proc_setProc (m : Mach) (p : Nat) (x : Proc) : (m.setProc p x).proc p = x := by simp [Mach.proc, Mach.setProc]
@[simp] theorem Mach.bankQ_setBankQ (m : Mach) (b : Nat) (q : Bool) (l : List BankAcc) : (m.setBankQ b q l).bankQ b q = l := by simp [Mach.bankQ, Mach.setBankQ]
@[simp] theorem Mach.march_setMarch (m : Mach) (c : Nat) (r : March) : (m.setMarch c r).march c = r := by simp [Mach.march, Mach.setMarch]
@[simp] theorem Mach.mover_setMover (m : Mach) (d k : Nat) (x : Mover) : (m.setMover d k x).mover d k = x := by simp [Mach.mover, Mach.setMover]
@[simp] theorem Mach.holdsOf_setHolds (m : Mach) (d : Nat) (l : List XlatHold) : (m.setHolds d l).holdsOf d = l := by simp [Mach.holdsOf, Mach.setHolds]
@[simp] theorem Mach.niq_setNiq (m : Mach) (k : Nat) (l : List Packet) : (m.setNiq k l).niq k = l := by simp [Mach.niq, Mach.setNiq]
@[simp] theorem Mach.ioPin_setIoPin (m : Mach) (i : Nat) (x : IoPin) : (m.setIoPin i x).ioPin i = x := by simp [Mach.ioPin, Mach.setIoPin]
@[simp] theorem Mach.nq_setNq (m : Mach) (k : Nat) (l : List Packet) : (m.setNq k l).nq k = l := by simp [Mach.nq, Mach.setNq]
@[simp] theorem Mach.ingr_setIngr (m : Mach) (k : Nat) (l : List Packet) : (m.setIngr k l).ingr k = l := by simp [Mach.ingr, Mach.setIngr]
@[simp] theorem Mach.outs_setOuts (m : Mach) (k : Nat) (l : List Pending) : (m.setOuts k l).outs k = l := by simp [Mach.outs, Mach.setOuts]
@[simp] theorem Mach.arrd_setArrd (m : Mach) (k : Nat) (l : List Packet) : (m.setArrd k l).arrd k = l := by simp [Mach.arrd, Mach.setArrd]
@[simp] theorem Mach.tracer_setTracer (m : Mach) (d : Nat) (x : Tracer) : (m.setTracer d x).tracer d = x := by simp [Mach.tracer, Mach.setTracer]
@[simp] theorem Mach.rgnStep_setRgnStep (m : Mach) (d r n : Nat) : (m.setRgnStep d r n).rgnStep d r = n := by simp [Mach.rgnStep, Mach.setRgnStep]

@[simp] theorem Mach.rd_ev (m : Mach) (f : Fld) (p : Nat) : (m.ev f p).rd f p = 1 % 2 ^ f.width := by simp [Mach.ev]
@[simp] theorem Mach.rd_cnt (m : Mach) (f : Fld) (p n : Nat) : (m.cnt f p n).rd f p = satAdd32 (m.rd f p) n % 2 ^ f.width := by simp [Mach.cnt]
@[simp] theorem Mach.rd_wrap (m : Mach) (f : Fld) (p n : Nat) : (m.wrap f p n).rd f p = (m.rd f p + n) % 2 ^ f.width := by simp [Mach.wrap]
@[simp] theorem Mach.rd_orIn (m : Mach) (f : Fld) (p v : Nat) : (m.orIn f p v).rd f p = (m.rd f p ||| v) % 2 ^ f.width := by simp [Mach.orIn]
theorem Mach.rd_ev_ne (m : Mach) (f g : Fld) (p : Nat) (h : g.id ≠ f.id) : (m.ev f p).rd g p = m.rd g p := m.rd_wr_ne f g p 1 h
theorem Mach.rd_cnt_ne (m : Mach) (f g : Fld) (p n : Nat) (h : g.id ≠ f.id) : (m.cnt f p n).rd g p = m.rd g p := m.rd_wr_ne f g p _ h
theorem Mach.rd_wrap_ne (m : Mach) (f g : Fld) (p n : Nat) (h : g.id ≠ f.id) : (m.wrap f p n).rd g p = m.rd g p := m.rd_wr_ne f g p _ h
theorem Mach.rd_orIn_ne (m : Mach) (f g : Fld) (p v : Nat) (h : g.id ≠ f.id) : (m.orIn f p v).rd g p = m.rd g p := m.rd_wr_ne f g p _ h

/-- A one-bit field that was set or cleared, and that another write left. -/
@[simp] theorem Mach.on_wr (m : Mach) (f : Fld) (p v : Nat) : (m.wr f p v).on f p = (v % 2 ^ f.width != 0) := by simp [Mach.on]
theorem Mach.on_wr_ne (m : Mach) (f g : Fld) (p v : Nat) (h : g.id ≠ f.id) : (m.wr f p v).on g p = m.on g p := by simp [Mach.on, m.rd_wr_ne f g p v h]
theorem Mach.on_ev_ne (m : Mach) (f g : Fld) (p : Nat) (h : g.id ≠ f.id) : (m.ev f p).on g p = m.on g p := m.on_wr_ne f g p 1 h
theorem Mach.on_cnt_ne (m : Mach) (f g : Fld) (p n : Nat) (h : g.id ≠ f.id) : (m.cnt f p n).on g p = m.on g p := m.on_wr_ne f g p _ h

end Sys2Proof.Machine
end

