-- ==== Sys2Proof/Laws/Frames.lean ====
section
/-! SUPPORT. What each operation leaves as it was: for every operation over the machine, that memory and the fuses are unchanged where it cannot change
them. The lemmas stand in the order of use, so that each proof cites those before it. -/

set_option linter.unusedTactic false
set_option linter.unreachableTactic false

namespace Sys2Proof.Machine

theorem foldl_keeps {σ : Type} {α : Type} {β : Type} (g : σ → β) (f : σ → α → σ) (l : List α) (s : σ) (h : ∀ s x, g (f s x) = g s) : g (l.foldl f s) = g s := by
  induction l generalizing s with
  | nil => rfl
  | cons a l ih => exact (ih _).trans (h _ _)
@[simp] theorem foldl_mem {α : Type} (f : Mach → α → Mach) (l : List α) (s : Mach) (h : ∀ s x, (f s x).mem = s.mem) :
    (l.foldl f s).mem = s.mem := foldl_keeps (fun s => s.mem) f l s h
@[simp] theorem foldl_fuses {α : Type} (f : Mach → α → Mach) (l : List α) (s : Mach) (h : ∀ s x, (f s x).fuses = s.fuses) :
    (l.foldl f s).fuses = s.fuses := foldl_keeps (fun s => s.fuses) f l s h
@[simp] theorem foldlFst_mem {α : Type} {γ : Type} (f : Mach × γ → α → Mach × γ) (l : List α) (s : Mach × γ) (h : ∀ s x, (f s x).1.mem = s.1.mem) :
    (l.foldl f s).1.mem = s.1.mem := foldl_keeps (fun s => s.1.mem) f l s h
@[simp] theorem foldlFst_fuses {α : Type} {γ : Type} (f : Mach × γ → α → Mach × γ) (l : List α) (s : Mach × γ) (h : ∀ s x, (f s x).1.fuses = s.1.fuses) :
    (l.foldl f s).1.fuses = s.1.fuses := foldl_keeps (fun s => s.1.fuses) f l s h
@[simp] theorem foldlSnd_mem {α : Type} {γ : Type} (f : γ × Mach → α → γ × Mach) (l : List α) (s : γ × Mach) (h : ∀ s x, (f s x).2.mem = s.2.mem) :
    (l.foldl f s).2.mem = s.2.mem := foldl_keeps (fun s => s.2.mem) f l s h
@[simp] theorem foldlSnd_fuses {α : Type} {γ : Type} (f : γ × Mach → α → γ × Mach) (l : List α) (s : γ × Mach) (h : ∀ s x, (f s x).2.fuses = s.2.fuses) :
    (l.foldl f s).2.fuses = s.2.fuses := foldl_keeps (fun s => s.2.fuses) f l s h
@[simp] theorem ite_mem (c : Prop) [Decidable c] (a b : Mach) : (if c then a else b).mem = if c then a.mem else b.mem := apply_ite Mach.mem c a b
@[simp] theorem ite_fuses (c : Prop) [Decidable c] (a b : Mach) : (if c then a else b).fuses = if c then a.fuses else b.fuses := apply_ite Mach.fuses c a b

@[simp] theorem Mach.permit_frame (m : Mach) (ok : Bool) (who : Nat) (f : Mach → Mach) (h : (f m).mem = m.mem ∧ (f m).fuses = m.fuses) :
    (m.permit ok who f).mem = m.mem ∧ (m.permit ok who f).fuses = m.fuses := by
  unfold Mach.permit
  split <;> simp [h]
@[simp] theorem Mach.slOp_frame (m : Mach) (k slot code : Nat) (f : SlIssued → Mach → Mach)
    (h : ∀ b m, (f b m).mem = m.mem ∧ (f b m).fuses = m.fuses) : (m.slOp k slot code f).mem = m.mem ∧ (m.slOp k slot code f).fuses = m.fuses := by
  unfold Mach.slOp
  split
  · exact ⟨rfl, rfl⟩
  · split
    · simp [h, Mach.setSl]
    · exact ⟨rfl, rfl⟩
@[simp] theorem Mach.waited_frame (m : Mach) (a : ArbId) (i : Nat) : (Mach.waited m a i).mem = m.mem ∧ (Mach.waited m a i).fuses = m.fuses := by
  unfold Mach.waited
  refine ⟨?_, ?_⟩ <;> (repeat' (first | rfl | (simp; done) | split))
@[simp] theorem Mach.grant_frame (m : Mach) (a : ArbId) (r : ArbReq) : (Mach.grant m a r).mem = m.mem ∧ (Mach.grant m a r).fuses = m.fuses := by
  unfold Mach.grant
  refine ⟨?_, ?_⟩ <;> (repeat' (first | rfl | (simp; done) | split))
@[simp] theorem Mach.bankRefuse_frame (m : Mach) (b : Nat) (w : BankWho) : (Mach.bankRefuse m b w).mem = m.mem ∧ (Mach.bankRefuse m b w).fuses = m.fuses := ⟨rfl, rfl⟩
@[simp] theorem Mach.refuse_frame (m : Mach) (a : ArbId) (status : Nat) (r : ArbReq) : (Mach.refuse m a status r).mem = m.mem ∧ (Mach.refuse m a status r).fuses = m.fuses := by
  unfold Mach.refuse
  refine ⟨?_, ?_⟩ <;> (repeat' (first | rfl | (simp; done) | split))
@[simp] theorem Mach.turnAway_frame (m : Mach) (a : ArbId) (r : ArbReq) : (Mach.turnAway m a r).mem = m.mem ∧ (Mach.turnAway m a r).fuses = m.fuses := by
  unfold Mach.turnAway
  refine ⟨?_, ?_⟩ <;> (repeat' (first | rfl | (simp; done) | split))
@[simp] theorem opArbiterGrant_frame (a : ArbId) (reqs : List ArbReq) (m : Mach) : (opArbiterGrant a reqs m).mem = m.mem ∧ (opArbiterGrant a reqs m).fuses = m.fuses := by
  unfold opArbiterGrant
  refine ⟨?_, ?_⟩ <;> (repeat' (first | rfl | (simp; done) | split | intro _ | rw [foldl_mem] | rw [foldl_fuses] | rw [foldlFst_mem] | rw [foldlFst_fuses] | rw [foldlSnd_mem] | rw [foldlSnd_fuses] | (simp only []; split) | simp))
@[simp] theorem opBackoffExpiry_frame (a : ArbId) (i : Nat) (m : Mach) : (opBackoffExpiry a i m).mem = m.mem ∧ (opBackoffExpiry a i m).fuses = m.fuses := ⟨rfl, rfl⟩
@[simp] theorem Mach.dropXfer_frame (m : Mach) (a : ArbId) (h : Holder) : (Mach.dropXfer m a h).mem = m.mem ∧ (Mach.dropXfer m a h).fuses = m.fuses := by
  unfold Mach.dropXfer
  refine ⟨?_, ?_⟩ <;> (repeat' (first | rfl | (simp; done) | split))
@[simp] theorem Mach.cutOff_frame (m : Mach) (a : ArbId) : (Mach.cutOff m a).mem = m.mem ∧ (Mach.cutOff m a).fuses = m.fuses := by
  unfold Mach.cutOff
  refine ⟨?_, ?_⟩ <;> (repeat' (first | rfl | (simp; done) | split | (simp only []; split) | simp))
@[simp] theorem Mach.marchTouched_frame (m : Mach) (b : Nat) : (Mach.marchTouched m b).mem = m.mem ∧ (Mach.marchTouched m b).fuses = m.fuses := by
  simp [Mach.marchTouched]
@[simp] theorem opEmergencyHold_frame (a : ArbId) (take : Bool) (m : Mach) : (opEmergencyHold a take m).mem = m.mem ∧ (opEmergencyHold a take m).fuses = m.fuses := by
  unfold opEmergencyHold
  refine ⟨?_, ?_⟩ <;> (repeat' (first | rfl | (simp; done) | split))
@[simp] theorem Mach.mask_frame (m : Mach) (a : ArbId) (i : Nat) (on_ : Bool) : (Mach.mask m a i on_).mem = m.mem ∧ (Mach.mask m a i on_).fuses = m.fuses := by
  unfold Mach.mask
  refine ⟨?_, ?_⟩ <;> (repeat' (first | rfl | (simp; done) | split | (simp only []; split) | simp))
@[simp] theorem Mach.release_frame (m : Mach) (a : ArbId) (i : Nat) : (Mach.release m a i).mem = m.mem ∧ (Mach.release m a i).fuses = m.fuses := by
  unfold Mach.release
  refine ⟨?_, ?_⟩ <;> (repeat' (first | rfl | (simp; done) | split | (simp only []; split) | simp))
@[simp] theorem Mach.parityFail_frame (m : Mach) (b : Nat) (a : Nat) (lane : Nat) : (Mach.parityFail m b a lane).mem = m.mem ∧ (Mach.parityFail m b a lane).fuses = m.fuses := by
  simp [Mach.parityFail]
@[simp] theorem Mach.readWord_frame (m : Mach) (b : Nat) (a : Nat) : (Mach.readWord m b a).2.2.mem = m.mem ∧ (Mach.readWord m b a).2.2.fuses = m.fuses := by
  unfold Mach.readWord
  split <;> simp
@[simp] theorem Mach.readBeat_frame (m : Mach) (b : Nat) (id : Nat) (word : Nat) (v4 : Nat) (v5 : List Byte) (v6 : Bool) : (Mach.readBeat m b id word v4 v5 v6).mem = m.mem ∧ (Mach.readBeat m b id word v4 v5 v6).fuses = m.fuses := by
  induction v4 generalizing m word v5 v6 with
  | zero => simp [Mach.readBeat]
  | succ k ih => simp [Mach.readBeat, ih]
@[simp] theorem Mach.freshLanes_frame (m : Mach) (a : Nat) (en : List Bool) (v3 : List Nat) : (Mach.freshLanes m a en v3).mem = m.mem ∧ (Mach.freshLanes m a en v3).fuses = m.fuses := by
  fun_induction Mach.freshLanes <;> simp_all
@[simp] theorem Mach.putByte_frame (m : Mach) (a : Nat) (b : Byte) : (Mach.putByte m a b).fuses = m.fuses := rfl
@[simp] theorem Mach.putEn_frame (m : Mach) (a : Nat) (v2 : List Byte) (v3 : List Bool) : (Mach.putEn m a v2 v3).fuses = m.fuses := by
  fun_induction Mach.putEn <;> simp_all
@[simp] theorem Mach.writeWord_frame (m : Mach) (b : Nat) (a : Nat) (data : List Byte) (en : List Bool) : (Mach.writeWord m b a data en).fuses = m.fuses := by
  unfold Mach.writeWord
  (repeat' (first | rfl | (simp; done) | split | (simp only []; split) | simp))
@[simp] theorem Mach.writeBeat_frame (m : Mach) (b : Nat) (word : Nat) (data : List Byte) (en : List Bool) (v5 : Nat) : (Mach.writeBeat m b word data en v5).fuses = m.fuses := by
  fun_induction Mach.writeBeat <;> simp_all
@[simp] theorem Mach.atomic_frame (m : Mach) (b : Nat) (q : BankAcc) : (Mach.atomic m b q).fuses = m.fuses := by
  unfold Mach.atomic
  (repeat' (first | rfl | (simp; done) | split))
@[simp] theorem Mach.beatDone_frame (m : Mach) (b : Nat) (portB : Bool) (x : Beat) : (Mach.beatDone m b portB x).mem = m.mem ∧ (Mach.beatDone m b portB x).fuses = m.fuses := by
  simp [Mach.beatDone]
@[simp] theorem Mach.doRead_frame (m : Mach) (b : Nat) (x : Beat) : (Mach.doRead m b x).mem = m.mem ∧ (Mach.doRead m b x).fuses = m.fuses := by
  simp [Mach.doRead]
@[simp] theorem Mach.doWrite_frame (m : Mach) (b : Nat) (x : Beat) : (Mach.doWrite m b x).fuses = m.fuses := by
  unfold Mach.doWrite
  (repeat' (first | rfl | (simp; done) | split))
@[simp] theorem Mach.bankCycle_frame (m : Mach) (b : Nat) (xa : Option Beat) (xb : Option Beat) : (Mach.bankCycle m b xa xb).fuses = m.fuses := by
  unfold Mach.bankCycle
  (repeat' (first | rfl | (simp; done) | split))
@[simp] theorem Mach.upsetLanes_frame (m : Mach) (c : Nat) (v2 : List Nat) : (Mach.upsetLanes m c v2).mem = m.mem ∧ (Mach.upsetLanes m c v2).fuses = m.fuses := by
  fun_induction Mach.upsetLanes <;> simp_all
@[simp] theorem Mach.bankOp_frame (m : Mach) (b : Nat) (portB : Bool) (pair : Bool) (same : Bool) (upset : List Nat) (kind : BankOp → Bool) : (Mach.bankOp m b portB pair same upset kind).fuses = m.fuses := by
  unfold Mach.bankOp
  (repeat' (first | rfl | (simp; done) | (simp_all; done) | split | (simp only []; split) | (dsimp only; split)))
@[simp] theorem opBankRead_frame (b : Nat) (portB : Bool) (pair : Bool) (same : Bool) (u : List Nat) (m : Mach) : (opBankRead b portB pair same u m).fuses = m.fuses := by
  simp [opBankRead]
@[simp] theorem opBankWrite_frame (b : Nat) (portB : Bool) (pair : Bool) (same : Bool) (u : List Nat) (m : Mach) : (opBankWrite b portB pair same u m).fuses = m.fuses := by
  simp [opBankWrite]
@[simp] theorem Mach.lateWrite_frame (m : Mach) (b : Nat) (y : Beat) (x : Option Beat) : (Mach.lateWrite m b y x).fuses = m.fuses := by
  unfold Mach.lateWrite
  (repeat' (first | rfl | (simp; done) | split))
@[simp] theorem Mach.earlyBeat_frame (m : Mach) (b : Nat) (x : Option Beat) : (Mach.earlyBeat m b x).mem = m.mem ∧ (Mach.earlyBeat m b x).fuses = m.fuses := by
  unfold Mach.earlyBeat
  refine ⟨?_, ?_⟩ <;> (repeat' (first | rfl | (simp; done) | split))
@[simp] theorem Mach.atomicOp_frame (m : Mach) (b : Nat) (inR : Bool) (inW : Bool) (upset : List Nat) (kind : BankOp → Bool) : (Mach.atomicOp m b inR inW upset kind).fuses = m.fuses := by
  unfold Mach.atomicOp
  (repeat' (first | rfl | (simp; done) | split))
@[simp] theorem opAtomicAdd_frame (b : Nat) (inR : Bool) (inW : Bool) (u : List Nat) (m : Mach) : (opAtomicAdd b inR inW u m).fuses = m.fuses := by
  simp [opAtomicAdd]
@[simp] theorem opAtomicSwap_frame (b : Nat) (inR : Bool) (inW : Bool) (u : List Nat) (m : Mach) : (opAtomicSwap b inR inW u m).fuses = m.fuses := by
  simp [opAtomicSwap]
@[simp] theorem Mach.doorbell_frame (m : Mach) (die : Nat) (bit : Nat) : (Mach.doorbell m die bit).mem = m.mem ∧ (Mach.doorbell m die bit).fuses = m.fuses := ⟨rfl, rfl⟩
@[simp] theorem Mach.handedOver_frame (m : Mach) (b : Nat) : (Mach.handedOver m b).mem = m.mem ∧ (Mach.handedOver m b).fuses = m.fuses := ⟨rfl, rfl⟩
@[simp] theorem Mach.markOld_frame (m : Mach) (b : Nat) : (Mach.markOld m b).mem = m.mem ∧ (Mach.markOld m b).fuses = m.fuses := ⟨rfl, rfl⟩
@[simp] theorem opBankOwnerWrite_frame (b : Nat) (g : Nat) (m : Mach) : (opBankOwnerWrite b g m).mem = m.mem ∧ (opBankOwnerWrite b g m).fuses = m.fuses := by
  simp [opBankOwnerWrite]
@[simp] theorem opHandoverDone_frame (b : Nat) (m : Mach) : (opHandoverDone b m).mem = m.mem ∧ (opHandoverDone b m).fuses = m.fuses := by
  simp [opHandoverDone]
@[simp] theorem Mach.testTouches_frame (m : Mach) (who : Nat) (a : Nat) (n : Nat) : (Mach.testTouches m who a n).mem = m.mem ∧ (Mach.testTouches m who a n).fuses = m.fuses := by
  unfold Mach.testTouches
  refine ⟨?_, ?_⟩ <;> (repeat' (first | rfl | (simp; done) | split | intro _ | rw [foldl_mem] | rw [foldl_fuses] | rw [foldlFst_mem] | rw [foldlFst_fuses] | rw [foldlSnd_mem] | rw [foldlSnd_fuses] | (simp only []; split) | simp))
@[simp] theorem Mach.unitRefuse_frame (m : Mach) (who : Nat) (a : Nat) : (Mach.unitRefuse m who a).mem = m.mem ∧ (Mach.unitRefuse m who a).fuses = m.fuses := by
  unfold Mach.unitRefuse
  refine ⟨?_, ?_⟩ <;> (repeat' (first | rfl | (simp; done) | split))
@[simp] theorem Mach.storeGate_frame (m : Mach) (who : Nat) (a : Nat) (n : Nat) : (Mach.storeGate m who a n).2.mem = m.mem ∧ (Mach.storeGate m who a n).2.fuses = m.fuses := by
  unfold Mach.storeGate
  refine ⟨?_, ?_⟩ <;> (repeat' (first | rfl | (simp; done) | split | (simp only []; split) | simp))
@[simp] theorem Mach.nearPut_frame (m : Mach) (a : Nat) (data : List Byte) (en : List Bool) (crcBad : Bool) : (Mach.nearPut m a data en crcBad).fuses = m.fuses := by
  simp [Mach.nearPut]
@[simp] theorem Mach.writeUnit_frame (m : Mach) (a : Nat) (data : List Byte) (en : List Bool) : (Mach.writeUnit m a data en).fuses = m.fuses := by
  unfold Mach.writeUnit
  (repeat' (first | rfl | (simp; done) | split))
@[simp] theorem Mach.writeUnits_frame (m : Mach) (data : List Byte) (en : List Bool) (v3 : List Nat) : (Mach.writeUnits m data en v3).fuses = m.fuses := by
  fun_induction Mach.writeUnits <;> simp_all
@[simp] theorem Mach.writeAtEn_frame (m : Mach) (a : Nat) (data : List Byte) (en : List Bool) : (Mach.writeAtEn m a data en).fuses = m.fuses := by
  simp [Mach.writeAtEn]
@[simp] theorem Mach.retirePage_frame (m : Mach) (d : Nat) (page : Nat) : (Mach.retirePage m d page).mem = m.mem ∧ (Mach.retirePage m d page).fuses = m.fuses := by
  unfold Mach.retirePage
  refine ⟨?_, ?_⟩ <;> (repeat' (first | rfl | (simp; done) | split))
@[simp] theorem Mach.nearFailed_frame (m : Mach) (d : Nat) (o : Nat) (who : Nat) : (Mach.nearFailed m d o who).mem = m.mem ∧ (Mach.nearFailed m d o who).fuses = m.fuses := by
  simp [Mach.nearFailed]
@[simp] theorem Mach.farLost_frame (m : Mach) (ch : Nat) (p : Nat) : (Mach.farLost m ch p).mem = m.mem ∧ (Mach.farLost m ch p).fuses = m.fuses := ⟨rfl, rfl⟩
@[simp] theorem Mach.farReread2_frame (m : Mach) (ch : Nat) : (Mach.farReread2 m ch).mem = m.mem ∧ (Mach.farReread2 m ch).fuses = m.fuses := ⟨rfl, rfl⟩
@[simp] theorem Mach.readUnit_frame (m : Mach) (who : Nat) (a : Nat) : (Mach.readUnit m who a).2.2.mem = m.mem ∧ (Mach.readUnit m who a).2.2.fuses = m.fuses := by
  unfold Mach.readUnit
  refine ⟨?_, ?_⟩ <;> (repeat' (first | rfl | (simp; done) | split))
@[simp] theorem Mach.readUnits_frame (m : Mach) (who : Nat) (v2 : List Nat) : (Mach.readUnits m who v2).2.2.mem = m.mem ∧ (Mach.readUnits m who v2).2.2.fuses = m.fuses := by
  induction v2 generalizing m <;> (repeat' (first | (simp_all [Mach.readUnits]; done) | split | (simp [Mach.readUnits]; split)))
@[simp] theorem Mach.readAt_frame (m : Mach) (who : Nat) (a : Nat) (n : Nat) : (Mach.readAt m who a n).2.2.mem = m.mem ∧ (Mach.readAt m who a n).2.2.fuses = m.fuses := by
  simp [Mach.readAt]
theorem Mach.storeAccess_frame (m : Mach) (p : Packet) {y} (h : (Mach.storeAccess m p) = some y) : y.after.fuses = m.fuses := by
  unfold Mach.storeAccess at h
  simp only [] at h
  split at h
  · cases h
  · cases h; simp
  · split at h
    · cases h; simp
    · cases h; simp
theorem Mach.atomicAccess_frame (m : Mach) (p : Packet) {y} (h : (Mach.atomicAccess m p) = some y) : y.after.fuses = m.fuses := by
  unfold Mach.atomicAccess at h
  split at h
  · obtain rfl := Option.some.inj h; rfl
  · simp only [] at h
    split at h <;> split at h
    · obtain rfl := Option.some.inj h; rfl
    · split at h
      · cases h
      · obtain rfl := Option.some.inj h; simp
      · obtain rfl := Option.some.inj h; simp
    · obtain rfl := Option.some.inj h; rfl
    · split at h
      · cases h
      · obtain rfl := Option.some.inj h; simp
      · obtain rfl := Option.some.inj h; simp
  · obtain rfl := Option.some.inj h; rfl
  · obtain rfl := Option.some.inj h; rfl
@[simp] theorem pushRow_frame (p : RowPush) (m : Mach) : (pushRow p m).2.mem = m.mem ∧ (pushRow p m).2.fuses = m.fuses := by
  unfold pushRow
  refine ⟨?_, ?_⟩ <;> (repeat' (first | rfl | (simp; done) | split | (simp only []; split) | simp))
@[simp] theorem Mach.rowWindow_frame (m : Mach) (t : Nat) (kind : Nat) (off : Nat) (data : List Byte) (en : List Bool) : (Mach.rowWindow m t kind off data en).2.mem = m.mem ∧ (Mach.rowWindow m t kind off data en).2.fuses = m.fuses := by
  unfold Mach.rowWindow
  refine ⟨?_, ?_⟩ <;> (repeat' (first | rfl | (simp; done) | split | (simp only []; split) | simp))
@[simp] theorem Mach.slExtWrite_frame (m : Mach) (k : Nat) (w : Nat) (v : Nat) (same : Bool) : (Mach.slExtWrite m k w v same).mem = m.mem ∧ (Mach.slExtWrite m k w v same).fuses = m.fuses := by
  simp [Mach.slExtWrite]
@[simp] theorem Mach.slExtPut_frame (m : Mach) (k : Nat) (w : Nat) (data : List Byte) (en : List Bool) (same : Bool) : (Mach.slExtPut m k w data en same).mem = m.mem ∧ (Mach.slExtPut m k w data en same).fuses = m.fuses := by
  simp [Mach.slExtPut]
@[simp] theorem Mach.slProgPut_frame (m : Mach) (k : Nat) (w : Nat) (data : List Byte) (en : List Bool) : (Mach.slProgPut m k w data en).mem = m.mem ∧ (Mach.slProgPut m k w data en).fuses = m.fuses := ⟨rfl, rfl⟩
@[simp] theorem Mach.slExtPuts_frame (m : Mach) (k : Nat) (same : Bool) (v3 : Nat) (v4 : Nat) (v5 : List Byte) (v6 : List Bool) : (Mach.slExtPuts m k same v3 v4 v5 v6).mem = m.mem ∧ (Mach.slExtPuts m k same v3 v4 v5 v6).fuses = m.fuses := by
  induction v3 generalizing m v4 v5 v6 with
  | zero => simp [Mach.slExtPuts]
  | succ k ih => simp only [Mach.slExtPuts]; split <;> simp [ih]
@[simp] theorem Mach.slAccess_frame (m : Mach) (k : Nat) (who : Nat) (off : Nat) (len : Nat) (write : Option (List Byte × List Bool)) (same : Bool) : (Mach.slAccess m k who off len write same).2.2.2.mem = m.mem ∧ (Mach.slAccess m k who off len write same).2.2.2.fuses = m.fuses := by
  unfold Mach.slAccess
  refine ⟨?_, ?_⟩ <;> (repeat' (first | rfl | (simp; done) | split | (simp only []; split) | simp))
theorem Mach.windowAccess_frame (m : Mach) (die : Nat) (o : Nat) (p : Packet) {y} (h : (Mach.windowAccess m die o p) = some y) : y.after.mem = m.mem ∧ y.after.fuses = m.fuses := by
  unfold Mach.windowAccess at h
  split at h
  · cases h; exact ⟨rfl, rfl⟩
  · split at h
    · cases h; exact ⟨rfl, rfl⟩
    · split at h
      · split at h
        · cases h; exact ⟨rfl, rfl⟩
        · cases h
      · split at h
        · cases h; simp
        · cases h; simp
        · cases h; exact ⟨rfl, rfl⟩
@[simp] theorem Mach.traceAdd_frame (m : Mach) (d : Nat) (k : Nat) (net : Nat) (p : Packet) : (Mach.traceAdd m d k net p).mem = m.mem ∧ (Mach.traceAdd m d k net p).fuses = m.fuses := by
  simp [Mach.traceAdd]
@[simp] theorem Mach.lantern_frame (m : Mach) (d : Nat) (net : Nat) (n : Nat) (port : Nat) (p : Packet) : (Mach.lantern m d net n port p).mem = m.mem ∧ (Mach.lantern m d net n port p).fuses = m.fuses := by
  simp [Mach.lantern]
theorem Mach.launch_frame (m : Mach) (die : Nat) (port : Nat) (p : Packet) {y} (h : (Mach.launch m die port p) = some y) : y.2.mem = m.mem ∧ y.2.fuses = m.fuses := by
  unfold Mach.launch at h
  dsimp only at h
  split at h
  · cases h
    split <;> simp
  · obtain ⟨r, -, rfl⟩ := Option.map_eq_some_iff.mp h
    dsimp only
    split <;> simp
@[simp] theorem Mach.fniAnswer_frame (m : Mach) (k : Nat) (tag : Nat) (status : Nat) (data : List Byte) (marks : Nat) : (Mach.fniAnswer m k tag status data marks).mem = m.mem ∧ (Mach.fniAnswer m k tag status data marks).fuses = m.fuses := by
  simp [Mach.fniAnswer]
@[simp] theorem Mach.fniRsp_frame (m : Mach) (k : Nat) (txn : Nat) (status : Nat) (data : List Byte) (marks : Nat) : (Mach.fniRsp m k txn status data marks).mem = m.mem ∧ (Mach.fniRsp m k txn status data marks).fuses = m.fuses := by
  unfold Mach.fniRsp
  refine ⟨?_, ?_⟩ <;> (repeat' (first | rfl | (simp; done) | split | (simp only []; split) | simp))
@[simp] theorem Mach.slHear_frame (m : Mach) (k : Nat) (status : Nat) : (Mach.slHear m k status).mem = m.mem ∧ (Mach.slHear m k status).fuses = m.fuses := by
  unfold Mach.slHear
  refine ⟨?_, ?_⟩ <;> (repeat' (first | rfl | (simp; done) | split | (simp only []; split) | simp))
@[simp] theorem Mach.answer_frame (m : Mach) (who : Nat) (txn : Nat) (status : Nat) (data : List Byte) (marks : Nat) : (Mach.answer m who txn status data marks).mem = m.mem ∧ (Mach.answer m who txn status data marks).fuses = m.fuses := by
  simp [Mach.answer]
@[simp] theorem Mach.noRoute_frame (m : Mach) (die : Nat) (p : Packet) : (Mach.noRoute m die p).mem = m.mem ∧ (Mach.noRoute m die p).fuses = m.fuses := by
  simp [Mach.noRoute]
@[simp] theorem Mach.injectFrom_frame (m : Mach) (die : Nat) (port : Nat) (v3 : List Packet) : (Mach.injectFrom m die port v3).1.mem = m.mem ∧ (Mach.injectFrom m die port v3).1.fuses = m.fuses := by
  induction v3 generalizing m with
  | nil => exact ⟨rfl, rfl⟩
  | cons p l ih =>
    unfold Mach.injectFrom
    split
    · exact ⟨rfl, rfl⟩
    · split
      · simp [ih]
      · rename_i m1 h
        have g := Mach.launch_frame _ _ _ _ h
        exact ⟨(ih m1).1.trans g.1, (ih m1).2.trans g.2⟩
@[simp] theorem Mach.setNiq_frame (m : Mach) (k : Nat) (l : List Packet) : (Mach.setNiq m k l).mem = m.mem ∧ (Mach.setNiq m k l).fuses = m.fuses := ⟨rfl, rfl⟩
@[simp] theorem Mach.niDrain_frame (m : Mach) (die : Nat) (port : Nat) (net : Nat) : (Mach.niDrain m die port net).mem = m.mem ∧ (Mach.niDrain m die port net).fuses = m.fuses := by
  simp [Mach.niDrain]
@[simp] theorem Mach.niSend_frame (m : Mach) (die : Nat) (port : Nat) (p : Packet) : (Mach.niSend m die port p).mem = m.mem ∧ (Mach.niSend m die port p).fuses = m.fuses := by
  simp [Mach.niSend]
@[simp] theorem Mach.targetAnswer_frame (m : Mach) (k : Nat) (who : Nat) (write : Bool) (pkt : Option Packet) (status : Nat) (data : List Byte) : (Mach.targetAnswer m k who write pkt status data).mem = m.mem ∧ (Mach.targetAnswer m k who write pkt status data).fuses = m.fuses := by
  unfold Mach.targetAnswer
  refine ⟨?_, ?_⟩ <;> (repeat' (first | rfl | (simp; done) | split))
@[simp] theorem Mach.fniTarget_frame (m : Mach) (k : Nat) (who : Nat) (kind : Nat) (word : Nat) (data : Nat) (pkt : Option Packet) : (Mach.fniTarget m k who kind word data pkt).mem = m.mem ∧ (Mach.fniTarget m k who kind word data pkt).fuses = m.fuses := by
  simp [Mach.fniTarget]
@[simp] theorem opMailboxReadWord0_frame (n : Nat) (who : Nat) (m : Mach) : (opMailboxReadWord0 n who m).mem = m.mem ∧ (opMailboxReadWord0 n who m).fuses = m.fuses := by
  unfold opMailboxReadWord0
  refine ⟨?_, ?_⟩ <;> (repeat' (first | rfl | (simp; done) | split))
@[simp] theorem Mach.kindRead_frame (m : Mach) (n : Nat) (kind : Nat) : (Mach.kindRead m n kind).mem = m.mem ∧ (Mach.kindRead m n kind).fuses = m.fuses := by
  simp [Mach.kindRead]
@[simp] theorem opMailboxReadWord15_frame (n : Nat) (who : Nat) (m : Mach) : (opMailboxReadWord15 n who m).mem = m.mem ∧ (opMailboxReadWord15 n who m).fuses = m.fuses := by
  unfold opMailboxReadWord15
  refine ⟨?_, ?_⟩ <;> (repeat' (first | rfl | (simp; done) | split))
@[simp] theorem Mach.clearRead_frame (m : Mach) (events : Nat) (v2 : List (Fld × Nat)) : (Mach.clearRead m events v2).mem = m.mem ∧ (Mach.clearRead m events v2).fuses = m.fuses := by
  fun_induction Mach.clearRead <;> simp_all
@[simp] theorem Mach.readReg_frame (m : Mach) (die : Nat) (o : Nat) (who : Nat) (events : Nat) : (Mach.readReg m die o who events).2.mem = m.mem ∧ (Mach.readReg m die o who events).2.fuses = m.fuses := by
  unfold Mach.readReg
  refine ⟨?_, ?_⟩ <;> (repeat' (first | rfl | (simp; done) | split))
@[simp] theorem Mach.regGet_frame (m : Mach) (die : Nat) (o : Nat) (who : Nat) (events : Nat) (pkt : Option Packet) : (Mach.regGet m die o who events pkt).after.mem = m.mem ∧ (Mach.regGet m die o who events pkt).after.fuses = m.fuses := by
  unfold Mach.regGet
  split
  · simp
  · simp [Mach.via]
  · simp
  · simp
@[simp] theorem Mach.busRead_frame (m : Mach) (who : Nat) (addr : Nat) (size : Nat) (events : Nat) (pkt : Option Packet) : (Mach.busRead m who addr size events pkt).after.mem = m.mem ∧ (Mach.busRead m who addr size events pkt).after.fuses = m.fuses := by
  unfold Mach.busRead
  refine ⟨?_, ?_⟩ <;> (repeat' (first | rfl | (simp; done) | split))
@[simp] theorem Mach.sendRsp_frame (m : Mach) (die : Nat) (port : Nat) (p : Packet) : (Mach.sendRsp m die port p).mem = m.mem ∧ (Mach.sendRsp m die port p).fuses = m.fuses := by
  simp [Mach.sendRsp]
@[simp] theorem Mach.mailArrive_frame (m : Mach) (p : Packet) : (Mach.mailArrive m p).mem = m.mem ∧ (Mach.mailArrive m p).fuses = m.fuses := by
  unfold Mach.mailArrive
  refine ⟨?_, ?_⟩ <;> (repeat' (first | rfl | (simp; done) | split))
@[simp] theorem Mach.misrouteAt_frame (m : Mach) (d : Nat) (srcPort : Nat) (dest : Nat) : (Mach.misrouteAt m d srcPort dest).mem = m.mem ∧ (Mach.misrouteAt m d srcPort dest).fuses = m.fuses := ⟨rfl, rfl⟩
@[simp] theorem Mach.misroute_frame (m : Mach) (d : Nat) (p : Packet) : (Mach.misroute m d p).mem = m.mem ∧ (Mach.misroute m d p).fuses = m.fuses := ⟨rfl, rfl⟩
@[simp] theorem Mach.discard_frame (m : Mach) (die : Nat) (net : Nat) (n : Nat) (v4 : List Nat) : (Mach.discard m die net n v4).mem = m.mem ∧ (Mach.discard m die net n v4).fuses = m.fuses := by
  induction v4 generalizing m <;> (repeat' (first | (simp_all [Mach.discard]; done) | split | (simp [Mach.discard]; split)))
@[simp] theorem Mach.lanternWait_frame (m : Mach) (d : Nat) (net : Nat) (n : Nat) (port : Nat) (p : Packet) (cycles : Nat) : (Mach.lanternWait m d net n port p cycles).mem = m.mem ∧ (Mach.lanternWait m d net n port p cycles).fuses = m.fuses := by
  simp [Mach.lanternWait]
@[simp] theorem Mach.passTime_frame (m : Mach) (die : Nat) (net : Nat) (n : Nat) (i : Nat) (out : Nat) (cycles : Nat) (head : Bool) : (Mach.passTime m die net n i out cycles head).mem = m.mem ∧ (Mach.passTime m die net n i out cycles head).fuses = m.fuses := by
  unfold Mach.passTime
  refine ⟨?_, ?_⟩ <;> (repeat' (first | rfl | (simp; done) | split | (simp only []; split) | simp))
@[simp] theorem Mach.fresh_frame (m : Mach) (w : Nat) : (Mach.fresh m w).2.mem = m.mem ∧ (Mach.fresh m w).2.fuses = m.fuses := ⟨rfl, rfl⟩
@[simp] theorem Mach.mail_frame (m : Mach) (src : Nat) (dest : Nat) (words : List Nat) : (Mach.mail m src dest words).mem = m.mem ∧ (Mach.mail m src dest words).fuses = m.fuses := by
  unfold Mach.mail
  refine ⟨?_, ?_⟩ <;> (repeat' (first | rfl | (simp; done) | split))
theorem Mach.fniInject_frame (m : Mach) (k : Nat) (q : FniReq) {y} (h : (Mach.fniInject m k q) = some y) : y.mem = m.mem ∧ y.fuses = m.fuses := by
  unfold Mach.fniInject at h
  dsimp only at h
  split at h
  · split at h
    · cases h; simp
    · cases h
  · split at h
    · split at h
      · cases h
      · split at h
        · cases h; simp
        · rename_i t m1 g
          have f := Mach.launch_frame _ _ _ _ g
          cases h
          split
          · exact f
          · simpa using f
    · cases h
      split <;> simp
@[simp] theorem Mach.fniDrain_frame (m : Mach) (k : Nat) (v2 : List FniReq) : (Mach.fniDrain m k v2).mem = m.mem ∧ (Mach.fniDrain m k v2).fuses = m.fuses := by
  induction v2 generalizing m with
  | nil => rw [Mach.fniDrain]; exact ⟨rfl, rfl⟩
  | cons q l ih =>
    rw [Mach.fniDrain]
    split
    · exact ⟨rfl, rfl⟩
    · rename_i m1 h
      have f := Mach.fniInject_frame _ _ _ h
      exact ⟨(ih m1).1.trans f.1, (ih m1).2.trans f.2⟩
@[simp] theorem Mach.niFree_frame (m : Mach) (die : Nat) (port : Nat) : (Mach.niFree m die port).mem = m.mem ∧ (Mach.niFree m die port).fuses = m.fuses := by
  simp [Mach.niFree]
@[simp] theorem Mach.sendRelease_frame (m : Mach) (src : Nat) : (Mach.sendRelease m src).mem = m.mem ∧ (Mach.sendRelease m src).fuses = m.fuses := by
  unfold Mach.sendRelease
  refine ⟨?_, ?_⟩ <;> (repeat' (first | rfl | (simp; done) | split | (simp only []; split) | simp))
@[simp] theorem Mach.pEdge_frame (m : Mach) (d : Nat) (r : Nat) (k : Nat) (rising : Bool) (x : PIn) : (Mach.pEdge m d r k rising x).mem = m.mem ∧ (Mach.pEdge m d r k rising x).fuses = m.fuses := by
  simp [Mach.pEdge]
@[simp] theorem Mach.ramPut_frame (m : Mach) (d : Nat) (r : Nat) (b : Nat) (nb : Nat) (w : Nat) (data : Nat) (we : Nat) : (Mach.ramPut m d r b nb w data we).mem = m.mem ∧ (Mach.ramPut m d r b nb w data we).fuses = m.fuses := by
  simp [Mach.ramPut]
@[simp] theorem Mach.ramOut_frame (m : Mach) (k : Nat) (v : Nat) : (Mach.ramOut m k v).mem = m.mem ∧ (Mach.ramOut m k v).fuses = m.fuses := ⟨rfl, rfl⟩
@[simp] theorem Mach.ramRead_frame (m : Mach) (d : Nat) (r : Nat) (a : RamIn) (shape : Nat) (old : Nat) : (Mach.ramRead m d r a shape old).mem = m.mem ∧ (Mach.ramRead m d r a shape old).fuses = m.fuses := by
  simp [Mach.ramRead]
@[simp] theorem Mach.ramShift_frame (m : Mach) (d : Nat) (r : Nat) (k : Nat) : (Mach.ramShift m d r k).mem = m.mem ∧ (Mach.ramShift m d r k).fuses = m.fuses := by
  simp [Mach.ramShift]
@[simp] theorem Mach.ramWrite_frame (m : Mach) (d : Nat) (r : Nat) (accs : List RamIn) (a : RamIn) (shape : Nat) : (Mach.ramWrite m d r accs a shape).mem = m.mem ∧ (Mach.ramWrite m d r accs a shape).fuses = m.fuses := by
  simp [Mach.ramWrite]
@[simp] theorem Mach.ramEdge_frame (m : Mach) (d : Nat) (r : Nat) (k : Nat) (accs : List RamIn) : (Mach.ramEdge m d r k accs).mem = m.mem ∧ (Mach.ramEdge m d r k accs).fuses = m.fuses := by
  simp [Mach.ramEdge]
@[simp] theorem Mach.keepFences_frame (m : Mach) (d : Nat) (r : Nat) : (Mach.keepFences m d r).mem = m.mem ∧ (Mach.keepFences m d r).fuses = m.fuses := ⟨rfl, rfl⟩
@[simp] theorem Mach.setIoPin_frame (m : Mach) (i : Nat) (x : IoPin) : (Mach.setIoPin m i x).mem = m.mem ∧ (Mach.setIoPin m i x).fuses = m.fuses := ⟨rfl, rfl⟩
@[simp] theorem Mach.setClkLow_frame (m : Mach) (d : Nat) (r : Nat) (k : Nat) (v : Bool) : (Mach.setClkLow m d r k v).mem = m.mem ∧ (Mach.setClkLow m d r k v).fuses = m.fuses := ⟨rfl, rfl⟩
@[simp] theorem Mach.setClkDiv_frame (m : Mach) (d : Nat) (r : Nat) (k : Nat) (v : Nat) : (Mach.setClkDiv m d r k v).mem = m.mem ∧ (Mach.setClkDiv m d r k v).fuses = m.fuses := ⟨rfl, rfl⟩
@[simp] theorem Mach.clkAfter_frame (m : Mach) (d : Nat) (r : Nat) (k : Nat) (rising : Bool) : (Mach.clkAfter m d r k rising).mem = m.mem ∧ (Mach.clkAfter m d r k rising).fuses = m.fuses := by
  simp [Mach.clkAfter]
@[simp] theorem Mach.pinEdge_frame (m before : Mach) (d r k : Nat) (rising : Bool) (blocks : List PIn) (pads : List Nat) :
    (m.pinEdge before d r k rising blocks pads).mem = m.mem ∧ (m.pinEdge before d r k rising blocks pads).fuses = m.fuses :=
  ⟨foldl_mem _ _ _ (fun _ _ => rfl), foldl_fuses _ _ _ (fun _ _ => rfl)⟩
@[simp] theorem opRegionalClockEdge_frame (d : Nat) (r : Nat) (k : Nat) (rising : Bool) (blocks : List PIn) (rams : List RamIn) (pads : List Nat) (m : Mach) : (opRegionalClockEdge d r k rising blocks rams pads m).mem = m.mem ∧ (opRegionalClockEdge d r k rising blocks rams pads m).fuses = m.fuses := by
  unfold opRegionalClockEdge
  split
  · exact ⟨rfl, rfl⟩
  · dsimp only
    rw [(Mach.clkAfter_frame _ _ _ _ _).1, (Mach.clkAfter_frame _ _ _ _ _).2, (Mach.pinEdge_frame _ _ _ _ _ _ _ _).1, (Mach.pinEdge_frame _ _ _ _ _ _ _ _).2,
      foldl_mem _ _ _ (fun s x => (Mach.pEdge_frame s _ _ _ _ _).1), foldl_fuses _ _ _ (fun s x => (Mach.pEdge_frame s _ _ _ _ _).2)]
    split <;> simp
@[simp] theorem opAsynchronousSetReset_frame (d : Nat) (r : Nat) (p : Nat) (set : Bool) (reset : Bool) (m : Mach) : (opAsynchronousSetReset d r p set reset m).mem = m.mem ∧ (opAsynchronousSetReset d r p set reset m).fuses = m.fuses := by
  simp [opAsynchronousSetReset]
@[simp] theorem opClockSwitch_frame (d : Nat) (r : Nat) (k : Nat) (sig : Nat) (runs : Bool) (m : Mach) : (opClockSwitch d r k sig runs m).mem = m.mem ∧ (opClockSwitch d r k sig runs m).fuses = m.fuses := by
  simp [opClockSwitch]
@[simp] theorem opDeadSrc_frame (d : Nat) (r : Nat) (k : Nat) (m : Mach) : (opDeadSrc d r k m).mem = m.mem ∧ (opDeadSrc d r k m).fuses = m.fuses := by
  simp [opDeadSrc]
@[simp] theorem opClockDividerWrite_frame (d : Nat) (r : Nat) (k : Nat) (who : Nat) (div : Nat) (m : Mach) : (opClockDividerWrite d r k who div m).mem = m.mem ∧ (opClockDividerWrite d r k who div m).fuses = m.fuses := by
  simp [opClockDividerWrite]
@[simp] theorem opClockMonitorWindow_frame (d : Nat) (r : Nat) (k : Nat) (edges : Nat) (m : Mach) : (opClockMonitorWindow d r k edges m).mem = m.mem ∧ (opClockMonitorWindow d r k edges m).fuses = m.fuses := by
  simp [opClockMonitorWindow]
@[simp] theorem Mach.clkGate_frame (m : Mach) (d : Nat) (r : Nat) (en : Nat) : (Mach.clkGate m d r en).mem = m.mem ∧ (Mach.clkGate m d r en).fuses = m.fuses := by
  simp [Mach.clkGate]
@[simp] theorem opFrClkgateWrite_frame (d : Nat) (r : Nat) (who : Nat) (en : Nat) (m : Mach) : (opFrClkgateWrite d r who en m).mem = m.mem ∧ (opFrClkgateWrite d r who en m).fuses = m.fuses := by
  simp [opFrClkgateWrite]
@[simp] theorem opFniRequest_frame (d : Nat) (f : Nat) (q : FniReq) (m : Mach) : (opFniRequest d f q m).mem = m.mem ∧ (opFniRequest d f q m).fuses = m.fuses := by
  simp [opFniRequest]
@[simp] theorem opFniTargetReply_frame (d : Nat) (f : Nat) (data : Nat) (refuse : Bool) (m : Mach) : (opFniTargetReply d f data refuse m).mem = m.mem ∧ (opFniTargetReply d f data refuse m).fuses = m.fuses := by
  unfold opFniTargetReply
  refine ⟨?_, ?_⟩ <;> (repeat' (first | rfl | (simp; done) | split | (simp only []; split) | simp))
@[simp] theorem Mach.sinkArrive_frame (m : Mach) (k : Nat) (src : Nat) (words : List Nat) : (Mach.sinkArrive m k src words).mem = m.mem ∧ (Mach.sinkArrive m k src words).fuses = m.fuses := by
  simp [Mach.sinkArrive]
@[simp] theorem opFniMessageArrive_frame (d : Nat) (f : Nat) (m : Mach) : (opFniMessageArrive d f m).mem = m.mem ∧ (opFniMessageArrive d f m).fuses = m.fuses := by
  unfold opFniMessageArrive
  refine ⟨?_, ?_⟩ <;> (repeat' (first | rfl | (simp; done) | split))
@[simp] theorem opMessageSinkTransfer_frame (d : Nat) (f : Nat) (m : Mach) : (opMessageSinkTransfer d f m).mem = m.mem ∧ (opMessageSinkTransfer d f m).fuses = m.fuses := by
  unfold opMessageSinkTransfer
  refine ⟨?_, ?_⟩ <;> (repeat' (first | rfl | (simp; done) | split | (simp only []; split) | simp))
@[simp] theorem Mach.fenceFni_frame (m : Mach) (k : Nat) : (Mach.fenceFni m k).mem = m.mem ∧ (Mach.fenceFni m k).fuses = m.fuses := by
  simp [Mach.fenceFni]
@[simp] theorem opRowPushWindow_frame (t : Nat) (who : Nat) (kind : Nat) (off : Nat) (data : List Byte) (en : List Bool) (m : Mach) : (opRowPushWindow t who kind off data en m).mem = m.mem ∧ (opRowPushWindow t who kind off data en m).fuses = m.fuses := by
  simp [opRowPushWindow]
@[simp] theorem Mach.holdBank_frame (m : Mach) (b : Nat) : (Mach.holdBank m b).mem = m.mem ∧ (Mach.holdBank m b).fuses = m.fuses := by
  simp [Mach.holdBank]
@[simp] theorem opVioLoss_frame (b : Nat) (sensed : Nat) (m : Mach) : (opVioLoss b sensed m).mem = m.mem ∧ (opVioLoss b sensed m).fuses = m.fuses := by
  simp [opVioLoss]
@[simp] theorem opIoPinSlewWrite_frame (d : Nat) (b : Nat) (i : Nat) (who : Nat) (slew : Nat) (m : Mach) : (opIoPinSlewWrite d b i who slew m).mem = m.mem ∧ (opIoPinSlewWrite d b i who slew m).fuses = m.fuses := by
  simp [opIoPinSlewWrite]
@[simp] theorem opHoldPuChange_frame (level : Bool) (m : Mach) : (opHoldPuChange level m).mem = m.mem ∧ (opHoldPuChange level m).fuses = m.fuses := ⟨rfl, rfl⟩
@[simp] theorem opFarAdmit_frame (ch : Nat) (m : Mach) : (opFarAdmit ch m).mem = m.mem ∧ (opFarAdmit ch m).fuses = m.fuses := by
  unfold opFarAdmit
  refine ⟨?_, ?_⟩ <;> (repeat' (first | rfl | (simp; done) | split | (simp only []; split) | simp))
@[simp] theorem opFarBurstIssue_frame (ch : Nat) (m : Mach) : (opFarBurstIssue ch m).mem = m.mem ∧ (opFarBurstIssue ch m).fuses = m.fuses := by
  unfold opFarBurstIssue
  refine ⟨?_, ?_⟩ <;> (repeat' (first | rfl | (simp; done) | split | (simp only []; split) | simp))
@[simp] theorem Mach.farDeliver_frame (m : Mach) (ch : Nat) (b : FarBurst) (marks : Nat) : (Mach.farDeliver m ch b marks).mem = m.mem ∧ (Mach.farDeliver m ch b marks).fuses = m.fuses := ⟨rfl, rfl⟩
@[simp] theorem Mach.farWrite_frame (m : Mach) (ch : Nat) (b : FarBurst) (stays : Bool) : (Mach.farWrite m ch b stays).fuses = m.fuses := by
  unfold Mach.farWrite
  (repeat' (first | rfl | (simp; done) | split | intro _ | rw [foldl_mem] | rw [foldl_fuses] | rw [foldlFst_mem] | rw [foldlFst_fuses] | rw [foldlSnd_mem] | rw [foldlSnd_fuses] | (simp only []; split) | simp))
@[simp] theorem Mach.farLeft_frame (m : Mach) (ch : Nat) (x : FarCh) : (Mach.farLeft m ch x).mem = m.mem ∧ (Mach.farLeft m ch x).fuses = m.fuses := by
  simp [Mach.farLeft]
@[simp] theorem opFarWindowPass_frame (ch : Nat) (crcBad : Bool) (m : Mach) : (opFarWindowPass ch crcBad m).fuses = m.fuses := by
  unfold opFarWindowPass
  (repeat' (first | rfl | (simp; done) | split | (simp only []; split) | simp))
@[simp] theorem opFarReread_frame (ch : Nat) (crcBad : Bool) (m : Mach) : (opFarReread ch crcBad m).fuses = m.fuses := by
  unfold opFarReread
  (repeat' (first | rfl | (simp; done) | split | (simp only []; split) | simp))
@[simp] theorem opFarRefresh_frame (ch : Nat) (rank : Nat) (m : Mach) : (opFarRefresh ch rank m).mem = m.mem ∧ (opFarRefresh ch rank m).fuses = m.fuses := by
  simp [opFarRefresh]
@[simp] theorem opMr4Poll_frame (ch : Nat) (above : Bool) (calm : Bool) (m : Mach) : (opMr4Poll ch above calm m).mem = m.mem ∧ (opMr4Poll ch above calm m).fuses = m.fuses := by
  simp [opMr4Poll]
@[simp] theorem Mach.farTrainFrom_frame (m : Mach) (ch : Nat) (step : Nat) (full : Bool) : (Mach.farTrainFrom m ch step full).mem = m.mem ∧ (Mach.farTrainFrom m ch step full).fuses = m.fuses := by
  simp [Mach.farTrainFrom]
@[simp] theorem opFarTrain_frame (ch : Nat) (m : Mach) : (opFarTrain ch m).mem = m.mem ∧ (opFarTrain ch m).fuses = m.fuses := by
  simp [opFarTrain]
@[simp] theorem opTrainStepDone_frame (ch : Nat) (m : Mach) : (opTrainStepDone ch m).mem = m.mem ∧ (opTrainStepDone ch m).fuses = m.fuses := by
  simp [opTrainStepDone]
theorem respondAll_keeps {α : Type} (g : α → Nat) (l : List α) (m : Mach) : (l.foldl (fun m b => m.respond (g b) rsUnavailable) m).mem = m.mem ∧
    (l.foldl (fun m b => m.respond (g b) rsUnavailable) m).fuses = m.fuses :=
  ⟨foldl_mem _ _ _ (fun _ _ => rfl), foldl_fuses _ _ _ (fun _ _ => rfl)⟩
@[simp] theorem Mach.farTimeout_frame (m : Mach) (ch : Nat) (noWindow : Bool) : (Mach.farTimeout m ch noWindow).mem = m.mem ∧ (Mach.farTimeout m ch noWindow).fuses = m.fuses := by
  unfold Mach.farTimeout
  dsimp only
  split
  · exact ⟨rfl, rfl⟩
  · have b := respondAll_keeps (fun b : FarBurst => b.id) ((m.farCh ch).waiting.filter (fun b => b.data.isNone)) m
    split <;> split <;> (cases (m.farCh ch).xfer <;> simp [b])
@[simp] theorem opPeriodicRetrain_frame (ch : Nat) (m : Mach) : (opPeriodicRetrain ch m).mem = m.mem ∧ (opPeriodicRetrain ch m).fuses = m.fuses := by
  unfold opPeriodicRetrain
  dsimp only
  split
  · exact ⟨rfl, rfl⟩
  · split <;> simp
@[simp] theorem opPeriodicRetrainEnd_frame (ch : Nat) (drift : Bool) (m : Mach) : (opPeriodicRetrainEnd ch drift m).mem = m.mem ∧ (opPeriodicRetrainEnd ch drift m).fuses = m.fuses := by
  simp [opPeriodicRetrainEnd]
@[simp] theorem opFullRetrain_frame (ch : Nat) (m : Mach) : (opFullRetrain ch m).mem = m.mem ∧ (opFullRetrain ch m).fuses = m.fuses := by
  simp [opFullRetrain]
@[simp] theorem opCaAlert_frame (ch : Nat) (m : Mach) : (opCaAlert ch m).mem = m.mem ∧ (opCaAlert ch m).fuses = m.fuses := by
  unfold opCaAlert
  refine ⟨?_, ?_⟩ <;> (repeat' (first | rfl | (simp; done) | split | (simp only []; split) | simp))
@[simp] theorem opAlertRise_frame (ch : Nat) (m : Mach) : (opAlertRise ch m).mem = m.mem ∧ (opAlertRise ch m).fuses = m.fuses := by
  unfold opAlertRise
  refine ⟨?_, ?_⟩ <;> (repeat' (first | rfl | (simp; done) | split | (simp only []; split) | simp))
@[simp] theorem Mach.hostEvent_frame (m : Mach) (kind : Nat) (tag : Nat) (arg : Nat) : (Mach.hostEvent m kind tag arg).mem = m.mem ∧ (Mach.hostEvent m kind tag arg).fuses = m.fuses := by
  simp [Mach.hostEvent]
@[simp] theorem Mach.askRead_frame (m : Mach) (idx : Nat) (key : Nat) (win : Nat) (off : Nat) (len : Nat) : (Mach.askRead m idx key win off len).mem = m.mem ∧ (Mach.askRead m idx key win off len).fuses = m.fuses := ⟨rfl, rfl⟩
@[simp] theorem Mach.askWrite_frame (m : Mach) (idx : Nat) (key : Nat) (win : Nat) (off : Nat) (data : List Byte) : (Mach.askWrite m idx key win off data).mem = m.mem ∧ (Mach.askWrite m idx key win off data).fuses = m.fuses := ⟨rfl, rfl⟩
@[simp] theorem Mach.mbStore_frame (m : Mach) (die : Nat) (j : Nat) (v3 : Nat) (v4 : List Nat) : (Mach.mbStore m die j v3 v4).mem = m.mem ∧ (Mach.mbStore m die j v3 v4).fuses = m.fuses := by
  fun_induction Mach.mbStore <;> simp_all
@[simp] theorem Mach.mbArrive_frame (m : Mach) (n : Nat) (src : Nat) (words : List Nat) : (Mach.mbArrive m n src words).1.mem = m.mem ∧ (Mach.mbArrive m n src words).1.fuses = m.fuses := by
  unfold Mach.mbArrive
  refine ⟨?_, ?_⟩ <;> (repeat' (first | rfl | (simp; done) | split))
@[simp] theorem Mach.notice_frame (m : Mach) (n : Nat) (receiver : Nat) (cause : Nat) (src : Nat) (words : List Nat) : (Mach.notice m n receiver cause src words).mem = m.mem ∧ (Mach.notice m n receiver cause src words).fuses = m.fuses := by
  unfold Mach.notice
  refine ⟨?_, ?_⟩ <;> (repeat' (first | rfl | (simp; done) | split))
@[simp] theorem opMailbox_frame (i : Nat) (m : Mach) : (opMailbox i m).mem = m.mem ∧ (opMailbox i m).fuses = m.fuses := by
  unfold opMailbox
  refine ⟨?_, ?_⟩ <;> (repeat' (first | rfl | (simp; done) | split))
@[simp] theorem opSendPortSend_frame (port : Nat) (who : Nat) (w15 : Nat) (m : Mach) : (opSendPortSend port who w15 m).mem = m.mem ∧ (opSendPortSend port who w15 m).fuses = m.fuses := by
  simp [opSendPortSend]
@[simp] theorem Mach.putDigest_frame (m : Mach) (p : Nat) (d : List Byte) : (Mach.putDigest m p d).mem = m.mem ∧ (Mach.putDigest m p d).fuses = m.fuses := by
  simp [Mach.putDigest]
@[simp] theorem Mach.startImage_frame (m : Mach) (p : Nat) (s : Nat) (x : FwImage) : (Mach.startImage m p s x).mem = m.mem ∧ (Mach.startImage m p s x).fuses = m.fuses := by
  simp [Mach.startImage]
@[simp] theorem Mach.bootFailed_frame (m : Mach) (p : Nat) (cause : Nat) : (Mach.bootFailed m p cause).mem = m.mem ∧ (Mach.bootFailed m p cause).fuses = m.fuses := ⟨rfl, rfl⟩
@[simp] theorem bootProc_frame (p : Nat) (m : Mach) : (bootProc p m).mem = m.mem ∧ (bootProc p m).fuses = m.fuses := by
  have b : ∀ (m : Mach) (l : List Nat), (l.foldl (fun m r => m.wr F.fwStatusState (procIx r) 0) m).mem = m.mem ∧
      (l.foldl (fun m r => m.wr F.fwStatusState (procIx r) 0) m).fuses = m.fuses :=
    fun m l => ⟨foldl_mem _ _ _ (fun _ _ => rfl), foldl_fuses _ _ _ (fun _ _ => rfl)⟩
  have g : ∀ (m : Mach) (l : List Nat), (l.foldl (fun m r => m.bootFailed r 3) m).mem = m.mem ∧ (l.foldl (fun m r => m.bootFailed r 3) m).fuses = m.fuses :=
    fun m l => ⟨foldl_mem _ _ _ (fun _ _ => rfl), foldl_fuses _ _ _ (fun _ _ => rfl)⟩
  unfold bootProc
  dsimp only
  split
  · exact ⟨rfl, rfl⟩
  · split
    · split
      · exact ⟨(b _ _).1.trans (by simp), (b _ _).2.trans (by simp)⟩
      · simp
    · split
      · exact ⟨(g _ _).1.trans (by simp), (g _ _).2.trans (by simp)⟩
      · simp
@[simp] theorem Mach.clearBoxes_frame (m : Mach) (p : Nat) (v2 : List Nat) (v3 : Nat) : (Mach.clearBoxes m p v2 v3).1.mem = m.mem ∧ (Mach.clearBoxes m p v2 v3).1.fuses = m.fuses := by
  induction v2 generalizing m v3 with
  | nil => exact ⟨rfl, rfl⟩
  | cons n l ih =>
    unfold Mach.clearBoxes
    split
    · exact ih _ _
    · dsimp only
      split
      · refine ⟨(ih _ _).1.trans ?_, (ih _ _).2.trans ?_⟩ <;> simp
      · exact ih _ _
@[simp] theorem Mach.crash_frame (m : Mach) (p : Nat) (cause : Nat) (pc : Nat) (addr : Nat) : (Mach.crash m p cause pc addr).mem = m.mem ∧ (Mach.crash m p cause pc addr).fuses = m.fuses := by
  simp [Mach.crash]
@[simp] theorem opWatchdogExpiry_frame (p : Nat) (pc : Nat) (m : Mach) : (opWatchdogExpiry p pc m).mem = m.mem ∧ (opWatchdogExpiry p pc m).fuses = m.fuses := by
  simp [opWatchdogExpiry]
@[simp] theorem opProcessorCrash_frame (p : Nat) (cause : Nat) (pc : Nat) (addr : Nat) (m : Mach) : (opProcessorCrash p cause pc addr m).mem = m.mem ∧ (opProcessorCrash p cause pc addr m).fuses = m.fuses := by
  simp [opProcessorCrash]
@[simp] theorem opFwCtrlRestart_frame (p : Nat) (who : Nat) (pc : Nat) (m : Mach) : (opFwCtrlRestart p who pc m).mem = m.mem ∧ (opFwCtrlRestart p who pc m).fuses = m.fuses := by
  simp [opFwCtrlRestart]
@[simp] theorem opFwCtrlReleaseHold_frame (p : Nat) (who : Nat) (m : Mach) : (opFwCtrlReleaseHold p who m).mem = m.mem ∧ (opFwCtrlReleaseHold p who m).fuses = m.fuses := by
  simp [opFwCtrlReleaseHold]
@[simp] theorem opFwKick_frame (p : Nat) (who : Nat) (m : Mach) : (opFwKick p who m).mem = m.mem ∧ (opFwKick p who m).fuses = m.fuses := by
  simp [opFwKick]
@[simp] theorem opFwUpdate_frame (role : Nat) (win : Nat) (off : Nat) (len : Nat) (m : Mach) : (opFwUpdate role win off len m).mem = m.mem ∧ (opFwUpdate role win off len m).fuses = m.fuses := by
  simp [opFwUpdate]
@[simp] theorem opAttestGo_frame (who : Nat) (m : Mach) : (opAttestGo who m).mem = m.mem ∧ (opAttestGo who m).fuses = m.fuses := by
  unfold opAttestGo
  refine ⟨?_, ?_⟩ <;> (repeat' (first | rfl | (simp; done) | split | (simp only []; split) | simp))
@[simp] theorem opAttestReady_frame (m : Mach) : (opAttestReady m).mem = m.mem ∧ (opAttestReady m).fuses = m.fuses := by
  simp [opAttestReady]
@[simp] theorem opIntKeyFuse_frame (who : Nat) (m : Mach) : (opIntKeyFuse who m).mem = m.mem := by
  simp [opIntKeyFuse]
@[simp] theorem Mach.peneb_frame (m : Mach) (type : Nat) (status : Nat) (tag : Nat) (win : Nat) (arg : Nat) (data : List Byte) : (Mach.peneb m type status tag win arg data).mem = m.mem ∧ (Mach.peneb m type status tag win arg data).fuses = m.fuses := ⟨rfl, rfl⟩
@[simp] theorem Mach.regAck_frame (m : Mach) (tag : Nat) (win : Nat) (arg : Nat) (status : Nat) : (Mach.regAck m tag win arg status).mem = m.mem ∧ (Mach.regAck m tag win arg status).fuses = m.fuses := ⟨rfl, rfl⟩
@[simp] theorem Mach.holdRec_frame (m : Mach) (c : CRec) : (Mach.holdRec m c).mem = m.mem ∧ (Mach.holdRec m c).fuses = m.fuses := by
  simp [Mach.holdRec]
@[simp] theorem Mach.writeRec_frame (m : Mach) (c : CRec) : (Mach.writeRec m c).mem = m.mem ∧ (Mach.writeRec m c).fuses = m.fuses := ⟨rfl, rfl⟩
@[simp] theorem opCompletionRecordWrite_frame (m : Mach) : (opCompletionRecordWrite m).mem = m.mem ∧ (opCompletionRecordWrite m).fuses = m.fuses := by
  unfold opCompletionRecordWrite
  refine ⟨?_, ?_⟩ <;> (repeat' (first | rfl | (simp; done) | split | (simp only []; split) | simp))
@[simp] theorem Mach.formRec_frame (m : Mach) (sq : Nat) (cq : Nat) (descId : Nat) (endEvent : Bool) (jobId : Nat) (status : Nat) (detail : Nat) (kind : Nat) (flags : Nat) (evNo : Nat) (lost : Nat) : (Mach.formRec m sq cq descId endEvent jobId status detail kind flags evNo lost).mem = m.mem ∧ (Mach.formRec m sq cq descId endEvent jobId status detail kind flags evNo lost).fuses = m.fuses := by
  simp [Mach.formRec]
@[simp] theorem Mach.endTicket_frame (m : Mach) (t : Ticket) (jobId : Nat) (status : Nat) (detail : Nat) : (Mach.endTicket m t jobId status detail).mem = m.mem ∧ (Mach.endTicket m t jobId status detail).fuses = m.fuses := by
  simp [Mach.endTicket]
@[simp] theorem Mach.arriveDesc_frame (m : Mach) (ring : Nat) (bytes : List Byte) : (Mach.arriveDesc m ring bytes).mem = m.mem ∧ (Mach.arriveDesc m ring bytes).fuses = m.fuses := by
  simp [Mach.arriveDesc]
@[simp] theorem opDescriptorFetch_frame (m : Mach) : (opDescriptorFetch m).mem = m.mem ∧ (opDescriptorFetch m).fuses = m.fuses := by
  unfold opDescriptorFetch
  refine ⟨?_, ?_⟩ <;> (repeat' (first | rfl | (simp; done) | split))
@[simp] theorem opNop_frame (m : Mach) : (opNop m).mem = m.mem ∧ (opNop m).fuses = m.fuses := by
  unfold opNop
  refine ⟨?_, ?_⟩ <;> (repeat' (first | rfl | (simp; done) | split))
@[simp] theorem Mach.reqFail_frame (m : Mach) (r : HostReq) : (Mach.reqFail m r).mem = m.mem ∧ (Mach.reqFail m r).fuses = m.fuses := by
  unfold Mach.reqFail
  refine ⟨?_, ?_⟩ <;> (repeat' (first | rfl | (simp; done) | split))
@[simp] theorem Mach.reqFails_frame (m : Mach) (v1 : List HostReq) : (Mach.reqFails m v1).mem = m.mem ∧ (Mach.reqFails m v1).fuses = m.fuses := by
  fun_induction Mach.reqFails <;> simp_all
@[simp] theorem Mach.recEvent_frame (m : Mach) (ring : Nat) (c : CRec) : (Mach.recEvent m ring c).mem = m.mem ∧ (Mach.recEvent m ring c).fuses = m.fuses := by
  simp [Mach.recEvent]
@[simp] theorem Mach.reqDone_frame (m : Mach) (r : HostReq) (data : List Byte) : (Mach.reqDone m r data).mem = m.mem ∧ (Mach.reqDone m r data).fuses = m.fuses := by
  unfold Mach.reqDone
  refine ⟨?_, ?_⟩ <;> (repeat' (first | rfl | (simp; done) | split))
@[simp] theorem Mach.pipe_frame (m : Mach) (r : HostReq) : (Mach.pipe m r).mem = m.mem ∧ (Mach.pipe m r).fuses = m.fuses := by
  simp [Mach.pipe]
@[simp] theorem Mach.reqSend_frame (m : Mach) (idx : Nat) (write : Bool) : (Mach.reqSend m idx write).mem = m.mem ∧ (Mach.reqSend m idx write).fuses = m.fuses := by
  unfold Mach.reqSend
  refine ⟨?_, ?_⟩ <;> (repeat' (first | rfl | (simp; done) | split))
@[simp] theorem Mach.pipeCut_frame (m : Mach) (idx : Nat) (segs : Nat) (keep : Bool) : (Mach.pipeCut m idx segs keep).mem = m.mem ∧ (Mach.pipeCut m idx segs keep).fuses = m.fuses := by
  unfold Mach.pipeCut
  refine ⟨?_, ?_⟩ <;> (repeat' (first | rfl | (simp; done) | split))
@[simp] theorem Mach.withdraw_frame (m : Mach) (idx : Nat) : (Mach.withdraw m idx).mem = m.mem ∧ (Mach.withdraw m idx).fuses = m.fuses := by
  simp [Mach.withdraw]
@[simp] theorem opHoldMaxCutoff_frame (a : ArbId) (segs : Nat) (m : Mach) : (opHoldMaxCutoff a segs m).mem = m.mem ∧ (opHoldMaxCutoff a segs m).fuses = m.fuses := by
  unfold opHoldMaxCutoff
  refine ⟨?_, ?_⟩ <;> (repeat' (first | rfl | (simp; done) | split | (simp only []; split) | simp))
@[simp] theorem opRequesterMask_frame (a : ArbId) (i : Nat) (on_ : Bool) (segs : Nat) (m : Mach) : (opRequesterMask a i on_ segs m).mem = m.mem ∧ (opRequesterMask a i on_ segs m).fuses = m.fuses := by
  unfold opRequesterMask
  refine ⟨?_, ?_⟩ <;> (repeat' (first | rfl | (simp; done) | split | (simp only []; split) | simp))
@[simp] theorem opReadReq_frame (idx : Nat) (m : Mach) : (opReadReq idx m).mem = m.mem ∧ (opReadReq idx m).fuses = m.fuses := by
  simp [opReadReq]
@[simp] theorem opWriteReq_frame (idx : Nat) (m : Mach) : (opWriteReq idx m).mem = m.mem ∧ (opWriteReq idx m).fuses = m.fuses := by
  simp [opWriteReq]
@[simp] theorem Mach.hostAnswer_frame (m : Mach) (write : Bool) (tag : Nat) (status : Nat) (data : List Byte) (ok : Bool) : (Mach.hostAnswer m write tag status data ok).mem = m.mem ∧ (Mach.hostAnswer m write tag status data ok).fuses = m.fuses := by
  unfold Mach.hostAnswer
  refine ⟨?_, ?_⟩ <;> (repeat' (first | rfl | (simp; done) | split))
@[simp] theorem opReadData_frame (tag : Nat) (status : Nat) (data : List Byte) (ok : Bool) (m : Mach) : (opReadData tag status data ok m).mem = m.mem ∧ (opReadData tag status data ok m).fuses = m.fuses := by
  simp [opReadData]
@[simp] theorem opWriteAck_frame (tag : Nat) (status : Nat) (ok : Bool) (m : Mach) : (opWriteAck tag status ok m).mem = m.mem ∧ (opWriteAck tag status ok m).fuses = m.fuses := by
  simp [opWriteAck]
@[simp] theorem opKeepalive_frame (ok : Bool) (m : Mach) : (opKeepalive ok m).mem = m.mem ∧ (opKeepalive ok m).fuses = m.fuses := by
  simp [opKeepalive]
@[simp] theorem opWindowSet_frame (w : Nat) (size : Nat) (r : Bool) (wr : Bool) (tag : Nat) (m : Mach) : (opWindowSet w size r wr tag m).mem = m.mem ∧ (opWindowSet w size r wr tag m).fuses = m.fuses := by
  simp [opWindowSet]
@[simp] theorem Mach.clearWindow_frame (m : Mach) (w : Nat) : (Mach.clearWindow m w).mem = m.mem ∧ (Mach.clearWindow m w).fuses = m.fuses := ⟨rfl, rfl⟩
@[simp] theorem Mach.stopRings_frame (m : Mach) (w : Nat) : (Mach.stopRings m w).mem = m.mem ∧ (Mach.stopRings m w).fuses = m.fuses := by
  simp [Mach.stopRings]
@[simp] theorem opWindowClear_frame (w : Nat) (tag : Nat) (m : Mach) : (opWindowClear w tag m).mem = m.mem ∧ (opWindowClear w tag m).fuses = m.fuses := by
  simp [opWindowClear]
@[simp] theorem opSqDoorbell_frame (r : Nat) (idx : Nat) (tag : Nat) (m : Mach) : (opSqDoorbell r idx tag m).mem = m.mem ∧ (opSqDoorbell r idx tag m).fuses = m.fuses := by
  simp [opSqDoorbell]
@[simp] theorem opCqDoorbell_frame (r : Nat) (idx : Nat) (tag : Nat) (m : Mach) : (opCqDoorbell r idx tag m).mem = m.mem ∧ (opCqDoorbell r idx tag m).fuses = m.fuses := by
  simp [opCqDoorbell]
@[simp] theorem opHello_frame (version : Nat) (tag : Nat) (m : Mach) : (opHello version tag m).mem = m.mem ∧ (opHello version tag m).fuses = m.fuses := by
  simp [opHello]
@[simp] theorem opHeldRead_frame (n : Nat) (tag : Nat) (m : Mach) : (opHeldRead n tag m).mem = m.mem ∧ (opHeldRead n tag m).fuses = m.fuses := by
  simp [opHeldRead]
@[simp] theorem Mach.graceStart_frame (m : Mach) : (Mach.graceStart m).mem = m.mem ∧ (Mach.graceStart m).fuses = m.fuses := ⟨rfl, rfl⟩
@[simp] theorem Mach.goAbsent_frame (m : Mach) : (Mach.goAbsent m).mem = m.mem ∧ (Mach.goAbsent m).fuses = m.fuses := by
  simp [Mach.goAbsent]
@[simp] theorem opHostAbsent_frame (m : Mach) : (opHostAbsent m).mem = m.mem ∧ (opHostAbsent m).fuses = m.fuses := by
  simp [opHostAbsent]
@[simp] theorem opUsbBusReset_frame (m : Mach) : (opUsbBusReset m).mem = m.mem ∧ (opUsbBusReset m).fuses = m.fuses := by
  simp [opUsbBusReset]
@[simp] theorem opUsbAttach_frame (speed : Nat) (m : Mach) : (opUsbAttach speed m).mem = m.mem ∧ (opUsbAttach speed m).fuses = m.fuses := by
  simp [opUsbAttach]
@[simp] theorem opEvent_frame (m : Mach) : (opEvent m).mem = m.mem ∧ (opEvent m).fuses = m.fuses := by
  unfold opEvent
  refine ⟨?_, ?_⟩ <;> (repeat' (first | rfl | (simp; done) | split))
@[simp] theorem Mach.jobRec_frame (m : Mach) (j : Job) (kind : Nat) (status : Nat) (detail : Nat) (flags : Nat) (evNo : Nat) (lost : Nat) : (Mach.jobRec m j kind status detail flags evNo lost).mem = m.mem ∧ (Mach.jobRec m j kind status detail flags evNo lost).fuses = m.fuses := by
  simp [Mach.jobRec]
@[simp] theorem Mach.endJob_frame (m : Mach) (j : Job) (aborted : Bool) (detail : Nat) : (Mach.endJob m j aborted detail).mem = m.mem ∧ (Mach.endJob m j aborted detail).fuses = m.fuses := by
  simp [Mach.endJob]
@[simp] theorem Mach.settleSets_frame (m : Mach) : (Mach.settleSets m).mem = m.mem ∧ (Mach.settleSets m).fuses = m.fuses := ⟨rfl, rfl⟩
@[simp] theorem Mach.reevaluate_frame (m : Mach) (pref : List Nat) : (Mach.reevaluate m pref).mem = m.mem ∧ (Mach.reevaluate m pref).fuses = m.fuses := ⟨rfl, rfl⟩
@[simp] theorem opCapacityReevaluation_frame (pref : List Nat) (m : Mach) : (opCapacityReevaluation pref m).mem = m.mem ∧ (opCapacityReevaluation pref m).fuses = m.fuses := by
  simp [opCapacityReevaluation]
@[simp] theorem Mach.begin__frame (m : Mach) (t : Ticket) : (Mach.begin_ m t).mem = m.mem ∧ (Mach.begin_ m t).fuses = m.fuses := ⟨rfl, rfl⟩
@[simp] theorem opJob_frame (pref : List Nat) (m : Mach) : (opJob pref m).mem = m.mem ∧ (opJob pref m).fuses = m.fuses := by
  unfold opJob
  refine ⟨?_, ?_⟩ <;> (repeat' (first | rfl | (simp; done) | split | (simp only []; split) | simp))
@[simp] theorem opJobStop_frame (m : Mach) : (opJobStop m).mem = m.mem ∧ (opJobStop m).fuses = m.fuses := by
  unfold opJobStop
  refine ⟨?_, ?_⟩ <;> (repeat' (first | rfl | (simp; done) | split))
@[simp] theorem Mach.askInputs_frame (m : Mach) (j : Job) (n : Nat) : (Mach.askInputs m j n).mem = m.mem ∧ (Mach.askInputs m j n).fuses = m.fuses := by
  simp [Mach.askInputs]
@[simp] theorem Mach.writeAt_frame (m : Mach) (a : Nat) (data : List Byte) : (Mach.writeAt m a data).fuses = m.fuses := by
  simp [Mach.writeAt]
theorem Mach.writeTensor_frame (m : Mach) (who : Nat) (t : Tensor) (data : List Byte) (v4 : List (Nat × Nat)) {y} (h : (Mach.writeTensor m who t data v4) = some y) : y.2.fuses = m.fuses := by
  induction v4 generalizing m y with
  | nil => simp only [Mach.writeTensor] at h; cases h; rfl
  | cons a l ih =>
    simp only [Mach.writeTensor] at h
    split at h
    · cases h
    · split at h
      · cases h
      · simpa using ih _ h
      · obtain ⟨z, hz, rfl⟩ := Option.map_eq_some_iff.mp h
        simpa using ih _ hz
theorem Mach.putInputs_frame (m : Mach) (j : Job) (p : Plan) (data : List Byte) (v4 : List Binding) {y} (h : (Mach.putInputs m j p data v4) = some y) : y.fuses = m.fuses := by
  induction v4 generalizing m data with
  | nil => simp only [Mach.putInputs] at h; cases h; rfl
  | cons a l ih =>
    simp only [Mach.putInputs] at h
    split at h
    · exact ih _ _ h
    · obtain ⟨z, hz, hy⟩ := Option.bind_eq_some_iff.mp h
      exact (ih _ _ hy).trans (Mach.writeTensor_frame _ _ _ _ _ hz)
@[simp] theorem opJobEventStart_frame (job : Nat) (m : Mach) : (opJobEventStart job m).fuses = m.fuses := by
  unfold opJobEventStart
  split
  · rfl
  · split
    · rfl
    · split
      · rfl
      · split
        · split
          · simp
          · split <;> simp
        · simp only []
          split
          · rfl
          · split
            · simp
            · split
              · rfl
              · rename_i h
                simp [Mach.putInputs_frame _ _ _ _ _ h]
@[simp] theorem Mach.dropFrame_frame (m : Mach) (j : Job) : (Mach.dropFrame m j).mem = m.mem ∧ (Mach.dropFrame m j).fuses = m.fuses := by
  simp [Mach.dropFrame]
@[simp] theorem opStreamFrameEvent_frame (job : Nat) (ok : Bool) (m : Mach) : (opStreamFrameEvent job ok m).mem = m.mem ∧ (opStreamFrameEvent job ok m).fuses = m.fuses := by
  unfold opStreamFrameEvent
  refine ⟨?_, ?_⟩ <;> (repeat' (first | rfl | (simp; done) | split))
@[simp] theorem Mach.finishEvent_frame (m : Mach) (j : Job) (ev : Event) (detail : Nat) (last : Bool) : (Mach.finishEvent m j ev detail last).mem = m.mem ∧ (Mach.finishEvent m j ev detail last).fuses = m.fuses := by
  simp [Mach.finishEvent]
theorem Mach.readTensor_frame (m : Mach) (who : Nat) (t : Tensor) (v3 : List (Nat × Nat)) {y} (h : (Mach.readTensor m who t v3) = some y) : y.2.2.mem = m.mem ∧ y.2.2.fuses = m.fuses := by
  induction v3 generalizing m y with
  | nil => simp only [Mach.readTensor] at h; cases h; exact ⟨rfl, rfl⟩
  | cons a l ih =>
    simp only [Mach.readTensor] at h
    split at h
    · cases h
    · split at h
      · cases h
      · obtain ⟨z, hz, rfl⟩ := Option.map_eq_some_iff.mp h
        simpa using ih _ hz
      · obtain ⟨z, hz, rfl⟩ := Option.map_eq_some_iff.mp h
        simpa using ih _ hz
theorem Mach.askOutputs_frame (m : Mach) (j : Job) (p : Plan) (ev : Event) (v4 : List Binding) {y} (h : (Mach.askOutputs m j p ev v4) = some y) : y.2.mem = m.mem ∧ y.2.fuses = m.fuses := by
  induction v4 generalizing m ev with
  | nil => simp only [Mach.askOutputs] at h; cases h; exact ⟨rfl, rfl⟩
  | cons a l ih =>
    simp only [Mach.askOutputs] at h
    split at h
    · exact ih _ _ h
    · split at h
      · cases h
      · rename_i r
        have g := Mach.readTensor_frame _ _ _ _ r
        have j := ih _ _ h
        simp only [Mach.askWrite_frame] at j
        exact ⟨j.1.trans g.1, j.2.trans g.2⟩
@[simp] theorem opJobEventEnd_frame (job : Nat) (m : Mach) : (opJobEventEnd job m).mem = m.mem ∧ (opJobEventEnd job m).fuses = m.fuses := by
  unfold opJobEventEnd
  split
  · exact ⟨rfl, rfl⟩
  · split
    · split
      · exact ⟨rfl, rfl⟩
      · split
        · split
          · split
            · exact ⟨rfl, rfl⟩
            · rename_i h
              have g := Mach.askOutputs_frame _ _ _ _ _ h
              simpa using g
          · exact ⟨rfl, rfl⟩
        · split
          · simp only []
            split
            · exact ⟨rfl, rfl⟩
            · simp
          · split <;> simp
    · exact ⟨rfl, rfl⟩
@[simp] theorem opOpPlace_frame (job : Nat) (op : Nat) (picks : List SharePick) (m0 : Mach) : (opOpPlace job op picks m0).mem = m0.mem ∧ (opOpPlace job op picks m0).fuses = m0.fuses := by
  unfold opOpPlace
  refine ⟨?_, ?_⟩ <;> (repeat' (first | rfl | (simp; done) | split | (simp only []; split) | simp))
@[simp] theorem Mach.enqueueItem_frame (m : Mach) (s : Share) (i : WorkItem) : (Mach.enqueueItem m s i).2.mem = m.mem ∧ (Mach.enqueueItem m s i).2.fuses = m.fuses := by
  unfold Mach.enqueueItem
  refine ⟨?_, ?_⟩ <;> (repeat' (first | rfl | (simp; done) | split))
@[simp] theorem Mach.dispatchItems_frame (m : Mach) (s : Share) (v2 : List WorkItem) : (Mach.dispatchItems m s v2).mem = m.mem ∧ (Mach.dispatchItems m s v2).fuses = m.fuses := by
  induction v2 generalizing m s <;> simp only [Mach.dispatchItems] <;> (repeat' (first | rfl | (simp_all; done) | (refine ⟨?_, ?_⟩) | split | (refine ⟨(IH _ _).1.trans ?_, ?_⟩)))
@[simp] theorem opShareDispatch_frame (share : Nat) (work : List WorkPick) (m0 : Mach) : (opShareDispatch share work m0).mem = m0.mem ∧ (opShareDispatch share work m0).fuses = m0.fuses := by
  unfold opShareDispatch
  refine ⟨?_, ?_⟩ <;> (repeat' (first | rfl | (simp; done) | split | (simp only []; split) | simp))
theorem refetchSlab_keeps (m : Mach) (c1 c2 : Prop) [Decidable c1] [Decidable c2] (n : Nat) (r : List Byte × Nat × Mach) (w : List Byte → Mach → Mach)
    (hr : r.2.2.fuses = m.fuses) (hw : ∀ x l, (w l x).fuses = x.fuses) :
    (if c1 then ((0 : Nat), m) else if c2 then (n, m) else if 2 ≤ r.2.1 then (2, r.2.2) else (1, w r.1 r.2.2)).2.fuses = m.fuses := by
  split
  · rfl
  · split
    · rfl
    · split
      · exact hr
      · exact (hw _ _).trans hr
@[simp] theorem Mach.refetchSlab_frame (m : Mach) (s : Share) (e : Nat) (code : Nat) (i : Nat) : (Mach.refetchSlab m s e code i).2.fuses = m.fuses := by
  unfold Mach.refetchSlab
  exact refetchSlab_keeps m _ _ _ (m.readAt idAlmanac _ _) (fun l x => x.writeAt (slabAddr code 0) l) (Mach.readAt_frame _ _ _ _).2 (fun x l => Mach.writeAt_frame x _ l)
@[simp] theorem Mach.refetch_frame (m : Mach) (sh : Share) (t : Tensor) : (Mach.refetch m sh t).2.fuses = m.fuses := by
  unfold Mach.refetch
  refine foldl_keeps (fun s : Nat × Mach => s.2.fuses) _ _ _ (fun s i => ?_)
  dsimp only
  split
  · rfl
  · exact foldl_keeps (fun s : Nat × Mach => s.2.fuses) _ _ _ (fun s k => Mach.refetchSlab_frame _ _ _ _ _)
theorem foldlPair_keeps (g : Mach → Share → Tensor → Nat × Mach) (sh : Share) (l : List Tensor) (s : Nat × Mach) (h : ∀ m t, (g m sh t).2.fuses = m.fuses) :
    (l.foldl (fun s t => have x := g s.2 sh t; (s.1 ||| x.1, x.2)) s).2.fuses = s.2.fuses := by
  induction l generalizing s with
  | nil => rfl
  | cons a l ih => rw [List.foldl_cons, ih]; exact h _ _
theorem refetchOp_eq (m : Mach) (sh : Share) (p : Plan) (r : OpRec) : Mach.refetchOp m sh p r =
    (p.tensors.filter (fun t => r.ins.contains t.handle)).foldl (fun s t => have x := Mach.refetch s.2 sh t; (s.1 ||| x.1, x.2)) (0, m) := by
  rw [Mach.refetchOp]
@[simp] theorem Mach.refetchOp_frame (m : Mach) (sh : Share) (p : Plan) (r : OpRec) : (Mach.refetchOp m sh p r).2.fuses = m.fuses :=
  (congrArg (fun s => s.2.fuses) (refetchOp_eq m sh p r)).trans (foldlPair_keeps Mach.refetch sh _ (0, m) (fun m t => Mach.refetch_frame m sh t))
@[simp] theorem Mach.reportTiles_frame (m : Mach) (ts : List Nat) : (Mach.reportTiles m ts).mem = m.mem ∧ (Mach.reportTiles m ts).fuses = m.fuses := by
  unfold Mach.reportTiles
  exact ⟨foldl_mem _ _ _ (fun _ _ => rfl), foldl_fuses _ _ _ (fun _ _ => rfl)⟩
@[simp] theorem Mach.loseEvent_frame (m : Mach) (j : Job) : (Mach.loseEvent m j).mem = m.mem ∧ (Mach.loseEvent m j).fuses = m.fuses := ⟨rfl, rfl⟩
@[simp] theorem opShareRecompute_frame (share : Nat) (where2 : Nat) (m : Mach) : (opShareRecompute share where2 m).fuses = m.fuses := by
  unfold opShareRecompute
  (repeat' (first | rfl | (simp; done) | split))
@[simp] theorem Mach.putBytes_frame (m : Mach) (a : Nat) (v2 : List Byte) : (Mach.putBytes m a v2).fuses = m.fuses := by
  fun_induction Mach.putBytes <;> simp_all
@[simp] theorem Mach.sixPut_frame (m : Mach) (addr : Nat → Nat) (l : List Byte) : (Mach.sixPut m addr l).fuses = m.fuses := by
  simp [Mach.sixPut]
@[simp] theorem Mach.putPte_frame (m : Mach) (i : Nat) (e : Nat) : (Mach.putPte m i e).fuses = m.fuses := by
  simp [Mach.putPte]
@[simp] theorem Mach.pteFor_frame (m : Mach) (d : Nat) (i : Nat) : (Mach.pteFor m d i).2.mem = m.mem ∧ (Mach.pteFor m d i).2.fuses = m.fuses := by
  unfold Mach.pteFor
  refine ⟨?_, ?_⟩ <;> (repeat' (first | rfl | (simp; done) | split | (simp only []; split) | simp))
@[simp] theorem Mach.xlat_frame (m : Mach) (d : Nat) (s : Nat) (o : Nat) (write : Bool) : (Mach.xlat m d s o write).2.mem = m.mem ∧ (Mach.xlat m d s o write).2.fuses = m.fuses := by
  unfold Mach.xlat
  refine ⟨?_, ?_⟩ <;> (repeat' (first | rfl | (simp; done) | split | (simp only []; split) | simp))
@[simp] theorem Mach.xlAnswer_frame (m : Mach) (who : Nat) (x : Xl) : (Mach.xlAnswer m who x).mem = m.mem ∧ (Mach.xlAnswer m who x).fuses = m.fuses := by
  unfold Mach.xlAnswer
  refine ⟨?_, ?_⟩ <;> (repeat' (first | rfl | (simp; done) | split))
@[simp] theorem Mach.release__frame (m : Mach) (d : Nat) (v2 : List XlatHold) : (Mach.release_ m d v2).mem = m.mem ∧ (Mach.release_ m d v2).fuses = m.fuses := by
  induction v2 generalizing m <;> (repeat' (first | (simp_all [Mach.release_]; done) | split | (simp [Mach.release_]; split)))
@[simp] theorem Mach.rewritePte_frame (m : Mach) (i : Nat) (e : Nat) : (Mach.rewritePte m i e).fuses = m.fuses := by
  simp [Mach.rewritePte]
@[simp] theorem Mach.freeSlabs_frame (m : Mach) (codes : List Nat) : (Mach.freeSlabs m codes).mem = m.mem ∧ (Mach.freeSlabs m codes).fuses = m.fuses := ⟨rfl, rfl⟩
@[simp] theorem Mach.releasePage_frame (m : Mach) (t : Tensor) (page : Nat) : (Mach.releasePage m t page).fuses = m.fuses := by
  simp [Mach.releasePage]
@[simp] theorem Mach.releaseTensor_frame (m : Mach) (t : Tensor) : (Mach.releaseTensor m t).fuses = m.fuses := by
  simp [Mach.releaseTensor]
@[simp] theorem opOpComplete_frame (job : Nat) (op : Nat) (fl : Nat) (lost : Bool) (m : Mach) : (opOpComplete job op fl lost m).fuses = m.fuses := by
  unfold opOpComplete
  (repeat' (first | rfl | (simp; done) | split))
@[simp] theorem opTrapLatchClear_frame (u : TrapUnit) (m : Mach) : (opTrapLatchClear u m).mem = m.mem ∧ (opTrapLatchClear u m).fuses = m.fuses := by
  unfold opTrapLatchClear
  refine ⟨?_, ?_⟩ <;> (repeat' (first | rfl | (simp; done) | split))
@[simp] theorem opStewardTrapTake_frame (d : Nat) (u : TrapUnit) (m : Mach) : (opStewardTrapTake d u m).mem = m.mem ∧ (opStewardTrapTake d u m).fuses = m.fuses := by
  unfold opStewardTrapTake
  refine ⟨?_, ?_⟩ <;> (repeat' (first | rfl | (simp; done) | split | (simp only []; split) | simp))
@[simp] theorem opTrapRecordWrite_frame (job : Nat) (m : Mach) : (opTrapRecordWrite job m).mem = m.mem ∧ (opTrapRecordWrite job m).fuses = m.fuses := by
  unfold opTrapRecordWrite
  refine ⟨?_, ?_⟩ <;> (repeat' (first | rfl | (simp; done) | split))
@[simp] theorem opTrapJobEnd_frame (job : Nat) (m : Mach) : (opTrapJobEnd job m).mem = m.mem ∧ (opTrapJobEnd job m).fuses = m.fuses := by
  unfold opTrapJobEnd
  refine ⟨?_, ?_⟩ <;> (repeat' (first | rfl | (simp; done) | split))
@[simp] theorem Mach.setRequest_frame (m : Mach) (c : Nat) (on_ : Bool) : (Mach.setRequest m c on_).mem = m.mem ∧ (Mach.setRequest m c on_).fuses = m.fuses := by
  simp [Mach.setRequest]
@[simp] theorem Mach.setReserved_frame (m : Mach) (c : Nat) (on_ : Bool) : (Mach.setReserved m c on_).mem = m.mem ∧ (Mach.setReserved m c on_).fuses = m.fuses := by
  simp [Mach.setReserved]
@[simp] theorem Mach.testRequest_frame (m : Mach) (c : Nat) : (Mach.testRequest m c).mem = m.mem ∧ (Mach.testRequest m c).fuses = m.fuses := by
  simp [Mach.testRequest]
@[simp] theorem opReserveRequest_frame (c : Nat) (who : Nat) (m : Mach) : (opReserveRequest c who m).mem = m.mem ∧ (opReserveRequest c who m).fuses = m.fuses := by
  simp [opReserveRequest]
@[simp] theorem Mach.handBanks_frame (m : Mach) (c : Nat) (g : Nat) : (Mach.handBanks m c g).mem = m.mem ∧ (Mach.handBanks m c g).fuses = m.fuses := by
  simp [Mach.handBanks]
@[simp] theorem opReserveGrant_frame (c : Nat) (m : Mach) : (opReserveGrant c m).mem = m.mem ∧ (opReserveGrant c m).fuses = m.fuses := by
  simp [opReserveGrant]
@[simp] theorem Mach.ended_keeps (m : Mach) (r : EndReport) : (Mach.ended m r).mem = m.mem ∧ (Mach.ended m r).fuses = m.fuses := by
  unfold Mach.ended
  refine ⟨?_, ?_⟩ <;> (repeat' (first | rfl | (simp; done) | split))
@[simp] theorem opTileFlush_frame (t : Nat) (m : Mach) : (opTileFlush t m).mem = m.mem ∧ (opTileFlush t m).fuses = m.fuses := by
  simp [opTileFlush]
@[simp] theorem opTileCtrlRun_frame (t : Nat) (run : Bool) (m : Mach) : (opTileCtrlRun t run m).mem = m.mem ∧ (opTileCtrlRun t run m).fuses = m.fuses := by
  simp [opTileCtrlRun]
@[simp] theorem opVeFlush_frame (c : Nat) (m : Mach) : (opVeFlush c m).mem = m.mem ∧ (opVeFlush c m).fuses = m.fuses := by
  simp [opVeFlush]
@[simp] theorem opVeCtrlRun_frame (c : Nat) (run : Bool) (m : Mach) : (opVeCtrlRun c run m).mem = m.mem ∧ (opVeCtrlRun c run m).fuses = m.fuses := ⟨rfl, rfl⟩
@[simp] theorem Mach.flushCluster_frame (m : Mach) (c : Nat) : (Mach.flushCluster m c).mem = m.mem ∧ (Mach.flushCluster m c).fuses = m.fuses := by
  simp [Mach.flushCluster]
@[simp] theorem opReserveRelease_frame (c : Nat) (who : Nat) (m : Mach) : (opReserveRelease c who m).mem = m.mem ∧ (opReserveRelease c who m).fuses = m.fuses := by
  simp [opReserveRelease]
@[simp] theorem opReserveReturn_frame (c : Nat) (g : Nat) (m : Mach) : (opReserveReturn c g m).mem = m.mem ∧ (opReserveReturn c g m).fuses = m.fuses := by
  simp [opReserveReturn]
@[simp] theorem Mach.catchUp_frame (m : Mach) : (Mach.catchUp m).mem = m.mem ∧ (Mach.catchUp m).fuses = m.fuses := by
  simp [Mach.catchUp]
@[simp] theorem opAlmCtrlRun_frame (who : Nat) (run : Bool) (m : Mach) : (opAlmCtrlRun who run m).mem = m.mem ∧ (opAlmCtrlRun who run m).fuses = m.fuses := by
  simp [opAlmCtrlRun]
@[simp] theorem opBoot_frame (p : Nat) (m : Mach) : (opBoot p m).mem = m.mem ∧ (opBoot p m).fuses = m.fuses := by
  simp [opBoot]
@[simp] theorem Mach.fpEnd_frame (m : Mach) (p : Nat) (status : Nat) : (Mach.fpEnd m p status).mem = m.mem ∧ (Mach.fpEnd m p status).fuses = m.fuses := by
  unfold Mach.fpEnd
  refine ⟨?_, ?_⟩ <;> (repeat' (first | rfl | (simp; done) | split | (simp only []; split) | simp))
@[simp] theorem Mach.fpFail_frame (m : Mach) (p : Nat) (buf : Nat) (status : Nat) : (Mach.fpFail m p buf status).mem = m.mem ∧ (Mach.fpFail m p buf status).fuses = m.fuses := by
  simp [Mach.fpFail]
@[simp] theorem Mach.fpFlush_frame (m : Mach) (p : Nat) (v2 : Nat) : (Mach.fpFlush m p v2).fuses = m.fuses := by
  fun_induction Mach.fpFlush <;> simp_all
@[simp] theorem Mach.fpTap_frame (m : Mach) (p : Nat) (v2 : Nat) : (Mach.fpTap m p v2).mem = m.mem ∧ (Mach.fpTap m p v2).fuses = m.fuses := by
  fun_induction Mach.fpTap <;> simp_all
@[simp] theorem Mach.fpPump_frame (m : Mach) (p : Nat) : (Mach.fpPump m p).fuses = m.fuses := by
  simp [Mach.fpPump]
@[simp] theorem Mach.fpStart_frame (m : Mach) (p : Nat) (no : Nat) : (Mach.fpStart m p no).mem = m.mem ∧ (Mach.fpStart m p no).fuses = m.fuses := by
  simp [Mach.fpStart]
@[simp] theorem Mach.fpLine_frame (m : Mach) (p : Nat) (line : Nat) : (Mach.fpLine m p line).mem = m.mem ∧ (Mach.fpLine m p line).fuses = m.fuses := by
  unfold Mach.fpLine
  refine ⟨?_, ?_⟩ <;> (repeat' (first | rfl | (simp; done) | split | (simp only []; split) | simp))
@[simp] theorem Mach.fpData_frame (m : Mach) (p : Nat) (v : Nat) : (Mach.fpData m p v).fuses = m.fuses := by
  unfold Mach.fpData
  (repeat' (first | rfl | (simp; done) | split | (simp only []; split) | simp))
@[simp] theorem Mach.fpStop_frame (m : Mach) (p : Nat) (crc : Nat) : (Mach.fpStop m p crc).mem = m.mem ∧ (Mach.fpStop m p crc).fuses = m.fuses := by
  unfold Mach.fpStop
  refine ⟨?_, ?_⟩ <;> (repeat' (first | rfl | (simp; done) | split))
@[simp] theorem Mach.fpBlock_frame (m : Mach) (p : Nat) (n : Nat) (b : LnBlk) : (Mach.fpBlock m p n b).fuses = m.fuses := by
  unfold Mach.fpBlock
  (repeat' (first | rfl | (simp; done) | split))
@[simp] theorem Mach.laneDrop_frame (m : Mach) (n : Nat) : (Mach.laneDrop m n).mem = m.mem ∧ (Mach.laneDrop m n).fuses = m.fuses := ⟨rfl, rfl⟩
@[simp] theorem Mach.fpDrain_frame (m : Mach) (p : Nat) (v2 : Nat) : (Mach.fpDrain m p v2).fuses = m.fuses := by
  induction v2 generalizing m p <;> simp only [Mach.fpDrain] <;> (repeat' (first | rfl | (simp_all; done) | (refine ⟨?_, ?_⟩) | split | (refine ⟨(IH _ _).1.trans ?_, ?_⟩)))
@[simp] theorem Mach.fpArrive_frame (m : Mach) (p : Nat) (n : Nat) (b : LnBlk) : (Mach.fpArrive m p n b).fuses = m.fuses := by
  unfold Mach.fpArrive
  (repeat' (first | rfl | (simp; done) | split | intro _ | rw [foldl_mem] | rw [foldl_fuses] | rw [foldlFst_mem] | rw [foldlFst_fuses] | rw [foldlSnd_mem] | rw [foldlSnd_fuses] | (simp only []; split) | simp))
@[simp] theorem opTapLineReturn_frame (p : Nat) (data : List Byte) (shape : Bool) (m : Mach) : (opTapLineReturn p data shape m).fuses = m.fuses := by
  induction data generalizing m <;> (repeat' (first | (simp_all [opTapLineReturn]; done) | split | (simp [opTapLineReturn]; split)))
@[simp] theorem opFrameEvent_frame (p : Nat) (m0 : Mach) : (opFrameEvent p m0).fuses = m0.fuses := by
  have e : ∀ (m : Mach) (f : Nat) (q : Nat), (match fpEventFld f with
      | some fld => (m.ev fld q).cnt F.fpBad q 1
      | none => m).fuses = m.fuses := by
    intro m f q
    split <;> simp
  unfold opFrameEvent
  simp only []
  split
  · simp
  · split
    · simp
    · exact (Mach.fpPump_frame _ _).trans ((e _ _ _).trans (by simp))
@[simp] theorem Mach.fpRdWrite_frame (m : Mach) (p : Nat) (v : Nat) : (Mach.fpRdWrite m p v).mem = m.mem ∧ (Mach.fpRdWrite m p v).fuses = m.fuses := by
  simp [Mach.fpRdWrite]
@[simp] theorem opFpRdWrite_frame (p : Nat) (who : Nat) (v : Nat) (m : Mach) : (opFpRdWrite p who v m).mem = m.mem ∧ (opFpRdWrite p who v m).fuses = m.fuses := by
  simp [opFpRdWrite]
@[simp] theorem Mach.fpEn_frame (m : Mach) (p : Nat) (en : Bool) : (Mach.fpEn m p en).mem = m.mem ∧ (Mach.fpEn m p en).fuses = m.fuses := by
  simp [Mach.fpEn]
@[simp] theorem opFpCtrlEn_frame (p : Nat) (who : Nat) (en : Bool) (m : Mach) : (opFpCtrlEn p who en m).mem = m.mem ∧ (opFpCtrlEn p who en m).fuses = m.fuses := by
  simp [opFpCtrlEn]
@[simp] theorem Mach.lnLost_frame (m : Mach) (n : Nat) : (Mach.lnLost m n).mem = m.mem ∧ (Mach.lnLost m n).fuses = m.fuses := by
  unfold Mach.lnLost
  refine ⟨?_, ?_⟩ <;> (repeat' (first | rfl | (simp; done) | split | intro _ | rw [foldl_mem] | rw [foldl_fuses] | rw [foldlFst_mem] | rw [foldlFst_fuses] | rw [foldlSnd_mem] | rw [foldlSnd_fuses] | (simp only []; split) | simp))
@[simp] theorem Mach.lnGo_frame (m : Mach) (n : Nat) (st : Nat) : (Mach.lnGo m n st).mem = m.mem ∧ (Mach.lnGo m n st).fuses = m.fuses := by
  simp [Mach.lnGo]
@[simp] theorem Mach.lnBits_frame (m : Mach) (n : Nat) (blocks : List (Bool × Nat)) (bits : List Bool) : (Mach.lnBits m n blocks bits).mem = m.mem ∧ (Mach.lnBits m n blocks bits).fuses = m.fuses := ⟨rfl, rfl⟩
@[simp] theorem Mach.lnSend_frame (m : Mach) (n : Nat) (blocks : List (Bool × Nat)) : (Mach.lnSend m n blocks).mem = m.mem ∧ (Mach.lnSend m n blocks).fuses = m.fuses := ⟨rfl, rfl⟩
@[simp] theorem Mach.lnCaps_frame (m : Mach) (n : Nat) : (Mach.lnCaps m n).mem = m.mem ∧ (Mach.lnCaps m n).fuses = m.fuses := ⟨rfl, rfl⟩
@[simp] theorem Mach.lnStep_frame (m : Mach) (n : Nat) (target : Nat) : (Mach.lnStep m n target).mem = m.mem ∧ (Mach.lnStep m n target).fuses = m.fuses := by
  simp [Mach.lnStep]
@[simp] theorem Mach.lnPrecode_frame (m : Mach) (n : Nat) (rate : Nat) : (Mach.lnPrecode m n rate).mem = m.mem ∧ (Mach.lnPrecode m n rate).fuses = m.fuses := ⟨rfl, rfl⟩
@[simp] theorem Mach.lnTrain_frame (m : Mach) (n : Nat) (rate : Nat) : (Mach.lnTrain m n rate).mem = m.mem ∧ (Mach.lnTrain m n rate).fuses = m.fuses := by
  simp [Mach.lnTrain]
@[simp] theorem Mach.lnDetect_frame (m : Mach) (n : Nat) : (Mach.lnDetect m n).mem = m.mem ∧ (Mach.lnDetect m n).fuses = m.fuses := by
  simp [Mach.lnDetect]
@[simp] theorem Mach.lnEnable_frame (m : Mach) (n : Nat) : (Mach.lnEnable m n).mem = m.mem ∧ (Mach.lnEnable m n).fuses = m.fuses := by
  simp [Mach.lnEnable]
@[simp] theorem Mach.lnDisable_frame (m : Mach) (n : Nat) : (Mach.lnDisable m n).mem = m.mem ∧ (Mach.lnDisable m n).fuses = m.fuses := by
  simp [Mach.lnDisable]
@[simp] theorem Mach.lnRecal_frame (m : Mach) (n : Nat) : (Mach.lnRecal m n).mem = m.mem ∧ (Mach.lnRecal m n).fuses = m.fuses := by
  simp [Mach.lnRecal]
@[simp] theorem opLaneEnable_frame (n : Nat) (who : Nat) (m : Mach) : (opLaneEnable n who m).mem = m.mem ∧ (opLaneEnable n who m).fuses = m.fuses := by
  simp [opLaneEnable]
@[simp] theorem opLaneDisable_frame (n : Nat) (who : Nat) (m : Mach) : (opLaneDisable n who m).mem = m.mem ∧ (opLaneDisable n who m).fuses = m.fuses := by
  simp [opLaneDisable]
@[simp] theorem opLaneRecal_frame (n : Nat) (who : Nat) (m : Mach) : (opLaneRecal n who m).mem = m.mem ∧ (opLaneRecal n who m).fuses = m.fuses := by
  simp [opLaneRecal]
@[simp] theorem opRecalDone_frame (n : Nat) (m : Mach) : (opRecalDone n m).mem = m.mem ∧ (opRecalDone n m).fuses = m.fuses := by
  simp [opRecalDone]
@[simp] theorem opDetectPoll_frame (n : Nat) (found : Bool) (m : Mach) : (opDetectPoll n found m).mem = m.mem ∧ (opDetectPoll n found m).fuses = m.fuses := by
  simp [opDetectPoll]
@[simp] theorem opTrainSettled_frame (n : Nat) (loss : Nat) (m : Mach) : (opTrainSettled n loss m).mem = m.mem ∧ (opTrainSettled n loss m).fuses = m.fuses := by
  simp [opTrainSettled]
@[simp] theorem opBitLockHeld_frame (n : Nat) (m : Mach) : (opBitLockHeld n m).mem = m.mem ∧ (opBitLockHeld n m).fuses = m.fuses := by
  simp [opBitLockHeld]
@[simp] theorem Mach.lnHdr_frame (m : Mach) (n : Nat) (bad : Bool) : (Mach.lnHdr m n bad).mem = m.mem ∧ (Mach.lnHdr m n bad).fuses = m.fuses := by
  simp [Mach.lnHdr]
@[simp] theorem opBlockLockAcquired_frame (n : Nat) (m : Mach) : (opBlockLockAcquired n m).mem = m.mem ∧ (opBlockLockAcquired n m).fuses = m.fuses := by
  simp [opBlockLockAcquired]
@[simp] theorem opBlockLockLost_frame (n : Nat) (m : Mach) : (opBlockLockLost n m).mem = m.mem ∧ (opBlockLockLost n m).fuses = m.fuses := by
  simp [opBlockLockLost]
@[simp] theorem opBringupTimeout_frame (n : Nat) (m : Mach) : (opBringupTimeout n m).mem = m.mem ∧ (opBringupTimeout n m).fuses = m.fuses := by
  simp [opBringupTimeout]
@[simp] theorem opCapsTimeout_frame (n : Nat) (m : Mach) : (opCapsTimeout n m).mem = m.mem ∧ (opCapsTimeout n m).fuses = m.fuses := by
  simp [opCapsTimeout]
@[simp] theorem opStepQuietEnd_frame (n : Nat) (m : Mach) : (opStepQuietEnd n m).mem = m.mem ∧ (opStepQuietEnd n m).fuses = m.fuses := by
  simp [opStepQuietEnd]
@[simp] theorem opDownRestart_frame (n : Nat) (m : Mach) : (opDownRestart n m).mem = m.mem ∧ (opDownRestart n m).fuses = m.fuses := by
  simp [opDownRestart]
@[simp] theorem opLos_frame (n : Nat) (m : Mach) : (opLos n m).mem = m.mem ∧ (opLos n m).fuses = m.fuses := by
  simp [opLos]
@[simp] theorem Mach.lnLol_frame (m : Mach) (n : Nat) (ref : Bool) : (Mach.lnLol m n ref).mem = m.mem ∧ (Mach.lnLol m n ref).fuses = m.fuses := by
  simp [Mach.lnLol]
@[simp] theorem opLol_frame (n : Nat) (ref : Bool) (m : Mach) : (opLol n ref m).mem = m.mem ∧ (opLol n ref m).fuses = m.fuses := by
  simp [opLol]
@[simp] theorem opCapability_frame (n : Nat) (b : Nat) (m0 : Mach) : (opCapability n b m0).mem = m0.mem ∧ (opCapability n b m0).fuses = m0.fuses := by
  unfold opCapability
  refine ⟨?_, ?_⟩ <;> (repeat' (first | rfl | (simp; done) | split | (simp only []; split) | simp))
@[simp] theorem opStep_frame (n : Nat) (target : Nat) (m : Mach) : (opStep n target m).mem = m.mem ∧ (opStep n target m).fuses = m.fuses := by
  simp [opStep]
@[simp] theorem Mach.lnToFabric_frame (m : Mach) (n : Nat) (b : Bool × Nat) : (Mach.lnToFabric m n b).mem = m.mem ∧ (Mach.lnToFabric m n b).fuses = m.fuses := by
  simp [Mach.lnToFabric]
@[simp] theorem Mach.lnBlock_frame (m : Mach) (n : Nat) (b : LnBlk) : (Mach.lnBlock m n b).fuses = m.fuses := by
  unfold Mach.lnBlock
  (repeat' (first | rfl | (simp; done) | split))
@[simp] theorem Mach.lnGood_frame (m : Mach) (n : Nat) (b : LnBlk) : (Mach.lnGood m n b).fuses = m.fuses := by
  simp [Mach.lnGood]
@[simp] theorem opIdleBlock_frame (n : Nat) (m : Mach) : (opIdleBlock n m).mem = m.mem ∧ (opIdleBlock n m).fuses = m.fuses := by
  simp [opIdleBlock]
@[simp] theorem opAlignBlock_frame (n : Nat) (index : Nat) (size : Nat) (m : Mach) : (opAlignBlock n index size m).fuses = m.fuses := by
  simp [opAlignBlock]
@[simp] theorem Mach.rawRx_frame (m : Mach) (n : Nat) (v : Nat) : (Mach.rawRx m n v).mem = m.mem ∧ (Mach.rawRx m n v).fuses = m.fuses := by
  simp [Mach.rawRx]
@[simp] theorem opDataBlock_frame (n : Nat) (v : Nat) (bad : Bool) (errs : Nat) (m0 : Mach) : (opDataBlock n v bad errs m0).fuses = m0.fuses := by
  simp [opDataBlock]
@[simp] theorem opUser_frame (n : Nat) (v : Nat) (m : Mach) : (opUser n v m).fuses = m.fuses := by
  simp [opUser]
@[simp] theorem opFrameStart_frame (n : Nat) (no : Nat) (m : Mach) : (opFrameStart n no m).fuses = m.fuses := by
  simp [opFrameStart]
@[simp] theorem opLineStart_frame (n : Nat) (line : Nat) (m : Mach) : (opLineStart n line m).fuses = m.fuses := by
  simp [opLineStart]
@[simp] theorem opFrameEnd_frame (n : Nat) (crc : Nat) (m : Mach) : (opFrameEnd n crc m).fuses = m.fuses := by
  simp [opFrameEnd]
@[simp] theorem opRawSlip_frame (n : Nat) (m : Mach) : (opRawSlip n m).mem = m.mem ∧ (opRawSlip n m).fuses = m.fuses := by
  simp [opRawSlip]
@[simp] theorem opRxbTransfer_frame (n : Nat) (m : Mach) : (opRxbTransfer n m).mem = m.mem ∧ (opRxbTransfer n m).fuses = m.fuses := by
  simp [opRxbTransfer]
@[simp] theorem opTxbTransfer_frame (n : Nat) (bs : List (Bool × Nat)) (m : Mach) : (opTxbTransfer n bs m).mem = m.mem ∧ (opTxbTransfer n bs m).fuses = m.fuses := by
  simp [opTxbTransfer]
@[simp] theorem Mach.setCfgState_frame (m : Mach) (s : Nat) : (Mach.setCfgState m s).mem = m.mem ∧ (Mach.setCfgState m s).fuses = m.fuses := ⟨rfl, rfl⟩
@[simp] theorem Mach.ffHold_frame (m : Mach) (d : Nat) (r : Nat) : (Mach.ffHold m d r).mem = m.mem ∧ (Mach.ffHold m d r).fuses = m.fuses := ⟨rfl, rfl⟩
@[simp] theorem Mach.slStop_frame (m : Mach) (k : Nat) : (Mach.slStop m k).mem = m.mem ∧ (Mach.slStop m k).fuses = m.fuses := ⟨rfl, rfl⟩
@[simp] theorem Mach.rgnHold_frame (m : Mach) (d : Nat) (r : Nat) : (Mach.rgnHold m d r).mem = m.mem ∧ (Mach.rgnHold m d r).fuses = m.fuses := by
  simp [Mach.rgnHold]
@[simp] theorem Mach.rgnClear_frame (m : Mach) (d : Nat) (r : Nat) : (Mach.rgnClear m d r).mem = m.mem ∧ (Mach.rgnClear m d r).fuses = m.fuses := ⟨rfl, rfl⟩
@[simp] theorem Mach.dieHold_frame (m : Mach) (d : Nat) : (Mach.dieHold m d).mem = m.mem ∧ (Mach.dieHold m d).fuses = m.fuses := by
  simp [Mach.dieHold]
@[simp] theorem Mach.dieLanesOff_frame (m : Mach) (d : Nat) : (Mach.dieLanesOff m d).mem = m.mem ∧ (Mach.dieLanesOff m d).fuses = m.fuses := by
  simp [Mach.dieLanesOff]
@[simp] theorem Mach.dieClear_frame (m : Mach) (d : Nat) : (Mach.dieClear m d).mem = m.mem ∧ (Mach.dieClear m d).fuses = m.fuses := by
  simp [Mach.dieClear]
@[simp] theorem Mach.cfgError_frame (m : Mach) (code : Nat) (fail : Nat) : (Mach.cfgError m code fail).mem = m.mem ∧ (Mach.cfgError m code fail).fuses = m.fuses := ⟨rfl, rfl⟩
@[simp] theorem Mach.cfgDrop_frame (m : Mach) : (Mach.cfgDrop m).mem = m.mem ∧ (Mach.cfgDrop m).fuses = m.fuses := ⟨rfl, rfl⟩
@[simp] theorem Mach.cfgAbortWith_frame (m : Mach) (code : Nat) (fail : Nat) : (Mach.cfgAbortWith m code fail).mem = m.mem ∧ (Mach.cfgAbortWith m code fail).fuses = m.fuses := by
  unfold Mach.cfgAbortWith
  refine ⟨?_, ?_⟩ <;> (repeat' (first | rfl | (simp; done) | split))
@[simp] theorem Mach.setIr_frame (m : Mach) (code : Nat) : (Mach.setIr m code).mem = m.mem ∧ (Mach.setIr m code).fuses = m.fuses := by
  simp [Mach.setIr]
@[simp] theorem opTapReset_frame (m : Mach) : (opTapReset m).mem = m.mem ∧ (opTapReset m).fuses = m.fuses := ⟨rfl, rfl⟩
@[simp] theorem Mach.scan_frame (m : Mach) (code : Nat) (shift : Nat) (pins : Nat) : (Mach.scan m code shift pins).mem = m.mem ∧ (Mach.scan m code shift pins).fuses = m.fuses := by
  simp [Mach.scan]
@[simp] theorem opExtest_frame (shift : Nat) (pins : Nat) (m : Mach) : (opExtest shift pins m).mem = m.mem ∧ (opExtest shift pins m).fuses = m.fuses := by
  simp [opExtest]
@[simp] theorem opSamplePreload_frame (shift : Nat) (pins : Nat) (m : Mach) : (opSamplePreload shift pins m).mem = m.mem ∧ (opSamplePreload shift pins m).fuses = m.fuses := by
  simp [opSamplePreload]
@[simp] theorem opIdcode_frame (m : Mach) : (opIdcode m).mem = m.mem ∧ (opIdcode m).fuses = m.fuses := by
  simp [opIdcode]
@[simp] theorem opClamp_frame (m : Mach) : (opClamp m).mem = m.mem ∧ (opClamp m).fuses = m.fuses := by
  simp [opClamp]
@[simp] theorem opHighz_frame (m : Mach) : (opHighz m).mem = m.mem ∧ (opHighz m).fuses = m.fuses := by
  simp [opHighz]
@[simp] theorem opBypass_frame (code : Nat) (m : Mach) : (opBypass code m).mem = m.mem ∧ (opBypass code m).fuses = m.fuses := by
  simp [opBypass]
@[simp] theorem Mach.takeBits_frame (m : Mach) (enter : Bool) (wide : Bool) (n : Nat) (v : Nat) : (Mach.takeBits m enter wide n v).mem = m.mem ∧ (Mach.takeBits m enter wide n v).fuses = m.fuses := by
  simp [Mach.takeBits]
@[simp] theorem opCfgLoad_frame (enter : Bool) (bits : List Bool) (m : Mach) : (opCfgLoad enter bits m).mem = m.mem ∧ (opCfgLoad enter bits m).fuses = m.fuses := by
  simp [opCfgLoad]
@[simp] theorem opCfgWide_frame (enter : Bool) (hs : List Nat) (m : Mach) : (opCfgWide enter hs m).mem = m.mem ∧ (opCfgWide enter hs m).fuses = m.fuses := by
  simp [opCfgWide]
@[simp] theorem opRetry_frame (bits : List Bool) (m : Mach) : (opRetry bits m).mem = m.mem ∧ (opRetry bits m).fuses = m.fuses := by
  simp [opRetry]
@[simp] theorem opCfgStatus_frame (m : Mach) : (opCfgStatus m).mem = m.mem ∧ (opCfgStatus m).fuses = m.fuses := by
  simp [opCfgStatus]
@[simp] theorem opCfgAbort_frame (m : Mach) : (opCfgAbort m).mem = m.mem ∧ (opCfgAbort m).fuses = m.fuses := by
  simp [opCfgAbort]
@[simp] theorem Mach.acceptFull_frame (m : Mach) (h : CfgHdr) : (Mach.acceptFull m h).mem = m.mem ∧ (Mach.acceptFull m h).fuses = m.fuses := by
  simp [Mach.acceptFull]
@[simp] theorem Mach.acceptPart_frame (m : Mach) (h : CfgHdr) : (Mach.acceptPart m h).mem = m.mem ∧ (Mach.acceptPart m h).fuses = m.fuses := by
  simp [Mach.acceptPart]
@[simp] theorem Mach.refuseHeader_frame (m : Mach) (code : Nat) (fail : Nat) : (Mach.refuseHeader m code fail).mem = m.mem ∧ (Mach.refuseHeader m code fail).fuses = m.fuses := by
  simp [Mach.refuseHeader]
@[simp] theorem opStreamHeader_frame (m : Mach) : (opStreamHeader m).mem = m.mem ∧ (opStreamHeader m).fuses = m.fuses := by
  unfold opStreamHeader
  refine ⟨?_, ?_⟩ <;> (repeat' (first | rfl | (simp; done) | split | (simp only []; split) | simp))
@[simp] theorem Mach.putFrame_frame (m : Mach) (a : Nat) (data : Nat) (resent : Bool) : (Mach.putFrame m a data resent).mem = m.mem ∧ (Mach.putFrame m a data resent).fuses = m.fuses := ⟨rfl, rfl⟩
@[simp] theorem opConfigFrame_frame (m : Mach) : (opConfigFrame m).mem = m.mem ∧ (opConfigFrame m).fuses = m.fuses := by
  unfold opConfigFrame
  split
  · exact ⟨rfl, rfl⟩
  · dsimp only
    split
    · exact ⟨rfl, rfl⟩
    · split
      · split
        · exact ⟨rfl, rfl⟩
        · split
          · simp
          · split <;> simp
      · split
        · split <;> simp
        · split <;> simp
@[simp] theorem opFrameVerified_frame (m : Mach) : (opFrameVerified m).mem = m.mem ∧ (opFrameVerified m).fuses = m.fuses := by
  unfold opFrameVerified
  refine ⟨?_, ?_⟩ <;> (repeat' (first | rfl | (simp; done) | split))
@[simp] theorem opGapTimeout_frame (m : Mach) : (opGapTimeout m).mem = m.mem ∧ (opGapTimeout m).fuses = m.fuses := by
  simp [opGapTimeout]
@[simp] theorem opTckBackstop_frame (m : Mach) : (opTckBackstop m).mem = m.mem ∧ (opTckBackstop m).fuses = m.fuses := by
  simp [opTckBackstop]
@[simp] theorem Mach.cfgFields_frame (m : Mach) (d : Nat) (r : Nat) (type : Nat) (base : Nat) (n : Nat) (v6 : Nat) (v7 : List (Fld × Nat)) : (Mach.cfgFields m d r type base n v6 v7).mem = m.mem ∧ (Mach.cfgFields m d r type base n v6 v7).fuses = m.fuses := by
  fun_induction Mach.cfgFields <;> simp_all
@[simp] theorem Mach.pllEnable_frame (m : Mach) (d : Nat) (v : Nat) : (Mach.pllEnable m d v).mem = m.mem ∧ (Mach.pllEnable m d v).fuses = m.fuses := by
  simp [Mach.pllEnable]
@[simp] theorem Mach.startClocks_frame (m : Mach) (d : Nat) (r : Nat) : (Mach.startClocks m d r).mem = m.mem ∧ (Mach.startClocks m d r).fuses = m.fuses := by
  simp [Mach.startClocks]
@[simp] theorem Mach.startPll_frame (m : Mach) (d : Nat) : (Mach.startPll m d).mem = m.mem ∧ (Mach.startPll m d).fuses = m.fuses := by
  simp [Mach.startPll]
@[simp] theorem Mach.slRun_frame (m : Mach) (k : Nat) (run : Bool) : (Mach.slRun m k run).mem = m.mem ∧ (Mach.slRun m k run).fuses = m.fuses := by
  simp [Mach.slRun]
@[simp] theorem Mach.startSlice_frame (m : Mach) (d : Nat) (r : Nat) (j : Nat) (s : Nat) : (Mach.startSlice m d r j s).mem = m.mem ∧ (Mach.startSlice m d r j s).fuses = m.fuses := by
  simp [Mach.startSlice]
@[simp] theorem Mach.startSlices_frame (m : Mach) (d : Nat) (r : Nat) (v3 : Nat) (v4 : List Nat) : (Mach.startSlices m d r v3 v4).mem = m.mem ∧ (Mach.startSlices m d r v3 v4).fuses = m.fuses := by
  fun_induction Mach.startSlices <;> simp_all
@[simp] theorem Mach.openFnis_frame (m : Mach) (d : Nat) (r : Nat) (v3 : Nat) (v4 : List Nat) : (Mach.openFnis m d r v3 v4).mem = m.mem ∧ (Mach.openFnis m d r v3 v4).fuses = m.fuses := by
  fun_induction Mach.openFnis <;> simp_all
@[simp] theorem Mach.startFences_frame (m : Mach) (d : Nat) (r : Nat) : (Mach.startFences m d r).mem = m.mem ∧ (Mach.startFences m d r).fuses = m.fuses := by
  simp [Mach.startFences]
@[simp] theorem Mach.startPin_frame (m : Mach) (d : Nat) (r : Nat) (b : Nat) (i : Nat) (c : Nat) : (Mach.startPin m d r b i c).mem = m.mem ∧ (Mach.startPin m d r b i c).fuses = m.fuses := by
  simp [Mach.startPin]
@[simp] theorem Mach.startBank_frame (m : Mach) (d : Nat) (r : Nat) (b : Nat) (vio : List Nat) (loads : List (Nat × Nat × Nat)) : (Mach.startBank m d r b vio loads).mem = m.mem ∧ (Mach.startBank m d r b vio loads).fuses = m.fuses := by
  simp [Mach.startBank]
@[simp] theorem Mach.startIo_frame (m : Mach) (vio : List Nat) (loads : List (Nat × Nat × Nat)) (d : Nat) (r : Nat) : (Mach.startIo m vio loads d r).mem = m.mem ∧ (Mach.startIo m vio loads d r).fuses = m.fuses := by
  simp [Mach.startIo]
@[simp] theorem Mach.startRegions_frame (m : Mach) (rs : List (Nat × Nat)) (vio : List Nat) (loads : List (Nat × Nat × Nat)) : (Mach.startRegions m rs vio loads).mem = m.mem ∧ (Mach.startRegions m rs vio loads).fuses = m.fuses := by
  unfold Mach.startRegions
  refine ⟨?_, ?_⟩ <;> (repeat' (first | rfl | (simp; done) | split | intro _ | rw [foldl_mem] | rw [foldl_fuses] | rw [foldlFst_mem] | rw [foldlFst_fuses] | rw [foldlSnd_mem] | rw [foldlSnd_fuses] | (simp only []; split) | simp))
@[simp] theorem Mach.dieHand_frame (m : Mach) (d : Nat) : (Mach.dieHand m d).mem = m.mem ∧ (Mach.dieHand m d).fuses = m.fuses := by
  simp [Mach.dieHand]
@[simp] theorem opConfigStartup_frame (vio : List Nat) (loads : List (Nat × Nat × Nat)) (m : Mach) : (opConfigStartup vio loads m).mem = m.mem ∧ (opConfigStartup vio loads m).fuses = m.fuses := by
  unfold opConfigStartup
  refine ⟨?_, ?_⟩ <;> (repeat' (first | rfl | (simp; done) | split))
@[simp] theorem opPartialRegionStart_frame (vio : List Nat) (loads : List (Nat × Nat × Nat)) (m : Mach) : (opPartialRegionStart vio loads m).mem = m.mem ∧ (opPartialRegionStart vio loads m).fuses = m.fuses := by
  unfold opPartialRegionStart
  refine ⟨?_, ?_⟩ <;> (repeat' (first | rfl | (simp; done) | split))
@[simp] theorem opHarvestSel_frame (sel : Nat) (m0 : Mach) : (opHarvestSel sel m0).mem = m0.mem ∧ (opHarvestSel sel m0).fuses = m0.fuses := by
  simp [opHarvestSel]
@[simp] theorem opHarvest_frame (m0 : Mach) : (opHarvest m0).mem = m0.mem ∧ (opHarvest m0).fuses = m0.fuses := by
  unfold opHarvest
  refine ⟨?_, ?_⟩ <;> (repeat' (first | rfl | (simp; done) | split | (simp only []; split) | simp))
@[simp] theorem Mach.loadRetired_frame (m : Mach) (d : Nat) : (Mach.loadRetired m d).mem = m.mem ∧ (Mach.loadRetired m d).fuses = m.fuses := by
  simp [Mach.loadRetired]
@[simp] theorem Mach.nearRefuse_frame (m : Mach) (d : Nat) (say : Nat) (who : Nat) : (Mach.nearRefuse m d say who).mem = m.mem ∧ (Mach.nearRefuse m d say who).fuses = m.fuses := by
  simp [Mach.nearRefuse]
@[simp] theorem Mach.setWaits_frame (m : Mach) (l : List NearWait) : (Mach.setWaits m l).mem = m.mem ∧ (Mach.setWaits m l).fuses = m.fuses := ⟨rfl, rfl⟩
@[simp] theorem opNearBurstRead_frame (who : Nat) (addr : Nat) (crcBad : Bool) (m : Mach) : (opNearBurstRead who addr crcBad m).mem = m.mem ∧ (opNearBurstRead who addr crcBad m).fuses = m.fuses := by
  unfold opNearBurstRead
  refine ⟨?_, ?_⟩ <;> (repeat' (first | rfl | (simp; done) | split))
@[simp] theorem opNearBurstWrite_frame (who : Nat) (addr : Nat) (data : List Byte) (en : List Bool) (crcBad : Bool) (m : Mach) : (opNearBurstWrite who addr data en crcBad m).fuses = m.fuses := by
  unfold opNearBurstWrite
  (repeat' (first | rfl | (simp; done) | split))
@[simp] theorem Mach.nearDrain_frame (m : Mach) (v1 : List NearWait) (v2 : List NearWait) : (Mach.nearDrain m v1 v2).fuses = m.fuses := by
  fun_induction Mach.nearDrain <;> simp_all
@[simp] theorem opNearReread_frame (d : Nat) (crcBad : Bool) (m : Mach) : (opNearReread d crcBad m).fuses = m.fuses := by
  unfold opNearReread
  (repeat' (first | rfl | (simp; done) | (simp_all; done) | split | (simp only []; split) | (dsimp only; split)))
@[simp] theorem Mach.nearHot_frame (m : Mach) (d : Nat) : (Mach.nearHot m d).mem = m.mem ∧ (Mach.nearHot m d).fuses = m.fuses := by
  simp [Mach.nearHot]
@[simp] theorem opNearRefresh_frame (d : Nat) (h : Nat) (m : Mach) : (opNearRefresh d h m).mem = m.mem ∧ (opNearRefresh d h m).fuses = m.fuses := by
  simp [opNearRefresh]
@[simp] theorem opNearHotRestore_frame (d : Nat) (m : Mach) : (opNearHotRestore d m).mem = m.mem ∧ (opNearHotRestore d m).fuses = m.fuses := by
  simp [opNearHotRestore]
@[simp] theorem opPacketInject_frame (who : Nat) (r : NetReq) (m : Mach) : (opPacketInject who r m).mem = m.mem ∧ (opPacketInject who r m).fuses = m.fuses := by
  unfold opPacketInject
  refine ⟨?_, ?_⟩ <;> (repeat' (first | rfl | (simp; done) | split))
@[simp] theorem opIngressRelookup_frame (d : Nat) (q : Nat) (net : Nat) (m : Mach) : (opIngressRelookup d q net m).mem = m.mem ∧ (opIngressRelookup d q net m).fuses = m.fuses := by
  unfold opIngressRelookup
  refine ⟨?_, ?_⟩ <;> (repeat' (first | rfl | (simp; done) | split | (simp only []; split) | simp))
@[simp] theorem opUrgencyRise_frame (d : Nat) (net : Nat) (n : Nat) (input : Nat) (i : Nat) (m : Mach) : (opUrgencyRise d net n input i m).mem = m.mem ∧ (opUrgencyRise d net n input i m).fuses = m.fuses := by
  unfold opUrgencyRise
  refine ⟨?_, ?_⟩ <;> (repeat' (first | rfl | (simp; done) | split | (simp only []; split) | simp))
@[simp] theorem Mach.nocOn_frame (m : Mach) (d : Nat) : (Mach.nocOn m d).mem = m.mem ∧ (Mach.nocOn m d).fuses = m.fuses := by
  simp [Mach.nocOn]
@[simp] theorem opResponseArrive_frame (die : Nat) (port : Nat) (m : Mach) : (opResponseArrive die port m).mem = m.mem ∧ (opResponseArrive die port m).fuses = m.fuses := by
  unfold opResponseArrive
  refine ⟨?_, ?_⟩ <;> (repeat' (first | rfl | (simp; done) | split | (simp only []; split) | simp))
@[simp] theorem opRequestTimeout_frame (die : Nat) (port : Nat) (txn : Nat) (m : Mach) : (opRequestTimeout die port txn m).mem = m.mem ∧ (opRequestTimeout die port txn m).fuses = m.fuses := by
  unfold opRequestTimeout
  refine ⟨?_, ?_⟩ <;> (repeat' (first | rfl | (simp; done) | split | (simp only []; split) | simp))
@[simp] theorem opBridgeRetry_frame (d : Nat) (link : Nat) (m : Mach) : (opBridgeRetry d link m).mem = m.mem ∧ (opBridgeRetry d link m).fuses = m.fuses := by
  unfold opBridgeRetry
  refine ⟨?_, ?_⟩ <;> (repeat' (first | rfl | (simp; done) | split | (simp only []; split) | simp))
@[simp] theorem opNocCtrlRun_frame (d : Nat) (who : Nat) (run : Bool) (m : Mach) : (opNocCtrlRun d who run m).mem = m.mem ∧ (opNocCtrlRun d who run m).fuses = m.fuses := by
  simp [opNocCtrlRun]
@[simp] theorem Mach.traceRun_frame (m : Mach) (d : Nat) (run : Bool) : (Mach.traceRun m d run).mem = m.mem ∧ (Mach.traceRun m d run).fuses = m.fuses := by
  simp [Mach.traceRun]
@[simp] theorem opTraceRunWrite_frame (d : Nat) (who : Nat) (run : Bool) (m : Mach) : (opTraceRunWrite d who run m).mem = m.mem ∧ (opTraceRunWrite d who run m).fuses = m.fuses := by
  simp [opTraceRunWrite]
@[simp] theorem opTraceWrite_frame (d : Nat) (m : Mach) : (opTraceWrite d m).mem = m.mem ∧ (opTraceWrite d m).fuses = m.fuses := by
  unfold opTraceWrite
  refine ⟨?_, ?_⟩ <;> (repeat' (first | rfl | (simp; done) | split | (simp only []; split) | simp))
@[simp] theorem Mach.lostA_frame (m : Mach) (c : Nat) (i : Nat) : (Mach.lostA m c i).mem = m.mem ∧ (Mach.lostA m c i).fuses = m.fuses := ⟨rfl, rfl⟩
@[simp] theorem Mach.readAccess_frame (m : Mach) (c : Nat) (w : BankWho) (cws : List Nat) : (Mach.readAccess m c w cws).2.mem = m.mem ∧ (Mach.readAccess m c w cws).2.fuses = m.fuses := by
  unfold Mach.readAccess
  refine ⟨?_, ?_⟩ <;> (repeat' (first | rfl | (simp; done) | split | (simp only []; split) | simp))
@[simp] theorem Mach.readEach_frame (m : Mach) (c : Nat) (w : BankWho) (cws : List Nat) : (Mach.readEach m c w cws).2.mem = m.mem ∧ (Mach.readEach m c w cws).2.fuses = m.fuses := by
  simp [Mach.readEach]
@[simp] theorem Mach.readWords_frame (m : Mach) (c : Nat) (w : BankWho) (cws : List Nat) : (Mach.readWords m c w cws).2.2.mem = m.mem ∧ (Mach.readWords m c w cws).2.2.fuses = m.fuses := by
  induction cws generalizing m <;> (repeat' (first | (simp_all [Mach.readWords]; done) | split | (simp [Mach.readWords]; split)))
@[simp] theorem Mach.readSpan_frame (m : Mach) (c : Nat) (w : BankWho) (o : Nat) (n : Nat) : (Mach.readSpan m c w o n).2.2.mem = m.mem ∧ (Mach.readSpan m c w o n).2.2.fuses = m.fuses := by
  simp [Mach.readSpan]
@[simp] theorem Mach.putSlot_frame (m : Mach) (s : Nat) (e : Nat) : (Mach.putSlot m s e).fuses = m.fuses := by
  simp [Mach.putSlot]
@[simp] theorem opTranslate_frame (d : Nat) (who : Nat) (s : Nat) (o : Nat) (write : Bool) (m : Mach) : (opTranslate d who s o write m).mem = m.mem ∧ (opTranslate d who s o write m).fuses = m.fuses := by
  unfold opTranslate
  refine ⟨?_, ?_⟩ <;> (repeat' (first | rfl | (simp; done) | split | (simp only []; split) | simp))
@[simp] theorem Mach.placeTensor_frame (m : Mach) (t : Tensor) (p : TenPlace) : (Mach.placeTensor m t p).fuses = m.fuses := by
  simp [Mach.placeTensor]
@[simp] theorem opPlanLoad_frame (places : List TenPlace) (m : Mach) : (opPlanLoad places m).fuses = m.fuses := by
  unfold opPlanLoad
  (repeat' (first | rfl | (simp; done) | split | (simp only []; split) | simp))
theorem freePlan_keeps (m : Mach) (l : List Tensor) (g : Tensor → List Nat) :
    (l.foldl (fun m t => (g t).foldl (fun m i => m.putPte i 0) (m.putSlot t.slot 0)) m).fuses = m.fuses :=
  foldl_fuses _ l m (fun s t => (foldl_fuses _ (g t) (s.putSlot t.slot 0) (fun s i => Mach.putPte_frame s i 0)).trans (Mach.putSlot_frame s t.slot 0))
@[simp] theorem Mach.freePlan_frame (m : Mach) (p : Plan) : (Mach.freePlan m p).fuses = m.fuses := freePlan_keeps m p.tensors (fun t => upFrom t.ptBase (pagesOf t.bytes))
@[simp] theorem opPlanUnload_frame (m : Mach) : (opPlanUnload m).fuses = m.fuses := by
  unfold opPlanUnload
  (repeat' (first | rfl | (simp; done) | split))
@[simp] theorem Mach.setLost_frame (m : Mach) (t : Tensor) (lost : Bool) : (Mach.setLost m t lost).fuses = m.fuses := by
  simp [Mach.setLost]
@[simp] theorem opTensorWrite_frame (m : Mach) : (opTensorWrite m).fuses = m.fuses := by
  unfold opTensorWrite
  split
  · rfl
  · split
    · simp
    · split
      · simp
      · simp only []
        split
        · rfl
        · split
          · simp
          · split
            · rfl
            · rename_i h
              have g := Mach.writeTensor_frame _ _ _ _ _ h
              split <;> simpa using g
@[simp] theorem opTensorRead_frame (m : Mach) : (opTensorRead m).mem = m.mem ∧ (opTensorRead m).fuses = m.fuses := by
  unfold opTensorRead
  split
  · exact ⟨rfl, rfl⟩
  · split
    · simp
    · split
      · split
        · simp
        · split
          · exact ⟨rfl, rfl⟩
          · rename_i h
            have g := Mach.readTensor_frame _ _ _ _ h
            split <;> simpa using g
      · simp only []
        split
        · exact ⟨rfl, rfl⟩
        · simp
@[simp] theorem Mach.setTensor_frame (m : Mach) (p : Plan) (x : Tensor) : (Mach.setTensor m p x).mem = m.mem ∧ (Mach.setTensor m p x).fuses = m.fuses := ⟨rfl, rfl⟩
@[simp] theorem opMigrationStart_frame (slot : Nat) (page : Nat) (tier : Nat) (loc : Nat) (codes : List Nat) (tag : Nat) (m : Mach) : (opMigrationStart slot page tier loc codes tag m).fuses = m.fuses := by
  unfold opMigrationStart
  (repeat' (first | rfl | (simp; done) | split))
@[simp] theorem opInvalidate_frame (d : Nat) (slot : Nat) (page : Nat) (m : Mach) : (opInvalidate d slot page m).mem = m.mem ∧ (opInvalidate d slot page m).fuses = m.fuses := by
  unfold opInvalidate
  refine ⟨?_, ?_⟩ <;> (repeat' (first | rfl | (simp; done) | split))
@[simp] theorem Mach.setHome_frame (m : Mach) (p : Plan) (t : Tensor) (page : Nat) (x : PageLoc) : (Mach.setHome m p t page x).mem = m.mem ∧ (Mach.setHome m p t page x).fuses = m.fuses := ⟨rfl, rfl⟩
theorem migrationFinish_keeps (m : Mach) (c : Prop) [Decidable c] (addr : Nat → Nat) (l : List Byte) (i e : Nat) (up : Mach → Mach) (ds : List Nat)
    (hold : Nat → Mach → List XlatHold) (h : ∀ m, (up m).fuses = m.fuses) :
    (ds.foldl (fun m d => m.release_ d (hold d m)) (up ((if c then m.sixPut addr l else m).putPte i e))).fuses = m.fuses := by
  refine (foldl_fuses _ ds _ (fun s d => (Mach.release__frame s d _).2)).trans ((h _).trans ((Mach.putPte_frame _ _ _).trans ?_))
  split
  · exact Mach.sixPut_frame _ _ _
  · rfl
@[simp] theorem opMigrationFinish_frame (slot : Nat) (page : Nat) (m : Mach) : (opMigrationFinish slot page m).fuses = m.fuses := by
  unfold opMigrationFinish
  (repeat' (first | rfl | (simp; done) | split))
@[simp] theorem Mach.evacBurst_frame (m : Mach) (src : Nat) (back : Nat) (dst : Nat) (hasBack : Bool) : (Mach.evacBurst m src back dst hasBack).2.fuses = m.fuses := by
  unfold Mach.evacBurst
  (repeat' (first | rfl | (simp; done) | split | (simp only []; split) | simp))
@[simp] theorem Mach.evacBursts_frame (m : Mach) (src : Nat) (back : Nat) (dst : Nat) (hasBack : Bool) (v5 : Nat) : (Mach.evacBursts m src back dst hasBack v5).2.fuses = m.fuses := by
  induction v5 generalizing m src back dst with
  | zero => rfl
  | succ k ih => simp [Mach.evacBursts, ih]
@[simp] theorem Mach.flagPlan_frame (m : Mach) (p : Plan) (fl : Nat) : (Mach.flagPlan m p fl).mem = m.mem ∧ (Mach.flagPlan m p fl).fuses = m.fuses := ⟨rfl, rfl⟩
@[simp] theorem Mach.evacTable_frame (m : Mach) (d : Nat) (page : Nat) (dst : PagePick) : (Mach.evacTable m d page dst).fuses = m.fuses := by
  simp [Mach.evacTable]
@[simp] theorem opEvacuation_frame (slot : Nat) (page : Nat) (dst : PagePick) (m : Mach) : (opEvacuation slot page dst m).fuses = m.fuses := by
  unfold opEvacuation
  (repeat' (first | rfl | (simp; done) | split | (simp only []; split) | simp))
@[simp] theorem opTrainStepTimeout_frame (ch : Nat) (noWindow : Bool) (m : Mach) : (opTrainStepTimeout ch noWindow m).fuses = m.fuses := by
  unfold opTrainStepTimeout
  (repeat' (first | rfl | (simp; done) | split | (simp only []; split) | simp))
@[simp] theorem opPmCmdEnqueue_frame (d : Nat) (k : Nat) (who : Nat) (w3 : Nat) (m : Mach) : (opPmCmdEnqueue d k who w3 m).mem = m.mem ∧ (opPmCmdEnqueue d k who w3 m).fuses = m.fuses := by
  simp [opPmCmdEnqueue]
@[simp] theorem opPmCmdHeldRelease_frame (d : Nat) (k : Nat) (m : Mach) : (opPmCmdHeldRelease d k m).mem = m.mem ∧ (opPmCmdHeldRelease d k m).fuses = m.fuses := by
  unfold opPmCmdHeldRelease
  refine ⟨?_, ?_⟩ <;> (repeat' (first | rfl | (simp; done) | split | (simp only []; split) | simp))
@[simp] theorem Mach.moveBursts_frame (m : Mach) (d : Nat) (who : Nat) (src : Nat) (dst : Nat) (v5 : Nat) (v6 : Nat) : (Mach.moveBursts m d who src dst v5 v6).2.fuses = m.fuses := by
  induction v5 generalizing m d who src dst v6 <;> simp only [Mach.moveBursts] <;> (repeat' (first | rfl | (simp_all; done) | (refine ⟨?_, ?_⟩) | split | (refine ⟨(IH _ _).1.trans ?_, ?_⟩)))
@[simp] theorem opPmCmdEnd_frame (d : Nat) (k : Nat) (m : Mach) : (opPmCmdEnd d k m).fuses = m.fuses := by
  unfold opPmCmdEnd
  (repeat' (first | rfl | (simp; done) | split | (simp only []; split) | simp))
@[simp] theorem Mach.alert_frame (m : Mach) (code : Nat) (tag : Nat) : (Mach.alert m code tag).mem = m.mem ∧ (Mach.alert m code tag).fuses = m.fuses := by
  simp [Mach.alert]
@[simp] theorem Mach.flowEnds_frame (m : Mach) : (Mach.flowEnds m).mem = m.mem ∧ (Mach.flowEnds m).fuses = m.fuses := by
  simp [Mach.flowEnds]
@[simp] theorem Mach.heatSeen_frame (m : Mach) : (Mach.heatSeen m).mem = m.mem ∧ (Mach.heatSeen m).fuses = m.fuses := by
  unfold Mach.heatSeen
  refine ⟨?_, ?_⟩ <;> (repeat' (first | rfl | (simp; done) | split))
@[simp] theorem Mach.putRails_frame (m : Mach) (v1 : Nat) (v2 : List (Nat × Nat)) : (Mach.putRails m v1 v2).mem = m.mem ∧ (Mach.putRails m v1 v2).fuses = m.fuses := by
  fun_induction Mach.putRails <;> simp_all
@[simp] theorem Mach.putTemps_frame (m : Mach) (v1 : Nat) (v2 : List Nat) : (Mach.putTemps m v1 v2).mem = m.mem ∧ (Mach.putTemps m v1 v2).fuses = m.fuses := by
  fun_induction Mach.putTemps <;> simp_all
@[simp] theorem Mach.alertFirst_frame (m : Mach) (code : Nat) (v2 : List Nat) : (Mach.alertFirst m code v2).mem = m.mem ∧ (Mach.alertFirst m code v2).fuses = m.fuses := by
  unfold Mach.alertFirst
  refine ⟨?_, ?_⟩ <;> (repeat' (first | rfl | (simp; done) | split))
@[simp] theorem Mach.inletMax_frame (m : Mach) (start : Bool) : (Mach.inletMax m start).mem = m.mem ∧ (Mach.inletMax m start).fuses = m.fuses := by
  simp [Mach.inletMax]
@[simp] theorem Mach.sampled_frame (m : Mach) (rails : List (Nat × Nat)) (temps : List Nat) (start : Bool) : (Mach.sampled m rails temps start).mem = m.mem ∧ (Mach.sampled m rails temps start).fuses = m.fuses := by
  simp [Mach.sampled]
@[simp] theorem Mach.dropQueued_frame (m : Mach) : (Mach.dropQueued m).mem = m.mem ∧ (Mach.dropQueued m).fuses = m.fuses := by
  simp [Mach.dropQueued]
@[simp] theorem Mach.coreLost_frame (m : Mach) : (Mach.coreLost m).mem = m.mem ∧ (Mach.coreLost m).fuses = m.fuses := ⟨rfl, rfl⟩
@[simp] theorem Mach.latchPins_frame (m : Mach) : (Mach.latchPins m).mem = m.mem ∧ (Mach.latchPins m).fuses = m.fuses := ⟨rfl, rfl⟩
@[simp] theorem Mach.lanesDown_frame (m : Mach) : (Mach.lanesDown m).mem = m.mem ∧ (Mach.lanesDown m).fuses = m.fuses := by
  simp [Mach.lanesDown]
@[simp] theorem Mach.nap_frame (m : Mach) : (Mach.nap m).mem = m.mem ∧ (Mach.nap m).fuses = m.fuses := by
  simp [Mach.nap]
@[simp] theorem opTileRepairWrite_frame (t : Nat) (data : Nat) (m : Mach) : (opTileRepairWrite t data m).mem = m.mem ∧ (opTileRepairWrite t data m).fuses = m.fuses := by
  simp [opTileRepairWrite]
@[simp] theorem Mach.tileSetUp_frame (m : Mach) (t : Nat) : (Mach.tileSetUp m t).mem = m.mem ∧ (Mach.tileSetUp m t).fuses = m.fuses := by
  simp [Mach.tileSetUp]
@[simp] theorem Mach.tilesSetUp_frame (m : Mach) : (Mach.tilesSetUp m).mem = m.mem ∧ (Mach.tilesSetUp m).fuses = m.fuses := by
  simp [Mach.tilesSetUp]
@[simp] theorem Mach.pllsStart_frame (m : Mach) (failed : List (Nat × Nat)) : (Mach.pllsStart m failed).mem = m.mem ∧ (Mach.pllsStart m failed).fuses = m.fuses := by
  simp [Mach.pllsStart]
@[simp] theorem Mach.putRoute_frame (m : Mach) (d : Nat) (q : Nat) (i : Nat) (mch : Nat) (mask : Nat) (hops : List Nat) : (Mach.putRoute m d q i mch mask hops).mem = m.mem ∧ (Mach.putRoute m d q i mch mask hops).fuses = m.fuses := ⟨rfl, rfl⟩
@[simp] theorem Mach.routesOf_frame (m : Mach) (d : Nat) (q : Nat) : (Mach.routesOf m d q).mem = m.mem ∧ (Mach.routesOf m d q).fuses = m.fuses := by
  simp [Mach.routesOf]
@[simp] theorem Mach.nocStart_frame (m : Mach) : (Mach.nocStart m).mem = m.mem ∧ (Mach.nocStart m).fuses = m.fuses := by
  simp [Mach.nocStart]
@[simp] theorem Mach.nearStart_frame (m : Mach) (failed : List Nat) : (Mach.nearStart m failed).mem = m.mem ∧ (Mach.nearStart m failed).fuses = m.fuses := by
  unfold Mach.nearStart
  refine ⟨?_, ?_⟩ <;> (repeat' (first | rfl | (simp; done) | split | intro _ | rw [foldl_mem] | rw [foldl_fuses] | rw [foldlFst_mem] | rw [foldlFst_fuses] | rw [foldlSnd_mem] | rw [foldlSnd_fuses] | (simp only []; split) | simp))
@[simp] theorem Mach.farStart_frame (m : Mach) (failed : List (Nat × Nat × Bool)) : (Mach.farStart m failed).mem = m.mem ∧ (Mach.farStart m failed).fuses = m.fuses := by
  unfold Mach.farStart
  refine ⟨?_, ?_⟩ <;> (repeat' (first | rfl | (simp; done) | split | intro _ | rw [foldl_mem] | rw [foldl_fuses] | rw [foldlFst_mem] | rw [foldlFst_fuses] | rw [foldlSnd_mem] | rw [foldlSnd_fuses] | (simp only []; split) | simp))
@[simp] theorem Mach.banksStart_frame (m : Mach) : (Mach.banksStart m).fuses = m.fuses := rfl
@[simp] theorem Mach.runStart_frame (m : Mach) : (Mach.runStart m).mem = m.mem ∧ (Mach.runStart m).fuses = m.fuses := by
  simp [Mach.runStart]
@[simp] theorem Mach.reports_frame (m : Mach) : (Mach.reports m).mem = m.mem ∧ (Mach.reports m).fuses = m.fuses := by
  unfold Mach.reports
  refine ⟨?_, ?_⟩ <;> (repeat' (first | rfl | (simp; done) | split | (simp only []; split) | simp))
theorem chain_keeps (m : Mach) (c : Prop) [Decidable c] (f1 f2 f3 f4 f5 f6 f7 : Mach → Mach) (h1 : ∀ m, (f1 m).fuses = m.fuses) (h2 : ∀ m, (f2 m).fuses = m.fuses)
    (h3 : ∀ m, (f3 m).fuses = m.fuses) (h4 : ∀ m, (f4 m).fuses = m.fuses) (h5 : ∀ m, (f5 m).fuses = m.fuses) (h6 : ∀ m, (f6 m).fuses = m.fuses)
    (h7 : ∀ m, (f7 m).fuses = m.fuses) : (if c then m else f7 (f6 (f5 (f4 (f3 (f2 (f1 m))))))).fuses = m.fuses := by
  split
  · rfl
  · rw [h7, h6, h5, h4, h3, h2, h1]
@[simp] theorem opStartupSequence_frame (rails : List (Nat × Nat)) (temps : List Nat) (plls : List (Nat × Nat)) (nears : List Nat) (fars : List (Nat × Nat × Bool)) (m : Mach) : (opStartupSequence rails temps plls nears fars m).fuses = m.fuses := by
  unfold opStartupSequence
  exact chain_keeps m _ (fun m => (m.reports.sampled rails temps true).pllsStart plls) (fun m => m.nearStart nears) (fun m => m.farStart fars) Mach.nocStart
    Mach.tilesSetUp Mach.banksStart (fun m => m.runStart.setPow { m.runStart.pow with started := true }) (fun m => by simp) (fun m => by simp) (fun m => by simp)
    (fun m => by simp) (fun m => by simp) Mach.banksStart_frame (fun m => by simp)
@[simp] theorem Mach.recordWake_frame (m : Mach) (mask : Nat) : (Mach.recordWake m mask).mem = m.mem ∧ (Mach.recordWake m mask).fuses = m.fuses := by
  simp [Mach.recordWake]
@[simp] theorem Mach.stewardsResume_frame (m : Mach) : (Mach.stewardsResume m).mem = m.mem ∧ (Mach.stewardsResume m).fuses = m.fuses := by
  simp [Mach.stewardsResume]
@[simp] theorem Mach.lanesBack_frame (m : Mach) : (Mach.lanesBack m).mem = m.mem ∧ (Mach.lanesBack m).fuses = m.fuses := by
  simp [Mach.lanesBack]
@[simp] theorem Mach.restored_frame (m : Mach) : (Mach.restored m).mem = m.mem ∧ (Mach.restored m).fuses = m.fuses := by
  simp [Mach.restored]
@[simp] theorem Mach.reqResult_frame (m : Mach) (kind : Nat) (code : Nat) : (Mach.reqResult m kind code).mem = m.mem ∧ (Mach.reqResult m kind code).fuses = m.fuses := ⟨rfl, rfl⟩
@[simp] theorem opSetState_frame (state : Nat) (wake : Nat) (ms : Nat) (m : Mach) : (opSetState state wake ms m).mem = m.mem ∧ (opSetState state wake ms m).fuses = m.fuses := by
  simp [opSetState]
@[simp] theorem opSetCap_frame (limit : Nat) (nMax : Nat) (m : Mach) : (opSetCap limit nMax m).mem = m.mem ∧ (opSetCap limit nMax m).fuses = m.fuses := by
  simp [opSetCap]
@[simp] theorem Mach.releaseBanks_frame (m : Mach) (banks : Nat) : (Mach.releaseBanks m banks).mem = m.mem ∧ (Mach.releaseBanks m banks).fuses = m.fuses := by
  simp [Mach.releaseBanks]
@[simp] theorem opReleaseHold_frame (banks : Nat) (m : Mach) : (opReleaseHold banks m).mem = m.mem ∧ (opReleaseHold banks m).fuses = m.fuses := by
  simp [opReleaseHold]
@[simp] theorem opIoHoldRelease_frame (who : Nat) (banks : Nat) (m : Mach) : (opIoHoldRelease who banks m).mem = m.mem ∧ (opIoHoldRelease who banks m).fuses = m.fuses := by
  simp [opIoHoldRelease]
@[simp] theorem opCapWindowEnd_frame (watts : Nat) (m0 : Mach) : (opCapWindowEnd watts m0).mem = m0.mem ∧ (opCapWindowEnd watts m0).fuses = m0.fuses := by
  simp [opCapWindowEnd]
@[simp] theorem opPllLockLost_frame (d : Nat) (i : Nat) (m : Mach) : (opPllLockLost d i m).mem = m.mem ∧ (opPllLockLost d i m).fuses = m.fuses := by
  simp [opPllLockLost]
@[simp] theorem opPllLockReturn_frame (d : Nat) (i : Nat) (m : Mach) : (opPllLockReturn d i m).mem = m.mem ∧ (opPllLockReturn d i m).fuses = m.fuses := by
  simp [opPllLockReturn]
@[simp] theorem opPllEnable_frame (d : Nat) (who : Nat) (v : Nat) (m : Mach) : (opPllEnable d who v m).mem = m.mem ∧ (opPllEnable d who v m).fuses = m.fuses := by
  simp [opPllEnable]
@[simp] theorem opRailPowerUp_frame (m : Mach) : (opRailPowerUp m).mem = m.mem ∧ (opRailPowerUp m).fuses = m.fuses := by
  simp [opRailPowerUp]
@[simp] theorem opI2cWrite_frame (bytes : List Nat) (m : Mach) : (opI2cWrite bytes m).mem = m.mem ∧ (opI2cWrite bytes m).fuses = m.fuses := by
  unfold opI2cWrite
  refine ⟨?_, ?_⟩ <;> (repeat' (first | rfl | (simp; done) | split | intro _ | rw [foldl_mem] | rw [foldl_fuses] | rw [foldlFst_mem] | rw [foldlFst_fuses] | rw [foldlSnd_mem] | rw [foldlSnd_fuses] | (simp only []; split) | simp))
@[simp] theorem opI2cRead_frame (m : Mach) : (opI2cRead m).mem = m.mem ∧ (opI2cRead m).fuses = m.fuses := ⟨rfl, rfl⟩
@[simp] theorem Mach.takeFld_frame (m : Mach) (stopped : Bool) (data : Nat) (hwSet : Nat) (x : Fld × Nat) : (Mach.takeFld m stopped data hwSet x).mem = m.mem ∧ (Mach.takeFld m stopped data hwSet x).fuses = m.fuses := by
  unfold Mach.takeFld
  refine ⟨?_, ?_⟩ <;> (repeat' (first | rfl | (simp; done) | split | (simp only []; split) | simp))
@[simp] theorem Mach.putFld_frame (m : Mach) (die : Nat) (o : Nat) (data : Nat) (hwSet : Nat) (x : Fld × Nat) : (Mach.putFld m die o data hwSet x).mem = m.mem ∧ (Mach.putFld m die o data hwSet x).fuses = m.fuses := by
  unfold Mach.putFld
  refine ⟨?_, ?_⟩ <;> (repeat' (first | rfl | (simp; done) | split | (simp only []; split) | simp))
@[simp] theorem Mach.putWord_frame (m : Mach) (die : Nat) (o : Nat) (data : Nat) (hwSet : Nat) : (Mach.putWord m die o data hwSet).mem = m.mem ∧ (Mach.putWord m die o data hwSet).fuses = m.fuses := by
  simp [Mach.putWord]
@[simp] theorem Mach.retireCount_frame (m : Mach) (d : Nat) (before : Nat) (o : Nat) : (Mach.retireCount m d before o).mem = m.mem ∧ (Mach.retireCount m d before o).fuses = m.fuses := ⟨rfl, rfl⟩
@[simp] theorem Mach.writeSpread_frame (m : Mach) (d : Nat) (data : Nat) : (Mach.writeSpread m d data).mem = m.mem ∧ (Mach.writeSpread m d data).fuses = m.fuses := by
  simp [Mach.writeSpread]
@[simp] theorem Mach.writeLanes_frame (m : Mach) (d : Nat) (x : Nat) (o : Nat) (data : Nat) (hw : Nat) : (Mach.writeLanes m d x o data hw).mem = m.mem ∧ (Mach.writeLanes m d x o data hw).fuses = m.fuses := by
  simp [Mach.writeLanes]
@[simp] theorem Mach.writeMbCommon_frame (m : Mach) (die : Nat) (o : Nat) (who : Nat) (data : Nat) (hw : Nat) : (Mach.writeMbCommon m die o who data hw).mem = m.mem ∧ (Mach.writeMbCommon m die o who data hw).fuses = m.fuses := by
  unfold Mach.writeMbCommon
  refine ⟨?_, ?_⟩ <;> (repeat' (first | rfl | (simp; done) | split))
theorem writeReserve_keeps (m : Mach) (who lo : Nat) (l : List Nat) (c d : Nat → Prop) [DecidablePred c] [DecidablePred d] :
    (l.foldl (fun m i => if c i then m else (m.via who (if d i then opReserveRequest (lo + i) who else opReserveRelease (lo + i) who)).2) m).mem = m.mem ∧
    (l.foldl (fun m i => if c i then m else (m.via who (if d i then opReserveRequest (lo + i) who else opReserveRelease (lo + i) who)).2) m).fuses = m.fuses := by
  have v : ∀ (m : Mach) (c : Prop) [Decidable c] (i : Nat), (m.via who (if c then opReserveRequest i who else opReserveRelease i who)).2.mem = m.mem ∧
      (m.via who (if c then opReserveRequest i who else opReserveRelease i who)).2.fuses = m.fuses := by
    intro m c _ i
    split <;> simp [Mach.via]
  constructor
  · refine foldl_mem _ _ _ (fun m i => ?_)
    by_cases hc : c i
    · rw [if_pos hc]
    · rw [if_neg hc]; exact (v m (d i) _).1
  · refine foldl_fuses _ _ _ (fun m i => ?_)
    by_cases hc : c i
    · rw [if_pos hc]
    · rw [if_neg hc]; exact (v m (d i) _).2
@[simp] theorem Mach.writeReserve_frame (m : Mach) (who : Nat) (lo : Nat) (n : Nat) (data : Nat) : (Mach.writeReserve m who lo n data).mem = m.mem ∧ (Mach.writeReserve m who lo n data).fuses = m.fuses :=
  writeReserve_keeps m who lo (upFrom 0 n) (fun i => bitOf i data = bitOf i (if lo = 0 then m.rd F.almReserveLo kp else m.rd F.almReserveHi kp)) (fun i => bitOf i data = true)
@[simp] theorem opReadClear_frame (who : Nat) (addr : Nat) (events : Nat) (m : Mach) : (opReadClear who addr events m).mem = m.mem ∧ (opReadClear who addr events m).fuses = m.fuses := by
  unfold opReadClear
  refine ⟨?_, ?_⟩ <;> (repeat' (first | rfl | (simp; done) | split | (simp only []; split) | simp))
@[simp] theorem opRegRead_frame (addr : Nat) (tag : Nat) (m : Mach) : (opRegRead addr tag m).mem = m.mem ∧ (opRegRead addr tag m).fuses = m.fuses := by
  unfold opRegRead
  refine ⟨?_, ?_⟩ <;> (repeat' (first | rfl | (simp; done) | split | (simp only []; split) | simp))
@[simp] theorem Mach.netSettle_frame (m : Mach) : (Mach.netSettle m).mem = m.mem ∧ (Mach.netSettle m).fuses = m.fuses := by
  unfold Mach.netSettle
  refine ⟨?_, ?_⟩ <;> (repeat' (first | rfl | (simp; done) | split))
@[simp] theorem Mach.writeRecord_frame (m : Mach) (f : RepairRec → RepairRec) : (Mach.writeRecord m f).mem = m.mem ∧ (Mach.writeRecord m f).fuses = m.fuses := by
  unfold Mach.writeRecord
  refine ⟨?_, ?_⟩ <;> (repeat' (first | rfl | (simp; done) | (simp_all; done) | split | (simp only []; split) | (dsimp only; split)))
@[simp] theorem Mach.retireBank_frame (m : Mach) (b : Nat) : (Mach.retireBank m b).mem = m.mem ∧ (Mach.retireBank m b).fuses = m.fuses := by
  simp [Mach.retireBank]
@[simp] theorem Mach.marchFail_frame (m : Mach) (c : Nat) (b : Nat) (w : Nat) (lane : Nat) (op : Nat) : (Mach.marchFail m c b w lane op).mem = m.mem ∧ (Mach.marchFail m c b w lane op).fuses = m.fuses := by
  simp [Mach.marchFail]
@[simp] theorem Mach.marchRead_frame (m : Mach) (c : Nat) (b : Nat) (w : Nat) (want : List Byte) (op : Nat) : (Mach.marchRead m c b w want op).mem = m.mem ∧ (Mach.marchRead m c b w want op).fuses = m.fuses := by
  unfold Mach.marchRead
  refine ⟨?_, ?_⟩ <;> (repeat' (first | rfl | (simp; done) | split | (simp only []; split) | simp))
@[simp] theorem Mach.marchWrite_frame (m : Mach) (c : Nat) (b : Nat) (w : Nat) (v : List Byte) : (Mach.marchWrite m c b w v).fuses = m.fuses := by
  simp [Mach.marchWrite]
@[simp] theorem Mach.marchOps_frame (m : Mach) (c : Nat) (b : Nat) (w : Nat) (bg : Nat) (save : List Byte) (op : Nat) (v7 : List (Bool × Bool)) : (Mach.marchOps m c b w bg save op v7).fuses = m.fuses := by
  fun_induction Mach.marchOps <;> simp_all
@[simp] theorem Mach.marchStatus_frame (m : Mach) (c : Nat) (b : Nat) (st : Nat) : (Mach.marchStatus m c b st).mem = m.mem ∧ (Mach.marchStatus m c b st).fuses = m.fuses := by
  simp [Mach.marchStatus]
@[simp] theorem Mach.marchReach_frame (m : Mach) (c : Nat) (v2 : List Nat) : (Mach.marchReach m c v2).mem = m.mem ∧ (Mach.marchReach m c v2).fuses = m.fuses := by
  fun_induction Mach.marchReach <;> simp_all
@[simp] theorem Mach.marchBankEnd_frame (m : Mach) (c : Nat) (st : Nat) : (Mach.marchBankEnd m c st).mem = m.mem ∧ (Mach.marchBankEnd m c st).fuses = m.fuses := by
  unfold Mach.marchBankEnd
  refine ⟨?_, ?_⟩ <;> (repeat' (first | rfl | (simp; done) | split))
theorem undefineWord_keeps (m : Mach) (a n : Nat) (d : List Byte) (g : Mach → Nat → Mach) (l : List Nat) (h : ∀ m i, (g m i).fuses = m.fuses) :
    ({ l.foldl g (m.putBytes a d) with free := n } : Mach).fuses = m.fuses :=
  (foldl_fuses g l _ h).trans (Mach.putBytes_frame m a d)
@[simp] theorem Mach.undefineWord_frame (m : Mach) (a : Nat) : (Mach.undefineWord m a).fuses = m.fuses := by
  delta Mach.undefineWord
  exact undefineWord_keeps m _ _ _ (fun m i => m.setLaneBad _ _) _ (fun m i => Mach.setLaneBad_fuses m _ _)
@[simp] theorem Mach.undefineWords_frame (m : Mach) (b : Nat) (w : Nat) (n : Nat) : (Mach.undefineWords m b w n).fuses = m.fuses :=
  foldl_fuses _ (upFrom w n) m (fun s i => Mach.undefineWord_frame s _)
@[simp] theorem Mach.marchEarly_frame (m : Mach) (c : Nat) : (Mach.marchEarly m c).fuses = m.fuses := by
  unfold Mach.marchEarly
  dsimp only
  split
  · rfl
  · split
    · rw [Mach.wr_fuses, Mach.wr_fuses, Mach.undefineWords_frame]
    · rfl
@[simp] theorem opMarchGo_frame (c : Nat) (who : Nat) (data : Nat) (m : Mach) : (opMarchGo c who data m).mem = m.mem ∧ (opMarchGo c who data m).fuses = m.fuses := by
  simp [opMarchGo]
@[simp] theorem Mach.marchElem_frame (m : Mach) (c : Nat) (b : Nat) (lo : Nat) (n : Nat) (save : List (List Byte)) : (Mach.marchElem m c b lo n save).1.fuses = m.fuses := by
  simp [Mach.marchElem]
@[simp] theorem Mach.marchLost_frame (m : Mach) (c : Nat) : (Mach.marchLost m c).mem = m.mem ∧ (Mach.marchLost m c).fuses = m.fuses := ⟨rfl, rfl⟩
@[simp] theorem opMarchTransfer_frame (c : Nat) (upset : List Nat) (m : Mach) : (opMarchTransfer c upset m).fuses = m.fuses := by
  unfold opMarchTransfer
  (repeat' (first | rfl | (simp; done) | split | intro _ | rw [foldl_mem] | rw [foldl_fuses] | rw [foldlFst_mem] | rw [foldlFst_fuses] | rw [foldlSnd_mem] | rw [foldlSnd_fuses] | (simp only []; split) | simp))
@[simp] theorem opMarchAbort_frame (c : Nat) (who : Nat) (m : Mach) : (opMarchAbort c who m).fuses = m.fuses := by
  unfold opMarchAbort
  (repeat' (first | rfl | (simp; done) | split | intro _ | rw [foldl_mem] | rw [foldl_fuses] | rw [foldlFst_mem] | rw [foldlFst_fuses] | rw [foldlSnd_mem] | rw [foldlSnd_fuses] | (simp only []; split) | simp))
@[simp] theorem opTileFenceWrite_frame (t : Nat) (who : Nat) (on_ : Bool) (m : Mach) : (opTileFenceWrite t who on_ m).mem = m.mem ∧ (opTileFenceWrite t who on_ m).fuses = m.fuses := by
  simp [opTileFenceWrite]
@[simp] theorem opTileSelftestGo_frame (t : Nat) (who : Nat) (useRepair : Bool) (m : Mach) : (opTileSelftestGo t who useRepair m).mem = m.mem ∧ (opTileSelftestGo t who useRepair m).fuses = m.fuses := by
  simp [opTileSelftestGo]
@[simp] theorem opTileSelftestEnd_frame (t : Nat) (rows : Nat) (junction : Bool) (m : Mach) : (opTileSelftestEnd t rows junction m).mem = m.mem ∧ (opTileSelftestEnd t rows junction m).fuses = m.fuses := by
  simp [opTileSelftestEnd]
@[simp] theorem Mach.retireTile_frame (m : Mach) (t : Nat) : (Mach.retireTile m t).mem = m.mem ∧ (Mach.retireTile m t).fuses = m.fuses := ⟨rfl, rfl⟩
@[simp] theorem opTileRetire_frame (t : Nat) (m : Mach) : (opTileRetire t m).mem = m.mem ∧ (opTileRetire t m).fuses = m.fuses := by
  simp [opTileRetire]
@[simp] theorem opRepairAssign_frame (t : Nat) (m : Mach) : (opRepairAssign t m).mem = m.mem ∧ (opRepairAssign t m).fuses = m.fuses := by
  unfold opRepairAssign
  refine ⟨?_, ?_⟩ <;> (repeat' (first | rfl | (simp; done) | split | (simp only []; split) | simp))
@[simp] theorem Mach.slPend_frame (m : Mach) (k : Nat) (j : Nat) : (Mach.slPend m k j).mem = m.mem ∧ (Mach.slPend m k j).fuses = m.fuses := ⟨rfl, rfl⟩
@[simp] theorem Mach.slEv_frame (m : Mach) (k : Nat) (f : Fld) : (Mach.slEv m k f).mem = m.mem ∧ (Mach.slEv m k f).fuses = m.fuses := by
  simp [Mach.slEv]
@[simp] theorem Mach.slPass_frame (m : Mach) (k : Nat) (n : Nat) : (Mach.slPass m k n).mem = m.mem ∧ (Mach.slPass m k n).fuses = m.fuses := by
  unfold Mach.slPass
  refine ⟨?_, ?_⟩ <;> (repeat' (first | rfl | (simp; done) | split | (simp only []; split) | simp))
@[simp] theorem Mach.slUntil_frame (m : Mach) (k : Nat) (c : Nat) : (Mach.slUntil m k c).mem = m.mem ∧ (Mach.slUntil m k c).fuses = m.fuses := by
  simp [Mach.slUntil]
@[simp] theorem Mach.slRing_frame (m : Mach) (k : Nat) (before : Bool) : (Mach.slRing m k before).mem = m.mem ∧ (Mach.slRing m k before).fuses = m.fuses := by
  simp [Mach.slRing]
@[simp] theorem Mach.soft_frame (m : Mach) (f : Fld) (p : Nat) (v : Nat) : (Mach.soft m f p v).mem = m.mem ∧ (Mach.soft m f p v).fuses = m.fuses := by
  simp [Mach.soft]
@[simp] theorem Mach.slCtlPut_frame (m : Mach) (k : Nat) (i : Nat) (v : Nat) : (Mach.slCtlPut m k i v).mem = m.mem ∧ (Mach.slCtlPut m k i v).fuses = m.fuses := by
  simp [Mach.slCtlPut]
@[simp] theorem Mach.slCtlWr_frame (m : Mach) (k : Nat) (i : Nat) (v : Nat) : (Mach.slCtlWr m k i v).mem = m.mem ∧ (Mach.slCtlWr m k i v).fuses = m.fuses := by
  simp [Mach.slCtlWr]
@[simp] theorem Mach.slWrapCi_frame (m : Mach) (k : Nat) (c : Nat) (v : Int) : (Mach.slWrapCi m k c v).2.mem = m.mem ∧ (Mach.slWrapCi m k c v).2.fuses = m.fuses := by
  unfold Mach.slWrapCi
  refine ⟨?_, ?_⟩ <;> (repeat' (first | rfl | (simp; done) | split | (simp only []; split) | simp))
@[simp] theorem opSlBundleIssue_frame (k : Nat) (up : Bool) (m : Mach) : (opSlBundleIssue k up m).mem = m.mem ∧ (opSlBundleIssue k up m).fuses = m.fuses := by
  simp [opSlBundleIssue]
@[simp] theorem clearEvents_frame (m : Mach) (k : Nat) (mask : Nat) : (clearEvents m k mask).mem = m.mem ∧ (clearEvents m k mask).fuses = m.fuses := by
  simp [clearEvents]
@[simp] theorem Mach.slLand_frame (m : Mach) (k : Nat) (r : SlRes) : (Mach.slLand m k r).mem = m.mem ∧ (Mach.slLand m k r).fuses = m.fuses := by
  unfold Mach.slLand
  refine ⟨?_, ?_⟩ <;> (repeat' (first | rfl | (simp; done) | split))
@[simp] theorem opSlResultLand_frame (k : Nat) (m : Mach) : (opSlResultLand k m).mem = m.mem ∧ (opSlResultLand k m).fuses = m.fuses := by
  unfold opSlResultLand
  refine ⟨?_, ?_⟩ <;> (repeat' (first | rfl | (simp; done) | split | (simp only []; split) | simp))
@[simp] theorem Mach.slRes_frame (m : Mach) (k : Nat) (b : SlIssued) (slot : Nat) (lat : Nat) (w : SlWhat) : (Mach.slRes m k b slot lat w).mem = m.mem ∧ (Mach.slRes m k b slot lat w).fuses = m.fuses := ⟨rfl, rfl⟩
@[simp] theorem Mach.slFlag_frame (m : Mach) (k : Nat) (f : Fld) (sat : Bool) : (Mach.slFlag m k f sat).mem = m.mem ∧ (Mach.slFlag m k f sat).fuses = m.fuses := by
  simp [Mach.slFlag]
@[simp] theorem Mach.slMul_frame (m : Mach) (k : Nat) (b : SlIssued) (neg : Bool) (conj : Bool) (zero : Bool) (norm : Bool) : (Mach.slMul m k b neg conj zero norm).mem = m.mem ∧ (Mach.slMul m k b neg conj zero norm).fuses = m.fuses := ⟨rfl, rfl⟩
@[simp] theorem opSlMac_frame (k : Nat) (m : Mach) : (opSlMac k m).mem = m.mem ∧ (opSlMac k m).fuses = m.fuses := by
  simp [opSlMac]
@[simp] theorem opSlMacc_frame (k : Nat) (m : Mach) : (opSlMacc k m).mem = m.mem ∧ (opSlMacc k m).fuses = m.fuses := by
  simp [opSlMacc]
@[simp] theorem opSlMsu_frame (k : Nat) (m : Mach) : (opSlMsu k m).mem = m.mem ∧ (opSlMsu k m).fuses = m.fuses := by
  simp [opSlMsu]
@[simp] theorem opSlMacz_frame (k : Nat) (m : Mach) : (opSlMacz k m).mem = m.mem ∧ (opSlMacz k m).fuses = m.fuses := by
  simp [opSlMacz]
@[simp] theorem opSlAclr_frame (k : Nat) (m : Mach) : (opSlAclr k m).mem = m.mem ∧ (opSlAclr k m).fuses = m.fuses := by
  simp [opSlAclr]
@[simp] theorem opSlMacn_frame (k : Nat) (m : Mach) : (opSlMacn k m).mem = m.mem ∧ (opSlMacn k m).fuses = m.fuses := by
  simp [opSlMacn]
@[simp] theorem Mach.slPtrStep_frame (m : Mach) (k : Nat) (b : SlIssued) (i : Nat) : (Mach.slPtrStep m k b i).mem = m.mem ∧ (Mach.slPtrStep m k b i).fuses = m.fuses := ⟨rfl, rfl⟩
@[simp] theorem Mach.slCircStep_frame (m : Mach) (k : Nat) (b : SlIssued) (i : Nat) : (Mach.slCircStep m k b i).mem = m.mem ∧ (Mach.slCircStep m k b i).fuses = m.fuses := by
  simp [Mach.slCircStep]
@[simp] theorem Mach.slLoad_frame (m : Mach) (k : Nat) (b : SlIssued) (w : Nat) (x : Nat) (up : Bool) : (Mach.slLoad m k b w x up).mem = m.mem ∧ (Mach.slLoad m k b w x up).fuses = m.fuses := by
  simp [Mach.slLoad]
@[simp] theorem Mach.slStore_frame (m : Mach) (k : Nat) (b : SlIssued) (w : Nat) (x : Nat) : (Mach.slStore m k b w x).mem = m.mem ∧ (Mach.slStore m k b w x).fuses = m.fuses := ⟨rfl, rfl⟩
@[simp] theorem opSlLp_frame (k : Nat) (up : Bool) (m : Mach) : (opSlLp k up m).mem = m.mem ∧ (opSlLp k up m).fuses = m.fuses := by
  simp [opSlLp]
@[simp] theorem opSlLc_frame (k : Nat) (up : Bool) (m : Mach) : (opSlLc k up m).mem = m.mem ∧ (opSlLc k up m).fuses = m.fuses := by
  simp [opSlLc]
@[simp] theorem opSlLpc_frame (k : Nat) (up : Bool) (upC : Bool) (m : Mach) : (opSlLpc k up upC m).mem = m.mem ∧ (opSlLpc k up upC m).fuses = m.fuses := by
  simp [opSlLpc]
@[simp] theorem opSlSp_frame (k : Nat) (m : Mach) : (opSlSp k m).mem = m.mem ∧ (opSlSp k m).fuses = m.fuses := by
  simp [opSlSp]
@[simp] theorem opSlSc_frame (k : Nat) (m : Mach) : (opSlSc k m).mem = m.mem ∧ (opSlSc k m).fuses = m.fuses := by
  simp [opSlSc]
@[simp] theorem opSlLcsp_frame (k : Nat) (up : Bool) (m : Mach) : (opSlLcsp k up m).mem = m.mem ∧ (opSlLcsp k up m).fuses = m.fuses := by
  simp [opSlLcsp]
@[simp] theorem Mach.slPut_frame (m : Mach) (k : Nat) (b : SlIssued) (lat : Nat) (x : Nat) (v : Nat) : (Mach.slPut m k b lat x v).mem = m.mem ∧ (Mach.slPut m k b lat x v).fuses = m.fuses := ⟨rfl, rfl⟩
@[simp] theorem opSlHalt_frame (k : Nat) (m : Mach) : (opSlHalt k m).mem = m.mem ∧ (opSlHalt k m).fuses = m.fuses := by
  simp [opSlHalt]
@[simp] theorem opSlWait_frame (k : Nat) (m : Mach) : (opSlWait k m).mem = m.mem ∧ (opSlWait k m).fuses = m.fuses := by
  simp [opSlWait]
@[simp] theorem Mach.slSwap_frame (m : Mach) (k : Nat) (shadow : Bool) (pc : Nat) : (Mach.slSwap m k shadow pc).mem = m.mem ∧ (Mach.slSwap m k shadow pc).fuses = m.fuses := by
  simp [Mach.slSwap]
@[simp] theorem opSlReti_frame (k : Nat) (m : Mach) : (opSlReti k m).mem = m.mem ∧ (opSlReti k m).fuses = m.fuses := by
  simp [opSlReti]
@[simp] theorem Mach.slJump_frame (m : Mach) (k : Nat) (b : SlIssued) (t : Nat) : (Mach.slJump m k b t).mem = m.mem ∧ (Mach.slJump m k b t).fuses = m.fuses := by
  simp [Mach.slJump]
@[simp] theorem Mach.slBranch_frame (m : Mach) (k : Nat) (b : SlIssued) (c : Int → Bool) : (Mach.slBranch m k b c).mem = m.mem ∧ (Mach.slBranch m k b c).fuses = m.fuses := by
  unfold Mach.slBranch
  refine ⟨?_, ?_⟩ <;> (repeat' (first | rfl | (simp; done) | (simp_all; done) | split | (simp only []; split) | (dsimp only; split)))
@[simp] theorem opSlBr_frame (k : Nat) (m : Mach) : (opSlBr k m).mem = m.mem ∧ (opSlBr k m).fuses = m.fuses := Mach.slOp_frame _ _ _ _ _ (fun _ _ => Mach.slBranch_frame _ _ _ _)
@[simp] theorem opSlBz_frame (k : Nat) (m : Mach) : (opSlBz k m).mem = m.mem ∧ (opSlBz k m).fuses = m.fuses := Mach.slOp_frame _ _ _ _ _ (fun _ _ => Mach.slBranch_frame _ _ _ _)
@[simp] theorem opSlBnz_frame (k : Nat) (m : Mach) : (opSlBnz k m).mem = m.mem ∧ (opSlBnz k m).fuses = m.fuses := Mach.slOp_frame _ _ _ _ _ (fun _ _ => Mach.slBranch_frame _ _ _ _)
@[simp] theorem opSlBlt_frame (k : Nat) (m : Mach) : (opSlBlt k m).mem = m.mem ∧ (opSlBlt k m).fuses = m.fuses := Mach.slOp_frame _ _ _ _ _ (fun _ _ => Mach.slBranch_frame _ _ _ _)
@[simp] theorem opSlBge_frame (k : Nat) (m : Mach) : (opSlBge k m).mem = m.mem ∧ (opSlBge k m).fuses = m.fuses := Mach.slOp_frame _ _ _ _ _ (fun _ _ => Mach.slBranch_frame _ _ _ _)
@[simp] theorem Mach.slLoopStart_frame (m : Mach) (k : Nat) (b : SlIssued) (count : Nat) (len : Nat) : (Mach.slLoopStart m k b count len).mem = m.mem ∧ (Mach.slLoopStart m k b count len).fuses = m.fuses := by
  simp [Mach.slLoopStart]
@[simp] theorem opSlLoop_frame (k : Nat) (m : Mach) : (opSlLoop k m).mem = m.mem ∧ (opSlLoop k m).fuses = m.fuses := by
  simp [opSlLoop]
@[simp] theorem opSlLoopi_frame (k : Nat) (m : Mach) : (opSlLoopi k m).mem = m.mem ∧ (opSlLoopi k m).fuses = m.fuses := by
  simp [opSlLoopi]
@[simp] theorem Mach.slSat_frame (m : Mach) (k : Nat) (b : SlIssued) (i : Int) : (Mach.slSat m k b i).mem = m.mem ∧ (Mach.slSat m k b i).fuses = m.fuses := by
  simp [Mach.slSat]
@[simp] theorem opSlAdd_frame (k : Nat) (m : Mach) : (opSlAdd k m).mem = m.mem ∧ (opSlAdd k m).fuses = m.fuses := by
  simp [opSlAdd]
@[simp] theorem opSlSub_frame (k : Nat) (m : Mach) : (opSlSub k m).mem = m.mem ∧ (opSlSub k m).fuses = m.fuses := by
  simp [opSlSub]
@[simp] theorem opSlAnd_frame (k : Nat) (m : Mach) : (opSlAnd k m).mem = m.mem ∧ (opSlAnd k m).fuses = m.fuses := by
  simp [opSlAnd]
@[simp] theorem opSlOr_frame (k : Nat) (m : Mach) : (opSlOr k m).mem = m.mem ∧ (opSlOr k m).fuses = m.fuses := by
  simp [opSlOr]
@[simp] theorem opSlXor_frame (k : Nat) (m : Mach) : (opSlXor k m).mem = m.mem ∧ (opSlXor k m).fuses = m.fuses := by
  simp [opSlXor]
@[simp] theorem opSlSha_frame (k : Nat) (m : Mach) : (opSlSha k m).mem = m.mem ∧ (opSlSha k m).fuses = m.fuses := by
  simp [opSlSha]
@[simp] theorem Mach.slLanes_frame (m : Mach) (k : Nat) (b : SlIssued) (sub : Bool) : (Mach.slLanes m k b sub).mem = m.mem ∧ (Mach.slLanes m k b sub).fuses = m.fuses := by
  simp [Mach.slLanes]
@[simp] theorem opSlCadd_frame (k : Nat) (m : Mach) : (opSlCadd k m).mem = m.mem ∧ (opSlCadd k m).fuses = m.fuses := by
  simp [opSlCadd]
@[simp] theorem opSlCsub_frame (k : Nat) (m : Mach) : (opSlCsub k m).mem = m.mem ∧ (opSlCsub k m).fuses = m.fuses := by
  simp [opSlCsub]
@[simp] theorem opSlAddi_frame (k : Nat) (m : Mach) : (opSlAddi k m).mem = m.mem ∧ (opSlAddi k m).fuses = m.fuses := by
  simp [opSlAddi]
@[simp] theorem opSlMovi_frame (k : Nat) (m : Mach) : (opSlMovi k m).mem = m.mem ∧ (opSlMovi k m).fuses = m.fuses := by
  simp [opSlMovi]
@[simp] theorem opSlMovhi_frame (k : Nat) (m : Mach) : (opSlMovhi k m).mem = m.mem ∧ (opSlMovhi k m).fuses = m.fuses := by
  simp [opSlMovhi]
@[simp] theorem Mach.slNormTo_frame (m : Mach) (k : Nat) (b : SlIssued) (sh : Nat) : (Mach.slNormTo m k b sh).mem = m.mem ∧ (Mach.slNormTo m k b sh).fuses = m.fuses := by
  simp [Mach.slNormTo]
@[simp] theorem opSlNorm_frame (k : Nat) (m : Mach) : (opSlNorm k m).mem = m.mem ∧ (opSlNorm k m).fuses = m.fuses := by
  simp [opSlNorm]
@[simp] theorem opSlNormv_frame (k : Nat) (m : Mach) : (opSlNormv k m).mem = m.mem ∧ (opSlNormv k m).fuses = m.fuses := by
  simp [opSlNormv]
@[simp] theorem opSlExp_frame (k : Nat) (m : Mach) : (opSlExp k m).mem = m.mem ∧ (opSlExp k m).fuses = m.fuses := by
  simp [opSlExp]
@[simp] theorem opSlMtc_frame (k : Nat) (m : Mach) : (opSlMtc k m).mem = m.mem ∧ (opSlMtc k m).fuses = m.fuses := by
  simp [opSlMtc]
@[simp] theorem opSlMfc_frame (k : Nat) (m : Mach) : (opSlMfc k m).mem = m.mem ∧ (opSlMfc k m).fuses = m.fuses := by
  simp [opSlMfc]
@[simp] theorem opSlAadd_frame (k : Nat) (m : Mach) : (opSlAadd k m).mem = m.mem ∧ (opSlAadd k m).fuses = m.fuses := by
  simp [opSlAadd]
@[simp] theorem opSlFrd_frame (k : Nat) (m : Mach) : (opSlFrd k m).mem = m.mem ∧ (opSlFrd k m).fuses = m.fuses := by
  simp [opSlFrd]
@[simp] theorem opSlFclr_frame (k : Nat) (m : Mach) : (opSlFclr k m).mem = m.mem ∧ (opSlFclr k m).fuses = m.fuses := by
  simp [opSlFclr]
@[simp] theorem opSlArst_frame (k : Nat) (m : Mach) : (opSlArst k m).mem = m.mem ∧ (opSlArst k m).fuses = m.fuses := by
  simp [opSlArst]
@[simp] theorem opSlAgetv_frame (k : Nat) (m : Mach) : (opSlAgetv k m).mem = m.mem ∧ (opSlAgetv k m).fuses = m.fuses := by
  simp [opSlAgetv]
@[simp] theorem opSlAgeti_frame (k : Nat) (m : Mach) : (opSlAgeti k m).mem = m.mem ∧ (opSlAgeti k m).fuses = m.fuses := by
  simp [opSlAgeti]
@[simp] theorem opSlAfeed_frame (k : Nat) (m : Mach) : (opSlAfeed k m).mem = m.mem ∧ (opSlAfeed k m).fuses = m.fuses := by
  simp [opSlAfeed]
@[simp] theorem opSlOut_frame (k : Nat) (m : Mach) : (opSlOut k m).mem = m.mem ∧ (opSlOut k m).fuses = m.fuses := by
  simp [opSlOut]
@[simp] theorem Mach.slXferEnd_frame (m : Mach) (k : Nat) (o : Nat) (status : Nat) : (Mach.slXferEnd m k o status).mem = m.mem ∧ (Mach.slXferEnd m k o status).fuses = m.fuses := ⟨rfl, rfl⟩
@[simp] theorem Mach.slXferSend_frame (m : Mach) (k : Nat) (o : Nat) : (Mach.slXferSend m k o).mem = m.mem ∧ (Mach.slXferSend m k o).fuses = m.fuses := by
  simp [Mach.slXferSend]
@[simp] theorem opSlXfer_frame (k : Nat) (m : Mach) : (opSlXfer k m).mem = m.mem ∧ (opSlXfer k m).fuses = m.fuses := by
  refine Mach.slOp_frame _ _ _ _ _ (fun b m => ?_)
  simp only []
  split
  · simp
  · split <;> simp
@[simp] theorem opXferEnd_frame (k : Nat) (m : Mach) : (opXferEnd k m).mem = m.mem ∧ (opXferEnd k m).fuses = m.fuses := by
  unfold opXferEnd
  refine ⟨?_, ?_⟩ <;> (repeat' (first | rfl | (simp; done) | split))
@[simp] theorem opSlInterrupt_frame (k : Nat) (m : Mach) : (opSlInterrupt k m).mem = m.mem ∧ (opSlInterrupt k m).fuses = m.fuses := by
  unfold opSlInterrupt
  refine ⟨?_, ?_⟩ <;> (repeat' (first | rfl | (simp; done) | split | (simp only []; split) | simp))
@[simp] theorem opSlIngressWord_frame (k : Nat) (words : List Nat) (same : Bool) (m : Mach) : (opSlIngressWord k words same m).mem = m.mem ∧ (opSlIngressWord k words same m).fuses = m.fuses := by
  unfold opSlIngressWord
  refine ⟨?_, ?_⟩ <;> (repeat' (first | rfl | (simp; done) | split | (simp only []; split) | simp))
@[simp] theorem opSlTimerExpiry_frame (k : Nat) (m : Mach) : (opSlTimerExpiry k m).mem = m.mem ∧ (opSlTimerExpiry k m).fuses = m.fuses := by
  simp [opSlTimerExpiry]
@[simp] theorem opSlFabricIrq_frame (k : Nat) (line : Nat) (m : Mach) : (opSlFabricIrq k line m).mem = m.mem ∧ (opSlFabricIrq k line m).fuses = m.fuses := by
  simp [opSlFabricIrq]
@[simp] theorem opSlIrqRaise_frame (k : Nat) (who : Nat) (mask : Nat) (m : Mach) : (opSlIrqRaise k who mask m).mem = m.mem ∧ (opSlIrqRaise k who mask m).fuses = m.fuses := by
  simp [opSlIrqRaise]
@[simp] theorem opSlCtrlRun_frame (k : Nat) (who : Nat) (run : Bool) (m : Mach) : (opSlCtrlRun k who run m).mem = m.mem ∧ (opSlCtrlRun k who run m).fuses = m.fuses := by
  simp [opSlCtrlRun]
@[simp] theorem opSlExternalAccess_frame (k : Nat) (who : Nat) (off : Nat) (len : Nat) (write : Option (List Byte × List Bool)) (same : Bool) (m : Mach) : (opSlExternalAccess k who off len write same m).mem = m.mem ∧ (opSlExternalAccess k who off len write same m).fuses = m.fuses := by
  simp [opSlExternalAccess]
@[simp] theorem opSliceEgressTransfer_frame (k : Nat) (m : Mach) : (opSliceEgressTransfer k m).mem = m.mem ∧ (opSliceEgressTransfer k m).fuses = m.fuses := by
  unfold opSliceEgressTransfer
  refine ⟨?_, ?_⟩ <;> (repeat' (first | rfl | (simp; done) | split | (simp only []; split) | simp))
@[simp] theorem Mach.seSend_frame (m : Mach) (d : Nat) (e : Nat) (x : Transfer) (kind : Nat) (status : Nat) (cause : Nat) (recv : Nat) (deliv : Nat) (etag : Nat) : (Mach.seSend m d e x kind status cause recv deliv etag).mem = m.mem ∧ (Mach.seSend m d e x kind status cause recv deliv etag).fuses = m.fuses := by
  simp [Mach.seSend]
@[simp] theorem Mach.enter_frame (m : Mach) (d : Nat) (e : Nat) (n : Nat) (a : Arming) : (Mach.enter m d e n a).mem = m.mem ∧ (Mach.enter m d e n a).fuses = m.fuses := by
  simp [Mach.enter]
@[simp] theorem Mach.arm_frame (m : Mach) (d : Nat) (e : Nat) (n : Nat) : (Mach.arm m d e n).mem = m.mem ∧ (Mach.arm m d e n).fuses = m.fuses := by
  simp [Mach.arm]
@[simp] theorem Mach.armFor_frame (m : Mach) (d : Nat) (e : Nat) (n : Nat) (j : Job) (serves : Option Nat) : (Mach.armFor m d e n j serves).mem = m.mem ∧ (Mach.armFor m d e n j serves).fuses = m.fuses := by
  simp [Mach.armFor]
@[simp] theorem opSeArm_frame (d : Nat) (e : Nat) (n : Nat) (who : Nat) (job : Option Nat) (m : Mach) : (opSeArm d e n who job m).mem = m.mem ∧ (opSeArm d e n who job m).fuses = m.fuses := by
  unfold opSeArm
  refine ⟨?_, ?_⟩ <;> (repeat' (first | rfl | (simp; done) | split))
@[simp] theorem opTransferStart_frame (d : Nat) (e : Nat) (m : Mach) : (opTransferStart d e m).mem = m.mem ∧ (opTransferStart d e m).fuses = m.fuses := by
  unfold opTransferStart
  refine ⟨?_, ?_⟩ <;> (repeat' (first | rfl | (simp; done) | split | (simp only []; split) | simp))
@[simp] theorem Mach.resolve_frame (m : Mach) (d : Nat) (slot : Nat) (write : Bool) (hi : Nat) (v5 : List Nat) (v6 : SMap Nat) : (Mach.resolve m d slot write hi v5 v6).2.mem = m.mem ∧ (Mach.resolve m d slot write hi v5 v6).2.fuses = m.fuses := by
  induction v5 generalizing m v6 with
  | nil => simp [Mach.resolve]
  | cons u l ih => simp only [Mach.resolve]; split <;> simp [ih]
@[simp] theorem Mach.endpoint_frame (m : Mach) (d : Nat) (x : Nat) (rowLen : Nat) (rows : Nat) (pitch : Nat) (write : Bool) : (Mach.endpoint m d x rowLen rows pitch write).2.mem = m.mem ∧ (Mach.endpoint m d x rowLen rows pitch write).2.fuses = m.fuses := by
  unfold Mach.endpoint
  refine ⟨?_, ?_⟩ <;> (repeat' (first | rfl | (simp; done) | split))
@[simp] theorem Mach.fetchEntry_frame (m : Mach) (d : Nat) (x : Transfer) (b : List Byte) : (Mach.fetchEntry m d x b).2.mem = m.mem ∧ (Mach.fetchEntry m d x b).2.fuses = m.fuses := by
  unfold Mach.fetchEntry
  refine ⟨?_, ?_⟩ <;> (repeat' (first | rfl | (simp; done) | split | (simp only []; split) | simp))
@[simp] theorem Mach.fetchLine_frame (m : Mach) (d : Nat) (e : Nat) (line : List Byte) (v4 : Nat) : (Mach.fetchLine m d e line v4).mem = m.mem ∧ (Mach.fetchLine m d e line v4).fuses = m.fuses := by
  induction v4 generalizing m with
  | zero => exact ⟨rfl, rfl⟩
  | succ k ih =>
    simp only [Mach.fetchLine]
    split
    · exact ⟨rfl, rfl⟩
    · split
      · exact ⟨rfl, rfl⟩
      · split
        · simp
        · simp
        · split
          · rw [(ih _).1, (ih _).2]; simp
          · simp
@[simp] theorem opListFetch_frame (d : Nat) (e : Nat) (m : Mach) : (opListFetch d e m).mem = m.mem ∧ (opListFetch d e m).fuses = m.fuses := by
  unfold opListFetch
  refine ⟨?_, ?_⟩ <;> (repeat' (first | rfl | (simp; done) | split | (simp only []; split) | simp))
@[simp] theorem Mach.sourceUnit_frame (m : Mach) (who : Nat) (a : Nat) : (Mach.sourceUnit m who a).2.mem = m.mem ∧ (Mach.sourceUnit m who a).2.fuses = m.fuses := by
  unfold Mach.sourceUnit
  refine ⟨?_, ?_⟩ <;> (repeat' (first | rfl | (simp; done) | split))
@[simp] theorem Mach.landUnit_frame (m : Mach) (d : Nat) (e : Nat) (x : Transfer) (y : SeEntry) (b : Nat) (data : List Byte) : (Mach.landUnit m d e x y b data).2.fuses = m.fuses := by
  simp [Mach.landUnit]
@[simp] theorem Mach.sendUnit_frame (m : Mach) (d : Nat) (e : Nat) (x : Transfer) (y : SeEntry) (i : Nat) : (Mach.sendUnit m d e x y i).2.2.fuses = m.fuses := by
  unfold Mach.sendUnit
  (repeat' (first | rfl | (simp; done) | split | (simp only []; split) | simp))
@[simp] theorem Mach.issueUnits_frame (m : Mach) (d : Nat) (e : Nat) (x : Transfer) (y : SeEntry) (v5 : Nat) : (Mach.issueUnits m d e x y v5).2.fuses = m.fuses := by
  induction v5 generalizing m d e x y <;> simp only [Mach.issueUnits] <;> (repeat' (first | rfl | (simp_all; done) | (refine ⟨?_, ?_⟩) | split | (refine ⟨(IH _ _).1.trans ?_, ?_⟩)))
@[simp] theorem Mach.seEvents_frame (m : Mach) (d : Nat) (e : Nat) (x : Transfer) (y : Transfer) (fl : Nat) : (Mach.seEvents m d e x y fl).mem = m.mem ∧ (Mach.seEvents m d e x y fl).fuses = m.fuses := by
  simp [Mach.seEvents]
@[simp] theorem opEntryIssue_frame (d : Nat) (e : Nat) (reread : Bool) (m : Mach) : (opEntryIssue d e reread m).fuses = m.fuses := by
  unfold opEntryIssue
  (repeat' (first | rfl | (simp; done) | split | (simp only []; split) | simp))
@[simp] theorem Mach.advance_frame (m : Mach) (d : Nat) (e : Nat) (x : Transfer) (v4 : List SeEntry) : (Mach.advance m d e x v4).1.mem = m.mem ∧ (Mach.advance m d e x v4).1.fuses = m.fuses := by
  induction v4 generalizing m <;> (repeat' (first | (simp_all [Mach.advance]; done) | split | (simp [Mach.advance]; split)))
@[simp] theorem opEntryComplete_frame (d : Nat) (e : Nat) (idx : Nat) (m : Mach) : (opEntryComplete d e idx m).mem = m.mem ∧ (opEntryComplete d e idx m).fuses = m.fuses := by
  unfold opEntryComplete
  refine ⟨?_, ?_⟩ <;> (repeat' (first | rfl | (simp; done) | split | (simp only []; split) | simp))
@[simp] theorem opTransferError_frame (d : Nat) (e : Nat) (m : Mach) : (opTransferError d e m).mem = m.mem ∧ (opTransferError d e m).fuses = m.fuses := by
  unfold opTransferError
  refine ⟨?_, ?_⟩ <;> (repeat' (first | rfl | (simp; done) | split | (simp only []; split) | simp))
@[simp] theorem Mach.jobTransfer_frame (m : Mach) (x : Transfer) (ok : Bool) : (Mach.jobTransfer m x ok).mem = m.mem ∧ (Mach.jobTransfer m x ok).fuses = m.fuses := by
  unfold Mach.jobTransfer
  refine ⟨?_, ?_⟩ <;> (repeat' (first | rfl | (simp; done) | split))
@[simp] theorem opTransferComplete_frame (d : Nat) (e : Nat) (m : Mach) : (opTransferComplete d e m).mem = m.mem ∧ (opTransferComplete d e m).fuses = m.fuses := by
  unfold opTransferComplete
  refine ⟨?_, ?_⟩ <;> (repeat' (first | rfl | (simp; done) | split | (simp only []; split) | simp))
@[simp] theorem opMulticastDeliver_frame (d : Nat) (e : Nat) (r : Nat) (m : Mach) : (opMulticastDeliver d e r m).mem = m.mem ∧ (opMulticastDeliver d e r m).fuses = m.fuses := by
  unfold opMulticastDeliver
  refine ⟨?_, ?_⟩ <;> (repeat' (first | rfl | (simp; done) | split | (simp only []; split) | simp))
@[simp] theorem opDetachNotice_frame (d : Nat) (e : Nat) (r : Nat) (cause : Nat) (m : Mach) : (opDetachNotice d e r cause m).mem = m.mem ∧ (opDetachNotice d e r cause m).fuses = m.fuses := by
  unfold opDetachNotice
  refine ⟨?_, ?_⟩ <;> (repeat' (first | rfl | (simp; done) | split | (simp only []; split) | simp))
@[simp] theorem opMulticastCompletionUnicast_frame (job : Nat) (cluster : Nat) (d : Nat) (e : Nat) (n : Nat) (list : Nat) (count : Nat) (notify : Nat) (tag : Nat) (m : Mach) : (opMulticastCompletionUnicast job cluster d e n list count notify tag m).mem = m.mem ∧ (opMulticastCompletionUnicast job cluster d e n list count notify tag m).fuses = m.fuses := by
  unfold opMulticastCompletionUnicast
  refine ⟨?_, ?_⟩ <;> (repeat' (first | rfl | (simp; done) | split))
@[simp] theorem opWheelAdvance_frame (d : Nat) (e : Nat) (m : Mach) : (opWheelAdvance d e m).mem = m.mem ∧ (opWheelAdvance d e m).fuses = m.fuses := by
  simp [opWheelAdvance]
@[simp] theorem Mach.slotLand_frame (m : Mach) (d : Nat) (e : Nat) (i : Nat) (v : Nat) : (Mach.slotLand m d e i v).mem = m.mem ∧ (Mach.slotLand m d e i v).fuses = m.fuses := by
  simp [Mach.slotLand]
@[simp] theorem opSeSlotWrite_frame (d : Nat) (e : Nat) (i : Nat) (who : Nat) (v : Nat) (m : Mach) : (opSeSlotWrite d e i who v m).mem = m.mem ∧ (opSeSlotWrite d e i who v m).fuses = m.fuses := by
  simp [opSeSlotWrite]
@[simp] theorem opSeSlotHeldRelease_frame (d : Nat) (e : Nat) (m : Mach) : (opSeSlotHeldRelease d e m).mem = m.mem ∧ (opSeSlotHeldRelease d e m).fuses = m.fuses := by
  unfold opSeSlotHeldRelease
  refine ⟨?_, ?_⟩ <;> (repeat' (first | rfl | (simp; done) | split | (simp only []; split) | simp))
@[simp] theorem Mach.seRun_frame (m : Mach) (d : Nat) (e : Nat) (run : Bool) : (Mach.seRun m d e run).mem = m.mem ∧ (Mach.seRun m d e run).fuses = m.fuses := by
  simp [Mach.seRun]
@[simp] theorem opSeCtrlRun_frame (d : Nat) (e : Nat) (who : Nat) (run : Bool) (m : Mach) : (opSeCtrlRun d e who run m).mem = m.mem ∧ (opSeCtrlRun d e who run m).fuses = m.fuses := by
  simp [opSeCtrlRun]
@[simp] theorem Mach.seFlush_frame (m : Mach) (d : Nat) (e : Nat) : (Mach.seFlush m d e).mem = m.mem ∧ (Mach.seFlush m d e).fuses = m.fuses := by
  simp [Mach.seFlush]
@[simp] theorem opSeFlush_frame (d : Nat) (e : Nat) (who : Nat) (m : Mach) : (opSeFlush d e who m).mem = m.mem ∧ (opSeFlush d e who m).fuses = m.fuses := by
  simp [opSeFlush]
@[simp] theorem Mach.tickArray_frame (m : Mach) (d : Nat) : (Mach.tickArray m d).mem = m.mem ∧ (Mach.tickArray m d).fuses = m.fuses := by
  simp [Mach.tickArray]
@[simp] theorem Mach.tickNoc_frame (m : Mach) (d : Nat) : (Mach.tickNoc m d).mem = m.mem ∧ (Mach.tickNoc m d).fuses = m.fuses := by
  simp [Mach.tickNoc]
@[simp] theorem Mach.tickSlice_frame (m : Mach) (k : Nat) : (Mach.tickSlice m k).mem = m.mem ∧ (Mach.tickSlice m k).fuses = m.fuses := by
  simp [Mach.tickSlice]
@[simp] theorem Mach.tick_frame (m : Mach) : (Mach.tick m).mem = m.mem ∧ (Mach.tick m).fuses = m.fuses := by
  simp [Mach.tick]
@[simp] theorem Mach.tileFlags_keeps (m : Mach) (t : Nat) (fl : Nat) : (Mach.tileFlags m t fl).mem = m.mem ∧ (Mach.tileFlags m t fl).fuses = m.fuses := by
  simp [Mach.tileFlags]
@[simp] theorem Mach.tileTrap_keeps (m : Mach) (t : Nat) (opTag : Nat) (acc : Nat) (c : Cand) : (Mach.tileTrap m t opTag acc c).mem = m.mem ∧ (Mach.tileTrap m t opTag acc c).fuses = m.fuses := by
  simp [Mach.tileTrap]
@[simp] theorem Mach.tileTraps_keeps (m : Mach) (t : Nat) (opTag : Nat) (acc : Nat) (v4 : List Cand) : (Mach.tileTraps m t opTag acc v4).mem = m.mem ∧ (Mach.tileTraps m t opTag acc v4).fuses = m.fuses := by
  fun_induction Mach.tileTraps <;> simp_all
@[simp] theorem Mach.tileReport_frame (m : Mach) (t : Nat) (p : Prog) : (Mach.tileReport m t p).mem = m.mem ∧ (Mach.tileReport m t p).fuses = m.fuses := by
  simp [Mach.tileReport]
@[simp] theorem Mach.tileEnds_frame (m : Mach) (t : Nat) : (Mach.tileEnds m t).mem = m.mem ∧ (Mach.tileEnds m t).fuses = m.fuses := by
  simp [Mach.tileEnds]
@[simp] theorem opTileCmdEnqueue_frame (t : Nat) (who : Nat) (w7 : Nat) (m : Mach) : (opTileCmdEnqueue t who w7 m).mem = m.mem ∧ (opTileCmdEnqueue t who w7 m).fuses = m.fuses := by
  simp [opTileCmdEnqueue]
@[simp] theorem opTileCmdHeldRelease_frame (t : Nat) (m : Mach) : (opTileCmdHeldRelease t m).mem = m.mem ∧ (opTileCmdHeldRelease t m).fuses = m.fuses := by
  unfold opTileCmdHeldRelease
  refine ⟨?_, ?_⟩ <;> (repeat' (first | rfl | (simp; done) | split | (simp only []; split) | simp))
@[simp] theorem Mach.tileRejectHead_frame (m : Mach) (t : Nat) (q : QCmd) (cause : Nat) : (Mach.tileRejectHead m t q cause).mem = m.mem ∧ (Mach.tileRejectHead m t q cause).fuses = m.fuses := by
  simp [Mach.tileRejectHead]
@[simp] theorem Mach.tileStart_frame (m : Mach) (t : Nat) (q : QCmd) : (Mach.tileStart m t q).mem = m.mem ∧ (Mach.tileStart m t q).fuses = m.fuses := ⟨rfl, rfl⟩
@[simp] theorem Mach.tilePopEnd_frame (m : Mach) (t : Nat) : (Mach.tilePopEnd m t).mem = m.mem ∧ (Mach.tilePopEnd m t).fuses = m.fuses := by
  simp [Mach.tilePopEnd]
@[simp] theorem opMm_frame (t : Nat) (m : Mach) : (opMm t m).mem = m.mem ∧ (opMm t m).fuses = m.fuses := by
  unfold opMm
  refine ⟨?_, ?_⟩ <;> (repeat' (first | rfl | (simp; done) | split))
@[simp] theorem opDrain_frame (t : Nat) (m : Mach) : (opDrain t m).mem = m.mem ∧ (opDrain t m).fuses = m.fuses := by
  unfold opDrain
  refine ⟨?_, ?_⟩ <;> (repeat' (first | rfl | (simp; done) | split))
@[simp] theorem opZeroAcc_frame (t : Nat) (m : Mach) : (opZeroAcc t m).mem = m.mem ∧ (opZeroAcc t m).fuses = m.fuses := by
  unfold opZeroAcc
  refine ⟨?_, ?_⟩ <;> (repeat' (first | rfl | (simp; done) | split))
@[simp] theorem opPlaneLoadStart_frame (t : Nat) (m : Mach) : (opPlaneLoadStart t m).mem = m.mem ∧ (opPlaneLoadStart t m).fuses = m.fuses := by
  unfold opPlaneLoadStart
  refine ⟨?_, ?_⟩ <;> (repeat' (first | rfl | (simp; done) | split | (simp only []; split) | simp))
@[simp] theorem opRowPush_frame (t : Nat) (r : Nat) (elems : List Nat) (bx8 : List Nat) (m : Mach) : (opRowPush t r elems bx8 m).mem = m.mem ∧ (opRowPush t r elems bx8 m).fuses = m.fuses := by
  simp [opRowPush]
@[simp] theorem opBatchWindowExpiry_frame (t : Nat) (m : Mach) : (opBatchWindowExpiry t m).mem = m.mem ∧ (opBatchWindowExpiry t m).fuses = m.fuses := by
  simp [opBatchWindowExpiry]
@[simp] theorem readBx_frame (m : Mach) (c : Nat) (t : Nat) (q : QCmd) (r : Nat) : (readBx m c t q r).2.2.mem = m.mem ∧ (readBx m c t q r).2.2.fuses = m.fuses := by
  unfold readBx
  simp only []
  refine ⟨?_, ?_⟩
  · rw [foldl_keeps (fun s : List Nat × Bool × Mach => s.2.2.mem)]
    · simp
    · intro s x
      split
      · split <;> simp
      · simp
  · rw [foldl_keeps (fun s : List Nat × Bool × Mach => s.2.2.fuses)]
    · simp
    · intro s x
      split
      · split <;> simp
      · simp
@[simp] theorem readRow_frame (m : Mach) (t : Nat) (q : QCmd) (x : Nat × List Byte × Bool) : (readRow m t q x).2.2.2.mem = m.mem ∧ (readRow m t q x).2.2.2.fuses = m.fuses := by
  unfold readRow
  refine ⟨?_, ?_⟩ <;> (repeat' (first | rfl | (simp; done) | split))
@[simp] theorem issueOne_frame (t : Nat) (q : QCmd) (p : Plane) (m : Mach) (row : Nat × List Byte × Bool) : (issueOne t q p m row).mem = m.mem ∧ (issueOne t q p m row).fuses = m.fuses := by
  simp [issueOne]
@[simp] theorem opPlaneReady_frame (t : Nat) (upset : List Nat) (m : Mach) : (opPlaneReady t upset m).mem = m.mem ∧ (opPlaneReady t upset m).fuses = m.fuses := by
  unfold opPlaneReady
  refine ⟨?_, ?_⟩ <;> (repeat' (first | rfl | (simp; done) | split | (simp only []; split) | simp))
@[simp] theorem opRowIssue_frame (t : Nat) (upset : List Nat) (m : Mach) : (opRowIssue t upset m).mem = m.mem ∧ (opRowIssue t upset m).fuses = m.fuses := by
  unfold opRowIssue
  refine ⟨?_, ?_⟩ <;> (repeat' (first | rfl | (simp; done) | split | (simp only []; split) | simp))
@[simp] theorem opBlockJunction_frame (t : Nat) (i : Nat) (b : Nat) (n : Nat) (parityBad : Bool) (m : Mach) : (opBlockJunction t i b n parityBad m).mem = m.mem ∧ (opBlockJunction t i b n parityBad m).fuses = m.fuses := by
  unfold opBlockJunction
  refine ⟨?_, ?_⟩ <;> (repeat' (first | rfl | (simp; done) | split | (simp only []; split) | simp))
@[simp] theorem opRowCommit_frame (t : Nat) (disagree : Bool) (m : Mach) : (opRowCommit t disagree m).mem = m.mem ∧ (opRowCommit t disagree m).fuses = m.fuses := by
  unfold opRowCommit
  refine ⟨?_, ?_⟩ <;> (repeat' (first | rfl | (simp; done) | split | (simp only []; split) | simp))
@[simp] theorem opFactorFormation_frame (t : Nat) (upset : List Nat) (m : Mach) : (opFactorFormation t upset m).mem = m.mem ∧ (opFactorFormation t upset m).fuses = m.fuses := by
  unfold opFactorFormation
  refine ⟨?_, ?_⟩ <;> (repeat' (first | rfl | (simp; done) | split | (simp only []; split) | simp))
@[simp] theorem opDrainRead_frame (t : Nat) (parityBad : Bool) (m : Mach) : (opDrainRead t parityBad m).mem = m.mem ∧ (opDrainRead t parityBad m).fuses = m.fuses := by
  unfold opDrainRead
  refine ⟨?_, ?_⟩ <;> (repeat' (first | rfl | (simp; done) | split | (simp only []; split) | simp))
@[simp] theorem drainTake_frame (t : Nat) (m : Mach) : (drainTake t m).mem = m.mem ∧ (drainTake t m).fuses = m.fuses := ⟨rfl, rfl⟩
@[simp] theorem opFlushAbortReport_frame (t : Nat) (m : Mach) : (opFlushAbortReport t m).mem = m.mem ∧ (opFlushAbortReport t m).fuses = m.fuses := by
  unfold opFlushAbortReport
  refine ⟨?_, ?_⟩ <;> (repeat' (first | rfl | (simp; done) | split | (simp only []; split) | simp))
@[simp] theorem Mach.veEvents_frame (m : Mach) (c : Nat) (ev : Nat) : (Mach.veEvents m c ev).mem = m.mem ∧ (Mach.veEvents m c ev).fuses = m.fuses := by
  simp [Mach.veEvents]
@[simp] theorem Mach.veTrap_frame (m : Mach) (c : Nat) (opTag : Nat) (outer : Nat) (cyc : Nat) (i0 : Nat) (cause : Nat) : (Mach.veTrap m c opTag outer cyc i0 cause).mem = m.mem ∧ (Mach.veTrap m c opTag outer cyc i0 cause).fuses = m.fuses := by
  simp [Mach.veTrap]
@[simp] theorem Mach.veAbort_frame (m : Mach) (c : Nat) (e : VeExec) (ev : Nat) : (Mach.veAbort m c e ev).mem = m.mem ∧ (Mach.veAbort m c e ev).fuses = m.fuses := by
  simp [Mach.veAbort]
@[simp] theorem opVeDescEnqueue_frame (c : Nat) (who : Nat) (w15 : Nat) (m : Mach) : (opVeDescEnqueue c who w15 m).mem = m.mem ∧ (opVeDescEnqueue c who w15 m).fuses = m.fuses := by
  simp [opVeDescEnqueue]
@[simp] theorem opVeDescHeldRelease_frame (c : Nat) (m : Mach) : (opVeDescHeldRelease c m).mem = m.mem ∧ (opVeDescHeldRelease c m).fuses = m.fuses := by
  unfold opVeDescHeldRelease
  refine ⟨?_, ?_⟩ <;> (repeat' (first | rfl | (simp; done) | split | (simp only []; split) | simp))
@[simp] theorem opDescriptorDecode_frame (c : Nat) (m : Mach) : (opDescriptorDecode c m).mem = m.mem ∧ (opDescriptorDecode c m).fuses = m.fuses := by
  unfold opDescriptorDecode
  refine ⟨?_, ?_⟩ <;> (repeat' (first | rfl | (simp; done) | split | (simp only []; split) | simp))
@[simp] theorem Mach.veIssued_frame (m : Mach) (c : Nat) (e : VeExec) (total : Nat) (ev : Nat) (ws : List VeWrite) : (Mach.veIssued m c e total ev ws).mem = m.mem ∧ (Mach.veIssued m c e total ev ws).fuses = m.fuses := by
  simp [Mach.veIssued]
@[simp] theorem Mach.freeBytes_frame (m : Mach) (v1 : List Nat) : (Mach.freeBytes m v1).2.mem = m.mem ∧ (Mach.freeBytes m v1).2.fuses = m.fuses := by
  induction v1 generalizing m <;> (repeat' (first | (simp_all [Mach.freeBytes]; done) | split | (simp [Mach.freeBytes]; split)))
@[simp] theorem Mach.veWriteOut_frame (m : Mach) (c : Nat) (e : VeExec) (i : StepIn) (o : StepOut) (total : Nat) (readFlags : Nat) : (Mach.veWriteOut m c e i o total readFlags).mem = m.mem ∧ (Mach.veWriteOut m c e i o total readFlags).fuses = m.fuses := by
  simp [Mach.veWriteOut]
@[simp] theorem Mach.veOutcome_frame (m1 : Mach) (c : Nat) (op : Nat) (e : VeExec) (k : VKind) (work : Fmt) (v : Ve) (at_ : StepAt) (act : List Nat) (table : List (Option Loc)) (row : DrainRow) (f : StepFn) : (Mach.veOutcome m1 c op e k work v at_ act table row f).mem = m1.mem ∧ (Mach.veOutcome m1 c op e k work v at_ act table row f).fuses = m1.fuses := Mach.veWriteOut_frame _ _ _ _ _ _ _
theorem Mach.veTaken_frame (m0 : Mach) (c t : Nat) (b : Bool) : (if b then (drainTake t m0).wrap F.veDrainRows (clIx c) 1 else m0).mem = m0.mem ∧
    (if b then (drainTake t m0).wrap F.veDrainRows (clIx c) 1 else m0).fuses = m0.fuses := by
  cases b <;> simp
@[simp] theorem Mach.veTakeRow_frame (m0 : Mach) (c : Nat) (op : Nat) (e : VeExec) (k : VKind) (work : Fmt) (v : Ve) (at_ : StepAt) (act : List Nat) (table : List (Option Loc)) (row : DrainRow) (f : StepFn) : (Mach.veTakeRow m0 c op e k work v at_ act table row f).mem = m0.mem ∧ (Mach.veTakeRow m0 c op e k work v at_ act table row f).fuses = m0.fuses := by
  have t := Mach.veTaken_frame m0 c (c * 16 + (dA e.cmd.w).base % 16) ((dA e.cmd.w).kind == 3)
  unfold Mach.veTakeRow
  dsimp only
  split
  · exact ⟨(Mach.veIssued_frame _ _ _ _ _ _).1.trans t.1, (Mach.veIssued_frame _ _ _ _ _ _).2.trans t.2⟩
  · exact ⟨(Mach.veOutcome_frame _ _ _ _ _ _ _ _ _ _ _ _).1.trans t.1, (Mach.veOutcome_frame _ _ _ _ _ _ _ _ _ _ _ _).2.trans t.2⟩
theorem Mach.veFail_frame (m : Mach) (c : Nat) (v : Ve) (e : VeExec) : (((m.setVe c v).cnt F.veParityErrs (clIx c) 1).veAbort c e 0x20000).mem = m.mem ∧
    (((m.setVe c v).cnt F.veParityErrs (clIx c) 1).veAbort c e 0x20000).fuses = m.fuses := by
  simp
@[simp] theorem Mach.veStep_frame (m : Mach) (c : Nat) (op : Nat) (upset : List Nat) (f : StepFn) : (Mach.veStep m c op upset f).mem = m.mem ∧ (Mach.veStep m c op upset f).fuses = m.fuses := by
  unfold Mach.veStep
  split
  · dsimp only
    split
    · exact ⟨rfl, rfl⟩
    · split
      · exact ⟨rfl, rfl⟩
      · split
        · exact Mach.veFail_frame _ _ _ _
        · split
          · exact ⟨rfl, rfl⟩
          · split
            · exact Mach.veFail_frame _ _ _ _
            · split
              · exact ⟨rfl, rfl⟩
              · exact ⟨(Mach.veTakeRow_frame _ _ _ _ _ _ _ _ _ _ _ _).1, (Mach.veTakeRow_frame _ _ _ _ _ _ _ _ _ _ _ _).2⟩
              · exact ⟨(Mach.veTakeRow_frame _ _ _ _ _ _ _ _ _ _ _ _).1, (Mach.veTakeRow_frame _ _ _ _ _ _ _ _ _ _ _ _).2⟩
  · exact ⟨rfl, rfl⟩
@[simp] theorem Mach.veRefused_frame (m : Mach) (c : Nat) (e : VeExec) (cwd : Nat) : (Mach.veRefused m c e cwd).mem = m.mem ∧ (Mach.veRefused m c e cwd).fuses = m.fuses := by
  simp [Mach.veRefused]
@[simp] theorem opVeLoad_frame (c : Nat) (upset : List Nat) (m : Mach) : (opVeLoad c upset m).mem = m.mem ∧ (opVeLoad c upset m).fuses = m.fuses := by
  unfold opVeLoad
  refine ⟨?_, ?_⟩ <;> (repeat' (first | rfl | (simp; done) | split | (simp only []; split) | simp))
@[simp] theorem Mach.storeWords_frame (m : Mach) (c : Nat) (bs : List CacheByte) (v3 : List Nat) : (Mach.storeWords m c bs v3).fuses = m.fuses := by
  fun_induction Mach.storeWords <;> simp_all
@[simp] theorem opVeStore_frame (c : Nat) (upset : List Nat) (m : Mach) : (opVeStore c upset m).fuses = m.fuses := by
  unfold opVeStore
  (repeat' (first | rfl | (simp; done) | split | (simp only []; split) | simp))
@[simp] theorem Mach.pushRefused_frame (m : Mach) (c : Nat) (seq : Nat) (step : Nat) : (Mach.pushRefused m c seq step).mem = m.mem ∧ (Mach.pushRefused m c seq step).fuses = m.fuses := by
  unfold Mach.pushRefused
  refine ⟨?_, ?_⟩ <;> (repeat' (first | rfl | (simp; done) | split | (simp only []; split) | simp))
@[simp] theorem opVeWriteLand_frame (c : Nat) (k : Nat) (m : Mach) : (opVeWriteLand c k m).mem = m.mem ∧ (opVeWriteLand c k m).fuses = m.fuses := by
  unfold opVeWriteLand
  refine ⟨?_, ?_⟩ <;> (repeat' (first | rfl | (simp; done) | split | (simp only []; split) | simp))
@[simp] theorem opDescEndReport_frame (c : Nat) (m : Mach) : (opDescEndReport c m).mem = m.mem ∧ (opDescEndReport c m).fuses = m.fuses := by
  unfold opDescEndReport
  refine ⟨?_, ?_⟩ <;> (repeat' (first | rfl | (simp; done) | split | (simp only []; split) | simp))

end Sys2Proof.Machine
end

