-- ==== Sys2Proof/Laws/Tiles.lean ====
section
/-! SUPPORT. What the tiles' shared operations do: sending end reports, ending commands, zeroing rows. -/

namespace Sys2Proof.Machine

/-- An end report leaves everything but the outputs and, for work of a cluster queue, the steward's books. -/
theorem Mach.ended_frame (m : Mach) (r : EndReport) :
    (m.ended r).tiles = m.tiles ∧ (m.ended r).ves = m.ves ∧ (m.ended r).fields = m.fields ∧ (m.ended r).mem = m.mem ∧ (m.ended r).fuses = m.fuses ∧
      (m.ended r).out = m.out ++ [.ended r] := by
  unfold Mach.ended; cases r.src <;> simp

theorem Mach.foldEnded_frame {α : Type} (f : α → EndReport) (l : List α) : ∀ m : Mach,
    (l.foldl (fun m p => m.ended (f p)) m).tiles = m.tiles ∧ (l.foldl (fun m p => m.ended (f p)) m).ves = m.ves ∧
      (l.foldl (fun m p => m.ended (f p)) m).fields = m.fields ∧ (l.foldl (fun m p => m.ended (f p)) m).mem = m.mem ∧
      (l.foldl (fun m p => m.ended (f p)) m).fuses = m.fuses ∧
      (l.foldl (fun m p => m.ended (f p)) m).out = m.out ++ l.map (fun p => Output.ended (f p)) := by
  induction l with
  | nil => intro m; simp
  | cons p l ih =>
    intro m
    obtain ⟨a, b, c, d, e, g⟩ := ih (m.ended (f p))
    obtain ⟨a', b', c', d', e', g'⟩ := m.ended_frame (f p)
    exact ⟨a.trans a', b.trans b', c.trans c', d.trans d', e.trans e', by simpa [g'] using g⟩

/-- Ending commands that have nothing in flight takes their records from the tile and leaves everything else of it. -/
theorem Mach.tileEnds_spec (m : Mach) (t : Nat) :
    (∃ ps, (m.tileEnds t).tile t = { m.tile t with progs := ps }) ∧ (m.tileEnds t).fields = m.fields ∧ (m.tileEnds t).mem = m.mem ∧
      (m.tileEnds t).fuses = m.fuses := by
  obtain ⟨a, b, c, d, e, g⟩ := Mach.foldEnded_frame
    (fun p : Prog => (EndReport.mk (.tile (Fin.ofNat 960 t)) p.src p.opTag (b2n p.aborted) 0 p.flags p.poisoned p.last))
    ((m.tile t).progs.filter (fun p => p.issuedAll && !p.aborted && (m.tile t).inFlight p.seq == 0))
    (m.setTile t { m.tile t with progs := (m.tile t).progs.filter (fun p => !(p.issuedAll && !p.aborted && (m.tile t).inFlight p.seq == 0)) })
  refine ⟨⟨(m.tile t).progs.filter (fun p => !(p.issuedAll && !p.aborted && (m.tile t).inFlight p.seq == 0)), ?_⟩, ?_, ?_, ?_⟩
  · have h := congrArg (SMap.get Tile.init t) a
    simpa [Mach.tileEnds, Mach.tileReport, Mach.tile, Mach.setTile] using h
  · simpa [Mach.tileEnds, Mach.tileReport] using c
  · simpa [Mach.tileEnds, Mach.tileReport] using d
  · simpa [Mach.tileEnds, Mach.tileReport] using e

/-- Zeroing rows: each listed row holds +0 in every column and is not poisoned; nothing else changes. -/
theorem zeroRows_spec (rows : List Nat) : ∀ x : Tile, (zeroRows x rows).queue = x.queue ∧ (zeroRows x rows).progs = x.progs ∧
    (∀ a ∈ rows, SMap.get [] a (zeroRows x rows).acc = zeroRow ∧ (zeroRows x rows).poisoned a = false) ∧
    (∀ a, a ∉ rows → SMap.get [] a (zeroRows x rows).acc = SMap.get [] a x.acc ∧ (zeroRows x rows).poisoned a = x.poisoned a) := by
  induction rows with
  | nil => intro x; simp [zeroRows]
  | cons r rows ih =>
    intro x
    obtain ⟨h1, h2, h3, h4⟩ := ih ((x.setAcc r zeroRow).unmark r)
    refine ⟨h1, h2, ?_, ?_⟩
    · intro a ha
      by_cases hm : a ∈ rows
      · exact h3 a hm
      · have hr : a = r := by simpa [hm] using ha
        subst hr
        simpa [zeroRows, Tile.setAcc, Tile.unmark, Tile.poisoned] using h4 a hm
    · intro a ha
      have hne : a ≠ r := fun h => ha (by simp [h])
      simpa [zeroRows, Tile.setAcc, Tile.unmark, Tile.poisoned, hne, SMap.get_put_other _ hne] using h4 a (fun h => ha (List.mem_cons_of_mem _ h))

/-! The head of a queue leaving, and the event flags and the trap latch, change nothing else of a tile. -/

theorem Tile.popHead_frame (x : Tile) : x.popHead.queue = x.queue.drop 1 ∧ x.popHead.flights = x.flights ∧ x.popHead.acc = x.acc ∧
    x.popHead.poison = x.poison ∧ x.popHead.drained = x.drained ∧ x.popHead.planes = x.planes ∧ x.popHead.factors = x.factors := by
  unfold Tile.popHead; cases h : x.queue <;> simp [Tile.onProg, h]

theorem Mach.tileFlags_frame (m : Mach) (t fl : Nat) : (m.tileFlags t fl).tiles = m.tiles ∧ (m.tileFlags t fl).mem = m.mem ∧
    (m.tileFlags t fl).fuses = m.fuses := by
  unfold Mach.tileFlags; simp only []; split <;> split <;> split <;> split <;> split <;> simp [Mach.ev]

theorem Mach.tileFlags_none (m : Mach) (t : Nat) : m.tileFlags t 0 = m := by simp [Mach.tileFlags]

theorem Mach.tileTrap_frame (m : Mach) (t o a : Nat) (c : Cand) : (∃ k, (m.tileTrap t o a c).tile t = { m.tile t with trapCycle := k }) ∧
    (m.tileTrap t o a c).mem = m.mem ∧ (m.tileTrap t o a c).fuses = m.fuses := by
  unfold Mach.tileTrap; simp only []
  split
  · split
    · exact ⟨⟨c.cycle, by simp⟩, by simp⟩
    · exact ⟨⟨(m.tile t).trapCycle, by simp⟩, by simp⟩
  · exact ⟨⟨c.cycle, by simp⟩, by simp⟩

theorem Mach.tileTraps_frame (t o a : Nat) (l : List Cand) : ∀ m : Mach, (∃ k, (m.tileTraps t o a l).tile t = { m.tile t with trapCycle := k }) ∧
    (m.tileTraps t o a l).mem = m.mem ∧ (m.tileTraps t o a l).fuses = m.fuses := by
  induction l with
  | nil => intro m; exact ⟨⟨(m.tile t).trapCycle, rfl⟩, rfl, rfl⟩
  | cons c l ih =>
    intro m
    obtain ⟨⟨k, h⟩, h', h''⟩ := ih (m.tileTrap t o a c)
    obtain ⟨⟨k2, g⟩, g', g''⟩ := m.tileTrap_frame t o a c
    exact ⟨⟨k, by simp only [Mach.tileTraps]; rw [h, g]⟩, h'.trans g', h''.trans g''⟩

end Sys2Proof.Machine
end

