-- ==== Sys2Proof/WellFormed.lean ====
section
/-! DEFINITION. Well-formed commands: each operand that is a number or a list lies in the range its row gives it. A meaning takes any command;
these are the operands a sender can bring. -/

namespace Sys2Proof

/-- A master identity has 16 bits (10 R223), and an address 48 (01). -/
def wfWho (who : Nat) : Bool := decide (who < 2 ^ 16)
def wfAddr (a : Nat) : Bool := decide (a < 2 ^ 48)
/-- A burst of 64 bytes (06 R139). -/
def wfBurst (a : Nat) : Bool := wfAddr a && a % 64 == 0
/-- 32-bit lanes of a cluster's banks (06 R127), and of an operand cache (04 R79). -/
def wfLanes (l : List Nat) : Bool := l.all (fun x => decide (x < 16 * 327680))
def wfCache (l : List Nat) : Bool := l.all (fun x => decide (x < 131072))
/-- Slots, pages and slab codes (07 R151 to R153). -/
def wfSlot (s : Nat) : Bool := decide (s < 2 ^ 16)
def wfPage (p : Nat) : Bool := decide (p < 2 ^ 20)
def wfSlab (c : Nat) : Bool := decide (c < 2 ^ 16)
def wfPick (p : PagePick) : Bool := decide (p.tier < 2) && decide (p.loc < 2 ^ 27)
/-- A tile command has 8 words and a vector descriptor 16 (03 R72, 04 R80). -/
def wfWork (w : WorkPick) : Bool := w.words.length == (if w.tile.isSome then 8 else 16)
/-- Write data with an enable per byte. -/
def wfData : Option (List Byte × List Bool) → Bool
  | some (d, e) => d.length == e.length && decide (d.length ≤ 256)
  | none => true
/-- A request at an arbiter (09 Table 9-6). -/
def wfReq (r : ArbReq) : Bool := decide (r.idx < 18) && wfWho r.id
/-- An access handed to a network interface (10 Tables 10-4, 10-5). -/
def wfNet : NetReq → Bool
  | .read a _ => wfAddr a
  | .write a d e _ => wfAddr a && d.length == e.length
  | .atomic _ _ a _ => wfAddr a
  | .regRead a => wfAddr a
  | .regWrite a _ => wfAddr a
  | .mail mb w => decide (mb < 2 ^ 16) && w.length == 16
  | .snp _ _ d => decide (d.length ≤ 64)
/-- A mailbox number (16 Table 16-4). -/
def wfBox (n : Nat) : Bool := decide (n < 0x20) || (decide (0x100 ≤ n) && decide (n < 0x130))

/-- Whether a command's operands lie in their ranges. -/
def Instr.wellFormed : Instr → Bool
  | .registerWrite who addr size _ _ => wfWho who && wfAddr addr && decide (size ≤ 256)
  | .readClear who addr events => wfWho who && wfAddr addr && decide (events < 2 ^ 32)
  | .tileCmdEnqueue _ who _ => wfWho who
  | .planeReady _ upset => wfLanes upset
  | .rowPush _ m elems bx8 => decide (m < 48) && elems.length == 48 && bx8.length == 3 && elems.all (fun x => decide (x < 2 ^ 16)) && bx8.all (fun x => decide (x < 256))
  | .rowIssue _ upset => wfLanes upset
  | .blockJunction _ row _ _ _ => decide (row < 512)
  | .factorFormation _ upset => wfLanes upset
  | .veDescEnqueue _ who _ => wfWho who
  | .veCopy _ upset => wfCache upset
  | .veLoad _ upset => wfLanes upset
  | .veStore _ upset => wfLanes upset
  | .veAdd _ upset => wfCache upset
  | .veSub _ upset => wfCache upset
  | .veMul _ upset => wfCache upset
  | .veFma _ upset => wfCache upset
  | .veMax _ upset => wfCache upset
  | .veMin _ upset => wfCache upset
  | .veAbs _ upset => wfCache upset
  | .veNeg _ upset => wfCache upset
  | .veExp2 _ upset => wfCache upset
  | .veLog2 _ upset => wfCache upset
  | .veRcp _ upset => wfCache upset
  | .veRsqrt _ upset => wfCache upset
  | .vePerm _ upset => wfCache upset
  | .veGather _ upset => wfCache upset
  | .veRsum _ upset => wfCache upset
  | .veRmax _ upset => wfCache upset
  | .veRmin _ upset => wfCache upset
  | .veArgmax _ upset => wfCache upset
  | .veArgmin _ upset => wfCache upset
  | .veSample _ upset => wfCache upset
  | .veAccept _ upset => wfCache upset
  | .veBlockq _ upset => wfCache upset
  | .arbiterGrant _ reqs => reqs.all wfReq
  | .backoffExpiry _ idx => decide (idx < 18)
  | .requesterMask _ idx _ => decide (idx < 18)
  | .bankRead _ _ _ _ upset => wfLanes upset
  | .bankWrite _ _ _ _ upset => wfLanes upset
  | .atomicAdd _ _ upset => wfLanes upset
  | .atomicSwap _ _ upset => wfLanes upset
  | .bankOwnerWrite _ group => decide (group < 16)
  | .nearBurstRead who addr _ => wfWho who && wfBurst addr
  | .nearBurstWrite who addr data en _ => wfWho who && wfBurst addr && data.length == 64 && en.length == 64
  | .marchGo _ who _ => wfWho who
  | .marchTransfer _ upset => wfLanes upset
  | .marchAbort _ who => wfWho who
  | .tileFenceWrite _ who _ => wfWho who
  | .tileSelftestGo _ who _ => wfWho who
  | .translate _ who slot off _ => wfWho who && wfSlot slot && decide (off < 2 ^ 40)
  | .migrationStart slot page _ _ codes tag => wfSlot slot && wfPage page && codes.all wfSlab && decide (tag < 2 ^ 16)
  | .invalidate _ slot page => wfSlot slot && wfPage page
  | .migrationFinish slot page => wfSlot slot && wfPage page
  | .evacuation slot page dst => decide (slot < 2 ^ 16 + 6) && wfPage page && wfPick dst
  | .pmCmdEnqueue _ _ who _ => wfWho who
  | .opPlace _ _ shares => shares.all (fun x => decide (x.tag < 8192))
  | .shareDispatch _ work => work.all wfWork
  | .reserveRequest _ who => wfWho who
  | .reserveRelease _ who => wfWho who
  | .almCtrlRun who _ => wfWho who
  | .seArm _ _ _ by_ => wfWho by_.who
  | .detachNotice _ _ _ cause => decide (cause < 256)
  | .seSlotWrite _ _ _ who _ => wfWho who
  | .seCtrlRun _ _ who _ => wfWho who
  | .seFlush _ _ who => wfWho who
  | .multicastCompletionUnicast _ _ _ _ list count notify tag => wfAddr list && decide (count < 2 ^ 24) && decide (notify < 2 ^ 16) && decide (tag < 2 ^ 32)
  | .packetInject who r => wfWho who && wfNet r
  | .nocCtrlRun _ who _ => wfWho who
  | .traceRunWrite _ who _ => wfWho who
  | .regionalClockEdge _ _ _ _ blocks y => blocks.all (fun x => decide (x.p < 704) && decide (x.ins < 2 ^ 38)) && y.rams.all (fun x => decide (x.block < 44) && decide (x.addr < 2 ^ 12))
  | .clockDividerWrite _ _ _ who _ => wfWho who
  | .frClkgateWrite _ _ who _ => wfWho who
  | .fniRequest _ _ _ addr len _ _ data en => wfAddr addr && decide (len < 2 ^ 10) && data.length == en.length
  | .fniTargetAccess _ _ who kind _ _ => wfWho who && decide (kind < 256)
  | .rowPushWindow _ who kind off data en => wfWho who && decide (kind < 256) && decide (off < 0x2000) && data.length == en.length
  | .ioPinSlewWrite _ _ _ who _ => wfWho who
  | .slIrqRaise _ _ who _ => wfWho who
  | .slCtrlRun _ _ who _ => wfWho who
  | .slExternalAccess _ _ who _ len write _ => wfWho who && decide (len ≤ 256) && wfData write
  | .configStartup vio _ => vio.length == 8
  | .partialRegionStart vio _ => vio.length == 8
  | .laneEnable _ _ who => wfWho who
  | .laneDisable _ _ who => wfWho who
  | .laneRecal _ _ who => wfWho who
  | .fpRdWrite _ _ who _ => wfWho who
  | .fpCtrlEn _ _ who _ => wfWho who
  | .readData tag status data _ => decide (tag < 2 ^ 16) && decide (status < 256) && decide (data.length ≤ 4096)
  | .writeAck tag status _ => decide (tag < 2 ^ 16) && decide (status < 256)
  | .windowSet _ size _ _ => decide (size < 2 ^ 33)
  | .regRead addr => decide (addr.val < 2 ^ 64)
  | .regWrite addr _ => decide (addr.val < 2 ^ 64)
  | .heldRead n => decide (n.val < 2 ^ 64)
  | .planLoad places => places.all (fun x => wfSlot x.slot && x.pages.all wfPick)
  | .fwCtrlRestart _ who _ => wfWho who
  | .fwCtrlReleaseHold _ who => wfWho who
  | .fwKick _ who => wfWho who
  | .mailboxReadWord0 n who => wfWho who && wfBox n
  | .mailboxReadWord15 n who => wfWho who && wfBox n
  | .sendPortSend _ who _ => wfWho who
  | .fwUpdate _ _ off len => decide (off < 2 ^ 40) && decide (len < 2 ^ 40)
  | .attestGo who => wfWho who
  | .intKeyFuse who => wfWho who
  | .swReset who _ => wfWho who
  | .ioHoldRelease who _ => wfWho who
  | .pllEnable _ who _ => wfWho who
  | .startupSequence rails temps _ _ _ => rails.length == 12 && temps.length == 34
  | .sensorSample rails temps => rails.length == 12 && temps.length == 34
  | .i2cWrite bytes => !bytes.isEmpty
  | .tileCmdHeldRelease _ | .mm _ | .drain _ | .zeroAcc _ | .planeLoadStart _ | .batchWindowExpiry _ | .rowCommit _ _ | .drainRead _ _ | .tileFlush _
  | .flushAbortReport _ | .tileCtrlRun _ _ | .tileRepairWrite _ _ | .trapLatchClear _ | .veDescHeldRelease _ | .descriptorDecode _ | .veWriteLand _
  | .descEndReport _ | .veFlush _ | .veCtrlRun _ _ | .stewardTrapTake _ _ | .trapJobEnd _ | .shareRecompute _ _ | .holdMaxCutoff _
  | .emergencyHold _ _ | .handoverDone _ | .nearReread _ _ | .nearRefresh _ _ | .nearHotRestore _ | .farAdmit _ | .farBurstIssue _
  | .farWindowPass _ _ | .farReread _ _ | .farRefresh _ _ | .mr4Poll _ _ _ | .farTrain _ | .trainStepDone _ | .trainStepTimeout _ _
  | .periodicRetrain _ | .periodicRetrainEnd _ _ | .fullRetrain _ | .caAlert _ | .alertRise _ | .tileSelftestEnd _ _ _ | .tileRetire _
  | .repairAssign _ | .pmCmdHeldRelease _ _ | .pmCmdEnd _ _ | .opComplete _ _ _ _ | .capacityReevaluation _ | .streamFrameEvent _ _ | .reserveGrant _
  | .reserveReturn _ _ | .transferStart _ _ | .listFetch _ _ | .entryIssue _ _ _ | .entryComplete _ _ _ | .transferComplete _ _ | .transferError _ _
  | .wheelAdvance _ _ | .seSlotHeldRelease _ _ | .multicastDeliver _ _ _ | .routerForward _ _ _ _ _ _
  | .ingressRelookup _ _ _ | .urgencyRise _ _ _ _ _ | .responseArrive _ _ | .requestTimeout _ _ _ | .bridgeRetry _ _ | .traceWrite _
  | .asynchronousSetReset _ _ _ _ _ | .clockSwitch _ _ _ _ _ | .deadSrc _ _ _ | .clockMonitorWindow _ _ _ _ | .fniTargetReply _ _ _ _
  | .fniMessageArrive _ _ | .vioLoss _ _ | .messageSinkTransfer _ _ | .holdPuChange _ | .slBundleIssue _ _ _ | .slResultLand _ _ | .slNop _ _
  | .slMac _ _ | .slMacc _ _ | .slMsu _ _ | .slMacz _ _ | .slAclr _ _ | .slMacn _ _ | .slLp _ _ _ | .slLc _ _ _ | .slLpc _ _ _ | .slSp _ _
  | .slSc _ _ | .slLcsp _ _ _ | .slHalt _ _ | .slWait _ _ | .slReti _ _ | .slBr _ _ | .slBz _ _ | .slBnz _ _ | .slBlt _ _ | .slBge _ _ | .slLoop _ _
  | .slLoopi _ _ | .slAdd _ _ | .slSub _ _ | .slAnd _ _ | .slOr _ _ | .slXor _ _ | .slSha _ _ | .slCadd _ _ | .slCsub _ _ | .slAddi _ _ | .slMovi _ _
  | .slMovhi _ _ | .slNorm _ _ | .slNormv _ _ | .slExp _ _ | .slMtc _ _ | .slMfc _ _ | .slAadd _ _ | .slFrd _ _ | .slFclr _ _ | .slArst _ _
  | .slAgetv _ _ | .slAgeti _ _ | .slAfeed _ _ | .slOut _ _ | .slXfer _ _ | .xferEnd _ _ | .slInterrupt _ _ | .slIngressWord _ _ _ _
  | .slTimerExpiry _ _ | .slFabricIrq _ _ _ | .sliceEgressTransfer _ _ | .tapReset | .extest _ _ | .samplePreload _ _ | .idcode | .clamp | .highz
  | .bypass _ | .cfgLoad _ _ | .cfgWide _ _ | .retry _ | .cfgStatus | .cfgAbort | .harvestSel _ | .harvest | .netAccess _ _ _ | .streamHeader
  | .configFrame | .frameVerified | .gapTimeout | .tckBackstop | .recalDone _ _ | .detectPoll _ _ _ | .trainSettled _ _ _ | .bitLockHeld _ _
  | .blockLockAcquired _ _ | .blockLockLost _ _ | .bringupTimeout _ _ | .capsTimeout _ _ | .stepQuietEnd _ _ | .downRestart _ _ | .los _ _
  | .lol _ _ _ | .idleBlock _ _ | .alignBlock _ _ _ _ | .capability _ _ _ | .step _ _ _ | .dataBlock _ _ _ _ _ | .user _ _ _ | .rawSlip _ _
  | .laneWake _ _ | .frameStart _ _ _ | .lineStart _ _ _ | .frameEnd _ _ _ | .tapLineReturn _ _ _ _ | .frameEvent _ _ | .rxbTransfer _ _
  | .txbTransfer _ _ _ | .usbBusReset | .usbResume | .readReq _ | .writeReq _ | .keepalive _ | .hello _ | .windowClear _ | .sqDoorbell _ _
  | .cqDoorbell _ _ | .descriptorFetch | .nop | .job _ | .planUnload | .jobStop | .tensorWrite | .tensorRead | .jobEventStart _ | .jobEventEnd _
  | .completionRecordWrite | .trapRecordWrite _ | .event | .hostAbsent | .usbAttach _ | .boot _ | .watchdogExpiry _ _ | .processorCrash _ _ _ _
  | .mailbox _ | .attestReady | .standbyPowerOn | .railPowerUp | .brownOut _ | .mresetN | .setState _ _ _ | .setCap _ _ | .releaseHold _
  | .powerStateEnter | .wakeIn _ | .wakeCounterExpiry | .testPortWake | .capWindowEnd _ | .thermalTrip _ _ | .pllLockLost _ _ | .pllLockReturn _ _
  | .i2cRead | .refclkRetry _ => true

end Sys2Proof
end

