-- ==== Sys2Proof/Tests/Slice0.lean ====
section
/-! SUPPORT. Tests. For each statement, a state and operands that meet the premises of its clauses, and what single commands leave in one or two
fields; every expected value is worked out from the rule named beside it. -/

set_option Elab.async false

namespace Sys2Proof.Tests

open Sys2Proof Sys2Proof.Machine

/-- The machine after a command, and the state of a machine with an empty queue. -/
def nx (o : Host.Outcome State Fault Refusal) : Mach :=
  match o with
  | .next s => s.m
  | _ => Mach.reset
def st (m : Mach) : State := ⟨m, []⟩
def run (c : Instr) (m : Mach) : Mach := nx (exec c (st m))

/-! Tiles (03) -/

def tq (w : List Nat) : QCmd := ⟨1, .raw 5, w⟩
/-- MM I8 × I8, one row, ACC_ZERO; DRAIN and ZERO_ACC of one row (Table 3-4). -/
def mmW : List Nat := [0x01059901, 0, 0, 0, 0, 0, 0, 0]
def mmPushW : List Nat := [0x41059901, 0, 0, 0, 0, 0, 0, 0]
def drainW : List Nat := [0x01000002, 0, 0, 0, 0, 0, 0, 0]
def zeroW : List Nat := [0x01000003, 0, 0, 0, 0, 0, 0, 0]
def tmach (x : Tile) : Mach := ((Mach.reset.wr F.almReservedLo 6 1).wr F.tileCtrlRun 0 1).setTile 0 x
def headed (w : List Nat) (x : Tile) : Tile := { x with queue := [tq w] }
def plane1 : Plane := ⟨1, true, false, List.replicate 2304 1, [], false, planeCheck 9 (List.replicate 2304 1)⟩
def flight1 (nxt : Nat) : Flight :=
  ⟨1, 5, true, 0, 0, false, false, List.replicate 3 (List.replicate 48 ⟨3, 0, false, Tag.none⟩), [144, 144, 144], List.replicate 48 0, List.replicate 48 nxt, 0, [], false⟩

/-- 03 R74: the clauses of TileCommandsEnterTheQueue. -/
theorem test_tileCmdEnqueue : (tmach Tile.init).alive (.core 0) = true ∧ (tmach Tile.init).isRaw 0 = true ∧ (tmach Tile.init).on F.tileFenceFenced 0 = false ∧
    ((run (.tileCmdEnqueue 0 5 7) (tmach Tile.init)).tile 0).queue = [⟨0, .raw 5, [0, 0, 0, 0, 0, 0, 0, 7]⟩] ∧
    ((run (.tileCmdEnqueue 0 5 7) (tmach { Tile.init with queue := List.replicate 8 (tq mmW) })).tile 0).held = some (5, 7) ∧
    Mach.reset.isRaw 0 = false ∧ (run (.tileCmdEnqueue 0 5 7) Mach.reset).out = [.resp 5 rsRefused [] 0] ∧
    ((run (.tileCmdEnqueue 0 6 9) (tmach { Tile.init with held := some (5, 7) })).tile 0).held = some (5, 7) ∧
    ((run (.tileCmdHeldRelease 0) (tmach { Tile.init with held := some (5, 7) })).tile 0).queue = [⟨0, .raw 5, [0, 0, 0, 0, 0, 0, 0, 7]⟩] := by decide

/-- Table 3-5: cause 0x01 of an unknown opcode, 0x02 of a pairing, 0x03 of PASSES 0, 0x04 of M_COUNT 0, 0x05, 0x06 and 0x07. -/
theorem test_tileReject : tcReject [0, 0, 0, 0, 0, 0, 0, 0] = 1 ∧ tcReject [0x01059001, 0, 0, 0, 0, 0, 0, 0] = 2 ∧ tcReject [0x01049901, 0, 0, 0, 0, 0, 0, 0] = 3 ∧
    tcReject [0x00000003, 0, 0, 0, 0, 0, 0, 0] = 4 ∧ tcReject [0x02000003, 0, 0x03FF0000, 0, 0, 0, 0, 0] = 5 ∧
    tcReject [0x01059901, 0, 0, 0x4FFFF, 0, 0, 0, 0] = 6 ∧ tcReject [0x02059901, 0, 0, 0, 0, 0, 0, 0] = 7 ∧ tcReject mmW = 0 ∧ tcUnmasked mmW = [0] := by decide

/-- 03 R71, R73: the clauses of TileCommandsStartAtTheHead; a rejected MM reports REJECTED (2) with its cause. -/
theorem test_tileStart : (tmach Tile.init).on F.tileCtrlRun (tileIx 0) = true ∧
    (run (.mm 0) (tmach (headed [0, 0, 0, 0, 0, 0, 0, 0] Tile.init))).out.length = 1 ∧ ((run (.mm 0) (tmach (headed mmW Tile.init))).tile 0).started = true ∧
    tcReject drainW = 0 ∧ tcUnmasked drainW = [0] ∧
    ((run (.drain 0) (tmach { headed drainW Tile.init with factors := [⟨1, 0, false⟩] })).tile 0).started = true ∧
    SMap.get [] 0 ((run (.zeroAcc 0) (tmach { headed zeroW Tile.init with acc := [(0, List.replicate 48 9)] })).tile 0).acc = List.replicate 48 0 ∧
    ((run (.zeroAcc 0) (tmach (headed zeroW Tile.init))).tile 0).queue = [] := by decide

/-- 03 R51 to R56: the clauses of PlanesLoadAndRowsAreStaged. -/
theorem test_planes : (headed mmW Tile.init).wantsPlane = some (tq mmW) ∧
    ((run (.planeLoadStart 0) (tmach (headed mmW Tile.init))).tile 0).planes = [⟨1, false, false, [], [], false, []⟩] ∧
    ({ headed mmW Tile.init with planes := [⟨1, false, false, [], [], false, []⟩] } : Tile).cmdOf 1 = some (tq mmW) ∧
    fmtOfCode (tcFmtB mmW) = some .i8 ∧ anyHeld (tmach (headed mmW Tile.init)) 0 (.local 0) (wordsOf (tcPlane mmW * 64) (48 * rowBytes 9)) = false ∧
    (headed mmPushW Tile.init).pushTarget = some (tq mmPushW, true) ∧
    ((run (.rowPush 0 0 [1] [2]) (tmach (headed mmPushW Tile.init))).tile 0).winOpen = true ∧
    ((run (.rowPush 0 0 [1] [2]) (tmach { headed mmPushW Tile.init with winOpen := true, winDue := true })).tile 0).winDue = true ∧
    ((run (.rowPush 0 0 [1] [2]) (tmach { headed mmPushW Tile.init with started := true, done := 1 })).tile 0).rows = [] ∧
    ((run (.batchWindowExpiry 0) (tmach { Tile.init with winOpen := true })).tile 0).winDue = true := by decide

/-- 03 R53 to R70: the clauses of RowsFlowThroughTheArray; a block sum of 3 adds to 0. -/
theorem test_rows : (nextRows (tmach { headed mmW Tile.init with started := true, planes := [plane1] }) 0 (tq mmW)).1 = [0] ∧
    anyHeld (tmach Tile.init) 0 (.local 0) (rowWords (tq mmW) 0) = false ∧
    (run (.rowIssue 0 []) (tmach { headed mmW Tile.init with started := true })).rd F.tileBubbles (tileIx 0) = 1 ∧
    stageCycles (headed mmW Tile.init) (tq mmW) [0] = 1 ∧ (flight1 3).agrees = true ∧
    (run (.rowIssue 0 []) (tmach { headed mmW Tile.init with started := true, planes := [plane1] })).rd F.tileIssued (tileIx 0) = 1 ∧
    nth 9 (((run (.blockJunction 0 0 0 7 false) (tmach { Tile.init with flights := [flight1 0] })).tile 0).flights.map (fun f => nth 9 f.next 7)) 0 = 1 ∧
    ((run (.rowCommit 0 true) (tmach { Tile.init with flights := [flight1 3] })).tile 0).poison = 32 ∧
    SMap.get [] 5 ((run (.rowCommit 0 false) (tmach { Tile.init with flights := [flight1 3] })).tile 0).acc = List.replicate 48 0 ∧
    ((run (.factorFormation 0 []) (tmach (headed drainW Tile.init))).tile 0).factors.length = 1 ∧
    ((run (.drainRead 0 false) (tmach { headed drainW Tile.init with started := true, acc := [(0, List.replicate 48 0)], factors := [⟨1, 0, false⟩] })).tile 0).drained.length = 1 := by decide +kernel

/-- 03 R66, R67, R75: the clauses of TileControlCommands; SPARE0 on row 1 alone gives 103 cycles of latency. -/
theorem test_tileControl : (run (.tileFlush 0) (tmach (headed mmW Tile.init))).out.length = 1 ∧
    (run (.flushAbortReport 0) (tmach { Tile.init with progs := [⟨1, .raw 5, 0, false, 0, [], true, true⟩] })).out.length = 1 ∧
    (run (.tileCtrlRun 0 true) Mach.reset).on F.tileCtrlRun (tileIx 0) = true ∧ Tile.init.idle = true ∧
    (run (.tileRepairWrite 0 0x3F01) Mach.reset).rd F.tileLatencyLatency (tileIx 0) = 103 ∧
    (run (.tileRepairWrite 0 0x0101) Mach.reset).rd F.tileLatencyLeapCount (tileIx 0) = 0 ∧
    (run (.tileRepairWrite 0 0x3F01) (tmach Tile.init)).rd F.tileLatencyLeapCount (tileIx 0) = 0 ∧
    (run (.trapLatchClear (.tile 0)) (Mach.reset.wr F.tileTrapValid 0 1)).rd F.tileTrapValid (tileIx 0) = 0 ∧
    (run (.trapLatchClear (.ve 0)) (Mach.reset.wr F.veTrapValid 0 1)).rd F.veTrapValid (clIx 0) = 0 := by decide

/-! Vector engines (04) -/

/-- A descriptor of one dimension (Tables 4-2, 4-3): its operation, working format, length and the first words of A to D. -/
def vd (op work n a b c d : Nat) : List Nat := [op + 256 * work + 65536, n, 0, 0, a, 0, 0, b, 0, 0, c, 0, 0, d, 0, 0]
def cacheOp (fmt base : Nat) : Nat := 1 + 8 * fmt + 128 * base
def bankOp (fmt base : Nat) : Nat := 2 + 8 * fmt + 128 * base
/-- An I32 operation on one lane: A at 0, B at 64, D at 128 of the cache, holding 5 and 7. -/
def vdI (op : Nat) : List Nat := vd op 11 1 (cacheOp 11 0) (cacheOp 11 64) 0 (cacheOp 11 128)
def ve0 : Ve := { Ve.init with cache := [(0, 5), (1, 0), (2, 0), (3, 0), (64, 7), (65, 0), (66, 0), (67, 0)] }
def vq (w : List Nat) : QCmd := ⟨1, .raw 5, w⟩
/-- Cluster 0 reserved, its vector engine running, its bank 0 owned by group 0 with the vector engine in LOCAL. -/
def vmach (v : Ve) : Mach := ((((Mach.reset.wr F.almReservedLo 6 1).wr F.veCtrlRun 0 1).wr F.bankOwnerCurrent 0 0).wr F.ownerGroupLocal 0 0x3FFFF).setVe 0 v
def vrun (w : List Nat) : Ve := { ve0 with exec := some ⟨vq w, 0, [], none, [], 0, 0⟩ }

/-- 04 R77, R100 to R103: the clauses of VectorQueueCommands; cause 0x01 for an operation no table lists. -/
theorem test_vectorQueue : (vmach ve0).alive (.core 0) = true ∧ (vmach ve0).isRaw 0 = true ∧
    ((run (.veDescEnqueue 0 5 9) (vmach ve0)).ve 0).queue.length = 1 ∧
    ((run (.veDescEnqueue 0 5 9) (vmach { ve0 with queue := List.replicate 16 (vq (vdI 0x10)) })).ve 0).held = some (5, 9) ∧
    (run (.veDescEnqueue 0 5 9) Mach.reset).out = [.resp 5 rsRefused [] 0] ∧
    ((run (.veDescHeldRelease 0) (vmach { ve0 with held := some (5, 9) })).ve 0).queue.length = 1 ∧
    (vmach ve0).on F.veCtrlRun (clIx 0) = true ∧ readsTree (vdI 0x10) = false ∧ dReject (vdI 0x10) [] = 0 ∧
    dReject (vdI 0x77) [] = 1 ∧ ((run (.descriptorDecode 0) (vmach { ve0 with queue := [vq (vdI 0x10)] })).ve 0).exec.isSome = true ∧
    (run (.descriptorDecode 0) (vmach { ve0 with queue := [vq (vdI 0x77)] })).rd F.veRejectCause (clIx 0) = 1 ∧
    SMap.get 256 128 ((run (.veWriteLand ⟨0, 0⟩) (vmach { ve0 with writes := [⟨1, 0, [⟨128, 12, 255⟩], none⟩] })).ve 0).cache = 12 ∧
    (run (.descEndReport 0) (vmach { ve0 with ends := [⟨1, .raw 5, 3, 0, 0, 0⟩] })).out = [.ended ⟨.ve 0, .raw 5, 3, 0, 0, 0, [0], false⟩] ∧
    ((run (.veFlush 0) (vmach { ve0 with queue := [vq (vdI 0x10)] })).ve 0).queue = [] ∧
    (run (.veCtrlRun 0 true) Mach.reset).on F.veCtrlRun (clIx 0) = true := by decide

/-- 04 R78 to R99: the premises of VectorStepsIssue hold for each of its operations, and for GATHER. -/
theorem test_vectorStepPremises : ∀ op ∈ [0x01, 0x10, 0x11, 0x12, 0x13, 0x14, 0x15, 0x16, 0x17, 0x20, 0x21, 0x22, 0x23, 0x30, 0x31, 0x40, 0x41, 0x42, 0x43, 0x44,
    0x50, 0x51, 0x60], ∀ k ∈ (kindOf op).toList, dOp (vdI op) = op ∧ fmtOfCode (dWork (vdI op)) = some .i32 ∧ (dA (vdI op)).kind = 1 ∧
    waitsOn (vrun (vdI op)) (stepReads (vdI op) k (stepAt (vdI op) k 64 48 0)) = false ∧
    laneFails (vrun (vdI op)) (stepReads (vdI op) k (stepAt (vdI op) k 64 48 0)) = false ∧ (kindOf op).isSome = true := by decide

/-- 04 Table 4-4 on I32 lanes 5 and 7: 12, −2, 35, 7, 5; ABS and NEG of 5; COPY and RSUM of 5. -/
theorem test_vectorSteps : ∀ x ∈ ([(Instr.veAdd 0 [], 0x10, 12), (.veSub 0 [], 0x11, 254), (.veMul 0 [], 0x12, 35), (.veMax 0 [], 0x14, 7), (.veMin 0 [], 0x15, 5),
    (.veAbs 0 [], 0x16, 5), (.veNeg 0 [], 0x17, 251), (.veCopy 0 [], 0x01, 5), (.veRsum 0 [], 0x40, 5)] : List (Instr × Nat × Nat)),
    (((run x.1 (vmach (vrun (vdI x.2.1)))).ve 0).writes.map (fun y => y.bytes.head?.map (fun b => (b.addr, b.val)))) = [some (128, x.2.2)] := by decide

/-- 04 R85: the clauses of VectorLoadsAndStores, at cluster 0's own bank and at a bank of another group. -/
theorem test_loadStore : kindOf 2 = some .load ∧ dMask (vd 2 11 1 (bankOp 11 0) 0 0 (cacheOp 11 128)) = 0 ∧
    ((run (.veLoad 0 []) (vmach (vrun (vd 2 11 1 (bankOp 11 0) 0 0 (cacheOp 11 128))))).ve 0).writes.length = 1 ∧
    firstRefused (vmach ve0) 0 (wordsOfLocs [⟨0, 0, 32⟩]) = none ∧ anyHeld (vmach ve0) 0 (.local 16) (wordsOfLocs [⟨0, 0, 32⟩]) = false ∧
    firstRefused ((vmach ve0).wr F.bankOwnerCurrent (bankIx 0) 7) 0 (wordsOfLocs [⟨0, 0, 32⟩]) ≠ none ∧
    (run (.veStore 0 []) (vmach (vrun (vd 3 11 1 (cacheOp 11 64) 0 0 (bankOp 11 4))))).byte (bankBase 0 + 4) = 7 ∧
    ((run (.veStore 0 []) ((vmach (vrun (vd 3 11 1 (cacheOp 11 64) 0 0 (bankOp 11 4)))).wr F.bankOwnerCurrent (bankIx 0) 7)).ve 0).exec = none := by decide

def sin (f : Fmt) (xs : List Nat) (idx : List Int) : StepIn :=
  { w := vdI 0x30, kind := .perm, work := f, tr := false, at_ := stepAt (vdI 0x30) .perm 64 48 0, tree := [], act := [0], a := xs.map (fun x => (x, 0)), idx := idx, got := [] }
/-- 04 R89 to R97: the clauses of VectorOperationResults; index −1 is out of range; RMAX over no I32 lane is −2^31. -/
theorem test_vectorResults : (sin .i32 [5] [-1]).at_.p = 1 ∧ (stepPerm (sin .i32 [5] [-1])).codes = [0] ∧ (stepGather (sin .i32 [5] [0])).codes = [0] ∧
    reduceBest .i32 true false [] = (0x80000000, 0) ∧ reduceBest .i32 false false [] = (0x7FFFFFFF, 0) ∧ (sin .g16 [5] [0]).work.isInt = false ∧
    ([(3, 0x7FC0)] : List (Nat × Nat)).find? (fun z => isNanCode .g16 z.2) = some (3, 0x7FC0) ∧ reduceBest .g16 true true [(3, 0x7FC0)] = (3, flNan) := by decide

/-! Arbiters, banks, the near and far tiers (06, 09) -/

/-- Bank 0 of cluster 0, owned by group 0, whose members are every port A requester. -/
def bmach : Mach := (Mach.reset.wr F.bankOwnerCurrent 0 0).wr F.ownerGroupLocal 0 0x3FFFF
def bread (i : Nat) : ArbReq := ⟨i, i, .bank 3 1 .read⟩
def bq (op : BankOp) : List BankAcc := [⟨2, 7, 3, 1, op, false⟩]

def preq (idx : Nat) : HostReq := ⟨idx, 0, 0, none, 8, .fetch 0⟩
def pmach : Mach := { Mach.reset with hl := { Mach.reset.hl with waiting := [preq 0, preq 1] } }

/-- 09 R213 to R218: the premises of ArbiterCommands' clauses; of two equal ranks the lower index wins first, then the next above it (R214). -/
theorem test_arbiter : bmach.alive (arbDom (.bankA 0)) = true ∧ arbSize (.bankA 0) = 18 ∧ bmach.arbSay (.bankA 0) (bread 2) = .go ∧
    bmach.winner (.bankA 0) [bread 5, bread 2] = some (bread 2) ∧
    (run (.arbiterGrant (.bankA 0) [bread 5, bread 2]) bmach).winner (.bankA 0) [bread 5, bread 2] = some (bread 5) ∧
    (run (.arbiterGrant (.bankA 0) [bread 5, bread 2]) bmach).rd F.bankLost (clSub 0 5) = 1 ∧
    ((run (.arbiterGrant .proxy [⟨0, 0, .proxy 1⟩]) pmach).arb .proxy).holder = some ⟨0, 0⟩ ∧
    (run (.arbiterGrant .proxy [⟨0, 0, .proxy 1⟩]) Mach.reset).arb .proxy = Arb.init ∧
    (run (.arbiterGrant (.bankA 0) [bread 5]) (bmach.setArb (.bankA 0) { Arb.init with holder := some ⟨2, 2⟩ })).out = [] ∧
    (run (.holdMaxCutoff ⟨.far 0, 0⟩) ((bmach.setFar 0 { FarCh.init with step := 3 }).setArb (.far 0) { Arb.init with holder := some ⟨1, 9⟩ })).on F.farCutoffValid 0 = false ∧
    (run (.holdMaxCutoff ⟨.far 0, 0⟩) (bmach.setArb (.far 0) { Arb.init with holder := some ⟨1, 9⟩ })).rd F.farCutoffId 0 = 9 ∧
    (run (.holdMaxCutoff ⟨.bankB 0, 0⟩) (bmach.setArb (.bankB 0) { Arb.init with holder := some ⟨1, 9⟩ })).rd F.bankCutoffId (clIx 0) = 9 ∧
    ((run (.holdMaxCutoff ⟨.bankA 0, 0⟩) (bmach.setArb (.bankA 0) { Arb.init with holder := some ⟨2, 2⟩ })).rd F.bankCutoffId (clIx 0)) = 2 ∧
    ((run (.holdMaxCutoff ⟨.proxy, 0⟩) (bmach.setArb .proxy { Arb.init with holder := some ⟨1, 9⟩ })).on F.hlCutoffValid 6) = true ∧
    ((run (.emergencyHold .proxy true) (bmach.setArb .proxy { Arb.init with holder := some ⟨1, 9⟩ })).arb .proxy).suspended = some ⟨1, 9⟩ ∧
    ((run (.emergencyHold .proxy false) (bmach.setArb .proxy { Arb.init with emergency := true, suspended := some ⟨1, 9⟩ })).arb .proxy).holder = some ⟨1, 9⟩ ∧
    ((run (.backoffExpiry .proxy 1) (bmach.setArb .proxy { Arb.init with backoff := 2 })).arb .proxy).backoff = 0 ∧
    (run (.requesterMask ⟨.proxy, 0⟩ 1 true) (pmach.setArb .proxy { Arb.init with holder := some ⟨1, 9⟩ })).hl.waiting.length = 1 ∧
    ((run (.requesterMask ⟨.proxy, 0⟩ 1 false) (bmach.setArb .proxy { Arb.init with masked := 2 })).arb .proxy).masked = 0 ∧
    ((run (.requesterMask ⟨.proxy, 0⟩ 1 true) (bmach.setArb .proxy { Arb.init with holder := some ⟨1, 9⟩ })).arb .proxy).holder = none := by decide

/-- 06 R126 to R134: the clauses of BankCommands; 5 + 7 is 12 and the old value is answered. -/
theorem test_bank : (run (.bankRead 0 false false false []) (bmach.setBankQ 0 false (bq .read))).out = [.resp 7 rsOk (List.replicate 64 0) 0] ∧
    (run (.bankWrite 0 false false false []) (bmach.setBankQ 0 false (bq (.write (List.replicate 64 9) (List.replicate 64 true))))).byte (bankBase 0 + 192) = 9 ∧
    (run (.atomicAdd 0 ⟨false, false⟩ []) ((bmach.setBankQ 0 true (bq (.add false 0 7))).putByte (bankBase 0 + 192) 5)).byte (bankBase 0 + 192) = 12 ∧
    (run (.atomicAdd 0 ⟨false, false⟩ []) ((bmach.setBankQ 0 true (bq (.add false 0 7))).putByte (bankBase 0 + 192) 5)).out = [.resp 7 rsOk [5, 0, 0, 0] 0] ∧
    (run (.atomicSwap 0 ⟨false, false⟩ []) ((bmach.setBankQ 0 true (bq (.swap false 0 7))).putByte (bankBase 0 + 192) 5)).byte (bankBase 0 + 192) = 7 ∧
    F.bankOwnerGroup.isLegal 3 = true ∧ F.bankOwnerGroup.isLegal 9 = false ∧ bmach.on F.bankOwnerPending (bankIx 0) = false ∧
    (run (.bankOwnerWrite 0 3) bmach).on F.bankOwnerPending (bankIx 0) = true ∧ (run (.bankOwnerWrite 0 9) bmach).on F.bankOwnerPending (bankIx 0) = false ∧
    (run (.handoverDone 0) (run (.bankOwnerWrite 0 3) bmach)).rd F.bankOwnerCurrent (bankIx 0) = 3 := by decide

/-- The four layers of engine 0 at a number of eighths of a degree. -/
def layersAt (t : Nat) : Mach := (upFrom 7 4).foldl (fun m j => m.wr F.sensTempTemp (tempIx j) t) Mach.reset

/-- 06 R141 to R146: the clauses of NearTierCommands, at the first byte of engine 0's near tier. -/
theorem test_near : placeOf Mach.reset.fuses 0x200000000000 = .near 0 0 ∧ Mach.reset.nearSay 0 0 idHealth = 0 ∧ Mach.reset.nearIsBad 0x200000000000 = false ∧
    (run (.nearBurstRead idHealth 0x200000000000 false) Mach.reset).out = [.resp idHealth rsOk (List.replicate 64 0) 0] ∧
    (run (.nearBurstRead idHealth 0x200000000000 true) Mach.reset).near.waits.length = 1 ∧
    (run (.nearBurstWrite idHealth 0x200000000000 [8] [true] false) Mach.reset).byte 0x200000000000 = 8 ∧
    (Mach.reset.wr F.nearCtrlAccept 0 0).on F.nearCtrlAccept 0 = false ∧
    (run (.nearBurstRead 5 0x200000000000 false) (Mach.reset.wr F.nearCtrlAccept 0 0)).out = [.resp 5 rsUnavailable [] 0] ∧
    (run (.nearReread 0 false) (run (.nearBurstRead idHealth 0x200000000000 true) Mach.reset)).rd F.nearRereads 0 = 1 ∧
    (run (.nearReread 0 true) (run (.nearBurstRead idHealth 0x200000000000 true) Mach.reset)).on F.nearEventsCrcFail2 0 = true ∧
    nearFull (List.replicate 32 ⟨0, 5, 0x200000000000, none, false⟩) 0 0x200000000000 = true ∧
    nearBlocked [⟨0, 5, 0x200000000000, none, true⟩] 0 5 0x200000000000 = true ∧
    (run (.nearBurstRead idHealth 0x200000000000 false) (run (.nearBurstRead idHealth 0x200000000000 true) Mach.reset)).near.waits.length = 2 ∧
    (run (.nearBurstRead 5 0x200000000000 false) (((Mach.reset.wr F.nearCtrlAccept 0 1).wr F.nearStatusReady 0 1).retirePage 0 0)).out = [.resp 5 rsRefused [] 0] ∧
    (run (.nearHotRestore 0) (Mach.reset.wr F.nearStatusHot 0 1)).on F.nearStatusHot 0 = true ∧
    (run (.nearHotRestore 0) ((layersAt 8).wr F.nearStatusHot 0 1)).on F.nearStatusHot 0 = false ∧ (run (.nearRefresh 0 4) (layersAt 960)).on F.nearStatusHot 0 = true ∧
    (run (.nearRefresh 0 4) Mach.reset).near.turn = [(4, 1)] := by decide +kernel

def fmach (x : FarCh) : Mach := (Mach.reset.wr F.farStatusReady 0 1).setFar 0 x
def fb : FarBurst := ⟨7, 128, 1, none, false⟩
def fbw : FarBurst := ⟨7, 128, 1, some ([6], [true]), false⟩
/-- 09 R200 to R210: the clauses of FarBurstCommands on channel 0. -/
theorem test_farBursts : farIx 0 = 0 ∧ ((run (.farAdmit 0) (fmach { FarCh.init with xfer := some ⟨7, 128, 32, none⟩ })).farCh 0).queue = [.burst fb] ∧
    ((run (.farBurstIssue 0) (fmach { FarCh.init with queue := [.burst fb] })).farCh 0).retry = [fb] ∧
    ((run (.farAdmit 0) (fmach { FarCh.init with xfer := some ⟨7, 128, 128, none⟩ })).farCh 0).xfer = none ∧
    ((run (.farAdmit 0) (fmach { FarCh.init with xfer := some ⟨7, 128, 64, some (List.replicate 64 1, List.replicate 64 true)⟩ })).farCh 0).queue.length = 1 ∧
    ((run (.farBurstIssue 0) (fmach { FarCh.init with queue := [.refresh 0] })).farCh 0).queue = [] ∧
    ((run (.farBurstIssue 0) (fmach { FarCh.init with step := 2, queue := [.burst fb, .refresh 0] })).farCh 0).queue = [.burst fb] ∧
    (run (.farWindowPass 0 false) (fmach { FarCh.init with retry := [fb] })).out = [.resp 7 rsOk (List.replicate 64 0) 0] ∧
    (run (.farWindowPass 0 false) (fmach { FarCh.init with retry := [fbw] })).mem.length = 1 ∧
    ((run (.farWindowPass 0 true) (fmach { FarCh.init with retry := [fb] })).farCh 0).reread = some (fb, 0) ∧
    (run (.farReread 0 false) (fmach { FarCh.init with reread := some (fb, 0) })).out = [.resp 7 rsOk (List.replicate 64 0) 1] ∧
    ((run (.farReread 0 true) (fmach { FarCh.init with reread := some (fb, 0) })).farCh 0).reread = some (fb, 1) ∧
    (run (.farReread 0 true) (fmach { FarCh.init with reread := some (fb, 1) })).on F.farEventsReadLost 0 = true ∧
    0 < (fmach FarCh.init).rd F.farStatusRanks 0 ∧ ((run (.farRefresh 0 0) (fmach FarCh.init)).farCh 0).queue = [.refresh 0] ∧
    (run (.mr4Poll 0 true false) Mach.reset).on F.farStatusHot 0 = true ∧
    (run (.mr4Poll 0 false true) (run (.mr4Poll 0 true false) Mach.reset)).on F.farStatusHot 0 = false := by decide

/-- 09 R204 to R208: the clauses of FarTrainingCommands. -/
theorem test_farTraining : FarCh.init.idle = true ∧ Mach.reset.on F.farCtrlAccept 0 = false ∧ ((run (.farTrain 0) Mach.reset).farCh 0).step = 1 ∧
    ((run (.farTrain 0) (fmach FarCh.init)).farCh 0).step = 2 ∧ ((run (.trainStepDone 0) (fmach { FarCh.init with step := 3 })).farCh 0).step = 4 ∧
    (run (.trainStepDone 0) (Mach.reset.setFar 0 { FarCh.init with step := 8 })).on F.farStatusReady 0 = true ∧
    (run (.trainStepTimeout 0 true) (Mach.reset.setFar 0 { FarCh.init with step := 8 })).rd F.farTrainResultCode 0 = 2 ∧
    ((run (.periodicRetrain 0) (fmach FarCh.init)).farCh 0).pause = true ∧ ((run (.periodicRetrain 0) (fmach { FarCh.init with mode := .waitRise })).farCh 0).pauseDue = true ∧
    ((run (.periodicRetrainEnd 0 true) (fmach { FarCh.init with pause := true })).farCh 0).needFull = true ∧
    ((run (.fullRetrain 0) (fmach { FarCh.init with needFull := true })).farCh 0).full = true ∧
    ((run (.caAlert 0) (fmach { FarCh.init with retry := [fb] })).farCh 0).mode = .waitRise ∧
    (run (.caAlert 0) (fmach { FarCh.init with mode := .replaying, retry := [fbw] })).on F.farEventsReplayFail 0 = true ∧
    ((run (.caAlert 0) (fmach { FarCh.init with mode := .singleHeld, singles := [fbw] })).farCh 0).mode = .singleRise ∧
    ((run (.alertRise 0) (fmach { FarCh.init with mode := .waitRise, retry := [fb] })).farCh 0).mode = .replaying ∧
    ((run (.alertRise 0) (fmach { FarCh.init with mode := .waitRise })).farCh 0).mode = .normal ∧
    ((run (.alertRise 0) (fmach { FarCh.init with mode := .singleRise, singles := [fbw] })).farCh 0).mode = .singleHeld := by decide

/-! Almanac (05, 07, 15) -/

def tensor1 : Tensor := { handle := 5, fmt := 9, kind := 4, hint := 0, pin := false, bytes := 64, bx8 := 0, scale := 0, firstOp := 0, lastOp := 0, slot := 0, ptBase := 0, pages := [], used := 0 }
def opRec1 : OpRec := { kind := 1, flags := 4, deps := [], ins := [], outs := [5], splits := [], body := [] }
def plan1 : Plan := { id := 1, classes := 7, maxpar := 1, span := 1, work := 1, nearb := 0, farb := 0, tensors := [tensor1], ops := [opRec1], unload := none }
def event1 : Event := { no := 0, done := [], flags := 0, statuses := [], undelivered := false, phase := 1, trapWritten := false }
def job1 : Job :=
  { id := 3, plan := 1, cls := 1, rate := 1, deadline := 0, burst := 0, seed := 0, events := 1, sq := 0, cq := 0, descId := 9, onEnd := false,
    trapWin := 0xFF, trapOff := 0, bindings := [], held := true, set := [], nextSet := [], extraFar := 0, nextEv := 1, run := some event1, frames := 0, stop := false, grace := none,
    statuses := [], flags := 0, last := 0, traps := [] }
def share1 : Share :=
  { id := 0, job := 3, op := 0, split := 0, cluster := 0, before := [], tag := 4, work := [], todo := [], expanded := false, sent := [], waits := 0,
    failed := false, runs := 0, poisonNow := [], poisonBefore := [], ended := false }
def trap1 : TrapRec := { op := 0, unit := 1, cause := 1, die := 0, loc := 0, row := 0, col := 0, kblk := 0, more := 0, cycle := 0 }
def rising (p : Nat) (m : Mach) : Mach := m.wr F.fwStatusState (procIx p) 2
/-- ALMANAC, HEALTH and STEWARD_0 run; plan 1 is loaded. -/
def amach : Mach :=
  let m := (((rising 4 (rising 3 (rising 1 Mach.reset))).wr F.almCtrlRun 6 1).wr F.almMigrateEn 6 1).wr F.sqEn (ringIx 0) 1
  { m with alm := { m.alm with plans := [plan1] } }
def jmach (j : Job) (l : List Share) : Mach := { amach with alm := { amach.alm with jobs := [j], shares := l } }
def nearLoc : Nat := 0x1000000

/-- A page of the STATE tensor lies far while a job waits for its first event: Table 7-6 promotes it. -/
def promoted : Mach := (jmach { job1 with nextEv := 0, run := none } []).putPte 0 (mkPte 0 0 1 3 true false)

/-- 07 R153 to R160: the premises of TranslationAndMovers' clauses. -/
theorem test_translation : (amach.xlat 0 0 0 false).1 = .refuse ∧ (((amach.putSlot 0 (mkSlot 0 64 true true false 5)).xlat 0 0 0 false).1 = .at_ 0) ∧
    ((((amach.putSlot 0 (mkSlot 0 64 true true false 5)).putPte 0 (2 ^ 59)).xlat 0 0 0 false).1 = .hold) ∧ amach.tensorOfSlot 0 = some (plan1, tensor1) ∧
    amach.almUp = true ∧ 0 < pagesOf 64 ∧ pteMoving (amach.pteEntry 0 0) = false ∧ amach.pinned plan1 tensor1 = false ∧ amach.pageFree ⟨0, nearLoc⟩ = true ∧
    nearLoc ∉ amach.usedLocs ∧ promoted.triggered plan1 tensor1 0 0 = true ∧ promoted.migDstOk tensor1 0 0 nearLoc [] = true ∧
    promoted.xlatInUse 2 0 = false ∧ (run (.migrationStart 0 0 0 nearLoc [] 7) promoted).alm.migs.length = 1 ∧
    ((run (.invalidate 2 0 0) (run (.migrationStart 0 0 0 nearLoc [] 7) promoted)).alm.migs.map (fun g => g.acks)) = [4] := by decide +kernel

def placed : Mach := amach.putPte 0 (mkPte nearLoc 0 0 3 true false)
/-- 07 R156, R158: a migration whose copy is done and acknowledged finishes; a page of the retired table may be evacuated. -/
theorem test_migration : (run (.migrationFinish 0 0) { amach with alm := { amach.alm with migs := [⟨0, 0, ⟨0, nearLoc⟩, [], 7, 0x3F, upFrom 0 32, false⟩] } }).alm.migs = [] ∧
    ptePrimary ((run (.migrationFinish 0 0) { amach with alm := { amach.alm with migs := [⟨0, 0, ⟨0, nearLoc⟩, [], 7, 0x3F, upFrom 0 32, false⟩] } }).pteEntry 5 0) = nearLoc ∧
    ptePTier (placed.pteEntry 0 0) = 0 ∧ placeOf placed.fuses (ptePrimary (placed.pteEntry 0 0) * 0x200000) = .near 0 0 ∧
    (placed.retirePage 0 0).isRetired 0 (nearPage 0) = true ∧ (placed.retirePage 0 0).pageFree ⟨0, nearLoc + 1⟩ = true ∧ nearLoc + 1 ∉ placed.usedLocs ∧
    placed.procUp 3 = true := by decide +kernel

/-- 07 R155, R158: a slab list takes the place of a near page, and a page of a table area that has gone bad is moved by HEALTH. -/
theorem test_moves : ptePTier (newPte (mkPte nearLoc 0 0 3 true false) 1 ⟨0, 0, ⟨2, 3⟩, [], 0, 0, [], false⟩) = 2 ∧
    ptePrimary (newPte (mkPte nearLoc 7 0 1 true false) 1 ⟨0, 0, ⟨1, 9⟩, [], 0, 0, [], true⟩) = nearLoc ∧
    pteBacking (newPte (mkPte nearLoc 0 0 3 true false) 1 ⟨0, 0, ⟨1, 9⟩, [], 0, 0, [], true⟩) = 9 ∧
    placed.locRetired 0 (placed.tabAddr 0 0 / 0x200000) = false ∧ (run (.evacuation 65536 0 ⟨0, nearLoc + 1⟩) placed).alm.tabs = [] := by decide +kernel

/-- 07 R159, R160: the clauses on page movers; a command of no burst tells its TAG 9 and 0 failures to mailbox 8. -/
theorem test_movers : ((run (.pmCmdEnqueue 0 0 idAlmanac 0x10000) Mach.reset).mover 0 0).queue.length = 1 ∧
    ((run (.pmCmdEnqueue 0 0 idAlmanac 0x10000) (Mach.reset.setMover 0 0 { Mover.init with queue := List.replicate 16 (5, []) })).mover 0 0).held = some (idAlmanac, 0x10000) ∧
    (run (.pmCmdEnqueue 0 0 5 0x10000) Mach.reset).out = [.resp 5 rsRefused [] 0] ∧
    ((run (.pmCmdHeldRelease 0 0) (Mach.reset.setMover 0 0 { Mover.init with held := some (5, 7) })).mover 0 0).queue = [(5, [0, 0, 0, 7])] ∧
    bitOf 0 ((Mach.reset.wr F.pmCtrlRun 0 1).rd F.pmCtrlRun 0) = true ∧
    ((run (.pmCmdEnd 0 0) ((Mach.reset.wr F.pmCtrlRun 0 1).setMover 0 0 { Mover.init with queue := [(idAlmanac, [0, 0x90000, 0, 0])] })).niq (niqKey 0 62 2)).map (fun p => (p.mb, p.data.take 8)) =
      [(8, [9, 0, 0, 0, 0, 0, 0, 0])] := by decide +kernel

/-- A submission descriptor (15 Table 15-6): OPCODE, PLAN, WINDOW, ARG and COUNT. -/
def desc (op plan win arg count : Nat) : List Byte :=
  leBytes 4 op ++ leBytes 4 plan ++ leBytes 8 9 ++ leBytes 10 0 ++ leBytes 1 win ++ leBytes 1 255 ++ leBytes 4 arg ++ leBytes 4 0 ++ leBytes 4 count ++ leBytes 24 0
def ticketed (op plan arg : Nat) (begun : Bool) (buf : List Byte) (m : Mach) : Mach :=
  ({ m with hl := { m.hl with tickets := [⟨0, 0, desc op plan 0 arg 0, begun⟩] } } : Mach).setIo 0 ⟨buf, 0, false⟩

/-- A plan image (07 Tables 7-1 to 7-3) of one STATE tensor of 64 bytes and one operation that writes it. -/
def planBody : List Byte :=
  leBytes 4 5 ++ [9, 4, 0, 0] ++ leBytes 8 64 ++ leBytes 8 0 ++ leBytes 8 0 ++ leBytes 4 0x30000 ++ [1, 4, 0, 0, 1, 0] ++ leBytes 6 0 ++ leBytes 4 5 ++ leBytes 4 0
def planImage : List Byte :=
  leBytes 4 0x314E4C50 ++ leBytes 2 1 ++ leBytes 2 7 ++ leBytes 4 1 ++ leBytes 4 6 ++ leBytes 2 0 ++ leBytes 2 1 ++ leBytes 4 184 ++ leBytes 2 1 ++ leBytes 2 1 ++
  leBytes 4 128 ++ leBytes 4 160 ++ leBytes 4 1 ++ leBytes 24 0 ++ sha512 planBody ++ planBody

/-- 07 R147 to R152: an empty image fails the first test of Table 7-4; the image above is loaded. -/
theorem test_planLoad : (ticketed 2 0 0 false [] amach).ticketOf 2 = some ⟨0, 0, desc 2 0 0 0 0, false⟩ ∧ checkPlan Mach.reset [] = .inl 1 ∧
    (checkPlan Mach.reset planImage).isRight = true ∧ Mach.reset.placesOk [tensor1] [⟨0, 0, [⟨0, nearLoc⟩]⟩] = true ∧
    (run (.planLoad [⟨0, 0, [⟨0, nearLoc⟩]⟩]) (ticketed 2 0 0 true planImage (rising 1 Mach.reset))).alm.plans.map (fun p => p.id) = [1] := by decide +kernel

/-- 07 R151, 15 R368: the other clauses of PlanAndTensorCommands. -/
theorem test_tensors : (run .planUnload (ticketed 3 9 0 false [] amach)).hl.tickets = [] ∧ (run .planUnload (ticketed 3 1 0 false [] amach)).alm.plans = [] ∧
    (ticketed 5 1 5 false [] amach).tensorNamed (desc 5 1 0 5 0) = .inr tensor1 ∧ (ticketed 5 9 5 false [] amach).tensorNamed (desc 5 9 0 5 0) = .inl 0x81 ∧
    slotLost ((amach.putSlot 0 (mkSlot 0 64 true true true 5)).slotEntry 0 0) = true ∧ slotLost (amach.slotEntry 0 0) = false ∧
    (run .tensorRead (ticketed 6 1 5 true [] amach)).hl.tickets = [] ∧
    ((placed.wr F.nearCtrlAccept 0 1).readTensor idAlmanac tensor1 (pieces 64)).isSome = true ∧
    (((placed.wr F.nearCtrlAccept 0 1).writeTensor idAlmanac tensor1 (List.replicate 64 3) (pieces 64)).map (fun x => x.1)) = some true := by decide +kernel

/-- 05 R112 to R121, 07 R161 to R163: the premises of OperationsSharesAndTraps. -/
theorem test_operations : (jmach job1 []).jobOf 3 = some job1 ∧ (jmach job1 []).planOf 1 = some plan1 ∧ opReady plan1 event1 0 = true ∧
    picksCover opRec1 [⟨0, 0, 4⟩] = true ∧ (jmach job1 []).mayPlace job1 0 = true ∧ (jmach job1 []).tagUsed 0 4 = false ∧ tagClash [⟨0, 0, 4⟩] = false ∧
    (run (.opPlace 3 0 [⟨0, 0, 4⟩]) (jmach job1 [])).alm.shares = [share1] ∧
    (run (.opComplete 3 0 0 false) (jmach job1 [{ share1 with ended := true }])).alm.shares = [] ∧
    ((run (.shareRecompute 0 0) (jmach job1 [{ share1 with expanded := true, failed := true }])).alm.shares.map (fun x => x.runs)) = [1] ∧
    ((jmach job1 [share1]).refetchOp share1 plan1 opRec1).1 = 0 ∧ (jmach job1 [share1]).dispatchable share1 = true ∧
    ((run (.shareDispatch 0 [⟨none, 0, List.replicate 16 0⟩]) (jmach job1 [share1])).alm.shares.map (fun x => x.expanded)) = [true] ∧
    ((run (.shareRecompute 0 7) (jmach job1 [{ share1 with expanded := true, failed := true, runs := 1 }])).alm.shares.map (fun x => (x.cluster, x.before))) = [(7, [0])] ∧
    ((run (.shareRecompute 0 7) (jmach job1 [{ share1 with expanded := true, failed := true, runs := 2 }])).alm.shares.map (fun x => x.ended)) = [true] ∧
    chosenTrap [trap1] = some trap1 ∧ (jmach { job1 with traps := [trap1] } []).trapSettled { job1 with traps := [trap1] } = true ∧
    (run (.trapRecordWrite 3) (jmach { job1 with traps := [trap1], trapWin := 0 } [])).hl.waiting.length = 1 ∧
    (run (.trapJobEnd 3) (jmach { job1 with traps := [trap1] } [])).alm.jobs = [] ∧
    ((run (.stewardTrapTake 0 (.tile 0)) (((jmach job1 [share1]).wr F.tileTrapValid 0 1).wr F.tileTrapOpTag 0 4)).alm.jobs.map (fun j => j.traps.length)) = [1] := by decide +kernel

/-! Jobs, reservations, stream engines, the network (07, 08, 10, 15) -/

def idleJob : Job := { job1 with run := none }
def event2 : Event := { event1 with phase := 2 }
def event0 : Event := { event1 with phase := 0 }
def doneEv : Event := { event1 with done := [0] }
def streamJob : Job := { job1 with cls := 0, set := [0] }

/-- 07 R164 to R168, 15 R366 to R368: the clauses of JobsAndEvents. Class 2 is admitted with no set; a STREAM job with DEADLINE 0 is refused. -/
theorem test_jobs : dsCount (desc 1 1 0 0 300) = 300 ∧ (run (.job []) { amach with hl := { amach.hl with tickets := [⟨0, 0, desc 1 1 0 0 1, false⟩] } }).hl.waiting.length = 1 ∧
    bindingsStray 0 [] = false ∧ (run (.job []) (ticketed 0x02000001 1 0 true [] amach)).alm.jobs.map (fun j => (j.id, j.set)) = [(1, [])] ∧
    (run (.job []) (ticketed 1 1 0 true [] amach)).rd F.almRefusals 6 = 1 ∧
    (run .jobStop (ticketed 4 0 3 false [] (jmach idleJob []))).alm.jobs = [] ∧
    (run .jobStop (ticketed 4 0 3 false [] (jmach job1 []))).alm.jobs.map (fun j => j.stop) = [true] ∧ amach.absent = false ∧
    (run (.jobEventStart 3) (jmach idleJob [])).alm.jobs.map (fun j => j.run.isSome) = [true] ∧
    (run (.jobEventStart 3) (jmach { job1 with run := some event0 } [])).alm.jobs.map (fun j => j.run) = [some event1] ∧
    (run (.streamFrameEvent 3 true) (jmach streamJob [])).alm.jobs.map (fun j => j.frames) = [1] ∧
    (run (.streamFrameEvent 3 false) (jmach streamJob [])).alm.jobs.map (fun j => j.nextEv) = [2] ∧
    (run (.jobEventEnd 3) (jmach { job1 with run := some doneEv } [])).alm.jobs.map (fun j => j.run.map (fun e => e.phase)) = [some 2] ∧
    (run (.jobEventEnd 3) (jmach { job1 with run := some event2 } [])).alm.jobs = [] ∧
    (run (.jobEventEnd 3) (jmach { job1 with run := some { event1 with phase := 4 } } [])).alm.jobs = [] ∧ (jmach job1 []).jobBusy 3 = false ∧
    (run (.jobEventStart 3) (jmach { idleJob with stop := true } [])).alm.jobs = [] ∧ (run (.jobEventStart 3) (jmach { idleJob with grace := some 0 } [])).alm.jobs = [] ∧
    (run (.streamFrameEvent 3 true) (jmach { streamJob with grace := some 0, run := none } [])).alm.jobs = [] ∧
    (run (.job []) { amach with hl := { amach.hl with tickets := [⟨0, 0, desc 1 9 0 0 1, false⟩] } }).hl.tickets = [] ∧
    (jmach { streamJob with held := false } []).broken = true ∧ (jmach streamJob []).broken = false ∧
    ((jmach { streamJob with nextSet := [1] } [share1]).settleSets.alm.jobs.map (fun j => j.set)) = [[0, 1]] ∧
    ((jmach { streamJob with nextSet := [1] } []).settleSets.alm.jobs.map (fun j => j.set)) = [[1]] ∧
    (run (.capacityReevaluation []) (jmach job1 [])).rd F.almEvals 6 = 1 := by decide +kernel

/-- 07 R170 to R172: the clauses of ReservationCommands. -/
theorem test_reservations : amach.requested 0 = false ∧ amach.isRaw 0 = false ∧ amach.slabsIn 0 = false ∧
    (run (.reserveRequest 0 5) amach).requested 0 = true ∧ (run (.reserveRequest 0 5) Mach.reset).requested 0 = true ∧
    (run (.reserveGrant 0) (run (.reserveRequest 0 5) amach)).isRaw 0 = true ∧
    (run (.reserveRelease 0 5) (run (.reserveGrant 0) (run (.reserveRequest 0 5) amach))).requested 0 = false ∧
    (run (.reserveReturn 0 2) (run (.reserveRelease 0 5) (run (.reserveGrant 0) (run (.reserveRequest 0 5) amach)))).isRaw 0 = false ∧
    (run (.almCtrlRun 5 false) amach).almUp = false ∧ (run (.almCtrlRun 5 true) (rising 1 Mach.reset)).almUp = true ∧ amach.on F.almCtrlRun 6 = true := by decide +kernel

def nearA : Nat := 0x200000000000
def arming1 : Arming := { desc := 0, list := nearA, count := 1, notify := 0, tag := 6, lagMax := 4, enable := 0, bases := [], replaced := none, job := none, serves := none }
def entry1 : SeEntry :=
  { idx := 0, kind := 1, src := ⟨nearA, none⟩, dst := ⟨nearA + 64, none⟩, rowLen := 1, rows := 1, srcPitch := 0, dstPitch := 0, dep := false, mcast := false, notify := false, etag := 0,
    issued := 0, data := [], sent := [], delivered := 0, bad := false, complete := false }
def transfer1 : Transfer :=
  { arm := arming1, fetched := 1, entries := [], flags := 0, attached := 0, detached := 0, delivered := [], met := none, failed := false, flushed := false, notices := [], wrote := [] }
def smach (x : StreamEng) : Mach := (((Mach.reset.wr F.nearCtrlAccept 0 1).wr F.seCtrlRun 0 1).wr F.seSlotKind 0 1).setSe 0 0 x
def running (t : Transfer) : StreamEng := { StreamEng.init with run := some t }

/-- 08 R175 to R193: the clauses of StreamEngineTransfers; the entry at the list's start has ROW_LEN 0, cause 0x02. -/
theorem test_streamEngine : ((smach StreamEng.init).snapshot 0 0 0).count = 0 ∧ ((run (.seArm 0 0 0 ⟨5, none⟩) (smach StreamEng.init)).niq (niqKey 0 10 2)).length = 1 ∧
    ((run (.seArm 0 0 0 ⟨5, none⟩) ((smach StreamEng.init).wr F.seDescCount 0 1)).se 0 0).queue.length = 1 ∧
    (run (.seArm 0 0 0 ⟨5, none⟩) (((smach StreamEng.init).wr F.seDescCount 0 1).wr F.seDescStateState 0 1)).on F.seEventsRearmOverrun 0 = true ∧
    ((run (.seArm 0 0 0 ⟨5, none⟩) (((smach StreamEng.init).wr F.seDescCount 0 1).wr F.seDescStateState 0 2)).se 0 0).pending.length = 1 ∧
    ((run (.transferStart 0 0) (smach { StreamEng.init with queue := [arming1] })).se 0 0).run.isSome = true ∧
    (smach StreamEng.init).unitSay (idSe 0 0) nearA = .ok ∧ (smach StreamEng.init).unitSay (idSe 0 0) (bankBase 0) = .refuse ∧
    ((run (.listFetch 0 0) (smach (running { transfer1 with fetched := 0 }))).se 0 0).run.map (fun t => t.met) = some (some (2, 0)) ∧
    ((run (.listFetch 0 0) (smach (running { transfer1 with fetched := 0, arm := { arming1 with list := bankBase 0 } }))).se 0 0).run.map (fun t => t.met) = some (some (6, 0)) ∧
    (smach (running { transfer1 with entries := [entry1] })).wheelPick 0 0 { transfer1 with entries := [entry1] } = some (entry1, false) ∧
    (run (.entryIssue 0 0 false) (smach (running { transfer1 with entries := [entry1] }))).rd F.seWritten 0 = 1 ∧
    (run (.entryComplete 0 0 0) (smach (running { transfer1 with entries := [{ entry1 with issued := 1 }] }))).rd F.seDescDone 0 = 1 ∧
    (run (.transferError 0 0) (smach (running { transfer1 with met := some (6, 0) }))).rd F.seErrCause 0 = 6 ∧
    ((run (.transferComplete 0 0) ((smach (running transfer1)).wr F.seDescDone 0 1)).se 0 0).run = none := by decide +kernel

/-- A multicast block that has been read; sent to receiver 0, or not yet. -/
def block0 : SeEntry := { entry1 with mcast := true, dst := ⟨64, none⟩ }
def block1 : SeEntry := { block0 with issued := 1, sent := [(0, 1)] }
def mcast1 (base : Nat) : Transfer := { transfer1 with arm := { arming1 with enable := 1, bases := [base] }, attached := 1, entries := [block1] }
/-- Job 3's receivers in cluster 0 have been detached (08 R191). -/
def owing : Mach := { jmach job1 [] with alm := { (jmach job1 []).alm with owed := [⟨3, 0⟩] } }

/-- 08 R185 to R195: the clauses of StreamEngineMulticastAndControl. -/
theorem test_multicast : (mcast1 nearA).nextBlock 0 = some block1 ∧
    (run (.entryIssue 0 0 false) (smach (running { mcast1 nearA with entries := [block0] }) |>.putByte nearA 5)).byte (nearA + 64) = 5 ∧
    ((run (.multicastDeliver 0 0 0) (smach (running (mcast1 nearA)))).se 0 0).run.map (fun t => t.delivered) = some [(0, 1)] ∧
    ((run (.entryIssue 0 0 false) (smach (running { mcast1 (bankBase 0) with entries := [block0] }))).se 0 0).run.map (fun t => t.detached) = some 1 ∧
    ((run (.detachNotice 0 0 0 2) (smach (running { transfer1 with notices := [(0, 2)] }))).niq (niqKey 0 10 2)).length = 1 ∧
    (run (.multicastCompletionUnicast ⟨3, 0⟩ 0 0 1 nearA 1 0 9) owing).rd F.seDescTag (seDesc 0 0 1) = 9 ∧
    (smach StreamEng.init).seStopped 0 0 = false ∧ (run (.wheelAdvance 0 0) (smach StreamEng.init)).rd F.seWheelPosSlot 0 = 1 ∧
    ((run (.seSlotWrite 0 0 0 5 1) (smach StreamEng.init)).se 0 0).slots = [(0, 5, 1)] ∧
    (run (.seSlotWrite 0 0 1 5 1) (smach StreamEng.init)).rd F.seSlotKind (seDesc 0 0 1) = 1 ∧
    (run (.seSlotHeldRelease 0 0) (smach { StreamEng.init with slots := [(1, 5, 2)] })).rd F.seSlotKind (seDesc 0 0 1) = 2 ∧
    (run (.seCtrlRun 0 0 5 false) (smach StreamEng.init)).seStopped 0 0 = true ∧ Mach.reset.seStopped 0 0 = true ∧
    (run (.seCtrlRun 0 0 5 true) (Mach.reset.wr F.seWheelPosSlot 0 7)).rd F.seWheelPosSlot 0 = 0 ∧
    ((run (.seFlush 0 0 5) (smach { StreamEng.init with queue := [arming1] })).se 0 0).queue = [] := by decide +kernel

def packet1 : Packet := newPacket 4 (idSteward 0) 61 1 0 0 0x3F0000000000 4
/-- Die 0 with one route entry of NI 61 and of the east ingress, that ejects at once. -/
def nmach : Mach :=
  ((Mach.reset.wr F.nocCtrlRun 0 1).wr F.routeValid (ix 0 61 0 0) 1).wr F.routeRouteLo (ix 0 61 0 0) 7 |>.wr F.routeMask (ix 0 61 0 0) 511
    |>.wr F.routeValid (ix 0 64 0 0) 1 |>.wr F.routeMask (ix 0 64 0 0) 511
/-- 10 R225 to R243: the clauses of NetworkCommands. -/
theorem test_network : masterNi (idSteward 0) = some (0, 61) ∧ destOf nmach.fuses 0x700000000000 = none ∧ (destOf nmach.fuses 0x3F0000000000).isSome = true ∧
    (run (.packetInject (idSteward 0) (.regRead 0x700000000000)) nmach).out = [.resp (idSteward 0) rsDecode [] 0] ∧
    (run (.packetInject (idSteward 0) (.regRead 0x3F0000000000)) nmach).net.outst.length = 1 ∧ nmach.freeTxns (niKey 0 61) 1 = [0] ∧
    Mach.reset.routeOf 0 61 0 = none ∧ (nmach.routeOf 0 61 61).isSome = true ∧
    (nmach.setNq (qKey 0 0 0 0) [{ packet1 with route := 7, dest := 0 }]).heads 0 0 0 5 = [(0, { packet1 with route := 7, dest := 0 })] ∧
    (nmach.setNq (qKey 0 0 0 0) [{ packet1 with route := 0, dest := 4 }]).heads 0 0 0 0 = [(0, { packet1 with route := 0, dest := 4 })] ∧
    (nmach.pass 0 0 0 0 packet1).isSome = true ∧
    (run (.routerForward 0 0 0 5 0 0) (nmach.setNq (qKey 0 0 0 0) [{ packet1 with route := 7, dest := 0 }])).nq (qKey 0 0 0 0) = [] ∧
    ((run (.routerForward 0 0 0 0 3 0) (nmach.setNq (qKey 0 0 0 0) [{ packet1 with route := 0, dest := 4 }])).nq (qKey 0 0 1 1)).length = 1 ∧
    (run (.routerForward 0 0 0 0 3 0) ((nmach.setNq (qKey 0 0 0 0) [{ packet1 with route := 0, dest := 4 }]).setNq (qKey 0 0 1 1) (List.replicate 64 packet1))).nq (qKey 0 0 0 0) ≠ [] ∧
    (nmach.packetsOf (idSteward 0) 0 61 (.write nearA [1, 2] [true, true] false)).length = 1 ∧ nmach.mayInject 0 61 packet1 = true ∧ Mach.reset.mayInject 0 61 packet1 = false ∧
    ((run (.packetInject (idSteward 0) (.regRead 0x3F0000000000)) Mach.reset).niq (niqKey 0 61 0)).length = 1 ∧
    ((run (.packetInject (idSteward 0) (.regRead 0x3F0000000000)) (Mach.reset.wr F.nocCtrlRun 0 1)).niq (niqKey 0 61 0)) = [] ∧
    ((run (.urgencyRise 0 0 15 10 0) (nmach.setNiq (niqKey 0 61 0) [packet1])).niq (niqKey 0 61 0)).map (fun p => p.urg) = [1] ∧
    (run (.ingressRelookup 0 0 0) (nmach.setIngr (inKey 0 0 0) [{ packet1 with dest := 384 }])).rd F.nocMisroutes 0 = 1 ∧
    (run (.ingressRelookup 0 0 0) (nmach.setIngr (inKey 0 0 0) [packet1])).net.queues.length = 1 ∧
    ((run (.urgencyRise 0 0 0 0 0) (nmach.setNq 0 [packet1])).nq 0).map (fun p => p.urg) = [1] ∧
    (run (.responseArrive 0 61) ((nmach.setArrd 61 [packet1]).setOuts 61 [⟨0, 5, false⟩])).outs 61 = [] ∧
    (run (.responseArrive 0 61) (nmach.setArrd 61 [packet1])).rd F.nocLateRsp 0 = 1 ∧
    (run (.requestTimeout 0 61 0) (nmach.setOuts 61 [⟨0, 5, false⟩])).outs 61 = [⟨0, 5, true⟩] ∧
    (run (.requestTimeout 0 61 0) (nmach.setOuts 61 [⟨0, 5, true⟩])).outs 61 = [] ∧ bridgePeer 0 0 = some (1, 1) ∧ nmach.bridgeDown 0 0 = false ∧
    (run (.bridgeRetry 0 0) nmach).rd F.nocBridgeRetries 0 = 1 ∧ (run (.nocCtrlRun 0 0x1000 false) nmach).on F.nocCtrlRun 0 = false ∧
    (run (.traceRunWrite 0 0x1000 true) nmach).on F.ltCtrlTraceRun 0 = true ∧
    (run (.traceWrite 0) (((nmach.wr F.nearCtrlAccept 0 1).wr F.ltCtrlTraceRun 0 1).setTracer 0 { Tracer.init with store := [List.replicate 32 4], base := nearA })).rd
      F.ltWritePtr 0 = 1 := by decide +kernel

/-! The fabric and its slices (11, 12) -/

/-- Region 0 of die 0 past its start-up. -/
def fabm : Mach := (Mach.reset.wr F.frClkgatedGated (rgnIx 0 0) 0).setRgnStep 0 0 5
/-- The same with the fabric PLL locked (source codes 0 to 3 run). -/
def fabr : Mach := fabm.wr F.clkStatusLocked 0 32
/-- Clock 3 in a switch to input 2. -/
def fabs (m : Mach) : Mach := ((m.wr F.frClkselSel (rgnClk 0 0 3) 2).wr F.frClkselSelFabric (rgnClk 0 0 3) 0).wr F.frClkselSwitching (rgnClk 0 0 3) 1

/-- 11 R246 to R259, R269 to R271: the clauses of FabricLogicClocksAndPins. -/
theorem test_fabricClocks : Mach.reset.alive .uncore = true ∧ Mach.reset.alive .vigil = true ∧ fabm.rgnStep 0 0 = 5 ∧ Mach.reset.rgnStep 0 0 = 0 ∧
    bitOf 3 (fabm.rd F.frClkgatedGated (rgnIx 0 0)) = false ∧ (5 : Nat) < rgnBlocks 0 ∧
    fabr.srcRuns 0 0 = true ∧ fabm.srcRuns 0 0 = false ∧ fabr.srcRuns 0 0x15 = false ∧
    (fabr.wr F.frClkSrc0 (rgnClk 0 0 3) 0).clkPasses 0 0 3 true [] = true ∧ (fabr.wr F.frClkSrc0 (rgnClk 0 0 3) 0x15).clkPasses 0 0 3 true [] = false ∧
    ((fabr.setClkLow 0 0 3 true).clkLow 0 0 3) = true ∧ fabm.clkLow 0 0 3 = false ∧
    (run (.regionalClockEdge 0 0 3 true [⟨5, 0, true, false, false⟩] ⟨[], []⟩) (fabr.wr F.frClkSrc0 (rgnClk 0 0 3) 0)).ff 0 0 5 = 0 ∧
    (run (.clockSwitch 0 0 3 1 true) (fabs ((fabr.wr F.frClkSrc2 (rgnClk 0 0 3) 1).setClkLow 0 0 3 true))).rd F.frClkselActive (rgnClk 0 0 3) = 2 ∧
    (run (.clockSwitch 0 0 3 1 false) (fabs ((fabr.wr F.frClkSrc2 (rgnClk 0 0 3) 1).setClkLow 0 0 3 true))).rd F.frClkselSwitching (rgnClk 0 0 3) = 1 ∧
    (fabs fabm).on F.frClkselSwitching (rgnClk 0 0 3) = true ∧ fabm.on F.frClkselSwitching (rgnClk 0 0 3) = false ∧
    (run (.deadSrc 0 0 3) (fabs (fabr.wr F.frClkSrc2 (rgnClk 0 0 3) 1))).rd F.frEventsDeadSrc (rgnIx 0 0) = 1 ∧
    fabricWho 0 idHealth = true ∧ fabricWho 0 5 = false ∧ (run (.clockDividerWrite 0 0 3 5 2) fabm).out = [.resp 5 rsRefused [] 0] ∧
    (run (.clockDividerWrite 0 0 3 idHealth 2) fabm).rd F.frClkselDiv (rgnClk 0 0 3) = 2 ∧
    (run (.clockMonitorWindow 0 0 3 8396) fabm).rd F.frClkgatedGated (rgnIx 0 0) = 0 ∧
    (run (.clockMonitorWindow 0 0 3 8397) fabm).rd F.frClkgatedGated (rgnIx 0 0) = 8 ∧ (run (.clockMonitorWindow 0 0 3 70000) fabm).rd F.frClkmonEdges (rgnClk 0 0 3) = 65535 ∧
    (run (.frClkgateWrite 0 0 idHealth 0x00FF) fabm).rd F.frClkgatedGated (rgnIx 0 0) = 0xFF00 := by decide +kernel

/-- 11 R246, R249: a macrocell with no product term selected in its sum holds 0 through an edge; an asynchronous input nothing configures does nothing. -/
theorem test_fabricEdges : (run (.asynchronousSetReset 0 0 5 true false) fabm).ff 0 0 5 = fabm.ff 0 0 5 ∧
    dOuts (fun _ => false) 0 0 2 false = [false, false] ∧ dOuts (fun i => i == 8000) 0 0 2 false = [true, false] ∧
    dOuts (fun i => i == 8000 || i == mcItem 1 0) 0 0 2 false = [true, true] ∧ nextQ (fun _ => false) ⟨5, 0, false, false, false⟩ 0 true false = false ∧
    nextQ (fun i => i == mcItem 0 5) ⟨5, 0, false, false, false⟩ 0 true false = true ∧ nextQ (fun i => i == mcItem 0 7) ⟨5, 0, false, true, true⟩ 0 true true = false := by decide +kernel

/-- 11 R269 to R271: pins and banks. -/
theorem test_pins : (run (.vioLoss 0 1) ((Mach.reset.wr F.ioBankStatusReleased (ioIx 0) 1).wr F.ioBankStatusVioDecl (ioIx 0) 0)).rd F.ioEventsVioMismatch (ioIx 0) = 1 ∧
    bankDie 0 = 0 ∧ bankDie 6 = 1 ∧ (run (.ioPinSlewWrite 0 1 3 idHealth 2) fabm).out = [.resp idHealth rsDecode [] 0] ∧
    (run (.ioPinSlewWrite 0 0 3 idHealth 1) fabm).rd F.ioPinSlew (ix 0 0 3 0) = 1 ∧ (run (.holdPuChange true) Mach.reset).fab.holdPu = true := by decide +kernel

def fniMach (x : Fni) : Mach := ((((Mach.reset.wr F.fniStatusFenced (fniIx 0) 0).wr F.fniCtrlEn (fniIx 0) 1).wr F.fniCtrlAcceptTarget (fniIx 0) 1).wr F.nocCtrlRun 0 1).setFni 0 x
/-- 11 R261 to R267: the clauses of FabricInterfaceCommands. Address 255 with 2 bytes crosses a line of 256. -/
theorem test_fni : (run (.fniRequest 0 0 4 255 2 7 false [] []) (fniMach Fni.init)).out = [.fniResp 0 0 7 rsMalformed [] 0] ∧
    (run (.fniRequest 0 0 4 0x3F0000000000 4 7 false [] []) (fniMach Fni.init)).out = [.fniResp 0 0 7 rsNoRoute [] 0] ∧
    ((run (.fniRequest 0 0 4 254 2 7 false [] []) ((fniMach Fni.init).wr F.nocCtrlRun 0 0)).fni 0).reqs.length = 1 ∧
    ((run (.fniRequest 0 0 4 254 2 7 false [] []) Mach.reset).fni 0).tags = [] ∧
    (run (.fniTargetAccess 0 0 9 3 4 0) (fniMach Fni.init)).out = [.resp 9 rsMalformed [] 0] ∧ (run (.fniTargetAccess 0 0 9 4 4 0) Mach.reset).out = [.resp 9 rsRefused [] 0] ∧
    ((run (.fniTargetAccess 0 0 9 4 4 0) (fniMach Fni.init)).fni 0).targets = [(9, false, none)] ∧
    (run (.fniTargetReply 0 0 0x01020304 false) (fniMach { Fni.init with targets := [(9, false, none)] })).out = [.resp 9 rsOk [4, 3, 2, 1] 0] ∧
    ((run (.fniMessageArrive 0 0) ({ fniMach Fni.init with fw := { Mach.reset.fw with mails := [⟨4, 0x8000, [1, 2], false⟩] } })).fni 0).sink = [(4, [1, 2])] ∧
    (((fniMach { Fni.init with sink := List.replicate 16 (5, []) }).sinkArrive 0 4 [1]).fni 0).sink.length = 16 ∧
    ((fniMach { Fni.init with sink := List.replicate 16 (5, []) }).sinkArrive 0 4 [1]).rd F.fniEventsSinkCollide (fniIx 0) = 1 ∧
    (run (.messageSinkTransfer 0 0) (fniMach { Fni.init with sink := [(4, [1])] })).out = [.fniMessage 0 0 [1] 4] ∧
    (run (.rowPushWindow 0 9 0x10 0 (List.replicate 128 0) (List.replicate 128 true)) Mach.reset).out = [.resp 9 rsRefused [] 0] ∧
    (run (.rowPushWindow 0 9 4 0 [] []) (Mach.reset.wr F.almReservedLo 6 1)).out = [.resp 9 rsMalformed [] 0] := by decide +kernel

/-- A bundle word of slots C, L, M and AUX (12 Table 12-2). -/
def bun (c l m a : Nat) : Nat := c * 2 ^ 44 + l * 2 ^ 24 + m * 2 ^ 8 + a * 4
/-- Slot C with its operation and X0, X1, X2 in its register fields. -/
def opc (c : Nat) : Nat := c * 2 ^ 14 + 1 * 2 ^ 6 + 2 * 2 ^ 2
/-- Slice 0 of die 0 with a bundle of a word issued at 10 in cycle 100; X0 = 1, X1 = 5, X2 = 3 + 2i. -/
def sl0 (w : Nat) : Slice :=
  { Slice.init with
    g := [(0, 1), (1, 5), (2, 0x20003)], now := 100, image := some [], issued := some ⟨10, w, 0, 100, false, 15, [], []⟩ }
def slm (w : Nat) : Mach := (Mach.reset.wr F.slCtrlRun (slIx 0) 1).setSl 0 (sl0 w)
def lands (c : Instr) (w : Nat) : List (Nat × SlWhat) := ((run c (slm w)).sl 0).flight.map (fun r => (r.due, r.what))
/-- The same slice with circular pointer 0 of length 8 and step 4. -/
def landsC (c : Instr) (w : Nat) : List (Nat × SlWhat) :=
  ((run c (((slm w).wr F.slCl (slSub 0 0) 8).wr F.slCs (slSub 0 0) 4)).sl 0).flight.map (fun r => (r.due, r.what))
/-- Slot M with accumulator 1 and X2 times X2; slot L with P0, X1, circular pointer 0, X2. -/
def opm (c : Nat) : Nat := c * 2 ^ 12 + 1 * 2 ^ 10 + 2 * 2 ^ 6 + 2 * 2 ^ 2
def opl (c : Nat) : Nat := c * 2 ^ 15 + 1 * 2 ^ 9 + 2 * 2 ^ 3

/-- 12 R283: (3 + 2i)² = 5 + 12i, its conjugate product 13; R286: AFEED feeds X1. -/
theorem test_slMultiply : lands (.slMac 0 0) (bun 0 0 (opm 1) 0) = [(104, .acc 1 false 5 12 none)] ∧ lands (.slMacc 0 0) (bun 0 0 (opm 2) 0) = [(104, .acc 1 false 13 0 none)] ∧
    lands (.slMsu 0 0) (bun 0 0 (opm 3) 0) = [(104, .acc 1 false (-5) (-12) none)] ∧ lands (.slMacz 0 0) (bun 0 0 (opm 4) 0) = [(104, .acc 1 true 5 12 none)] ∧
    lands (.slAclr 0 0) (bun 0 0 (opm 5) 0) = [(104, .acc 1 true 0 0 none)] ∧ lands (.slMacn 0 0) (bun 0 0 (opm 6) 0) = [(104, .acc 1 false 5 12 (some (2, 0)))] ∧
    lands (.slAfeed 0 0) (bun 0 0 0 (0x11)) = [(102, .feed 5)] ∧ lands (.slAfeed 0 0) (bun (opc 0x30) 0 0 0x11) = [] := by decide +kernel

/-- 12 R279, R281, R287: loads land in cycle 103, pointers in 101; a store writes at once. -/
theorem test_slMemory : (sl0 0).dIsBad 0 0 = false ∧ ({ sl0 0 with dbad := [(0, 2)] } : Slice).dIsBad 0 0 = true ∧
    lands (.slLp 0 0 false) (bun 0 (opl 1) 0 0) = [(103, .reg 1 0), (101, .ctl 0 0)] ∧ landsC (.slLc 0 0 false) (bun 0 (opl 2) 0 0) = [(103, .reg 2 0), (101, .ctl 16 4)] ∧
    (landsC (.slLpc 0 0 ⟨false, false⟩) (bun 0 (opl 3) 0 0)).length = 4 ∧ ((run (.slSp 0 0) (slm (bun 0 (opl 4) 0 0))).sl 0).dword 0 0 = 5 ∧
    ((run (.slSc 0 0) (slm (bun 0 (opl 5) 0 0))).sl 0).dword 0 0 = 0x20003 ∧ (landsC (.slLcsp 0 0 false) (bun 0 (opl 6) 0 0)).length = 3 ∧
    run (.slNop 0 0) (slm 0) = slm 0 := by decide +kernel

/-- 12 R284 to R287 with X1 = 5 and X2 = 3 + 2i = 0x20003: ADD, SUB, AND, OR, XOR, complex sums, MOVI and the rest. -/
theorem test_slScalar : lands (.slAdd 0 0) (bun (opc 0x10) 0 0 0) = [(101, .reg 0 0x20008)] ∧ lands (.slSub 0 0) (bun (opc 0x11) 0 0 0) = [(101, .reg 0 0xFFFFFE0002)] ∧
    lands (.slAnd 0 0) (bun (opc 0x12) 0 0 0) = [(101, .reg 0 1)] ∧ lands (.slOr 0 0) (bun (opc 0x13) 0 0 0) = [(101, .reg 0 0x20007)] ∧
    lands (.slXor 0 0) (bun (opc 0x14) 0 0 0) = [(101, .reg 0 0x20006)] ∧ lands (.slSha 0 0) (bun (0x15 * 2 ^ 14 + 1 * 2 ^ 6 + 2) 0 0 0) = [(101, .reg 0 20)] ∧
    lands (.slSha 0 0) (bun (0x15 * 2 ^ 14 + 1 * 2 ^ 6 + 63) 0 0 0) = [(101, .reg 0 2)] ∧ lands (.slCadd 0 0) (bun (opc 0x16) 0 0 0) = [(101, .reg 0 0x20008)] ∧
    lands (.slCsub 0 0) (bun (opc 0x17) 0 0 0) = [(101, .reg 0 0xFFFFFE0002)] ∧ lands (.slAddi 0 0) (bun (0x18 * 2 ^ 14 + 1023) 0 0 0) = [(101, .reg 0 0)] ∧
    lands (.slMovi 0 0) (bun (0x19 * 2 ^ 14 + 1023) 0 0 0) = [(101, .reg 0 0xFFFFFFFFFF)] ∧ lands (.slMovhi 0 0) (bun (0x1A * 2 ^ 14 + 3) 0 0 0) = [(101, .reg 0 1027)] := by decide +kernel
theorem test_slScalar2 : lands (.slExp 0 0) (bun (opc 0x22) 0 0 0) = [(102, .reg 0 0)] ∧ (lands (.slNorm 0 0) (bun (opc 0x20) 0 0 0)).length = 1 ∧
    (lands (.slNormv 0 0) (bun (opc 0x21) 0 0 0)).length = 1 ∧ lands (.slMtc 0 0) (bun (0x28 * 2 ^ 14 + 4) 0 0 0) = [(101, .ctl 4 1)] ∧
    lands (.slMfc 0 0) (bun (0x29 * 2 ^ 14 + 63) 0 0 0) = [(101, .reg 0 0)] ∧ lands (.slAadd 0 0) (bun (0x2A * 2 ^ 14 + 255) 0 0 0) = [(101, .ctl 0 0xFFFFFFFC)] ∧
    lands (.slFrd 0 0) (bun (opc 0x2B) 0 0 0) = [(101, .reg 0 0)] ∧ lands (.slFclr 0 0) (bun (0x2C * 2 ^ 14 + 9) 0 0 0) = [(101, .fclr 9)] ∧
    lands (.slArst 0 0) (bun (0x30 * 2 ^ 14 + 4) 0 0 0) = [(101, .arst 4)] ∧ (sl0 0).auxBest = none ∧
    lands (.slAgetv 0 0) (bun (opc 0x31) 0 0 0) = [(101, .reg 0 0)] ∧ lands (.slAgeti 0 0) (bun (opc 0x32) 0 0 0) = [(101, .reg 0 (2 ^ 40 - 1))] := by decide +kernel

def big (v : Nat) (w : Nat) : Mach := (slm w).setSl 0 { sl0 w with g := [(1, v), (2, 1)] }
/-- 12 R277: the bounds of S40, where SliceScalarResults' clauses meet: 2^39 − 1 is kept, 2^39 saturates. -/
theorem test_slBounds : (run (.slAdd 0 0) (big (2 ^ 39 - 2) (bun (opc 0x10) 0 0 0))).rd F.slEventsNsat (slIx 0) = 0 ∧
    (run (.slAdd 0 0) (big (2 ^ 39 - 1) (bun (opc 0x10) 0 0 0))).rd F.slEventsNsat (slIx 0) = 1 ∧
    ((run (.slAdd 0 0) (big (2 ^ 39 - 1) (bun (opc 0x10) 0 0 0))).sl 0).flight.map (fun r => r.what) = [.reg 0 (2 ^ 39 - 1)] := by decide +kernel

/-- 12 R282, R289 to R291, R294, R295: the clauses of SliceControlFlow; a branch by 3 from bundle 10; X0 = 1. -/
theorem test_slControl : ((run (.slHalt 0 0) (slm (bun (opc 1) 0 0 0))).rd F.slHaltPc (slIx 0) = 10) ∧ ((run (.slWait 0 0) (slm (bun (opc 2) 0 0 0))).rd F.slStatusWaiting (slIx 0) = 1) ∧
    ((run (.slReti 0 0) ((slm (bun (opc 3) 0 0 0)).wr F.slIretPc (slIx 0) 77)).rd F.slStatusPc (slIx 0) = 77) ∧
    ((run (.slBr 0 0) (slm (bun (4 * 2 ^ 14 + 3) 0 0 0))).rd F.slStatusPc (slIx 0) = 13) ∧ ((run (.slBz 0 0) (slm (bun (5 * 2 ^ 14 + 3) 0 0 0))).rd F.slStatusPc (slIx 0) = 0) ∧
    ((run (.slBnz 0 0) (slm (bun (6 * 2 ^ 14 + 3) 0 0 0))).rd F.slStatusPc (slIx 0) = 13) ∧ ((run (.slBlt 0 0) (slm (bun (7 * 2 ^ 14 + 3) 0 0 0))).rd F.slStatusPc (slIx 0) = 0) ∧
    ((run (.slBge 0 0) (slm (bun (8 * 2 ^ 14 + 1013) 0 0 0))).rd F.slStatusPc (slIx 0) = 2047) ∧
    ((run (.slLoop 0 0) (slm (bun (9 * 2 ^ 14 + 1) 0 0 0))).sl 0).loops = [(11, 12, 1)] ∧
    ((run (.slLoopi 0 0) (slm (bun (10 * 2 ^ 14 + 16 * 5) 0 0 0))).sl 0).loops = [(11, 11, 5)] ∧
    ((run (.slLoopi 0 0) (slm (bun (10 * 2 ^ 14) 0 0 0))).rd F.slStatusPc (slIx 0) = 12) ∧ ((run (.slOut 0 0) (slm (bun (opc 0x38) 0 0 0))).sl 0).egress = [5] ∧
    (run (.slOut 0 0) ((slm 0).setSl 0 { sl0 (bun (opc 0x38) 0 0 0) with egress := List.replicate 32 4 })).rd F.slEventsEgressDrop (slIx 0) = 1 ∧
    (run (.slXfer 0 0) ((slm 0).setSl 0 { sl0 (bun (0x39 * 2 ^ 14) 0 0 0) with outbox := some (0, true, 0) })).rd F.slEventsXferBusy (slIx 0) = 1 ∧
    ((run (.slXfer 0 0) (((slm (bun (0x39 * 2 ^ 14) 0 0 0)).wr F.xferMode (slSub 0 0) 1).wr F.xferLen (slSub 0 0) 2)).sl 0).outbox = none ∧
    ((run (.slXfer 0 0) (((slm (bun (0x39 * 2 ^ 14) 0 0 0)).wr F.xferMode (slSub 0 0) 1).wr F.xferLen (slSub 0 0) 1)).sl 0).outbox.isSome = true := by decide +kernel

/-- A slice between bundles, its program's bundle 0 a MOVI that rotates by 1. -/
def idleSl : Slice := { Slice.init with pmem := [(0, bun (0x19 * 2 ^ 14 + 1) 0 0 0 + 1 + 1)], image := some [], now := 7 }
def idleM (x : Slice) : Mach := ((Mach.reset.wr F.frStatusFenced (rgnIx 0 0) 0).wr F.slCtrlRun (slIx 0) 1).setSl 0 x
/-- 12 R276 to R291: the clauses of SliceIssueLandingAndInterrupts. -/
theorem test_slIssue : idleSl.busy = false ∧ (idleM idleSl).slTakes 0 = false ∧ idleSl.pIsBad 0 0 = false ∧
    ((run (.slBundleIssue 0 0 false) (idleM idleSl)).sl 0).issued.map (fun b => (b.pc, b.todo)) = some (0, 8) ∧
    ((run (.slBundleIssue 0 0 false) (idleM idleSl)).sl 0).wbase = 31 ∧ (run (.slBundleIssue 0 0 false) (idleM idleSl)).rd F.slStatusPc (slIx 0) = 1 ∧
    (run (.slBundleIssue 0 0 false) (idleM { idleSl with pbad := [(0, 2)] })).rd F.slHaltCause (slIx 0) = 2 ∧
    ((run (.slResultLand 0 0) (idleM { idleSl with flight := [⟨7, 0, false, .reg 3 9⟩] })).sl 0).g = [(3, 9)] ∧
    (run (.slResultLand 0 0) (idleM { idleSl with flight := [⟨7, 0, false, .ctl 0 9⟩] })).rd F.slP (slSub 0 0) = 9 ∧
    ((run (.slResultLand 0 0) (idleM { idleSl with flight := [⟨7, 0, false, .arst 4⟩] })).sl 0).auxMode = 4 ∧
    ((run (.slResultLand 0 0) (idleM { idleSl with flight := [⟨7, 0, false, .feed 4⟩] })).sl 0).auxCount = 1 ∧
    (run (.slResultLand 0 0) ((idleM { idleSl with flight := [⟨7, 0, false, .fclr 127⟩] }).wr F.slEventsNsat (slIx 0) 1)).rd F.slEventsNsat (slIx 0) = 0 ∧
    ((run (.slResultLand 0 0) (idleM { idleSl with flight := [⟨7, 0, false, .acc 1 false 5 12 none⟩] })).sl 0).acc = [(1, (5, 12))] ∧
    (run (.slInterrupt 0 0) ((((idleM idleSl).wr F.slIrqIe (slIx 0) 1).wr F.slIrqPending (slIx 0) 4).wr F.slIrqEnable (slIx 0) 6 |>.wr F.slIvecPc (slSub 0 2) 50)).rd F.slStatusPc (slIx 0) = 50 ∧
    ((((idleM idleSl).wr F.slIrqIe (slIx 0) 1).wr F.slIrqPending (slIx 0) 4).wr F.slIrqEnable (slIx 0) 6).slTakes 0 = true ∧ lowestSet 8 0 (4 &&& 6) = some 2 := by decide +kernel

/-- 12 R291 to R299: the clauses of SlicePortsAndRun. A ring of two words takes one word, a ring of one word is always full. -/
theorem test_slPorts : ((run (.slIngressWord 0 0 [5] false) (((idleM idleSl).wr F.slIngLen (slIx 0) 12).wr F.slIngThresh (slIx 0) 9)).rd F.slIngWr (slIx 0) = 4) ∧
    (((run (.slIngressWord 0 0 [5] false) (((idleM idleSl).wr F.slIngLen (slIx 0) 12).wr F.slIngThresh (slIx 0) 9)).sl 0).dword 0 0 = 5) ∧
    (idleM idleSl).slFenced 0 = false ∧ (run (.slIngressWord 0 0 [5] false) ((idleM idleSl).wr F.slIngLen (slIx 0) 4)).rd F.slIngWr (slIx 0) = 0 ∧
    (run (.slTimerExpiry 0 0) (((idleM idleSl).wr F.slCtrlRun (slIx 0) 0).wr F.slTimer (slIx 0) 1)).rd F.slIrqPending (slIx 0) = 64 ∧
    (run (.slTimerExpiry 0 0) ((idleM idleSl).wr F.slTimer (slIx 0) 1)).rd F.slIrqPending (slIx 0) = 0 ∧ (run (.slFabricIrq 0 0 1) (idleM idleSl)).rd F.slIrqPending (slIx 0) = 32 ∧
    (run (.slIrqRaise 0 0 idHealth 3) (idleM idleSl)).rd F.slIrqPending (slIx 0) = 3 ∧ (run (.slIrqRaise 0 0 5 3) (idleM idleSl)).out = [.resp 5 rsRefused [] 0] ∧
    (run (.slCtrlRun 0 0 idHealth false) (idleM idleSl)).on F.slCtrlRun (slIx 0) = false ∧ (run (.slCtrlRun 0 0 5 true) (idleM idleSl)).out = [.resp 5 rsRefused [] 0] ∧
    (run (.slCtrlRun 0 0 idHealth true) (((Mach.reset.setRgnStep 0 0 5).wr F.slStartPc (slIx 0) 40).wr F.slStatusPc (slIx 0) 3)).rd F.slStatusPc (slIx 0) = 40 ∧ fabm.slStopped 0 = true ∧
    (run (.sliceEgressTransfer 0 0) (idleM { idleSl with egress := [5, 6] })).out = [.sliceOut 0 0 5] ∧
    (run (.xferEnd 0 0) (idleM { idleSl with outbox := some (1, true, 0) })).rd F.xferState (slSub 0 1) = 2 ∧
    ((idleM idleSl).slAccess 0 5 0x10000 4 none false).1 = rsOk ∧ ((idleM idleSl).slAccess 0 5 0x9000 4 none false).1 = rsDecode ∧
    ((idleM idleSl).slAccess 0 5 0x4000 4 (some (List.replicate 8 0, List.replicate 8 true)) false).1 = rsRefused := by decide +kernel

/-! Lanes, frame ports, the test port and the configuration controller (14, 13) -/

/-- Lane 0 of die 0 in a state, and the state it is left in. -/
def lnm (x : Nat) : Mach := Mach.reset.wr F.lnStatusState (lnIx 0) x
def lnAfter (c : Instr) (m : Mach) : Nat := (run c m).lnState 0

/-- 14 R330, R334 to R341: the clauses of LaneBringUp. -/
theorem test_laneBringUp : laneWho 0 idLink = true ∧ (lnm 0).rawConflict 0 = false ∧ (lnm 0).handed 0 = false ∧
    (run (.laneEnable 0 0 idLink) (lnm 0)).on F.lnCtrlEnable (lnIx 0) = true ∧
    (run (.laneEnable 0 0 idLink) ((lnm 0).wr F.lnCfgMode (lnIx 0) lmRaw |>.wr F.lnCfgRawRate (lnIx 0) 6 |>.wr F.lnCfgRawWidth (lnIx 0) 0)).on F.lnEventsCfgRefused (lnIx 0) = true ∧
    lnAfter (.laneEnable 0 0 idLink) { lnm 0 with fab := { (lnm 0).fab with step := [(1000, 1)] } } = lsDetect ∧
    lnAfter (.laneDisable 0 0 idLink) (lnm lsActive) = lsDisabled ∧ lnAfter (.laneDisable 0 0 idLink) (lnm lsRecal) = lsRecal ∧
    lnAfter (.laneRecal 0 0 idLink) (lnm lsDown) = lsRecal ∧ (run (.laneRecal 0 0 idLink) (lnm lsActive)).on F.lnEventsRecalRefused (lnIx 0) = true ∧
    lnAfter (.recalDone 0 0) (lnm lsRecal) = lsDisabled ∧ lnAfter (.detectPoll 0 0 true) (lnm lsDetect) = lsTrain ∧ lnAfter (.detectPoll 0 0 false) (lnm lsDetect) = lsDetect ∧
    lnAfter (.trainSettled 0 0 50) (lnm lsTrain) = lsBitLock ∧ (run (.trainSettled 0 0 50) (lnm lsTrain)).rd F.lnLossDbX2 (lnIx 0) = 50 ∧
    lnAfter (.bitLockHeld 0 0) (lnm lsBitLock) = lsBlockLock ∧ lnAfter (.bitLockHeld 0 0) ((lnm lsBitLock).wr F.lnCfgMode (lnIx 0) lmRaw) = lsActive ∧
    lnAfter (.blockLockAcquired 0 0) (lnm lsBlockLock) = lsBlockLock ∧
    lnAfter (.blockLockAcquired 0 0) ((lnm lsBlockLock).setLane 0 { Lane.init with run := 64 }) = lsCaps := by decide +kernel
theorem test_laneEvents : lnAfter (.blockLockLost 0 0) ((lnm lsActive).wr F.lnStatusBlockLock (lnIx 0) 1) = lsActive ∧
    lnAfter (.blockLockLost 0 0) (((lnm lsActive).wr F.lnStatusBlockLock (lnIx 0) 1).setLane 0 { Lane.init with hdrs := 0xFFFF }) = lsBlockLock ∧
    (run (.blockLockLost 0 0) (((lnm lsCaps).wr F.lnStatusBlockLock (lnIx 0) 1).setLane 0 { Lane.init with hdrs := 0xFFFF })).rd F.lnStatusBlockLock (lnIx 0) = 0 ∧
    lnAfter (.bringupTimeout 0 0) ((lnm lsTrain).wr F.lnCfgBaseRate (lnIx 0) 0) = lsDown ∧ lnAfter (.bringupTimeout 0 0) ((lnm lsBitLock).wr F.lnStatusRate (lnIx 0) 5) = lsTrain ∧
    (run (.bringupTimeout 0 0) ((lnm lsBitLock).wr F.lnStatusRate (lnIx 0) 5)).rd F.lnStatusFailedMask (lnIx 0) = 32 ∧
    lnAfter (.capsTimeout 0 0) (lnm lsCaps) = lsDown ∧ lnAfter (.stepQuietEnd 0 0) (lnm lsStep) = lsTrain ∧
    lnAfter (.downRestart 0 0) (((lnm lsDown).wr F.lnCfgAutoRestart (lnIx 0) 1).wr F.lnCtrlEnable (lnIx 0) 1) = lsDetect ∧
    lnAfter (.los 0 0) (lnm lsTrain) = lsDown ∧ lnAfter (.los 0 0) (lnm lsActive) = lsDown ∧ lnAfter (.los 0 0) (lnm lsDetect) = lsDetect ∧
    lnAfter (.lol 0 0 false) (lnm lsCaps) = lsDown := by decide +kernel

def capBlock : Nat := 0x100 + 2 ^ 14 + 1
/-- Lane 0 in ACTIVE with its region's fences open. -/
def lnOpen (mode : Nat) : Mach := ((lnm lsActive).wr F.lnCfgMode (lnIx 0) mode).wr F.frStatusFenced (rgnIx 0 0) 0
/-- An IDLE block of lane 0 of die 0. -/
def isIdleTx : Output → Bool
  | .laneTx 0 0 [(true, 0x1E)] _ => true
  | _ => false
/-- 14 R333, R335 to R346: the clauses of LaneTraffic; rates 0 and 3 in common give 3. -/
theorem test_laneTraffic : ((run (.idleBlock 0 0) (lnm lsActive)).lane 0).run = 1 ∧ ((run (.dataBlock 0 0 9 true 0) (lnm lsActive)).lane 0).hdrs = 1 ∧ bitsOf 11 8 capBlock = 1 ∧ bitsOf 11 8 0x200 ≠ 1 ∧
    ((run (.capability 0 0 capBlock) (lnm lsCaps)).lane 0).same = 1 ∧ highRate 9 = some 3 ∧ highRate 0 = none ∧
    lnAfter (.capability 0 0 capBlock) (((lnm lsCaps).wr F.lnCfgRateMask (lnIx 0) 127).setLane 0 { Lane.init with caps := capBlock, same := 2 }) = lsActive ∧
    lnAfter (.capability 0 0 (capBlock + 8)) (((lnm lsCaps).wr F.lnCfgRateMask (lnIx 0) 127).setLane 0 { Lane.init with caps := capBlock + 8, same := 2 }) = lsStep ∧
    lnAfter (.capability 0 0 capBlock) (((lnm lsCaps).wr F.lnCfgRateMask (lnIx 0) 0).setLane 0 { Lane.init with caps := capBlock, same := 2 }) = lsDown ∧
    lnAfter (.capability 0 0 0x100) (lnm lsActive) = lsCaps ∧ lnAfter (.step 0 0 6) (lnm lsActive) = lsStep ∧ ((run (.step 0 0 6) (lnm lsActive)).lane 0).target = 6 ∧
    (lnOpen 0).lnCarries 0 = true ∧ (lnOpen lmFrame).fpOf 0 = some 0 ∧ ((run (.dataBlock 0 0 9 false 0) (lnOpen 0)).lane 0).rx = [(false, 9)] ∧
    ((run (.user 0 0 0x578) (lnOpen 0)).lane 0).rx = [(true, 0x578)] ∧
    (run (.dataBlock 0 0 9 false 0) ((lnOpen 0).setLane 0 { Lane.init with rx := List.replicate 256 (false, 1) })).on F.lnEventsRxOverflow (lnIx 0) = true ∧
    ((run (.dataBlock 0 0 9 false 0) (lnm lsActive)).lane 0).rx = [] ∧
    (run (.dataBlock 0 0 9 true 0) ((lnOpen 0).wr F.lnStatusBlockLock (lnIx 0) 1)).rd F.lnHdrErrs (lnIx 0) = 1 ∧
    (run (.dataBlock 0 0 9 true 4) (((lnOpen 0).wr F.lnLoopMode (lnIx 0) 1).wr F.lnLoopCheckEn (lnIx 0) 1)).rd F.lnPrbsErrs (lnIx 0) = 4 ∧
    (run (.rawSlip 0 0) (lnOpen lmRaw)).rd F.lnSlips (lnIx 0) = 1 ∧
    (run (.rxbTransfer 0 0) ((lnOpen 0).setLane 0 { Lane.init with rx := [(false, 1), (true, 2)] })).out = [.laneRx 0 0 [(false, 1)]] ∧
    (run (.txbTransfer 0 0 [(true, 0x133)]) (lnOpen 0)).out.any isIdleTx = true ∧ (run (.txbTransfer 0 0 []) (lnOpen 0)).out.any isIdleTx = true ∧
    (run (.txbTransfer 0 0 [(true, 0x133)]) (lnOpen lmFrame)).out = [] ∧ (run (.txbTransfer 0 0 [(false, 5)]) (lnOpen lmRaw)).out.length = 1 := by decide +kernel

/-- 14 R345: the block commands of a frame port all go to fpArrive; an ALIGN sets the lane's place in the order. -/
theorem test_frameBlocks : (run (.alignBlock 0 0 0 0) (lnOpen lmFrame)).lnState 0 = lsActive ∧ (run (.frameStart 0 0 1) (lnOpen lmFrame)).lnState 0 = lsActive ∧
    (run (.lineStart 0 0 1) (lnOpen lmFrame)).lnState 0 = lsActive ∧ (run (.frameEnd 0 0 1) (lnOpen lmFrame)).lnState 0 = lsActive := by decide +kernel

def fpm (x : FramePort) : Mach := ((((Mach.reset.wr F.frStatusFenced (rgnIx 0 0) 0).wr F.fpShapeLineWords (fpIx 0) 1).wr F.fpShapeLines (fpIx 0) 1).wr F.fpBufStride (fpIx 0) 1 |>.wr
  F.fpBufCount (fpIx 0) 4).setPort 0 x
def frame0 : Frame := { no := 5, buf := 0, start := 0, stop := 0, line := 0, words := 0, inLine := false, crc := 0, status := 0, hdrBad := false, bytes := 0, cur := [] }
/-- 14 R345 to R351: the clauses of FramePortCommands. -/
theorem test_framePort : ((run (.tapLineReturn 0 0 [1] false) (fpm { FramePort.init with tapOut := [(0, 0)] })).port 0).tapOut = [] ∧
    (run (.frameEvent 0 0) (fpm { FramePort.init with ended := [frame0] })).rd F.fpWr (fpIx 0) = 1 ∧
    (((fpm { FramePort.init with ended := [frame0] }).fpPump 0).port 0).ended = [frame0] ∧ (((fpm FramePort.init).fpPump 0).port 0).ended = [] ∧
    (run (.fpRdWrite 0 0 idLink 0xFFFC) (fpm FramePort.init)).rd F.fpRd (fpIx 0) = 0xFFFC ∧ (run (.fpRdWrite 0 0 idLink 0xFFFB) (fpm FramePort.init)).rd F.fpRd (fpIx 0) = 0 ∧
    (run (.fpRdWrite 0 0 5 0) (fpm FramePort.init)).out = [.resp 5 rsRefused [] 0] ∧ (run (.fpCtrlEn 0 0 5 true) (fpm FramePort.init)).out = [.resp 5 rsRefused [] 0] ∧
    (run (.fpCtrlEn 0 0 idLink true) (fpm FramePort.init)).on F.fpEventsCfgRefused (fpIx 0) = true ∧
    (run (.fpCtrlEn 0 0 idLink true) ((fpm FramePort.init).wr F.lnCfgMode (lnIx 0) lmFrame)).on F.fpCtrlEn (fpIx 0) = true ∧
    (run (.fpCtrlEn 0 0 idLink false) ((fpm FramePort.init).wr F.fpCtrlEn (fpIx 0) 1)).on F.fpCtrlEn (fpIx 0) = false := by decide +kernel

def cfgm (c : CfgSt) (st : Nat) : Mach := (Mach.reset.setCfg c).setCfgState st
/-- 13 R300 to R303, R308 to R313, R323: the clauses of TestPortInstructions. -/
theorem test_testPort : Mach.reset.alive .keeper = true ∧ Mach.reset.retryWanted = false ∧ (run .tapReset (cfgm { CfgSt.init with ir := 5 } 0)).cfg.ir = 2 ∧
    (run .idcode Mach.reset).out = [.tdo 32 0x1A006BC7] ∧ (run (.extest 5 6) Mach.reset).out = [.tdo 576 6] ∧ (run (.extest 5 6) Mach.reset).cfg.boundary = 5 ∧
    (run (.samplePreload 5 6) Mach.reset).cfg.ir = 1 ∧ (run .clamp Mach.reset).cfg.ir = 3 ∧ (run .highz Mach.reset).cfg.ir = 4 ∧ (0x55 : Nat) ∉ tapCodes ∧
    (run (.bypass 0x55) Mach.reset).cfg.ir = 0x55 ∧ (run (.bypass 0x10) Mach.reset).cfg.ir = 2 ∧
    (run .idcode ((cfgm { CfgSt.init with ir := 0x12 } csRetry).wr F.cfgStatusRetryWanted 6 1)).rd F.cfgErrorCode 6 = 3 ∧
    (run (.cfgLoad true [true, false, true]) Mach.reset).cfg.buf = 5 ∧ (run (.cfgLoad true [true]) Mach.reset).cfgState = csHeader ∧
    (run (.cfgWide false [5, 6]) (cfgm { CfgSt.init with ir := 0x11 } csLoading)).cfg.buf = 0x60005 ∧
    (run (.retry []) (cfgm { CfgSt.init with buf := 5, len := 3 } csLoading)).cfg.len = 0 ∧ (run .cfgStatus Mach.reset).out.length = 1 ∧
    (run .cfgAbort (cfgm CfgSt.init csWaitDone)).rd F.cfgErrorCode 6 = 6 ∧ (run .cfgAbort (cfgm CfgSt.init csIdle)).rd F.cfgErrorCode 6 = 0 ∧
    (run (.harvestSel 0x20000000) Mach.reset).cfg.harvest = some (1, 0, [0, 0, 0]) ∧ (run (.harvestSel 0xC0000000) Mach.reset).rd F.cfgStatusHarvestReady 6 = 1 ∧
    (run .harvest Mach.reset).out = [.tdo 12480 0] := by decide +kernel

/-- A partial header of region 0 of die 0 with its CRC; its region has 2,601 frames (Table 13-4): 1,408 + 704 + 396 + 483 + 4 = 2,995. -/
def headerBody : Nat := 0xC0F6A55A + 0x1A006BC7 * 2 ^ 32 + 0x11 * 2 ^ 64 + 2995 * 2 ^ 128 + 2 ^ 160
def headerWord : Nat := headerBody + crc32 (leBytes 60 headerBody) * 2 ^ 480
def hdr0 : CfgHdr := { part := true, dies := 0, count := 2995, regions := 1, design := 0 }
theorem crcBit_lt (poly k c : Nat) (hp : poly < 2 ^ 32) (hc : c < 2 ^ 32) : crcBit poly k c < 2 ^ 32 := by
  induction k generalizing c with
  | zero => exact hc
  | succ k ih =>
    refine ih _ ?_
    have h2 : c / 2 < 2 ^ 32 := by omega
    split
    · exact Nat.xor_lt_two_pow h2 hp
    · exact h2

theorem crc32_lt (l : List Byte) : crc32 l < 2 ^ 32 := by
  have h : ∀ (l : List Byte) (c : Nat), c < 2 ^ 32 → l.foldl (fun c b => crcBit 0xEDB88320 8 (c ^^^ b.toNat)) c < 2 ^ 32 := by
    intro l
    induction l with
    | nil => exact fun c hc => hc
    | cons b l ih =>
      intro c hc
      exact ih _ (crcBit_lt _ _ _ (by decide) (Nat.xor_lt_two_pow hc (by have := b.isLt; omega)))
  exact Nat.xor_lt_two_pow (by decide) (h l _ (by decide))

/-- The premises on the next frame of FabricLoading: every frame has a good CRC, and others are bad. -/
theorem test_frameCrcs (b c : Nat) (hb : b < 2 ^ 4128) : frameCrc b < 2 ^ 32 ∧
    (frameCrc (b + c * 2 ^ 4128) = (b + c * 2 ^ 4128) / 2 ^ 4128 ↔ c = frameCrc b) := by
  have e : (b + c * 2 ^ 4128) / 2 ^ 4128 = c := by
    rw [Nat.add_mul_div_right _ _ (Nat.two_pow_pos _), Nat.div_eq_of_lt hb, Nat.zero_add]
  refine ⟨crc32_lt _, ?_⟩
  rw [e]
  unfold frameCrc
  rw [Nat.add_mul_mod_self_right]
  exact eq_comm

def loading (c : CfgSt) : Mach := cfgm { c with hdr := some hdr0 } csPartial
/-- 13 R305 to R321: the clauses of FabricLoading. -/
theorem test_headers : (run .streamHeader (cfgm { CfgSt.init with buf := 5, len := 32 } csHeader)).rd F.cfgErrorCode 6 = 2 ∧
    (run .streamHeader (cfgm { CfgSt.init with buf := 0xC0F6A55A + 5 * 2 ^ 32, len := 64 } csHeader)).rd F.cfgErrorCode 6 = 1 ∧
    headerCheck (cfgm { CfgSt.init with base := csStarted } csHeader) headerWord = .inr hdr0 ∧
    headerCheck (cfgm { CfgSt.init with base := csStarted } csHeader) headerBody = .inl (2, 15) ∧ hdr0.total = 2995 ∧
    (run .streamHeader (cfgm { CfgSt.init with base := csStarted, buf := headerWord, len := 512 } csHeader)).cfgState = csPartial := by decide +kernel
theorem test_frames : hdr0.covers 0 = true ∧ hdr0.covers (2 ^ 29) = false ∧ (loading { CfgSt.init with seen := [(0, 1)] }).allTaken = false ∧
    (run .frameVerified (loading { CfgSt.init with waits := [(0, false)] })).rd F.cfgFramesOkCount 6 = 1 ∧
    (run .frameVerified (cfgm { CfgSt.init with hdr := some { hdr0 with part := false, count := 1, dies := 1 }, waits := [(0, false)] } csLoading)).cfgState = csWaitDone ∧
    (loading CfgSt.init).cfgState = csPartial ∧ (run .gapTimeout (loading CfgSt.init)).rd F.cfgErrorCode 6 = 4 ∧ (run .gapTimeout Mach.reset).rd F.cfgErrorCode 6 = 0 ∧
    (run .tckBackstop (cfgm CfgSt.init csWaitDone)).rd F.cfgErrorCode 6 = 4 ∧
    (run .gapTimeout ((cfgm CfgSt.init csRetry).wr F.cfgStatusRetryWanted 6 1)).rd F.cfgErrorCode 6 = 3 := by decide +kernel
theorem test_startUps : (run (.configStartup [] []) (cfgm { CfgSt.init with hdr := some { hdr0 with part := false, regions := 0 } } csWaitDone)).cfgState = csStarted ∧
    (run (.configStartup [] []) (loading CfgSt.init)).cfgState = csPartial ∧ (run (.partialRegionStart [] []) (loading CfgSt.init)).cfgState = csPartial ∧
    (run (.partialRegionStart [] []) ((loading CfgSt.init).wr F.cfgFramesOkCount 6 2995)).cfgState = csStarted ∧
    (run .configFrame (loading CfgSt.init)).cfgState = csPartial ∧ (loading { CfgSt.init with failed := 7 }).retryWanted = false ∧
    ((cfgm CfgSt.init csRetry).wr F.cfgStatusRetryWanted 6 1).retryWanted = true := by decide +kernel

/-! Host link, firmware, mailboxes, power (15, 16, 17) -/

/-- A host attached at SuperSpeed; RING runs. -/
def hm : Mach :=
  (((((Mach.reset.wr F.hlStatusAttached 6 1).wr F.hlStatusSpeed 6 2).wr F.hlStatusHostAbsent 6 0).wr F.hlCtrlRun 6 1).wr F.fwStatusState (procIx 0) 2).wr F.hlWinValid (winIx 3) 1
    |>.wr F.hlWinRead (winIx 3) 1 |>.wr F.hlWinSize4k (winIx 3) 1 |>.wr F.sqEn (ringIx 0) 1 |>.wr F.cqEn (ringIx 0) 1 |>.wr F.cqLog2 (ringIx 0) 4 |>.wr F.sqLog2 (ringIx 0) 4
def req0 : HostReq := { idx := 1, win := 3, off := 64, write := none, len := 64, why := .io 4 }
def reqW : HostReq := { idx := 1, win := 3, off := 64, write := some [1], len := 1, why := .io 4 }
def hlm (m : Mach) (w : List HostReq) (o : List (Nat × HostReq)) : Mach :=
  ({ m with hl := { m.hl with waiting := w, outst := o } } : Mach).setArb .proxy { hm.arb .proxy with holder := some ⟨1, 0⟩ }
def rec0 : CRec := { ring := 0, bytes := List.replicate 32 1, endEvent := false }
def withRecs (f h : List CRec) : Mach := { hm with hl := { hm.hl with formed := f, held := h } }

/-- 15 R357 to R374: the clauses of HostLinkMessages. -/
theorem test_hostMessages : hm.attached = true ∧ hm.highSpeed = false ∧ (run (.windowSet ⟨4, 9⟩ 4095 true false) hm).out = [.peneb 0xA5 1 9 4 (4095 + 2 ^ 33) []] ∧
    (run (.windowSet ⟨4, 9⟩ 8192 true false) hm).rd F.hlWinSize4k (winIx 4) = 2 ∧ (run (.windowClear ⟨3, 9⟩) hm).on F.hlWinValid (winIx 3) = false ∧
    (run (.sqDoorbell ⟨0, 9⟩ 16) hm).rd F.sqTail (ringIx 0) = 16 ∧ (run (.sqDoorbell ⟨0, 9⟩ 17) hm).on F.hlEventsBadDoorbell 6 = true ∧
    (run (.cqDoorbell ⟨0, 9⟩ 0xFFFFFFF0) hm).rd F.cqHead (ringIx 0) = 0xFFFFFFF0 ∧ (run (.cqDoorbell ⟨0, 9⟩ 0xFFFFFFEF) hm).on F.hlEventsBadDoorbell 6 = true ∧
    (run (.hello ⟨3, 9⟩) hm).rd F.hostVersion 6 = 3 ∧ hm.absent = false ∧ hm.hl.absentAt = none ∧
    (run (.hello ⟨3, 9⟩) { hm.wr F.hlStatusHostAbsent 6 1 with hl := { hm.hl with absentAt := some 0 } }).absent = false ∧
    (run (.heldRead ⟨1, 9⟩) (withRecs [] [rec0])).hl.held = [] ∧ (run (.heldRead ⟨65, 9⟩) hm).out = [.peneb 0xA6 1 9 0 0 []] ∧
    (run .event { hm with hl := { hm.hl with events := [⟨3, 4, 5⟩] } }).out = [.peneb 0xC0 3 4 0 5 []] ∧ run (.keepalive true) hm = hm ∧
    (run (.keepalive false) hm).on F.hlEventsBadResponse 6 = true := by decide +kernel
theorem test_hostRequests : (run (.readData 9 0 (List.replicate 64 7) true) (hlm hm [] [(9, req0)])).hl.outst = [] ∧
    (run (.writeAck 9 0 true) (hlm hm [] [(9, reqW)])).hl.outst = [] ∧ (run (.writeAck 8 0 true) (hlm hm [] [(9, reqW)])).on F.hlEventsBadResponse 6 = true ∧
    (run (.readData 9 0 [] false) hm).on F.hlEventsBadResponse 6 = true ∧ (run (.readReq 1) (hlm hm [req0] [])).hl.outst = [(0, req0)] ∧
    (run (.readReq 1) (hlm hm [req0] [])).out = [.peneb 1 0 0 3 (64 + 64 * 2 ^ 48) []] ∧ (hlm hm [reqW] []).winTakes reqW = false ∧
    (run (.writeReq 1) (hlm hm [reqW] [])).hl.waiting = [] ∧
    (run (.writeReq 1) (hlm (hm.wr F.hlWinWrite (winIx 3) 1) [reqW] [])).out = [.peneb 2 0 0 3 64 [1]] := by decide +kernel

/-- 15 R354 to R373: the clauses of HostPresenceAndRings. -/
theorem test_rings : (run (.usbAttach 2) Mach.reset).rd F.hlStatusSpeed 6 = 2 ∧ (run .hostAbsent hm).absent = true ∧ (run .hostAbsent hm).on F.hlCtrlRun 6 = false ∧
    (run .usbBusReset (hm.wr F.hlStatusHostAbsent 6 1)).attached = false ∧ hm.ringPosts = true ∧ Mach.reset.ringPosts = false ∧
    (run .descriptorFetch (hm.wr F.sqTail (ringIx 0) 1)).hl.waiting.map (fun r => r.why) = [.fetch 0] ∧
    (run .nop { hm with hl := { hm.hl with tickets := [⟨0, 0, leBytes 64 0, false⟩] } }).hl.formed.length = 1 ∧ hm.cqRoom 0 = true ∧ hm.cqRoom 1 = false ∧
    (run .completionRecordWrite (withRecs [rec0] [])).hl.waiting.length = 1 ∧ (run .completionRecordWrite (withRecs [{ rec0 with ring := 1 }] [])).hl.held.length = 1 ∧
    (run .completionRecordWrite (withRecs [] [rec0])).hl.held = [] := by decide +kernel

/-- 16 R378 to R382, R391 to R395: the clauses of FirmwareCommands that do not hash. -/
theorem test_firmware : Mach.reset.rd F.fwStatusState (procIx 3) = 0 ∧ Mach.reset.bootTurn 3 = true ∧ Mach.reset.slot 0 0 = some (factoryImage 0) ∧
    Mach.reset.imageFault 0 none (some (factoryImage 0)) = 0 ∧ Mach.reset.imageFault 0 none none = 1 ∧
    (run (.boot 0) ((rising 3 Mach.reset).wr F.fwStatusState (procIx 3) 2)).rd F.fwStatusState (procIx 0) = 2 ∧
    (run (.boot 0) { (rising 3 Mach.reset) with fw := { Mach.reset.fw with flash := [(1, some (factoryImage 0))] } }).rd F.fwStatusSlot (procIx 0) = 1 ∧
    (run (.boot 0) { (rising 3 Mach.reset) with fw := { Mach.reset.fw with flash := [] } }).rd F.fwStatusState (procIx 0) = 4 ∧
    (run (.watchdogExpiry 1 5) amach).rd F.fwStatusState (procIx 1) = 2 ∧
    (run (.watchdogExpiry 1 5) { amach.wr F.fwWdtMs (procIx 1) 4 with ticks := 10000000 }).rd F.fwStatusState (procIx 1) = 1 ∧ (run (.processorCrash 1 1 5 6) amach).fw.crashSeq = 1 ∧
    (run (.fwCtrlRestart 1 idHost 5) amach).rd F.fwStatusState (procIx 1) = 1 ∧ (run (.fwCtrlRestart 1 5 5) amach).out = [.resp 5 rsRefused [] 0] ∧
    (run (.fwCtrlReleaseHold 1 idHost) (amach.wr F.fwStatusState (procIx 1) 3)).rd F.fwStatusState (procIx 1) = 1 ∧
    (run (.fwKick 1 (procId 1)) amach).out = [.resp (procId 1) rsOk [] 0] ∧ (run (.fwKick 1 5) amach).out = [.resp 5 rsRefused [] 0] := by decide +kernel
theorem test_updates : (run (.fwUpdate 0 3 0 64) amach).rd F.fwUpdateStatusState 6 = 1 ∧
    (run (.fwUpdate 0 3 0 64) ((amach.wr F.fwUpdateStatusState 6 1).setIo (updKey 0) ⟨[], 0, true⟩)).rd F.fwUpdateStatusReason 6 = 3 ∧
    (run (.attestGo 5) amach).on F.attestStatusBusy 6 = true ∧ (run (.attestGo 5) (amach.wr F.attestStatusBusy 6 1)).out = [.resp 5 rsOk [] 0] ∧
    (run (.intKeyFuse 5) amach).out = [.resp 5 rsRefused [] 0] ∧ (run (.intKeyFuse idTest) amach).fuses.intKey = some (List.replicate 8 0) ∧ amach.fuses.intKey = none := by decide +kernel

def mail0 (n : Nat) : Mail := { src := 0x55, dest := n, words := List.replicate 16 4, notice := false }
def mailm (n : Nat) : Mach := { (amach.wr F.mbOpen 6 0x100) with fw := { amach.fw with mails := [mail0 n] } }
/-- 16 R383 to R389: the clauses of MailboxCommands; mailbox 8 is ALMANAC's. -/
theorem test_mailboxes : mayArrive (mailm 8).fw.mails 0 = true ∧ mbOf 8 = some (6, 8, 1) ∧ (mailm 8).mbOpen 6 8 1 = true ∧ (mailm 9).mbOpen 6 9 1 = false ∧
    (run (.mailbox 0) (mailm 8)).on F.mbStatusFull (mbPlace 6 8) = true ∧ (run (.mailbox 0) (mailm 8)).rd F.mbData (mbWordPlace 6 8 3) = 4 ∧
    (run (.mailbox 0) (mailm 9)).on F.mbStatusFull (mbPlace 6 9) = false ∧ ((run (.mailbox 0) (mailm 8)).mbArrive 8 7 (List.replicate 16 1)).1.on F.mbStatusCollide (mbPlace 6 8) = true ∧
    (run (.mailboxReadWord0 8 5) (mailm 8)).out = [.resp 5 rsOk [0, 0, 0, 0] 0] ∧ (run (.mailboxReadWord0 8 (procId 1)) (mailm 8)).fw.latches.length = 1 ∧
    (run (.mailboxReadWord15 8 (procId 1)) (run (.mailboxReadWord0 8 (procId 1)) (run (.mailbox 0) (mailm 8)))).on F.mbStatusFull (mbPlace 6 8) = false ∧
    (run (.sendPortSend 0 idHost 9) (amach.wr F.mbSendDest (ix 6 0 0 0) 8)).rd F.mbSendState (ix 6 0 0 0) = 1 ∧
    (run (.sendPortSend 0 idHost 9) (amach.wr F.mbSendDest (ix 6 0 0 0) 0x50)).rd F.mbSendState (ix 6 0 0 0) = 3 ∧ (run (.sendPortSend 0 5 9) amach).out = [.resp 5 rsRefused [] 0] ∧
    (run (.sendPortSend 0 idHost 9) (amach.setNiq (niqKey 6 0 2) [newPacket 0x30 idHost 0 0 0 0 0 64])).fw.sendHeld.length = 1 := by decide +kernel

def pwm (st : Nat) : Mach := (rising 3 Mach.reset).wr F.vigilStatusState 6 st
/-- 17 R398 to R418: the clauses of PowerStateCommands. -/
theorem test_power : (run .standbyPowerOn (Mach.reset.setPow { Mach.reset.pow with rails := 0 })).pow.rails = 1 ∧ run .standbyPowerOn Mach.reset = Mach.reset ∧
    (run .railPowerUp (Mach.reset.setPow { Mach.reset.pow with rails := 1 })).pow.rails = 2 ∧ (run .mresetN Mach.reset).rd F.vigilResetCauseCause 6 = 2 ∧
    (run (.brownOut 1) Mach.reset).pow.rails = 0 ∧ (run (.brownOut 0) Mach.reset).rd F.vigilResetCauseCause 6 = 3 ∧
    (run (.wakeIn 0) (Mach.reset.wr F.vigilModeWakeEn 6 63)).pow.pending = 1 ∧ (run .usbResume (Mach.reset.wr F.vigilModeWakeEn 6 63)).pow.pending = 2 ∧
    (run .testPortWake ((pwm 1).wr F.vigilModeWakeEn 6 63)).power = 0 ∧ (run (.laneWake 0 0) (Mach.reset.wr F.vigilModeWakeEn 6 63)).pow.pending = 0 ∧
    (run .wakeCounterExpiry (((pwm 1).wr F.vigilModeWakeEn 6 8).wr F.vigilWakeMs 6 4)).power = 1 ∧
    (run .wakeCounterExpiry { ((pwm 1).wr F.vigilModeWakeEn 6 8).wr F.vigilWakeMs 6 4 with ticks := 10000000 }).power = 0 ∧
    (run (.wakeIn 0) ((pwm 3).wr F.vigilModeWakeEn 6 1)).rd F.vigilResetCauseCause 6 = 6 := by decide +kernel
theorem test_power2 : (run (.thermalTrip 0 880) Mach.reset).power = 3 ∧ (run (.thermalTrip 0 879) Mach.reset).power = 0 ∧ (run (.thermalTrip 7 800) Mach.reset).power = 3 ∧
    (run (.swReset idHost 0x5EED) Mach.reset).rd F.vigilResetCauseCause 6 = 5 ∧ (run (.swReset idHost 5) Mach.reset).out = [.resp idHost rsOk [] 0] ∧
    (run (.setState 0 5 6) (pwm 0)).on F.vigilStatusWaiting 6 = true ∧
    (run (.setCap 1600 16) (pwm 0)).rd F.vigilCapLimit 6 = 1600 ∧ (run (.setCap 1599 16) (pwm 0)).rd F.vigilCapLimit 6 ≠ 1599 ∧
    (run (.releaseHold 1) (pwm 0)).out = Mach.reset.out ∧ (run (.ioHoldRelease idHealth 1) (pwm 0)).out = [.resp idHealth rsOk [] 0] ∧
    (run (.ioHoldRelease 5 1) (pwm 0)).out = [.resp 5 rsRefused [] 0] ∧
    (run .powerStateEnter (((pwm 0).wr F.vigilStatusWaiting 6 1).wr F.vigilModeState 6 1)).power = 1 ∧
    (run .powerStateEnter ((((pwm 0).wr F.vigilStatusWaiting 6 1).wr F.vigilModeState 6 1).wr F.vigilModeWakeEn 6 1 |>.setPow { Mach.reset.pow with pending := 1 })).power = 0 ∧
    (run .powerStateEnter (((pwm 0).wr F.vigilStatusWaiting 6 1).wr F.vigilModeState 6 2)).power = 2 ∧
    (run .powerStateEnter (((pwm 0).wr F.vigilStatusWaiting 6 1).wr F.vigilModeState 6 3)).power = 3 := by decide +kernel
theorem test_mayIdle : (Mach.reset.wr F.almCtrlRun 6 1).mayIdle = false ∧ Mach.reset.mayIdle = true := by decide +kernel

/-- 17 R407 to R417: the clauses of PowerClockAndSensorCommands. -/
theorem test_capping : (run (.capWindowEnd 2600) ((pwm 0).wr F.vigilCapN 6 16)).rd F.vigilCapN 6 = 15 ∧ (run (.capWindowEnd 2600) ((pwm 0).wr F.vigilCapN 6 1)).rd F.vigilCapN 6 = 1 ∧
    (run (.capWindowEnd 0) ((pwm 0).setPow { Mach.reset.pow with windows := 4 })).pow.windows = 0 ∧
    (run (.i2cWrite [5]) (pwm 0)).pow.i2c = 5 ∧ (run (.i2cWrite [5, 6]) (pwm 0)).out = [.i2cAck true, .i2cAck false] ∧ i2cReg 3 = some 0x600000C ∧
    (run .i2cRead ((pwm 0).setPow { Mach.reset.pow with i2c := 3 })).pow.i2c = 4 ∧ (run (.refclkRetry true) ((pwm 0).setPow { Mach.reset.pow with refLost := true })).pow.refLost = false ∧
    (run (.refclkRetry false) (pwm 0)).pow.refLost = true ∧
    (run (.pllLockLost 0 5) (Mach.reset.wr F.clkStatusLocked 0 32)).rd F.clkStatusLocked 0 = 0 ∧ (run (.pllLockReturn 0 5) (Mach.reset.wr F.clkCtrlPllEn 0 32)).rd F.clkStatusLocked 0 = 32 ∧
    (run (.pllEnable 0 idHealth 3) (pwm 0)).rd F.clkCtrlPllEn 0 = 3 ∧ (run (.pllEnable 0 5 3) (pwm 0)).out = [.resp 5 rsRefused [] 0] ∧ (pwm 0).procUp 3 = true := by decide +kernel
theorem test_sampling : (run (.sensorSample [] [320]) (pwm 0)).power = 0 := by decide +kernel
theorem test_windows : (pwm 0).pow.started = false ∧ (pwm 0).pow.warm = false ∧ (pwm 0).capSensors = [] ∧
    (run (.capWindowEnd 2600) ((pwm 0).wr F.vigilCapN 6 16)).pow.wattsN = 1 ∧ (run (.capWindowEnd 0) ((pwm 0).setPow { Mach.reset.pow with windows := 4, warm := true })).pow.windows = 0 ∧
    (run (.startupSequence [] [] [] [] []) (pwm 1)).pow.started = false ∧
    (run (.startupSequence [] [] [] [] []) (pwm 3)).power = 3 ∧ (run (.setState 1 0 4) ((pwm 0).wr F.almCtrlRun 6 1)).rd F.vigilReqResultCode 6 = 1 := by decide +kernel

/-! Registers, self-test, the queue, well-formed commands (00, 18) -/

def capAddr : Nat := 0x3F0000000000 + 6 * 0x1000000000 + 0x5000020
def evAddr : Nat := 0x3F0000000000 + 6 * 0x1000000000 + 0x200002C
def atKeeper (o : Nat) : Nat := 0x3F0000000000 + 6 * 0x1000000000 + o
/-- 00 R5 to R9: the clauses on a field: CAP_LIMIT takes 1,600 to 2,500. -/
theorem test_fields : F.vigilCapLimit.acc = .rw ∧ F.vigilCapLimit.isLegal 1599 = false ∧ F.vigilCapLimit.isLegal 1600 = true ∧
    (Mach.reset.putFld 6 0x5000020 1600 0 (F.vigilCapLimit, 6)).rd F.vigilCapLimit 6 = 1600 ∧ F.tileEventsSaturated.acc = .w1c ∧
    ((Mach.reset.wr F.tileEventsSaturated 0 1).putFld 0 0x1000018 16 0 (F.tileEventsSaturated, 0)).rd F.tileEventsSaturated 0 = 0 ∧
    ((Mach.reset.wr F.tileEventsSaturated 0 1).putFld 0 0x1000018 16 16 (F.tileEventsSaturated, 0)).rd F.tileEventsSaturated 0 = 1 ∧ F.almRefusals.acc = .rc ∧
    F.sqOff.acc = .rws ∧ Mach.reset.fieldStopped 6 0x1000000 0 = true ∧ hm.fieldStopped 6 0x1000000 0 = false := by decide +kernel

/-- 00 R6, R8: a register word reaches its fields, and an rc register keeps the events of the cycle of its read. -/
theorem test_words : placeOf Mach.reset.fuses (atKeeper 0x220002C) = .reg 6 0x220002C ∧ fldsAt 6 0x220002C = [(F.almRefusals, 6)] ∧
    ((Mach.reset.wr F.almRefusals 6 5).clearRead 2 (fldsAt 6 0x220002C)).rd F.almRefusals 6 = 2 ∧
    (Mach.reset.putWord 6 0x5000020 1700 0).rd F.vigilCapLimit 6 = 1700 := by decide +kernel

/-- 00 R4, R6, R8, 10 R239: the clauses of RegisterAccessesAreGated, RegisterCommands and ReadsOfCountersLoseNoEvent. -/
theorem test_registerCommands : (run (.registerWrite 5 0x7FFFFFFFFFFF 4 0 0) Mach.reset).out = [.resp 5 rsDecode [] 0] ∧
    (run (.registerWrite 5 (atKeeper 0x8000000) 4 0 0) Mach.reset).out = [.resp 5 rsDecode [] 0] ∧
    (run (.registerWrite 5 (atKeeper 0x6000000) 8 0 0) Mach.reset).out = [.resp 5 rsMalformed [] 0] ∧
    (run (.registerWrite 5 (atKeeper 0x6000000) 4 0 0) Mach.reset).out = [.resp 5 rsRefused [] 0] ∧
    (run (.registerWrite idHealth (atKeeper 0x6000000) 4 0 0) Mach.reset).out = [.resp idHealth rsOk [] 0] ∧
    Mach.reset.gate 6 0x6000000 4 idHealth true = (none, false) ∧ Mach.reset.gate 6 0x220002C 4 5 false = (none, false) ∧ Mach.reset.gate 6 0x6000000 4 idHost false = (none, false) ∧
    Mach.reset.gate 6 0x6000000 4 idTest true = (none, false) := by decide +kernel
theorem test_registerCommands2 : (run (.readClear 5 (atKeeper 0x4000000) 0) Mach.reset).out.length = 1 ∧ hm.gate 6 0 4 idHost true = (none, false) ∧
    run (.regRead ⟨atKeeper 0x6000000, 9⟩) (Mach.reset.wr F.hlStatusAttached 6 0) = Mach.reset.wr F.hlStatusAttached 6 0 ∧
    (run (.regRead ⟨atKeeper 0x6000000, 9⟩) hm).out.length = 1 ∧ (run (.regWrite ⟨atKeeper 0x6000000, 9⟩ 0) hm).out.length = 1 ∧
    (run (.netAccess (BitVec.ofNat 48 (atKeeper 0x6000000)) 0 false) Mach.reset).cfg.netDone = true ∧
    (run (.netAccess (BitVec.ofNat 48 (atKeeper 0x6000000)) 5 true) Mach.reset).cfg.netDone = true := by decide +kernel
theorem test_counterRead : fldsAt 0 0x3000010 = [(F.nearRereads, 0)] ∧ F.nearRereads.acc = .rc ∧ (∀ v ∈ views, v.1.id ≠ F.nearRereads.id) ∧
    rowWindowAt 0 0x3000010 = none ∧ fniWindowAt 0 0x3000010 = none ∧ sliceMemAt 0 0x3000010 = none ∧ mailWordAt 0 0x3000010 = none ∧
    Mach.reset.gate 0 0x3000010 4 5 false = (none, false) ∧ placeOf Mach.reset.fuses 0x3F0003000010 = .reg 0 0x3000010 := by decide +kernel

/-- Cluster 0's bank 0 owned by the group of its march engine. -/
def marchm : Mach := (Mach.reset.wr F.bankOwnerCurrent (bankIx 0) 0).wr F.ownerGroupLocal 0 0x20000
def marching : Mach := (marchm.wr F.marchStatusBusy (clIx 0) 1).setMarch 0 { March.idle with banks := [0], mode := 0 }
/-- 18 R421 to R433: the clauses of SelfTestAndRepair. -/
theorem test_march : (run (.marchGo 0 5 0) marchm).out = [.resp 5 rsRefused [] 0] ∧ (run (.marchGo 0 idHealth 0x10001) marchm).on F.marchStatusBusy (clIx 0) = true ∧
    (run (.marchAbort 0 5) marchm).out = [.resp 5 rsRefused [] 0] ∧ bankAdm marchm 0 (.local 17) = .ok ∧
    bankAdm (marchm.wr F.bankOwnerCurrent (bankIx 0) 7) 0 (.local 17) = .refused ∧
    ((run (.marchTransfer 0 []) marching).march 0).pos = 1 ∧ (run (.marchAbort 0 idHealth) marching).on F.marchStatusBusy (clIx 0) = false := by decide +kernel
def fencedM (r : Nat) : Mach := (((Mach.reset.wr F.tileFenceFenced 0 1).wr F.tileSelftestResult 0 r).wr F.tileSelftestUseRepair 0 0)
theorem test_selfTest : (run (.tileFenceWrite 0 5 true) Mach.reset).out = [.resp 5 rsRefused [] 0] ∧ (run (.tileFenceWrite 0 idTest true) Mach.reset).on F.tileFenceFenced 0 = true ∧
    Mach.reset.tileStopped 0 = true ∧ ((run (.tileSelftestGo 0 idHealth false) (fencedM 0)).tile 0).testing = true ∧
    (run (.tileSelftestGo 0 idHealth false) ((fencedM 0).wr F.tileFenceFenced 0 0)).rd F.tileSelftestResult 0 = 4 ∧
    (run (.tileSelftestEnd 0 5 false) ((fencedM 1).setTile 0 { Tile.init with testing := true })).rd F.tileSelftestResult 0 = 3 ∧
    assignSpares 7 = none ∧ (run (.tileRetire 0) ((fencedM 3).wr F.tileStRowsLo 0 7)).out = (Mach.reset.retireTile 0).out ∧
    faultySet ((fencedM 3).wr F.tileStRowsLo 0 7) 0 = 7 ∧ assignSpares 4 = some (2, 0x3F) ∧
    ((run (.repairAssign 0) ((fencedM 3).wr F.tileStRowsLo 0 4)).tile 0).testing = true := by decide +kernel

/-- 18 R430, 16 R387: boundary values of SparesFollowTheFaultyRows and ClosedMailboxesStoreNothing. -/
theorem test_spares : assignSpares 0 = some (0x3F, 0x3F) ∧ assignSpares (2 ^ 47) = some (47, 0x3F) ∧ assignSpares (2 ^ 47 + 2 ^ 48) = some (47, 48) ∧
    assignSpares (2 ^ 47 + 2 ^ 48 + 2 ^ 49) = none ∧ assignSpares 3 = some (0, 1) ∧ assignSpares (3 + 2 ^ 49) = none ∧ assignSpares 7 = none ∧
    (8 : Nat) ∈ boxesOf 1 ∧ amach.mbArrive 8 5 [] = (amach, false) ∧ ((amach.wr F.mbOpen 6 0x100).crash 1 1 5 0).mbOpen 6 8 1 = false := by decide +kernel

/-- 12 R276, R280: the premises of WindowRotatesFromTheNextBundle and LaterIssuedResultWins. -/
theorem test_window : rotBase false 3 1 = 29 ∧ rotBase false 1 0 = 31 ∧ rotBase true 3 1 = 1 ∧
    ((run (.slResultLand 0 0) (run (.slResultLand 0 0) (idleM { idleSl with flight := [⟨7, 4 * 3 + 3, false, .reg 3 9⟩, ⟨7, 4 * 3 + 1, false, .reg 3 8⟩] }))).sl 0).g = [(3, 9)] := by decide +kernel

/-- A step runs the front command with the queue's rest, and on an empty queue is a tick (log 1). -/
def stepOf (s : State) : State :=
  match step s with
  | .next t => t
  | _ => State.reset
theorem test_queue : (stepOf ⟨Mach.reset, [.tapReset, .idcode]⟩).pending = [.idcode] ∧ (stepOf ⟨Mach.reset, [.idcode]⟩).m.out = [.tdo 32 0x1A006BC7] := by decide +kernel
theorem test_tick : (stepOf State.reset).m.ticks = 1 ∧ (stepOf State.reset).pending = [] := by decide +kernel

/-- 06 R126, R127: bytes under enables, and the canonical form of what is written. -/
theorem test_memory : ((Mach.reset.putEn 64 [1, 2, 3] [true, false, true]).byte 64, (Mach.reset.putEn 64 [1, 2, 3] [true, false, true]).byte 65,
      (Mach.reset.putEn 64 [1, 2, 3] [true, false, true]).byte 66) = (1, 0, 3) ∧
    Memory.wf (Mach.reset.putEn 64 [1, 2, 3] [true, false, true]).mem = true ∧ (Mach.reset.putEn 64 [0] [true]).mem = [] := by decide +kernel

/-- A command of the frame statement that stores nothing, and one that is outside it and stores. -/
theorem test_storesNothing : mayStore .tapReset = false ∧ mayStore (.planeReady 0 []) = false ∧ mayStore (.nearBurstWrite 0 0 [] [] 0) = true := by decide +kernel

/-- Each check of WellFormed refuses a term that breaks it. -/
theorem test_wellFormed : ([.registerWrite 0x10000 0 4 0 0, .registerWrite 0 (2 ^ 48) 4 0 0, .registerWrite 0 0 257 0 0, .readClear 0 0 (2 ^ 32), .planeReady 0 [5242880],
    .rowPush 0 48 (List.replicate 48 0) [0, 0, 0], .rowPush 0 0 [] [0, 0, 0], .rowPush 0 0 (List.replicate 48 65536) [0, 0, 0], .rowPush 0 0 (List.replicate 48 0) [256, 0, 0],
    .blockJunction 0 512 0 0 false, .veAdd 0 [131072], .arbiterGrant .proxy [⟨18, 0, .proxy 1⟩],
    .requesterMask ⟨.proxy, 0⟩ 18 true, .backoffExpiry .proxy 18, .bankOwnerWrite 0 16, .nearBurstRead 0 32 0, .nearBurstWrite 0 64 [] [] 0,
    .migrationStart 65536 0 0 0 [] 0, .migrationStart 0 (2 ^ 20) 0 0 [] 0, .migrationStart 0 0 0 0 [65536] 0, .evacuation 0 0 ⟨2, 0⟩,
    .opPlace 0 0 [⟨0, 0, 8192⟩]] : List Instr).all (fun c => !c.wellFormed) = true := by decide +kernel
theorem test_wellFormed2 : ([.shareDispatch 0 [⟨none, 0, []⟩], .multicastCompletionUnicast ⟨0, 0⟩ 0 0 0 0 (2 ^ 24) 0 0,
    .packetInject 0 (.regRead (2 ^ 48)), .packetInject 0 (.mail 0 []), .regionalClockEdge 0 0 0 true [⟨704, 0, false, false, false⟩] ⟨[], []⟩,
    .fniRequest 0 0 0 0 1024 0 false [] [], .fniTargetAccess 0 0 0 256 0 0, .rowPushWindow 0 0 0 0x2000 [] [], .slExternalAccess 0 0 0 0 257 none false,
    .slExternalAccess 0 0 0 0 0 (some ([1], [])) false, .configStartup [] [], .readData 65536 0 [] true, .writeAck 0 256 true, .windowSet ⟨0, 0⟩ (2 ^ 33) true true,
    .regRead ⟨2 ^ 64, 0⟩, .heldRead ⟨2 ^ 64, 0⟩, .planLoad [⟨65536, 0, []⟩], .mailboxReadWord0 0x20 0, .fwUpdate 0 0 (2 ^ 40) 0, .startupSequence [] [] [] [] [], .sensorSample [] [],
    .i2cWrite []] : List Instr).all (fun c => !c.wellFormed) = true := by decide +kernel
theorem test_wellFormedOk : ([.registerWrite 0xFFFF (2 ^ 48 - 1) 256 0 0, .heldRead ⟨64, 0⟩, .tapReset, .i2cWrite [0], .requesterMask ⟨.proxy, 0⟩ 17 true] : List Instr).all
    (fun c => c.wellFormed) = true := by decide +kernel

end Sys2Proof.Tests
end

section
/-! Reads of counter registers (00 R8): what a read of a plain register comes to, and what the read's clear leaves of an rc register that stands alone. -/

namespace Sys2Proof.Machine

/-- A field that software may read and that no view computes reads as it is stored. -/
theorem Mach.look_eq_rd (m : Mach) {f : Fld} (p : Nat) (hacc : f.acc ≠ .wo) (hview : ∀ v ∈ views, v.1.id ≠ f.id) : m.look (f, p) = m.rd f p := by
  have hfind : views.find? (fun v => v.1.id == f.id) = none := List.find?_eq_none.mpr fun v hv => by simpa using hview v hv
  unfold Mach.look
  simp only [hacc, if_false, hfind]

@[simp] theorem Mach.lookAll_singleton (m : Mach) (x : Fld × Nat) : m.lookAll [x] = m.look x * 2 ^ x.1.lo := by
  simp [Mach.lookAll]

/-- The clear of a read leaves an rc register that stands alone with the events of the read's cycle. -/
theorem Mach.clearRead_singleton (m : Mach) (ev : Nat) {f : Fld} (p : Nat) (hrc : f.acc = .rc) :
    m.clearRead ev [(f, p)] = m.wr f p (bitsOf f.hi f.lo ev) := by
  simp [Mach.clearRead, hrc]

/-- A register that is no mailbox word and no word of the crash log: its fields make the word, and the read clears those that are rc. -/
theorem Mach.readReg_of_plain (m : Mach) {die o : Nat} (who ev : Nat) (hmail : mailWordAt die o = none) (hcrash : die = 6 → m.crashWord o = none) :
    m.readReg die o who ev = (m.lookAll (fldsAt die o), m.clearRead ev (fldsAt die o)) := by
  have hlog : (if die = 6 then m.crashWord o else none) = none := by simpa using hcrash
  simp only [Mach.readReg, hmail, hlog]

/-- A read at an offset outside the windows and the slices' memories is a register's. -/
theorem Mach.regGet_of_no_window (m : Mach) {die o : Nat} (who ev : Nat) (pkt : Option Packet) (hrow : rowWindowAt die o = none)
    (hfni : fniWindowAt die o = none) (hslice : sliceMemAt die o = none) :
    m.regGet die o who ev pkt = ⟨some rsOk, leBytes 4 (m.readReg die o who ev).1, 0, (m.readReg die o who ev).2⟩ := by
  simp only [Mach.regGet, hrow, hfni, hslice]

/-- A read that passes its gate reaches its register. -/
theorem Mach.busRead_of_gate (m : Mach) {addr size die o who : Nat} (ev : Nat) (pkt : Option Packet) (hplace : placeOf m.fuses addr = .reg die o)
    (hgate : m.gate die o size who false = (none, false)) : m.busRead who addr size ev pkt = m.regGet die o who ev pkt := by
  simp only [Mach.busRead, hplace, hgate]

/-- READ_CLEAR while the keeper runs: an access that is not held sends its status and data to its master. -/
theorem exec_readClear_of_answered {s : State} {who addr ev st marks : Nat} {d : List Byte} {m : Mach} (halive : s.m.alive .keeper = true)
    (hread : s.m.busRead who addr 4 ev none = ⟨some st, d, marks, m⟩) :
    exec (.readClear who addr ev) s = .next ⟨m.send (.resp who st d marks), s.pending⟩ := by
  have harm : exec (.readClear who addr ev) s = s.on .keeper (opReadClear who addr ev) := rfl
  rw [harm, State.on_alive s .keeper _ halive]
  simp only [opReadClear, hread]

/-- Settles O49: the read's answer carries the value stored before the read, and its clear writes the events of the cycle. -/
theorem readsOfCountersLoseNoEvent : Obligations.ReadsOfCountersLoseNoEvent := by
  unfold Obligations.ReadsOfCountersLoseNoEvent
  intro s who addr die o ev p f halive hplace hgate hrow hfni hslice hmail hcrash hflds hrc hview
  have hword : s.m.lookAll (fldsAt die o) = s.m.rd f p * 2 ^ f.lo := by
    rw [hflds, Mach.lookAll_singleton, s.m.look_eq_rd p (by simp [hrc]) hview]
  have hclear : s.m.clearRead ev (fldsAt die o) = s.m.wr f p (bitsOf f.hi f.lo ev) := by
    rw [hflds, s.m.clearRead_singleton ev p hrc]
  have hread : s.m.busRead who addr 4 ev none = ⟨some rsOk, leBytes 4 (s.m.rd f p * 2 ^ f.lo), 0, s.m.wr f p (bitsOf f.hi f.lo ev)⟩ := by
    rw [s.m.busRead_of_gate ev none hplace hgate, s.m.regGet_of_no_window who ev none hrow hfni hslice,
      s.m.readReg_of_plain who ev hmail hcrash, hword, hclear]
  exact ⟨_, exec_readClear_of_answered halive hread, Mach.rd_wr s.m f p _, rfl, rfl, rfl⟩

end Sys2Proof.Machine
end

section
/-! Signal slices (chapter 12): what an operation of slot C leaves of its slice, how OUT uses the egress queue, and the order in which results due in one
cycle land. -/

namespace Sys2Proof.Machine

/-- A slice of a die that exists has a place of fewer than 25 bits. -/
theorem slIx_slK_lt (d : DieNo) (n : Fin 64) : slIx (slK d.val n.val) < 2 ^ 24 := by
  simp only [slIx, slK, ix]
  omega

/-! Which writes leave a domain running -/

@[simp] theorem Mach.setSl_alive (m : Mach) (k : Nat) (x : Slice) (y : Dom) : (m.setSl k x).alive y = m.alive y := (rfl)

/-- The fields that decide whether a domain runs: the power state, the enabled PLLs and their locks. -/
def runFields : List Fld := [F.vigilStatusState, F.clkCtrlPllEn, F.clkStatusLocked]

/-- A domain's PLL is of a die whose number is a place. -/
def Dom.pllInRange (x : Dom) : Prop := ∀ e ∈ x.pll, e.1 < 2 ^ 24

theorem Dom.pllInRange_slice (d : DieNo) : (Dom.slice d.val).pllInRange := by
  intro e he
  obtain rfl : (d.val, 2) = e := by simpa [Dom.pll] using he
  exact lt_trans d.isLt (by decide)

/-- Writing a field of a small place that is none of `runFields` stops no domain and starts none. -/
theorem Mach.alive_wr (m : Mach) {f : Fld} {p : Nat} (v : Nat) {x : Dom} (hp : p < 2 ^ 24) (hf : ∀ g ∈ runFields, g.id ≠ f.id) (hx : x.pllInRange) :
    (m.wr f p v).alive x = m.alive x := by
  have hrd : ∀ g ∈ runFields, ∀ q < 2 ^ 24, (m.wr f p v).rd g q = m.rd g q := fun g hg q hq =>
    m.rd_wr_other f g p q v fun hkey => hf g hg (fkey_inj hq hp hkey).1
  have hpower : (m.wr f p v).power = m.power := hrd _ (by simp [runFields]) 6 (by decide)
  have hclock : ∀ e ∈ x.pll, (m.wr f p v).clockLost e.1 e.2 = m.clockLost e.1 e.2 := fun e he => by
    simp only [Mach.clockLost, hrd F.clkCtrlPllEn (by simp [runFields]) _ (hx e he), hrd F.clkStatusLocked (by simp [runFields]) _ (hx e he)]
  cases hpll : x.pll with
  | none => simp only [Mach.alive, Mach.wr_pow, hpower, hpll]
  | some e => simp only [Mach.alive, Mach.wr_pow, hpower, hpll, hclock e hpll]

/-! Events and time -/

@[simp] theorem Mach.slEv_sl (m : Mach) (k : Nat) (f : Fld) (j : Nat) : (m.slEv k f).sl j = m.sl j := by
  simp only [Mach.slEv, Mach.slPend]
  split <;> simp

/-- An event of a slice sets its bit. -/
theorem Mach.on_slEv (m : Mach) (k : Nat) {f : Fld} (hirq : f.id ≠ F.slIrqPending.id) (hwidth : f.width = 1) : (m.slEv k f).on f (slIx k) = true := by
  have hset : (m.ev f (slIx k)).on f (slIx k) = true := by simp [Mach.on, hwidth]
  simp only [Mach.slEv, Mach.slPend, Mach.orIn]
  split
  · rw [Mach.on_wr_ne _ _ _ _ _ hirq, hset]
  · exact hset

/-- The passing of cycles moves only the slice's own clock and registers. -/
theorem Mach.slPass_sl (m : Mach) (k n : Nat) : (m.slPass k n).sl k = { (m.sl k) with now := (m.sl k).now + n } := by
  simp only [Mach.slPass, Mach.slPend]
  split_ifs <;> simp

/-- No domain stops or starts because a slice's time passes. -/
theorem Mach.slPass_alive (m : Mach) {k : Nat} (n : Nat) {x : Dom} (hk : slIx k < 2 ^ 24) (hx : x.pllInRange) : (m.slPass k n).alive x = m.alive x := by
  have hcycles (m : Mach) (v : Nat) : (m.wr F.slCycles (slIx k) v).alive x = m.alive x := m.alive_wr v hk (by decide) hx
  have htimer (m : Mach) (v : Nat) : (m.wr F.slTimer (slIx k) v).alive x = m.alive x := m.alive_wr v hk (by decide) hx
  have hirq (m : Mach) (v : Nat) : (m.wr F.slIrqPending (slIx k) v).alive x = m.alive x := m.alive_wr v hk (by decide) hx
  simp only [Mach.slPass, Mach.slPend, Mach.wrap, Mach.orIn]
  split_ifs <;> simp only [hcycles, htimer, hirq, Mach.setSl_alive]

/-- A slice whose time has come to a cycle waits no longer for it. -/
theorem Mach.slUntil_sl_of_le (m : Mach) {k c : Nat} (hc : c ≤ (m.sl k).now) : (m.slUntil k c).sl k = m.sl k := by
  rw [Mach.slUntil, Nat.sub_eq_zero_of_le hc, Mach.slPass_sl, Nat.add_zero]

/-! OUT (R294) -/

/-- An operation that the bundle issued last holds in its slot, and that has not acted, acts on the machine in which it has. -/
theorem Mach.slOp_of_todo (m : Mach) {k slot code : Nat} {b : SlIssued} (f : SlIssued → Mach → Mach) (hissued : (m.sl k).issued = some b)
    (htodo : bitOf slot b.todo = true) (hcode : slCode slot b.word = code) :
    m.slOp k slot code f = f b (m.setSl k { (m.sl k) with issued := some { b with todo := clearBit slot b.todo } }) := by
  simp only [Mach.slOp, hissued, htodo, hcode, and_self, if_true]

section
variable {m : Mach} {k : Nat} {b : SlIssued} (hissued : (m.sl k).issued = some b) (htodo : bitOf 3 b.todo = true) (hcode : cCode b.word = 0x38)
include hissued htodo hcode

/-- OUT at a full egress queue: it has acted, and the event. -/
theorem opSlOut_of_full (hfull : 32 ≤ (m.sl k).egress.length) :
    opSlOut k m = (m.setSl k { (m.sl k) with issued := some { b with todo := clearBit 3 b.todo } }).slEv k F.slEventsEgressDrop := by
  rw [opSlOut, m.slOp_of_todo _ hissued htodo hcode]
  simp only [Mach.sl_setSl, hfull, if_true]

/-- OUT at an egress queue with room leaves of its slice all but the bundle's slot C and the queue's new last word. -/
theorem opSlOut_sl_of_room (hroom : (m.sl k).egress.length < 32) :
    (opSlOut k m).sl k = { (m.sl k) with issued := some { b with todo := clearBit 3 b.todo }, egress := (m.sl k).egress ++ [m.slReg k b (cA b.word) % 2 ^ 32] } := by
  rw [opSlOut, m.slOp_of_todo _ hissued htodo hcode]
  simp only [Mach.sl_setSl, Mach.slReg, Nat.not_le.mpr hroom, if_false]

end

/-- OUT is its operation while the slices of the die run. -/
theorem exec_slOut_of_alive {s : State} {d : DieNo} (n : Fin 64) (halive : s.m.alive (.slice d.val) = true) :
    exec (.slOut d n) s = .next ⟨opSlOut (slK d.val n.val) s.m, s.pending⟩ := by
  have harm : exec (.slOut d n) s = s.on (.slice d.val) (opSlOut (slK d.val n.val)) := rfl
  rw [harm, State.on_alive _ _ _ halive]

/-- The landing of a result is its operation while the slices of the die run. -/
theorem exec_slResultLand_of_alive {s : State} {d : DieNo} (n : Fin 64) (halive : s.m.alive (.slice d.val) = true) :
    exec (.slResultLand d n) s = .next ⟨opSlResultLand (slK d.val n.val) s.m, s.pending⟩ := by
  have harm : exec (.slResultLand d n) s = s.on (.slice d.val) (opSlResultLand (slK d.val n.val)) := rfl
  rw [harm, State.on_alive _ _ _ halive]

/-- Settles O51: by whether the egress queue has room. In both cases OUT has acted and the slice's clock stands where it was. -/
theorem outPushesOrDrops : Obligations.OutPushesOrDrops := by
  unfold Obligations.OutPushesOrDrops
  intro d n s k b halive hk hissued htodo hcode
  subst hk
  refine ⟨_, exec_slOut_of_alive n halive, rfl, (opSlOut_frame _ _).1, ?_⟩
  have hacted : bitOf 3 (clearBit 3 b.todo) = false := by simp
  rcases Nat.lt_or_ge (s.m.sl (slK d.val n.val)).egress.length 32 with hroom | hfull
  · simp only [opSlOut_sl_of_room hissued htodo hcode hroom]
    exact ⟨⟨_, rfl, hacted, rfl⟩, trivial, fun _ => trivial, fun hfull => absurd hroom (Nat.not_lt.mpr hfull)⟩
  · simp only [opSlOut_of_full hissued htodo hcode hfull, Mach.slEv_sl, Mach.sl_setSl]
    exact ⟨⟨_, rfl, hacted, rfl⟩, trivial, fun hroom => absurd hroom (Nat.not_lt.mpr hfull),
      fun _ => ⟨trivial, Mach.on_slEv _ _ (by decide) (by decide)⟩⟩

/-! Results in flight (R280) -/

@[simp] theorem firstDue_singleton (r : SlRes) : firstDue [r] = some r := rfl

/-- Of two results due in one cycle the one issued first lands first, wherever it stands in the list. -/
theorem firstDue_pair_of_order_lt {r q : SlRes} (hdue : r.due = q.due) (horder : r.order < q.order) : firstDue [r, q] = some r ∧ firstDue [q, r] = some r := by
  simp [firstDue, hdue, horder, Nat.not_lt.mpr horder.le]

/-- The result of two that lands leaves the other in flight. -/
theorem erase_pair_of_order_lt {r q : SlRes} (horder : r.order < q.order) : [r, q].erase r = [q] ∧ [q, r].erase r = [q] := by
  have hne : q ≠ r := fun h => absurd (congrArg SlRes.order h) horder.ne'
  simp [hne]

/-- A register's result that is due lands: it leaves the results in flight, and its value stands in its register. -/
theorem opSlResultLand_sl_of_due {m : Mach} {k g v : Nat} {r : SlRes} (hfirst : firstDue (m.sl k).flight = some r) (hbusy : (m.sl k).busy = false)
    (hdue : r.due ≤ (m.sl k).now) (hwhat : r.what = .reg g v) :
    (opSlResultLand k m).sl k = { (m.sl k) with flight := (m.sl k).flight.erase r, g := SMap.put 0 g v (m.sl k).g } := by
  have hnow : ¬ (m.sl k).now < r.due := Nat.not_lt.mpr hdue
  simp [opSlResultLand, hfirst, hbusy, hnow, Mach.slLand, hwhat, m.slUntil_sl_of_le hdue]

/-- The landing of a register's result stops no domain and starts none. -/
theorem opSlResultLand_alive_of_due {m : Mach} {k g v : Nat} {r : SlRes} {x : Dom} (hfirst : firstDue (m.sl k).flight = some r)
    (hwhat : r.what = .reg g v) (hk : slIx k < 2 ^ 24) (hx : x.pllInRange) : (opSlResultLand k m).alive x = m.alive x := by
  simp only [opSlResultLand, hfirst, Mach.slLand, hwhat, Mach.slUntil]
  split <;> simp [Mach.slPass_alive _ _ hk hx]

/-- Settles O52: of the two numbers, 4 × the cycle of issue + the slot (Mach.slRes), the lower lands first, so that the value of the other one stays; the
first landing leaves the slice running, so that the second can follow. -/
theorem laterIssuedResultWins : Obligations.LaterIssuedResultWins := by
  unfold Obligations.LaterIssuedResultWins
  intro d n s k g va vb due ca cb sa sb sh ra rb halive hk hbusy hnow hra hrb hsa hsb hissue hflight
  have horder : ra.order < rb.order := by subst hra hrb; show 4 * ca + sa < 4 * cb + sb; omega
  have hdue : ra.due = rb.due := by rw [hra, hrb]
  have hwa : ra.what = .reg g va := by rw [hra]
  have hwb : rb.what = .reg g vb := by rw [hrb]
  have hnowa : ra.due ≤ (s.m.sl k).now := by rw [hra]; exact hnow
  have hfirst : firstDue (s.m.sl k).flight = some ra ∧ (s.m.sl k).flight.erase ra = [rb] := by
    rcases hflight with h | h <;> simp [h, firstDue_pair_of_order_lt hdue horder, erase_pair_of_order_lt horder]
  obtain ⟨hfirsta, hrest⟩ := hfirst
  have hone := opSlResultLand_sl_of_due hfirsta hbusy hnowa hwa
  rw [hrest] at hone
  have htwo : (opSlResultLand k (opSlResultLand k s.m)).sl k = _ :=
    opSlResultLand_sl_of_due (r := rb) (by rw [hone]; rfl) (by rw [hone]; exact hbusy) (by rw [hone]; exact hdue ▸ hnowa) hwb
  subst hk
  have hstill : (opSlResultLand (slK d.val n.val) s.m).alive (.slice d.val) = true := by
    rw [opSlResultLand_alive_of_due hfirsta hwa (slIx_slK_lt d n) (Dom.pllInRange_slice d), halive]
  refine ⟨_, _, exec_slResultLand_of_alive n halive, exec_slResultLand_of_alive n hstill, ?_, ?_⟩
  · simp only [htwo, SMap.get_put_self]
  · simp only [htwo, hone, List.erase_cons_head]

end Sys2Proof.Machine
end

section
/-! Recalibration of a lane (14 R340): what RECAL comes to in a lane that is down and in one that is not. -/

namespace Sys2Proof.Machine

/-- Setting an event bit leaves every field with another number, at every place of fewer than 25 bits. -/
theorem Mach.rd_ev_of_id_ne (m : Mach) {f g : Fld} {p q : Nat} (hid : g.id ≠ f.id) (hq : q < 2 ^ 24) (hp : p < 2 ^ 24) : (m.ev f p).rd g q = m.rd g q :=
  m.rd_wr_other f g p q 1 fun hkey => hid (fkey_inj hq hp hkey).1

/-- A lane that is not ACTIVE enters RECAL by two writes of its status, so that its queues stay. -/
theorem Mach.lnGo_recal_of_not_active (m : Mach) {n : Nat} (h : m.lnState n ≠ lsActive) :
    m.lnGo n lsRecal = (m.wr F.lnStatusState (lnIx n) lsRecal).wr F.lnStatusBlockLock (lnIx n) 0 := by
  have hkeeps : ¬ (m.lnState n = lsActive ∧ lsRecal ≠ lsActive) := fun hleaves => h hleaves.1
  simp only [Mach.lnGo, hkeeps, if_false]
  rfl

/-- RECAL in DISABLED or DOWN. -/
theorem Mach.lnRecal_of_down (m : Mach) {n : Nat} (h : m.lnState n = lsDisabled ∨ m.lnState n = lsDown) :
    m.lnRecal n = (m.wr F.lnStatusState (lnIx n) lsRecal).wr F.lnStatusBlockLock (lnIx n) 0 := by
  have hactive : m.lnState n ≠ lsActive := by rcases h with h | h <;> simp [h, lsDisabled, lsDown, lsActive]
  rw [Mach.lnRecal, if_pos h, m.lnGo_recal_of_not_active hactive]

/-- RECAL in any other state is the event alone. -/
theorem Mach.lnRecal_of_not_down (m : Mach) {n : Nat} (h : ¬ (m.lnState n = lsDisabled ∨ m.lnState n = lsDown)) :
    m.lnRecal n = m.ev F.lnEventsRecalRefused (lnIx n) := if_neg h

/-- RECAL changes no lane's own part (its queues and counts among it). -/
@[simp] theorem Mach.lnRecal_lane (m : Mach) (n k : Nat) : (m.lnRecal n).lane k = m.lane k := by
  by_cases h : m.lnState n = lsDisabled ∨ m.lnState n = lsDown
  · rw [m.lnRecal_of_down h]; rfl
  · rw [m.lnRecal_of_not_down h]; rfl

/-- A lane in DISABLED or DOWN is in RECAL after it. -/
theorem Mach.lnState_lnRecal_of_down (m : Mach) {n : Nat} (h : m.lnState n = lsDisabled ∨ m.lnState n = lsDown) : (m.lnRecal n).lnState n = lsRecal := by
  rw [m.lnRecal_of_down h, Mach.lnState, Mach.rd_wr_ne _ _ _ _ _ (by decide), Mach.rd_wr]
  rfl

/-- RECAL by a writer the block admits, while the lanes run. -/
theorem exec_laneRecal_of_admitted {s : State} {d : DieNo} {i : Fin 48} {who : Nat} (halive : s.m.alive .uncore = true)
    (hwho : laneWho (lnK d.val i.val / 48) who = true) :
    exec (.laneRecal d i who) s = .next ⟨(s.m.lnRecal (lnK d.val i.val)).respond who rsOk, s.pending⟩ := by
  have harm : exec (.laneRecal d i who) s = s.on .uncore (opLaneRecal (lnK d.val i.val) who) := rfl
  rw [harm, State.on_alive _ _ _ halive, opLaneRecal, Mach.permit, if_pos hwho]

/-- Settles O50: in DISABLED or DOWN the lane's state is written RECAL; in any other state the one write is that of the event bit. -/
theorem recalibrationOnlyWhileTheLaneIsDown : Obligations.RecalibrationOnlyWhileTheLaneIsDown := by
  unfold Obligations.RecalibrationOnlyWhileTheLaneIsDown
  intro d i who s n halive hn hwho
  subst hn
  refine ⟨_, exec_laneRecal_of_admitted halive hwho, rfl, (Mach.lnRecal_frame _ _).1, Mach.lnRecal_lane _ _ _,
    s.m.lnState_lnRecal_of_down, fun hdisabled hdown => ?_⟩
  have hrefused := s.m.lnRecal_of_not_down (not_or.mpr ⟨hdisabled, hdown⟩)
  simp only [hrefused, Mach.lnState, Mach.respond_rd, Mach.respond_on]
  refine ⟨?_, ?_, fun f q hid hq hp => s.m.rd_ev_of_id_ne hid hq hp⟩
  · exact s.m.rd_ev_ne _ _ _ (by decide)
  · simp [Mach.on, Fld.width, F.lnEventsRecalRefused]

end Sys2Proof.Machine
end

section
/-! The frame of the commands that store nothing (`mayStore`). -/

namespace Sys2Proof.Machine

/-- A command whose operation keeps memory keeps it, and every byte and the queue, whether or not its domain runs. -/
theorem State.on_keeps_mem (s : State) (x : Dom) {f : Mach → Mach} (hf : (f s.m).mem = s.m.mem) :
    ∃ t, s.on x f = .next t ∧ t.m.mem = s.m.mem ∧ (∀ a, t.m.byte a = s.m.byte a) ∧ t.pending = s.pending := by
  by_cases h : s.m.alive x = true
  · exact ⟨_, s.on_alive x f h, hf, fun a => by unfold Mach.byte; rw [hf], rfl⟩
  · exact ⟨s, s.on_stopped x f (by simpa using h), rfl, fun _ => rfl, rfl⟩

/-- Settles O59: outside `mayStore` every command is its domain's operation, and the frame of each operation (Laws/Frames) keeps memory. -/
theorem commandsThatStoreNothing : Obligations.CommandsThatStoreNothing := by
  unfold Obligations.CommandsThatStoreNothing
  intro c s hc
  cases c
  all_goals try exact Bool.noConfusion (show true = false from hc)
  all_goals dsimp only [exec, execVeCopy, execVeAdd, execVeSub, execVeMul, execVeFma, execVeMax, execVeMin, execVeAbs, execVeNeg, execVeExp2,
    execVeLog2, execVeRcp, execVeRsqrt, execVePerm, execVeGather, execVeRsum, execVeRmax, execVeRmin, execVeArgmax, execVeArgmin, execVeSample,
    execVeAccept, execVeBlockq, execFniTargetAccess]
  all_goals exact s.on_keeps_mem _ (by simp)

end Sys2Proof.Machine
end

section
/-! The form of memory (log 4): every operation that can store keeps it. An operation that stores nothing is covered by its frame (Laws/Frames). -/

namespace Sys2Proof.Machine

/-- A fold keeps memory's form where each of its steps does; `g` names the machine within the fold's state. -/
theorem foldl_wf_of {σ α : Type} (g : σ → Mach) {f : σ → α → σ} (l : List α) {s : σ} (hs : Memory.wf (g s).mem = true)
    (hf : ∀ s x, Memory.wf (g s).mem = true → Memory.wf (g (f s x)).mem = true) : Memory.wf (g (l.foldl f s)).mem = true := by
  induction l generalizing s with
  | nil => exact hs
  | cons x l ih => exact ih (hf s x hs)

theorem foldl_wf {α : Type} {f : Mach → α → Mach} (l : List α) {m : Mach} (hm : Memory.wf m.mem = true)
    (hf : ∀ m x, Memory.wf m.mem = true → Memory.wf (f m x).mem = true) : Memory.wf (l.foldl f m).mem = true := foldl_wf_of (fun m => m) l hm hf

@[simp] theorem wf_ite (c : Prop) [Decidable c] (a b : List Host.Cell) : Memory.wf (if c then a else b) = if c then Memory.wf a else Memory.wf b :=
  apply_ite Memory.wf c a b

/-! Stated over machines as variables, so that a proof of a long operation compares the operation's text and does not evaluate it. -/

theorem Mach.ite_wf (c : Prop) [Decidable c] {a b : Mach} (ha : Memory.wf a.mem = true) (hb : Memory.wf b.mem = true) :
    Memory.wf (if c then a else b).mem = true := by split <;> assumption

theorem Mach.withAlm_wf {m : Mach} (h : Memory.wf m.mem = true) (a : AlmSt) : Memory.wf ({ m with alm := a } : Mach).mem = true := h

section
variable {m : Mach} (h : Memory.wf m.mem = true)
include h

/-! Banks. -/

@[simp] theorem Mach.writeWord_wf (b a : Nat) (data : List Byte) (en : List Bool) : Memory.wf (m.writeWord b a data en).mem = true := by
  unfold Mach.writeWord
  dsimp only
  split <;> simp [Mach.putEn_wf, h]

omit h in
@[simp] theorem Mach.writeBeat_wf (b k : Nat) : ∀ {m : Mach} (word : Nat) (data : List Byte) (en : List Bool), Memory.wf m.mem = true →
    Memory.wf (m.writeBeat b word data en k).mem = true := by
  induction k with
  | zero => exact fun _ _ _ h => h
  | succ k ih => exact fun _ _ _ h => ih _ _ _ (Mach.writeWord_wf h _ _ _ _)

@[simp] theorem Mach.atomic_wf (b : Nat) (q : BankAcc) : Memory.wf (m.atomic b q).mem = true := by
  unfold Mach.atomic
  dsimp only
  split <;> simp [h]

@[simp] theorem Mach.doWrite_wf (b : Nat) (x : Beat) : Memory.wf (m.doWrite b x).mem = true := by
  unfold Mach.doWrite
  split <;> simp [h]

@[simp] theorem Mach.bankCycle_wf (b : Nat) (xa xb : Option Beat) : Memory.wf (m.bankCycle b xa xb).mem = true := by
  cases xa <;> cases xb <;> simp [Mach.bankCycle, h]

@[simp] theorem Mach.bankOp_wf (b : Nat) (portB pair same : Bool) (upset : List Nat) (kind : BankOp → Bool) :
    Memory.wf (m.bankOp b portB pair same upset kind).mem = true := by
  unfold Mach.bankOp
  split <;> simp [h]

@[simp] theorem Mach.lateWrite_wf (b : Nat) (y : Beat) (x : Option Beat) : Memory.wf (m.lateWrite b y x).mem = true := by
  cases x <;> simp [Mach.lateWrite, h]

@[simp] theorem Mach.atomicOp_wf (b : Nat) (inR inW : Bool) (upset : List Nat) (kind : BankOp → Bool) :
    Memory.wf (m.atomicOp b inR inW upset kind).mem = true := by
  unfold Mach.atomicOp
  dsimp only
  split
  · exact h
  · split
    · rw [(Mach.beatDone_frame _ _ _ _).1]
      exact Mach.lateWrite_wf (Mach.lateWrite_wf (Mach.atomic_wf (by simp [h]) _ _) _ _ _) _ _ _
    · exact h

/-! The near and the far tier, and writes by address. -/

@[simp] theorem Mach.nearPut_wf (a : Nat) (data : List Byte) (en : List Bool) (crcBad : Bool) : Memory.wf (m.nearPut a data en crcBad).mem = true := by
  simp [Mach.nearPut, Mach.putEn_wf, h]

@[simp] theorem Mach.writeUnit_wf (a : Nat) (data : List Byte) (en : List Bool) : Memory.wf (m.writeUnit a data en).mem = true := by
  unfold Mach.writeUnit
  split <;> simp [Mach.putEn_wf, h]

omit h in
@[simp] theorem Mach.writeUnits_wf (l : List Nat) : ∀ {m : Mach} (data : List Byte) (en : List Bool), Memory.wf m.mem = true →
    Memory.wf (m.writeUnits data en l).mem = true := by
  induction l with
  | nil => exact fun _ _ h => h
  | cons u l ih => exact fun _ _ h => ih _ _ (Mach.writeUnit_wf h _ _ _)

@[simp] theorem Mach.writeAtEn_wf (a : Nat) (data : List Byte) (en : List Bool) : Memory.wf (m.writeAtEn a data en).mem = true := by
  simp [Mach.writeAtEn, h]

@[simp] theorem Mach.writeAt_wf (a : Nat) (data : List Byte) : Memory.wf (m.writeAt a data).mem = true := by
  simp [Mach.writeAt, h]

@[simp] theorem opNearBurstWrite_wf (who addr : Nat) (data : List Byte) (en : List Bool) (crcBad : Bool) :
    Memory.wf (opNearBurstWrite who addr data en crcBad m).mem = true := by
  unfold opNearBurstWrite
  split <;> simp [h]

omit h in
@[simp] theorem Mach.nearDrain_wf (l : List NearWait) : ∀ {m : Mach} (kept : List NearWait), Memory.wf m.mem = true →
    Memory.wf (m.nearDrain kept l).mem = true := by
  induction l with
  | nil => exact fun _ h => h
  | cons w l ih =>
    intro m kept h
    unfold Mach.nearDrain
    split
    · exact ih _ h
    · split
      · exact ih _ (Mach.nearPut_wf h _ _ _ _)
      · split <;> exact ih _ h

@[simp] theorem opNearReread_wf (d : Nat) (crcBad : Bool) : Memory.wf (opNearReread d crcBad m).mem = true := by
  unfold opNearReread
  split <;> simp [h]

@[simp] theorem Mach.farWrite_wf (ch : Nat) (b : FarBurst) (stays : Bool) : Memory.wf (m.farWrite ch b stays).mem = true := by
  unfold Mach.farWrite
  split
  · exact h
  · exact foldl_wf_of Prod.fst _ h (fun s a hs => by simpa using Mach.putEn_wf _ _ _ _ hs)

@[simp] theorem opFarWindowPass_wf (ch : Nat) (crcBad : Bool) : Memory.wf (opFarWindowPass ch crcBad m).mem = true := by
  unfold opFarWindowPass
  dsimp only
  split <;> simp [h]

@[simp] theorem opFarReread_wf (ch : Nat) (crcBad : Bool) : Memory.wf (opFarReread ch crcBad m).mem = true := by
  unfold opFarReread
  dsimp only
  split <;> simp [h]

end

end Sys2Proof.Machine
end

section
/-! The form of memory, on: the almanac's tables and tensors, the movers, the stream engines, the frame ports and the march runs. -/

namespace Sys2Proof.Machine

section
variable {m : Mach} (h : Memory.wf m.mem = true)
include h

/-! The almanac's tables and tensors. -/

@[simp] theorem Mach.sixPut_wf (addr : Nat → Nat) (l : List Byte) : Memory.wf (m.sixPut addr l).mem = true := by
  unfold Mach.sixPut
  exact foldl_wf _ h (fun m d hm => Mach.putBytes_wf l m (addr d) hm)

@[simp] theorem Mach.putPte_wf (i e : Nat) : Memory.wf (m.putPte i e).mem = true := Mach.sixPut_wf h _ _

@[simp] theorem Mach.putSlot_wf (s e : Nat) : Memory.wf (m.putSlot s e).mem = true := Mach.sixPut_wf h _ _

@[simp] theorem Mach.rewritePte_wf (i e : Nat) : Memory.wf (m.rewritePte i e).mem = true := by
  unfold Mach.rewritePte
  exact foldl_wf _ (Mach.putPte_wf h i e) (fun m d hm => by simpa using hm)

@[simp] theorem Mach.releasePage_wf (t : Tensor) (page : Nat) : Memory.wf (m.releasePage t page).mem = true := by
  simp [Mach.releasePage, h]

@[simp] theorem Mach.releaseTensor_wf (t : Tensor) : Memory.wf (m.releaseTensor t).mem = true := by
  unfold Mach.releaseTensor
  split
  · exact foldl_wf _ h (fun m k hm => Mach.releasePage_wf hm t k)
  · exact h

@[simp] theorem Mach.placeTensor_wf (t : Tensor) (p : TenPlace) : Memory.wf (m.placeTensor t p).mem = true := by
  unfold Mach.placeTensor
  exact foldl_wf _ (Mach.putSlot_wf h _ _) (fun m x hm => Mach.putPte_wf hm _ _)

/-- The tables of a plan's tensors cleared; `g` gives a tensor's page entries. -/
theorem freeTables_wf (l : List Tensor) (g : Tensor → List Nat) :
    Memory.wf (l.foldl (fun m t => (g t).foldl (fun m i => m.putPte i 0) (m.putSlot t.slot 0)) m).mem = true :=
  foldl_wf l h (fun _ t hm => foldl_wf _ (Mach.putSlot_wf hm t.slot 0) (fun _ i hm => Mach.putPte_wf hm i 0))

@[simp] theorem Mach.freePlan_wf (p : Plan) : Memory.wf (m.freePlan p).mem = true :=
  freeTables_wf h p.tensors (fun t => upFrom t.ptBase (pagesOf t.bytes))

@[simp] theorem Mach.setLost_wf (t : Tensor) (lost : Bool) : Memory.wf (m.setLost t lost).mem = true := Mach.putSlot_wf h _ _

omit h in
theorem Mach.writeTensor_wf (who : Nat) (t : Tensor) (data : List Byte) (l : List (Nat × Nat)) : ∀ {m : Mach} {y : Bool × Mach},
    Memory.wf m.mem = true → m.writeTensor who t data l = some y → Memory.wf y.2.mem = true := by
  induction l with
  | nil =>
    intro m y h hy
    cases hy
    exact h
  | cons x l ih =>
    intro m y h hy
    simp only [Mach.writeTensor] at hy
    split at hy
    · cases hy
    · split at hy
      · cases hy
      · exact ih (Mach.writeAt_wf h _ _) hy
      · obtain ⟨z, hz, rfl⟩ := Option.map_eq_some_iff.mp hy
        have hrest := ih (by simpa using h) hz
        exact hrest

omit h in
theorem Mach.putInputs_wf (j : Job) (p : Plan) (l : List Binding) : ∀ {m y : Mach} (data : List Byte),
    Memory.wf m.mem = true → m.putInputs j p data l = some y → Memory.wf y.mem = true := by
  induction l with
  | nil =>
    intro m y data h hy
    cases hy
    exact h
  | cons b l ih =>
    intro m y data h hy
    simp only [Mach.putInputs] at hy
    split at hy
    · exact ih _ h hy
    · obtain ⟨z, hz, hzy⟩ := Option.bind_eq_some_iff.mp hy
      exact ih _ (Mach.writeTensor_wf _ _ _ _ h hz) hzy

@[simp] theorem opJobEventStart_wf (job : Nat) : Memory.wf (opJobEventStart job m).mem = true := by
  unfold opJobEventStart
  dsimp only
  split
  · exact h
  · split
    · exact h
    · split
      · exact h
      · split
        · simp [h]
        · split
          · exact h
          · split
            · simp [h]
            · split
              · exact h
              · next hput => simpa using Mach.putInputs_wf _ _ _ _ h hput

@[simp] theorem opTensorWrite_wf : Memory.wf (opTensorWrite m).mem = true := by
  unfold opTensorWrite
  dsimp only
  split
  · exact h
  · split
    · simp [h]
    · split
      · simp [h]
      · split
        · exact h
        · split
          · simp [h]
          · split
            · exact h
            · next hw =>
              have hwf := Mach.writeTensor_wf _ _ _ _ h hw
              simp [hwf]

/-- A slab's refetch, `r` what the backing read and `x` the machine with the slab written. -/
theorem refetchSlab_form (c1 c2 : Prop) [Decidable c1] [Decidable c2] (n : Nat) {r : List Byte × Nat × Mach}
    (hr : Memory.wf r.2.2.mem = true) {x : Mach} (hx : Memory.wf x.mem = true) :
    Memory.wf (if c1 then ((0, m) : Nat × Mach) else if c2 then (n, m) else if 2 ≤ r.2.1 then (2, r.2.2) else (1, x)).2.mem = true := by
  split
  · exact h
  · split
    · exact h
    · split <;> assumption

@[simp] theorem Mach.refetchSlab_wf (s : Share) (e code i : Nat) : Memory.wf (m.refetchSlab s e code i).2.mem = true := by
  have hread : Memory.wf (m.readAt idAlmanac (pteBacking e * 0x200000 + i * 0x10000) 0x10000).2.2.mem = true := by
    rw [(m.readAt_frame _ _ _).1]
    exact h
  exact refetchSlab_form h _ _ _ hread (Mach.writeAt_wf hread _ _)

omit h in
theorem pairIte_wf (c : Prop) [Decidable c] {a b : Nat × Mach} (ha : Memory.wf a.2.mem = true) (hb : Memory.wf b.2.mem = true) :
    Memory.wf (if c then a else b).2.mem = true := by split <;> assumption

omit h in
/-- A fold of parts that each give a code, the codes gathered. -/
theorem foldlCodes_wf {α β : Type} (g : Mach → β → α → Nat × Mach) (y : β)
    (hg : ∀ m a, Memory.wf m.mem = true → Memory.wf (g m y a).2.mem = true) (l : List α) {s : Nat × Mach} (hs : Memory.wf s.2.mem = true) :
    Memory.wf (l.foldl (fun (s : Nat × Mach) a => let x := g s.2 y a; (s.1 ||| x.1, x.2)) s).2.mem = true :=
  foldl_wf_of Prod.snd l hs (fun s a hs => hg s.2 a hs)

@[simp] theorem Mach.refetch_wf (sh : Share) (t : Tensor) : Memory.wf (m.refetch sh t).2.mem = true := by
  unfold Mach.refetch
  refine foldl_wf_of Prod.snd _ h (fun s i hs => ?_)
  have hslabs := foldlCodes_wf (fun m (_ : Unit) k => m.refetchSlab sh (s.2.pteEntry 0 i) (m.slabCode 0 (ptePrimary (s.2.pteEntry 0 i)) k) k) ()
    (fun m k hm => Mach.refetchSlab_wf hm _ _ _ _) (upFrom 0 32) hs
  exact pairIte_wf (ptePTier (s.2.pteEntry 0 i) ≠ 2) hs hslabs

@[simp] theorem Mach.refetchOp_wf (sh : Share) (p : Plan) (r : OpRec) : Memory.wf (m.refetchOp sh p r).2.mem = true := by
  unfold Mach.refetchOp
  exact foldlCodes_wf Mach.refetch sh (fun m t hm => Mach.refetch_wf hm sh t) _ h

/-- The branches of a recomputation that may go on, `f` what the refetch came to. -/
theorem shareRecompute_form (c1 c2 c3 c4 : Prop) [Decidable c1] [Decidable c2] [Decidable c3] [Decidable c4] {a b c d : Mach}
    (ha : a.mem = m.mem) {f : Nat × Mach} (hf : Memory.wf f.2.mem = true) (hb : b.mem = f.2.mem) (hc : c.mem = f.2.mem) (hd : d.mem = f.2.mem) :
    Memory.wf (if c1 then m else if c2 then a else if 2 ≤ f.1 then b else if c3 then c else if c4 then d else m).mem = true := by
  refine Mach.ite_wf _ h (Mach.ite_wf _ ?_ (Mach.ite_wf _ ?_ (Mach.ite_wf _ ?_ (Mach.ite_wf _ ?_ h))))
  · rw [ha]; exact h
  · rw [hb]; exact hf
  · rw [hc]; exact hf
  · rw [hd]; exact hf

@[simp] theorem opShareRecompute_wf (share w : Nat) : Memory.wf (opShareRecompute share w m).mem = true := by
  unfold opShareRecompute
  split
  · exact h
  · split
    · exact h
    · split
      · refine shareRecompute_form h _ _ _ _ ?_ (Mach.refetchOp_wf ?_ _ _ _) ?_ ?_ ?_ <;> simp [h]
      · exact h

@[simp] theorem opOpComplete_wf (job op fl : Nat) (lost : Bool) : Memory.wf (opOpComplete job op fl lost m).mem = true := by
  unfold opOpComplete
  split
  · exact h
  · split
    · split
      · exact h
      · refine Mach.ite_wf _ h ?_
        rw [(Mach.settleSets_frame _).1]
        exact Mach.ite_wf _ h (foldl_wf _ h (fun m t hm => Mach.releaseTensor_wf hm t))
    · exact h

@[simp] theorem opPlanLoad_wf (places : List TenPlace) : Memory.wf (opPlanLoad places m).mem = true := by
  unfold opPlanLoad
  dsimp only
  split
  · exact h
  · split
    · exact h
    · split
      · simp [h]
      · split
        · exact h
        · split
          · simp [h]
          · split
            · simp [h]
            · split
              · exact h
              · rw [(Mach.endTicket_frame _ _ _ _ _).1]
                exact foldl_wf _ h (fun m x hm => Mach.placeTensor_wf hm _ _)

@[simp] theorem opPlanUnload_wf : Memory.wf (opPlanUnload m).mem = true := by
  unfold opPlanUnload
  split
  · exact h
  · split
    · exact h
    · split <;> simp [h]

@[simp] theorem opMigrationStart_wf (slot page tier loc : Nat) (codes : List Nat) (tag : Nat) :
    Memory.wf (opMigrationStart slot page tier loc codes tag m).mem = true := by
  unfold opMigrationStart
  split
  · exact h
  · dsimp only
    split
    · exact h
    · exact Mach.withAlm_wf (Mach.putPte_wf h _ _) _

@[simp] theorem opMigrationFinish_wf (slot page : Nat) : Memory.wf (opMigrationFinish slot page m).mem = true := by
  unfold opMigrationFinish
  split
  · refine Mach.ite_wf _ h (Mach.rewritePte_wf (Mach.withAlm_wf (Mach.ite_wf _ (Mach.sixPut_wf (Mach.ite_wf _ h ?_) _ _)
      (Mach.ite_wf _ (Mach.ite_wf _ h ?_) ?_)) _) _ _)
    · exact h
    · exact h
    · rw [(Mach.setHome_frame _ _ _ _ _).1]
      exact Mach.ite_wf _ h h
  · exact h

@[simp] theorem Mach.evacBurst_wf (src back dst : Nat) (hasBack : Bool) : Memory.wf (m.evacBurst src back dst hasBack).2.mem = true := by
  unfold Mach.evacBurst
  dsimp only
  split
  · simp [h]
  · split
    · split <;> simp [h]
    · simp [h]

omit h in
@[simp] theorem Mach.evacBursts_wf (hasBack : Bool) (n : Nat) : ∀ {m : Mach} (src back dst : Nat), Memory.wf m.mem = true →
    Memory.wf (m.evacBursts src back dst hasBack n).2.mem = true := by
  induction n with
  | zero => exact fun _ _ _ h => h
  | succ n ih => exact fun _ _ _ h => ih _ _ _ (Mach.evacBurst_wf h _ _ _ _)

/-- An evacuation of a table's page, `r` what its bursts came to. -/
theorem evacTable_form {r : Bool × Mach} (hr : Memory.wf r.2.mem = true) (c : Bool → Bool) (g : AlmSt → AlmSt) :
    Memory.wf (if c r.1 then m else { r.2 with alm := g r.2.alm }).mem = true := by
  split <;> assumption

@[simp] theorem Mach.evacTable_wf (d page : Nat) (dst : PagePick) : Memory.wf (m.evacTable d page dst).mem = true := by
  have hbursts := Mach.evacBursts_wf false 32768 (m.tabAddr (if d = 0 then 1 else 0) (page * 0x200000))
    (m.tabAddr (if d = 0 then 1 else 0) (page * 0x200000)) (dst.loc * 0x200000) h
  unfold Mach.evacTable
  exact evacTable_form h hbursts (fun b => !m.locRetired 0 (m.tabAddr d (page * 0x200000) / 0x200000) || dst.tier != 0 || !b)
    (fun a => { a with tabs := SMap.put 0 (32 * d + page) (dst.loc + 1) a.tabs })

/-- The branches of an evacuation of a tensor's page. -/
theorem evacuation_form {x y z : Mach} (hx : Memory.wf x.mem = true) (hy : Memory.wf y.mem = true) (hz : Memory.wf z.mem = true)
    (c1 c2 c3 c4 : Prop) [Decidable c1] [Decidable c2] [Decidable c3] [Decidable c4] :
    Memory.wf (if c1 then m else if c2 then x else if c3 then y else if c4 then z else m).mem = true :=
  Mach.ite_wf _ h (Mach.ite_wf _ hx (Mach.ite_wf _ hy (Mach.ite_wf _ hz h)))

@[simp] theorem opEvacuation_wf (slot page : Nat) (dst : PagePick) : Memory.wf (opEvacuation slot page dst m).mem = true := by
  unfold opEvacuation
  split
  · exact h
  · split
    · exact Mach.ite_wf _ (Mach.evacTable_wf h _ _ _) h
    · split
      · exact h
      · refine evacuation_form h (Mach.rewritePte_wf ?_ _ _) (Mach.rewritePte_wf ?_ _ _) ?_ _ _ _ _
        · rw [(Mach.flagPlan_frame _ _ _).1, (Mach.setHome_frame _ _ _ _ _).1]
          exact Mach.withAlm_wf (Mach.ite_wf _ (Mach.evacBursts_wf _ _ _ _ _ h) (Mach.setLost_wf (Mach.evacBursts_wf _ _ _ _ _ h) _ _)) _
        · rw [(Mach.flagPlan_frame _ _ _).1, (Mach.setHome_frame _ _ _ _ _).1]
          exact Mach.evacBursts_wf _ _ _ _ _ h
        · rw [(Mach.setHome_frame _ _ _ _ _).1]
          exact h

@[simp] theorem opTrainStepTimeout_wf (ch : Nat) (noWindow : Bool) : Memory.wf (opTrainStepTimeout ch noWindow m).mem = true := by
  have htimeout : Memory.wf (m.farTimeout ch noWindow).mem = true := by simpa using h
  unfold opTrainStepTimeout
  exact foldl_wf _ htimeout (fun m t hm => Mach.setLost_wf hm t true)

/-! The page movers and the stream engines. -/

omit h in
@[simp] theorem Mach.moveBursts_wf (d who n : Nat) : ∀ {m : Mach} (src dst fails : Nat), Memory.wf m.mem = true →
    Memory.wf (m.moveBursts d who src dst n fails).2.mem = true := by
  induction n with
  | zero => exact fun _ _ _ h => h
  | succ n ih =>
    intro m src dst fails h
    unfold Mach.moveBursts
    dsimp only
    split
    · split
      · exact ih _ _ _ (Mach.writeAt_wf (by simpa using h) _ _)
      · exact ih _ _ _ (by simpa using h)
    · exact ih _ _ _ (by simpa using h)

@[simp] theorem opPmCmdEnd_wf (d k : Nat) : Memory.wf (opPmCmdEnd d k m).mem = true := by
  unfold opPmCmdEnd
  dsimp only
  split <;> simp [h]

@[simp] theorem Mach.landUnit_wf (d e : Nat) (x : Transfer) (y : SeEntry) (b : Nat) (data : List Byte) :
    Memory.wf (m.landUnit d e x y b data).2.mem = true := by
  simp [Mach.landUnit, h]

@[simp] theorem Mach.sendUnit_wf (d e : Nat) (x : Transfer) (y : SeEntry) (i : Nat) : Memory.wf (m.sendUnit d e x y i).2.2.mem = true := by
  unfold Mach.sendUnit
  dsimp only
  split <;> simp [h]

omit h in
@[simp] theorem Mach.issueUnits_wf (d e n : Nat) : ∀ {m : Mach} (x : Transfer) (y : SeEntry), Memory.wf m.mem = true →
    Memory.wf (m.issueUnits d e x y n).2.mem = true := by
  induction n with
  | zero => exact fun _ _ h => h
  | succ n ih =>
    intro m x y h
    unfold Mach.issueUnits
    dsimp only
    split
    · split
      · exact h
      · split
        · exact ih _ _ (Mach.sendUnit_wf h _ _ _ _ _)
        · split
          · simpa using h
          · exact ih _ _ (Mach.sendUnit_wf (by simpa using h) _ _ _ _ _)
    · split
      · exact h
      · split
        · simpa using h
        · split
          · exact ih _ _ (Mach.landUnit_wf (by simpa using h) _ _ _ _ _ _)
          · simpa using h

@[simp] theorem opEntryIssue_wf (d e : Nat) (reread : Bool) : Memory.wf (opEntryIssue d e reread m).mem = true := by
  unfold opEntryIssue
  dsimp only
  split
  · exact h
  · split
    · exact h
    · rw [(Mach.seEvents_frame _ _ _ _ _ _).1]
      exact Mach.issueUnits_wf _ _ _ _ _ (by simp [h])

omit h in
@[simp] theorem Mach.storeWords_wf (c : Nat) (bs : List CacheByte) (l : List Nat) : ∀ {m : Mach}, Memory.wf m.mem = true →
    Memory.wf (m.storeWords c bs l).mem = true := by
  induction l with
  | nil => exact fun h => h
  | cons x l ih => exact fun h => ih (Mach.writeWord_wf h _ _ _ _)

@[simp] theorem opVeStore_wf (c : Nat) (upset : List Nat) : Memory.wf (opVeStore c upset m).mem = true := by
  unfold opVeStore
  dsimp only
  split
  · exact h
  · split
    · split
      · exact h
      · split
        · simp [h]
        · split
          · simp [h]
          · split
            · simp [h]
            · split
              · simp [h]
              · rw [(Mach.veIssued_frame _ _ _ _ _ _).1]
                exact Mach.storeWords_wf _ _ _ (by simp [h])
    · exact h

/-! The frame ports and the lanes. -/

omit h in
@[simp] theorem Mach.fpFlush_wf (p n : Nat) : ∀ {m : Mach}, Memory.wf m.mem = true → Memory.wf (m.fpFlush p n).mem = true := by
  induction n with
  | zero => exact fun h => h
  | succ n ih =>
    intro m h
    unfold Mach.fpFlush
    dsimp only
    split
    · exact h
    · split
      · exact h
      · split
        · exact ih (by simp [h])
        · exact h
        · exact ih (by simpa using h)

@[simp] theorem Mach.fpPump_wf (p : Nat) : Memory.wf (m.fpPump p).mem = true := by
  simp [Mach.fpPump, h]

@[simp] theorem Mach.fpData_wf (p v : Nat) : Memory.wf (m.fpData p v).mem = true := by
  unfold Mach.fpData
  dsimp only
  split <;> simp [h]

@[simp] theorem Mach.fpBlock_wf (p n : Nat) (b : LnBlk) : Memory.wf (m.fpBlock p n b).mem = true := by
  unfold Mach.fpBlock
  dsimp only
  split
  · simp [h]
  · simp [h]
  · split <;> simp [h]
  · exact h

omit h in
@[simp] theorem Mach.fpDrain_wf (p n : Nat) : ∀ {m : Mach}, Memory.wf m.mem = true → Memory.wf (m.fpDrain p n).mem = true := by
  induction n with
  | zero => exact fun h => h
  | succ n ih =>
    intro m h
    unfold Mach.fpDrain
    dsimp only
    split
    · exact ih (by simpa using h)
    · split
      · split
        · exact h
        · exact ih (by simpa using h)
      · split
        · exact h
        · exact h
        · exact ih (Mach.fpBlock_wf (by simpa using h) _ _ _)

@[simp] theorem Mach.fpArrive_wf (p n : Nat) (b : LnBlk) : Memory.wf (m.fpArrive p n b).mem = true := by
  unfold Mach.fpArrive
  dsimp only
  split
  · exact h
  · split
    · split <;> simp [h]
    · simp [h]

@[simp] theorem opTapLineReturn_wf (p : Nat) (data : List Byte) (shape : Bool) : Memory.wf (opTapLineReturn p data shape m).mem = true := by
  unfold opTapLineReturn
  dsimp only
  split <;> simp [h]

@[simp] theorem opFrameEvent_wf (p : Nat) : Memory.wf (opFrameEvent p m).mem = true := by
  unfold opFrameEvent
  dsimp only
  split
  · simp [h]
  · split
    · simp [h]
    · apply Mach.fpPump_wf
      split <;> simp [h]

@[simp] theorem Mach.lnBlock_wf (n : Nat) (b : LnBlk) : Memory.wf (m.lnBlock n b).mem = true := by
  unfold Mach.lnBlock
  split
  · exact h
  · split
    · split <;> simp [h]
    · split <;> simp [h]

@[simp] theorem Mach.lnGood_wf (n : Nat) (b : LnBlk) : Memory.wf (m.lnGood n b).mem = true := by simp [Mach.lnGood, h]

@[simp] theorem opAlignBlock_wf (n index size : Nat) : Memory.wf (opAlignBlock n index size m).mem = true := by simp [opAlignBlock, h]

@[simp] theorem opDataBlock_wf (n v : Nat) (bad : Bool) (errs : Nat) : Memory.wf (opDataBlock n v bad errs m).mem = true := by simp [opDataBlock, h]

@[simp] theorem opUser_wf (n v : Nat) : Memory.wf (opUser n v m).mem = true := by simp [opUser, h]

@[simp] theorem opFrameStart_wf (n no : Nat) : Memory.wf (opFrameStart n no m).mem = true := Mach.lnGood_wf h _ _

@[simp] theorem opLineStart_wf (n line : Nat) : Memory.wf (opLineStart n line m).mem = true := Mach.lnGood_wf h _ _

@[simp] theorem opFrameEnd_wf (n crc : Nat) : Memory.wf (opFrameEnd n crc m).mem = true := Mach.lnGood_wf h _ _

/-! The march runs. -/

@[simp] theorem Mach.marchWrite_wf (c b w : Nat) (v : List Byte) : Memory.wf (m.marchWrite c b w v).mem = true := Mach.writeWord_wf h _ _ _ _

omit h in
@[simp] theorem Mach.marchOps_wf (c b w bg : Nat) (save : List Byte) (l : List (Bool × Bool)) : ∀ {m : Mach} (op : Nat), Memory.wf m.mem = true →
    Memory.wf (m.marchOps c b w bg save op l).mem = true := by
  induction l with
  | nil => exact fun _ h => h
  | cons x l ih => exact fun _ h => ih _ (by simp [h])

@[simp] theorem Mach.undefineWord_wf (a : Nat) : Memory.wf (m.undefineWord a).mem = true := by
  simp [Mach.undefineWord, Mach.putBytes_wf, h]

@[simp] theorem Mach.undefineWords_wf (b w n : Nat) : Memory.wf (m.undefineWords b w n).mem = true := by
  unfold Mach.undefineWords
  exact foldl_wf _ h (fun m _ hm => Mach.undefineWord_wf hm _)

@[simp] theorem Mach.marchEarly_wf (c : Nat) : Memory.wf (m.marchEarly c).mem = true := by
  unfold Mach.marchEarly
  dsimp only
  split <;> simp [h]

@[simp] theorem Mach.marchElem_wf (c b lo n : Nat) (save : List (List Byte)) : Memory.wf (m.marchElem c b lo n save).1.mem = true := by
  simp [Mach.marchElem, h]

/-- The end of a march transfer: the run's record is written and, where that was the bank's last, the bank ends. -/
theorem marchGo_form (c : Nat) (r : March) (fin : Bool) : Memory.wf (if fin = true then
    (m.setMarch c r).marchBankEnd c ((m.setMarch c r).march c).verdict else m.setMarch c r).mem = true := by
  split <;> simp [h]

@[simp] theorem opMarchTransfer_wf (c : Nat) (upset : List Nat) : Memory.wf (opMarchTransfer c upset m).mem = true := by
  unfold opMarchTransfer
  dsimp only
  split
  · exact h
  · refine Mach.ite_wf _ (by simp [h]) ?_
    split
    · simp [h]
    · simp [h]
    · have hupset : Memory.wf (m.upsetLanes c upset).mem = true := by simpa using h
      refine Mach.ite_wf _ ?_ (Mach.ite_wf _ ?_ (Mach.ite_wf _ ?_ (Mach.ite_wf _ ?_ (Mach.ite_wf _ ?_ ?_))))
      · exact marchGo_form (Mach.marchWrite_wf (Mach.marchWrite_wf hupset _ _ _ _) _ _ _ _) _ _ _
      · exact marchGo_form (Mach.marchElem_wf hupset _ _ _ _ _) _ _ _
      · refine marchGo_form ?_ _ _ _
        split <;> simp [h]
      · exact marchGo_form (Mach.marchElem_wf hupset _ _ _ _ _) _ _ _
      · exact marchGo_form (foldl_wf _ (Mach.marchWrite_wf hupset _ _ _ _) (fun m l hm => by simpa using hm)) _ _ _
      · have hread : ∀ b w v op, Memory.wf ((m.upsetLanes c upset).marchRead c b w v op).mem = true := fun b w v op => by simpa using h
        exact Mach.ite_wf _ (marchGo_form (hread _ _ _ _) _ _ _) (marchGo_form (hread _ _ _ _) _ _ _)

@[simp] theorem opMarchAbort_wf (c who : Nat) : Memory.wf (opMarchAbort c who m).mem = true := by
  unfold opMarchAbort
  dsimp only
  split
  · simp [h]
  · split <;> simp [h]

end

end Sys2Proof.Machine
end

section
/-! Register writes, the network, resets and wakes: they keep memory's form, and of the fuses only the integrator key may be fused, once (16 R395). -/

namespace Sys2Proof.Machine

/-- What a step may do to the fuses: nothing, but for fusing an integrator key where none is. -/
def FusesStay (m n : Mach) : Prop :=
  (∀ k, m.fuses.intKey = some k → n.fuses = m.fuses) ∧ { n.fuses with intKey := none } = { m.fuses with intKey := none }

/-- What every step keeps: memory's form and the fuses. -/
structure Keeps (m n : Mach) : Prop where
  form : Memory.wf m.mem = true → Memory.wf n.mem = true
  fuses : FusesStay m n

theorem FusesStay.of_eq {m n : Mach} (h : n.fuses = m.fuses) : FusesStay m n := ⟨fun _ _ => h, by rw [h]⟩

theorem FusesStay.trans {m n o : Mach} (h : FusesStay m n) (h' : FusesStay n o) : FusesStay m o :=
  ⟨fun k hk => (h'.1 k (by rw [h.1 k hk, hk])).trans (h.1 k hk), h'.2.trans h.2⟩

theorem Keeps.of_form {m n : Mach} (hform : Memory.wf m.mem = true → Memory.wf n.mem = true) (hfuses : n.fuses = m.fuses) : Keeps m n :=
  ⟨hform, .of_eq hfuses⟩

theorem Keeps.of_frame {m n : Mach} (h : n.mem = m.mem ∧ n.fuses = m.fuses) : Keeps m n := .of_form (fun hm => by rw [h.1]; exact hm) h.2

theorem Keeps.refl (m : Mach) : Keeps m m := .of_frame ⟨rfl, rfl⟩

theorem Keeps.trans {m n o : Mach} (h : Keeps m n) (h' : Keeps n o) : Keeps m o := ⟨fun hm => h'.form (h.form hm), h.fuses.trans h'.fuses⟩

/-- A later part that keeps memory and the fuses adds nothing. -/
theorem Keeps.then_frame {m n o : Mach} (h : Keeps m n) (h' : o.mem = n.mem ∧ o.fuses = n.fuses) : Keeps m o := h.trans (.of_frame h')

theorem Keeps.ite {m a b : Mach} (c : Prop) [Decidable c] (ha : Keeps m a) (hb : Keeps m b) : Keeps m (if c then a else b) := by split <;> assumption

/-! Resets, states and wakes. -/

theorem Mach.wiped_keeps (m : Mach) (keep : Nat → Bool) : Keeps m (m.wiped keep) := .of_form (fun _ => rfl) rfl

theorem Mach.moduleReset_keeps (m : Mach) (cause : Nat) : Keeps m (m.moduleReset cause) := .of_form (fun _ => rfl) rfl

theorem Mach.solstice_keeps (m : Mach) : Keeps m m.solstice := by
  have hfuses : m.solstice.fuses = m.fuses := by simp [Mach.solstice, Mach.wiped]
  have hmem : m.solstice.mem = [] := by simp [Mach.solstice, Mach.wiped, Mach.reset]
  exact .of_form (fun _ => by rw [hmem]; rfl) hfuses

theorem Mach.wake_keeps (m : Mach) (mask : Nat) : Keeps m (m.wake mask) := by
  unfold Mach.wake
  dsimp only
  refine .ite _ (.refl m) ?_
  split
  · exact .of_frame (by simp)
  · exact (Keeps.of_frame (m.recordWake_frame _)).trans (Mach.moduleReset_keeps _ _)
  · exact .of_frame (by simp)

theorem opPowerStateEnter_keeps (m : Mach) : Keeps m (opPowerStateEnter m) := by
  unfold opPowerStateEnter
  dsimp only
  split
  · exact .refl m
  · split
    · exact .of_frame (by simp)
    · split
      · exact .of_frame (by simp)
      · split
        · exact .of_frame (by simp)
        · split
          · exact .of_frame (by simp)
          · exact (Keeps.of_frame (by simp)).trans (Mach.solstice_keeps _)

theorem opThermalTrip_keeps (sensor temp : Nat) (m : Mach) : Keeps m (opThermalTrip sensor temp m) := by
  unfold opThermalTrip
  exact .ite _ (.refl m) ((Keeps.of_frame (by simp)).trans (Mach.solstice_keeps _))

theorem opSensorSample_keeps (rails : List (Nat × Nat)) (temps : List Nat) (m : Mach) : Keeps m (opSensorSample rails temps m) := by
  unfold opSensorSample
  dsimp only
  split
  · exact (Keeps.of_frame (by simp)).trans (Mach.wake_keeps _ _)
  · exact .of_frame (by simp)

theorem opWakeCounterExpiry_keeps (m : Mach) : Keeps m (opWakeCounterExpiry m) := by
  unfold opWakeCounterExpiry
  exact .ite _ (.refl m) (m.wake_keeps _)

theorem opLaneWake_keeps (d i : Nat) (m : Mach) : Keeps m (opLaneWake d i m) := .ite _ (m.wake_keeps _) (.refl m)

theorem opStandbyPowerOn_keeps (m : Mach) : Keeps m (opStandbyPowerOn m) := by
  unfold opStandbyPowerOn
  split
  · exact .of_form (fun _ => rfl) rfl
  · exact .refl m

theorem opBrownOut_keeps (input : Nat) (m : Mach) : Keeps m (opBrownOut input m) := by
  unfold opBrownOut
  split
  · exact .of_form (fun _ => rfl) rfl
  · exact .ite _ ((m.moduleReset_keeps 3).then_frame ⟨rfl, rfl⟩) (.refl m)

theorem opSwReset_keeps (who key : Nat) (m : Mach) : Keeps m (opSwReset who key m) := by
  unfold opSwReset Mach.permit
  refine .ite _ (Keeps.then_frame (n := if key = 0x5EED then m.moduleReset 5 else m) ?_ ⟨rfl, rfl⟩) (.of_frame ⟨rfl, rfl⟩)
  exact .ite _ (m.moduleReset_keeps 5) (.refl m)

theorem opRefclkRetry_keeps (found : Bool) (m : Mach) : Keeps m (opRefclkRetry found m) := by
  unfold opRefclkRetry
  exact .ite _ (.of_frame ⟨rfl, rfl⟩) ((m.wiped_keeps sensField).then_frame ⟨rfl, rfl⟩)

/-- A start-up: the banks start anew between parts that store nothing. -/
theorem startup_form (c : Prop) [Decidable c] {f g : Mach → Mach} (hf : ∀ m, (f m).mem = m.mem) (hg : ∀ m, (g m).mem = m.mem) {m : Mach}
    (h : Memory.wf m.mem = true) : Memory.wf (if c then m else g (f m).banksStart).mem = true := by
  refine Mach.ite_wf c h ?_
  rw [hg]
  refine memory_filter_wf _ _ ?_
  rw [hf]
  exact h

theorem opStartupSequence_keeps (rails : List (Nat × Nat)) (temps : List Nat) (plls : List (Nat × Nat)) (nears : List Nat)
    (fars : List (Nat × Nat × Bool)) (m : Mach) : Keeps m (opStartupSequence rails temps plls nears fars m) := by
  refine .of_form (fun h => ?_) (opStartupSequence_frame _ _ _ _ _ m)
  unfold opStartupSequence
  exact startup_form _
    (f := fun m => ((((((m.reports.sampled rails temps true).pllsStart plls).nearStart nears).farStart fars).nocStart).tilesSetUp))
    (g := fun m => m.runStart.setPow { m.runStart.pow with started := true }) (fun m => by simp) (fun m => by simp) h

/-- The integrator key is fused where none is, and nothing else of the fuses changes. -/
theorem opIntKeyFuse_keeps (who : Nat) (m : Mach) : Keeps m (opIntKeyFuse who m) := by
  unfold opIntKeyFuse
  split
  · exact .of_frame (by simp)
  · next h =>
    have hnone : m.fuses.intKey = none := by simpa using (not_or.mp h).2
    exact ⟨id, fun k hk => absurd (hnone.symm.trans hk) (by simp), rfl⟩

end Sys2Proof.Machine
end

section
/-! Register writes and the network: what they come to keeps memory's form and the fuses. -/

namespace Sys2Proof.Machine

/-- A write end keeps what its machine keeps. -/
theorem landed_keeps {m n : Mach} (h : Keeps m n) : Keeps m (landed n).2 := h

theorem landed_frame {m n : Mach} (h : n.mem = m.mem ∧ n.fuses = m.fuses) : Keeps m (landed n).2 := .of_frame h

theorem Keeps.iteEnd {m : Mach} {a b : WriteEnd} (c : Prop) [Decidable c] (ha : Keeps m a.2) (hb : Keeps m b.2) :
    Keeps m (if c then a else b).2 := by split <;> assumption

/-- An operation that answers through the register bus keeps what the operation keeps. -/
theorem Mach.via_keeps (m : Mach) (who : Nat) {f : Mach → Mach} (hf : ∀ m, Keeps m (f m)) : Keeps m (m.via who f).2 :=
  ⟨(hf { m with out := [] }).form, (hf { m with out := [] }).fuses⟩

/-- An operation with a frame, through the register bus. -/
theorem Mach.via_frame (m : Mach) (who : Nat) {f : Mach → Mach} (hf : ∀ m, (f m).mem = m.mem ∧ (f m).fuses = m.fuses) : Keeps m (m.via who f).2 :=
  m.via_keeps who (fun m => .of_frame (hf m))

theorem Mach.putWord_keeps (m : Mach) (die o data hw : Nat) : Keeps m (landed (m.putWord die o data hw)).2 := .of_frame (m.putWord_frame die o data hw)

theorem Mach.writeFw_keeps (m : Mach) (p r who die o data hw : Nat) : Keeps m (m.writeFw p r who die o data hw).2 := by
  unfold Mach.writeFw
  refine .iteEnd _ ?_ (.iteEnd _ ?_ (.iteEnd _ ?_ ?_))
  · exact .iteEnd _ ((Keeps.of_frame (m.fresh_frame 32)).trans (Mach.via_frame _ _ (fun m => by simp)))
      (.iteEnd _ (m.via_frame who (fun m => by simp)) (.refl m))
  · exact m.via_frame who (fun m => by simp)
  · exact .of_frame ⟨rfl, rfl⟩
  · exact m.putWord_keeps _ _ _ _

theorem Mach.writeKeeper_keeps (m : Mach) (o who data hw : Nat) : Keeps m (m.writeKeeper o who data hw).2 := by
  unfold Mach.writeKeeper
  dsimp only
  split
  · exact .iteEnd _ (landed_frame (by simp)) (m.putWord_keeps _ _ _ _)
  · refine .iteEnd _ (m.writeFw_keeps _ _ _ _ _ _ _) (.iteEnd _ (m.via_frame who (fun m => by simp)) (.iteEnd _ ?_ (.iteEnd _ ?_ (m.putWord_keeps _ _ _ _))))
    · exact .of_frame (m.writeReserve_frame _ _ _ _)
    · exact .of_frame (m.writeReserve_frame _ _ _ _)
  · refine .iteEnd _ (.of_frame (m.writeMbCommon_frame _ _ _ _ _)) (.iteEnd _ (.iteEnd _ (.of_frame ⟨rfl, rfl⟩) (.iteEnd _ ?_ (m.putWord_keeps _ _ _ _)))
      (m.putWord_keeps _ _ _ _))
    exact m.via_frame who (fun m => by simp)
  · refine .iteEnd _ (.of_frame (m.releaseBanks_frame _)) (.iteEnd _ ?_ (m.putWord_keeps _ _ _ _))
    exact landed_keeps (.ite _ (m.moduleReset_keeps 5) (.refl m))
  · refine .iteEnd _ (.iteEnd _ (m.via_keeps who (fun m => opIntKeyFuse_keeps who m)) (.refl m)) (.iteEnd _ (.iteEnd _ ?_ (.refl m)) (m.putWord_keeps _ _ _ _))
    exact m.via_frame who (fun m => by simp)
  · exact m.putWord_keeps _ _ _ _

theorem Mach.writeTile_keeps (m : Mach) (t r who o data hw : Nat) : Keeps m (m.writeTile t r who o data hw).2 := by
  unfold Mach.writeTile
  dsimp only
  refine .iteEnd _ (landed_frame (by simp)) (.iteEnd _ (landed_frame (by simp)) (.iteEnd _ (landed_frame (by simp)) (.iteEnd _ (m.via_frame who (fun m => by simp))
    (.iteEnd _ (.iteEnd _ (m.via_frame who (fun m => by simp)) (m.putWord_keeps _ _ _ _)) (.iteEnd _ (.of_frame ⟨rfl, rfl⟩)
    (.iteEnd _ (m.via_frame who (fun m => by simp)) (m.putWord_keeps _ _ _ _)))))))

theorem opMarchAbort_keeps (c who : Nat) (m : Mach) : Keeps m (opMarchAbort c who m) := .of_form (fun h => opMarchAbort_wf h c who) (opMarchAbort_frame c who m)

theorem Mach.writeCluster_keeps (m : Mach) (c y who o data hw : Nat) : Keeps m (m.writeCluster c y who o data hw).2 := by
  unfold Mach.writeCluster
  dsimp only
  refine .iteEnd _ (landed_frame (by simp)) (.iteEnd _ (landed_frame (by simp)) (.iteEnd _ (.of_frame ⟨rfl, rfl⟩) (.iteEnd _ (m.via_frame who (fun m => by simp))
    (.iteEnd _ (landed_frame (by simp)) (.iteEnd _ (.iteEnd _ ?_ (.iteEnd _ (m.via_frame who (fun m => by simp)) (m.putWord_keeps _ _ _ _)))
    (m.putWord_keeps _ _ _ _))))))
  exact m.via_keeps who (fun m => (Keeps.of_frame (m.putWord_frame _ _ _ _)).trans (opMarchAbort_keeps _ _ _))

theorem Mach.writeSe_keeps (m : Mach) (d e r who o data hw : Nat) : Keeps m (m.writeSe d e r who o data hw).2 := by
  unfold Mach.writeSe
  dsimp only
  exact .iteEnd _ (landed_frame (by simp)) (.iteEnd _ (landed_frame (by simp)) (.iteEnd _ (m.via_frame who (fun m => by simp)) (m.putWord_keeps _ _ _ _)))

theorem Mach.writeMover_keeps (m : Mach) (d r who o data hw : Nat) : Keeps m (m.writeMover d r who o data hw).2 := by
  unfold Mach.writeMover
  dsimp only
  exact .iteEnd _ (.iteEnd _ (.of_frame ⟨rfl, rfl⟩) (.iteEnd _ (m.via_frame who (fun m => by simp)) (.refl m))) (m.putWord_keeps _ _ _ _)

theorem Mach.writeFabric_keeps (m : Mach) (d x who o data hw : Nat) (pkt : Option Packet) : Keeps m (m.writeFabric d x who o data hw pkt).2 := by
  unfold Mach.writeFabric
  dsimp only
  refine .iteEnd _ (landed_frame (by simp)) (.iteEnd _ (landed_frame (by simp)) ?_)
  split
  · exact m.via_frame who (fun m => by simp)
  · exact m.putWord_keeps _ _ _ _

theorem Mach.writeSlice_keeps (m : Mach) (k r who o data hw : Nat) : Keeps m (m.writeSlice k r who o data hw).2 := by
  unfold Mach.writeSlice
  dsimp only
  exact .iteEnd _ (landed_frame (by simp)) (.iteEnd _ (landed_frame (by simp)) (.iteEnd _ (.of_frame ⟨rfl, rfl⟩) (landed_frame (by simp))))

theorem Mach.writeEngine_keeps (m : Mach) (d o who data hw : Nat) (pkt : Option Packet) : Keeps m (m.writeEngine d o who data hw pkt).2 := by
  unfold Mach.writeEngine
  dsimp only
  split
  · exact .iteEnd _ (.of_frame (m.pllEnable_frame _ _)) (.iteEnd _ (.of_frame (m.writeSpread_frame _ _)) (m.putWord_keeps _ _ _ _))
  · exact .iteEnd _ (m.writeTile_keeps _ _ _ _ _ _) (m.writeCluster_keeps _ _ _ _ _ _)
  · exact .iteEnd _ (m.writeSe_keeps _ _ _ _ _ _ _) (m.writeMover_keeps _ _ _ _ _ _)
  · exact .iteEnd _ (landed_frame (by simp)) (m.putWord_keeps _ _ _ _)
  · exact .iteEnd _ (landed_frame (by simp)) (m.putWord_keeps _ _ _ _)
  · exact .iteEnd _ (m.via_frame who (fun m => by simp)) (.iteEnd _ (m.via_frame who (fun m => by simp)) (m.putWord_keeps _ _ _ _))
  · exact .of_frame (m.writeLanes_frame _ _ _ _ _)
  · exact m.writeFabric_keeps _ _ _ _ _ _ _
  · exact .iteEnd _ (m.writeSlice_keeps _ _ _ _ _ _) (.refl m)
  · exact .iteEnd _ (m.writeFw_keeps _ _ _ _ _ _ _) (.iteEnd _ (.of_frame (m.writeMbCommon_frame _ _ _ _ _)) (m.putWord_keeps _ _ _ _))
  · exact .refl m

theorem Mach.regPut_keeps (m : Mach) (die o who data hw : Nat) (pkt : Option Packet) : Keeps m (m.regPut die o who data hw pkt).2 := by
  unfold Mach.regPut
  split
  · exact .of_frame (m.rowWindow_frame _ _ _ _ _)
  · exact .iteEnd _ (m.writeKeeper_keeps _ _ _ _) (m.writeEngine_keeps _ _ _ _ _ _)

theorem Mach.busWrite_keeps (m : Mach) (who addr size data hw : Nat) (pkt : Option Packet) : Keeps m (m.busWrite who addr size data hw pkt).2 := by
  unfold Mach.busWrite
  split
  · split
    · exact .refl m
    · exact .refl m
    · exact m.regPut_keeps _ _ _ _ _ _
  · exact .refl m

theorem opRegisterWrite_keeps (who addr size data hw : Nat) (m : Mach) : Keeps m (opRegisterWrite who addr size data hw m) := by
  unfold opRegisterWrite
  dsimp only
  have hwrite := m.busWrite_keeps who addr size data hw none
  split
  · exact hwrite.then_frame ⟨rfl, rfl⟩
  · exact hwrite

theorem opRegWrite_keeps (addr data tag : Nat) (m : Mach) : Keeps m (opRegWrite addr data tag m) := by
  unfold opRegWrite
  dsimp only
  have hwrite := m.busWrite_keeps idHost addr 4 data 0 none
  refine .ite _ (.refl m) ?_
  split
  · exact hwrite.then_frame (by simp)
  · exact hwrite

theorem opNetAccess_keeps (addr data : Nat) (write : Bool) (m : Mach) : Keeps m (opNetAccess addr data write m) := by
  unfold opNetAccess
  dsimp only
  have hbegin : Keeps m ((m.netSettle.setIr 0x20).send (.tdo 120 m.netSettle.cfg.netCapture)) := .of_frame (by simp)
  generalize (m.netSettle.setIr 0x20).send (.tdo 120 m.netSettle.cfg.netCapture) = n at hbegin ⊢
  have hwrite := n.busWrite_keeps idTest addr 4 data 0 none
  have hread := n.busRead_frame idTest addr 4 0 none
  refine .ite _ hbegin (.ite _ ?_ ?_)
  · split <;> exact (hbegin.trans hwrite).then_frame ⟨rfl, rfl⟩
  · split <;> exact hbegin.then_frame hread

/-! Packets that arrive. -/

theorem Mach.storeAccess_keeps (m : Mach) (p : Packet) {y : Served} (h : m.storeAccess p = some y) : Keeps m y.after := by
  refine .of_form (fun hm => ?_) (m.storeAccess_frame p h)
  simp only [Mach.storeAccess] at h
  have hgate : ∀ n, Memory.wf (m.storeGate p.src p.addr n).2.mem = true := fun n => by simpa using hm
  split at h
  · cases h
  · cases h
    exact hgate _
  · split at h
    · cases h
      exact Mach.writeAtEn_wf (hgate _) _ _ _
    · cases h
      simpa using hm

theorem Mach.atomicAccess_keeps (m : Mach) (p : Packet) {y : Served} (h : m.atomicAccess p = some y) : Keeps m y.after := by
  refine .of_form (fun hm => ?_) (m.atomicAccess_frame p h)
  unfold Mach.atomicAccess at h
  split at h
  · cases h
    exact hm
  · extract_lets wide v op at h
    split at h
    · cases h
      exact hm
    · have hgate : Memory.wf (m.storeGate p.src p.addr 1).2.mem = true := by simpa using hm
      split at h
      · cases h
      · cases h
        exact hgate
      · cases h
        exact Mach.atomic_wf (m := { (m.storeGate p.src p.addr 1).2 with out := [] }) hgate _ _
  · cases h
    exact hm
  · cases h
    exact hm

theorem Mach.serve_keeps (m : Mach) (p : Packet) {y : Served} (h : m.serve p = some y) : Keeps m y.after := by
  unfold Mach.serve at h
  split at h
  · exact m.atomicAccess_keeps p h
  · split at h
    · obtain ⟨st, -, rfl⟩ := Option.map_eq_some_iff.mp h
      exact .of_frame (m.busRead_frame _ _ _ _ _)
    · split at h
      · obtain ⟨st, -, rfl⟩ := Option.map_eq_some_iff.mp h
        exact m.busWrite_keeps _ _ _ _ _ _
      · split at h
        · exact .of_frame (m.windowAccess_frame _ _ _ h)
        · exact m.storeAccess_keeps p h

theorem Mach.eject_keeps (m : Mach) (die port : Nat) (p : Packet) {n : Mach} (h : m.eject die port p = some n) : Keeps m n := by
  unfold Mach.eject at h
  dsimp only at h
  split at h
  · cases h
    exact .of_frame ⟨rfl, rfl⟩
  · split at h
    · cases h
      exact .of_frame ⟨rfl, rfl⟩
    · split at h
      · cases h
        exact .of_frame ⟨rfl, rfl⟩
      · split at h
        · split at h
          · cases h
            exact .of_frame (m.fniTarget_frame _ _ _ _ _ _)
          · cases h
        · split at h
          · cases h
          · next hserve =>
            split at h
            · cases h
              exact (m.serve_keeps p hserve).then_frame (by simp)
            · cases h
              exact m.serve_keeps p hserve

/-- A packet that enters a queue with a place changes that queue alone. -/
theorem enter_keeps {m n x : Mach} {c : Prop} [Decidable c] (hx : Keeps m x) (h : (if c then none else some x) = some n) : Keeps m n := by
  split at h <;> cases h
  exact hx

theorem Mach.pass_keeps (m : Mach) (die net n out : Nat) (p : Packet) {m' : Mach} (h : m.pass die net n out p = some m') : Keeps m m' := by
  have hqueue : ∀ k l, Keeps m (m.setNq k l) := fun _ _ => .of_frame ⟨rfl, rfl⟩
  have hingress : ∀ k l, Keeps m (m.setIngr k l) := fun _ _ => .of_frame ⟨rfl, rfl⟩
  unfold Mach.pass at h
  extract_lets into enter q at h
  split at h
  · split at h
    · exact enter_keeps (hingress _ _) h
    · exact m.eject_keeps _ _ _ h
  · split at h
    · split at h
      · exact enter_keeps (hqueue _ _) h
      · cases h
    · split at h
      · split at h
        · cases h
        · exact enter_keeps (hqueue _ _) h
        · split at h
          · obtain ⟨x, hx, rfl⟩ := Option.map_eq_some_iff.mp h
            exact (enter_keeps (hingress _ _) hx).then_frame ⟨rfl, rfl⟩
          · cases h
      · exact m.eject_keeps _ _ _ h

theorem Mach.forwardFirst_keeps (die net n out : Nat) (l : List (Nat × Packet)) (m : Mach) {r : Nat × Mach} (h : m.forwardFirst die net n out l = some r) :
    Keeps m r.2 := by
  induction l with
  | nil => cases h
  | cons x l ih =>
    simp only [Mach.forwardFirst] at h
    split at h
    · exact ih h
    · next m1 hpass =>
      cases h
      have hpassed := Mach.pass_keeps _ _ _ _ _ _ hpass
      have hdropped : Keeps m (m.setNq (qKey die net n x.1) ((m.nq (qKey die net n x.1)).drop 1)) := .of_frame ⟨rfl, rfl⟩
      exact (hdropped.trans hpassed).trans (.of_frame (by simp))

theorem opRouterForward_keeps (die net n out waited : Nat) (m : Mach) : Keeps m (opRouterForward die net n out waited m) := by
  have hwait : ∀ (ins : List Nat) (c : Nat) (b : Nat → Bool) (x : Mach), Keeps x (ins.foldl (fun m i => m.passTime die net n i out c (b i)) x) :=
    fun ins c b x => .of_frame (by simp)
  unfold opRouterForward
  extract_lets m0 ins m1
  have hm1 : Keeps m m1 := (Keeps.of_frame (m.discard_frame _ _ _ _)).trans (hwait ins waited (fun _ => true) m0)
  split
  · exact hm1
  · next w m2 hfirst =>
    have hm3 := (hm1.trans (Mach.forwardFirst_keeps _ _ _ _ _ _ hfirst)).trans (hwait ins 1 (fun i => i != w) m2)
    split
    · refine .ite _ (Keeps.then_frame hm3 (by simp)) (hm3.then_frame (Mach.niFree_frame _ _ _))
    · refine .ite _ (Keeps.then_frame hm3 (by simp)) hm3

end Sys2Proof.Machine
end

section
/-! Every step keeps memory's form and the fuses. -/

namespace Sys2Proof.Machine

/-- A command whose operation keeps memory's form and the fuses keeps them, whether or not its domain runs. -/
theorem State.on_keeps (s : State) (x : Dom) {f : Mach → Mach} (hf : Keeps s.m (f s.m)) : ∃ t, s.on x f = .next t ∧ Keeps s.m t.m := by
  by_cases h : s.m.alive x = true
  · exact ⟨_, s.on_alive x f h, hf⟩
  · exact ⟨s, s.on_stopped x f (by simpa using h), .refl s.m⟩

/-- Every command keeps memory's form and the fuses: a register write, a packet that is served, a reset, a wake and the fusing of the key by their own
lemmas; every other command leaves the fuses, and memory or its form. -/
theorem exec_keeps (c : Instr) (s : State) : ∃ t, exec c s = .next t ∧ Keeps s.m t.m := by
  cases c
  case registerWrite who addr size data hwSet => exact s.on_keeps _ (opRegisterWrite_keeps ..)
  case bankRead => exact s.on_keeps _ (.of_form (fun h => Mach.bankOp_wf h ..) (by simp))
  case bankWrite => exact s.on_keeps _ (.of_form (fun h => Mach.bankOp_wf h ..) (by simp))
  case atomicAdd => exact s.on_keeps _ (.of_form (fun h => Mach.atomicOp_wf h ..) (by simp))
  case atomicSwap => exact s.on_keeps _ (.of_form (fun h => Mach.atomicOp_wf h ..) (by simp))
  case regWrite addr data => exact s.on_keeps _ (opRegWrite_keeps ..)
  case netAccess addr data write => exact s.on_keeps _ (opNetAccess_keeps ..)
  case routerForward => exact s.on_keeps _ (opRouterForward_keeps ..)
  case laneWake => exact s.on_keeps _ (opLaneWake_keeps ..)
  case usbResume => exact s.on_keeps _ (s.m.wake_keeps 2)
  case wakeIn => exact s.on_keeps _ (s.m.wake_keeps _)
  case testPortWake => exact s.on_keeps _ (s.m.wake_keeps 32)
  case wakeCounterExpiry => exact s.on_keeps _ (opWakeCounterExpiry_keeps _)
  case standbyPowerOn => exact ⟨_, rfl, opStandbyPowerOn_keeps s.m⟩
  case brownOut => exact s.on_keeps _ (opBrownOut_keeps ..)
  case mresetN => exact s.on_keeps _ (s.m.moduleReset_keeps 2)
  case swReset => exact s.on_keeps _ (opSwReset_keeps ..)
  case powerStateEnter => exact s.on_keeps _ (opPowerStateEnter_keeps _)
  case thermalTrip => exact s.on_keeps _ (opThermalTrip_keeps ..)
  case startupSequence => exact s.on_keeps _ (opStartupSequence_keeps ..)
  case sensorSample => exact s.on_keeps _ (opSensorSample_keeps ..)
  case refclkRetry => exact s.on_keeps _ (opRefclkRetry_keeps ..)
  case intKeyFuse => exact s.on_keeps _ (opIntKeyFuse_keeps ..)
  all_goals dsimp only [exec, execVeCopy, execVeAdd, execVeSub, execVeMul, execVeFma, execVeMax, execVeMin, execVeAbs, execVeNeg, execVeExp2,
    execVeLog2, execVeRcp, execVeRsqrt, execVePerm, execVeGather, execVeRsum, execVeRmax, execVeRmin, execVeArgmax, execVeArgmin, execVeSample,
    execVeAccept, execVeBlockq, execFniTargetAccess]
  all_goals exact s.on_keeps _ (.of_form (fun h => by simp [h]) (by simp))

theorem step_keeps {s t : State} (h : step s = .next t) : Keeps s.m t.m := by
  obtain ⟨m, queue⟩ := s
  cases queue with
  | nil =>
    obtain rfl := Host.Outcome.next.inj h
    exact .of_frame m.tick_frame
  | cons c l =>
    obtain ⟨u, hexec, hkeeps⟩ := exec_keeps c ⟨m, l⟩
    obtain rfl := Host.Outcome.next.inj (hexec.symm.trans h)
    exact hkeeps

/-- Settles O58, by what every step keeps. -/
theorem everyStepKeepsMemoryCanonical : Obligations.EveryStepKeepsMemoryCanonical := by
  unfold Obligations.EveryStepKeepsMemoryCanonical
  intro s t hmem hstep
  exact (step_keeps hstep).form hmem

/-- Settles O60, by what every step keeps: only the integrator key is ever fused, and only where none is. -/
theorem fusingIsIrreversible : Obligations.FusingIsIrreversible := by
  unfold Obligations.FusingIsIrreversible
  intro s t hstep
  exact (step_keeps hstep).fuses

end Sys2Proof.Machine
end

section
/-! The arbiter's winner: the highest rank, and among equals the next in turn (09 R214). -/

namespace Sys2Proof.Machine

/-- One step of the search for the request that is nearest in turn, the first of equals. -/
def nearer (dist : ArbReq → Nat) : Option ArbReq → ArbReq → Option ArbReq
  | none, r => some r
  | some x, r => if dist r < dist x then some r else some x

/-- How far a request stands in the turn that begins at index k. -/
def turnDist (k : Nat) (r : ArbReq) : Nat := if k ≤ r.idx then r.idx - k else r.idx + 64 - k

/-- The highest rank of the requests. -/
def Mach.topRank (m : Mach) (a : ArbId) (rs : List ArbReq) : Nat := rs.foldl (fun t r => max t (m.rank a r.idx)) 0

theorem Mach.winner_eq (m : Mach) (a : ArbId) (rs : List ArbReq) :
    m.winner a rs = (rs.filter (fun r => m.rank a r.idx == m.topRank a rs)).foldl
      (nearer (turnDist (SMap.get 0 (m.topRank a rs) (m.arb a).lastAt))) none := by
  have hstep : ∀ (k : Nat), (fun (b : Option ArbReq) (r : ArbReq) => match b with
      | none => some r
      | some x => if turnDist k r < turnDist k x then some r else some x) = nearer (turnDist k) := by
    intro k; funext b r; cases b <;> rfl
  rw [← hstep]
  rfl

theorem foldl_nearer_some (dist : ArbReq → Nat) (l : List ArbReq) (x : ArbReq) :
    ∃ w, l.foldl (nearer dist) (some x) = some w ∧ w ∈ x :: l ∧ ∀ r ∈ x :: l, dist w ≤ dist r := by
  induction l generalizing x with
  | nil => exact ⟨x, rfl, by simp, by simp⟩
  | cons y l ih =>
    by_cases hy : dist y < dist x
    · obtain ⟨w, hw, hmem, hmin⟩ := ih y
      refine ⟨w, by rw [List.foldl_cons, nearer, if_pos hy, hw], List.mem_cons_of_mem _ hmem, ?_⟩
      intro r hr
      obtain rfl | hr := List.mem_cons.mp hr
      · exact (hmin y List.mem_cons_self).trans hy.le
      · exact hmin r hr
    · obtain ⟨w, hw, hmem, hmin⟩ := ih x
      have hwx : dist w ≤ dist x := hmin x List.mem_cons_self
      refine ⟨w, by rw [List.foldl_cons, nearer, if_neg hy, hw], by grind, ?_⟩
      intro r hr
      obtain rfl | hr := List.mem_cons.mp hr
      · exact hwx
      · obtain rfl | hr := List.mem_cons.mp hr
        · omega
        · exact hmin r (List.mem_cons_of_mem _ hr)

theorem foldl_nearer (dist : ArbReq → Nat) {l : List ArbReq} (hl : l ≠ []) :
    ∃ w, l.foldl (nearer dist) none = some w ∧ w ∈ l ∧ ∀ r ∈ l, dist w ≤ dist r := by
  obtain ⟨x, l, rfl⟩ := List.exists_cons_of_ne_nil hl
  exact foldl_nearer_some dist l x

theorem foldl_max_spec {α : Type} (f : α → Nat) (l : List α) (t : Nat) :
    t ≤ l.foldl (fun t r => max t (f r)) t ∧ (∀ r ∈ l, f r ≤ l.foldl (fun t r => max t (f r)) t) ∧
    (l.foldl (fun t r => max t (f r)) t = t ∨ ∃ r ∈ l, f r = l.foldl (fun t r => max t (f r)) t) := by
  induction l generalizing t with
  | nil => simp
  | cons x l ih =>
    obtain ⟨hle, hall, hhas⟩ := ih (max t (f x))
    rw [List.foldl_cons]
    refine ⟨by omega, ?_, ?_⟩
    · intro r hr
      obtain rfl | hr := List.mem_cons.mp hr
      · omega
      · exact hall r hr
    · obtain hkept | ⟨r, hr, heq⟩ := hhas
      · rcases Nat.le_total t (f x) with h | h
        · exact .inr ⟨x, List.mem_cons_self, by omega⟩
        · exact .inl (by omega)
      · exact .inr ⟨r, List.mem_cons_of_mem _ hr, heq⟩

/-- The highest rank bounds every request's and is one of them. -/
theorem Mach.topRank_spec (m : Mach) (a : ArbId) {rs : List ArbReq} (hrs : rs ≠ []) :
    (∀ r ∈ rs, m.rank a r.idx ≤ m.topRank a rs) ∧ ∃ r ∈ rs, m.rank a r.idx = m.topRank a rs := by
  obtain ⟨-, hall, hhas⟩ := foldl_max_spec (fun r : ArbReq => m.rank a r.idx) rs 0
  refine ⟨hall, ?_⟩
  obtain hzero | hhas := hhas
  · obtain ⟨x, l, rfl⟩ := List.exists_cons_of_ne_nil hrs
    have hx := hall x List.mem_cons_self
    exact ⟨x, List.mem_cons_self, by unfold Mach.topRank; omega⟩
  · exact hhas

/-- Settles O12: the filter leaves the requests of the highest rank, and the fold finds among them one that is nearest in turn. -/
theorem arbiterWinner : Obligations.ArbiterWinner := by
  unfold Obligations.ArbiterWinner
  intro m a rs hidx hlast
  refine ⟨fun hrs => by rw [hrs]; rfl, fun hrs => ?_⟩
  obtain ⟨hall, x, hx, hxtop⟩ := m.topRank_spec a hrs
  have hcand : rs.filter (fun r => m.rank a r.idx == m.topRank a rs) ≠ [] := List.ne_nil_of_mem (a := x) (by simp [hx, hxtop])
  obtain ⟨w, hw, hwmem, hmin⟩ := foldl_nearer (turnDist (SMap.get 0 (m.topRank a rs) (m.arb a).lastAt)) hcand
  obtain ⟨hwrs, hwtop⟩ : w ∈ rs ∧ m.rank a w.idx = m.topRank a rs := by simpa using hwmem
  refine ⟨w, by rw [m.winner_eq, hw], hwrs, fun r hr => hwtop ▸ hall r hr, ?_⟩
  intro r hr hrank k hk
  have hdist := hmin r (by simp [hr, hrank, hwtop])
  rw [← hwtop, ← hk] at hdist
  have hk64 : k ≤ 64 := by rw [hk, hwtop]; exact hlast
  have hr64 := hidx r hr
  unfold turnDist at hdist
  split at hdist <;> split at hdist <;> omega

end Sys2Proof.Machine
end

section
/-! Register words and their fields (00 R6, R8): what writing a word and reading one do to each field. -/

namespace Sys2Proof.Machine

/-- The value of a field kept by every step of a fold. -/
theorem foldl_rd_kept {α : Type} {g : Mach → α → Mach} {f : Fld} {p : Nat} (l : List α) (hg : ∀ m, ∀ y ∈ l, (g m y).rd f p = m.rd f p) (m : Mach) :
    (l.foldl g m).rd f p = m.rd f p := by
  induction l generalizing m with
  | nil => rfl
  | cons y l ih => rw [List.foldl_cons, ih (fun m z hz => hg m z (List.mem_cons_of_mem _ hz)), hg m y List.mem_cons_self]

/-- A value that one element of the list gives a field, and every other element keeps. -/
theorem foldl_rd_given {α : Type} [DecidableEq α] {g : Mach → α → Mach} {f : Fld} {p v : Nat} {x : α} (l : List α) (hx : x ∈ l)
    (hset : ∀ m, (g m x).rd f p = v) (hkeep : ∀ m, ∀ y ∈ l, y ≠ x → (g m y).rd f p = m.rd f p) (m : Mach) : (l.foldl g m).rd f p = v := by
  induction l generalizing m with
  | nil => cases hx
  | cons y l ih =>
    rw [List.foldl_cons]
    by_cases hmem : x ∈ l
    · exact ih hmem (fun m z hz => hkeep m z (List.mem_cons_of_mem _ hz)) _
    · have hy : y = x := by simpa [hmem, eq_comm] using hx
      rw [hy, foldl_rd_kept l (fun m z hz => hkeep m z (List.mem_cons_of_mem _ hz) (fun h => hmem (h ▸ hz))), hset]

theorem Mach.takeFld_rd_other (m : Mach) (stopped : Bool) (data hw : Nat) {x y : Fld × Nat} (h : fkey y.1 y.2 ≠ fkey x.1 x.2) :
    (m.takeFld stopped data hw y).rd x.1 x.2 = m.rd x.1 x.2 := by
  have hwr : ∀ v, (m.wr y.1 y.2 v).rd x.1 x.2 = m.rd x.1 x.2 := fun v => m.rd_wr_other y.1 x.1 y.2 x.2 v h.symm
  simp only [Mach.takeFld]
  split
  · split
    · exact hwr _
    · rfl
  · split
    · exact hwr _
    · rfl
  · exact hwr _
  · rfl

/-- What reading one field of a register does: an rc field takes the events of the same cycle. -/
def Mach.clearFld (m : Mach) (events : Nat) (x : Fld × Nat) : Mach :=
  if x.1.acc = .rc then m.wr x.1 x.2 (bitsOf x.1.hi x.1.lo events) else m

theorem Mach.clearRead_eq_foldl (m : Mach) (events : Nat) (l : List (Fld × Nat)) :
    m.clearRead events l = l.foldl (fun m x => m.clearFld events x) m := by
  induction l generalizing m with
  | nil => rfl
  | cons x l ih => exact ih _

theorem Mach.clearFld_rd_other (m : Mach) (events : Nat) {x y : Fld × Nat} (h : fkey y.1 y.2 ≠ fkey x.1 x.2) :
    (m.clearFld events y).rd x.1 x.2 = m.rd x.1 x.2 := by
  unfold Mach.clearFld
  split
  · exact m.rd_wr_other y.1 x.1 y.2 x.2 _ h.symm
  · rfl

/-- Settles O44: each field of the register is written or cleared by its own step of the fold over the register's fields, and kept by every other step. -/
theorem registerWordsReachTheirFields : Obligations.RegisterWordsReachTheirFields := by
  unfold Obligations.RegisterWordsReachTheirFields
  intro m die o data hw events x
  refine ⟨fun hx hone => ⟨fun hrw hlegal => ?_, fun hro => ?_, fun hrc => ?_⟩, fun hother => ⟨?_, ?_⟩⟩
  · exact foldl_rd_given _ hx (fun n => by simp [Mach.takeFld, hrw, hlegal]) (fun n y hy hne => n.takeFld_rd_other _ _ _ (mt (hone y hy) hne)) m
  · refine foldl_rd_kept _ (fun n y hy => ?_) m
    by_cases hkey : fkey y.1 y.2 = fkey x.1 x.2
    · simp [hone y hy hkey, Mach.takeFld, hro]
    · exact n.takeFld_rd_other _ _ _ hkey
  · rw [m.clearRead_eq_foldl]
    exact foldl_rd_given _ hx (fun n => by simp [Mach.clearFld, hrc]) (fun n y hy hne => n.clearFld_rd_other _ (mt (hone y hy) hne)) m
  · exact foldl_rd_kept _ (fun n y hy => n.takeFld_rd_other _ _ _ (hother y hy)) m
  · rw [m.clearRead_eq_foldl]
    exact foldl_rd_kept _ (fun n y hy => n.clearFld_rd_other _ (hother y hy)) m

end Sys2Proof.Machine
end

section
/-! Spare rows (18 R430) and closed mailboxes (16 R387). -/

namespace Sys2Proof

theorem upFrom_eq_range' (a n : Nat) : upFrom a n = List.range' a n := by
  induction n generalizing a with
  | zero => rfl
  | succ n ih => rw [upFrom, ih, List.range'_succ]

theorem mem_upFrom {a n x : Nat} : x ∈ upFrom a n ↔ a ≤ x ∧ x < a + n := by simp [upFrom_eq_range']

end Sys2Proof

namespace Sys2Proof.Machine

/-- The faulty logical rows, in order. -/
def faultyRows (f : Nat) : List Nat := (upFrom 0 48).filter (fun r => bitOf r f)

theorem mem_faultyRows {f r : Nat} : r ∈ faultyRows f ↔ r < 48 ∧ bitOf r f = true := by simp [faultyRows, mem_upFrom]

theorem faultyRows_eq {f : Nat} {l : List Nat} (hsorted : l.SortedLT) (h : ∀ r, r ∈ l ↔ r < 48 ∧ bitOf r f = true) : faultyRows f = l := by
  have hrows : (faultyRows f).SortedLT := by
    unfold faultyRows
    rw [upFrom_eq_range']
    exact ((List.pairwise_lt_range' 1 Nat.one_pos).filter _).sortedLT
  exact List.SortedLT.eq_of_mem_iff hrows hsorted fun r => by rw [mem_faultyRows, h]

/-- The table of R430 by the faulty logical rows. -/
def sparesFor (f : Nat) : List Nat → Option (Nat × Nat)
  | [] => some (0x3F, 0x3F)
  | [x] => if !bitOf 48 f then some (x, 0x3F) else if !bitOf 49 f then some (x, 48) else none
  | [x, y] => if !bitOf 48 f && !bitOf 49 f then some (x, y) else none
  | _ => none

theorem assignSpares_eq (f : Nat) : assignSpares f = sparesFor f (faultyRows f) := rfl

theorem sparesFor_of_three {f : Nat} {l : List Nat} (h : 3 ≤ l.length) : sparesFor f l = none := by
  match l, h with
  | _ :: _ :: _ :: _, _ => rfl

/-- Settles O48, by the number of faulty logical rows. -/
theorem sparesFollowTheFaultyRows : Obligations.SparesFollowTheFaultyRows := by
  unfold Obligations.SparesFollowTheFaultyRows
  intro f
  refine ⟨fun hnone => ?_, fun x hx hfx hrest => ?_, fun x y hxy hy hfx hfy hrest => ?_, fun x y z hxy hyz hz hfx hfy hfz => ?_⟩
  · have hrows : faultyRows f = [] := faultyRows_eq List.Pairwise.nil.sortedLT fun r => by grind
    rw [assignSpares_eq, hrows, sparesFor]
  · have hrows : faultyRows f = [x] := faultyRows_eq (List.pairwise_singleton _ _).sortedLT fun r => by grind
    rw [assignSpares_eq, hrows, sparesFor]
    exact ⟨fun h48 => by simp [h48], fun h48 h49 => by simp [h48, h49], fun h48 h49 => by simp [h48, h49]⟩
  · have hrows : faultyRows f = [x, y] := faultyRows_eq (List.Pairwise.sortedLT (by simpa using hxy)) fun r => by grind
    rw [assignSpares_eq, hrows, sparesFor]
    simp
  · have hsub : [x, y, z] ⊆ faultyRows f := by
      intro r hr
      rw [mem_faultyRows]
      grind
    have hnodup : [x, y, z].Nodup := by simp; omega
    rw [assignSpares_eq, sparesFor_of_three (List.subperm_of_subset hnodup hsub).length_le]

theorem Mach.rd_wr_of_id_ne (m : Mach) {f g : Fld} {p q : Nat} (v : Nat) (hid : g.id ≠ f.id) (hq : q < 2 ^ 24) (hp : p < 2 ^ 24) :
    (m.wr f p v).rd g q = m.rd g q := m.rd_wr_other f g p q v fun hkey => hid (fkey_inj hq hp hkey).1

theorem Mach.rd_wr_of_place_ne (m : Mach) (f : Fld) {p q : Nat} (v : Nat) (hpq : q ≠ p) (hq : q < 2 ^ 24) (hp : p < 2 ^ 24) :
    (m.wr f p v).rd f q = m.rd f q := m.rd_wr_other f f p q v fun hkey => hpq (fkey_inj hq hp hkey).2

/-- A mailbox's die, number and owner: its owner follows from where it stands. -/
theorem mbOf_spec {n die j owner : Nat} (h : mbOf n = some (die, j, owner)) : die ≤ 6 ∧ j < 32 ∧ owner = if die = 6 then j / 8 else 4 + die := by
  unfold mbOf at h
  split at h
  · obtain ⟨rfl, rfl, rfl⟩ : 6 = die ∧ n = j ∧ n / 8 = owner := by simpa using h
    rw [if_pos rfl]; omega
  · split at h
    · obtain ⟨rfl, rfl, rfl⟩ : (n - 0x100) / 8 = die ∧ (n - 0x100) % 8 = j ∧ 4 + (n - 0x100) / 8 = owner := by simpa using h
      rw [if_neg (by omega)]; omega
    · cases h

theorem mbPlace_lt {die j : Nat} (hd : die ≤ 6) (hj : j < 32) : mbPlace die j < 2 ^ 24 := by simp only [mbPlace, ix]; omega

theorem mbPlace_inj {die j die' j' : Nat} (hd : die ≤ 6) (hd' : die' ≤ 6) (h : mbPlace die j = mbPlace die' j') : die = die' ∧ j = j' := by
  simp only [mbPlace, ix] at h; omega

theorem procIx_lt {p : Nat} (hp : p < 10) : procIx p < 2 ^ 24 := by simp only [procIx, ix]; split <;> omega

theorem Mach.rd_withFw (m : Mach) (x : FwSt) (f : Fld) (p : Nat) : ({ m with fw := x } : Mach).rd f p = m.rd f p := rfl

theorem Mach.mbStore_rd (die j : Nat) {g : Fld} {q : Nat} (hd : die ≤ 6) (hj : j < 32) (hg : g.id ≠ F.mbData.id) (hq : q < 2 ^ 24) (l : List Nat) (m : Mach)
    (w : Nat) (hw : w + l.length ≤ 128) : (m.mbStore die j w l).rd g q = m.rd g q := by
  induction l generalizing m w with
  | nil => rfl
  | cons x l ih =>
    rw [List.length_cons] at hw
    rw [Mach.mbStore, ih _ _ (by omega)]
    exact m.rd_wr_of_id_ne x hg hq (by simp only [mbWordPlace, ix]; omega)

/-- What the arrival of a message leaves: every field but those of the mailbox it comes to. -/
theorem Mach.mbArrive_rd (m : Mach) (n src : Nat) (words : List Nat) {g : Fld} {q : Nat} (hq : q < 2 ^ 24) (hwords : words.length ≤ 128)
    (hg : g.id ≠ F.mbStatusCollide.id ∧ g.id ≠ F.mbOverwrites.id ∧ g.id ≠ F.mbData.id ∧ g.id ≠ F.mbStatusSender.id ∧ g.id ≠ F.mbDoorbell.id)
    (hfull : ∀ die j owner, mbOf n = some (die, j, owner) → m.mbOpen die j owner = true → fkey g q ≠ fkey F.mbStatusFull (mbPlace die j)) :
    (m.mbArrive n src words).1.rd g q = m.rd g q := by
  obtain ⟨hcollide, hover, hdata, hsender, hbell⟩ := hg
  unfold Mach.mbArrive
  split
  · rfl
  · next die j owner hbox =>
    obtain ⟨hd, hj, -⟩ := mbOf_spec hbox
    have hplace := mbPlace_lt hd hj
    by_cases hopen : m.mbOpen die j owner = true
    · have hold : (if m.on F.mbStatusFull (mbPlace die j) then (m.wr F.mbStatusCollide (mbPlace die j) 1).cnt F.mbOverwrites (mbPlace die j) 1 else m).rd g q
          = m.rd g q := by
        split
        · exact (Mach.rd_wr_of_id_ne _ _ hover hq hplace).trans (m.rd_wr_of_id_ne 1 hcollide hq hplace)
        · rfl
      simp only [hopen, Bool.not_true, Bool.false_eq_true, if_false]
      refine (Mach.rd_withFw _ _ g q).trans ?_
      refine (Mach.rd_wr_of_id_ne _ _ hbell hq (by omega)).trans ?_
      refine (Mach.rd_wr_other _ _ _ _ _ _ (hfull die j owner hbox hopen)).trans ?_
      refine (Mach.rd_wr_of_id_ne _ _ hsender hq hplace).trans ?_
      exact (Mach.mbStore_rd die j hd hj hdata hq words _ 0 (by omega)).trans hold
    · simp [hopen]

theorem Mach.mbArrive_procUp (m : Mach) {p : Nat} (hp : p < 10) (n src : Nat) {words : List Nat} (hwords : words.length ≤ 128) :
    (m.mbArrive n src words).1.procUp p = m.procUp p := by
  rw [Mach.procUp, m.mbArrive_rd n src words (procIx_lt hp) hwords (by decide) fun die j owner hbox _ hkey =>
    absurd (fkey_inj (procIx_lt hp) (mbPlace_lt (mbOf_spec hbox).1 (mbOf_spec hbox).2.1) hkey).1 (by decide)]
  rfl

/-- A message never comes into a mailbox of a processor that does not run. -/
theorem Mach.mbArrive_full {m : Mach} {p die j n : Nat} (hbox : mbOf n = some (die, j, p)) (hdown : m.procUp p = false) (n' src : Nat)
    {words : List Nat} (hwords : words.length ≤ 128) :
    (m.mbArrive n' src words).1.rd F.mbStatusFull (mbPlace die j) = m.rd F.mbStatusFull (mbPlace die j) := by
  obtain ⟨hd, hj, howner⟩ := mbOf_spec hbox
  refine m.mbArrive_rd n' src words (mbPlace_lt hd hj) hwords (by decide) fun die' j' owner' hbox' hopen hkey => ?_
  obtain ⟨hd', hj', howner'⟩ := mbOf_spec hbox'
  obtain ⟨rfl, rfl⟩ := mbPlace_inj hd hd' (fkey_inj (mbPlace_lt hd hj) (mbPlace_lt hd' hj') hkey).2
  rw [howner', ← howner, Mach.mbOpen, hdown, Bool.and_false] at hopen
  cases hopen

theorem noticeWords_length (n cause sender : Nat) (words : List Nat) : (noticeWords n cause sender words).length ≤ 128 := by
  simp [noticeWords]; omega

theorem noticeTo_port {src q : Nat} (h : noticeTo src = .port q) : q ≤ 1 := by
  unfold noticeTo at h
  grind

/-- A notice to a sender reaches it at a send port, waits for a sink, or arrives in a mailbox. -/
theorem Mach.notice_cases (m : Mach) (n receiver cause src : Nat) (words : List Nat) :
    m.notice n receiver cause src words = m ∨ (∃ q ≤ 1, m.notice n receiver cause src words = m.wr F.mbSendState (ix 6 q 0 0) 2) ∨
    (∃ x, m.notice n receiver cause src words = { m with fw := x }) ∨
    ∃ b ws, ws.length ≤ 128 ∧ m.notice n receiver cause src words = (m.mbArrive b receiver ws).1 := by
  unfold Mach.notice
  split
  · exact .inl rfl
  · next q hport => exact .inr (.inl ⟨q, noticeTo_port hport, rfl⟩)
  · extract_lets ws
    split
    · exact .inr (.inr (.inl ⟨_, rfl⟩))
    · exact .inr (.inr (.inr ⟨_, ws, noticeWords_length .., rfl⟩))

theorem sendState_place_lt {q : Nat} (hq : q ≤ 1) : ix 6 q 0 0 < 2 ^ 24 := by simp only [ix]; omega

theorem Mach.notice_procUp (m : Mach) {p : Nat} (hp : p < 10) (n receiver cause src : Nat) (words : List Nat) :
    (m.notice n receiver cause src words).procUp p = m.procUp p := by
  obtain h | ⟨q, hq, h⟩ | ⟨x, h⟩ | ⟨b, ws, hws, h⟩ := m.notice_cases n receiver cause src words
  · rw [h]
  · rw [h, Mach.procUp, m.rd_wr_of_id_ne 2 (by decide) (procIx_lt hp) (sendState_place_lt hq)]; rfl
  · rw [h]; rfl
  · rw [h, m.mbArrive_procUp hp b receiver hws]

theorem Mach.notice_full {m : Mach} {p die j n : Nat} (hbox : mbOf n = some (die, j, p)) (hdown : m.procUp p = false)
    (n' receiver cause src : Nat) (words : List Nat) :
    (m.notice n' receiver cause src words).rd F.mbStatusFull (mbPlace die j) = m.rd F.mbStatusFull (mbPlace die j) := by
  obtain ⟨hd, hj, -⟩ := mbOf_spec hbox
  obtain h | ⟨q, hq, h⟩ | ⟨x, h⟩ | ⟨b, ws, hws, h⟩ := m.notice_cases n' receiver cause src words
  · rw [h]
  · rw [h, m.rd_wr_of_id_ne 2 (by decide) (mbPlace_lt hd hj) (sendState_place_lt hq)]
  · rw [h]; rfl
  · rw [h, Mach.mbArrive_full hbox hdown b receiver hws]

/-- What clearing the mailboxes of a list does to the first of them: nothing where it is empty, else it empties it and tells its sender. -/
theorem Mach.clearBoxes_cons (m : Mach) (p n : Nat) (l : List Nat) (k : Nat) {die j owner : Nat} (hbox : mbOf n = some (die, j, owner)) :
    ∃ m1 k1, m.clearBoxes p (n :: l) k = m1.clearBoxes p l k1 ∧ ((m1 = m ∧ m.on F.mbStatusFull (mbPlace die j) = false) ∨
      ∃ src words, m1 = (m.wr F.mbStatusFull (mbPlace die j) 0).notice n (procId p) 1 src words) := by
  rw [Mach.clearBoxes, hbox]
  by_cases hfull : m.on F.mbStatusFull (mbPlace die j) = true
  · exact ⟨_, _, if_pos hfull, .inr ⟨_, _, rfl⟩⟩
  · exact ⟨m, k, if_neg hfull, .inl ⟨rfl, by simpa using hfull⟩⟩

/-- Clearing mailboxes leaves a processor that does not run so, and each of its mailboxes that is in the list or was empty is empty then. -/
theorem Mach.clearBoxes_empty {p die j n : Nat} (hp : p < 10) (hbox : mbOf n = some (die, j, p)) (l : List Nat) (m : Mach) (k : Nat)
    (hdown : m.procUp p = false) (h : n ∈ l ∨ m.rd F.mbStatusFull (mbPlace die j) = 0) :
    (m.clearBoxes p l k).1.procUp p = false ∧ (m.clearBoxes p l k).1.rd F.mbStatusFull (mbPlace die j) = 0 := by
  obtain ⟨hd, hj, -⟩ := mbOf_spec hbox
  induction l generalizing m k with
  | nil => exact ⟨hdown, h.resolve_left (by simp)⟩
  | cons n' l ih =>
    cases hbox' : mbOf n' with
    | none =>
      rw [Mach.clearBoxes, hbox']
      refine ih m k hdown (h.imp_left fun hmem => (List.mem_cons.mp hmem).resolve_left ?_)
      rintro rfl
      rw [hbox] at hbox'; cases hbox'
    | some y =>
      obtain ⟨die', j', owner⟩ := y
      obtain ⟨hd', hj', -⟩ := mbOf_spec hbox'
      obtain ⟨m1, k1, hstep, hm1⟩ := m.clearBoxes_cons p n' l k hbox'
      rw [hstep]
      have hinList (hne : n ≠ n') : n ∈ n' :: l → n ∈ l := fun hmem => (List.mem_cons.mp hmem).resolve_left hne
      obtain ⟨rfl, hempty⟩ | ⟨src, words, rfl⟩ := hm1
      · refine ih m1 k1 hdown ?_
        by_cases hsame : n = n'
        · subst hsame
          obtain ⟨rfl, rfl, -⟩ : die = die' ∧ j = j' ∧ p = owner := by simpa [hbox] using hbox'
          exact .inr (by simpa [Mach.on] using hempty)
        · exact h.imp_left (hinList hsame)
      · have hdown0 : (m.wr F.mbStatusFull (mbPlace die' j') 0).procUp p = false := by
          rw [Mach.procUp, m.rd_wr_of_id_ne 0 (by decide) (procIx_lt hp) (mbPlace_lt hd' hj')]; exact hdown
        refine ih _ k1 ((Mach.notice_procUp _ hp ..).trans hdown0) ?_
        rw [Mach.notice_full hbox hdown0]
        by_cases hplace : mbPlace die j = mbPlace die' j'
        · exact .inr (by rw [hplace]; simp)
        · rw [m.rd_wr_of_place_ne _ 0 hplace (mbPlace_lt hd hj) (mbPlace_lt hd' hj')]
          refine h.imp_left (hinList ?_)
          rintro rfl
          obtain ⟨rfl, rfl, -⟩ : die = die' ∧ j = j' ∧ p = owner := by simpa [hbox] using hbox'
          exact hplace rfl

theorem Mach.putDigest_rd (m : Mach) {p : Nat} (hp : p < 10) (d : List Byte) {g : Fld} {q : Nat} (hg : g.id ≠ F.digest.id) (hq : q < 2 ^ 24) :
    (m.putDigest p d).rd g q = m.rd g q :=
  foldl_rd_kept _ (fun m w hw => m.rd_wr_of_id_ne _ hg hq (by have := mem_upFrom.mp hw; simp only [ix]; omega)) m

/-- A processor that has crashed does not run: it boots, or it is held. -/
theorem Mach.crash_closes (m : Mach) {p cause pc addr n die j : Nat} (hp : p < 10) (hup : m.procUp p = true) (hmem : n ∈ boxesOf p)
    (hbox : mbOf n = some (die, j, p)) :
    (m.crash p cause pc addr).procUp p = false ∧ (m.crash p cause pc addr).rd F.mbStatusFull (mbPlace die j) = 0 := by
  obtain ⟨hd, hj, -⟩ := mbOf_spec hbox
  have hq := procIx_lt hp
  have hbq := mbPlace_lt hd hj
  unfold Mach.crash
  rw [if_neg (by simp [hup])]
  extract_lets q x open0 m0 c trace rec_ m1 fw m2 m3 recent m4
  have hm0 : m0.procUp p = false := by
    rw [Mach.procUp, Mach.rd_wr_ne _ _ _ _ _ (by decide), Mach.rd_wr]
    decide
  obtain ⟨hdown, hempty⟩ := Mach.clearBoxes_empty hp hbox (boxesOf p) m0 0 hm0 (.inl hmem)
  have hm4 {g : Fld} {r : Nat} (hdigest : g.id ≠ F.digest.id) (hrestarts : g.id ≠ F.fwRestarts.id) (hr : r < 2 ^ 24) : m4.rd g r = c.1.rd g r := by
    refine (Mach.setProc_rd m3 _ _ g r).trans ((Mach.putDigest_rd _ hp [] hdigest hr).trans ?_)
    have hevent : (m2.hostEvent 2 p m.fw.crashSeq).rd g r = m2.rd g r := by unfold Mach.hostEvent; split <;> rfl
    refine hevent.trans ((m1.rd_withFw _ g r).trans ?_)
    exact (Mach.rd_wr_of_id_ne c.1 _ hrestarts hr hq)
  have hdown4 : m4.procUp p = false := by rw [Mach.procUp, hm4 (by decide) (by decide) hq]; exact hdown
  have hempty4 : m4.rd F.mbStatusFull (mbPlace die j) = 0 := (hm4 (by decide) (by decide) hbq).trans hempty
  split
  · refine ⟨?_, (Mach.rd_wr_of_id_ne m4 3 (by decide) hbq hq).trans hempty4⟩
    rw [Mach.procUp, Mach.rd_wr]
    decide
  · exact ⟨hdown4, hempty4⟩

/-- Settles O54: on arrival by the openness test; a crash stops the processor before its mailboxes are cleared, so that no notice fills one again. -/
theorem closedMailboxesStoreNothing : Obligations.ClosedMailboxesStoreNothing := by
  unfold Obligations.ClosedMailboxesStoreNothing
  refine ⟨fun m n src die j owner ws hbox hclosed => ?_, fun die j owner => ?_, fun m p cause pc addr n die j hp hup hmem hbox => ?_⟩
  · have hopen : m.mbOpen die j owner = false := by rw [Mach.mbOpen, Bool.and_eq_false_iff]; exact hclosed
    simp [Mach.mbArrive, hbox, hopen]
  · have hrd : Mach.reset.rd F.mbOpen die = 0 := rfl
    rw [Mach.mbOpen, hrd, bitOf_eq_testBit, Nat.zero_testBit, Bool.false_and]
  · obtain ⟨hdown, hempty⟩ := m.crash_closes (cause := cause) (pc := pc) (addr := addr) hp hup hmem hbox
    exact ⟨by rw [Mach.mbOpen, hdown, Bool.and_false], by simp [Mach.on, hempty]⟩

end Sys2Proof.Machine
end

section
/-! The queue, the tick, reset, and the register window of a slice (12 R276). -/

namespace Sys2Proof.Machine

/-- Settles O1, by the definition of a step. -/
theorem stepRunsTheFrontCommand : Obligations.StepRunsTheFrontCommand := by
  unfold Obligations.StepRunsTheFrontCommand
  exact fun c l m => rfl

/-- Settles O56, field by field of the reset state. -/
theorem resetState : Obligations.ResetState := by
  unfold Obligations.ResetState
  exact ⟨rfl, rfl, rfl, fun _ => rfl, fun _ _ => rfl, fun _ => rfl, fun _ => rfl, fun _ => rfl, fun _ => rfl, fun _ => rfl, rfl, rfl, rfl, rfl, fun _ => rfl⟩

theorem State.on_next (s : State) (x : Dom) (f : Mach → Mach) : ∃ m, s.on x f = .next ⟨m, s.pending⟩ := by
  by_cases h : s.m.alive x = true
  · exact ⟨f s.m, s.on_alive x f h⟩
  · exact ⟨s.m, s.on_stopped x f (by simpa using h)⟩

theorem exec_next (c : Instr) (s : State) : ∃ m, exec c s = .next ⟨m, s.pending⟩ := by
  cases c
  case standbyPowerOn => exact ⟨_, rfl⟩
  all_goals dsimp only [exec, execVeCopy, execVeAdd, execVeSub, execVeMul, execVeFma, execVeMax, execVeMin, execVeAbs, execVeNeg, execVeExp2,
    execVeLog2, execVeRcp, execVeRsqrt, execVePerm, execVeGather, execVeRsum, execVeRmax, execVeRmin, execVeArgmax, execVeArgmin, execVeSample,
    execVeAccept, execVeBlockq, execFniTargetAccess]
  all_goals exact s.on_next _ _

/-- What a function of the machine keeps, of a fold of steps that each keep it. -/
theorem foldl_kept {α β : Type} {g : Mach → α → Mach} (view : Mach → β) (hg : ∀ m y, view (g m y) = view m) (l : List α) (m : Mach) :
    view (l.foldl g m) = view m := by
  induction l generalizing m with
  | nil => rfl
  | cons y l ih => rw [List.foldl_cons, ih, hg]

/-- What time changes: no part of a machine that the parts of a tick keep. -/
theorem Mach.tick_kept {β : Type} (view : Mach → β) (hArray : ∀ m d, view (Mach.tickArray m d) = view m) (hNoc : ∀ m d, view (Mach.tickNoc m d) = view m)
    (hSlice : ∀ m k, view (Mach.tickSlice m k) = view m) (m : Mach) (hticks : ∀ (m : Mach) n, view { m with ticks := n } = view m) :
    view m.tick = view m := by
  unfold Mach.tick
  rw [hticks, foldl_kept view (fun m k => hSlice m k), foldl_kept view (fun m d => (hNoc _ d).trans (hArray m d))]

theorem Mach.tickArray_out (m : Mach) (d : Nat) : (m.tickArray d).out = m.out ∧ (m.tickArray d).tiles = m.tiles := by
  unfold Mach.tickArray; split <;> exact ⟨rfl, rfl⟩

theorem Mach.tickNoc_out (m : Mach) (d : Nat) : (m.tickNoc d).out = m.out ∧ (m.tickNoc d).tiles = m.tiles := by
  simp only [Mach.tickNoc]
  split <;> simp only [Mach.wr_out, Mach.wr_tiles, and_self]

theorem Mach.slPass_out (m : Mach) (k n : Nat) : (m.slPass k n).out = m.out ∧ (m.slPass k n).tiles = m.tiles := by
  simp only [Mach.slPass, Mach.slPend]
  split_ifs <;> exact ⟨rfl, rfl⟩

theorem Mach.tickSlice_out (m : Mach) (k : Nat) : (m.tickSlice k).out = m.out ∧ (m.tickSlice k).tiles = m.tiles := by
  unfold Mach.tickSlice
  split
  · exact m.slPass_out ..
  · exact ⟨rfl, rfl⟩

/-- Settles O55: every command is its domain's operation beside the queue, and a tick moves only clocks. -/
theorem stepsNeverStopAndLeaveTheQueue : Obligations.StepsNeverStopAndLeaveTheQueue := by
  unfold Obligations.StepsNeverStopAndLeaveTheQueue
  refine ⟨exec_next, fun s x f h => s.on_stopped x f h, fun c l m => exec_next c ⟨m, l⟩, fun m => ⟨m.tick, rfl, ?_, m.tick_frame.1, m.tick_frame.2, ?_, ?_⟩⟩
  · simp only [Mach.tick]
  · exact m.tick_kept (·.out) (fun m d => (m.tickArray_out d).1) (fun m d => (m.tickNoc_out d).1) (fun m k => (m.tickSlice_out k).1) (fun _ _ => rfl)
  · exact m.tick_kept (·.tiles) (fun m d => (m.tickArray_out d).2) (fun m d => (m.tickNoc_out d).2) (fun m k => (m.tickSlice_out k).2) (fun _ _ => rfl)

/-- R276: the window of the bundle after a rotation by n names the register x as x + n. -/
theorem phys_after_rotation {b c : SlIssued} {rot x : Nat} (hb : b.base < 32) (hbank : b.shadow = false) (hbank' : c.shadow = false) (hrot : rot < 4)
    (hbase : c.base = rotBase false rot b.base) : c.phys (x + if rot = 0 then 0 else 2 ^ (rot - 1)) = b.phys x := by
  simp only [SlIssued.phys, hbank, hbank', hbase, rotBase]
  interval_cases rot <;> simp <;> omega

theorem rotBase_main {base : Nat} (h : base < 32) : rotBase false 0 base = base ∧ ((rotBase false 1 base : Int) = ((base : Int) - 1) % 32) ∧
    ((rotBase false 2 base : Int) = ((base : Int) - 2) % 32) ∧ ((rotBase false 3 base : Int) = ((base : Int) - 4) % 32) := by
  simp only [rotBase]
  refine ⟨?_, ?_, ?_, ?_⟩ <;> simp <;> omega

/-- The bundle that issues when nothing holds it, and its slice after it. -/
theorem opSlBundleIssue_sl (m : Mach) (k : Nat) (hbusy : (m.sl k).busy = false) (hrun : m.on F.slCtrlRun (slIx k) = true) (hflight : (m.sl k).flight = [])
    (htakes : m.slTakes k = false) (hwait : m.on F.slStatusWaiting (slIx k) = false)
    (hgood : (m.sl k).pIsBad k (m.rd F.slStatusPc (slIx k)) = false) :
    ∃ b, ((opSlBundleIssue k false m).sl k).issued = some b ∧ b.base = (m.sl k).wbase ∧ b.shadow = m.on F.slStatusInHandler (slIx k) ∧
      b.word = (m.sl k).pword k (m.rd F.slStatusPc (slIx k)) ∧ b.cycle = (m.sl k).now ∧
      ((opSlBundleIssue k false m).sl k).wbase =
        rotBase (m.on F.slStatusInHandler (slIx k)) ((m.sl k).pword k (m.rd F.slStatusPc (slIx k)) % 4) (m.sl k).wbase ∧
      ((opSlBundleIssue k false m).sl k).g = (m.sl k).g := by
  unfold opSlBundleIssue
  extract_lets p x waits pc m1 w shadow nx todo b m1' m2
  have hgo : ¬ (!m.on F.slCtrlRun p || x.busy || x.flight.any (fun r => decide (r.due ≤ x.now)) || m.slTakes k || waits) = true := by
    simp [p, x, waits, hrun, hbusy, hflight, htakes, hwait]
  rw [if_neg hgo, if_neg (by simp [x, pc, p, hgood])]
  have hsl : m2.sl k = { m1'.sl k with now := (m1'.sl k).now + 1 } := by simp [m2, Mach.slPass_sl]
  have hm1 : m1'.sl k = { x with issued := some b, wbase := rotBase shadow (w % 4) x.wbase, loops := nx.2 } := m.sl_setSl k _
  have hend : (if todo.2 then m2.slEv k F.slEventsIllegal else m2).sl k = m2.sl k := by split <;> simp
  rw [hend, hsl, hm1]
  exact ⟨b, rfl, rfl, rfl, rfl, rfl, rfl, rfl⟩

/-- Settles O53: the window's arithmetic, and the bundle that carries a rotation, which is issued with the base before it. -/
theorem windowRotatesFromTheNextBundle : Obligations.WindowRotatesFromTheNextBundle := by
  unfold Obligations.WindowRotatesFromTheNextBundle
  refine ⟨fun b x => ⟨fun h => by simp [SlIssued.phys, h], fun h => by simp [SlIssued.phys, h]⟩, fun rot base h => ⟨by simp [rotBase], rotBase_main h⟩,
    fun b c rot x nn hb hbank hbank' hrot hnn hbase => by rw [hnn]; exact phys_after_rotation hb hbank hbank' hrot hbase, ?_⟩
  intro d n s k p w sh halive hk hp hbusy hrun hflight htakes hwait hgood hw hsh
  subst hk hp hw hsh
  obtain ⟨b, hissue⟩ := opSlBundleIssue_sl s.m _ hbusy hrun hflight htakes hwait hgood
  exact ⟨_, b, s.on_alive _ _ halive, hissue⟩

end Sys2Proof.Machine
end

section
/-! Tile commands enter the queue and start at its head (03 R57, R69 to R74). -/

namespace Sys2Proof.Machine

/-- A command of a domain that runs answers the machine that its operation gives. -/
theorem State.on_of_eq {s : State} {x : Dom} {f : Mach → Mach} {m : Mach} (halive : s.m.alive x = true) (h : f s.m = m) : s.on x f = .next ⟨m, s.pending⟩ := by
  rw [s.on_alive x f halive, h]

/-- A command whose operation changes nothing answers the state it met. -/
theorem State.on_of_same {s : State} {x : Dom} {f : Mach → Mach} (h : f s.m = s.m) : s.on x f = .next s := by
  by_cases halive : s.m.alive x = true
  · exact State.on_of_eq halive h
  · exact s.on_stopped x f (by simpa using halive)

/-! TILE_CMD (R74) -/

section
variable {m : Mach} {t who w7 : Nat}

theorem tileCmdRefused_eq_false (hraw : m.isRaw (t / 16) = true) (hfence : m.on F.tileFenceFenced (tileIx t) = false) : m.tileCmdRefused t = false := by
  simp [Mach.tileCmdRefused, hraw, hfence]

theorem opTileCmdEnqueue_of_refused (h : m.tileCmdRefused t = true) : opTileCmdEnqueue t who w7 m = m.respond who rsRefused := if_pos h

theorem opTileCmdEnqueue_of_held (h : m.tileCmdRefused t = false) (hheld : (m.tile t).held ≠ none) : opTileCmdEnqueue t who w7 m = m := by
  simp [opTileCmdEnqueue, h, Option.isSome_iff_ne_none.mpr hheld]

theorem opTileCmdEnqueue_of_full (h : m.tileCmdRefused t = false) (hheld : (m.tile t).held = none) (hfull : 8 ≤ (m.tile t).queue.length) :
    opTileCmdEnqueue t who w7 m = m.setTile t { m.tile t with held := some (who, w7) } := by
  simp [opTileCmdEnqueue, h, hheld, hfull]

theorem opTileCmdEnqueue_of_room (h : m.tileCmdRefused t = false) (hheld : (m.tile t).held = none) (hroom : (m.tile t).queue.length < 8) :
    opTileCmdEnqueue t who w7 m = (m.setTile t ((m.tile t).enqueue (.raw who) ((m.tile t).staging ++ [w7]))).respond who rsOk := by
  simp [opTileCmdEnqueue, h, hheld, Nat.not_le.mpr hroom]

theorem opTileCmdHeldRelease_of_wait (h : (m.tile t).held = none ∨ 8 ≤ (m.tile t).queue.length) : opTileCmdHeldRelease t m = m := by
  unfold opTileCmdHeldRelease
  obtain h | h := h
  · simp [h]
  · cases hheld : (m.tile t).held <;> simp [hheld, h]

theorem opTileCmdHeldRelease_of_room (hheld : (m.tile t).held = some (who, w7)) (hroom : (m.tile t).queue.length < 8) :
    opTileCmdHeldRelease t m =
      (m.setTile t { (m.tile t).enqueue (.raw who) ((m.tile t).staging ++ [w7]) with held := none }).respond who rsOk := by
  simp [opTileCmdHeldRelease, hheld, Nat.not_le.mpr hroom]

end

/-- Settles O2, by the refusal, the held write and the room in the queue. -/
theorem tileCommandsEnterTheQueue : Obligations.TileCommandsEnterTheQueue := by
  unfold Obligations.TileCommandsEnterTheQueue
  intro t s x halive hx
  subst hx
  refine ⟨fun who w7 hraw hfence hheld hroom => ?_, fun who w7 hraw hfence hheld hfull => ?_, fun who w7 h => ?_, fun who w7 hraw hfence hheld => ?_,
    fun h => ?_, fun who w7 hheld hroom => ?_⟩
  · exact State.on_of_eq halive (opTileCmdEnqueue_of_room (tileCmdRefused_eq_false hraw hfence) hheld hroom)
  · exact State.on_of_eq halive (opTileCmdEnqueue_of_full (tileCmdRefused_eq_false hraw hfence) hheld hfull)
  · exact State.on_of_eq halive (opTileCmdEnqueue_of_refused (by simpa [Mach.tileCmdRefused] using h))
  · exact State.on_of_same (opTileCmdEnqueue_of_held (tileCmdRefused_eq_false hraw hfence) hheld)
  · exact State.on_of_same (opTileCmdHeldRelease_of_wait h)
  · exact State.on_of_eq halive (opTileCmdHeldRelease_of_room hheld hroom)

/-! The head of the queue (R57, R69 to R73) -/

/-- The accumulator rows that a ZERO_ACC names (R73). -/
def zeroAccRows (w : List Nat) : List Nat := (tcUnmasked w).map (fun r => tcAccBase w + r)

/-- The report of a tile's command that Table 3-5 rejects. -/
theorem Mach.tileRejectHead_eq (m : Mach) (t : TileNo) (q : QCmd) (l : List QCmd) (cause : Nat) (hqueue : (m.tile t.val).queue = q :: l) :
    m.tileRejectHead t.val q cause = ((((m.setTile t.val { m.tile t.val with queue := l, started := false, done := 0, batch := 0 }).wr
      F.tileEventsCmdReject (tileIx t.val) 1).wr F.tileRejectCause (tileIx t.val) cause).wr F.tileRejectOpTag (tileIx t.val) (tcTag q.w)).ended
        ⟨.tile t, q.src, tcTag q.w, 2, cause, 0, [], tcLast q.w⟩ := by
  simp [Mach.tileRejectHead, hqueue, Mach.ev]

section
variable {m : Mach} {t : TileNo} {q : QCmd} {l : List QCmd} (hhead : m.tileHead t.val = some q)
include hhead

theorem opMm_of_rejected (hop2 : tcOpcode q.w ≠ 2) (hop3 : tcOpcode q.w ≠ 3) (hreject : tcReject q.w ≠ 0) :
    opMm t.val m = m.tileRejectHead t.val q (tcReject q.w) := by simp [opMm, hhead, hop2, hop3, hreject]

theorem opDrain_of_rejected (hop : tcOpcode q.w = 2) (hreject : tcReject q.w ≠ 0) : opDrain t.val m = m.tileRejectHead t.val q (tcReject q.w) := by
  simp [opDrain, hhead, hop, hreject]

theorem opZeroAcc_of_rejected (hop : tcOpcode q.w = 3) (hreject : tcReject q.w ≠ 0) : opZeroAcc t.val m = m.tileRejectHead t.val q (tcReject q.w) := by
  simp [opZeroAcc, hhead, hop, hreject]

theorem opMm_of_starts (hgood : tcReject q.w = 0) (hrows : tcUnmasked q.w ≠ []) (hop : tcOpcode q.w = 1) : opMm t.val m = m.tileStart t.val q := by
  simp [opMm, hhead, hop, hgood, hrows]

theorem opDrain_of_starts (hgood : tcReject q.w = 0) (hrows : tcUnmasked q.w ≠ []) (hop : tcOpcode q.w = 2)
    (hfactor : (m.tile t.val).factors.any (fun f => f.seq == q.seq) = true) : opDrain t.val m = m.tileStart t.val q := by
  simp only [opDrain, hhead, hop, hgood, hfactor, List.isEmpty_iff, hrows]
  simp

/-- What ZERO_ACC does when no row is pending: it starts, zeroes its rows and leaves the queue. -/
theorem opZeroAcc_of_free (hgood : tcReject q.w = 0) (hop : tcOpcode q.w = 3) (hfree : (m.tile t.val).flights = []) :
    opZeroAcc t.val m = ((m.tileStart t.val q).setTile t.val
      (zeroRows ((m.tileStart t.val q).tile t.val) (zeroAccRows q.w))).tilePopEnd t.val := by
  have hpending : ∀ r, (m.tile t.val).rowPending r = false := fun r => by simp [Tile.rowPending, hfree]
  simp [opZeroAcc, hhead, hop, hgood, hpending, zeroAccRows]

end

/-- A head that leaves with its report leaves its accumulator and everything but its queue and its records. -/
theorem Mach.tilePopEnd_spec (m : Mach) (t : Nat) :
    ((m.tilePopEnd t).tile t).queue = (m.tile t).queue.drop 1 ∧ ((m.tilePopEnd t).tile t).acc = (m.tile t).acc ∧
      ((m.tilePopEnd t).tile t).poison = (m.tile t).poison ∧ (m.tilePopEnd t).fields = m.fields := by
  obtain ⟨⟨ps, htile⟩, hfields, -⟩ := (m.setTile t (m.tile t).popHead).tileEnds_spec t
  obtain ⟨hqueue, -, hacc, hpoison, -⟩ := (m.tile t).popHead_frame
  rw [Mach.tile_setTile] at htile
  exact ⟨by rw [Mach.tilePopEnd, htile]; exact hqueue, by rw [Mach.tilePopEnd, htile]; exact hacc, by rw [Mach.tilePopEnd, htile]; exact hpoison, hfields⟩

/-- Settles O3, by the head's opcode and cause. -/
theorem tileCommandsStartAtTheHead : Obligations.TileCommandsStartAtTheHead := by
  unfold Obligations.TileCommandsStartAtTheHead
  intro t s q l x halive hrun hx hstarted hqueue
  subst hx
  have hhead : s.m.tileHead t.val = some q := by simp [Mach.tileHead, hstarted, Mach.tileRun, hrun, hqueue]
  refine ⟨fun i hi hreject => ?_, fun hgood hrows hop => ?_, fun hgood hrows hop hfactor => ?_, fun hgood hop hfree => ?_⟩
  · rw [← Mach.tileRejectHead_eq _ _ _ _ _ hqueue]
    obtain ⟨rfl, hop2, hop3⟩ | ⟨rfl, hop⟩ | ⟨rfl, hop⟩ := hi
    · exact State.on_of_eq halive (opMm_of_rejected hhead hop2 hop3 hreject)
    · exact State.on_of_eq halive (opDrain_of_rejected hhead hop hreject)
    · exact State.on_of_eq halive (opZeroAcc_of_rejected hhead hop hreject)
  · exact State.on_of_eq halive (opMm_of_starts hhead hgood hrows hop)
  · exact State.on_of_eq halive (opDrain_of_starts hhead hgood hrows hop hfactor)
  · have hop := opZeroAcc_of_free hhead hgood hop hfree
    obtain ⟨hq, hacc, hpoison, hfields⟩ := ((s.m.tileStart t.val q).setTile t.val (zeroRows ((s.m.tileStart t.val q).tile t.val) (zeroAccRows q.w))).tilePopEnd_spec t.val
    obtain ⟨hzq, -, hzero, hkept⟩ := zeroRows_spec (zeroAccRows q.w) ((s.m.tileStart t.val q).tile t.val)
    rw [Mach.tile_setTile] at hq hacc hpoison
    refine ⟨_, State.on_of_eq halive hop, ?_, ?_, ?_, ?_, ?_⟩
    · rw [hq, hzq, Mach.tileStart, Mach.tile_setTile, hqueue]; rfl
    · intro r hr
      rw [Tile.poisoned, hacc, hpoison]
      exact hzero _ (List.mem_map_of_mem hr)
    · intro a ha
      rw [Tile.poisoned, hacc, hpoison]
      have := hkept a (by simp only [zeroAccRows, List.mem_map, not_exists]; rintro r ⟨hr, rfl⟩; exact ha r hr rfl)
      simpa [Mach.tileStart, Tile.poisoned] using this
    · simp
    · exact hfields

end Sys2Proof.Machine
end

section
/-! Weight planes and the row staging (03 R51, R52, R55, R56, R63). -/

namespace Sys2Proof.Machine

theorem bitOf_allLanes {i : Nat} (h : i < 48) : bitOf i allLanes = true := by
  rw [bitOf_eq_testBit, allLanes, Nat.testBit_two_pow_sub_one]
  exact decide_eq_true h

theorem mergeRow_allLanes (old : PushRow) (elems bx8 : List Nat) :
    mergeRow allLanes old ⟨elems, bx8⟩ = ⟨(upFrom 0 48).map (fun i => nth 0 elems i), bx8⟩ := by
  exact congrArg (PushRow.mk · bx8) (List.map_congr_left fun i hi => if_pos (bitOf_allLanes (by simpa using (mem_upFrom.mp hi).2)))

section
variable {m : Mach} {t : Nat} {x : Tile} (hx : m.tile t = x)
include hx

theorem opPlaneLoadStart_of_wanted {q : QCmd} (hrun : m.on F.tileCtrlRun (tileIx t) = true) (hfree : ∀ p ∈ x.planes, p.active = true)
    (hwant : x.wantsPlane = some q) :
    opPlaneLoadStart t m = m.setTile t { x with planes := x.planes ++ [⟨q.seq, false, false, [], [], false, []⟩] } := by
  have hloading : x.planes.any (fun p => !p.active) = false := by simpa using hfree
  simp [opPlaneLoadStart, hx, Mach.tileRun, hrun, hloading, hwant]

/-- The arrival of a plane's last row, when its command and format stand and no row stage's read stands first. -/
theorem opPlaneReady_eq {upset : List Nat} {p : Plane} {q : QCmd} {f : Fmt} {cws bws : List Nat} (hplane : x.planes.find? (fun p => !p.ready) = some p)
    (hcmd : x.cmdOf p.seq = some q) (hfmt : fmtOfCode (tcFmtB q.w) = some f) (hcws : cws = wordsOf (tcPlane q.w * 64) (48 * rowBytes (tcFmtB q.w)))
    (hbws : bws = (if tcBx8B q.w then wordsOf (tcBx8BWord q.w * 64) 144 else [])) (hfirst : m.stageFirst t (cws ++ bws) = false) :
    opPlaneReady t upset m = if anyHeld m (t / 16) (.local (t % 16)) (cws ++ bws) then m.lostA (t / 16) (t % 16) else
      let r := (m.upsetLanes (t / 16) upset).readWords (t / 16) (.local (t % 16)) cws
      let s := r.2.2.readWords (t / 16) (.local (t % 16)) bws
      let codes := unpack f.width (leNat (r.1.take (48 * rowBytes (tcFmtB q.w)))) 2304
      s.2.2.setTile t { x with planes := x.planes.map (fun y => if y.seq = p.seq then
        { p with ready := true, codes := codes, bx8 := (s.1.take 144).map (fun b => b.toNat), bad := r.2.1 || s.2.1,
                 check := planeCheck (tcFmtB q.w) codes } else y) } := by
  subst hcws hbws
  simp only [opPlaneReady, hx, hplane, hcmd, hfmt, hfirst, Bool.false_eq_true, if_false]

/-- A pushed row of a command whose row is neither masked nor issued. -/
theorem opRowPush_of_taken {q : QCmd} {head : Bool} {r : Nat} {elems bx8 : List Nat} (htarget : x.pushTarget = some (q, head)) (hrows : r < tcRows q.w)
    (hr : r < 48) (hmask : tcMasked q.w r = false) (hissued : head = true → bitOf r x.done = false) {y : Tile}
    (hy : y = { x with rows := SMap.put PushRow.init r ⟨(upFrom 0 48).map (fun i => nth 0 elems i), bx8⟩ x.rows, staged := setBit r x.staged }) :
    opRowPush t r elems bx8 m = m.setTile t
      (if stagedRow x r then y else { y with winOpen := true, winDue := if x.winOpen then x.winDue else false }) := by
  have hgate : (tcMasked q.w r || decide (tcRows q.w ≤ r) || decide (48 ≤ r) || (head && bitOf r x.done)) = false := by
    cases head <;> simp [hmask, hrows, hr, hissued]
  simp only [opRowPush, pushRow, hx, htarget, hgate, mergeRow_allLanes, Bool.false_eq_true, if_false, hy]
  split <;> rfl

theorem opRowPush_of_discarded {q : QCmd} {head : Bool} {r : Nat} {elems bx8 : List Nat} (htarget : x.pushTarget = some (q, head))
    (h : tcMasked q.w r = true ∨ head = true ∧ bitOf r x.done = true) : opRowPush t r elems bx8 m = m := by
  have hgate : (tcMasked q.w r || decide (tcRows q.w ≤ r) || decide (48 ≤ r) || (head && bitOf r x.done)) = true := by
    obtain h | ⟨h, h'⟩ := h <;> simp [*]
  simp only [opRowPush, pushRow, hx, htarget, hgate, if_true]

theorem opBatchWindowExpiry_of_open (hopen : x.winOpen = true) : opBatchWindowExpiry t m = m.setTile t { x with winDue := true } := by
  simp [opBatchWindowExpiry, hx, hopen]

end

/-- Settles O4, by what each command does with the tile it finds. -/
theorem planesLoadAndRowsAreStaged : Obligations.PlanesLoadAndRowsAreStaged := by
  unfold Obligations.PlanesLoadAndRowsAreStaged
  intro t s x halive hx
  refine ⟨fun q hrun hfree hwant => ?_, fun upset p q f cws bws a b bad bad' m1 m2 hplane hcmd hfmt hcws hbws hfirst => ?_,
    fun r elems bx8 q head y htarget hrows hr hmask hissued hy => ?_, fun r elems bx8 q head htarget h => ?_, fun hopen => ?_⟩
  · exact State.on_of_eq halive (opPlaneLoadStart_of_wanted hx hrun hfree hwant)
  · have heq := opPlaneReady_eq hx (upset := upset) hplane hcmd hfmt hcws hbws hfirst
    refine ⟨fun hheld => ?_, fun hheld hread hread' => ?_⟩
    · exact State.on_of_eq halive (heq.trans (if_pos hheld))
    · refine State.on_of_eq halive (heq.trans ((if_neg (by simp [hheld])).trans ?_))
      simp only [hread, hread']
  · have heq := opRowPush_of_taken hx htarget hrows hr hmask hissued hy
    refine ⟨fun hstaged hwin => ?_, fun h => ?_⟩
    · exact State.on_of_eq halive (heq.trans (by simp [hstaged, hwin]))
    · refine State.on_of_eq halive (heq.trans ?_)
      by_cases hstaged : stagedRow x r = true
      · rw [if_pos hstaged]
      · have hwin := h.resolve_left hstaged
        rw [if_neg hstaged, hy]
        simp [hwin]
  · exact State.on_of_same (opRowPush_of_discarded hx htarget h)
  · exact State.on_of_eq halive (opBatchWindowExpiry_of_open hx hopen)

end Sys2Proof.Machine
end

section
/-! The life of a row: issue, junctions, commit or poison, the factor of a DRAIN, and the drain (03 R53 to R70, 05 R105 to R110). -/

namespace Sys2Proof.Machine

section
variable {m : Mach} {t : Nat} {x : Tile} (hx : m.tile t = x)
include hx

/-- What the feeder does at an MM that has started: a bubble where there is no ready plane, no row or a row that R62 holds; a lost grant; or the rows. -/
theorem opRowIssue_of_started {upset : List Nat} {q : QCmd} {l : List QCmd} (hqueue : x.queue = q :: l) (hop : tcOpcode q.w = 1) (hgood : tcReject q.w = 0)
    (hstarted : x.started = true) :
    opRowIssue t upset m = match x.planes.find? (fun pl => pl.seq == q.seq && pl.ready) with
      | none => m.wrap F.tileBubbles (tileIx t) 1
      | some pl =>
        if (slotRows m t q).isEmpty || (slotRows m t q).any (x.gapHolds q) then m.wrap F.tileBubbles (tileIx t) 1
        else if anyHeld m (t / 16) (.local (t % 16)) ((slotRows m t q).flatMap (rowWords q)) then (m.wrap F.tileBubbles (tileIx t) 1).lostA (t / 16) (t % 16)
        else
          let m1 := (m.upsetLanes (t / 16) upset).setTile t ((nextRows m t q).2.activate q.seq)
          let r := m1.readEach (t / 16) (.local (t % 16)) ((slotRows m t q).flatMap (rowOwn q))
          let m2 := (splitRows q (slotRows m t q) r.1).foldl (issueOne t q pl) r.2
          let m3 := (m2.wrap F.tileIssued (tileIx t) (if tcFmtA q.w = 3 then tcPasses q.w else 1)).wrap F.tileBubbles (tileIx t)
            (stageCycles x q (slotRows m t q) - 1)
          if (tcUnmasked q.w).all (fun r => bitOf r (m3.tile t).done) then
            m3.setTile t { (m3.tile t).popHead with staged := if tcPush q.w then 0 else (m3.tile t).staged,
                                                     winOpen := if tcPush q.w then false else (m3.tile t).winOpen,
                                                     winDue := if tcPush q.w then false else (m3.tile t).winDue }
          else m3 := by
  simp only [opRowIssue, hx, hqueue, hop, hgood, hstarted, ne_eq, not_true_eq_false, false_and, or_self, if_false, Bool.not_true, Bool.false_eq_true] <;> rfl

theorem opRowIssue_of_bubble {upset : List Nat} {q : QCmd} {l : List QCmd} (hqueue : x.queue = q :: l) (hop : tcOpcode q.w = 1) (hgood : tcReject q.w = 0)
    (hstarted : x.started = true)
    (h : (∀ p ∈ x.planes, p.seq = q.seq → p.ready = false) ∨ slotRows m t q = [] ∨ (∃ r ∈ slotRows m t q, x.gapHolds q r = true)) :
    opRowIssue t upset m = m.wrap F.tileBubbles (tileIx t) 1 := by
  rw [opRowIssue_of_started hx hqueue hop hgood hstarted]
  cases hplane : x.planes.find? (fun pl => pl.seq == q.seq && pl.ready) with
  | none => rfl
  | some pl =>
    have hready : pl.seq = q.seq ∧ pl.ready = true := by simpa using List.find?_some hplane
    have hnot : ¬ ∀ p ∈ x.planes, p.seq = q.seq → p.ready = false := fun hall => by simpa [hready.2] using hall pl (List.mem_of_find?_eq_some hplane) hready.1
    refine if_pos ?_
    simpa using h.resolve_left hnot

/-- A comparison of a junction. -/
theorem opBlockJunction_eq {i b n : Nat} {bad : Bool} {f : Flight} (hf : x.flights[i]? = some f) (hnext : nth 3 f.next n = b)
    (hfirst : b = 0 → f.accZero = false → ∀ g ∈ x.flights.take i, g.acc ≠ f.acc) {start : Nat} {j : Nat × Nat × Option Nat}
    (hstart : start = (if b = 0 then (if f.accZero then 0 else nth 0 (accRow t x f.acc) n) else nth 0 f.run n))
    (hj : j = junction f.nanTrap f.scaleTrap start (nth ⟨0, 0, true, Tag.none⟩ (nth [] f.blocks b) n)) :
    opBlockJunction t i b n bad m = m.setTile t (x.setFlight i
      { f with run := setNth f.run n j.1, next := setNth f.next n (b + 1), flags := f.flags ||| j.2.1,
               cands := f.cands ++ j.2.2.toList.map (fun c => ⟨m.cycles (t / 160), c, n, f.kbase + b⟩),
               blocked := f.blocked || (b == 0 && !f.accZero && bad) }) := by
  have hold : ¬ (b = 0 ∧ ¬ f.accZero = true ∧ (x.flights.take i).any (fun g => g.acc == f.acc) = true) := by
    rintro ⟨hb, hz, hany⟩
    obtain ⟨g, hg, heq⟩ := List.any_eq_true.mp hany
    exact hfirst hb (by simpa using hz) g hg (by simpa using heq)
  subst hstart hj
  simp only [opBlockJunction, hx, hf, hnext, ne_eq, not_true_eq_false, if_false, hold]
  generalize junction _ _ _ _ = j
  obtain ⟨v, fl, _ | cause⟩ := j <;> rfl

section
variable {f : Flight} {l : List Flight} (hflights : x.flights = f :: l) (hlast : ∀ k ∈ f.next, k = 3) {disagree : Bool}
include hflights hlast

/-- A row that disagrees, is blocked, or meets a poisoned accumulator row poisons its accumulator row. -/
theorem opRowCommit_of_poison (h : (disagree || !f.agrees || f.blocked || (x.poisoned f.acc && !f.accZero)) = true) :
    ((opRowCommit t disagree m).tile t).flights = l ∧ ((opRowCommit t disagree m).tile t).acc = x.acc ∧
      ((opRowCommit t disagree m).tile t).poison = setBit f.acc x.poison := by
  have hdone : f.next.any (fun k => k != 3) = false := by simpa using hlast
  simp only [opRowCommit, hx, hflights, hdone, Bool.false_eq_true, if_false, h, if_true]
  generalize hx2 : Tile.onProg _ f.seq _ = x2
  have hkept : x2.flights = l ∧ x2.acc = x.acc ∧ x2.poison = setBit f.acc x.poison := by subst hx2; exact ⟨rfl, rfl, rfl⟩
  have htile : (if disagree || !f.agrees then ((m.setTile t x2).ev F.tileEventsCheckFail (tileIx t)).cnt F.tileCheckFails (tileIx t) 1
      else m.setTile t x2).tile t = x2 := by split <;> simp [Mach.ev, Mach.cnt]
  generalize hm1 : (if (disagree || !f.agrees) = true then ((m.setTile t x2).ev F.tileEventsCheckFail (tileIx t)).cnt F.tileCheckFails (tileIx t) 1
      else m.setTile t x2) = m1 at htile ⊢
  obtain ⟨⟨ps, hps⟩, -⟩ := m1.tileEnds_spec t
  rw [hps, htile]
  exact hkept

/-- Any other row commits its columns. -/
theorem opRowCommit_of_commit (h : (disagree || !f.agrees || f.blocked || (x.poisoned f.acc && !f.accZero)) = false) :
    ((opRowCommit t disagree m).tile t).flights = l ∧ ((opRowCommit t disagree m).tile t).acc = SMap.put [] f.acc f.run x.acc ∧
      ((opRowCommit t disagree m).tile t).poison = clearBit f.acc x.poison ∧ (f.cands = [] → f.flags = 0 → (opRowCommit t disagree m).fields = m.fields) := by
  have hdone : f.next.any (fun k => k != 3) = false := by simpa using hlast
  simp only [opRowCommit, hx, hflights, hdone, Bool.false_eq_true, if_false, h]
  generalize hx2 : Tile.onProg _ f.seq _ = x2
  have hkept : x2.flights = l ∧ x2.acc = SMap.put [] f.acc f.run x.acc ∧ x2.poison = clearBit f.acc x.poison := by subst hx2; exact ⟨rfl, rfl, rfl⟩
  obtain ⟨⟨ps, hps⟩, hfields, -⟩ := (((m.setTile t x2).tileFlags t f.flags).tileTraps t f.opTag f.acc f.cands).tileEnds_spec t
  obtain ⟨⟨k, htraps⟩, -⟩ := Mach.tileTraps_frame t f.opTag f.acc f.cands ((m.setTile t x2).tileFlags t f.flags)
  have hflags : ((m.setTile t x2).tileFlags t f.flags).tile t = x2 := by
    rw [Mach.tile, ((m.setTile t x2).tileFlags_frame t f.flags).1]; exact m.tile_setTile t x2
  obtain ⟨hl, hacc, hpoison⟩ := hkept
  refine ⟨by rw [hps, htraps, hflags]; exact hl, by rw [hps, htraps, hflags]; exact hacc, by rw [hps, htraps, hflags]; exact hpoison, fun hcands hzero => ?_⟩
  rw [hfields, hcands, hzero, Mach.tileFlags_none]
  rfl

end

/-- The factor of the earliest DRAIN that has none. -/
theorem opFactorFormation_of_free {upset : List Nat} {q : QCmd} {a : List Byte} {bad : Bool} {m1 : Mach} (hrun : m.on F.tileCtrlRun (tileIx t) = true)
    (hroom : x.factors.length < 2) (hstarted : x.started = false)
    (hq : x.queue.find? (fun q => tcOpcode q.w == 2 && tcReject q.w == 0 && !x.factors.any (fun f => f.seq == q.seq)) = some q)
    (hfirst : m.stageFirst t [tcScale q.w] = false) (hheld : anyHeld m (t / 16) (.local (t % 16)) [tcScale q.w] = false)
    (hread : (m.upsetLanes (t / 16) upset).readSpan (t / 16) (.local (t % 16)) (tcScale q.w * 64) 12 = (a, bad, m1)) :
    opFactorFormation t upset m = m1.setTile t { x with factors := x.factors ++
      [⟨q.seq, factorF (leNat (a.take 4)) (leNat ((a.drop 4).take 4)) (leNat ((a.drop 8).take 4)), bad⟩] } := by
  simp only [opFactorFormation, hx, Mach.tileRun, hrun, hstarted, hq, hfirst, hheld, hread, Nat.not_le.mpr hroom]
  rfl

/-- A row that DRAIN reads, scaled, waits for the drain port. -/
theorem opDrainRead_drained {bad : Bool} {q : QCmd} {l : List QCmd} {r : Nat} {f : Factor} (hqueue : x.queue = q :: l) (hop : tcOpcode q.w = 2)
    (hstarted : x.started = true) (hroom : x.drained.length < 4) (hr : (tcUnmasked q.w).find? (fun r => !bitOf r x.done) = some r)
    (hf : x.factors.find? (fun f => f.seq == q.seq) = some f) (hfree : ∀ g ∈ x.flights, g.acc ≠ tcAccBase q.w + r) :
    ((opDrainRead t bad m).tile t).drained = x.drained ++ [⟨q.seq, (accRow t x (tcAccBase q.w + r)).map (fun v => (drainScale v f.code).1),
      x.poisoned (tcAccBase q.w + r) || bad || f.bad⟩] := by
  have hpending : x.rowPending (tcAccBase q.w + r) = false := by simpa [Tile.rowPending] using hfree
  have hgo : ¬ (tcOpcode q.w ≠ 2 ∨ ¬ x.started = true ∨ 4 ≤ x.drained.length) := by simp [hop, hstarted, hroom]
  simp only [opDrainRead, hx, hqueue, if_neg hgo, hr, hf, hpending, Bool.false_eq_true, if_false, List.map_map]
  generalize hpoison : (x.poisoned (tcAccBase q.w + r) || bad || f.bad) = poison
  generalize hx3 : Tile.onProg _ q.seq _ = x3
  have hdrained : x3.drained = x.drained ++ [⟨q.seq, (accRow t x (tcAccBase q.w + r)).map (fun v => (drainScale v f.code).1), poison⟩] := by
    subst hx3
    cases poison
    · cases tcAccZero q.w <;> rfl
    · rfl
  have hflags (fl : Nat) : ((m.setTile t x3).tileFlags t fl).tile t = x3 := by
    rw [Mach.tile, ((m.setTile t x3).tileFlags_frame t fl).1]; exact m.tile_setTile t x3
  generalize hm2 : (if poison = true then _ else _ : Mach) = m2
  have htile : (m2.tile t).drained = x3.drained := by
    subst hm2
    split
    · rw [hflags]
    · obtain ⟨⟨k, htraps⟩, -⟩ := Mach.tileTraps_frame t (tcTag q.w) (tcAccBase q.w + r) _ ((m.setTile t x3).tileFlags t _)
      rw [htraps, hflags]
  rw [← hdrained, ← htile]
  split
  · generalize hy : ({ (m2.tile t).popHead with factors := _ } : Tile) = y
    obtain ⟨⟨ps, hps⟩, -⟩ := (m2.setTile t y).tileEnds_spec t
    rw [hps, Mach.tile_setTile, ← hy]
    exact (m2.tile t).popHead_frame.2.2.2.2.1
  · rfl

end

/-- Settles O5, by the stages of a row. -/
theorem rowsFlowThroughTheArray : Obligations.RowsFlowThroughTheArray := by
  unfold Obligations.RowsFlowThroughTheArray
  intro t s x halive hx
  refine ⟨fun upset q l pl rows m1 m2 m3 r hqueue hop hgood hstarted hplane hslot hne hgap => ?_, fun upset q l hqueue hop hgood hstarted h => ?_,
    fun i b n bad f start j hf hnext hfirst hstart hj => ?_, fun disagree f l hflights hlast => ?_,
    fun upset q a bad v m1 hrun hroom hstarted hq hfirst hheld hread hv => ?_, fun bad q l r f hqueue hop hstarted hroom hr hf hfree => ?_⟩
  · subst hslot
    have hrows : ((slotRows s.m t.val q).isEmpty || (slotRows s.m t.val q).any (x.gapHolds q)) = false := by simpa [hne] using hgap
    have heq := opRowIssue_of_started hx (upset := upset) hqueue hop hgood hstarted
    simp only [hplane, hrows, Bool.false_eq_true, if_false] at heq
    refine ⟨fun hheld => State.on_of_eq halive (heq.trans (if_pos hheld)), fun hheld hm1 hr hm2 hm3 => ?_⟩
    subst hm1 hr hm2 hm3
    replace heq := heq.trans (if_neg (by simp [hheld]))
    refine ⟨fun ⟨r, hr, hdone⟩ => ?_, fun hall => ?_⟩
    · exact State.on_of_eq halive (heq.trans (if_neg (by simpa using ⟨r, hr, hdone⟩)))
    · refine ⟨_, ?_, ?_, State.on_of_eq halive (heq.trans (if_pos (List.all_eq_true.mpr hall)))⟩
      · exact (Tile.popHead_frame _).1
      · exact (Tile.popHead_frame _).2.1
  · exact State.on_of_eq halive (opRowIssue_of_bubble hx hqueue hop hgood hstarted h)
  · exact ⟨_, rfl, rfl, rfl, rfl, rfl, rfl, State.on_of_eq halive (opBlockJunction_eq hx hf hnext hfirst hstart hj)⟩
  · refine ⟨fun h => ?_, fun h => ?_⟩
    · obtain ⟨hl, hacc, hpoison⟩ := opRowCommit_of_poison hx hflights hlast h
      exact ⟨_, State.on_of_eq halive rfl, hl, hacc, hpoison, by simp, rfl⟩
    · obtain ⟨hl, hacc, hpoison, hfields⟩ := opRowCommit_of_commit hx hflights hlast h
      exact ⟨_, State.on_of_eq halive rfl, hl, hacc, hpoison, hfields, by simp, rfl⟩
  · subst hv
    exact State.on_of_eq halive (opFactorFormation_of_free hx hrun hroom hstarted hq hfirst hheld hread)
  · exact ⟨_, State.on_of_eq halive rfl, by simp, rfl, opDrainRead_drained hx hqueue hop hstarted hroom hr hf hfree⟩

end Sys2Proof.Machine
end

section
/-! Control of a tile: FLUSH, RUN, TILE_REPAIR and the trap record (03 R66, R67, R75; 05 R117). -/

namespace Sys2Proof.Machine

/-- The report of a command that FLUSH ends before it starts. -/
def flushReport (t : TileNo) (q : QCmd) : EndReport := ⟨.tile t, q.src, tcTag q.w, 1, 0, 0, [], tcLast q.w⟩

section
variable {m : Mach} {t : TileNo} {x : Tile} (hx : m.tile t.val = x)
include hx

/-- FLUSH: the tile without its queued work, and a report for each command that has not started. -/
theorem opTileFlush_eq : ∃ y : Tile, y.queue = [] ∧ y.started = false ∧ y.acc = x.acc ∧ y.poison = x.poison ∧ y.flights = x.flights ∧
    opTileFlush t.val m = (if x.started then x.queue.drop 1 else x.queue).foldl (fun m q => m.ended (flushReport t q)) (m.setTile t.val y) := by
  have hunit : Fin.ofNat 960 t.val = t := Fin.ofNat_val_eq_self t
  simp only [opTileFlush, hx, hunit]
  refine ⟨_, ?_, ?_, ?_, ?_, ?_, rfl⟩
  · rfl
  · rfl
  all_goals
    cases x.queue with
    | nil => rfl
    | cons q l => cases x.started <;> rfl

theorem opFlushAbortReport_of_ended {p : Prog}
    (hp : x.progs.find? (fun p => p.aborted && x.inFlight p.seq == 0 && !x.drained.any (fun d => d.seq == p.seq)) = some p) :
    opFlushAbortReport t.val m = (m.setTile t.val { x with progs := x.progs.filter (fun q => q.seq != p.seq) }).ended
      ⟨.tile t, p.src, p.opTag, 1, 0, p.flags, p.poisoned, p.last⟩ := by
  have haborted : p.aborted = true := by
    have := List.find?_some hp
    simp only [Bool.and_eq_true] at this
    exact this.1.1
  simp [opFlushAbortReport, hx, hp, Mach.tileReport, haborted, b2n]

theorem opTileCtrlRun_of_untested {run : Bool} (h : x.testing = false) : opTileCtrlRun t.val run m = m.wr F.tileCtrlRun (tileIx t.val) (b2n run) := by
  simp [opTileCtrlRun, hx, h]

theorem opTileRepairWrite_of_running {d : Nat} (h : m.on F.tileCtrlRun (tileIx t.val) = true ∨ x.idle = false) : opTileRepairWrite t.val d m = m := by
  refine if_pos ?_
  obtain h | h := h <;> simp [Mach.tileStopped, Mach.tileRun, hx, h]

/-- TILE_REPAIR in a stopped tile, with two legal rows. -/
theorem opTileRepairWrite_of_stopped {d a b : Nat} (hrun : m.on F.tileCtrlRun (tileIx t.val) = false) (hidle : x.idle = true) (htest : x.testing = false)
    (ha : bitsOf 5 0 d = a) (hb : bitsOf 13 8 d = b) (hla : F.tileRepairSpare0Phys.isLegal a = true) (hlb : F.tileRepairSpare1Phys.isLegal b = true) :
    opTileRepairWrite t.val d m = if a ≠ 0x3F ∧ b ≠ 0x3F ∧ b ≤ a then m
      else (((m.wr F.tileRepairSpare0Phys (tileIx t.val) a).wr F.tileRepairSpare1Phys (tileIx t.val) b).wr F.tileLatencyLeapCount (tileIx t.val)
        (b2n (a != 0x3F) + b2n (b != 0x3F))).wr F.tileLatencyLatency (tileIx t.val) (102 + (b2n (a != 0x3F) + b2n (b != 0x3F))) := by
  have hgo : ¬ (!m.tileStopped t.val || x.testing) = true := by simp [Mach.tileStopped, Mach.tileRun, hx, hrun, hidle, htest]
  unfold opTileRepairWrite
  simp only [hx, if_neg hgo, ha, hb, hla, hlb, if_true]
  rfl

end

theorem opTrapLatchClear_tile (t : TileNo) (m : Mach) : let n := opTrapLatchClear (.tile t) m
    n.rd F.tileTrapValid (tileIx t.val) = 0 ∧ n.rd F.tileTrapCause (tileIx t.val) = 0 ∧ n.rd F.tileTrapOpTag (tileIx t.val) = 0 ∧
      n.rd F.tileTrapBlkMore (tileIx t.val) = 0 := by
  simp (disch := decide) [opTrapLatchClear, Mach.rd_wr_ne]

theorem opTrapLatchClear_ve (c : ClusterNo) (m : Mach) : let n := opTrapLatchClear (.ve c) m
    n.rd F.veTrapValid (clIx c.val) = 0 ∧ n.rd F.veTrapCause (clIx c.val) = 0 ∧ n.rd F.veTrapOpTag (clIx c.val) = 0 ∧
      n.rd F.veTrapPosMore (clIx c.val) = 0 := by
  simp (disch := decide) [opTrapLatchClear, Mach.rd_wr_ne]

/-- Settles O6, command by command. -/
theorem tileControlCommands : Obligations.TileControlCommands := by
  unfold Obligations.TileControlCommands
  refine ⟨fun t s x halive hx => ⟨?_, fun p hp => ?_, fun run htest => ?_, fun d a b hrun hidle htest ha hb hla hlb => ?_, fun d h => ?_⟩,
    fun u s halive => ?_⟩
  · obtain ⟨y, hqueue, hstarted, hacc, hpoison, hflights, heq⟩ := opTileFlush_eq hx
    obtain ⟨htiles, -, hfields, hmem, -, hout⟩ := Mach.foldEnded_frame (flushReport t) (if x.started then x.queue.drop 1 else x.queue) (s.m.setTile t.val y)
    rw [← heq] at htiles hfields hmem hout
    have htile : (opTileFlush t.val s.m).tile t.val = y := by rw [Mach.tile, htiles]; exact s.m.tile_setTile t.val y
    refine ⟨_, _, State.on_of_eq halive rfl, rfl, ?_⟩
    rw [htile]
    exact ⟨hqueue, hstarted, hacc, hpoison, hflights, hmem, hfields, rfl, hout⟩
  · exact State.on_of_eq halive (opFlushAbortReport_of_ended hx hp)
  · exact State.on_of_eq halive (opTileCtrlRun_of_untested hx htest)
  · have heq := opTileRepairWrite_of_stopped hx hrun hidle htest ha hb hla hlb
    exact ⟨fun h => State.on_of_eq halive (heq.trans (if_neg (by omega))), fun h => State.on_of_same (heq.trans (if_pos h))⟩
  · exact State.on_of_same (opTileRepairWrite_of_running hx h)
  · refine ⟨_, State.on_of_eq halive rfl, by simp, rfl, ?_⟩
    cases u with
    | tile t => exact opTrapLatchClear_tile t s.m
    | ve c => exact opTrapLatchClear_ve c s.m

end Sys2Proof.Machine
end

section
/-! The vector engine's queue: descriptors, their decode, landing writes, reports, FLUSH and RUN (04 R77, R83, R88, R96, R100 to R103). -/

namespace Sys2Proof.Machine

section
variable {m : Mach} {c : ClusterNo} {v : Ve} (hv : m.ve c.val = v)
include hv

theorem opVeDescEnqueue_of_raw {who w : Nat} (hraw : m.isRaw c.val = true) (hheld : v.held = none) :
    opVeDescEnqueue c.val who w m = if 16 ≤ v.queue.length then m.setVe c.val { v with held := some (who, w) }
      else (m.setVe c.val { v with queue := v.queue ++ [⟨v.nextSeq, .raw who, v.staging ++ [w]⟩], nextSeq := v.nextSeq + 1 }).respond who rsOk := by
  simp [opVeDescEnqueue, hv, hraw, hheld]

theorem opVeDescHeldRelease_of_room {who w : Nat} (hheld : v.held = some (who, w)) (hroom : v.queue.length < 16) :
    opVeDescHeldRelease c.val m = (m.setVe c.val { v with queue := v.queue ++ [⟨v.nextSeq, .raw who, v.staging ++ [w]⟩],
                                                          nextSeq := v.nextSeq + 1, held := none }).respond who rsOk := by
  simp [opVeDescHeldRelease, hv, hheld, Nat.not_le.mpr hroom]

section
variable {q : QCmd} {l : List QCmd} {tree : List Nat} (hexec : v.exec = none) (hrun : m.on F.veCtrlRun (clIx c.val) = true) (hqueue : v.queue = q :: l)
  (htree : readsTree q.w = true → linePending v (dMaskLine q.w) = false) (hspan : cacheSpan c.val v (64 * dMaskLine q.w) 64 = tree)
include hexec hrun hqueue htree hspan

theorem opDescriptorDecode_eq :
    opDescriptorDecode c.val m = if dReject q.w tree = 0
      then m.setVe c.val { v with exec := some ⟨q, 0, if readsTree q.w then tree else [], none, [], 0, 0⟩ }
      else ((((m.ev F.veEventsDescReject (clIx c.val)).wr F.veRejectCause (clIx c.val) (dReject q.w tree)).wr F.veRejectOpTag (clIx c.val) (dTag q.w)).setVe
        c.val { v with queue := l }).ended ⟨.ve c, q.src, dTag q.w, 2, dReject q.w tree, 0, [], false⟩ := by
  have hunit : Fin.ofNat 60 c.val = c := Fin.ofNat_val_eq_self c
  have hevents : m.veEvents c.val 0x10000 = m.ev F.veEventsDescReject (clIx c.val) := by
    simp [Mach.veEvents, flNan, flSat, flRange]
  have hline : (readsTree q.w && linePending v (dMaskLine q.w)) = false := by simpa using htree
  subst hspan
  simp only [opDescriptorDecode, hv, hexec, hrun, hqueue, hline, hunit, hevents, Option.isSome_none, Bool.not_true, Bool.or_self, Bool.false_eq_true, if_false]

/-- A rejected descriptor leaves the queue with its cause, and the cache stays. -/
theorem opDescriptorDecode_of_rejected (hreject : dReject q.w tree ≠ 0) : let n := opDescriptorDecode c.val m
    (n.ve c.val).queue = l ∧ (n.ve c.val).cache = v.cache ∧ n.rd F.veRejectCause (clIx c.val) = dReject q.w tree % 2 ^ F.veRejectCause.width ∧
      n.on F.veEventsDescReject (clIx c.val) = true ∧ n.out = m.out ++ [.ended ⟨.ve c, q.src, dTag q.w, 2, dReject q.w tree, 0, [], false⟩] := by
  rw [opDescriptorDecode_eq hv hexec hrun hqueue htree hspan, if_neg hreject]
  generalize hm1 : Mach.setVe _ c.val _ = m1
  obtain ⟨-, hves, hfields, -, hfuses, hout⟩ := m1.ended_frame ⟨.ve c, q.src, dTag q.w, 2, dReject q.w tree, 0, [], false⟩
  have hve : m1.ve c.val = { v with queue := l } := by rw [← hm1]; exact Mach.ve_setVe ..
  have hrd : ∀ g r, (m1.ended ⟨.ve c, q.src, dTag q.w, 2, dReject q.w tree, 0, [], false⟩).rd g r = m1.rd g r := fun g r => by
    rw [Mach.rd, Mach.rd, hfields, hfuses]
  have hve' : (m1.ended ⟨.ve c, q.src, dTag q.w, 2, dReject q.w tree, 0, [], false⟩).ve c.val = { v with queue := l } := by
    rw [Mach.ve, hves]; exact hve
  refine ⟨by rw [hve'], by rw [hve'], ?_, ?_, ?_⟩
  · rw [hrd, ← hm1]
    simp (disch := decide) [Mach.rd_wr_ne]
  · rw [Mach.on, hrd, ← hm1]
    simp (disch := decide) [Mach.rd_wr_ne]
  · rw [hout, ← hm1]
    simp

end

/-- A write before which no other of its line has to land. -/
theorem opVeWriteLand_eq {k : Nat} {x : VeWrite} (hland : v.landable k = some x) :
    opVeWriteLand c.val k m = match x.push with
      | none => m.setVe c.val (landBytes c.val { v with writes := dropNth v.writes k } x.bytes)
      | some r =>
        if (pushRow r (m.setVe c.val { v with writes := dropNth v.writes k })).1 then (pushRow r (m.setVe c.val { v with writes := dropNth v.writes k })).2
        else (pushRow r (m.setVe c.val { v with writes := dropNth v.writes k })).2.pushRefused c.val x.seq x.step := by
  simp only [opVeWriteLand, hv, hland] <;> rfl

theorem opDescEndReport_of_ended {e : VeEnd} (he : v.ends.find? (fun e => !v.writes.any (fun x => x.seq == e.seq)) = some e) :
    opDescEndReport c.val m = (m.setVe c.val { v with ends := v.ends.filter (fun x => x.seq != e.seq) }).ended
      ⟨.ve c, e.src, e.opTag, e.status, 0, e.events, [e.poison], false⟩ := by
  have hunit : Fin.ofNat 60 c.val = c := Fin.ofNat_val_eq_self c
  simp only [opDescEndReport, hv, he, hunit]

/-- FLUSH discards the queue and ends what executes; pending writes and the cache stay. -/
theorem opVeFlush_spec : let n := opVeFlush c.val m
    (n.ve c.val).queue = [] ∧ (n.ve c.val).exec = none ∧ (n.ve c.val).writes = v.writes ∧ (n.ve c.val).cache = v.cache ∧ n.fields = m.fields := by
  unfold opVeFlush
  rw [hv]
  extract_lets w w1
  have hw1 : w1.exec = none ∧ w1.writes = v.writes ∧ w1.cache = v.cache := by
    cases h : v.exec with
    | none => simp [w1, w, h]
    | some e => simp [w1, w, h, Ve.finish]
  obtain ⟨-, hves, hfields, -⟩ := Mach.foldEnded_frame (fun q : QCmd => (EndReport.mk (.ve (Fin.ofNat 60 c.val)) q.src (dTag q.w) 1 0 0 [] false)) w1.queue
    (m.setVe c.val { w1 with queue := [] })
  have hve : ∀ n : Mach, n.ves = (m.setVe c.val { w1 with queue := [] }).ves → n.ve c.val = { w1 with queue := [] } := fun n h => by
    rw [Mach.ve, h]; exact m.ve_setVe _ _
  rw [hve _ hves]
  exact ⟨rfl, hw1.1, hw1.2.1, hw1.2.2, hfields⟩

end

/-- Settles O7, command by command. -/
theorem vectorQueueCommands : Obligations.VectorQueueCommands := by
  unfold Obligations.VectorQueueCommands
  intro c s v halive hv
  refine ⟨fun who w hraw hheld => ?_, fun who w hraw => ?_, fun who w hheld hroom => ?_, fun q l tree hexec hrun hqueue htree hspan => ?_,
    fun k x v1 hland hv1 => ?_, fun e he => ?_, ?_, fun run => ?_⟩
  · have heq := opVeDescEnqueue_of_raw hv (who := who) (w := w.toNat) hraw hheld
    exact ⟨fun h => State.on_of_eq halive (heq.trans (if_neg (by omega))), fun h => State.on_of_eq halive (heq.trans (if_pos h))⟩
  · exact State.on_of_eq halive (if_pos (by simp [hraw]))
  · exact State.on_of_eq halive (opVeDescHeldRelease_of_room hv hheld hroom)
  · have heq := opDescriptorDecode_eq hv hexec hrun hqueue htree hspan
    refine ⟨fun h => State.on_of_eq halive (heq.trans (if_pos h)), fun h => ?_⟩
    obtain ⟨hq, hcache, hcause, hevent, hout⟩ := opDescriptorDecode_of_rejected hv hexec hrun hqueue htree hspan h
    exact ⟨_, State.on_of_eq halive rfl, hq, hcache, hcause, hevent, by simp, rfl, hout⟩
  · have heq := opVeWriteLand_eq hv hland
    subst hv1
    refine ⟨fun hpush => State.on_of_eq halive (by rw [heq, hpush]), fun r m1 hpush hm1 => ?_⟩
    subst hm1
    rw [hpush] at heq
    exact ⟨fun h => State.on_of_eq halive (heq.trans (if_pos h)), fun h => State.on_of_eq halive (heq.trans (if_neg (by simp [h])))⟩
  · exact State.on_of_eq halive (opDescEndReport_of_ended hv he)
  · obtain ⟨hqueue, hexec, hwrites, hcache, hfields⟩ := opVeFlush_spec hv
    exact ⟨_, State.on_of_eq halive rfl, hqueue, hexec, hwrites, hcache, by simp, hfields, rfl⟩
  · exact State.on_of_eq halive rfl

end Sys2Proof.Machine
end

section
/-! A step of the executing vector descriptor (04 R78 to R83, R85, R89 to R99). -/

namespace Sys2Proof.Machine

/-- The machine once a step has taken the drained row that its operand A names, where A is the drain port. -/
def Mach.rowTaken (m : Mach) (c : Nat) (w : List Nat) (v : Ve) : Mach :=
  if (dA w).kind = 3 then (drainTake (c * 16 + (dA w).base % 16) (m.setVe c v)).wrap F.veDrainRows (clIx c) 1 else m.setVe c v

theorem kindOf_gather {op : Nat} (h : kindOf op = some .gather) : op = 0x31 := by
  by_contra hop
  simp only [kindOf, if_neg hop] at h
  split_ifs at h <;> cases h

theorem gatherTable_of_other {c : Nat} {v : Ve} {w : List Nat} {k : VKind} {p : StepAt} (h : k ≠ .gather) : gatherTable c v w k p = [] := by
  simp [gatherTable, h]

theorem filterMap_nth_nil (act : List Nat) : act.filterMap (fun j => nth (none : Option Loc) [] j) = [] := by
  rw [List.filterMap_eq_nil_iff]
  intro j _
  cases j <;> rfl

section
variable {m : Mach} {c op : Nat} {u : List Nat} {v : Ve} {e : VeExec} {work : Fmt} {k : VKind} {w : List Nat} {p : StepAt} {act : List Nat}
  {row : DrainRow} {table : List (Option Loc)} (hexec : (m.ve c).exec = some e) (hw : e.cmd.w = w) (hwork : fmtOfCode (dWork w) = some work)
  (hkop : Machine.kindOf op = some k) (hp : p = stepAt w k (lanesOf work) (nth 0 e.tree 48) e.step) (hv : v = (m.ve c).upset u) (hact : act = actLanes c v w k p)
  (hwait : waitsOn v (stepReads w k p) = false) (hgood : laneFails v (stepReads w k p) = false)
  (hrow : (m.tile (c * 16 + (dA w).base % 16)).drained.head?.getD ⟨0, [], false⟩ = row)
  (hdrained : (dA w).kind = 3 → (m.tile (c * 16 + (dA w).base % 16)).drained ≠ []) (htable : table = gatherTable c v w k p)
  (htwait : waitsOn v (act.filterMap (fun j => nth none table j)) = false) (htgood : laneFails v (act.filterMap (fun j => nth none table j)) = false)
  (hop : dOp w = op)
include hexec hw hwork hkop hp hv hact hwait hgood hrow hdrained htable htwait htgood hop

/-- A step that waits for nothing, with good parity and a drained row where it needs one, takes its row. -/
theorem Mach.veStep_eq (f : StepFn) : m.veStep c op u f = (m.setVe c v).veTakeRow c op e k work v p act table row f := by
  have hready : m.veReady c op = some e := by simp [Mach.veReady, hexec, hw, hop]
  subst hp hv hact htable hw
  simp only [Mach.veStep, hready, hkop, hwork, Mach.ve_setVe, hwait, hgood, htwait, htgood, Bool.false_eq_true, if_false, Mach.setVe_tile]
  cases hhead : (m.tile (c * 16 + (dA e.cmd.w).base % 16)).drained.head? with
  | none =>
    have hkind : (dA e.cmd.w).kind ≠ 3 := fun h => hdrained h (List.head?_eq_none_iff.mp hhead)
    rw [hhead] at hrow
    subst hrow
    simp [hkind]
  | some y =>
    rw [hhead] at hrow
    subst hrow
    simp

theorem Mach.veStep_of_poisoned (f : StepFn) (hdrain : (dA w).kind = 3) (hpoison : row.poison = true) :
    m.veStep c op u f = (m.rowTaken c w v).veIssued c { e with poison := e.poison + 1 } (stepsAll w k (lanesOf work)) 0x40000 [] := by
  rw [m.veStep_eq hexec hw hwork hkop hp hv hact hwait hgood hrow hdrained htable htwait htgood hop f]
  subst hw
  simp [Mach.veTakeRow, Mach.rowTaken, hdrain, hpoison]

theorem Mach.veStep_of_good (f : StepFn) (hpoison : (dA w).kind = 3 → row.poison = false) :
    m.veStep c op u f = (m.rowTaken c w v).veOutcome c op e k work v p act table row f := by
  rw [m.veStep_eq hexec hw hwork hkop hp hv hact hwait hgood hrow hdrained htable htwait htgood hop f]
  subst hw
  by_cases hdrain : (dA e.cmd.w).kind = 3
  · simp [Mach.veTakeRow, Mach.rowTaken, hdrain, hpoison hdrain]
  · simp [Mach.veTakeRow, Mach.rowTaken, hdrain]

end

/-- What a step hands to its operation: the lanes of its operands in the working format. -/
theorem Mach.veOutcome_inputs (m1 : Mach) (c op : Nat) (e : VeExec) (k : VKind) (work : Fmt) (v : Ve) (p : StepAt) (act : List Nat)
    (table : List (Option Loc)) (row : DrainRow) (f : StepFn) {w raw : List Nat} (hw : e.cmd.w = w)
    (hraw : raw = (if (dA w).kind = 3 then (row.vals.drop p.s).take p.p else rawCodes c v w (dA w) (k != .accept && dBcast w 0) p)) :
    ∃ (i : StepIn) (b d : List Coded) (rf : Nat), i.w = w ∧ i.kind = k ∧ i.work = work ∧ i.tr = dTrunc w ∧ i.at_ = p ∧ i.tree = e.tree ∧ i.act = act ∧
      (k ≠ .accept → k ≠ .gather →
        i.a = treeMask w e.tree work p (if (dA w).kind = 3 then raw.map (convIn .g36 work (dTrunc w)) else lanesIn (dA w).fmt work (dTrunc w) raw)) ∧
      (k = .arith → usesB op = true → b = lanesIn (dB w).fmt work (dTrunc w) (rawCodes c v w (dB w) (dBcast w 1) p)) ∧
      (op = 0x13 → d = lanesIn (dC w).fmt work (dTrunc w) (rawCodes c v w (dC w) (dBcast w 2) p)) ∧
      (k = .perm → i.idx = signedB c v w p) ∧
      (k = .gather → (dA w).kind ≠ 3 → dMask w ≠ 2 → ∀ g, fmtOfCode (dA w).fmt = some g →
        i.got = table.map (fun x => x.map (fun l => convIn g work (dTrunc w) (readLoc c v l)))) ∧
      m1.veOutcome c op e k work v p act table row f = m1.veWriteOut c e i (f i b d e (isLast w p)) (stepsAll w k (lanesOf work)) rf := by
  subst hw hraw
  refine ⟨_, _, _, _, ?_, ?_, ?_, ?_, ?_, ?_, ?_, fun haccept hgather => ?_, fun harith huses => ?_, fun hfma => ?_, fun hperm => ?_,
    fun hgather hkind hmask g hg => ?_, rfl⟩
  case refine_1 | refine_2 | refine_3 | refine_4 | refine_5 | refine_6 | refine_7 => rfl
  · simp [haccept, hgather]
  · have hwhole : (VKind.arith != VKind.accept) = true := rfl
    simp [harith, huses, hwhole]
  · exact if_pos hfma
  · exact if_pos hperm
  · have hdrain : ((dA e.cmd.w).kind == 3) = false := by simpa using hkind
    simp only [gatherTree, hmask, hgather, hdrain, hg, ne_eq, not_true_eq_false, Bool.false_eq_true, if_false]
    exact List.map_congr_left fun x _ => by cases x <;> rfl

/-- Settles O8: the rules of a step with the operations' own functions, and for every operation but GATHER no table of lanes. -/
theorem vectorStepsIssue : Obligations.VectorStepsIssue := by
  unfold Obligations.VectorStepsIssue
  refine ⟨fun c u s v e work k w p act row t m1 halive hexec hw hwork hkind hp hv hact hwait hgood ht hrow hdrained hm1 => ?_,
    fun m1 c op e k work v p act table row f w raw hw hraw => m1.veOutcome_inputs c op e k work v p act table row f hw hraw⟩
  subst ht
  replace hm1 : s.m.rowTaken c.val w v = m1 := hm1.symm
  have hno (hop : dOp w ≠ 0x31) : gatherTable c.val v w k p = [] := gatherTable_of_other fun hk => hop (kindOf_gather (hk ▸ hkind))
  have hpoisoned (op : Nat) (hop : dOp w = op) (hne : dOp w ≠ 0x31) (hdrain : (dA w).kind = 3) (hpoison : row.poison = true) (f : StepFn) :
      s.m.veStep c.val op u f = m1.veIssued c.val { e with poison := e.poison + 1 } (stepsAll w k (lanesOf work)) 0x40000 [] := by
    rw [← hm1]
    exact Mach.veStep_of_poisoned hexec hw hwork (hop ▸ hkind) hp hv hact hwait hgood hrow hdrained (hno hne).symm
      (by rw [filterMap_nth_nil]; rfl) (by rw [filterMap_nth_nil]; rfl) hop f hdrain hpoison
  have hdone (op : Nat) (hop : dOp w = op) (hne : dOp w ≠ 0x31) (hpoison : (dA w).kind = 3 → row.poison = false) (f : StepFn) :
      s.m.veStep c.val op u f = m1.veOutcome c.val op e k work v p act [] row f := by
    rw [← hm1]
    exact Mach.veStep_of_good hexec hw hwork (hop ▸ hkind) hp hv hact hwait hgood hrow hdrained (hno hne).symm
      (by rw [filterMap_nth_nil]; rfl) (by rw [filterMap_nth_nil]; rfl) hop f hpoison
  refine ⟨fun hdrain hpoison hne x hx hop => ?_, fun hpoison => ?_⟩
  · simp only [List.mem_cons, List.not_mem_nil, or_false] at hx
    rcases hx with rfl | rfl | rfl | rfl | rfl | rfl | rfl | rfl | rfl | rfl | rfl | rfl | rfl | rfl | rfl | rfl | rfl | rfl | rfl | rfl | rfl | rfl
    all_goals dsimp only [exec, execVeCopy, execVeAdd, execVeSub, execVeMul, execVeFma, execVeMax, execVeMin, execVeAbs, execVeNeg, execVeExp2,
      execVeLog2, execVeRcp, execVeRsqrt, execVePerm, execVeRsum, execVeRmax, execVeRmin, execVeArgmax, execVeArgmin, execVeSample, execVeAccept,
      execVeBlockq]
    all_goals exact State.on_of_eq halive (hpoisoned _ hop hne hdrain hpoison _)
  · refine ⟨?_, ?_, ?_, ?_, ?_, ?_, ?_, ?_, ?_, ?_, ?_, ?_, ?_, ?_, ?_, ?_, ?_, ?_, ?_, ?_, ?_, ?_, fun hop table tl htable htl htwait htgood => ?_⟩
    rotate_right
    · subst htl
      dsimp only [exec, execVeGather]
      exact State.on_of_eq halive (hm1 ▸ Mach.veStep_of_good hexec hw hwork (hop ▸ hkind) hp hv hact hwait hgood hrow hdrained htable htwait htgood hop _ hpoison)
    all_goals intro hop
    all_goals dsimp only [exec, execVeCopy, execVeAdd, execVeSub, execVeMul, execVeFma, execVeMax, execVeMin, execVeAbs, execVeNeg, execVeExp2,
      execVeLog2, execVeRcp, execVeRsqrt, execVePerm, execVeRsum, execVeRmax, execVeRmin, execVeArgmax, execVeArgmin, execVeSample, execVeAccept,
      execVeBlockq]
    all_goals exact State.on_of_eq halive (hdone _ hop (by rw [hop]; decide) hpoison _)

end Sys2Proof.Machine
end

section
/-! LOAD and STORE of the vector engine (04 R85). -/

namespace Sys2Proof.Machine

theorem actLanes_unmasked {c : Nat} {v : Ve} {w : List Nat} {k : VKind} {p : StepAt} (hmask : dMask w = 0) : actLanes c v w k p = upFrom 0 p.p := by
  simp [actLanes, hmask]

theorem treeMask_unmasked {w tree : List Nat} {work : Fmt} {p : StepAt} {a : List Coded} (hmask : dMask w = 0) : treeMask w tree work p a = a := by
  simp [treeMask, hmask]

/-- What a step of LOAD hands on: the converted lanes of its bank words. -/
def loadIn (m : Mach) (c : Nat) (e : VeExec) (work src : Fmt) (p : StepAt) (locs : List Loc) : StepIn :=
  { w := e.cmd.w, kind := .load, work := work, tr := dTrunc e.cmd.w, at_ := p, act := upFrom 0 p.p,
    a := locs.map (fun l => convIn src work (dTrunc e.cmd.w) (bankCode m c l)), tree := e.tree, idx := [], got := [] }

section
variable {m : Mach} {c : Nat} {u : List Nat} {e : VeExec} {work : Fmt} {w : List Nat} {p : StepAt} (hexec : (m.ve c).exec = some e) (hw : e.cmd.w = w)
  (hwork : fmtOfCode (dWork w) = some work) (hmask : dMask w = 0) {locs : List Loc}
include hexec hw hwork hmask

section
variable {src : Fmt} (hop : dOp w = 2) (hsrc : fmtOfCode (dA w).fmt = some src) (hp : p = stepAt w .load (lanesOf work) 0 e.step)
  (hlocs : locs = laneLocs w (dA w) (elemBits (dA w).fmt) (dBcast w 0) p) (hheld : anyHeld m c (.local 16) (wordsOfLocs locs) = false)
include hop hsrc hp hlocs hheld

theorem opVeLoad_of_refused {x : Nat} (hrefused : firstRefused m c (wordsOfLocs locs) = some x) : opVeLoad c u m = m.veRefused c e x := by
  have hready : m.veReady c 2 = some e := by simp [Mach.veReady, hexec, hw, hop]
  subst hw hp hlocs
  simp [opVeLoad, hready, hwork, hsrc, hmask, hheld, hrefused, waitsOn, laneFails]

theorem opVeLoad_of_read {a : List Byte} {m1 : Mach} (hfree : firstRefused m c (wordsOfLocs locs) = none)
    (hread : (m.upsetLanes c u).readWords c (.local 16) (wordsOfLocs locs) = (a, false, m1)) :
    ∃ (i : StepIn) (rf : Nat), i.w = w ∧ i.work = work ∧ i.at_ = p ∧ i.act = upFrom 0 p.p ∧
      i.a = locs.map (fun l => convIn src work (dTrunc w) (bankCode m c l)) ∧
      opVeLoad c u m = m1.veWriteOut c e i (stepCopy i) (stepsAll w .load (lanesOf work)) rf := by
  have hready : m.veReady c 2 = some e := by simp [Mach.veReady, hexec, hw, hop]
  refine ⟨loadIn m c e work src p locs, flagsAt (upFrom 0 p.p) (loadIn m c e work src p locs).a, hw, rfl, rfl, rfl, by rw [← hw]; rfl, ?_⟩
  subst hw hp hlocs
  simp only [opVeLoad, hready, hwork, hsrc, hmask, hheld, hfree, hread, waitsOn, laneFails, OfNat.zero_ne_ofNat, zero_ne_one, if_false, List.any_nil,
    Bool.false_eq_true, actLanes_unmasked hmask, treeMask_unmasked hmask]
  rfl

end

section
variable {dst : Fmt} {v : Ve} {outs : List Coded} {bs : List CacheByte} (hop : dOp w = 3) (hdst : fmtOfCode (dD w).fmt = some dst)
  (hp : p = stepAt w .store (lanesOf work) 0 e.step) (hv : v = (m.ve c).upset u) (hwait : waitsOn v (stepReads w .store p) = false)
  (hgood : laneFails v (stepReads w .store p) = false) (hlocs : locs = destLocs w p false (upFrom 0 p.p))
  (hheld : anyHeld (m.setVe c v) c (.local 16) (wordsOfLocs locs) = false)
include hop hdst hp hv hwait hgood hlocs hheld

theorem opVeStore_of_refused {x : Nat} (hrefused : firstRefused (m.setVe c v) c (wordsOfLocs locs) = some x) :
    opVeStore c u m = (m.setVe c v).veRefused c e x := by
  have hready : m.veReady c 3 = some e := by simp [Mach.veReady, hexec, hw, hop]
  subst hw hp hv hlocs
  simp only [opVeStore, hready, hwork, hdst, Mach.ve_setVe, hwait, hgood, actLanes_unmasked hmask, hheld, hrefused, Bool.false_eq_true, if_false]

theorem opVeStore_of_merged {a : List Byte} {m1 : Mach} (hfree : firstRefused (m.setVe c v) c (wordsOfLocs locs) = none)
    (houts : outs = (upFrom 0 p.p).map (fun j => convOut work dst (dTrunc w)
      (nth (0, 0) (lanesIn (dA w).fmt work (dTrunc w) (rawCodes c v w (dA w) (dBcast w 0) p)) j).1))
    (hbs : bs = mergeBytes ((locs.zip outs).flatMap (fun x => locBytes x.1 x.2.1)))
    (hread : (m.setVe c v).readWords c (.local 16) ((linesOf bs).filter (fun ln => bs.any (fun b => b.addr / 64 == ln && b.mask != 255))) = (a, false, m1)) :
    ∃ fl, opVeStore c u m = (m1.storeWords c bs (linesOf bs)).veIssued c e (stepsAll w .store (lanesOf work)) fl [] := by
  have hready : m.veReady c 3 = some e := by simp [Mach.veReady, hexec, hw, hop]
  refine ⟨outs.foldl (fun s x => s ||| x.2)
    (flagsAt (upFrom 0 p.p) (lanesIn (dA w).fmt work (dTrunc w) (rawCodes c v w (dA w) (dBcast w 0) p))) &&& (flNan ||| flSat ||| flRange), ?_⟩
  subst hw hp hv hlocs houts hbs
  simp only [opVeStore, hready, hwork, hdst, Mach.ve_setVe, hwait, hgood, actLanes_unmasked hmask, treeMask_unmasked hmask, hheld, hfree, hread,
    Bool.false_eq_true, if_false]

end

end

/-- Settles O9, by the words' grant, refusal and reading. -/
theorem vectorLoadsAndStores : Obligations.VectorLoadsAndStores := by
  unfold Obligations.VectorLoadsAndStores
  intro c u s e work w p halive hexec hw hwork hmask
  refine ⟨fun src locs a m1 hop hsrc hp hlocs hheld => ⟨fun hfree hread => ?_, fun x hrefused => ?_⟩,
    fun dst v outs locs bs a m0 m1 hop hdst hp hv hm0 hwait hgood houts hlocs hheld hbs => ?_⟩
  · obtain ⟨i, rf, hiw, hiwork, hiat, hiact, hia, heq⟩ := opVeLoad_of_read hexec hw hwork hmask hop hsrc hp hlocs hheld hfree hread
    exact ⟨i, rf, hiw, hiwork, hiat, hiact, hia, State.on_of_eq halive heq⟩
  · exact State.on_of_eq halive (opVeLoad_of_refused hexec hw hwork hmask hop hsrc hp hlocs hheld hrefused)
  · subst hm0
    refine ⟨fun hfree hread => ?_, fun x hrefused => ?_⟩
    · obtain ⟨fl, heq⟩ := opVeStore_of_merged hexec hw hwork hmask hop hdst hp hv hwait hgood hlocs hheld hfree houts hbs hread
      exact ⟨fl, State.on_of_eq halive heq⟩
    · exact State.on_of_eq halive (opVeStore_of_refused hexec hw hwork hmask hop hdst hp hv hwait hgood hlocs hheld hrefused)

end Sys2Proof.Machine
end

section
/-! An arbiter's cycle and its other commands (09 R213 to R218, 06 R136). -/

namespace Sys2Proof.Machine

/-- The record of a cutoff of the holder h. -/
def CutRecord (n : Mach) (h : Holder) : ArbId → Prop
  | .bankA b => n.rd F.bankCutoffId (clIx (b.val / 16)) = h.idx % 2 ^ F.bankCutoffId.width ∧ n.rd F.bankCutoffValid (clIx (b.val / 16)) = 1
  | .bankB b => n.rd F.bankCutoffId (clIx (b.val / 16)) = h.id % 2 ^ F.bankCutoffId.width ∧ n.rd F.bankCutoffValid (clIx (b.val / 16)) = 1
  | .far c => n.rd F.farCutoffId (farIx c.val) = h.id % 2 ^ F.farCutoffId.width ∧ n.rd F.farCutoffValid (farIx c.val) = 1
  | .proxy => n.rd F.hlCutoffId 6 = h.id % 2 ^ F.hlCutoffId.width ∧ n.rd F.hlCutoffValid 6 = 1

section
variable {m : Mach} {a : ArbId} {x : Arb} (hx : m.arb a = x)
include hx

/-- A cycle in which nothing holds the arbiter. -/
theorem opArbiterGrant_of_free {rs live asking good : List ArbReq} {m1 m2 : Mach} (hholder : x.holder = none) (hemergency : x.emergency = false)
    (hlive : live = rs.filter (fun r => reqFits a r && !bitOf r.idx x.masked)) (hasking : asking = live.filter (fun r => !bitOf r.idx x.backoff))
    (hgood : good = asking.filter (fun r => m.arbSay a r == .go))
    (hm1 : m1 = (live.filter (fun r => bitOf r.idx x.backoff)).foldl (fun m r => m.waited a r.idx) m)
    (hm2 : m2 = asking.foldl (fun m r => m.turnAway a r) m1) :
    opArbiterGrant a rs m = match m2.winner a good with
      | none => m2
      | some w => ((good.filter (fun r => r.idx != w.idx)).foldl (fun m r => (m.setArb a ((m.arb a).lose r.idx)).waited a r.idx) m2).grant a w := by
  subst hm2 hm1 hgood hasking hlive
  simp only [opArbiterGrant, hx, hholder, hemergency, Option.isSome_none, Bool.or_self, Bool.false_eq_true, if_false] <;> rfl

theorem opArbiterGrant_of_held {rs : List ArbReq} (h : x.holder.isSome = true ∨ x.emergency = true) :
    opArbiterGrant a rs m = (rs.filter (fun r => reqFits a r && !bitOf r.idx x.masked)).foldl (fun m r => m.waited a r.idx) m := by
  have hheld : (x.holder.isSome || x.emergency) = true := by simpa using h
  simp only [opArbiterGrant, hx, hheld, if_true]

theorem opBackoffExpiry_eq (i : Nat) : opBackoffExpiry a i m = m.setArb a { x with backoff := clearBit i x.backoff } := by rw [opBackoffExpiry, hx]

theorem opHoldMaxCutoff_of_holder {h : Holder} (hholder : x.holder = some h) (segs : Nat) :
    opHoldMaxCutoff a segs m = if a = .proxy then (m.cutOff a).pipeCut h.idx segs true else m.cutOff a := by
  cases a <;> simp [opHoldMaxCutoff, hx, hholder]

/-- The record of a cutoff, and what it leaves. -/
theorem Mach.cutOff_spec {h : Holder} (hholder : x.holder = some h)
    (hfar : ∀ c, a = .far c → (m.farCh c.val).step = 0 ∧ (m.farCh c.val).mode = .normal ∧ (m.farCh c.val).pause = false) :
    (m.cutOff a).arb a = ({ x with holder := none } : Arb).lose h.idx ∧ (a = .proxy → (m.cutOff a).hl = m.hl) ∧
      CutRecord (m.cutOff a) h a := by
  have hone : 1 % 2 ^ F.bankCutoffValid.width = 1 ∧ 1 % 2 ^ F.farCutoffValid.width = 1 ∧ 1 % 2 ^ F.hlCutoffValid.width = 1 := by decide
  cases a with
  | bankA b => simp (disch := decide) [Mach.cutOff, hx, hholder, CutRecord, Mach.dropXfer, Mach.rd_wr_ne, hone]
  | bankB b => simp (disch := decide) [Mach.cutOff, hx, hholder, CutRecord, Mach.dropXfer, Mach.rd_wr_ne, hone]
  | far c =>
    obtain ⟨hstep, hmode, hpause⟩ := hfar c rfl
    simp (disch := decide) [Mach.cutOff, hx, hholder, CutRecord, hstep, hmode, hpause, Mach.dropXfer, Mach.rd_wr_ne, hone]
  | proxy => simp (disch := decide) [Mach.cutOff, hx, hholder, CutRecord, Mach.dropXfer, Mach.rd_wr_ne, hone]

theorem Mach.cutOff_of_busy {h : Holder} {c : Fin 24} (ha : a = .far c) (hholder : x.holder = some h)
    (hbusy : (m.farCh c.val).step ≠ 0 ∨ (m.farCh c.val).mode ≠ .normal ∨ (m.farCh c.val).pause = true) : m.cutOff a = m := by
  subst ha
  simp only [Mach.cutOff, hx, hholder]
  exact if_pos hbusy

theorem opEmergencyHold_take (hfree : x.emergency = false) :
    (opEmergencyHold a true m).arb a = { x with emergency := true, suspended := x.holder, holder := none } ∧ (opEmergencyHold a true m).fields = m.fields := by
  have htouched : ∀ (m : Mach) (b : Nat), (m.marchTouched b).arb a = m.arb a ∧ (m.marchTouched b).fields = m.fields := fun m b => by
    simp only [Mach.marchTouched]
    split <;> exact ⟨rfl, rfl⟩
  cases a <;> simp [opEmergencyHold, hx, hfree, htouched]

theorem opEmergencyHold_give (htaken : x.emergency = true) :
    opEmergencyHold a false m = m.setArb a { x with emergency := false, holder := x.suspended, suspended := none } := by
  simp [opEmergencyHold, hx, htaken]

theorem opRequesterMask_off (i segs : Nat) : opRequesterMask a i false segs m = m.setArb a { x with masked := clearBit i x.masked } := by
  simp [opRequesterMask, Mach.mask, hx]

/-- A masked requester is masked, waits in no back-off, has lost nothing and does not hold the arbiter. -/
theorem Mach.mask_arb (i : Nat) : ((m.mask a i true).arb a).masked = setBit i x.masked ∧ ((m.mask a i true).arb a).backoff = clearBit i x.backoff ∧
    ((m.mask a i true).arb a).losses = SMap.put 0 i 0 x.losses ∧ ∀ h, ((m.mask a i true).arb a).holder = some h → h.idx ≠ i := by
  have hdrop : ∀ (m : Mach) (h : Holder), (m.dropXfer a h).arb a = m.arb a := fun m h => by cases a <;> rfl
  cases hholder : x.holder with
  | some h =>
    by_cases hi : h.idx = i
    · simp [Mach.mask, hx, hholder, hi, hdrop]
    · simp [Mach.mask, hx, hholder, hi]
  | none =>
    cases hsuspended : x.suspended with
    | none => simp [Mach.mask, hx, hholder, hsuspended]
    | some h =>
      by_cases hi : h.idx = i
      · simp [Mach.mask, hx, hholder, hsuspended, hi, hdrop]
      · simp [Mach.mask, hx, hholder, hsuspended, hi]

end

/-- Settles O11, command by command. -/
theorem arbiterCommands : Obligations.ArbiterCommands := by
  unfold Obligations.ArbiterCommands
  intro a s x halive hx
  refine ⟨fun rs live asking good m1 m2 m3 hholder hemergency hlive hasking hgood hm1 hm2 => ?_, fun rs h => ?_, fun i => ?_,
    fun h segs m1 hholder hm1 hfar => ?_, fun c h segs ha hholder hbusy => ?_, fun hfree => ?_, fun htaken => ?_, fun i segs => ?_, fun i segs m1 hm1 => ?_⟩
  · have heq := opArbiterGrant_of_free hx hholder hemergency hlive hasking hgood hm1 hm2
    refine ⟨fun hnone => State.on_of_eq halive (by rw [heq, hnone]; rfl), fun w hw hm3 => State.on_of_eq halive (by rw [heq, hw, hm3])⟩
  · exact State.on_of_eq halive (opArbiterGrant_of_held hx h)
  · exact State.on_of_eq halive (opBackoffExpiry_eq hx i)
  · subst hm1
    obtain ⟨harb, hhl, hrecord⟩ := Mach.cutOff_spec hx hholder hfar
    refine ⟨State.on_of_eq halive (opHoldMaxCutoff_of_holder hx hholder segs), harb, by simp, hhl, ?_⟩
    cases a <;> exact hrecord
  · refine State.on_of_same ((opHoldMaxCutoff_of_holder hx hholder segs).trans ((if_neg (by simp [ha])).trans ?_))
    exact Mach.cutOff_of_busy hx ha hholder hbusy
  · obtain ⟨harb, hfields⟩ := opEmergencyHold_take hx hfree
    exact ⟨_, State.on_of_eq halive rfl, harb, by simp, hfields⟩
  · exact State.on_of_eq halive (opEmergencyHold_give hx htaken)
  · exact State.on_of_eq halive (opRequesterMask_off hx i segs)
  · subst hm1
    obtain ⟨hmasked, hbackoff, hlosses, hholder⟩ := Mach.mask_arb hx i
    refine ⟨fun ha => State.on_of_eq halive (by simp [opRequesterMask, ha]), fun ha => State.on_of_eq halive ?_, hmasked, hbackoff, hlosses, hholder, by simp⟩
    subst ha
    simp [opRequesterMask, hx]

end Sys2Proof.Machine
end

section
/-! The commands of a bank: beats, atomics, ownership and handover (06 R126, R127, R130, R131, R134). -/

namespace Sys2Proof.Machine

/-! What a word's reading and writing leave: outputs and bank queues -/

theorem Mach.upsetLanes_beside (c : Nat) (l : List Nat) (m : Mach) :
    (m.upsetLanes c l).out = m.out ∧ (m.upsetLanes c l).bankOut = m.bankOut ∧ (m.upsetLanes c l).fields = m.fields ∧ (m.upsetLanes c l).mem = m.mem ∧
      (m.upsetLanes c l).arbs = m.arbs := by
  induction l generalizing m with
  | nil => exact ⟨rfl, rfl, rfl, rfl, rfl⟩
  | cons x l ih => exact ih (m.setLaneBad (laneOf (clusterBase c) + x) true)

theorem Mach.parityFail_beside (m : Mach) (b a lane : Nat) :
    (m.parityFail b a lane).out = m.out ∧ (m.parityFail b a lane).bankOut = m.bankOut ∧ (m.parityFail b a lane).mem = m.mem := by
  simp only [Mach.parityFail, Mach.wr_out, Mach.wr_bankOut, Mach.wr_mem, Mach.cnt_out, Mach.cnt_bankOut, Mach.cnt_mem, and_self]

theorem Mach.readWord_beside (m : Mach) (b a : Nat) : (m.readWord b a).2.2.out = m.out ∧ (m.readWord b a).2.2.bankOut = m.bankOut := by
  unfold Mach.readWord
  split
  · exact ⟨rfl, rfl⟩
  · exact ⟨(m.parityFail_beside ..).1, (m.parityFail_beside ..).2.1⟩

theorem Mach.freshLanes_beside (a : Nat) (en : List Bool) (l : List Nat) (m : Mach) :
    (m.freshLanes a en l).out = m.out ∧ (m.freshLanes a en l).bankOut = m.bankOut := by
  induction l generalizing m with
  | nil => exact ⟨rfl, rfl⟩
  | cons i l ih =>
    rw [Mach.freshLanes]
    split
    · exact ih (m.setLaneBad (laneOf a + i) false)
    · exact ih m

theorem Mach.putEn_beside (data : List Byte) (m : Mach) (a : Nat) (en : List Bool) :
    (m.putEn a data en).out = m.out ∧ (m.putEn a data en).bankOut = m.bankOut := by
  induction data generalizing m a en with
  | nil => exact ⟨rfl, rfl⟩
  | cons b l ih =>
    cases en with
    | nil => exact ⟨rfl, rfl⟩
    | cons e es =>
      rw [Mach.putEn]
      split
      · exact ih (m.putByte a b) (a + 1) es
      · exact ih m (a + 1) es

/-- What bytes under enables make of memory follows from memory alone. -/
theorem Mach.putEn_mem_congr (data : List Byte) {m n : Mach} (h : m.mem = n.mem) (a : Nat) (en : List Bool) :
    (m.putEn a data en).mem = (n.putEn a data en).mem := by
  induction data generalizing m n a en with
  | nil => exact h
  | cons b l ih =>
    cases en with
    | nil => exact h
    | cons e es =>
      rw [Mach.putEn, Mach.putEn]
      split
      · exact ih (by rw [Mach.putByte, Mach.putByte, h]) (a + 1) es
      · exact ih h (a + 1) es

theorem Mach.writeWord_spec (m : Mach) (b a : Nat) (data : List Byte) (en : List Bool) :
    (m.writeWord b a data en).out = m.out ∧ (m.writeWord b a data en).bankOut = m.bankOut ∧
      (m.writeWord b a data en).mem = (m.putEn a data en).mem := by
  obtain ⟨hout, hbank⟩ := Mach.freshLanes_beside a en (upFrom 0 16) (m.putEn a data en)
  obtain ⟨hout', hbank'⟩ := Mach.putEn_beside data m a en
  have hmem := ((m.putEn a data en).freshLanes_frame a en (upFrom 0 16)).1
  simp only [Mach.writeWord]
  split
  · exact ⟨hout.trans hout', hbank.trans hbank', hmem⟩
  · next lane _ _ =>
    obtain ⟨ho, hb, hm⟩ := ((m.putEn a data en).freshLanes a en (upFrom 0 16)).parityFail_beside b a lane
    exact ⟨ho.trans (hout.trans hout'), hb.trans (hbank.trans hbank'), hm.trans hmem⟩

theorem Mach.release_beside (m : Mach) (a : ArbId) (i : Nat) :
    (m.release a i).out = m.out ∧ (m.release a i).bankOut = m.bankOut ∧ (m.release a i).fields = m.fields ∧ (m.release a i).mem = m.mem := by
  simp only [Mach.release]
  split
  · split <;> exact ⟨rfl, rfl, rfl, rfl⟩
  · exact ⟨rfl, rfl, rfl, rfl⟩

/-- An access whose last beat is done leaves its queue. -/
theorem Mach.beatDone_spec {m : Mach} {b : Nat} {portB : Bool} {x : Beat} {q : BankAcc} {l : List BankAcc} (hwhole : x.acc.n ≤ x.k)
    (hqueue : m.bankQ b portB = q :: l) :
    (m.beatDone b portB x).out = m.out ∧ (m.beatDone b portB x).bankQ b portB = l ∧ (m.beatDone b portB x).fields = m.fields ∧
      (m.beatDone b portB x).mem = m.mem := by
  simp only [Mach.beatDone, if_pos hwhole, hqueue, List.drop_one, List.tail_cons]
  generalize (if portB = true then ArbId.bankB (Fin.ofNat 960 b) else ArbId.bankA (Fin.ofNat 960 b)) = a
  obtain ⟨hout, hbank, hfields, hmem⟩ := (m.setBankQ b portB l).release_beside a x.acc.idx
  refine ⟨hout, ?_, hfields, hmem⟩
  rw [Mach.bankQ, hbank]
  exact m.bankQ_setBankQ b portB l

theorem Mach.beatNow_single {m : Mach} {b : Nat} {portB : Bool} (pair : Bool) {q : BankAcc} {l : List BankAcc} (hqueue : m.bankQ b portB = q :: l)
    (hone : q.n = 1) (hfront : m.suspendedFront b portB = false) : m.beatNow b portB pair = some ⟨q, 1⟩ := by
  simp [Mach.beatNow, Mach.beat, hfront, hqueue, beatWords, hone]

/-- A beat alone in its cycle reads, then writes, then is done. -/
theorem Mach.bankOp_single {m : Mach} {b : Nat} {portB pair : Bool} {u : List Nat} {kind : BankOp → Bool} {x : Beat} (hbeat : m.beatNow b portB pair = some x)
    (hkind : kind x.acc.op = true) :
    m.bankOp b portB pair false u kind = (((m.upsetLanes (b / 16) u).doRead b x).doWrite b x).beatDone b portB x := by
  cases portB <;> simp [Mach.bankOp, hbeat, hkind, Mach.bankCycle]

section
variable {m : Mach} {b : Nat} {portB : Bool} {u : List Nat} {q : BankAcc} {l : List BankAcc} (hqueue : m.bankQ b portB = q :: l) (hone : q.n = 1)
  (hfront : m.suspendedFront b portB = false)
include hqueue hone hfront

theorem opBankRead_single {pair : Bool} {r : List Byte × Bool × Mach} (hop : q.op = .read)
    (hread : (m.upsetLanes (b / 16) u).readWord b (bankBase b + 64 * q.word) = r) : let n := opBankRead b portB pair false u m
    n.out = m.out ++ [.resp q.id rsOk r.1 (if r.2.1 then 16 else 0)] ∧ n.fields = r.2.2.fields ∧ n.mem = m.mem ∧ n.bankQ b portB = l := by
  have hdone : ((m.upsetLanes (b / 16) u).doRead b ⟨q, 1⟩).doWrite b ⟨q, 1⟩ = r.2.2.send (.resp q.id rsOk r.1 (if r.2.1 then 16 else 0)) := by
    subst hread
    simp only [Mach.doRead, Mach.doWrite, hop, isRead, if_true, Mach.readBeat, List.nil_append, Bool.false_or]
  obtain ⟨hout, hbank, -, hmem, -⟩ := Mach.upsetLanes_beside (b / 16) u m
  obtain ⟨hout', hbank'⟩ := (m.upsetLanes (b / 16) u).readWord_beside b (bankBase b + 64 * q.word)
  have hmem' := ((m.upsetLanes (b / 16) u).readWord_frame b (bankBase b + 64 * q.word)).1
  rw [hread] at hout' hbank' hmem'
  have hq : (r.2.2.send (.resp q.id rsOk r.1 (if r.2.1 then 16 else 0))).bankQ b portB = q :: l := by
    rw [Mach.bankQ, Mach.send_bankOut, hbank', hbank]; exact hqueue
  obtain ⟨ho, hl, hf, hm⟩ := Mach.beatDone_spec (x := ⟨q, 1⟩) hone.le hq
  rw [opBankRead, Mach.bankOp_single (Mach.beatNow_single pair hqueue hone hfront) (by simp [hop, isRead]), hdone]
  exact ⟨by rw [ho, Mach.out_send, hout', hout], hf, hm.trans (hmem'.trans hmem), hl⟩

theorem opBankWrite_single {pair : Bool} {d : List Byte} {en : List Bool} (hop : q.op = .write d en) : let n := opBankWrite b portB pair false u m
    n.out = m.out ∧ n.mem = (m.putEn (bankBase b + 64 * q.word) (d.take 64) (en.take 64)).mem ∧ n.bankQ b portB = l := by
  obtain ⟨hout, hbank, -, hmem, -⟩ := Mach.upsetLanes_beside (b / 16) u m
  obtain ⟨hout', hbank', hmem'⟩ := (m.upsetLanes (b / 16) u).writeWord_spec b (bankBase b + 64 * q.word) (d.take 64) (en.take 64)
  have hdone : ((m.upsetLanes (b / 16) u).doRead b ⟨q, 1⟩).doWrite b ⟨q, 1⟩ =
      (m.upsetLanes (b / 16) u).writeWord b (bankBase b + 64 * q.word) (d.take 64) (en.take 64) := by
    simp [Mach.doRead, Mach.doWrite, hop, isRead, Mach.writeBeat]
  rw [opBankWrite, Mach.bankOp_single (Mach.beatNow_single pair hqueue hone hfront) (by simp [hop, isWrite]), hdone]
  obtain ⟨ho, hl, -, hm⟩ := Mach.beatDone_spec (x := ⟨q, 1⟩) hone.le
    (show ((m.upsetLanes (b / 16) u).writeWord b (bankBase b + 64 * q.word) (d.take 64) (en.take 64)).bankQ b portB = q :: l by
      rw [Mach.bankQ, hbank', hbank]; exact hqueue)
  exact ⟨by rw [ho, hout', hout], by rw [hm, hmem']; exact Mach.putEn_mem_congr _ hmem _ _, hl⟩

end

/-- An atomic's store: k bytes at an offset of the word. -/
def Mach.putPart (m : Mach) (a off k v : Nat) : Mach :=
  m.putEn a (List.replicate off 0 ++ leBytes k v ++ List.replicate (64 - off - k) 0)
    (List.replicate off false ++ List.replicate k true ++ List.replicate (64 - off - k) false)

section
variable {m : Mach} {b : Nat} {u : List Nat} {q : BankAcc} {l : List BankAcc} (hqueue : m.bankQ b true = q :: l) (hone : q.n = 1)
  (hfront : m.suspendedFront b true = false)
include hqueue hone hfront

/-- An atomic alone in its cycle: given that it stores v and answers the old bytes. -/
theorem Mach.atomicOp_single {kind : BankOp → Bool} (hkind : kind q.op = true) {r : List Byte × Bool × Mach} {off k v old mark : Nat}
    (hread : (m.upsetLanes (b / 16) u).readWord b (bankBase b + 64 * q.word) = r)
    (hatomic : (m.upsetLanes (b / 16) u).atomic b q = (r.2.2.writeWord b (bankBase b + 64 * q.word)
      (List.replicate off 0 ++ leBytes k v ++ List.replicate (64 - off - k) 0)
      (List.replicate off false ++ List.replicate k true ++ List.replicate (64 - off - k) false)).send (.resp q.id rsOk (leBytes k old) mark)) :
    let n := m.atomicOp b false false u kind
    n.bankQ b true = l ∧ n.out = m.out ++ [.resp q.id rsOk (leBytes k old) mark] ∧ n.mem = (m.putPart (bankBase b + 64 * q.word) off k v).mem := by
  obtain ⟨hout, hbank, -, hmem, -⟩ := Mach.upsetLanes_beside (b / 16) u m
  obtain ⟨hout', hbank'⟩ := (m.upsetLanes (b / 16) u).readWord_beside b (bankBase b + 64 * q.word)
  have hmem' := ((m.upsetLanes (b / 16) u).readWord_frame b (bankBase b + 64 * q.word)).1
  rw [hread] at hout' hbank' hmem'
  obtain ⟨hout'', hbank'', hmem''⟩ := r.2.2.writeWord_spec b (bankBase b + 64 * q.word)
    (List.replicate off 0 ++ leBytes k v ++ List.replicate (64 - off - k) 0)
    (List.replicate off false ++ List.replicate k true ++ List.replicate (64 - off - k) false)
  have hop : m.atomicOp b false false u kind = ((m.upsetLanes (b / 16) u).atomic b q).beatDone b true ⟨q, 1⟩ := by
    simp [Mach.atomicOp, Mach.beatNow_single false hqueue hone hfront, hkind, Mach.earlyBeat, Mach.lateWrite]
  have hq : ((m.upsetLanes (b / 16) u).atomic b q).bankQ b true = q :: l := by
    rw [hatomic, Mach.bankQ, Mach.send_bankOut, hbank'', hbank', hbank]; exact hqueue
  obtain ⟨ho, hl, -, hm⟩ := Mach.beatDone_spec (x := ⟨q, 1⟩) hone.le hq
  rw [hop]
  refine ⟨hl, ?_, ?_⟩
  · rw [ho, hatomic, Mach.out_send, hout'', hout', hout]
  · rw [hm, hatomic, Mach.send_mem, hmem'', Mach.putPart]
    exact Mach.putEn_mem_congr _ (hmem'.trans hmem) _ _

end

section
variable {m : Mach} {b g : Nat}

theorem opBankOwnerWrite_of_legal (hlegal : F.bankOwnerGroup.isLegal g = true) (hpending : m.on F.bankOwnerPending (bankIx b) = false) :
    opBankOwnerWrite b g m = if g = m.rd F.bankOwnerCurrent (bankIx b) then (m.wr F.bankOwnerGroup (bankIx b) g).handedOver b
      else ((m.wr F.bankOwnerGroup (bankIx b) g).wr F.bankOwnerPending (bankIx b) 1).markOld b := by
  simp [opBankOwnerWrite, hlegal, hpending]

theorem opHandoverDone_of_drained (hpending : m.on F.bankOwnerPending (bankIx b) = true) (hold : ∀ q ∈ m.bankQ b false ++ m.bankQ b true, q.oldGroup = false) :
    opHandoverDone b m = ((m.wr F.bankOwnerCurrent (bankIx b) (m.rd F.bankOwnerGroup (bankIx b))).wr F.bankOwnerPending (bankIx b) 0).handedOver b := by
  have hnone : (m.bankQ b false ++ m.bankQ b true).any (fun q => q.oldGroup) = false := by
    rw [List.any_eq_false]
    exact fun q hq => by simp [hold q hq]
  simp only [opHandoverDone, hpending, hnone, Bool.not_false, Bool.and_self, if_true]

end

/-- Settles O13, by the beat at the front of its queue, and by the owner's group. -/
theorem bankCommands : Obligations.BankCommands := by
  unfold Obligations.BankCommands
  intro b s halive
  refine ⟨fun portB pair same u x m0 other hbeat hm0 hother => ?_, fun portB pair u q l r hqueue hop hone hfront hread => ?_,
    fun portB pair u q l d en hqueue hop hone hfront => ?_, fun u q l wide off v k old r hqueue hone hfront hk hread hold => ?_,
    fun g hlegal hpending => ?_, fun g hlegal => ?_, fun hpending hold => ?_⟩
  · subst hm0 hother
    refine ⟨fun hkind => State.on_of_eq halive ?_, fun hkind => State.on_of_eq halive ?_⟩
    · simp only [opBankRead, Mach.bankOp, hbeat, hkind, if_true]
    · simp only [opBankWrite, Mach.bankOp, hbeat, hkind, if_true]
  · obtain ⟨hout, hfields, hmem, hl⟩ := opBankRead_single (pair := pair) hqueue hone hfront hop hread
    exact ⟨_, State.on_of_eq halive rfl, hout, hmem, hfields, hl, rfl⟩
  · obtain ⟨hout, hmem, hl⟩ := opBankWrite_single (u := u) (pair := pair) hqueue hone hfront hop
    exact ⟨_, State.on_of_eq halive rfl, hl, rfl, hout, hmem⟩
  · refine ⟨fun hop => ?_, fun hop => ?_⟩
    · obtain ⟨hl, hout, hmem⟩ := Mach.atomicOp_single (off := off) (k := k) (v := (satSum (8 * k) old v).1) (old := old)
        (mark := (if (satSum (8 * k) old v).2 then 8 else 0) + (if r.2.1 then 16 else 0)) hqueue hone hfront
        (kind := fun o => match o with
          | .add _ _ _ => true
          | _ => false) (by rw [hop]) hread (by subst hread hk hold; simp only [Mach.atomic, hop, if_true])
      exact ⟨_, State.on_of_eq halive rfl, hl, rfl, hout, hmem⟩
    · obtain ⟨hl, hout, hmem⟩ := Mach.atomicOp_single (off := off) (k := k) (v := v % 2 ^ (8 * k)) (old := old)
        (mark := if r.2.1 then 16 else 0) hqueue hone hfront
        (kind := fun o => match o with
          | .swap _ _ _ => true
          | _ => false) (by rw [hop]) hread (by subst hread hk hold; simp [Mach.atomic, hop])
      exact ⟨_, State.on_of_eq halive rfl, hl, rfl, hout, hmem⟩
  · have heq := opBankOwnerWrite_of_legal hlegal hpending
    exact ⟨fun h => State.on_of_eq halive (heq.trans (if_pos h)), fun h => State.on_of_eq halive (heq.trans (if_neg h))⟩
  · exact State.on_of_same (if_pos (by simp [hlegal]))
  · exact State.on_of_eq halive (opHandoverDone_of_drained hpending hold)

end Sys2Proof.Machine
end

section
/-! The near tier: bursts, re-reads, retirement, refresh and temperature (06 R139, R141 to R146). -/

namespace Sys2Proof.Machine

theorem nearDom_of_place {m : Mach} {addr d o : Nat} (h : placeOf m.fuses addr = .near d o) : nearDom m addr = .near d := by
  unfold nearDom
  rw [h]

section
variable {m : Mach} {d o who addr : Nat} (hplace : placeOf m.fuses addr = .near d o)
include hplace

theorem opNearBurstRead_eq (bad : Bool) : opNearBurstRead who addr bad m =
    if m.nearSay d o who ≠ 0 then m.nearRefuse d (m.nearSay d o who) who
    else if nearFull m.near.waits d (addr / 64 * 64) then m
    else if nearBlocked m.near.waits d who (addr / 64 * 64) then m.setWaits (m.near.waits ++ [⟨d, who, addr / 64 * 64, none, false⟩])
    else if bad || m.nearIsBad (addr / 64 * 64) then m.setWaits (m.near.waits ++ [⟨d, who, addr / 64 * 64, none, true⟩])
    else m.send (.resp who rsOk (m.bytes (addr / 64 * 64) 64) 0) := by
  simp only [opNearBurstRead, hplace]

theorem opNearBurstWrite_eq (data : List Byte) (en : List Bool) (bad : Bool) : opNearBurstWrite who addr data en bad m =
    if m.nearSay d o who ≠ 0 then m.nearRefuse d (m.nearSay d o who) who
    else if nearFull m.near.waits d (addr / 64 * 64) then m
    else if nearBlocked m.near.waits d who (addr / 64 * 64) then
      (m.setWaits (m.near.waits ++ [⟨d, who, addr / 64 * 64, some (data, en), false⟩])).respond who rsOk
    else (m.nearPut (addr / 64 * 64) data en bad).respond who rsOk := by
  simp only [opNearBurstWrite, hplace]

end

theorem Mach.nearSay_closed {m : Mach} {d : Nat} (o : Nat) {who : Nat} (hhealth : who ≠ idHealth) (htest : who ≠ idTest)
    (hclosed : m.on F.nearCtrlAccept d = false) : m.nearSay d o who = 3 := by
  simp [Mach.nearSay, exempt, hhealth, htest, hclosed]

theorem Mach.nearSay_retired {m : Mach} {d o who : Nat} (hhealth : who ≠ idHealth) (htest : who ≠ idTest) (hopen : m.on F.nearCtrlAccept d = true)
    (ho : o < tableOff) (htabs : ∀ x ∈ m.alm.tabs, x.2 ≠ (nearBase d + o) / 0x200000 + 1) (hretired : m.isRetired d (nearPage o) = true) :
    m.nearSay d o who = 2 := by
  have htable : (decide (tableOff ≤ o) || m.alm.tabs.any (fun x => x.2 == (nearBase d + o) / 0x200000 + 1)) = false := by
    rw [Bool.or_eq_false_iff, List.any_eq_false]
    exact ⟨by simpa using ho, fun x hx => by simpa using htabs x hx⟩
  simp only [Mach.nearSay, exempt, hopen, htable, hretired]
  simp [hhealth, htest]

theorem Mach.nearPut_spec (m : Mach) (a : Nat) (data : List Byte) (en : List Bool) (bad : Bool) :
    (m.nearPut a data en bad).mem = (m.putEn a (data.take 64) (en.take 64)).mem ∧ (m.nearPut a data en bad).fields = m.fields ∧
      (m.nearPut a data en bad).out = m.out := by
  have hfields : ∀ (l : List Byte) (m : Mach) (a : Nat) (en : List Bool), (m.putEn a l en).fields = m.fields := by
    intro l
    induction l with
    | nil => exact fun _ _ _ => rfl
    | cons b l ih =>
      intro m a en
      cases en with
      | nil => rfl
      | cons e es =>
        rw [Mach.putEn, ih]
        split <;> rfl
  exact ⟨rfl, hfields _ m a _, (Mach.putEn_beside _ m a _).1⟩

/-- The places of NEAR_RETIRE and of a die's near registers are small. -/
theorem nearPlace_lt {d i : Nat} (hd : d < 6) (hi : i < 256) : ix d i 0 0 < 2 ^ 24 := by simp only [ix]; omega

/-- Retiring a page writes NEAR_RETIRE, its count, or the event that it is full. -/
theorem Mach.retirePage_rd (m : Mach) {d : Nat} (hd : d < 6) (page : Nat) {g : Fld}
    (hg : g.id ≠ F.nearEventsRetireFull.id ∧ g.id ≠ F.nearRetirePage.id ∧ g.id ≠ F.nearRetireValid.id ∧ g.id ≠ F.nearRetireCountCount.id) :
    (m.retirePage d page).rd g d = m.rd g d := by
  obtain ⟨hfull, hpage, hvalid, hcount⟩ := hg
  have hdie : d < 2 ^ 24 := by omega
  simp only [Mach.retirePage]
  split
  · rfl
  · split
    · exact m.rd_ev_ne _ _ _ hfull
    · next i hi =>
      have hplace : ix d i 0 0 < 2 ^ 24 := nearPlace_lt hd (by simpa using (mem_upFrom.mp (List.mem_of_find?_eq_some hi)).2)
      rw [Mach.rd_wr_ne _ _ _ _ _ hcount, Mach.rd_wr_of_id_ne _ _ hvalid hdie hplace, Mach.rd_wr_of_id_ne _ _ hpage hdie hplace]
      rfl

theorem Mach.nearFailed_spec (m : Mach) {d : Nat} (hd : d < 6) (o who : Nat) : (m.nearFailed d o who).on F.nearEventsCrcFail2 d = true ∧
    (m.nearFailed d o who).rd F.nearFailAddrHiChannel d = nearChannel o % 2 ^ F.nearFailAddrHiChannel.width := by
  have hone : 1 % 2 ^ F.nearEventsCrcFail2.width = 1 := by decide
  simp only [Mach.nearFailed, Mach.on, Mach.send_rd]
  rw [Mach.retirePage_rd _ hd _ (by decide), Mach.retirePage_rd _ hd _ (by decide)]
  simp (disch := decide) [Mach.rd_wr_ne, Mach.rd_cnt_ne, hone]

theorem opNearReread_eq {m : Mach} {d : Nat} {w : NearWait} (bad : Bool) (hw : m.near.waits.find? (fun w => w.die == d && w.reread) = some w) :
    opNearReread d bad m = (if bad || m.nearIsBad w.addr then
        ((m.setWaits (m.near.waits.erase w)).nearFailed d (w.addr - nearBase d) w.who).send (.resp w.who rsOk (m.bytes w.addr 64) 2)
      else (((m.setWaits (m.near.waits.erase w)).ev F.nearEventsRereadOk d).cnt F.nearRereads d 1).send
        (.resp w.who rsOk (m.bytes w.addr 64) 1)).nearDrain [] (m.near.waits.erase w) := by
  simp only [opNearReread, hw]

theorem opNearHotRestore_of_cool {m : Mach} {d : Nat}
    (h : ∀ k ∈ upFrom 0 4, layerTemp m d k ≠ -32768 ∧ layerTemp m d k ≤ 8 * ((m.rd F.nearRefreshHot d : Int) - 5)) :
    opNearHotRestore d m = m.wr F.nearStatusHot d 0 := by
  refine if_pos (List.all_eq_true.mpr fun k hk => ?_)
  obtain ⟨hread, hcool⟩ := h k hk
  rw [Bool.and_eq_true]
  exact ⟨decide_eq_true hread, decide_eq_true hcool⟩

theorem opNearRefresh_spec (m : Mach) (d h : Nat) :
    SMap.get 0 (d * 256 + h) (opNearRefresh d h m).near.turn = (SMap.get 0 (d * 256 + h) m.near.turn + 1) % 16 ∧
      ∀ k, k < 4 → 8 * (m.rd F.nearRefreshHot d : Int) < layerTemp m d k → (opNearRefresh d h m).rd F.nearStatusHot d = 1 := by
  simp only [opNearRefresh, Mach.nearHot]
  refine ⟨?_, fun k hk hhot => ?_⟩
  · split <;> simp
  · rw [if_pos (List.any_eq_true.mpr ⟨k, mem_upFrom.mpr ⟨by omega, by omega⟩, decide_eq_true hhot⟩)]
    exact (Mach.rd_wr _ _ _ _).trans (by decide)

/-- Settles O14, by what the tier says to an access and by the queue before it. -/
theorem nearTierCommands : Obligations.NearTierCommands := by
  unfold Obligations.NearTierCommands
  intro d s halive
  refine ⟨fun who addr o a bad hplace ha => ?_, fun w rest bad m1 m2 hw hrest hm1 hgood hbad => ?_, fun h => ?_, fun h hrefresh => ?_⟩
  · subst ha
    have hdom : s.m.alive (nearDom s.m addr) = true := by rw [nearDom_of_place hplace]; exact halive
    have hr := opNearBurstRead_eq (who := who) hplace bad
    have hw := fun data en => opNearBurstWrite_eq (who := who) hplace data en bad
    refine ⟨fun hsay hfull => ?_, fun hsay hfull hblocked => ?_, fun hsay hfull hblocked => ⟨fun hread => ?_, fun hread => ?_, fun data en => ?_⟩,
      fun hhealth htest hclosed => ?_, fun hhealth htest hopen ho htabs hretired => ?_⟩
    · exact ⟨State.on_of_same (by rw [hr]; simp [hsay, hfull]), fun data en => State.on_of_same (by rw [hw]; simp [hsay, hfull])⟩
    · exact ⟨State.on_of_eq hdom (by rw [hr]; simp [hsay, hfull, hblocked]),
        fun data en => State.on_of_eq hdom (by rw [hw]; simp [hsay, hfull, hblocked])⟩
    · exact State.on_of_eq hdom (by rw [hr, hread]; simp [hsay, hfull, hblocked])
    · exact State.on_of_eq hdom (by rw [hr, hread]; simp [hsay, hfull, hblocked])
    · obtain ⟨hmem, hfields, hout⟩ := s.m.nearPut_spec (addr / 64 * 64) data en bad
      refine ⟨_, State.on_of_eq hdom (m := (s.m.nearPut (addr / 64 * 64) data en bad).respond who rsOk) ?_, hmem, hfields, ?_, rfl⟩
      · rw [hw]; simp [hsay, hfull, hblocked]
      · rw [Mach.respond, Mach.out_send, hout]
    · have hsay := Mach.nearSay_closed o hhealth htest hclosed
      exact ⟨State.on_of_eq hdom (by rw [hr]; simp [hsay, Mach.nearRefuse]), fun data en => State.on_of_eq hdom (by rw [hw]; simp [hsay, Mach.nearRefuse])⟩
    · have hsay := Mach.nearSay_retired hhealth htest hopen ho htabs hretired
      exact ⟨State.on_of_eq hdom (by rw [hr]; simp [hsay, Mach.nearRefuse]), fun data en => State.on_of_eq hdom (by rw [hw]; simp [hsay, Mach.nearRefuse])⟩
  · subst hrest hm1
    refine ⟨State.on_of_eq halive ((opNearReread_eq bad hw).trans ?_), fun o who => ?_⟩
    · by_cases h : (bad || s.m.nearIsBad w.addr) = true
      · rw [if_pos h, hbad h]
      · rw [if_neg h, hgood (by simpa using h)]
    · obtain ⟨hevent, hchannel⟩ := (s.m.setWaits (s.m.near.waits.erase w)).nearFailed_spec d.isLt o who
      exact ⟨hevent, by simp, hchannel⟩
  · exact State.on_of_eq halive (opNearHotRestore_of_cool h)
  · obtain ⟨hturn, hhot⟩ := opNearRefresh_spec s.m d.val h.val
    exact ⟨_, State.on_of_eq hrefresh rfl, by simp, hturn, hhot⟩

end Sys2Proof.Machine
end

section
/-! Bursts of a far channel: admitted, issued, delivered, re-read or lost (09 R200 to R203, R207, R209, R210). -/

namespace Sys2Proof.Machine

/-! The next unit of a transfer (R200, R201) -/

/-- Whether a unit's enables write every byte of it. -/
def wholeUnit (en : List Bool) (k : Nat) : Bool := decide (k = 64) && (en.take 64).all id && decide (64 ≤ en.length)

/-- The bytes of a transfer in its first unit. -/
def FarXfer.first (t : FarXfer) : Nat := min t.left (64 - (t.p - t.p / 64 * 64))

/-- Whether the first unit is merged into what the unit holds. -/
def FarXfer.merges (t : FarXfer) : Bool :=
  match t.data with
  | some d => !wholeUnit d.2 t.first
  | none => false

/-- Whether the bytes after the first unit may go with it. -/
def FarXfer.pairs (t : FarXfer) : Bool :=
  match t.data with
  | some d => wholeUnit (d.2.drop t.first) (min (t.left - t.first) 64)
  | none => decide (0 < min (t.left - t.first) 64)

/-- Whether a burst takes two units. -/
def FarXfer.two (t : FarXfer) : Bool := t.p / 64 * 64 % 128 == 0 && decide (0 < min (t.left - t.first) 64) && t.pairs && !t.merges

/-- The bytes that the next burst takes. -/
def FarXfer.taken (t : FarXfer) : Nat := if t.two then t.first + min (t.left - t.first) 64 else t.first

/-- The next burst of a transfer. -/
def FarXfer.burst (t : FarXfer) : FarBurst :=
  { id := t.id, p := t.p / 64 * 64, units := if t.two then 2 else 1,
    data := t.data.map (fun d => (List.replicate (t.p - t.p / 64 * 64) 0 ++ d.1.take t.taken, List.replicate (t.p - t.p / 64 * 64) false ++ d.2.take t.taken)),
    merged := t.merges }

/-- What the next burst leaves of a transfer. -/
def FarXfer.rest (t : FarXfer) : FarXfer :=
  { t with p := t.p + t.taken, left := t.left - t.taken, data := t.data.map (fun d => (d.1.drop t.taken, d.2.drop t.taken)) }

theorem opFarAdmit_eq {m : Mach} {h : Fin 24} {x : FarCh} {t : FarXfer} (hx : m.farCh h.val = x) (hxfer : x.xfer = some t) (hroom : x.queue.length < 16)
    (hfree : (m.arb (.far h)).emergency = false) {m1 : Mach}
    (hm1 : m1 = m.setFar h.val { x with queue := x.queue ++ [.burst t.burst], xfer := if t.left - t.taken = 0 then none else some t.rest }) :
    opFarAdmit h.val m = if t.left - t.taken = 0 then
        (if t.data.isSome then (m1.setArb (.far h) { m.arb (.far h) with holder := none }).respond t.id rsOk
          else m1.setArb (.far h) { m.arb (.far h) with holder := none })
      else m1 := by
  have hfin : Fin.ofNat 24 h.val = h := Fin.ofNat_val_eq_self h
  have hgo : (decide (16 ≤ x.queue.length) || (m.arb (.far h)).emergency) = false := by simp [hroom, hfree]
  subst hm1
  simp only [opFarAdmit, hx, hxfer, hfin, hgo, Bool.false_eq_true, if_false]
  rfl

theorem FarXfer.first_eq (t : FarXfer) : t.first = min t.left (64 - t.p % 64) := by
  have : t.p - t.p / 64 * 64 = t.p % 64 := by omega
  rw [FarXfer.first, this]

theorem FarXfer.two_of_read {t : FarXfer} (hdata : t.data = none) : t.two = (decide (t.p / 64 % 2 = 0) && decide (t.first < t.left)) := by
  simp only [FarXfer.two, FarXfer.pairs, FarXfer.merges, hdata, Bool.not_false, Bool.and_true]
  rw [Bool.eq_iff_iff]
  simp
  omega

theorem FarXfer.two_of_write {t : FarXfer} {d : List Byte × List Bool} (hdata : t.data = some d) (htwo : t.two = true) :
    t.merges = false ∧ t.p / 64 % 2 = 0 ∧ t.first = 64 ∧ t.first < t.left := by
  simp only [FarXfer.two, Bool.and_eq_true, beq_iff_eq, decide_eq_true_eq, Bool.not_eq_true'] at htwo
  obtain ⟨⟨⟨hp, hmore⟩, -⟩, hmerges⟩ := htwo
  have hfirst : t.first = 64 := by
    rw [FarXfer.merges, hdata, Bool.not_eq_false'] at hmerges
    simp only [wholeUnit, Bool.and_eq_true, decide_eq_true_eq] at hmerges
    exact hmerges.1.1
  exact ⟨hmerges, by omega, hfirst, by omega⟩

theorem FarXfer.taken_le (t : FarXfer) : t.first ≤ t.taken ∧ t.taken ≤ t.left ∧ t.taken ≤ t.first + 64 := by
  have : t.first ≤ t.left := by rw [FarXfer.first]; omega
  unfold FarXfer.taken
  split <;> omega

theorem farXfer_merges_eq_false {t : FarXfer} {d : List Byte × List Bool} (hdata : t.data = some d) :
    t.merges = false ↔ t.first = 64 ∧ (d.2.take 64).all id = true ∧ 64 ≤ d.2.length := by
  rw [FarXfer.merges, hdata, Bool.not_eq_false']
  simp only [wholeUnit, Bool.and_eq_true, decide_eq_true_eq, and_assoc]

theorem Mach.bytes_congr {m n : Mach} (hmem : m.mem = n.mem) (k a : Nat) : m.bytes a k = n.bytes a k := by
  induction k generalizing a with
  | zero => rfl
  | succ k ih => rw [Mach.bytes, Mach.bytes, ih, Mach.byte, Mach.byte, hmem]

/-! The queue and the retry buffer (R201 to R203, R207) -/

section
variable {m : Mach} {h : Fin 24} {x : FarCh} (hx : m.farCh h.val = x)
include hx

theorem opFarBurstIssue_of_burst {b : FarBurst} {l : List FarCmd} (hissues : x.issues = true) (hqueue : x.queue = .burst b :: l) :
    opFarBurstIssue h.val m = m.setFar h.val { x with queue := l, retry := x.retry ++ [b] } := by
  have hopen : x.blocked = false := by
    simp only [FarCh.issues, Bool.and_eq_true, beq_iff_eq, Bool.not_eq_true'] at hissues
    simp [FarCh.blocked, hissues]
  simp [opFarBurstIssue, hx, hopen, hqueue, hissues]

theorem opFarBurstIssue_of_refresh {k : Nat} {l : List FarCmd} (hopen : x.blocked = false) (hqueue : x.queue = .refresh k :: l) :
    opFarBurstIssue h.val m = m.setFar h.val { x with queue := l } := by
  simp [opFarBurstIssue, hx, hopen, hqueue]

theorem opFarBurstIssue_of_blocked {k : FarCmd} (hblocked : x.blocked = true) (hk : x.queue.find? FarCmd.isRefresh = some k) :
    opFarBurstIssue h.val m = m.setFar h.val { x with queue := x.queue.erase k } := by
  simp [opFarBurstIssue, hx, hblocked, hk]

/-- The window of the oldest burst passes while no replay waits for ALERT to rise. -/
theorem opFarWindowPass_eq {b : FarBurst} {l : List FarBurst} {y : FarCh} (hrise : x.mode ≠ .waitRise) (hsingle : x.mode ≠ .singleRise) (hreread : x.reread = none)
    (hretry : x.retry = b :: l) (hy : y = { x with retry := l, singles := if x.mode = .singleHeld then x.singles.drop 1 else x.singles }) (bad : Bool) :
    opFarWindowPass h.val bad m = if (b.data.isNone || b.merged) && (bad || m.farReadsBad h.val b) then m.setFar h.val { y with reread := some (b, 0) }
      else if b.data.isNone then (m.send
        (.resp b.id rsOk ((unitAddrs m h.val b).flatMap (fun a => m.bytes a 64)) (if x.mode = .replaying then 1 else 0))).farLeft h.val y
      else (m.farWrite h.val b false).farLeft h.val y := by
  subst hy
  simp only [opFarWindowPass, hx, hreread, hretry]
  cases hmode : x.mode with
  | waitRise => exact absurd hmode hrise
  | singleRise => exact absurd hmode hsingle
  | normal => rfl
  | replaying => rfl
  | singleHeld => rfl

/-- The re-read of a burst. -/
theorem opFarReread_eq {b : FarBurst} {n : Nat} {y : FarCh} {full : Bool} (hreread : x.reread = some (b, n))
    (hfull : full = true ↔ x.needFull = true ∨ m.rd F.farRetrainFullThresh (farIx h.val) < x.rereads + 1)
    (hy : y = { x with reread := none, rereads := x.rereads + 1, needFull := full }) (bad : Bool) :
    opFarReread h.val bad m = if bad || m.farReadsBad h.val b then
        (if n = 0 then m.setFar h.val { y with reread := some (b, 1) }
        else if b.data.isNone then
          ((m.send (.resp b.id rsOk ((unitAddrs m h.val b).flatMap (fun a => m.bytes a 64)) 4)).farLost h.val b.p).farLeft h.val y
        else (m.farWrite h.val b true).farLeft h.val y)
      else if b.data.isNone then (((m.ev F.farEventsRereadOk (farIx h.val)).cnt F.farRereads (farIx h.val) 1).send
          (.resp b.id rsOk ((unitAddrs m h.val b).flatMap (fun a => m.bytes a 64)) 1)).farLeft h.val y
        else ((((m.ev F.farEventsRereadOk (farIx h.val)).cnt F.farRereads (farIx h.val) 1)).farWrite h.val b false).farLeft h.val y := by
  have hy1 : (if m.rd F.farRetrainFullThresh (farIx h.val) < x.rereads + 1 then { x with reread := none, rereads := x.rereads + 1, needFull := true }
      else { x with reread := none, rereads := x.rereads + 1 } : FarCh) = y := by
    subst hy
    by_cases hthresh : m.rd F.farRetrainFullThresh (farIx h.val) < x.rereads + 1
    · rw [if_pos hthresh, hfull.mpr (.inr hthresh)]
    · have hkept : full = x.needFull := by rw [Bool.eq_iff_iff, hfull]; simp [hthresh]
      rw [if_neg hthresh, hkept]
  have hread : ((unitAddrs m h.val b).flatMap fun a => ((m.ev F.farEventsRereadOk (farIx h.val)).cnt F.farRereads (farIx h.val) 1).bytes a 64) =
      (unitAddrs m h.val b).flatMap fun a => m.bytes a 64 := by
    exact List.flatMap_congr fun a _ => Mach.bytes_congr (by simp) 64 a
  have hunits : unitAddrs ((m.ev F.farEventsRereadOk (farIx h.val)).cnt F.farRereads (farIx h.val) 1) h.val b = unitAddrs m h.val b := by
    simp [unitAddrs]
  simp only [opFarReread, hx, hreread, hy1, Mach.farDeliver, hread, hunits]

end

theorem Mach.farLeft_of_normal (m : Mach) (ch : Nat) {y : FarCh} (hmode : y.mode = .normal) : m.farLeft ch y = m.setFar ch y := by
  simp [Mach.farLeft, hmode]

/-- Settles O15, by the stages of a burst. -/
theorem farBurstCommands : Obligations.FarBurstCommands := by
  unfold Obligations.FarBurstCommands
  intro h s x halive hx
  refine ⟨fun t n hxfer hroom hfree hn => ?_, fun b l hissues hqueue => State.on_of_eq halive (opFarBurstIssue_of_burst hx hissues hqueue),
    fun k l hopen hqueue => State.on_of_eq halive (opFarBurstIssue_of_refresh hx hopen hqueue),
    fun k hblocked hk => State.on_of_eq halive (opFarBurstIssue_of_blocked hx hblocked hk), fun b l y hrise hsingle hreread hretry hy => ?_,
    fun b n y bad full hreread hfull hy => ?_, fun m y hmode => m.farLeft_of_normal _ hmode, fun rank hrefresh hrank => ?_, fun calm => State.on_of_eq halive rfl,
    State.on_of_eq halive rfl⟩
  · rw [← t.first_eq] at hn
    subst hn
    have heq := opFarAdmit_eq hx hxfer hroom hfree rfl
    obtain ⟨hle, hle', hle''⟩ := t.taken_le
    refine ⟨fun hread hone => ?_, fun hread hmore heven => ?_, fun d hwrite => ?_⟩
    · have htwo : t.two = false := by rw [FarXfer.two_of_read hread]; simp; omega
      have htaken : t.taken = t.first := by simp [FarXfer.taken, htwo]
      have hburst : t.burst = ⟨t.id, t.p / 64 * 64, 1, none, false⟩ := by simp [FarXfer.burst, htwo, hread, FarXfer.merges]
      have hrest : t.rest = { t with p := t.p + t.first, left := t.left - t.first } := by simp [FarXfer.rest, htaken, hread]
      refine State.on_of_eq halive (heq.trans ?_)
      rw [htaken, hburst, hrest]
      by_cases hend : t.left = t.first
      · simp [hend, hread]
      · have hleft : t.left - t.first ≠ 0 := by omega
        simp [hend, hleft]
    · have htwo : t.two = true := by rw [FarXfer.two_of_read hread]; simp; omega
      have htaken : t.taken = t.first + min (t.left - t.first) 64 := by simp [FarXfer.taken, htwo]
      have hburst : t.burst = ⟨t.id, t.p / 64 * 64, 2, none, false⟩ := by simp [FarXfer.burst, htwo, hread, FarXfer.merges]
      refine State.on_of_eq halive (heq.trans ?_)
      rw [hburst]
      by_cases hend : t.left - t.first ≤ 64
      · have hleft : t.left - t.taken = 0 := by omega
        simp [hend, hleft, hread]
      · have hleft : t.left - t.taken ≠ 0 := by omega
        have hrest : t.rest = { t with p := t.p + t.first + 64, left := t.left - t.first - 64 } := by
          have h64 : t.taken = t.first + 64 := by omega
          simp [FarXfer.rest, h64, hread, Nat.add_assoc, Nat.sub_sub]
        simp [hend, hleft, hrest]
    · have hskip : t.p - t.p / 64 * 64 = t.p % 64 := by omega
      refine ⟨t.burst, t.taken, _, hle, hle', hle'', rfl, rfl, fun hone => ?_, fun hunits => ?_, ?_, farXfer_merges_eq_false hwrite, rfl, ?_⟩
      · have htwo : t.two = false := by cases h : t.two <;> simp_all [FarXfer.burst]
        simp [FarXfer.taken, htwo]
      · have htwo : t.two = true := by cases h : t.two <;> simp_all [FarXfer.burst]
        obtain ⟨hmerges, heven, hfirst, hmore⟩ := FarXfer.two_of_write hwrite htwo
        refine ⟨by simp [FarXfer.burst, htwo], hmerges, heven, ?_⟩
        simp only [FarXfer.taken, htwo, if_true, hfirst]
        omega
      · simp only [FarXfer.burst, hwrite, hskip, Option.map_some]
      · have hrest : t.rest = ⟨t.id, t.p + t.taken, t.left - t.taken, some (d.1.drop t.taken, d.2.drop t.taken)⟩ := by simp [FarXfer.rest, hwrite]
        refine State.on_of_eq halive (heq.trans ?_)
        rw [hrest]
        by_cases hend : t.left = t.taken
        · simp [hend, hwrite]
        · have hleft : t.left - t.taken ≠ 0 := by omega
          simp [hend, hleft]
  · have heq := opFarWindowPass_eq hx hrise hsingle hreread hretry hy
    refine ⟨fun hread hgood => ?_, fun hwrite hwhole bad => ?_, fun hwrite hmerged hgood => ?_, fun bad hreads hbad => ?_⟩
    · exact State.on_of_eq halive ((heq false).trans (by simp [hread, hgood]))
    · exact State.on_of_eq halive ((heq bad).trans (by simp [hwhole, Option.isSome_iff_ne_none.mp hwrite]))
    · exact State.on_of_eq halive ((heq false).trans (by simp [hgood, Option.isSome_iff_ne_none.mp hwrite]))
    · exact State.on_of_eq halive ((heq bad).trans (if_pos (by rw [hreads, hbad]; rfl)))
  · have heq := opFarReread_eq hx hreread hfull hy bad
    refine ⟨fun hgood => ?_, fun hbad hn => ?_, fun hbad hn => ?_⟩
    · exact State.on_of_eq halive (heq.trans (if_neg (by simp [hgood])))
    · exact State.on_of_eq halive (heq.trans ((if_pos hbad).trans (if_pos hn)))
    · exact State.on_of_eq halive (heq.trans ((if_pos hbad).trans (if_neg hn)))
  · by_cases hblocked : x.blocked = true
    · rw [if_pos hblocked]
      exact State.on_of_same (if_pos (.inr (by rw [hx]; exact hblocked)))
    · rw [if_neg hblocked]
      refine State.on_of_eq hrefresh ((if_neg ?_).trans (by rw [hx]))
      rw [hx]
      simp [hrank, hblocked]

end Sys2Proof.Machine
end

section
/-! Training and recovery of a far channel (09 R204 to R208). -/

namespace Sys2Proof.Machine

/-! What other operations leave of a far channel and of the registers -/

theorem Mach.putBytes_beside (l : List Byte) (m : Mach) (a : Nat) : (m.putBytes a l).fields = m.fields ∧ (m.putBytes a l).far = m.far := by
  induction l generalizing m a with
  | nil => exact ⟨rfl, rfl⟩
  | cons b l ih => exact ih (m.putByte a b) (a + 1)

theorem Mach.sixPut_beside (m : Mach) (addr : Nat → Nat) (l : List Byte) : (m.sixPut addr l).fields = m.fields ∧ (m.sixPut addr l).far = m.far := by
  unfold Mach.sixPut
  exact ⟨foldl_kept (·.fields) (fun m d => (Mach.putBytes_beside l m (addr d)).1) _ m, foldl_kept (·.far) (fun m d => (Mach.putBytes_beside l m (addr d)).2) _ m⟩

theorem Mach.setLost_beside (m : Mach) (t : Tensor) (lost : Bool) : (m.setLost t lost).fields = m.fields ∧ (m.setLost t lost).far = m.far := by
  unfold Mach.setLost Mach.putSlot
  exact m.sixPut_beside _ _

/-- What follows from a machine's registers and far channels. -/
theorem Mach.rd_of_fields {m n : Mach} (hfields : n.fields = m.fields) (hfuses : n.fuses = m.fuses) (f : Fld) (p : Nat) : n.rd f p = m.rd f p := by
  rw [Mach.rd, Mach.rd, hfields, hfuses]

theorem Mach.farCh_of_far {m n : Mach} (hfar : n.far = m.far) (ch : Nat) : n.farCh ch = m.farCh ch := by rw [Mach.farCh, Mach.farCh, hfar]

/-- Full retraining starts at step 2 and takes the channel out of service. -/
theorem Mach.farTrainFrom_full (m : Mach) (ch : Nat) : let n := m.farTrainFrom ch 2 true
    (n.farCh ch).step = 2 ∧ (n.farCh ch).full = true ∧ n.on F.farStatusReady (farIx ch) = false ∧ n.on F.farStatusTraining (farIx ch) = true ∧
      n.on F.farEventsFullRetrain (farIx ch) = true := by
  have hone : 1 % 2 ^ F.farStatusTraining.width = 1 ∧ 1 % 2 ^ F.farEventsFullRetrain.width = 1 := by decide
  simp (disch := decide) [Mach.farTrainFrom, Mach.on, Mach.rd_wr_ne, Mach.rd_ev_ne, Mach.rd_cnt_ne, hone]

section
variable {m : Mach} {ch : Nat} {x : FarCh} (hx : m.farCh ch = x)
include hx

theorem opFarTrain_of_stopped (haccept : m.on F.farCtrlAccept (farIx ch) = false) (hidle : x.idle = true) (hstep : x.step = 0) :
    opFarTrain ch m = (m.wr F.farCtrlTrain (farIx ch) 1).farTrainFrom ch (if m.on F.farStatusReady (farIx ch) then 2 else 1) (m.on F.farStatusReady (farIx ch)) := by
  have hgo : ¬ (!m.farStopped ch || (m.farCh ch).step ≠ 0) = true := by simp [Mach.farStopped, haccept, hx, hidle, hstep]
  simp only [opFarTrain, if_neg hgo]

theorem Mach.farTrainFrom_first : m.farTrainFrom ch 1 false =
    ((m.wr F.farStatusTraining (farIx ch) 1).wr F.farTrainResultStep (farIx ch) 1).setFar ch { x with step := 1, full := false, needFull := false } := by
  simp [Mach.farTrainFrom, hx]

theorem opTrainStepDone_of_next (hstep : 0 < x.step) (hlast : x.step < 8) :
    opTrainStepDone ch m = (m.setFar ch { x with step := x.step + 1 }).wr F.farTrainResultStep (farIx ch) (x.step + 1) := by
  have hgo : ¬ (x.step = 0 ∨ x.step = 8 ∧ x.mode = .waitRise) := by omega
  simp only [opTrainStepDone, hx, if_neg hgo, if_pos hlast]

theorem opTrainStepDone_of_last (hstep : x.step = 8) (hmode : x.mode ≠ .waitRise) : let n := opTrainStepDone ch m
    (n.farCh ch).step = 0 ∧ n.on F.farStatusReady (farIx ch) = true ∧ n.on F.farStatusTraining (farIx ch) = false ∧
      n.on F.farStatusFailed (farIx ch) = false := by
  have hgo : ¬ (x.step = 0 ∨ x.step = 8 ∧ x.mode = .waitRise) := by simp [hstep, hmode]
  have hone : 1 % 2 ^ F.farStatusReady.width = 1 := by decide
  have hlast : ¬ x.step < 8 := by omega
  simp only [opTrainStepDone, hx, if_neg hgo, if_neg hlast]
  cases x.singles <;> split <;> simp (disch := decide) [Mach.on, Mach.rd_wr_ne, hone]

theorem Mach.farTimeout_spec (noWindow : Bool) (hstep : x.step ≠ 0) : let n := m.farTimeout ch noWindow
    (n.farCh ch).step = 0 ∧ n.on F.farStatusReady (farIx ch) = false ∧ n.on F.farStatusFailed (farIx ch) = true ∧
      n.on F.farEventsTrainFail (farIx ch) = true ∧ n.rd F.farTrainResultCode (farIx ch) = (if noWindow then 2 else 1) ∧
      (m.farLostWrites ch ≠ [] → n.on F.farEventsWriteLost (farIx ch) = true) := by
  have hone : 1 % 2 ^ F.farStatusFailed.width = 1 ∧ 1 % 2 ^ F.farEventsTrainFail.width = 1 ∧ 1 % 2 ^ F.farEventsWriteLost.width = 1 := by decide
  have hcode : (if noWindow = true then 2 else 1) % 2 ^ F.farTrainResultCode.width = if noWindow = true then 2 else 1 := by cases noWindow <;> decide
  have hfailed : x.failed.step = 0 := rfl
  simp only [Mach.farTimeout, hx, if_neg hstep]
  generalize List.foldl _ _ (x.xfer.map _).toList = m0
  cases m.farLostWrites ch <;> cases x.full <;>
    simp (disch := decide) [Mach.on, Mach.rd_wr_ne, Mach.rd_ev_ne, hone, hcode, hfailed]

theorem opPeriodicRetrain_of_normal (hready : m.on F.farStatusReady (farIx ch) = true) (hmode : x.mode = .normal) :
    opPeriodicRetrain ch m = m.setFar ch { x with pause := true, rereads := 0 } := by simp [opPeriodicRetrain, hx, hready, hmode]

theorem opPeriodicRetrain_of_busy (hready : m.on F.farStatusReady (farIx ch) = true) (hmode : x.mode ≠ .normal) :
    opPeriodicRetrain ch m = m.setFar ch { x with pauseDue := true } := by simp [opPeriodicRetrain, hx, hready, hmode]

theorem opPeriodicRetrainEnd_of_pause (drift : Bool) (hpause : x.pause = true) :
    opPeriodicRetrainEnd ch drift m = m.setFar ch { x with pause := false, needFull := x.needFull || drift } := by
  simp [opPeriodicRetrainEnd, hx, hpause]

theorem opFullRetrain_of_needed (hneed : x.needFull = true) (hstep : x.step = 0) (hpause : x.pause = false) :
    opFullRetrain ch m = m.farTrainFrom ch 2 true := by simp [opFullRetrain, hx, hneed, hstep, hpause]

/-! CA alerts (R208) -/

section
variable (hstep : x.step = 0 ∨ x.step = 8)
include hstep

theorem opCaAlert_of_normal (hmode : x.mode = .normal) : opCaAlert ch m =
    (((m.ev F.farEventsCaAlert (farIx ch)).cnt F.farAlerts (farIx ch) 1).wr F.farStatusRecovering (farIx ch) 1).setFar ch { x with mode := .waitRise } := by
  have hgo : ¬ (x.step ≠ 0 ∧ x.step ≠ 8) := by omega
  simp only [opCaAlert, hx, if_neg hgo, hmode]

theorem opCaAlert_of_replaying (hmode : x.mode = .replaying) : let n := opCaAlert ch m
    n.on F.farEventsReplayFail (farIx ch) = true ∧ (n.farCh ch).retry = [] ∧ (n.farCh ch).singles = x.retry.filter (fun b => b.data.isSome) := by
  have hgo : ¬ (x.step ≠ 0 ∧ x.step ≠ 8) := by omega
  have hone : 1 % 2 ^ F.farEventsReplayFail.width = 1 := by decide
  simp only [opCaAlert, hx, if_neg hgo, hmode]
  generalize List.foldl _ _ (x.retry.filter fun b => b.data.isNone) = m2
  cases hwrites : x.retry.filter (fun b => b.data.isSome) with
  | nil =>
    refine ⟨by simp (disch := decide) [Mach.on, Mach.rd_wr_ne, Mach.ev, hone], ?_, ?_⟩ <;> simp [FarCh.settle] <;> split <;> rfl
  | cons b l => exact ⟨by simp [Mach.on, Mach.ev, hone], by simp, by simp⟩

theorem opCaAlert_of_single (hmode : x.mode = .singleHeld) : let n := opCaAlert ch m
    (n.farCh ch).mode = .singleRise ∧ (n.farCh ch).singles = x.singles ∧ (n.farCh ch).attempts = min 4 (x.attempts + 1) ∧
      ((n.farCh ch).needFull = true ↔ x.needFull = true ∨ 4 ≤ x.attempts + 1) := by
  have hgo : ¬ (x.step ≠ 0 ∧ x.step ≠ 8) := by omega
  simp only [opCaAlert, hx, if_neg hgo, hmode]
  by_cases hless : x.attempts + 1 < 4
  · simp [hless]; omega
  · simp [hless]; omega

end

theorem opAlertRise_of_replay (hmode : x.mode = .waitRise) (hretry : x.retry ≠ []) : opAlertRise ch m = m.setFar ch { x with mode := .replaying } := by
  simp [opAlertRise, hx, hmode, hretry]

theorem opAlertRise_of_empty (hmode : x.mode = .waitRise) (hretry : x.retry = []) :
    ((opAlertRise ch m).farCh ch).mode = .normal ∧ (opAlertRise ch m).on F.farStatusRecovering (farIx ch) = false := by
  simp only [opAlertRise, hx, hmode, hretry, List.isEmpty_nil, if_true]
  refine ⟨?_, by simp⟩
  simp only [Mach.wr_farCh, Mach.farCh_setFar, FarCh.settle]
  split <;> rfl

theorem opAlertRise_of_single (hmode : x.mode = .singleRise) (hless : x.attempts ≠ 4) :
    opAlertRise ch m = m.setFar ch { x with mode := .singleHeld, retry := x.singles.take 1 } := by
  simp [opAlertRise, hx, hmode, hless]

end

/-- Settles O16, command by command. -/
theorem farTrainingCommands : Obligations.FarTrainingCommands := by
  unfold Obligations.FarTrainingCommands
  intro h s x q halive hx hq
  subst hq
  refine ⟨fun haccept hidle hstep => ⟨fun hready => ?_, fun hready => ?_⟩, fun hstep hlast => State.on_of_eq halive (opTrainStepDone_of_next hx hstep hlast),
    fun hstep hmode => ?_, fun nw hstep => ?_, fun hready hmode => State.on_of_eq halive (opPeriodicRetrain_of_normal hx hready hmode),
    fun hready hmode => State.on_of_eq halive (opPeriodicRetrain_of_busy hx hready hmode),
    fun drift hpause => State.on_of_eq halive (opPeriodicRetrainEnd_of_pause hx drift hpause), fun hneed hstep hpause => ?_,
    fun hstep hmode => State.on_of_eq halive (opCaAlert_of_normal hx hstep hmode), fun hstep hmode => ?_, fun hstep hmode => ?_,
    fun hmode hretry => State.on_of_eq halive (opAlertRise_of_replay hx hmode hretry), fun hmode hretry => ?_,
    fun hmode hless => State.on_of_eq halive (opAlertRise_of_single hx hmode hless)⟩
  · refine State.on_of_eq halive ((opFarTrain_of_stopped hx haccept hidle hstep).trans ?_)
    rw [hready]
    exact Mach.farTrainFrom_first (m := s.m.wr F.farCtrlTrain (farIx h.val) 1) hx
  · have heq := opFarTrain_of_stopped hx haccept hidle hstep
    rw [hready] at heq
    obtain ⟨hstep', -, hnot, htraining, -⟩ := (s.m.wr F.farCtrlTrain (farIx h.val) 1).farTrainFrom_full h.val
    exact ⟨_, State.on_of_eq halive heq, hstep', hnot, htraining⟩
  · obtain ⟨hzero, hready, htraining, hfailed⟩ := opTrainStepDone_of_last hx hstep hmode
    exact ⟨_, State.on_of_eq halive rfl, hzero, hready, htraining, hfailed, by simp⟩
  · obtain ⟨hzero, hready, hfailed, hevent, hcode, hlost⟩ := Mach.farTimeout_spec hx nw hstep
    obtain ⟨hfields, hfar⟩ : (opTrainStepTimeout h.val nw s.m).fields = (s.m.farTimeout h.val nw).fields ∧
        (opTrainStepTimeout h.val nw s.m).far = (s.m.farTimeout h.val nw).far :=
      ⟨foldl_kept (·.fields) (fun m t => (m.setLost_beside t true).1) _ _, foldl_kept (·.far) (fun m t => (m.setLost_beside t true).2) _ _⟩
    have hrd := Mach.rd_of_fields hfields (by simp)
    have hon : ∀ f p, (opTrainStepTimeout h.val nw s.m).on f p = (s.m.farTimeout h.val nw).on f p := fun f p => by rw [Mach.on, Mach.on, hrd]
    exact ⟨_, State.on_of_eq halive rfl, by rw [Mach.farCh_of_far hfar]; exact hzero, by rw [hon]; exact hready, by rw [hon]; exact hfailed,
      by rw [hon]; exact hevent, by rw [hrd]; exact hcode, fun h => by rw [hon]; exact hlost h⟩
  · obtain ⟨hstep', hfull, hready, -, hevent⟩ := s.m.farTrainFrom_full h.val
    exact ⟨_, State.on_of_eq halive (opFullRetrain_of_needed hx hneed hstep hpause), hstep', hfull, hready, hevent, by simp⟩
  · obtain ⟨hevent, hretry, hsingles⟩ := opCaAlert_of_replaying hx hstep hmode
    exact ⟨_, State.on_of_eq halive rfl, hevent, hretry, hsingles, by simp⟩
  · exact ⟨_, State.on_of_eq halive rfl, opCaAlert_of_single hx hstep hmode⟩
  · exact ⟨_, State.on_of_eq halive rfl, opAlertRise_of_empty hx hmode hretry⟩

end Sys2Proof.Machine
end

section
/-! Translation, migration, evacuation and the page movers (07 R153 to R160). -/

namespace Sys2Proof.Machine

/-! Translation (R153) -/

section
variable {m m1 : Mach} {d who slot o : Nat} {w : Bool} {x : Xl} (hxlat : m.xlat d slot o w = (x, m1))
include hxlat

theorem opTranslate_of_at {a : Nat} (hx : x = .at_ a) : opTranslate d who slot o w m = m1.send (.resp who rsOk (leBytes 8 a) 0) := by
  subst hx
  simp only [opTranslate, hxlat, Mach.xlAnswer]

theorem opTranslate_of_refuse (hx : x = .refuse) : opTranslate d who slot o w m = m1.respond who rsRefused := by
  subst hx
  simp only [opTranslate, hxlat, Mach.xlAnswer]

theorem opTranslate_of_hold (hx : x = .hold) (hroom : (m.holdsOf d).length < 64) :
    opTranslate d who slot o w m = m1.setHolds d (m1.holdsOf d ++ [⟨who, slot, o, w⟩]) := by
  subst hx
  simp only [opTranslate, hxlat, if_neg (Nat.not_le.mpr hroom)]

end

/-! Migration (R154 to R157) -/

section
variable {m : Mach} {slot page : Nat} {p : Plan} {t : Tensor} (hslot : m.tensorOfSlot slot = some (p, t))
include hslot

theorem opMigrationStart_of_triggered {tier loc tag : Nat} {codes : List Nat} (hpage : page < pagesOf t.bytes) (hup : m.almUp = true)
    (hen : m.on F.almMigrateEn 6 = true) (hmoving : pteMoving (m.pteEntry 0 (t.ptBase + page)) = false) (hpinned : m.pinned p t = false)
    (htrigger : m.triggered p t page tier = true) (hdst : m.migDstOk t page tier loc codes = true) {m1 : Mach}
    (hm1 : m1 = m.putPte (t.ptBase + page) (m.pteEntry 0 (t.ptBase + page) + 2 ^ 59)) :
    opMigrationStart slot page tier loc codes tag m =
      { m1 with alm := { m1.alm with migs := m1.alm.migs ++ [⟨slot, page, ⟨tier, loc⟩, codes, tag, 0, [], tier == 1 && m.backs t page⟩] } } := by
  have hgo : ¬ (!m.almUp || !m.on F.almMigrateEn kp || decide (pagesOf t.bytes ≤ page) || pteMoving (m.pteEntry 0 (t.ptBase + page)) || m.pinned p t ||
      !m.triggered p t page tier || !m.migDstOk t page tier loc codes) = true := by
    have hen' : m.on F.almMigrateEn kp = true := hen
    simp [hup, hen', hpage, hmoving, hpinned, htrigger, hdst]
  subst hm1
  simp only [opMigrationStart, hslot, if_neg hgo]

/-- A translator drops its entry of a page and acknowledges its migration once no access it resolved through it is open. -/
theorem opInvalidate_eq {d : Nat} : opInvalidate d slot page m = { m with alm := { m.alm with
    cache := SMap.erase (cacheKey d (t.ptBase + page)) m.alm.cache,
    migs := m.alm.migs.map (fun (x : Mig) => if x.slot = slot ∧ x.page = page ∧ m.xlatInUse d (m.pteEntry d (t.ptBase + page)) = false
      then { x with acks := setBit d x.acks } else x) } } := by
  simp only [opInvalidate, hslot, Bool.not_eq_true']

section
variable {g : Mig} (hg : m.alm.migs.find? (fun x => x.slot == slot && x.page == page) = some g) (hacks : g.acks = 0x3F)
  (hparts : ∀ k ∈ m.partsOf (m.pteEntry 0 (t.ptBase + page)) g, k ∈ g.copied) (hup : m.procUp 1 = true)
include hg hacks hparts hup

/-- A migration with six acknowledgements and every part copied: the old place is freed, the new one taken, and the entry written. -/
theorem opMigrationFinish_eq {m1 m2 : Mach} {sl : SMap Nat}
    (hm1 : m1 = if g.backing then m else m.freeSlabs (m.codesOf (m.pteEntry 0 (t.ptBase + page))))
    (hm2 : m2 = if g.dst.tier = 2 then m1.sixPut (fun d => m1.slabListAddr d g.dst.loc) (g.codes.flatMap (leBytes 2))
      else if g.backing then m1 else m1.setHome p t page g.dst)
    (hsl : sl = if g.dst.tier = 2 then g.codes.foldl (fun s c => if c = 0xFFFF then s else SMap.put 0 c (slot + 1) s) m2.alm.slabs else m2.alm.slabs) :
    opMigrationFinish slot page m = ({ m2 with alm := { m2.alm with migs := m2.alm.migs.erase g, slabs := sl } } : Mach).rewritePte (t.ptBase + page)
      (newPte (m.pteEntry 0 (t.ptBase + page)) t.kind g) := by
  have hall : (m.partsOf (m.pteEntry 0 (t.ptBase + page)) g).all (fun k => g.copied.contains k) = true :=
    List.all_eq_true.mpr fun k hk => List.contains_iff_mem.mpr (hparts k hk)
  have hgo : ¬ (g.acks ≠ 0x3F ∨ (!(m.partsOf (m.pteEntry 0 (t.ptBase + page)) g).all (fun k => g.copied.contains k)) = true ∨ (!m.procUp 1) = true) := by
    simp only [hacks, hall, hup, ne_eq, not_true_eq_false, Bool.not_true, Bool.false_eq_true, or_self, not_false_eq_true]
  subst hm1 hm2 hsl
  simp only [opMigrationFinish, hslot, hg, if_neg hgo]

end

end

section
variable {m : Mach} {slot page e : Nat} {p : Plan} {t : Tensor} {g : Mig} (hslot : m.tensorOfSlot slot = some (p, t))
  (he : e = m.pteEntry 0 (t.ptBase + page)) (hg : m.alm.migs.find? (fun x => x.slot == slot && x.page == page) = some g) (hacks : g.acks = 0x3F)
  (hparts : ∀ k ∈ m.partsOf e g, k ∈ g.copied) (hup : m.procUp 1 = true)
include hslot he hg hacks hparts hup

theorem opMigrationFinish_of_backing (hback : g.backing = true) (htier : g.dst.tier ≠ 2) : opMigrationFinish slot page m =
    ({ m with alm := { m.alm with migs := m.alm.migs.erase g } } : Mach).rewritePte (t.ptBase + page) (mkPte (ptePrimary e) g.dst.loc 0 1 true false) := by
  rw [he] at hparts ⊢
  have hpte : newPte (m.pteEntry 0 (t.ptBase + page)) t.kind g = mkPte (ptePrimary (m.pteEntry 0 (t.ptBase + page))) g.dst.loc 0 1 true false := if_pos hback
  rw [opMigrationFinish_eq hslot hg hacks hparts hup (if_pos hback).symm ((if_neg htier).trans (if_pos hback)).symm (if_neg htier).symm, hpte]

theorem opMigrationFinish_of_near {m1 : Mach} (hback : g.backing = false) (htier : g.dst.tier ≠ 2)
    (hm1 : m1 = (m.freeSlabs (m.codesOf e)).setHome p t page g.dst) : opMigrationFinish slot page m =
    ({ m1 with alm := { m1.alm with migs := m1.alm.migs.erase g } } : Mach).rewritePte (t.ptBase + page) (newPte e t.kind g) := by
  have hprimary : ¬ g.backing = true := by simp [hback]
  rw [he] at hparts hm1 ⊢
  rw [hm1, opMigrationFinish_eq hslot hg hacks hparts hup (if_neg hprimary).symm ((if_neg htier).trans (if_neg hprimary)).symm (if_neg htier).symm]

theorem opMigrationFinish_of_slabs {m1 m2 : Mach} {sl : SMap Nat} (hback : g.backing = false) (htier : g.dst.tier = 2) (hm1 : m1 = m.freeSlabs (m.codesOf e))
    (hm2 : m2 = m1.sixPut (fun d => m1.slabListAddr d g.dst.loc) (g.codes.flatMap (leBytes 2)))
    (hsl : sl = g.codes.foldl (fun s c => if c = 0xFFFF then s else SMap.put 0 c (slot + 1) s) m2.alm.slabs) : opMigrationFinish slot page m =
    ({ m2 with alm := { m2.alm with migs := m2.alm.migs.erase g, slabs := sl } } : Mach).rewritePte (t.ptBase + page) (newPte e t.kind g) := by
  have hprimary : ¬ g.backing = true := by simp [hback]
  rw [he] at hparts hm1 ⊢
  exact opMigrationFinish_eq hslot hg hacks hparts hup (hm1.trans (if_neg hprimary).symm) (hm2.trans (if_pos htier).symm) (hsl.trans (if_pos htier).symm)

end

/-! Evacuation (R158) -/

section
variable {m : Mach} {dst : PagePick} (hup : m.procUp 3 = true) (hfree : m.pageFree dst = true) (hunused : dst.loc ∉ m.usedLocs)
include hup hfree hunused

theorem not_evacRefused : ¬ (!m.procUp 3 || !m.pageFree dst || m.usedLocs.contains dst.loc) = true := by
  simp [hup, hfree, hunused]

theorem opEvacuation_of_table {d page : Nat} (hd : d < 6) (hpage : page < 32) : opEvacuation (65536 + d) page dst m = m.evacTable d page dst := by
  have hroom : 65536 + d < 65542 ∧ page < 32 := ⟨by omega, hpage⟩
  simp only [opEvacuation, if_neg (not_evacRefused hup hfree hunused), if_pos (Nat.le_add_right 65536 d), if_pos hroom, Nat.add_sub_cancel_left]

section
variable {slot page e : Nat} {p : Plan} {t : Tensor} (hslot : m.tensorOfSlot slot = some (p, t)) (hnormal : slot < 65536) (hpage : page < pagesOf t.bytes)
  (he : e = m.pteEntry 0 (t.ptBase + page)) (hmoving : pteMoving e = false) {r : Bool × Mach}
include hslot hnormal hpage he hmoving

theorem opEvacuation_of_primary (hretired : m.locRetired (ptePTier e) (ptePrimary e) = true)
    (hr : m.evacBursts (ptePrimary e * 0x200000) (pteBacking e * 0x200000) (dst.loc * 0x200000) (pteBTier e != 3) 32768 = r) {m1 m2 : Mach}
    (hm1 : m1 = (if r.1 then r.2 else r.2.setLost t true)) {js : List Job}
    (hjs : js = (if dst.tier = 1 then m1.alm.jobs.map (fun (j : Job) => if j.plan = p.id then { j with extraFar := j.extraFar + 0x200000 } else j)
      else m1.alm.jobs)) (hm2 : m2 = { m1 with alm := { m1.alm with jobs := js } }) :
    opEvacuation slot page dst m = ((m2.setHome p t page ⟨dst.tier, dst.loc⟩).flagPlan p flPageRetired).rewritePte (t.ptBase + page)
      (mkPte dst.loc (pteBacking e) dst.tier (pteBTier e) true false) := by
  have hgo : ¬ (decide (pagesOf t.bytes ≤ page) || pteMoving e) = true := by simp [hpage, hmoving]
  subst hm2 hjs hm1 hr
  simp only [opEvacuation, if_neg (not_evacRefused hup hfree hunused), if_neg (Nat.not_le.mpr hnormal), hslot, ← he, if_neg hgo, if_pos hretired]

theorem opEvacuation_of_backing (hkept : m.locRetired (ptePTier e) (ptePrimary e) = false) (hretired : m.locRetired (pteBTier e) (pteBacking e) = true)
    (hr : m.evacBursts (pteBacking e * 0x200000) 0 (dst.loc * 0x200000) false 32768 = r) :
    opEvacuation slot page dst m = ((r.2.setHome p t page (if ptePTier e = 2 then ⟨dst.tier, dst.loc⟩ else
      (t.pages[page]?).getD ⟨0, 0⟩)).flagPlan p flPageRetired).rewritePte (t.ptBase + page)
      (mkPte (ptePrimary e) (if r.1 then dst.loc else 0) (ptePTier e) (if r.1 then dst.tier else 3) true false) := by
  have hgo : ¬ (decide (pagesOf t.bytes ≤ page) || pteMoving e) = true := by simp [hpage, hmoving]
  have hkept' : ¬ m.locRetired (ptePTier e) (ptePrimary e) = true := by simp [hkept]
  subst hr
  simp only [opEvacuation, if_neg (not_evacRefused hup hfree hunused), if_neg (Nat.not_le.mpr hnormal), hslot, ← he, if_neg hgo, if_neg hkept', if_pos hretired]

end

end

/-! The page movers (R159, R160) -/

section
variable {m : Mach} {d k : Nat} {x : Mover} (hx : m.mover d k = x)
include hx

section
variable {who w : Nat} (hwho : who = idAlmanac ∨ who = idHealth) (hheld : x.held = none) (hsome : 0 < w / 65536) (hmost : w / 65536 ≤ 32768)
include hwho hheld hsome hmost

theorem opPmCmdEnqueue_of_room (hroom : x.queue.length < 16) :
    opPmCmdEnqueue d k who w m = (m.setMover d k { x with queue := x.queue ++ [(who, x.staging ++ [w])] }).respond who rsOk := by
  have hwriter : pmWriter who = true := by simpa [pmWriter] using hwho
  have hcount : ¬ (w / 65536 = 0 ∨ 32768 < w / 65536) := by omega
  simp only [opPmCmdEnqueue, hx, hwriter, hheld, hcount, Nat.not_le.mpr hroom, Bool.not_true, Bool.false_eq_true, Option.isSome_none, if_false]

theorem opPmCmdEnqueue_of_full (hfull : 16 ≤ x.queue.length) :
    opPmCmdEnqueue d k who w m = m.setMover d k { x with held := some (who, w) } := by
  have hwriter : pmWriter who = true := by simpa [pmWriter] using hwho
  have hcount : ¬ (w / 65536 = 0 ∨ 32768 < w / 65536) := by omega
  simp only [opPmCmdEnqueue, hx, hwriter, hheld, hcount, hfull, Bool.not_true, Bool.false_eq_true, Option.isSome_none, if_false, if_true]

end

theorem opPmCmdHeldRelease_of_room {who w : Nat} (hheld : x.held = some (who, w)) (hroom : x.queue.length < 16) :
    opPmCmdHeldRelease d k m = (m.setMover d k { x with queue := x.queue ++ [(who, x.staging ++ [w])], held := none }).respond who rsOk := by
  simp only [opPmCmdHeldRelease, hx, hheld, Nat.not_le.mpr hroom, if_false]

theorem opPmCmdEnd_of_head {who : Nat} {w : List Nat} {l : List (Nat × List Nat)} {src dst n as_ : Nat} {r : Nat × Mach} {m1 m2 : Mach} {mg : List Mig}
    (hqueue : x.queue = (who, w) :: l) (hrun : bitOf k (m.rd F.pmCtrlRun d) = true) (hsrc : src = (nth 0 w 0 + nth 0 w 1 % 65536 * 2 ^ 32) / 64 * 64)
    (hdst : dst = (nth 0 w 2 + nth 0 w 3 % 65536 * 2 ^ 32) / 64 * 64) (hn : n = nth 0 w 3 / 65536)
    (has : as_ = (if who = idHealth then idHealth else idMover d k)) (hfree : m.moveWaits as_ src dst n = false)
    (hr : m.moveBursts d as_ src dst n 0 = r) (hm1 : m1 = r.2.setMover d k { x with queue := l })
    (hmg : mg = m1.alm.migs.map (fun (g : Mig) => if g.tag = nth 0 w 1 / 65536 ∧ g.acks = 0x3F ∧ r.1 = 0
      then { g with copied := g.copied ++ m.partsMoved g src dst n } else g)) (hm2 : m2 = { m1 with alm := { m1.alm with migs := mg } }) :
    opPmCmdEnd d k m = m2.mail (idMover d k) (if who = idHealth then 24 else 8) [nth 0 w 1 / 65536, r.1] := by
  have hgo : ¬ (!bitOf k (m.rd F.pmCtrlRun d) || m.moveWaits as_ src dst n) = true := by simp [hrun, hfree]
  subst hm2 hmg hm1 hr has hn hdst hsrc
  simp only [opPmCmdEnd, hx, hqueue, if_neg hgo]

end

theorem opPmCmdEnqueue_of_other {m : Mach} {d k who w : Nat} (halm : who ≠ idAlmanac) (hhealth : who ≠ idHealth) :
    opPmCmdEnqueue d k who w m = m.respond who rsRefused := by
  simp [opPmCmdEnqueue, pmWriter, halm, hhealth]

/-- Settles O17, command by command. -/
theorem translationAndMovers : Obligations.TranslationAndMovers := by
  unfold Obligations.TranslationAndMovers
  refine ⟨fun d s who slot o w x m1 halive hx => ⟨fun a ha => State.on_of_eq halive (opTranslate_of_at hx ha), fun hr => State.on_of_eq halive
    (opTranslate_of_refuse hx hr), fun hh hroom => State.on_of_eq halive (opTranslate_of_hold hx hh hroom)⟩,
    fun s slot page tag e p t halive hslot he hpage => ⟨?_, ?_, ?_, ?_⟩, ?_, fun d k s x halive hx => ⟨?_, ?_, ?_, ?_⟩⟩
  · intro tier loc codes m1 hup hen hmoving hpinned htrigger hdst hm1
    rw [he] at hmoving hm1
    exact State.on_of_eq halive (opMigrationStart_of_triggered hslot hpage hup hen hmoving hpinned htrigger hdst hm1)
  · intro d halived
    exact ⟨_, State.on_of_eq halived (opInvalidate_eq hslot), rfl, rfl, SMap.get_erase_self _ _ _, rfl⟩
  · intro g hg hacks hparts hup
    exact ⟨fun hback htier => State.on_of_eq halive (opMigrationFinish_of_backing hslot he hg hacks hparts hup hback htier),
      fun m1 hback htier hm1 => State.on_of_eq halive (opMigrationFinish_of_near hslot he hg hacks hparts hup hback htier hm1),
      fun m1 m2 sl hback htier hm1 hm2 hsl => State.on_of_eq halive (opMigrationFinish_of_slabs hslot he hg hacks hparts hup hback htier hm1 hm2 hsl)⟩
  · intro dst hup hmoving hfree hunused hnormal
    exact ⟨fun r m1 m2 js hretired hr hm1 hjs hm2 => State.on_of_eq halive (opEvacuation_of_primary hup hfree hunused hslot hnormal hpage he hmoving
      hretired hr hm1 hjs hm2), fun r hkept hretired hr => State.on_of_eq halive (opEvacuation_of_backing hup hfree hunused hslot hnormal hpage he
      hmoving hkept hretired hr)⟩
  · intro s d page dst halive hup hfree hunused hd hpage
    exact State.on_of_eq halive (opEvacuation_of_table hup hfree hunused hd hpage)
  · intro who w hwho hheld hsome hmost
    exact ⟨fun hroom => State.on_of_eq halive (opPmCmdEnqueue_of_room hx hwho hheld hsome hmost hroom),
      fun hfull => State.on_of_eq halive (opPmCmdEnqueue_of_full hx hwho hheld hsome hmost hfull)⟩
  · exact fun who w halm hhealth => State.on_of_eq halive (opPmCmdEnqueue_of_other halm hhealth)
  · exact fun who w hheld hroom => State.on_of_eq halive (opPmCmdHeldRelease_of_room hx hheld hroom)
  · exact fun who w l src dst n as_ r m1 m2 mg hqueue hrun hsrc hdst hn has hfree hr hm1 hmg hm2 =>
      State.on_of_eq halive (opPmCmdEnd_of_head hx hqueue hrun hsrc hdst hn has hfree hr hm1 hmg hm2)

end Sys2Proof.Machine
end

section
/-! Plans and whole tensors (07 R147 to R152, 15 R368). -/

namespace Sys2Proof.Machine

/-! PLAN_LOAD -/

section
variable {m : Mach} {t : Ticket} {pl : List TenPlace} (ht : m.ticketOf 2 = some t) (hup : m.procUp 1 = true)
include ht hup

theorem opPlanLoad_of_new (hbegun : t.begun = false) :
    opPlanLoad pl m = (m.begin_ t).askRead 1 (2 * t.no) (dsWin t.bytes) (dsOff t.bytes) (dsCount t.bytes) := by
  simp only [opPlanLoad, ht, hup, hbegun, Bool.not_true, Bool.not_false, Bool.false_eq_true, if_true, if_false, Mach.begin_]

section
variable (hbegun : t.begun = true) (hcome : (m.io (2 * t.no)).waits = 0)
include hbegun hcome

theorem opPlanLoad_of_fail (hfail : (m.io (2 * t.no)).fail = true) : opPlanLoad pl m = m.endTicket t 0 stAborted 0 := by
  simp only [opPlanLoad, ht, hup, hbegun, hcome, hfail, Bool.not_true, Bool.false_eq_true, ne_eq, not_true_eq_false, if_true, if_false]

theorem opPlanLoad_of_bad {d : Nat} (hfail : (m.io (2 * t.no)).fail = false) (hbad : checkPlan m (m.io (2 * t.no)).buf = .inl d) :
    opPlanLoad pl m = m.endTicket t (im (m.io (2 * t.no)).buf 8 4) (detailStatus d) d := by
  simp only [opPlanLoad, ht, hup, hbegun, hcome, hfail, hbad, Bool.not_true, Bool.false_eq_true, ne_eq, not_true_eq_false, if_false]

theorem opPlanLoad_of_good {p : Plan} (hfail : (m.io (2 * t.no)).fail = false) (hgood : checkPlan m (m.io (2 * t.no)).buf = .inr p)
    (hplaces : m.placesOk p.tensors pl = true) {m1 : Mach} {ts : List Tensor}
    (hm1 : m1 = (p.tensors.zip pl).foldl (fun m x => m.placeTensor x.1 x.2) m)
    (hts : ts = (p.tensors.zip pl).map (fun x =>
      { x.1 with slot := x.2.slot, ptBase := x.2.ptBase, pages := x.2.pages.map (fun q => ⟨q.tier, q.loc⟩), used := m.usec })) :
    opPlanLoad pl m =
      ({ m1 with alm := { m1.alm with plans := m1.alm.plans ++ [{ p with tensors := ts }] } } : Mach).endTicket t p.id stOk 0 := by
  subst hm1 hts
  simp only [opPlanLoad, ht, hup, hbegun, hcome, hfail, hgood, hplaces, Bool.not_true, Bool.false_eq_true, ne_eq, not_true_eq_false, if_false]

end

end

/-! PLAN_UNLOAD -/

section
variable {m : Mach} {t : Ticket} (ht : m.ticketOf 3 = some t) (hup : m.procUp 1 = true)
include ht hup

theorem opPlanUnload_of_unloaded (hnone : m.alm.plans.find? (fun p => p.id == dsPlan t.bytes) = none) :
    opPlanUnload m = m.endTicket t (dsPlan t.bytes) stAborted 0x81 := by
  simp only [opPlanUnload, ht, hup, hnone, Bool.not_true, Bool.false_eq_true, if_false]

theorem opPlanUnload_of_idle {p : Plan} (hp : m.alm.plans.find? (fun p => p.id == dsPlan t.bytes) = some p) (hidle : ∀ j ∈ m.alm.jobs, j.plan ≠ p.id) :
    opPlanUnload m = (m.freePlan p).endTicket t p.id stOk 0 := by
  have hnone : m.alm.jobs.any (fun j => j.plan == p.id) = false := by
    rw [List.any_eq_false]
    exact fun j hj => by simpa using hidle j hj
  simp only [opPlanUnload, ht, hup, hp, hnone, Bool.not_true, Bool.false_eq_true, if_false]

end

/-! TENSOR_WRITE -/

section
variable {m : Mach} {t : Ticket} (ht : m.ticketOf 5 = some t)
include ht

theorem opTensorWrite_of_bad {d : Nat} (hbad : m.tensorNamed t.bytes = .inl d) : opTensorWrite m = m.endTicket t (dsPlan t.bytes) stAborted d := by
  simp only [opTensorWrite, ht, hbad]

section
variable {x : Tensor} (hx : m.tensorNamed t.bytes = .inr x)
include hx

theorem opTensorWrite_of_new (hbegun : t.begun = false) :
    opTensorWrite m = (m.begin_ t).askRead 2 (2 * t.no) (dsWin t.bytes) (dsOff t.bytes) x.bytes := by
  simp only [opTensorWrite, ht, hx, hbegun, Bool.not_false, if_true]

theorem opTensorWrite_of_come {m1 : Mach} (hbegun : t.begun = true) (hcome : (m.io (2 * t.no)).waits = 0) (hfail : (m.io (2 * t.no)).fail = false)
    (hwrite : m.writeTensor idAlmanac x (m.io (2 * t.no)).buf (pieces x.bytes) = some (true, m1)) :
    opTensorWrite m = (m1.setLost x false).endTicket t (dsPlan t.bytes) stOk 0 := by
  simp only [opTensorWrite, ht, hx, hbegun, hcome, hfail, hwrite, Bool.not_true, Bool.false_eq_true, ne_eq, not_true_eq_false, if_true, if_false]

end

end

/-! TENSOR_READ -/

section
variable {m : Mach} {t : Ticket} {x : Tensor} (ht : m.ticketOf 6 = some t) (hx : m.tensorNamed t.bytes = .inr x)
include ht hx

theorem opTensorRead_of_lost (hbegun : t.begun = false) (hlost : slotLost (m.slotEntry 0 x.slot) = true) :
    opTensorRead m = m.endTicket t (dsPlan t.bytes) stDataLost 0 := by
  simp only [opTensorRead, ht, hx, hbegun, hlost, Bool.not_false, if_true]

theorem opTensorRead_of_good {d : List Byte} {m1 : Mach} (hbegun : t.begun = false) (hkept : slotLost (m.slotEntry 0 x.slot) = false)
    (hread : m.readTensor idAlmanac x (pieces x.bytes) = some (d, 0, m1)) :
    opTensorRead m = (m1.begin_ t).askWrite 2 (2 * t.no) (dsWin t.bytes) (dsOff t.bytes) d := by
  have hclean : ¬ (bitOf 1 0 || bitOf 2 0 || bitOf 4 0) = true := by decide
  simp only [opTensorRead, ht, hx, hbegun, hkept, hread, if_neg hclean, Bool.not_false, Bool.false_eq_true, if_true, if_false]

theorem opTensorRead_of_asked (hbegun : t.begun = true) (hcome : (m.io (2 * t.no)).waits = 0) :
    opTensorRead m = m.endTicket t (dsPlan t.bytes) (if (m.io (2 * t.no)).fail then stAborted else stOk) 0 := by
  simp only [opTensorRead, ht, hx, hbegun, hcome, Bool.not_true, Bool.false_eq_true, ne_eq, not_true_eq_false, if_false]

end

/-- Settles O18, command by command. -/
theorem planAndTensorCommands : Obligations.PlanAndTensorCommands := by
  unfold Obligations.PlanAndTensorCommands
  intro s halive
  refine ⟨fun t pl ht hup => ⟨fun hbegun => State.on_of_eq halive (opPlanLoad_of_new ht hup hbegun), fun hbegun hcome hfail => State.on_of_eq halive
      (opPlanLoad_of_fail ht hup hbegun hcome hfail), fun hbegun hcome hfail => ⟨fun d hbad => State.on_of_eq halive (opPlanLoad_of_bad ht hup hbegun
      hcome hfail hbad), fun p hgood hplaces => ⟨_, _, rfl, rfl, State.on_of_eq halive (opPlanLoad_of_good ht hup hbegun hcome hfail hgood hplaces rfl
      rfl)⟩⟩⟩,
    fun t ht hup => ⟨fun hnone => State.on_of_eq halive (opPlanUnload_of_unloaded ht hup hnone), fun p hp hidle => State.on_of_eq halive
      (opPlanUnload_of_idle ht hup hp hidle)⟩,
    fun t x ht hx => ⟨fun hbegun => State.on_of_eq halive (opTensorWrite_of_new ht hx hbegun), fun m1 hbegun hcome hfail hwrite => State.on_of_eq halive
      (opTensorWrite_of_come ht hx hbegun hcome hfail hwrite)⟩,
    fun t d ht hbad => State.on_of_eq halive (opTensorWrite_of_bad ht hbad),
    fun t x ht hx => ⟨fun hbegun hlost => State.on_of_eq halive (opTensorRead_of_lost ht hx hbegun hlost), fun d m1 hbegun hkept hread =>
      State.on_of_eq halive (opTensorRead_of_good ht hx hbegun hkept hread), fun hbegun hcome => State.on_of_eq halive
      (opTensorRead_of_asked ht hx hbegun hcome)⟩⟩

end Sys2Proof.Machine
end

section
/-! Operations, shares and traps (05 R112 to R123, 07 R161 to R163). -/

namespace Sys2Proof.Machine

/-- The share of one pick, before anything of it has run. -/
def shareOfPick (job op : Nat) (x : SharePick × Nat) : Share :=
  ⟨x.2, job, op, x.1.split, x.1.cluster.val, [], x.1.tag, [], [], false, [], 0, false, 0, [], [], false⟩

/-- The rules an operation's placement obeys. -/
structure PlacementOk (m : Mach) (job op : Nat) (j : Job) (p : Plan) (ev : Event) (r : OpRec) (picks : List SharePick) (cs : List Nat) : Prop where
  up : m.almUp = true
  phase : ev.phase = 1
  noTrap : j.traps = []
  ready : opReady p ev op = true
  kind : r.kind ≠ 4
  covers : picksCover r picks = true
  unplaced : ∀ x ∈ m.alm.shares, ¬ (x.job = job ∧ x.op = op)
  still : m.opMoves p r = false
  clusters : cs = distinct (picks.map (fun s => s.cluster.val))
  fits : cs.length ≤ p.maxpar
  preferred : m.picksPreferred j p r cs = true
  admitted : ∀ x ∈ picks, m.mayPlace j x.cluster.val = true ∧ x.tag < 8192 ∧ m.tagUsed (x.cluster.val / 10) x.tag = false
  noClash : tagClash picks = false

theorem PlacementOk.accepted {m : Mach} {job op : Nat} {j : Job} {p : Plan} {ev : Event} {r : OpRec} {picks : List SharePick} {cs : List Nat}
    (h : PlacementOk m job op j p ev r picks cs) :
    (m.almUp && ev.phase == 1 && j.traps.isEmpty && opReady p ev op && r.kind != 4 && picksCover r picks &&
      !m.alm.shares.any (fun s => s.job == job && s.op == op) && !m.opMoves p r &&
      decide ((distinct (picks.map (fun s => s.cluster.val))).length ≤ p.maxpar) &&
      picks.all (fun s => m.mayPlace j s.cluster.val && decide (s.tag < 8192) && !m.tagUsed (s.cluster.val / 10) s.tag) && !tagClash picks &&
      m.picksPreferred j p r (distinct (picks.map (fun s => s.cluster.val)))) = true := by
  obtain ⟨hup, hphase, hnoTrap, hready, hkind, hcovers, hunplaced, hstill, rfl, hfits, hpreferred, hadmitted, hnoClash⟩ := h
  have hnone : m.alm.shares.any (fun s => s.job == job && s.op == op) = false := by
    rw [List.any_eq_false]
    exact fun x hx => by simpa using hunplaced x hx
  have hall : picks.all (fun s => m.mayPlace j s.cluster.val && decide (s.tag < 8192) && !m.tagUsed (s.cluster.val / 10) s.tag) = true := by
    rw [List.all_eq_true]
    intro x hx
    obtain ⟨hplace, htag, hunused⟩ := hadmitted x hx
    simp [hplace, htag, hunused]
  simp only [hup, hphase, hnoTrap, hready, hcovers, hnone, hstill, hfits, hpreferred, hall, hnoClash, List.isEmpty_nil, beq_self_eq_true, bne,
    beq_eq_false_iff_ne.mpr hkind, Bool.not_false, decide_true, Bool.and_self]

theorem opOpPlace_of_ok {m0 m : Mach} (hm : m = m0.settleSets) {job op : Nat} {j : Job} {p : Plan} {ev : Event} {r : OpRec} {picks : List SharePick}
    {cs : List Nat} (hj : m.jobOf job = some j) (hp : m.planOf j.plan = some p) (hev : j.run = some ev) (hr : p.ops[op]? = some r)
    (h : PlacementOk m job op j p ev r picks cs) :
    opOpPlace job op picks m0 = { m with alm := { m.alm with
      shares := m.alm.shares ++ (picks.zip (upFrom m.alm.nextShare picks.length)).map (shareOfPick job op),
      nextShare := m.alm.nextShare + picks.length, plans := usedNow j.plan m.usec (fun t => r.names t.handle) m.alm.plans } } := by
  subst hm
  simp only [opOpPlace, hj, hp, hev, hr, h.accepted, Bool.not_true, Bool.false_eq_true, if_false]
  rfl

theorem opOpComplete_of_ended {m : Mach} {job op fl : Nat} {lost : Bool} {j : Job} {p : Plan} {ev ev1 : Event} {r : OpRec} {m1 m2 : Mach}
    (hj : m.jobOf job = some j) (hp : m.planOf j.plan = some p) (hev : j.run = some ev) (hr : p.ops[op]? = some r)
    (hphase : ev.phase = 1) (hnoTrap : j.traps = []) (hready : opReady p ev op = true)
    (hended : r.kind ≠ 4 → (m.alm.shares.filter (fun x => x.job == job && x.op == op)) ≠ [] ∧
      (∀ x ∈ m.alm.shares, x.job = job → x.op = op → x.ended = true ∧ m.latchOpen x = false))
    (hev1 : ev1 = { ev with done := ev.done ++ [op], flags := ev.flags ||| (fl / 64 % 64 * 64),
                            statuses := if lost || m.readsLost p r then ev.statuses ++ [stDataLost] else ev.statuses })
    (hm1 : m1 = m.setJob { j with run := some ev1 })
    (hm2 : m2 = { m1 with alm := { m1.alm with shares := m1.alm.shares.filter (fun x => !(x.job == job && x.op == op)) } }) :
    opOpComplete job op fl lost m = (if m.alm.jobs.any (fun x => x.plan == j.plan && x.id != j.id && x.run.isSome) then m2
      else (p.lastNamed ev1 op).foldl (fun m t => m.releaseTensor t) m2).settleSets := by
  have hall : (if r.kind = 4 then true else !(m.alm.shares.filter (fun s => s.job == job && s.op == op)).isEmpty &&
      (m.alm.shares.filter (fun s => s.job == job && s.op == op)).all (fun s => s.ended && !m.latchOpen s)) = true := by
    by_cases hkind : r.kind = 4
    · rw [if_pos hkind]
    · obtain ⟨hsome, hshares⟩ := hended hkind
      rw [if_neg hkind, Bool.and_eq_true, Bool.not_eq_true', List.isEmpty_eq_false_iff, List.all_eq_true]
      refine ⟨hsome, fun x hx => ?_⟩
      obtain ⟨hmem, hof⟩ := List.mem_filter.mp hx
      obtain ⟨hjob, hop⟩ : x.job = job ∧ x.op = op := by simpa using hof
      obtain ⟨hend, hlatch⟩ := hshares x hmem hjob hop
      simp [hend, hlatch]
  subst hm2 hm1 hev1
  simp only [opOpComplete, hj, hp, hev, hr, hall, hphase, hnoTrap, hready, List.isEmpty_nil, Bool.not_true, Bool.false_eq_true, ne_eq,
    not_true_eq_false, decide_false, Bool.or_self, if_false]

/-! Recomputation (05 R112 to R115) -/

section
variable {m m1 : Mach} {w : Nat} {sh again : Share} {j j1 : Job} {p : Plan} {ev : Event} {r : OpRec} {f : Nat × Mach}
  (hfind : m.alm.shares.find? (fun x => x.id == sh.id) = some sh) (hj : m.jobOf sh.job = some j) (hp : m.planOf j.plan = some p)
  (hev : j.run = some ev) (hr : p.ops[sh.op]? = some r) (hfailed : sh.failed = true) (hexpanded : sh.expanded = true) (htodo : sh.todo = [])
  (hwaits : sh.waits = 0) (hended : sh.ended = false) (hnoTrap : j.traps = []) (hphase : ev.phase = 1) (hup : m.procUp (4 + sh.cluster / 10) = true)
  (hm1 : m1 = m.reportTiles (sh.poisonNow.filter (fun t => sh.poisonBefore.contains t))) (hf : f = m1.refetchOp sh p r)
  (hj1 : j1 = j.onRun (fun e => { e with flags := e.flags ||| flRecomputed ||| (if f.1 = 1 then flReread else 0) }))
  (hagain : again = ⟨sh.id, sh.job, sh.op, sh.split, sh.cluster, sh.before, sh.tag, sh.work, sh.work, sh.expanded, [], sh.waits, false, sh.runs + 1, [],
    sh.poisonBefore ++ sh.poisonNow, sh.ended⟩)
include hfind hj hp hev hr hfailed hexpanded htodo hwaits hended hnoTrap hphase hup hm1 hf hj1 hagain

/-- A failed share that has all its reports: lost after two runs or a lost re-fetch, else run again where it was, and then on another cluster. -/
theorem opShareRecompute_eq : opShareRecompute sh.id w m =
    if 2 ≤ sh.runs then (m1.setShare { sh with ended := true }).loseEvent j
    else if 2 ≤ f.1 then (f.2.setShare { sh with ended := true }).loseEvent j
    else if sh.runs = 0 then (f.2.setJob j1).setShare again
    else if m.almUp && m.mayPlace j w && (decide (w / 10 = sh.cluster / 10) || !m.tagUsed (w / 10) sh.tag) then
      (f.2.setJob j1).setShare { again with cluster := w, before := sh.before ++ [sh.cluster], todo := [], expanded := false }
    else m := by
  subst hm1 hj1 hf hagain
  have hready : (sh.failed && sh.expanded && sh.todo.isEmpty && sh.waits == 0 && !sh.ended && j.traps.isEmpty &&
      (j.run.map (fun e => e.phase == 1)).getD false && m.procUp (4 + sh.cluster / 10)) = true := by
    simp [hfailed, hexpanded, htodo, hwaits, hended, hnoTrap, hev, hphase, hup]
  simp only [opShareRecompute, hfind, hj, hp, hr, hready, Option.bind_some, Bool.not_true, Bool.false_eq_true, if_false]

end

/-! The steward's end of a trapped job (05 R119 to R123) -/

section
variable {m : Mach} {job : Nat} {j : Job} {ev : Event} {rec : TrapRec} (hj : m.jobOf job = some j) (hev : j.run = some ev)
  (hrec : chosenTrap j.traps = some rec) (hsettled : m.trapSettled j = true)
include hj hev hrec hsettled

theorem opTrapRecordWrite_of_window (hwin : j.trapWin ≠ 0xFF) (hunwritten : ev.trapWritten = false) :
    opTrapRecordWrite job m = ((m.setJob (j.onRun (fun e => { e with trapWritten := true }))).setIo (jobKey job) Io.none).askWrite 2 (jobKey job)
      j.trapWin j.trapOff (trapBytes j rec) := by
  simp only [opTrapRecordWrite, hj, hev, hrec, hsettled, beq_eq_false_iff_ne.mpr hwin, hunwritten, Bool.not_true, Bool.or_self, Bool.false_eq_true,
    if_false]

theorem opTrapJobEnd_of_written (hdone : j.trapWin = 0xFF ∨ ev.trapWritten = true ∧ (m.io (jobKey job)).waits = 0) :
    opTrapJobEnd job m = m.finishEvent { j with stop := false } { ev with statuses := ev.statuses ++ [trapStatus rec.cause] }
      (b2n (ev.trapWritten && !(m.io (jobKey job)).fail)) true := by
  have hgo : ¬ (!m.trapSettled j || (j.trapWin != 0xFF && (!ev.trapWritten || (m.io (jobKey job)).waits != 0))) = true := by
    rcases hdone with hwin | ⟨hwritten, hcome⟩
    · simp [hsettled, hwin]
    · simp [hsettled, hwritten, hcome]
  simp only [opTrapJobEnd, hj, hev, hrec, if_neg hgo]

end

/-! Dispatch (07 R162) -/

section
variable {m0 m : Mach} {sh : Share} {work : List WorkPick} (hm : m = m0.settleSets) (hfind : m.alm.shares.find? (fun x => x.id == sh.id) = some sh)
  (hmay : m.dispatchable sh = true) (hup : m.procUp (4 + sh.cluster / 10) = true)
  (hfirst : ∀ x ∈ m.alm.shares, x.cluster = sh.cluster → m.dispatchable x = true → m.shareRank sh ≤ m.shareRank x)
include hm hfind hmay hup hfirst

theorem opShareDispatch_eq : opShareDispatch sh.id work m0 =
    if sh.expanded then m.dispatchItems sh sh.todo
    else ((m.jobOf sh.job).bind (fun j => (m.planOf j.plan).bind (fun p => p.ops[sh.op]?))).elim m (fun r =>
      if expansionOk r sh (work.map (itemOf r sh.tag)) then m.dispatchItems { sh with work := work.map (itemOf r sh.tag), expanded := true }
        (work.map (itemOf r sh.tag)) else m) := by
  have hnone : (m.alm.shares.filter (fun x => x.cluster == sh.cluster && m.dispatchable x)).any (fun x => decide (m.shareRank x < m.shareRank sh)) = false := by
    rw [List.any_eq_false]
    intro x hx
    obtain ⟨hmem, hof⟩ := List.mem_filter.mp hx
    obtain ⟨hcluster, hdisp⟩ : x.cluster = sh.cluster ∧ m.dispatchable x = true := by simpa using hof
    simpa using hfirst x hmem hcluster hdisp
  subst hm
  simp only [opShareDispatch, hfind, hmay, hup, hnone, Bool.not_true, Bool.or_self, Bool.false_eq_true, if_false]
  cases (m0.settleSets.jobOf sh.job).bind (fun j => (m0.settleSets.planOf j.plan).bind (fun p => p.ops[sh.op]?)) <;> rfl

end

/-! Trap latches (05 R119) -/

section
variable {m : Mach} {d c tag : Nat} {u : TrapUnit} (htag : m.latchTag u = (tag, c)) (hdie : c / 10 = d) (hup : m.procUp (4 + d) = true)
  (hruns : m.tagRuns u tag = false) (hraw : m.isRaw c = false) (hlatched : (m.latched u 0).isSome = true)
include htag hdie hup hruns hraw hlatched

theorem not_stewardPasses : ¬ ((m.latchTag u).2 / 10 ≠ d ∨ (!m.procUp (4 + d)) = true ∨ m.tagRuns u (m.latchTag u).1 = true ∨
    m.isRaw (m.latchTag u).2 = true ∨ (m.latched u 0).isNone = true) := by
  simp [htag, hdie, hup, hruns, hraw, Option.isSome_iff_ne_none.mp hlatched]

theorem opStewardTrapTake_of_share {sh : Share} {j : Job} {r : TrapRec}
    (hfind : m.alm.shares.find? (fun x => (x.cluster == c || x.before.contains c) && x.tag == tag) = some sh) (hj : m.jobOf sh.job = some j)
    (hr : m.latched u sh.op = some r) : opStewardTrapTake d u m = (opTrapLatchClear u m).setJob { j with traps := j.traps ++ [r] } := by
  simp only [opStewardTrapTake, if_neg (not_stewardPasses htag hdie hup hruns hraw hlatched)]
  simp only [htag, hfind, hj, hr, mergeTrap]

theorem opStewardTrapTake_of_none (hnone : ∀ x ∈ m.alm.shares, (x.cluster = c ∨ c ∈ x.before) → x.tag ≠ tag) :
    opStewardTrapTake d u m = opTrapLatchClear u m := by
  have hfind : m.alm.shares.find? (fun x => (x.cluster == c || x.before.contains c) && x.tag == tag) = none := by
    rw [List.find?_eq_none]
    exact fun x hx => by simpa using hnone x hx
  simp only [opStewardTrapTake, if_neg (not_stewardPasses htag hdie hup hruns hraw hlatched)]
  simp only [htag, hfind]

end

/-- Settles O19, command by command. -/
theorem operationsSharesAndTraps : Obligations.OperationsSharesAndTraps := by
  unfold Obligations.OperationsSharesAndTraps
  intro s m job j hm
  refine ⟨fun p ev op r picks cs halive hj hp hev hr hup hphase hnoTrap hready hkind hcovers hunplaced hstill hcs hfits hpreferred hadmitted hnoClash => ?_,
    fun p ev op r halive hj hp hev hr => ⟨fun fl lost ev1 m1 m2 hphase hnoTrap hready hended hev1 hm1 hm2 => ?_, ?_, fun rec hrec hsettled => ⟨?_, ?_⟩⟩,
    fun sh work items r p halive hfind hmay hup hfirst => ⟨fun hexp => ?_, fun hexp hj hp hr hitems hok => ?_⟩,
    fun d u c tag halive htag hdie hup hruns hraw hlatched => ⟨fun sh r hfind hj hr => ?_, fun hnone => ?_⟩⟩
  · refine ⟨(picks.zip (upFrom m.alm.nextShare picks.length)).map (shareOfPick job op), by simp [shareOfPick], fun x hx => ?_, State.on_of_eq halive
      (opOpPlace_of_ok hm hj hp hev hr ⟨hup, hphase, hnoTrap, hready, hkind, hcovers, hunplaced, hstill, hcs, hfits, hpreferred, hadmitted, hnoClash⟩)⟩
    obtain ⟨y, -, rfl⟩ := List.mem_map.mp hx
    simp [shareOfPick]
  · exact State.on_of_eq halive (opOpComplete_of_ended hj hp hev hr hphase hnoTrap hready hended hev1 hm1 hm2)
  · rintro sh w m1 f j1 again hfind rfl rfl hfailed hexpanded htodo hwaits hended hnoTrap hphase hup hm1 hf hj1 hagain
    have heq := opShareRecompute_eq (w := w.val) hfind hj hp hev hr hfailed hexpanded htodo hwaits hended hnoTrap hphase hup hm1 hf hj1 hagain
    refine ⟨fun hruns => State.on_of_eq halive (heq.trans (if_pos hruns)), fun hruns hlost => State.on_of_eq halive (heq.trans ?_),
      fun hruns hread => State.on_of_eq halive (heq.trans ?_), fun hruns hread halm hplace hwhere => State.on_of_eq halive (heq.trans ?_)⟩
    · rw [if_neg (Nat.not_le.mpr hruns), if_pos hlost]
    · rw [if_neg (by omega), if_neg (Nat.not_le.mpr hread), if_pos hruns]
    · have hgo : (s.m.almUp && s.m.mayPlace j w.val && (decide (w.val / 10 = sh.cluster / 10) || !s.m.tagUsed (w.val / 10) sh.tag)) = true := by
        simpa [halm, hplace] using hwhere
      rw [if_neg (by omega), if_neg (Nat.not_le.mpr hread), if_neg (by omega), if_pos hgo]
  · exact fun hwin hunwritten => State.on_of_eq halive (opTrapRecordWrite_of_window hj hev hrec hsettled hwin hunwritten)
  · exact fun hdone => State.on_of_eq halive (opTrapJobEnd_of_written hj hev hrec hsettled hdone)
  · exact State.on_of_eq halive ((opShareDispatch_eq hm hfind hmay hup hfirst).trans (if_pos hexp))
  · subst hitems
    refine State.on_of_eq halive ((opShareDispatch_eq hm hfind hmay hup hfirst).trans ?_)
    simp only [hexp, hj, hp, hr, hok, Option.bind_some, Option.elim_some, Bool.false_eq_true, if_true, if_false]
  · exact State.on_of_eq halive (opStewardTrapTake_of_share htag hdie hup hruns hraw hlatched hfind hj hr)
  · exact State.on_of_eq halive (opStewardTrapTake_of_none htag hdie hup hruns hraw hlatched hnone)

end Sys2Proof.Machine
end

section
/-! Jobs and their events (07 R164 to R168, 15 R366 to R368). -/

namespace Sys2Proof.Machine

/-! JOB and JOB_STOP -/

section
variable {m : Mach} {t : Ticket} {p : Plan} {pref : List Nat} (ht : m.ticketOf 1 = some t) (hup : m.almUp = true) (hp : m.planOf (dsPlan t.bytes) = some p)
include ht hup hp

theorem opJob_of_long (hlong : 256 < dsCount t.bytes) : opJob pref m = m.endTicket t 0 stAborted 0x82 := by
  simp only [opJob, ht, hup, hp, hlong, Bool.not_true, Bool.false_eq_true, if_false, if_true]

theorem opJob_of_new (hfits : dsCount t.bytes ≤ 256) (hbegun : t.begun = false) :
    opJob pref m = (m.begin_ t).askRead 2 (2 * t.no) (dsWin t.bytes) (dsOff t.bytes) (16 * dsCount t.bytes) := by
  simp only [opJob, ht, hup, hp, Nat.not_lt.mpr hfits, hbegun, Bool.not_true, Bool.not_false, Bool.false_eq_true, if_false, if_true]

section
variable {bs : List Binding} {j : Job} {m1 : Mach} (hfits : dsCount t.bytes ≤ 256) (hbegun : t.begun = true) (hcome : (m.io (2 * t.no)).waits = 0)
  (hfail : (m.io (2 * t.no)).fail = false) (hbs : bindingsOf (dsCount t.bytes) (m.io (2 * t.no)).buf = bs)
  (hstray : bindingsStray (dsCount t.bytes) (m.io (2 * t.no)).buf = false) (hgood : ∀ b ∈ bs, m.bindingBad p b = false)
  (hj : j = jobFrom t (m.alm.nextJob + 1) m.usec bs) (hm1 : m1 = { m with alm := { m.alm with nextJob := m.alm.nextJob + 1 } })
include hfits hbegun hcome hfail hbs hstray hgood hj hm1

/-- A JOB whose binding list has come and names no tensor wrongly: R165's test decides. -/
theorem opJob_of_bound : opJob pref m = (m1.takeJob pref j p).elim ((m1.cnt F.almRefusals 6 1).endTicket t (m.alm.nextJob + 1) stRefused 0)
    (fun set => ({ m1 with alm := { m1.alm with jobs := m1.alm.jobs ++ [{ j with set := set, nextSet := set }] },
                           hl := { m1.hl with tickets := m1.hl.tickets.filter (fun x => x.no != t.no) } } : Mach).setIo (2 * t.no) Io.none) := by
  have hnone : bs.any (m.bindingBad p) = false := by
    rw [List.any_eq_false]
    exact fun b hb => by simp [hgood b hb]
  subst hm1 hj hbs
  simp only [opJob, ht, hup, hp, Nat.not_lt.mpr hfits, hbegun, hcome, hfail, hstray, hnone, Bool.not_true, Bool.or_self, Bool.false_eq_true, ne_eq,
    not_true_eq_false, if_false]
  cases Mach.takeJob _ pref _ p <;> rfl

end

end

section
variable {m : Mach} {t : Ticket} {j : Job} (ht : m.ticketOf 4 = some t) (hup : m.procUp 1 = true) (hj : m.jobOf (dsArg t.bytes) = some j)
include ht hup hj

theorem opJobStop_of_between (hrun : j.run = none) : opJobStop m = (m.endTicket t j.id stOk 0).endJob j true 0 := by
  simp only [opJobStop, ht, hup, hj, hrun, Option.isNone_none, Bool.not_true, Bool.false_eq_true, if_false, if_true]

theorem opJobStop_of_running (hrun : j.run.isSome = true) : opJobStop m = (m.endTicket t j.id stOk 0).setJob { j with stop := true } := by
  simp only [opJobStop, ht, hup, hj, Option.isNone_eq_false_iff.mpr hrun, Bool.not_true, Bool.false_eq_true, if_false]

end

/-! The start, the frames and the end of an event -/

section
variable {m : Mach} {job : Nat} {j : Job} {p : Plan} (hj : m.jobOf job = some j) (hp : m.planOf j.plan = some p) (hup : m.procUp 1 = true)
include hj hp hup

theorem opJobEventStart_of_over (hrun : j.run = none) (hover : j.stop = true ∨ j.grace = some 0 ∨ (m.absent = true ∧ ∃ b ∈ j.bindings, b.dir = 0)) :
    opJobEventStart job m = m.endJob j true 0 := by
  have hgo : (j.stop || (m.absent && j.bindings.any (fun b => b.dir == 0)) || j.grace == some 0) = true := by
    rcases hover with hstop | hgrace | ⟨habsent, hread⟩
    · simp [hstop]
    · simp [hgrace]
    · simpa [habsent] using Or.inl (Or.inr hread)
  simp only [opJobEventStart, hj, hp, hup, hrun, if_pos hgo, Bool.not_true, Bool.false_eq_true, if_false]

theorem opJobEventStart_of_next (hrun : j.run = none) (hstop : j.stop = false) (habsent : m.absent = true → ∀ b ∈ j.bindings, b.dir ≠ 0)
    (hgrace : j.grace ≠ some 0) (hframe : j.cls = 0 → j.frames ≠ 0 ∧ m.planMoves p = false) (hfirst : j.nextEv = 0 → m.firstWaits p = false) :
    opJobEventStart job m = (m.setJob { j with run := some (newEvent j.nextEv), nextEv := j.nextEv + 1, frames := j.frames - 1 }).askInputs j j.nextEv := by
  have hgo : ¬ (j.stop || (m.absent && j.bindings.any (fun b => b.dir == 0)) || j.grace == some 0) = true := by
    simpa [hstop, hgrace] using habsent
  have hready : ¬ ((j.cls = 0 ∧ (j.frames = 0 ∨ m.planMoves p = true)) ∨ (j.nextEv = 0 ∧ m.firstWaits p = true)) := by
    rintro (⟨hcls, hno⟩ | ⟨hev, hwaits⟩)
    · obtain ⟨hsome, hstill⟩ := hframe hcls
      simp [hsome, hstill] at hno
    · simp [hfirst hev] at hwaits
  simp only [opJobEventStart, hj, hp, hup, hrun, if_neg hgo, if_neg hready, Bool.not_true, Bool.false_eq_true, if_false]

section
variable {ev : Event} (hrun : j.run = some ev) (hphase : ev.phase = 0) (hcome : (m.io (jobKey job)).waits = 0)
include hrun hphase hcome

theorem opJobEventStart_of_inputs {m1 : Mach} (hfail : (m.io (jobKey job)).fail = false)
    (hput : m.putInputs j p (m.io (jobKey job)).buf (j.bindings.filter (fun b => b.dir == 0)) = some m1) :
    opJobEventStart job m = (m1.setIo (jobKey job) Io.none).setJob { j with run := some { ev with phase := 1 } } := by
  simp only [opJobEventStart, hj, hp, hup, hrun, hphase, hcome, hfail, hput, Bool.not_true, Bool.false_eq_true, ne_eq, not_true_eq_false, or_self,
    if_false]

theorem opJobEventStart_of_fail (hfail : (m.io (jobKey job)).fail = true) : opJobEventStart job m = m.endJob j true 0 := by
  simp only [opJobEventStart, hj, hp, hup, hrun, hphase, hcome, hfail, Bool.not_true, Bool.false_eq_true, ne_eq, not_true_eq_false, or_self,
    if_false, if_true]

end

section
variable {ev : Event} (hrun : j.run = some ev) (hnoTrap : j.traps = [])
include hrun hnoTrap

theorem opJobEventEnd_of_done (hphase : ev.phase = 1) (hdone : ∀ o ∈ p.eventOps ev.no, o ∈ ev.done) {ev1 : Event} {m1 : Mach}
    (hask : m.askOutputs j p { ev with phase := 2 } (j.bindings.filter (fun b => b.dir == 1)) = some (ev1, m1)) :
    opJobEventEnd job m = m1.setJob { j with run := some ev1 } := by
  have hall : (p.eventOps ev.no).all (fun o => ev.done.contains o) = true :=
    List.all_eq_true.mpr fun o ho => List.contains_iff_mem.mpr (hdone o ho)
  simp only [opJobEventEnd, hj, hp, hup, hrun, hnoTrap, hphase, hall, hask, List.isEmpty_nil, Bool.not_true, Bool.or_self, Bool.false_eq_true, if_false,
    if_true]

theorem opJobEventEnd_of_delivered (hphase : ev.phase = 2) (hcome : (m.io (jobKey job)).waits = 0) :
    opJobEventEnd job m = m.finishEvent j { ev with undelivered := (m.io (jobKey job)).fail } (if (m.io (jobKey job)).fail then 2 else 0) false := by
  simp only [opJobEventEnd, hj, hp, hup, hrun, hnoTrap, hphase, hcome, List.isEmpty_nil, Bool.not_true, Bool.or_self, Bool.false_eq_true, ne_eq,
    not_true_eq_false, OfNat.ofNat_ne_one, if_false, if_true]

theorem opJobEventEnd_of_ending (hphase : ev.phase = 4) (hfree : m.jobBusy job = false) : opJobEventEnd job m = m.finishEvent j ev 0 true := by
  have hone : ¬ ev.phase = 1 := by omega
  have htwo : ¬ ev.phase = 2 := by omega
  have hgo : ev.phase = 4 ∧ (!m.jobBusy job) = true := ⟨hphase, by simp [hfree]⟩
  simp only [opJobEventEnd, hj, hp, hup, hrun, hnoTrap, if_neg hone, if_neg htwo, if_pos hgo, List.isEmpty_nil, Bool.not_true, Bool.or_self,
    Bool.false_eq_true, if_false]

end

end

section
variable {m : Mach} {job : Nat} {j : Job} {ok : Bool} (hj : m.jobOf job = some j) (hup : m.procUp 1 = true) (hcls : j.cls = 0)
include hj hup hcls

theorem opStreamFrameEvent_of_over (hgrace : j.grace = some 0) : opStreamFrameEvent job ok m = if j.run.isNone then m.endJob j true 0 else m := by
  simp only [opStreamFrameEvent, hj, hup, hcls, hgrace, Bool.not_true, Bool.false_eq_true, ne_eq, not_true_eq_false, or_self, if_false]

theorem opStreamFrameEvent_eq {j1 : Job} (hgrace : j.grace ≠ some 0) (hj1 : j1 = { j with grace := j.grace.map (fun k => k - 1) }) :
    opStreamFrameEvent job ok m =
      if !ok || j.set.isEmpty || (!j.held && (j.run.isSome || decide (0 < j.frames))) then m.dropFrame j1
      else m.setJob { j1 with frames := j.frames + 1 } := by
  subst hj1
  simp only [opStreamFrameEvent, hj, hup, hcls, Bool.not_true, Bool.false_eq_true, ne_eq, not_true_eq_false, or_self, if_false]

end

/-! Guarantees (R164 to R167) -/

/-- The clusters of a job after `settleSets`: a changed set is taken on each cluster where no share runs. -/
def settledSet (m : Mach) (j : Job) : List Nat :=
  if j.set = j.nextSet then j.set
  else (upFrom 0 60).filter (fun c => if m.alm.shares.any (fun s => s.cluster == c && !s.ended) then j.set.contains c else j.nextSet.contains c)

theorem Mach.settleSets_job (m : Mach) {k : Nat} {j : Job} (hk : m.alm.jobs[k]? = some j) :
    m.settleSets.alm.jobs[k]? = some { j with set := settledSet m j } := by
  simp only [Mach.settleSets, List.getElem?_map, hk, Option.map_some, settledSet]
  split <;> rfl

theorem mem_settledSet {m : Mach} {j : Job} {c : Nat} (hc : c < 60) (hchange : j.set ≠ j.nextSet) :
    c ∈ settledSet m j ↔ if m.alm.shares.any (fun s => s.cluster == c && !s.ended) then c ∈ j.set else c ∈ j.nextSet := by
  have hmem : c ∈ upFrom 0 60 := mem_upFrom.mpr (by omega)
  rw [settledSet, if_neg hchange, List.mem_filter]
  split <;> simp [hmem]

theorem mem_settledSet_of_free {m : Mach} {j : Job} {c : Nat} (hc : c < 60) (hfree : ∀ x ∈ m.alm.shares, x.cluster = c → x.ended = true)
    (hchange : j.set ≠ j.nextSet) : c ∈ settledSet m j ↔ c ∈ j.nextSet := by
  have hnone : m.alm.shares.any (fun s => s.cluster == c && !s.ended) = false := by
    rw [List.any_eq_false]
    exact fun x hx => by simpa using hfree x hx
  simp [mem_settledSet hc hchange, hnone]

theorem mem_settledSet_of_busy {m : Mach} {j : Job} {c : Nat} (hc : c < 60) (hbusy : ∃ x ∈ m.alm.shares, x.cluster = c ∧ x.ended = false)
    (hchange : j.set ≠ j.nextSet) : c ∈ settledSet m j ↔ c ∈ j.set := by
  have hany : m.alm.shares.any (fun s => s.cluster == c && !s.ended) = true := by simpa [List.any_eq_true] using hbusy
  simp [mem_settledSet hc hchange, hany]

theorem Mach.broken_iff (m : Mach) : m.broken = true ↔ ∃ j ∈ m.alm.jobs, j.cls ≠ 2 ∧ j.held = false := by
  simp [Mach.broken]

/-- Settles O20, command by command. -/
theorem jobsAndEvents : Obligations.JobsAndEvents := by
  unfold Obligations.JobsAndEvents
  intro s halive
  refine ⟨fun pref t p ht hup hp => ⟨fun hlong => State.on_of_eq halive (opJob_of_long ht hup hp hlong), fun hfits hbegun => State.on_of_eq halive
      (opJob_of_new ht hup hp hfits hbegun), fun bs j m1 hfits hbegun hcome hfail hbs hstray hgood hj hm1 => ?_⟩,
    fun t j ht hup hj => ⟨fun hrun => State.on_of_eq halive (opJobStop_of_between ht hup hj hrun), fun hrun => State.on_of_eq halive
      (opJobStop_of_running ht hup hj hrun)⟩,
    fun job j p hj hp hup => ⟨fun hrun hover => State.on_of_eq halive (opJobEventStart_of_over hj hp hup hrun hover),
      fun hrun hstop habsent hgrace hframe hfirst => State.on_of_eq halive (opJobEventStart_of_next hj hp hup hrun hstop habsent hgrace hframe hfirst),
      fun ev m1 hrun hphase hcome hfail hput => State.on_of_eq halive (opJobEventStart_of_inputs hj hp hup hrun hphase hcome hfail hput),
      fun ev hrun hphase hcome hfail => State.on_of_eq halive (opJobEventStart_of_fail hj hp hup hrun hphase hcome hfail), fun ok hcls hgrace => ?_,
      fun ok j1 hcls hgrace hj1 => ⟨fun hok hset hturn => ?_, fun hdrop => ?_⟩,
      fun ev hrun hnoTrap hphase hdone ev1 m1 hask => State.on_of_eq halive (opJobEventEnd_of_done hj hp hup hrun hnoTrap hphase hdone hask),
      fun ev hrun hnoTrap hphase hcome => State.on_of_eq halive (opJobEventEnd_of_delivered hj hp hup hrun hnoTrap hphase hcome),
      fun ev hrun hnoTrap hphase hfree => State.on_of_eq halive (opJobEventEnd_of_ending hj hp hup hrun hnoTrap hphase hfree)⟩,
    fun pref vs js hup hvs hjs => ⟨?_, fun m k j hk => ⟨settledSet m j, m.settleSets_job hk, fun c hc hfree hchange => mem_settledSet_of_free hc hfree
      hchange, fun c hc hbusy hchange => mem_settledSet_of_busy hc hbusy hchange, fun hsame => if_pos hsame⟩⟩, s.m.broken_iff⟩
  · have hjob := opJob_of_bound (pref := pref.map (fun c => c.val)) ht hup hp hfits hbegun hcome hfail hbs hstray hgood hj hm1
    refine ⟨fun hnone => State.on_of_eq halive (hjob.trans (by rw [hnone, Option.elim_none])), fun set hset => ⟨_, State.on_of_eq halive (hjob.trans (by rw [hset, Option.elim_some])), ?_⟩⟩
    subst hm1
    exact ⟨rfl, rfl, rfl⟩
  · have hover := opStreamFrameEvent_of_over (ok := ok) hj hup hcls hgrace
    by_cases hrun : j.run = none
    · rw [if_pos hrun]
      exact State.on_of_eq halive (hover.trans (by rw [hrun, Option.isNone_none, if_pos rfl]))
    · rw [if_neg hrun]
      exact State.on_of_same (hover.trans (if_neg (by simpa using hrun)))
  · refine State.on_of_eq halive ((opStreamFrameEvent_eq hj hup hcls hgrace hj1).trans (if_neg ?_))
    rcases hturn with hheld | ⟨hrun, hframes⟩
    · simp [hok, hset, hheld]
    · simp [hok, hset, hrun, hframes]
  · refine State.on_of_eq halive ((opStreamFrameEvent_eq hj hup hcls hgrace hj1).trans (if_pos ?_))
    rcases hdrop with hok | hset | ⟨hheld, hrun | hframes⟩
    · simp [hok]
    · simp [hset]
    · simp [hheld, hrun]
    · simp [hheld, hframes]
  · subst hjs hvs
    refine State.on_of_eq halive ?_
    simp only [opCapacityReevaluation, hup, if_true, Mach.reevaluate]
    rfl

end Sys2Proof.Machine
end

section
/-! Reservations of clusters and ALMANAC's RUN (07 R170 to R172). -/

namespace Sys2Proof.Machine

section
variable {m : Mach} {c who : Nat}

theorem opReserveRequest_of_requested (hreq : m.requested c = true) : opReserveRequest c who m = m.respond who rsOk := by
  simp only [opReserveRequest, hreq, if_true]

theorem opReserveRequest_of_stopped (hreq : m.requested c = false) (hup : m.almUp = false) :
    opReserveRequest c who m = (m.respond who rsOk).setRequest c true := by
  simp only [opReserveRequest, hreq, hup, Bool.false_and, Bool.false_eq_true, if_false]

theorem opReserveRequest_of_up (hreq : m.requested c = false) (hup : m.almUp = true) (hraw : m.isRaw c = false) :
    opReserveRequest c who m = ((m.respond who rsOk).setRequest c true).testRequest c := by
  simp only [opReserveRequest, hreq, hup, hraw, Bool.not_false, Bool.and_self, Bool.false_eq_true, if_true, if_false]

theorem opReserveGrant_of_free (hup : m.almUp = true) (hreq : m.requested c = true) (hraw : m.isRaw c = false)
    (hshares : ∀ x ∈ m.alm.shares, x.cluster = c → x.ended = true) (hslabs : m.slabsIn c = false) (hse : m.seUsesCluster c = false) :
    opReserveGrant c m = ((m.handBanks c 0xF).setReserved c true).reevaluate [] := by
  have hnone : m.alm.shares.any (fun s => s.cluster == c && !s.ended) = false := by
    rw [List.any_eq_false]
    exact fun x hx => by simpa using hshares x hx
  simp only [opReserveGrant, hup, hreq, hraw, hnone, hslabs, hse, Bool.not_true, Bool.or_self, Bool.false_eq_true, if_false]

theorem opReserveRelease_of_requested (hreq : m.requested c = true) (hraw : m.isRaw c = true) (hup : m.almUp = true) :
    opReserveRelease c who m = ((m.setRequest c false).respond who rsOk).flushCluster c := by
  simp only [opReserveRelease, hreq, hraw, hup, Bool.and_self, if_true]

theorem opReserveRelease_of_other (hother : m.isRaw c = false ∨ m.almUp = false ∨ m.requested c = false) :
    opReserveRelease c who m = (m.setRequest c false).respond who rsOk := by
  refine if_neg ?_
  rcases hother with h | h | h <;> simp [h]

theorem opReserveReturn_of_stopped {g : Nat} (hreq : m.requested c = false) (hraw : m.isRaw c = true) (hup : m.almUp = true)
    (htiles : ∀ t ∈ upFrom (16 * c) 16, m.tileStopped t = true) (hrun : m.on F.veCtrlRun (clIx c) = false) (hidle : (m.ve c).idle = true) :
    opReserveReturn c g m = ((m.handBanks c g).setReserved c false).reevaluate [] := by
  simp only [opReserveReturn, hreq, hraw, hup, hrun, hidle, List.all_eq_true.mpr htiles, Bool.not_true, Bool.not_false, Bool.and_self, Bool.or_self,
    Bool.false_eq_true, if_false]

end

section
variable {m : Mach} {who : Nat}

theorem opAlmCtrlRun_stop : opAlmCtrlRun who false m = (m.wr F.almCtrlRun 6 0).respond who rsOk := rfl

theorem opAlmCtrlRun_of_running (hrun : m.on F.almCtrlRun 6 = true) : opAlmCtrlRun who true m = (m.wr F.almCtrlRun 6 1).respond who rsOk := by
  have hwas : m.on F.almCtrlRun kp = true := hrun
  simp only [opAlmCtrlRun, hwas, Bool.not_true, Bool.and_false, Bool.false_and, Bool.false_eq_true, if_false]
  rfl

theorem opAlmCtrlRun_of_restart (hrun : m.on F.almCtrlRun 6 = false) :
    opAlmCtrlRun who true m = if m.procUp 1 then ((m.wr F.almCtrlRun 6 1).respond who rsOk).catchUp else (m.wr F.almCtrlRun 6 1).respond who rsOk := by
  have hwas : m.on F.almCtrlRun kp = false := hrun
  simp only [opAlmCtrlRun, hwas, Bool.not_false, Bool.and_true, Bool.true_and]
  rfl

end

/-- Nothing is caught up with beside the re-evaluation when every request has been answered. -/
theorem Mach.catchUp_of_settled (m : Mach) (h : ∀ c, c < 60 → m.requested c = m.isRaw c) : m.catchUp = m.reevaluate [] := by
  have hask : (upFrom 0 60).filter (fun c => m.requested c && !m.isRaw c) = [] :=
    List.filter_eq_nil_iff.mpr fun c hc => by simp [h c (by simpa using (mem_upFrom.mp hc).2)]
  have hback : (upFrom 0 60).filter (fun c => !m.requested c && m.isRaw c) = [] :=
    List.filter_eq_nil_iff.mpr fun c hc => by simp [h c (by simpa using (mem_upFrom.mp hc).2)]
  simp only [Mach.catchUp, hask, hback, List.foldl_nil]

/-- Settles O21, command by command. -/
theorem reservationCommands : Obligations.ReservationCommands := by
  unfold Obligations.ReservationCommands
  refine ⟨fun c s halive => ⟨fun who hreq => State.on_of_eq halive (opReserveRequest_of_requested hreq),
      fun who hreq hup => State.on_of_eq halive (opReserveRequest_of_stopped hreq hup),
      fun who hreq hup hraw => State.on_of_eq halive (opReserveRequest_of_up hreq hup hraw),
      fun hup hreq hraw hshares hslabs hse => State.on_of_eq halive (opReserveGrant_of_free hup hreq hraw hshares hslabs hse),
      fun who hother => State.on_of_eq halive (opReserveRelease_of_other hother),
      fun who hreq hraw hup => State.on_of_eq halive (opReserveRelease_of_requested hreq hraw hup),
      fun g hreq hraw hup htiles hrun hidle => State.on_of_eq halive (opReserveReturn_of_stopped hreq hraw hup htiles hrun hidle)⟩,
    fun who s halive => ⟨State.on_of_eq halive opAlmCtrlRun_stop, fun hrun => State.on_of_eq halive (opAlmCtrlRun_of_running hrun),
      fun m1 hrun hup hm1 => ?_, fun hrun hup => ?_⟩, Mach.catchUp_of_settled⟩
  · subst hm1
    exact State.on_of_eq halive ((opAlmCtrlRun_of_restart hrun).trans (if_pos hup))
  · exact State.on_of_eq halive ((opAlmCtrlRun_of_restart hrun).trans (if_neg (by simp [hup])))

end Sys2Proof.Machine
end

section
/-! Transfers of a stream engine (08 R175 to R184, R192, R193). -/

namespace Sys2Proof.Machine

/-! Arming (R177) -/

theorem opSeArm_of_unit {d e n who : Nat} {job : Option Nat} {m : Mach} (hnone : (if who = idSteward d then job else none).bind m.jobOf = none) :
    opSeArm d e n who job m = (m.enter d e n (m.snapshot d e n)).respond who rsOk := by
  simp only [opSeArm, hnone, Mach.arm]

theorem opSeArm_of_job {d e n who : Nat} {job : Option Nat} {m m1 : Mach} {j : Job} (hwho : who = idSteward d) (hj : job.bind m.jobOf = some j)
    (hnoTrap : j.traps = []) (hm1 : m1 = (if j.cls ≤ 1 then m.wr F.niClassClass (ix d (10 + e) 0 0) (j.cls + 1) else m)) :
    opSeArm d e n who job m = (m1.enter d e n { m.snapshot d e n with job := some j.id }).respond who rsOk := by
  have hjob : (if who = idSteward d then job else none).bind m.jobOf = some j := by rw [if_pos hwho, hj]
  subst hm1
  simp only [opSeArm, hjob, hnoTrap, List.isEmpty_nil, if_true]
  rfl

section
variable {m : Mach} {d e n : Nat} {a : Arming}

theorem Mach.enter_of_empty (hcount : a.count = 0) : m.enter d e n a = m.mail (idSe d e) a.notify
    (seWords d e a 2 1 2 0 0 (m.rd F.seDescDone (seDesc d e n)) noEntry 0xFF 0 0) := by
  simp only [Mach.enter, hcount, if_true]

section
variable (hcount : a.count ≠ 0)
include hcount

theorem Mach.enter_of_idle (hstate : m.rd F.seDescStateState (seDesc d e n) = 0) :
    m.enter d e n a = (m.setSe d e { m.se d e with queue := (m.se d e).queue ++ [a] }).wr F.seDescStateState (seDesc d e n) 1 := by
  simp [Mach.enter, hcount, hstate, dQueued, dRunning]

theorem Mach.enter_of_queued (hstate : m.rd F.seDescStateState (seDesc d e n) = 1) :
    m.enter d e n a = (m.setSe d e { m.se d e with queue := replaceArm a (m.se d e).queue }).ev F.seEventsRearmOverrun (seIx d e) := by
  simp [Mach.enter, hcount, hstate, dQueued]

theorem Mach.enter_of_running (hstate : m.rd F.seDescStateState (seDesc d e n) = 2) (hpending : m.on F.seDescStatePending (seDesc d e n) = false) :
    m.enter d e n a = (m.setSe d e { m.se d e with pending := (m.se d e).pending ++ [a] }).wr F.seDescStatePending (seDesc d e n) 1 := by
  simp [Mach.enter, hcount, hstate, hpending, dQueued, dRunning]

theorem Mach.enter_of_pending (hstate : m.rd F.seDescStateState (seDesc d e n) = 2) (hpending : m.on F.seDescStatePending (seDesc d e n) = true) :
    m.enter d e n a = (m.setSe d e { m.se d e with pending := replaceArm a (m.se d e).pending }).ev F.seEventsRearmOverrun (seIx d e) := by
  simp [Mach.enter, hcount, hstate, hpending, dQueued, dRunning]

end

end

/-! The transfer (R178 to R184) -/

theorem not_fetchIdle {t : Transfer} (hmet : t.met = none) (hgood : t.failed = false) (hkept : t.flushed = false) (hmore : t.fetched < t.arm.count)
    (hroom : t.openEntries.length < 256) :
    ¬ (t.met.isSome || t.failed || t.flushed || decide (t.arm.count ≤ t.fetched) || decide (256 ≤ t.openEntries.length)) = true := by
  simp [hmet, hgood, hkept, hmore, hroom]

section
variable {m : Mach} {d e : Nat} {x : StreamEng} (hx : m.se d e = x)
include hx

theorem opTransferStart_of_head {a : Arming} {l : List Arming} (hidle : x.run = none) (hqueue : x.queue = a :: l)
    (hrun : m.on F.seCtrlRun (seIx d e) = true) :
    opTransferStart d e m = ((m.setSe d e { x with run := some ⟨a, 0, [], 0, a.enable, 0, [], none, false, false, [], []⟩, queue := l }).wr
      F.seDescStateState (seDesc d e a.desc) 2).wr F.seDescDone (seDesc d e a.desc) 0 := by
  simp only [opTransferStart, hx, hidle, hqueue, hrun, Bool.not_true, Bool.false_eq_true, if_false, dRunning]

section
variable {t : Transfer} (ht : x.run = some t)
include ht

section
variable (hmet : t.met = none) (hgood : t.failed = false) (hkept : t.flushed = false) (hmore : t.fetched < t.arm.count) (hroom : t.openEntries.length < 256)
include hmet hgood hkept hmore hroom

theorem opListFetch_of_ok {r : List Byte × Nat × Mach} (hsay : m.unitSay (idSe d e) (t.arm.list + 64 * (t.fetched / 2)) = .ok)
    (hr : m.readUnit (idSe d e) (t.arm.list + 64 * (t.fetched / 2)) = r) :
    opListFetch d e m = if r.2.1 < 2 then r.2.2.fetchLine d e r.1 2 else r.2.2.setSe d e { x with run := some (t.meet 6 t.fetched) } := by
  subst hr
  simp only [opListFetch, hx, ht, if_neg (not_fetchIdle hmet hgood hkept hmore hroom), hsay]
  simp only [← Nat.not_lt, ite_not]

theorem opListFetch_of_refuse (hsay : m.unitSay (idSe d e) (t.arm.list + 64 * (t.fetched / 2)) = .refuse) :
    opListFetch d e m = (m.unitRefuse (idSe d e) (t.arm.list + 64 * (t.fetched / 2))).setSe d e { x with run := some (t.meet 6 t.fetched) } := by
  simp only [opListFetch, hx, ht, if_neg (not_fetchIdle hmet hgood hkept hmore hroom), hsay]

end

theorem opEntryIssue_of_pick {reread lent : Bool} {y : SeEntry} {m0 : Mach} {r : Transfer × Mach} {r1 : Transfer}
    (hpick : m.wheelPick d e t = some (y, lent)) (hm0 : m0 = (if lent then m.wrap F.seLent (seIx d e) 1 else m))
    (hr : m0.issueUnits d e { t with flags := 0 } y 4 = r)
    (hr1 : r1 = r.1.mark (reread && r.1.entries.any (fun z => z.idx == y.idx && decide (y.issued < z.issued)))) :
    opEntryIssue d e reread m = (r.2.setSe d e { x with run := some { r1 with flags := t.flags ||| r1.flags } }).seEvents d e t r1 r1.flags := by
  subst hr1 hr hm0
  simp only [opEntryIssue, hx, ht, hpick]

theorem opEntryComplete_of_done {i : Nat} {y : SeEntry} {t1 : Transfer} {r : Mach × List SeEntry}
    (hy : t.entries.find? (fun y => y.idx == i) = some y) (hdone : t.entryDone y = true) (ht1 : t1 = t.putEntry { y with complete := true, data := [] })
    (hr : m.advance d e t1 t1.entries = r) : opEntryComplete d e i m = r.1.setSe d e { x with run := some { t1 with entries := r.2 } } := by
  subst hr ht1
  simp only [opEntryComplete, hx, ht, hy, hdone, Bool.not_true, Bool.false_eq_true, if_false]

theorem opTransferError_of_met {c i : Nat} (hmet : t.met = some (c, i)) (hgood : t.failed = false) :
    opTransferError d e m = ((((m.setSe d e { x with run := some { t with failed := true } }).wr F.seErrCause (seIx d e) c).wr F.seErrDesc (seIx d e)
      t.arm.desc).wr F.seErrEntry (seIx d e) i).ev F.seEventsError (seIx d e) := by
  simp only [opTransferError, hx, ht, hmet, hgood, Bool.false_eq_true, if_false]

section
variable {whole : Bool} {status cause : Nat} {m1 : Mach} (hnotices : t.notices = [])
  (hwhole : whole = true ↔ m.rd F.seDescDone (seDesc d e t.arm.desc) = t.arm.count ∧ t.failed = false ∧ t.met = none)
  (hstill : t.failed = true ∨ t.flushed = true → t.underWay = false) (hall : t.failed = false → t.flushed = false → whole = true)
  (hstatus : status = (if t.failed then 1 else if t.flushed then 2 else 0)) (hcause : cause = (if t.failed then (t.met.map (fun c => c.1)).getD 0 else 0))
  (hm1 : m1 = (m.seSend d e t 2 status cause 0xFF 0 0).jobTransfer t whole)
include hnotices hwhole hstill hall hstatus hcause hm1

/-- A transfer whose entries have ended and whose notices are sent ends with its message, and the descriptor's pending arming takes its place. -/
theorem opTransferComplete_eq : opTransferComplete d e m = (x.pending.find? (fun a => a.desc == t.arm.desc)).elim
    ((m1.setSe d e { x with run := none }).wr F.seDescStateState (seDesc d e t.arm.desc) (if x.queue.any (fun a => a.desc == t.arm.desc) then 1 else 0))
    (fun a => ((m1.setSe d e { x with run := none, queue := x.queue ++ [a], pending := x.pending.filter (fun b => b.desc != a.desc) }).wr
      F.seDescStatePending (seDesc d e t.arm.desc) 0).wr F.seDescStateState (seDesc d e t.arm.desc) 1) := by
  have hw : (decide (m.rd F.seDescDone (seDesc d e t.arm.desc) = t.arm.count) && !t.failed && t.met.isNone) = whole := by
    rw [Bool.eq_iff_iff, hwhole]
    simp [and_assoc]
  have hgo : ¬ (!(if t.flushed = true ∨ t.failed = true then !t.underWay else whole) || !t.notices.isEmpty ||
      (t.met.isSome && !t.failed && !t.flushed)) = true := by
    by_cases hends : t.flushed = true ∨ t.failed = true
    · have hmet : (t.met.isSome && !t.failed && !t.flushed) = false := by rcases hends with h | h <;> simp [h]
      simp [hends, hstill hends.symm, hnotices, hmet]
    · obtain ⟨hflushed, hfailed⟩ := not_or.mp hends
      have hyes := hall (by simpa using hfailed) (by simpa using hflushed)
      simp [hends, hyes, hnotices, (hwhole.mp hyes).2.2]
  subst hm1 hcause hstatus
  simp only [opTransferComplete, hx, ht, hw, if_neg hgo, dQueued, dIdle]
  cases x.pending.find? (fun a => a.desc == t.arm.desc) <;> rfl

end

end

end

/-- Settles O22, command by command. -/
theorem streamEngineTransfers : Obligations.StreamEngineTransfers := by
  unfold Obligations.StreamEngineTransfers
  intro d e s x q halive hx hq
  subst hq
  refine ⟨fun n who job => ⟨fun hnone => State.on_of_eq halive (opSeArm_of_unit hnone), fun j m1 hwho hj hnoTrap hm1 => State.on_of_eq halive
      (opSeArm_of_job hwho hj hnoTrap hm1)⟩, fun n a p hp => ?_,
    fun a l hidle hqueue hrun => State.on_of_eq halive (opTransferStart_of_head hx hidle hqueue hrun),
    fun t ht => ⟨fun hmet hgood hkept hmore hroom => ⟨fun r hsay hr => State.on_of_eq halive (opListFetch_of_ok hx ht hmet hgood hkept hmore hroom hsay
        hr), fun hsay => State.on_of_eq halive (opListFetch_of_refuse hx ht hmet hgood hkept hmore hroom hsay)⟩,
      fun reread lent y m0 r r1 hpick hm0 hr hr1 => State.on_of_eq halive (opEntryIssue_of_pick hx ht hpick hm0 hr hr1),
      fun i y t1 r hy hdone ht1 hr => State.on_of_eq halive (opEntryComplete_of_done hx ht hy hdone ht1 hr),
      fun c i hmet hgood => State.on_of_eq halive (opTransferError_of_met hx ht hmet hgood),
      fun whole status cause m1 hnotices hwhole hstill hall hstatus hcause hm1 => ?_⟩⟩
  · subst hp hx
    exact ⟨Mach.enter_of_empty, Mach.enter_of_idle, Mach.enter_of_queued, Mach.enter_of_running, Mach.enter_of_pending⟩
  · have heq := opTransferComplete_eq hx ht hnotices hwhole hstill hall hstatus hcause hm1
    refine ⟨fun hnone => State.on_of_eq halive (heq.trans (by rw [hnone, Option.elim_none])), fun a l ha hl => State.on_of_eq halive (heq.trans ?_)⟩
    rw [ha, hl, Option.elim_some]

end Sys2Proof.Machine
end

section
/-! Multicast, the wheel and control of a stream engine (08 R185 to R191, R194, R195). -/

namespace Sys2Proof.Machine

/-! The lag test (R187, R188) -/

theorem Transfer.attached_foldl_detach (x : Transfer) (l : List Nat) (i : Nat) :
    bitOf i (l.foldl (fun y j => y.detach j 1) x).attached = true ↔ bitOf i x.attached = true ∧ i ∉ l := by
  induction l generalizing x with
  | nil => simp
  | cons j l ih =>
    rw [List.foldl_cons, ih]
    simp [Transfer.detach, and_assoc]

theorem Transfer.mem_receivers {t : Transfer} {i : Nat} : i ∈ t.receivers ↔ i < 16 ∧ bitOf i t.attached = true := by
  simp [Transfer.receivers, mem_upFrom]

theorem Transfer.lagTest_near (t : Transfer) : t.lagTest.1 = true ↔ ∃ i ∈ t.receivers, t.arm.lagMax < 2 * (t.maxCount - t.count i) := by
  simp [Transfer.lagTest]

theorem Transfer.lagTest_attached (t : Transfer) (i : Nat) :
    bitOf i t.lagTest.2.attached = true ↔ bitOf i t.attached = true ∧ (i < 16 → t.maxCount - t.count i ≤ t.arm.lagMax) := by
  rw [Transfer.lagTest, Transfer.attached_foldl_detach]
  simp only [List.mem_filter, Transfer.mem_receivers, decide_eq_true_eq, not_and, Nat.not_lt]
  constructor
  · exact fun ⟨hatt, hlag⟩ => ⟨hatt, fun hi => hlag ⟨hi, hatt⟩⟩
  · exact fun ⟨hatt, hlag⟩ => ⟨hatt, fun ⟨hi, _⟩ => hlag hi⟩

/-! Delivery and detachment -/

section
variable {m : Mach} {d e : Nat} {x : StreamEng} (hx : m.se d e = x)
include hx

section
variable {r : Nat} {t : Transfer} (ht : x.run = some t)
include ht

theorem opMulticastDeliver_of_next {y : SeEntry} {l : Bool × Transfer} (hatt : bitOf r t.attached = true) (hnext : t.nextBlock r = some y)
    (hl : (t.deliver y r).lagTest = l) :
    opMulticastDeliver d e r m = (m.setSe d e { x with run := some l.2 }).seEvents d e t l.2 (if l.1 then flMcLag else 0) := by
  subst hl
  simp only [opMulticastDeliver, hx, ht, hatt, hnext, Bool.not_true, Bool.false_eq_true, if_false]

theorem opDetachNotice_of_notice {c : Nat} {t1 : Transfer} (hnotice : t.notices.find? (fun n => n == (r, c)) = some (r, c))
    (ht1 : t1 = { t.settle r with notices := (t.settle r).notices.filter (fun n => n.1 != r) }) :
    opDetachNotice d e r c m = (m.seSend d e t1 3 0 c r (t1.count r) 0).setSe d e { x with run := some t1 } := by
  subst ht1
  simp only [opDetachNotice, hx, ht, hnotice]

end

/-! The wheel's slots (R194) -/

theorem opSeSlotWrite_of_held {i who v : Nat} (hrun : m.seStopped d e = false) (hpos : m.rd F.seWheelPosSlot (seIx d e) = i) :
    opSeSlotWrite d e i who v m = m.setSe d e { x with slots := x.slots ++ [(i, who, v)] } := by
  simp only [opSeSlotWrite, hx, hrun, hpos, Bool.not_false, and_self, if_true]

theorem opSeSlotHeldRelease_of_free {h : Nat × Nat × Nat}
    (hfree : x.slots.find? (fun h => m.seStopped d e || m.rd F.seWheelPosSlot (seIx d e) != h.1) = some h) :
    opSeSlotHeldRelease d e m = ((m.setSe d e { x with slots := x.slots.erase h }).slotLand d e h.1 h.2.2).respond h.2.1 rsOk := by
  simp only [opSeSlotHeldRelease, hx, hfree]

end

theorem Mach.slotLand_eq (m : Mach) (d e i v : Nat) :
    m.slotLand d e i v = if v % 4 = 3 then m else m.wr F.seSlotKind (seDesc d e i) (v % 4) := by
  have hlegal : F.seSlotKind.isLegal (v % 4) = !decide (v % 4 = 3) := by
    obtain h | h | h | h : v % 4 = 0 ∨ v % 4 = 1 ∨ v % 4 = 2 ∨ v % 4 = 3 := by omega
    all_goals rw [h]; decide
  rw [Mach.slotLand, hlegal]
  by_cases h3 : v % 4 = 3 <;> simp [h3]

theorem opSeSlotWrite_of_free {m : Mach} {d e i who v : Nat} (hfree : m.seStopped d e = true ∨ m.rd F.seWheelPosSlot (seIx d e) ≠ i) :
    opSeSlotWrite d e i who v m = (if v % 4 = 3 then m else m.wr F.seSlotKind (seDesc d e i) (v % 4)).respond who rsOk := by
  have hgo : ¬ ((!m.seStopped d e) = true ∧ m.rd F.seWheelPosSlot (seIx d e) = i) := by
    rcases hfree with h | h <;> simp [h]
  rw [opSeSlotWrite, if_neg hgo, Mach.slotLand_eq]

/-! What a cluster is owed (R191) and control -/

theorem opMulticastCompletionUnicast_of_owed {m m1 : Mach} {job c d e n l k nt tag : Nat} {j : Job} (hj : m.jobOf job = some j)
    (hup : m.procUp (4 + d) = true) (hnoTrap : j.traps = []) (howed : (⟨job, c⟩ : Owed) ∈ m.alm.owed)
    (hm1 : m1 = ((((m.wr F.seDescListLo (seDesc d e n) (l % 2 ^ 32 / 64)).wr F.seDescListHi (seDesc d e n) (l / 2 ^ 32)).wr
      F.seDescCount (seDesc d e n) k).wr F.seDescNotify (seDesc d e n) nt).wr F.seDescTag (seDesc d e n) tag) :
    opMulticastCompletionUnicast job c d e n l k nt tag m = m1.armFor d e n j (some c) := by
  have hgo : ¬ (!m.procUp (4 + d) || !j.traps.isEmpty || !m.alm.owed.contains ⟨job, c⟩) = true := by simp [hup, hnoTrap, howed]
  subst hm1
  simp only [opMulticastCompletionUnicast, hj, if_neg hgo]

theorem opWheelAdvance_of_running {m : Mach} {d e : Nat} (hrun : m.seStopped d e = false) :
    opWheelAdvance d e m = m.wr F.seWheelPosSlot (seIx d e) (m.rd F.seWheelPosSlot (seIx d e) + 1) := by
  rw [opWheelAdvance, if_neg (by simp [hrun])]

/-- A descriptor that is idle and has no arming pending. -/
def Mach.DescFree (m : Mach) (d e i : Nat) : Prop :=
  m.rd F.seDescStateState (seDesc d e i) = 0 ∧ m.rd F.seDescStatePending (seDesc d e i) = 0

/-- FLUSH's writes of one descriptor's status. -/
def Mach.freeDesc (m : Mach) (d e n : Nat) : Mach := (m.wr F.seDescStateState (seDesc d e n) dIdle).wr F.seDescStatePending (seDesc d e n) 0

theorem Mach.freeDesc_descFree (m : Mach) (d e n : Nat) : (m.freeDesc d e n).DescFree d e n := by
  simp (disch := decide) [Mach.DescFree, Mach.freeDesc, Mach.rd_wr_ne, dIdle]

theorem seDesc_lt {d e n : Nat} (hd : d < 6) (he : e < 16) (hn : n < 8) : seDesc d e n < 2 ^ 24 := by
  simp only [seDesc, ix]
  omega

theorem Mach.freeDesc_keeps {m : Mach} {d e i n : Nat} (hd : d < 6) (he : e < 16) (hi : i < 8) (hn : n < 8) (h : m.DescFree d e i) :
    (m.freeDesc d e n).DescFree d e i := by
  by_cases hin : i = n
  · exact hin ▸ m.freeDesc_descFree d e n
  · have hplace : seDesc d e i ≠ seDesc d e n := by
      simp only [seDesc, ix]
      omega
    have hpi := seDesc_lt hd he hi
    have hpn := seDesc_lt hd he hn
    have hids : F.seDescStateState.id ≠ F.seDescStatePending.id := by decide
    obtain ⟨hstate, hpending⟩ := h
    refine ⟨?_, ?_⟩
    · rw [Mach.freeDesc, Mach.rd_wr_of_id_ne _ _ hids hpi hpn, Mach.rd_wr_of_place_ne _ _ _ hplace hpi hpn, hstate]
    · rw [Mach.freeDesc, Mach.rd_wr_of_place_ne _ _ _ hplace hpi hpn, Mach.rd_wr_of_id_ne _ _ hids.symm hpi hpn, hpending]

theorem Mach.foldl_freeDesc {d e i : Nat} (hd : d < 6) (he : e < 16) (hi : i < 8) (l : List Nat) (hl : ∀ n ∈ l, n < 8) (m : Mach)
    (h : i ∈ l ∨ m.DescFree d e i) : (l.foldl (fun m n => m.freeDesc d e n) m).DescFree d e i := by
  induction l generalizing m with
  | nil => simpa using h
  | cons n l ih =>
    refine ih (fun k hk => hl k (List.mem_cons_of_mem n hk)) _ ?_
    rcases h with hmem | hfree
    · rcases List.mem_cons.mp hmem with rfl | hmem
      · exact Or.inr (m.freeDesc_descFree d e i)
      · exact Or.inl hmem
    · exact Or.inr (m.freeDesc_keeps hd he hi (hl n List.mem_cons_self) hfree)

/-- A stream engine after FLUSH (R195): its queues empty, its transfer without the entries that had not issued. -/
def StreamEng.flushed (x : StreamEng) : StreamEng :=
  { x with queue := [], pending := [], run := x.run.map (fun t =>
    { t with flushed := true, entries := t.entries.filter (fun y => y.complete || decide (0 < y.issued)) }) }

theorem Mach.seFlush_eq (m : Mach) (d e : Nat) :
    m.seFlush d e = (upFrom 0 8).foldl (fun m n => m.freeDesc d e n) (m.setSe d e (m.se d e).flushed) := by
  simp only [Mach.seFlush, Mach.freeDesc, StreamEng.flushed]

theorem Mach.seFlush_descFree (m : Mach) {d e i : Nat} (hd : d < 6) (he : e < 16) (hi : i < 8) : (m.seFlush d e).DescFree d e i := by
  rw [Mach.seFlush_eq]
  exact Mach.foldl_freeDesc hd he hi (upFrom 0 8) (fun n hn => by simpa using (mem_upFrom.mp hn).2) _ (Or.inl (mem_upFrom.mpr (by omega)))

theorem Mach.seFlush_se (m : Mach) (d e : Nat) : (m.seFlush d e).se d e = (m.se d e).flushed := by
  have hses : ∀ (l : List Nat) (m : Mach), (l.foldl (fun m n => m.freeDesc d e n) m).se d e = m.se d e :=
    foldl_kept (fun m => m.se d e) (fun m n => by simp [Mach.freeDesc])
  rw [Mach.seFlush_eq, hses, Mach.se_setSe]

/-- Settles O23, command by command. -/
theorem streamEngineMulticastAndControl : Obligations.StreamEngineMulticastAndControl := by
  unfold Obligations.StreamEngineMulticastAndControl
  intro d e s x q halive hx hq
  subst hq
  refine ⟨fun r t y l ht hatt hnext hl => State.on_of_eq halive (opMulticastDeliver_of_next hx ht hatt hnext hl),
    fun t => ⟨t.lagTest_near, t.lagTest_attached⟩,
    fun r c t t1 ht hnotice ht1 => State.on_of_eq halive (opDetachNotice_of_notice hx ht hnotice ht1),
    fun job k n l c nt tag j m1 hj hup hnoTrap howed hm1 => State.on_of_eq halive (opMulticastCompletionUnicast_of_owed hj hup hnoTrap howed hm1),
    fun hrun => State.on_of_eq halive (opWheelAdvance_of_running hrun),
    fun i who w => ⟨fun hrun hpos => State.on_of_eq halive (opSeSlotWrite_of_held hx hrun hpos), fun hfree => State.on_of_eq halive
      (opSeSlotWrite_of_free hfree)⟩,
    fun h hfree => State.on_of_eq halive (opSeSlotHeldRelease_of_free hx hfree), fun who => State.on_of_eq halive ?_,
    fun who => State.on_of_eq halive ?_, fun who => ?_⟩
  · simp only [opSeCtrlRun, Mach.seRun, Bool.false_and, Bool.false_eq_true, if_false]
    rfl
  · simp only [opSeCtrlRun, Mach.seRun, Bool.true_and]
    rfl
  · have hse : (opSeFlush d.val e.val who s.m).se d.val e.val = x.flushed := by rw [opSeFlush, Mach.respond_se, Mach.seFlush_se, hx]
    refine ⟨_, State.on_of_eq halive rfl, by rw [hse]; rfl, by rw [hse]; rfl, fun t ht => ?_, fun i => ?_, by simp, rfl⟩
    · rw [hse, StreamEng.flushed, ht]
      exact ⟨_, rfl, rfl, rfl⟩
    · rw [opSeFlush, Mach.respond_rd, Mach.respond_rd]
      exact s.m.seFlush_descFree d.isLt e.isLt i.isLt

end Sys2Proof.Machine
end

section
/-! Sending into the module network (10 R224 to R231, R233 to R236). -/

namespace Sys2Proof.Machine

/-! Pieces of an access that cross no 256-byte line (R225) -/

theorem pieces256_within (f a n : Nat) : ∀ x ∈ pieces256 f a n, 0 < x.2 ∧ x.1 % 256 + x.2 ≤ 256 := by
  induction f generalizing a n with
  | zero => simp [pieces256]
  | succ f ih =>
    intro x hx
    rw [pieces256] at hx
    split at hx
    · cases hx
    · rcases List.mem_cons.mp hx with rfl | hmem
      · simp only
        omega
      · exact ih _ _ x hmem

theorem pieces256_sum (f a n : Nat) (h : a % 256 + n ≤ 256 * f) : ((pieces256 f a n).map (fun x => x.2)).sum = n := by
  induction f generalizing a n with
  | zero =>
    simp only [pieces256, List.map_nil, List.sum_nil]
    omega
  | succ f ih =>
    rw [pieces256]
    split
    · simpa using Eq.symm ‹n = 0›
    · rw [List.map_cons, List.sum_cons]
      rcases Nat.lt_or_ge n (256 - a % 256) with hlast | hmore
      · have hrest : n - min n (256 - a % 256) = 0 := by omega
        have hnone : pieces256 f (a + min n (256 - a % 256)) 0 = [] := by cases f <;> rfl
        rw [hrest, hnone]
        simp only [List.map_nil, List.sum_nil]
        omega
      · rw [ih _ _ (by omega)]
        omega

/-! The order in which an output serves (R227) -/

theorem flatMap_urg_head {turn l : List (Nat × Packet)} {i : Nat} {p : Packet} (us : List Nat) (hus : us.Pairwise (· > ·))
    (h : us.flatMap (fun u => turn.filter (fun h => h.2.urg == u)) = (i, p) :: l) :
    (i, p) ∈ turn ∧ ∀ h ∈ turn, h.2.urg ∈ us → h.2.urg ≤ p.urg := by
  induction us with
  | nil => cases h
  | cons u us ih =>
    obtain ⟨hless, hus⟩ := List.pairwise_cons.mp hus
    rw [List.flatMap_cons] at h
    cases hfirst : turn.filter (fun h => h.2.urg == u) with
    | nil =>
      rw [hfirst, List.nil_append] at h
      obtain ⟨hmem, hmax⟩ := ih hus h
      refine ⟨hmem, fun x hx hurg => ?_⟩
      rcases List.mem_cons.mp hurg with heq | hrest
      · have hno := List.filter_eq_nil_iff.mp hfirst x hx
        simp [heq] at hno
      · exact hmax x hx hrest
    | cons y ys =>
      rw [hfirst, List.cons_append, List.cons.injEq] at h
      obtain ⟨rfl, -⟩ := h
      obtain ⟨hmem, hurg⟩ := List.mem_filter.mp (hfirst ▸ List.mem_cons_self : (i, p) ∈ turn.filter (fun h => h.2.urg == u))
      have hpu : p.urg = u := by simpa using hurg
      refine ⟨hmem, fun x _ hx => hpu ▸ ?_⟩
      rcases List.mem_cons.mp hx with heq | hrest
      · exact heq.le
      · exact (hless _ hrest).le

theorem servingOrder_head {die last i : Nat} {p : Packet} {hs l : List (Nat × Packet)} (hdie : die < 6) (hurg : ∀ h ∈ hs, h.2.urg ≤ 15)
    (h : servingOrder die last hs = (i, p) :: l) : (i, p) ∈ hs ∧ ∀ h ∈ hs, h.2.urg ≤ p.urg := by
  have hturn : ∀ x, x ∈ hs.filter (fun h => decide (last ≤ h.1)) ++ hs.filter (fun h => decide (h.1 < last)) ↔ x ∈ hs := by
    intro x
    simp only [List.mem_append, List.mem_filter, decide_eq_true_eq, ← and_or_left, le_or_gt, and_true]
  rw [servingOrder, if_neg (Nat.ne_of_lt hdie)] at h
  obtain ⟨hmem, hmax⟩ := flatMap_urg_head _ (by decide) h
  refine ⟨(hturn _).mp hmem, fun x hx => hmax x ((hturn x).mpr hx) ?_⟩
  rw [List.mem_reverse, mem_upFrom]
  have := hurg x hx
  omega

/-! What LANTERN does leaves the queues as they are -/

/-- A view of the machine that registers and tracers do not change. -/
def Mach.Queues (m : Mach) : SMap (List Packet) × SMap (List Packet) × SMap (List Pending) := (m.net.queues, m.net.waits, m.net.outst)

theorem Mach.cnt_queues (m : Mach) (f : Fld) (p n : Nat) : (m.cnt f p n).Queues = m.Queues := by
  simp only [Mach.Queues, Mach.cnt_net]

theorem Mach.traceAdd_queues (m : Mach) (d k net : Nat) (p : Packet) : (m.traceAdd d k net p).Queues = m.Queues := by
  unfold Mach.traceAdd
  dsimp only
  split <;> rfl

theorem Mach.lantern_queues (m : Mach) (d net n port : Nat) (p : Packet) : (m.lantern d net n port p).Queues = m.Queues := by
  unfold Mach.lantern
  split
  · rfl
  · refine foldl_kept Mach.Queues (fun m k => ?_) _ _
    have hcounted : (if p.urg = 15 then ((m.cnt F.lpMatched (ix d k 0 0) 1).cnt F.lpUnits (ix d k 0 0) p.units).cnt F.lpUrg15 (ix d k 0 0) 1
        else (m.cnt F.lpMatched (ix d k 0 0) 1).cnt F.lpUnits (ix d k 0 0) p.units).Queues = m.Queues := by
      split <;> simp only [Mach.cnt_queues]
    dsimp only
    split
    · rw [Mach.traceAdd_queues, hcounted]
    · exact hcounted

theorem Mach.nq_of_queues {m m' : Mach} (h : m'.Queues = m.Queues) (k : Nat) : m'.nq k = m.nq k := by
  have hsame : m'.net.queues = m.net.queues := congrArg Prod.fst h
  rw [Mach.nq, Mach.nq, hsame]

theorem Mach.outs_of_queues {m m' : Mach} (h : m'.Queues = m.Queues) (k : Nat) : m'.outs k = m.outs k := by
  have hsame : m'.net.outst = m.net.outst := congrArg (fun x => x.2.2) h
  rw [Mach.outs, Mach.outs, hsame]

/-! A packet at its interface's head (R229 to R231) -/

/-- A transaction number is free while fewer are outstanding than are numbered. -/
theorem Mach.freeTxns_one (m : Mach) (k : Nat) : ∃ t ts, m.freeTxns k 1 = t :: ts := by
  have hsome : (upFrom 0 (((m.outs k).map (fun x => x.txn)).length + 1)).filter (fun t => !((m.outs k).map (fun x => x.txn)).contains t) ≠ [] := by
    intro hnone
    have hsub : upFrom 0 (((m.outs k).map (fun x => x.txn)).length + 1) ⊆ (m.outs k).map (fun x => x.txn) := fun t ht => by
      simpa using List.filter_eq_nil_iff.mp hnone t ht
    have hlen := (List.subperm_of_subset (by rw [upFrom_eq_range']; exact List.nodup_range') hsub).length_le
    rw [upFrom_eq_range', List.length_range'] at hlen
    omega
  obtain ⟨t, ts, hts⟩ := List.exists_cons_of_ne_nil hsome
  exact ⟨t, ts.take 0, by simp only [Mach.freeTxns, hts, List.take_succ_cons]⟩

section
variable {m : Mach} {die port net k : Nat} {p : Packet} (hnet : netOf p.type = net) (hk : k = niqKey die port net) (hempty : m.niq k = [])
include hnet hk hempty

theorem Mach.niSend_eq : m.niSend die port p = ((m.setNiq k [p]).injectFrom die port [p]).1.setNiq k ((m.setNiq k [p]).injectFrom die port [p]).2 := by
  subst hnet hk
  simp only [Mach.niSend, Mach.niDrain, hempty, List.nil_append, Mach.niq_setNiq]

theorem Mach.niSend_of_wait (hmay : (m.setNiq k [p]).mayInject die port p = false) : m.niSend die port p = (m.setNiq k [p]).setNiq k [p] := by
  rw [Mach.niSend_eq hnet hk hempty]
  simp only [Mach.injectFrom, hmay, Bool.not_false, if_true]

section
variable (hmay : (m.setNiq k [p]).mayInject die port p = true) (hdie : die < 6)
include hmay hdie

theorem Mach.niSend_of_noRoute (hroute : m.routeOf die port p.dest = none) : m.niSend die port p = ((m.setNiq k [p]).noRoute die p).setNiq k [] := by
  have hroute' : (m.setNiq k [p]).routeOf die port p.dest = none := hroute
  have hlaunch : (m.setNiq k [p]).launch die port p = none := by
    simp only [Mach.launch, if_neg (Nat.ne_of_lt hdie), hroute', Option.map_none]
  rw [Mach.niSend_eq hnet hk hempty]
  simp only [Mach.injectFrom, hmay, hlaunch, Bool.not_true, Bool.false_eq_true, if_false]

theorem Mach.niSend_of_route {r t : Nat} {ts : List Nat} {q : Packet} (hroute : m.routeOf die port p.dest = some r) (htype : p.type < 0x10)
    (hurg : p.urg = 0) (hbase : p.base = 0) (hfree : m.freeTxns (niKey die port) 1 = t :: ts)
    (hq : q = { p with txn := t, base := m.baseOf die port p.dest, urg := min 15 (m.baseOf die port p.dest), here := 0, route := r, hop := 0 }) :
    (m.niSend die port p).nq (localKey die port net) = m.nq (localKey die port net) ++ [q] ∧ (m.niSend die port p).niq k = [] ∧
      (m.niSend die port p).outs (niKey die port) = m.outs (niKey die port) ++ [⟨t, p.src, false⟩] := by
  have hnetq : netOf p.type = 0 := by simp only [netOf, htype, if_true]
  have haccess : p.isAccess = true := by simp only [Packet.isAccess]; exact decide_eq_true (by omega)
  have hwants : p.wantsRsp = true := by simp only [Packet.wantsRsp, htype, decide_true, Bool.true_or]
  have hroute' : (m.setNiq k [p]).routeOf die port p.dest = some r := hroute
  have hfree' : (m.setNiq k [p]).freeTxns (niKey die port) 1 = t :: ts := hfree
  have hbase' : (m.setNiq k [p]).baseOf die port p.dest = m.baseOf die port p.dest := rfl
  have hlaunch : (m.setNiq k [p]).launch die port p = some (t, ((((m.setNiq k [p]).setNq (localKey die port net)
      (m.nq (localKey die port net) ++ [q])).setOuts (niKey die port) (m.outs (niKey die port) ++ [⟨t, p.src, false⟩])).lantern die net (port / 4) 6 q)) := by
    subst hnet
    simp only [Mach.launch, if_neg (Nat.ne_of_lt hdie), hroute', Option.map_some, haccess, hfree', hbase', hurg, hbase, hnetq, List.headD_cons,
      Nat.sub_self, Nat.add_zero, zero_ne_one, if_true, if_false, ← hq, hwants]
    rfl
  rw [Mach.niSend_eq hnet hk hempty]
  simp only [Mach.injectFrom, hmay, hlaunch, Bool.not_true, Bool.false_eq_true, if_false]
  have hkept := Mach.lantern_queues (((m.setNiq k [p]).setNq (localKey die port net) (m.nq (localKey die port net) ++ [q])).setOuts (niKey die port)
    (m.outs (niKey die port) ++ [⟨t, p.src, false⟩])) die net (port / 4) 6 q
  refine ⟨(Mach.nq_of_queues hkept _).trans ?_, Mach.niq_setNiq _ _ _, (Mach.outs_of_queues hkept _).trans (Mach.outs_setOuts _ _ _)⟩
  exact Mach.nq_setNq (m.setNiq k [p]) _ _

end

end

end Sys2Proof.Machine
end

section
/-! The module network's commands (10 R225 to R243). -/

namespace Sys2Proof.Machine

/-! Injection (R225, R239) -/

section
variable {m : Mach} {who die port : Nat} (hni : masterNi who = some (die, port))
include hni

theorem opPacketInject_mail (mb : Nat) (ws : List Nat) : opPacketInject who (.mail mb ws) m = m.mail who mb ws := by
  simp only [opPacketInject, hni]

theorem opPacketInject_of_portless {a : Nat} (hdest : destOf m.fuses a = none)
    (hblock : ∀ d, netBlockAt m.fuses a = some d → netBlockWho d who = false) :
    opPacketInject who (.regRead a) m = m.answer who 4096 (portless m.fuses (.regRead a) a) [] 0 := by
  have hself : ¬ ((netBlockAt m.fuses a).map (fun d => netBlockWho d who)).getD false = true := by
    cases h : netBlockAt m.fuses a with
    | none => simp
    | some d => simp [hblock d h]
  have hnet : ¬ (netOf 0x04 = 2 ∨ (destOf m.fuses a).isSome = true) := by simp [netOf, hdest]
  simp only [opPacketInject, hni, Mach.packetsOf, newPacket, List.foldl_cons, List.foldl_nil, if_neg hnet, if_neg hself, noTxn]

theorem opPacketInject_of_ports {r : NetReq} {ps : List Packet} (hr : ∀ mb ws, r ≠ .mail mb ws) (hps : m.packetsOf who die port r = ps)
    (hports : ∀ p ∈ ps, netOf p.type = 2 ∨ (destOf m.fuses p.addr).isSome = true) :
    opPacketInject who r m = ps.foldl (fun m p => m.niSend die port p) m := by
  have hsend : ∀ (l : List Packet) (m0 : Mach), m0.fuses = m.fuses → (∀ p ∈ l, p ∈ ps) → l.foldl (fun m p =>
      if netOf p.type = 2 ∨ (destOf m.fuses p.addr).isSome then m.niSend die port p
      else if ((netBlockAt m.fuses p.addr).map (fun d => netBlockWho d who)).getD false then m
      else m.answer who noTxn (portless m.fuses r p.addr) [] 0) m0 = l.foldl (fun m p => m.niSend die port p) m0 := by
    intro l
    induction l with
    | nil => exact fun _ _ _ => rfl
    | cons p l ih =>
      intro m0 hfuses hmem
      have hport : netOf p.type = 2 ∨ (destOf m0.fuses p.addr).isSome = true := hfuses ▸ hports p (hmem p List.mem_cons_self)
      rw [List.foldl_cons, List.foldl_cons, if_pos hport]
      exact ih _ ((m0.niSend_frame die port p).2.trans hfuses) fun q hq => hmem q (List.mem_cons_of_mem p hq)
  subst hps
  rw [← hsend _ m rfl fun p hp => hp]
  cases r with
  | mail mb ws => exact absurd rfl (hr mb ws)
  | _ => simp only [opPacketInject, hni]

end

theorem portless_of_none {fu : Fuses} {r : NetReq} {a : Nat} (h : netBlockAt fu a = none) : portless fu r a = rsDecode := by
  simp only [portless, h, Option.isNone_none, if_true]

theorem portless_regRead_of_block {fu : Fuses} {a d : Nat} (h : netBlockAt fu a = some d) :
    portless fu (.regRead a) a = if a % 4 = 0 then rsRefused else rsMalformed := by
  simp only [portless, h, regForm, Option.isNone_some, Bool.false_eq_true, if_false, beq_iff_eq]

/-! Forwarding (R226 to R229) -/

section
variable {m m0 m1 : Mach} {die net n out waited : Nat} {ins : List Nat} {l : List (Nat × Packet)} (hm0 : m.discard die net n (upFrom 0 14) = m0)
  (hins : ins = (m0.heads die net n out).map (fun h => h.1)) (hm1 : m1 = ins.foldl (fun m i => m.passTime die net n i out waited true) m0)
  (hl : l = servingOrder die (SMap.get 0 (outSlot die net n out) m1.net.served) (m1.heads die net n out))
include hm0 hins hm1 hl

theorem opRouterForward_of_none (hnone : m1.forwardFirst die net n out l = none) : opRouterForward die net n out waited m = m1 := by
  subst hl hm1 hins hm0
  simp only [opRouterForward, hnone]

theorem opRouterForward_of_some {i : Nat} {m2 m3 m4 : Mach} (hfirst : m1.forwardFirst die net n out l = some (i, m2))
    (hm3 : m3 = ins.foldl (fun m j => m.passTime die net n j out 1 (j != i)) m2) (hfed : ∀ p, feeder die n i = some p → m4 = m3.niFree die p)
    (hunfed : feeder die n i = none → m4 = m3) :
    opRouterForward die net n out waited m = if die = 6 then (m4.sendRelease idHost).sendRelease idTest else m4 := by
  subst hm3 hl hm1 hins hm0
  simp only [opRouterForward, hfirst]
  cases hport : feeder die n i with
  | none => rw [hunfed hport]
  | some p => rw [hfed p hport]

end

section
variable {m m1 : Mach} {die net n out i : Nat} {p : Packet} {l : List (Nat × Packet)}
  (hm1 : m1 = m.setNq (qKey die net n i) ((m.nq (qKey die net n i)).drop 1))
include hm1

theorem Mach.forwardFirst_of_noCredit (hno : m1.pass die net n out p = none) :
    m.forwardFirst die net n out ((i, p) :: l) = m.forwardFirst die net n out l := by
  subst hm1
  rw [Mach.forwardFirst, hno]

theorem Mach.forwardFirst_of_credit {m2 : Mach} {sv : SMap Nat} (hpass : m1.pass die net n out p = some m2)
    (hsv : sv = SMap.put 0 (outSlot die net n out) (i + 1) m2.net.served) : m.forwardFirst die net n out ((i, p) :: l) =
      some (i, ({ m2 with net := { m2.net with served := sv } } : Mach).lantern die net n (min out 5) p) := by
  subst hm1 hsv
  rw [Mach.forwardFirst, hpass]

end

/-! A bridge's ingress (R233) -/

section
variable {m : Mach} {d q net : Nat} {p : Packet} {l : List Packet} (hp : m.ingr (inKey d q net) = p :: l)
include hp

theorem opIngressRelookup_of_keeper (hq : q < 4) (hdest : p.dest / 64 = 6) :
    opIngressRelookup d q net m = (m.setIngr (inKey d q net) l).misroute d p := by
  simp only [opIngressRelookup, hp, hq, hdest, and_self, if_true]

theorem opIngressRelookup_of_route {r k : Nat} (hk : k = qKey d net (linkRouter q) 4) (hmine : ¬ (q < 4 ∧ p.dest / 64 = 6))
    (hroute : m.routeOf d (64 + q) p.dest = some r) :
    opIngressRelookup d q net m = if 8 ≤ (m.nq k).length then m
      else (m.setIngr (inKey d q net) l).setNq k (m.nq k ++ [{ p with route := r, hop := 0, wait := 0, here := 0 }]) := by
  subst hk
  simp only [opIngressRelookup, hp, if_neg hmine, hroute]
  rfl

theorem opIngressRelookup_of_noRoute (hmine : ¬ (q < 4 ∧ p.dest / 64 = 6)) (hroute : m.routeOf d (64 + q) p.dest = none) (hwants : p.wantsRsp = false) :
    opIngressRelookup d q net m = (m.setIngr (inKey d q net) l).ev F.nocEventsNoroute d := by
  simp only [opIngressRelookup, hp, if_neg hmine, hroute, hwants, Bool.false_eq_true, if_false]

end

/-! Ageing (R228) -/

section
variable {m : Mach} {d net n i j k : Nat} {p q : Packet} (hwait : p.wait ≤ 256)
  (hq : q = { p with urg := min 15 (p.urg + 1), wait := 0, here := p.here + (256 - p.wait) })
include hwait hq

theorem Packet.aged_full : p.aged (256 - p.wait) = q := by
  subst hq
  simp only [Packet.aged, Nat.add_sub_cancel' hwait, Nat.div_self (Nat.succ_pos 255), Nat.mod_self]

section
variable (hi : i < 9) (hk : k = qKey d net n i) (hp : (m.nq k)[j]? = some p)
include hi hk hp

theorem opUrgencyRise_of_queued (hj : j ≠ 0) : opUrgencyRise d net n i j m = m.setNq k (setNth (m.nq k) j q) := by
  obtain ⟨j, rfl⟩ := Nat.exists_eq_succ_of_ne_zero hj
  subst hk
  simp only [opUrgencyRise, hi, hp, if_true, Packet.aged_full hwait hq]

theorem opUrgencyRise_of_head {o : Nat} (hj : j = 0) (hwants : m.wants d n p = some o) :
    opUrgencyRise d net n i j m = (m.setNq k (setNth (m.nq k) j q)).lanternWait d net n (min o 5) p (256 - p.wait) := by
  subst hj hk
  simp only [opUrgencyRise, hi, hp, if_true, Packet.aged_full hwait hq, hwants, Option.map_some]

end

section
variable (hi : 9 ≤ i) (hk : k = niqKey d (4 * n + (i - 9)) net) (hp : (m.niq k)[j]? = some p)
include hi hk hp

theorem opUrgencyRise_of_waiting (hj : j ≠ 0) : opUrgencyRise d net n i j m = m.setNiq k (setNth (m.niq k) j q) := by
  obtain ⟨j, rfl⟩ := Nat.exists_eq_succ_of_ne_zero hj
  subst hk
  simp only [opUrgencyRise, Nat.not_lt.mpr hi, hp, if_false, Packet.aged_full hwait hq]

theorem opUrgencyRise_of_first (hj : j = 0) :
    opUrgencyRise d net n i j m = (m.setNiq k (setNth (m.niq k) j q)).lanternWait d net n 6 p (256 - p.wait) := by
  subst hj hk
  simp only [opUrgencyRise, Nat.not_lt.mpr hi, hp, if_false, Packet.aged_full hwait hq]

end

end

/-! Responses and timeouts (R230, R231) -/

section
variable {m : Mach} {die port k : Nat} (hk : k = niKey die port)
include hk

section
variable {p : Packet} {l : List Packet} (hp : m.arrd k = p :: l)
include hp

theorem opResponseArrive_of_pending {x : Pending} (hx : (m.outs k).find? (fun x => x.txn == p.txn) = some x) (hlate : x.late = false) :
    opResponseArrive die port m = (((m.setArrd k l).setOuts k ((m.outs k).erase x)).answer x.who x.txn p.status p.data p.marks).niFree die port := by
  have hx' : ((m.setArrd k l).outs k).find? (fun x => x.txn == p.txn) = some x := hx
  subst hk
  simp only [opResponseArrive, hp, hx', hlate, Bool.false_eq_true, if_false]
  rfl

theorem opResponseArrive_of_late {x : Pending} (hx : (m.outs k).find? (fun x => x.txn == p.txn) = some x) (hlate : x.late = true) (hdie : die < 6) :
    opResponseArrive die port m = ((((m.setArrd k l).setOuts k ((m.outs k).erase x)).cnt F.nocLateRsp die 1).ev F.nocEventsLateRsp die).niFree die port := by
  have houts : (m.setArrd k l).outs k = m.outs k := rfl
  subst hk
  simp only [opResponseArrive, hp, houts, hx, hlate, hdie, if_true]

theorem opResponseArrive_of_unknown (hdie : die < 6) (hnone : ∀ x ∈ m.outs k, x.txn ≠ p.txn) :
    opResponseArrive die port m = ((m.setArrd k l).cnt F.nocLateRsp die 1).ev F.nocEventsLateRsp die := by
  have hx : ((m.setArrd k l).outs k).find? (fun x => x.txn == p.txn) = none := by
    rw [List.find?_eq_none]
    exact fun x hx => by simpa using hnone x hx
  subst hk
  simp only [opResponseArrive, hp, hx, hdie, if_true]

end

section
variable {t : Nat} {x : Pending} (hx : (m.outs k).find? (fun x => x.txn == t) = some x)
include hx

theorem opRequestTimeout_of_late (hlate : x.late = true) : opRequestTimeout die port t m = (m.setOuts k ((m.outs k).erase x)).niFree die port := by
  subst hk
  simp only [opRequestTimeout, hx, hlate, if_true]

theorem opRequestTimeout_of_first (hlate : x.late = false) {m1 : Mach}
    (hm1 : m1 = (m.setOuts k ((m.outs k).map (fun y => if y.txn = t then { y with late := true } else y))).answer x.who x.txn rsTimeout [] 0) :
    opRequestTimeout die port t m = if die < 6 then (m1.cnt F.nocTimeouts die 1).ev F.nocEventsTimeout die else m1 := by
  subst hk hm1
  simp only [opRequestTimeout, hx, hlate, Bool.false_eq_true, if_false]

end

end

end Sys2Proof.Machine
end

section
/-! Bridges, NOC_CTRL and LANTERN's traces (10 R234 to R243). -/

namespace Sys2Proof.Machine

/-! Bridges that fail (R234) -/

theorem bridgePeer_lt {d l e back : Nat} (hd : d < 6) (hpeer : bridgePeer d l = some (e, back)) : e < 9 := by
  unfold bridgePeer at hpeer
  split at hpeer
  · split at hpeer
    · simp only [Option.some.injEq, Prod.mk.injEq] at hpeer
      omega
    · cases hpeer
  · split at hpeer
    · split at hpeer
      · simp only [Option.some.injEq, Prod.mk.injEq] at hpeer
        omega
      · cases hpeer
    · split at hpeer
      · split at hpeer
        · simp only [Option.some.injEq, Prod.mk.injEq] at hpeer
          omega
        · cases hpeer
      · split at hpeer
        · simp only [Option.some.injEq, Prod.mk.injEq] at hpeer
          omega
        · cases hpeer

theorem bridgeDown_put {down : SMap Nat} {k j : Nat} (h : SMap.get 0 j down = 1 ∨ j = k) : SMap.get 0 j (SMap.put 0 k 1 down) = 1 := by
  by_cases hjk : j = k
  · rw [hjk, SMap.get_put_self]
  · rw [SMap.get_put_other _ hjk]
    exact h.resolve_right hjk

theorem Mach.hostEvent_beside (m : Mach) (kind tag arg : Nat) : (m.hostEvent kind tag arg).net = m.net ∧ (m.hostEvent kind tag arg).fields = m.fields := by
  unfold Mach.hostEvent
  split <;> exact ⟨rfl, rfl⟩

theorem Mach.on_ev_of_on {m : Mach} {f : Fld} {p q : Nat} (hone : 1 % 2 ^ f.width = 1) (hp : p < 2 ^ 24) (hq : q < 2 ^ 24) (h : m.on f p = true) :
    (m.ev f q).on f p = true := by
  by_cases hpq : p = q
  · subst hpq
    simp [Mach.ev, hone]
  · rw [Mach.on, Mach.ev, Mach.rd_wr_of_place_ne _ _ _ hpq hp hq]
    exact h

section
variable {m m1 : Mach} {d l e back : Nat} {fs : SMap Nat} (hpeer : bridgePeer d l = some (e, back)) (hup : m.bridgeDown d l = false)
  (hfs : fs = SMap.put 0 (4 * d + l) (SMap.get 0 (4 * d + l) m.net.fails + 1) m.net.fails)
  (hm1 : m1 = (({ m with net := { m.net with fails := fs } } : Mach).cnt F.nocBridgeRetries d 1).ev F.nocEventsBridgeRetry d)
include hpeer hup hfs hm1

theorem opBridgeRetry_of_few (hfew : SMap.get 0 (4 * d + l) m.net.fails < 7) : opBridgeRetry d l m = m1 := by
  have hn : SMap.get 0 (4 * d + l) m.net.fails + 1 < 8 := by omega
  subst hm1 hfs
  simp only [opBridgeRetry, hpeer, hup, hn, Bool.false_eq_true, if_false, if_true]

/-- The eighth failure in a row takes both ends of the bridge down. -/
theorem opBridgeRetry_of_eighth (hd : d < 6) (hmany : 7 ≤ SMap.get 0 (4 * d + l) m.net.fails) :
    (opBridgeRetry d l m).bridgeDown d l = true ∧ (opBridgeRetry d l m).bridgeDown e back = true ∧
      (opBridgeRetry d l m).on F.nocEventsBridgeDown d = true ∧ (opBridgeRetry d l m).on F.nocEventsBridgeDown e = true := by
  have hn : ¬ SMap.get 0 (4 * d + l) m.net.fails + 1 < 8 := by omega
  have he := bridgePeer_lt hd hpeer
  have hone : 1 % 2 ^ F.nocEventsBridgeDown.width = 1 := by decide
  have hends : ∃ m4 : Mach, (opBridgeRetry d l m).net = m4.net ∧ (opBridgeRetry d l m).fields = m4.fields ∧ (opBridgeRetry d l m).fuses = m4.fuses ∧
      m4 = (({ m1 with net := { m1.net with down := SMap.put 0 (4 * e + back) 1 (SMap.put 0 (4 * d + l) 1 m1.net.down) } } : Mach).ev
        F.nocEventsBridgeDown d).ev F.nocEventsBridgeDown e := by
    refine ⟨_, ?_, ?_, ?_, rfl⟩
    all_goals
      subst hm1 hfs
      simp only [opBridgeRetry, hpeer, hup, hn, Bool.false_eq_true, if_false]
      split
    · exact (Mach.hostEvent_beside _ _ _ _).1
    · rfl
    · exact (Mach.hostEvent_beside _ _ _ _).2
    · rfl
    · simp
    · rfl
  obtain ⟨m4, hnet, hfields, hfuses, hm4⟩ := hends
  have hdown : m4.net.down = SMap.put 0 (4 * e + back) 1 (SMap.put 0 (4 * d + l) 1 m1.net.down) := by rw [hm4]; rfl
  have hon : ∀ f p, (opBridgeRetry d l m).on f p = m4.on f p := fun f p => by rw [Mach.on, Mach.on, Mach.rd_of_fields hfields hfuses]
  refine ⟨?_, ?_, ?_, ?_⟩
  · rw [Mach.bridgeDown, hnet, hdown, bridgeDown_put (Or.inl (SMap.get_put_self _ _ _ _))]
    rfl
  · rw [Mach.bridgeDown, hnet, hdown, bridgeDown_put (Or.inr rfl)]
    rfl
  · rw [hon, hm4]
    exact Mach.on_ev_of_on hone (by omega) (by omega) (by simp [Mach.ev, hone])
  · rw [hon, hm4]
    simp [Mach.ev, hone]

end

/-! Control (R238, R240) -/

theorem Mach.permit_of_ok {m : Mach} {ok : Bool} {who : Nat} {f : Mach → Mach} (h : ok = true) : m.permit ok who f = (f m).respond who rsOk := by
  rw [Mach.permit, if_pos h]

theorem Mach.permit_of_no {m : Mach} {ok : Bool} {who : Nat} {f : Mach → Mach} (h : ok = false) : m.permit ok who f = m.respond who rsRefused := by
  rw [Mach.permit, if_neg (by simp [h])]

theorem Mach.traceRun_on (m : Mach) (d : Nat) : (m.traceRun d true).rd F.ltWritePtr d = 0 ∧ (m.traceRun d true).on F.ltCtrlTraceRun d = true ∧
    ((m.traceRun d true).tracer d).base = m.rd F.ltBaseHi d * 2 ^ 32 + m.rd F.ltBaseLo d ∧
    ((m.traceRun d true).tracer d).log2 = m.rd F.ltSizeLog2 d := by
  have hone : 1 % 2 ^ F.ltCtrlTraceRun.width = 1 := by decide
  have htracer : (m.traceRun d true).tracer d = { m.tracer d with
      base := m.rd F.ltBaseHi d * 2 ^ 32 + m.rd F.ltBaseLo d, log2 := m.rd F.ltSizeLog2 d, wrap := m.on F.ltSizeWrap d } := by
    rw [Mach.traceRun, if_pos rfl]
    exact Mach.tracer_setTracer _ _ _
  refine ⟨?_, ?_, by rw [htracer], by rw [htracer]⟩
  · rw [Mach.traceRun, if_pos rfl, Mach.rd_wr_ne _ _ _ _ _ (by decide), Mach.rd_wr, Nat.zero_mod]
  · rw [Mach.traceRun, if_pos rfl, Mach.on_wr, hone]
    rfl

theorem opTraceWrite_of_oldest {m m1 m2 : Mach} {d i a : Nat} {r : List Byte} {l : List (List Byte)} {t : Tracer} {p : Packet} {ps : List Packet}
    (ht : m.tracer d = t) (hstore : t.store = r :: l) (hrun : m.on F.ltCtrlTraceRun d = true) (hi : i = m.rd F.ltWritePtr d) (ha : a = t.base + 32 * i)
    (hp : m.packetsOf (idLantern d) d 63 (.write a r (List.replicate 32 true) false) = p :: ps) (hmay : m.mayInject d 63 p = true)
    (hm1 : m1 = m.setTracer d { t with store := l })
    (hm2 : m2 = (if i + 1 < 2 ^ t.log2 / 32 then m1.wr F.ltWritePtr d (i + 1) else if t.wrap then m1.wr F.ltWritePtr d 0
      else (m1.wr F.ltWritePtr d (i + 1)).wr F.ltCtrlTraceRun d 0)) :
    opTraceWrite d m = if (destOf m.fuses a).isNone then m2.answer (idLantern d) 4096 rsDecode [] 0 else m2.niSend d 63 p := by
  have hgo : ¬ (!m.on F.ltCtrlTraceRun d || !m.mayInject d 63 p) = true := by simp [hrun, hmay]
  subst hm2 hm1 ha hi
  simp only [opTraceWrite, ht, hstore, hp, if_neg hgo, noTxn]

/-- Settles O24, command by command. -/
theorem networkCommands : Obligations.NetworkCommands := by
  unfold Obligations.NetworkCommands
  refine ⟨fun who die port s halive hni => ⟨fun mb ws => State.on_of_eq halive (opPacketInject_mail hni mb ws), fun a hdest hblock => ?_,
      fun a d hdest hblock hwho => ?_, fun r ps hr hps hports => State.on_of_eq halive (opPacketInject_of_ports hni hr hps hports)⟩,
    fun m die port net k p hnet hk hempty => ⟨fun hmay => ?_, fun hmay hdie hroute => Mach.niSend_of_noRoute hnet hk hempty hmay hdie hroute,
      fun r hmay hdie hroute htype hurg hbase => ?_⟩,
    fun a n => ⟨pieces256_within _ a n, pieces256_sum _ a n (by omega)⟩,
    fun die net n out w up s m0 m1 ins l halive hm0 hins hm1 hl => ⟨fun hnone => State.on_of_eq halive (opRouterForward_of_none hm0 hins hm1 hl hnone),
      fun i m2 m3 m4 hfirst hm3 hfed hunfed => State.on_of_eq halive (opRouterForward_of_some hm0 hins hm1 hl hfirst hm3 hfed hunfed)⟩,
    fun m die net n out i p l m1 hm1 => ⟨Mach.forwardFirst_of_noCredit hm1, fun m2 sv hpass hsv => Mach.forwardFirst_of_credit hm1 hpass hsv⟩,
    fun die last i p hs l hdie hurg h => servingOrder_head hdie hurg h,
    fun d q net s p l k halive hp hk => ⟨fun hq hdest => State.on_of_eq halive (opIngressRelookup_of_keeper hp hq hdest), fun r hmine hroute => ?_,
      fun hmine hroute hwants => State.on_of_eq halive (opIngressRelookup_of_noRoute hp (by omega) hroute hwants)⟩,
    fun d net n i j k s p q halive hwait hq => ⟨fun hi hk hp => ⟨fun hj => State.on_of_eq halive (opUrgencyRise_of_queued hwait hq hi hk hp hj),
        fun o hj hwants => State.on_of_eq halive (opUrgencyRise_of_head hwait hq hi hk hp hj hwants)⟩,
      fun hi hk hp => ⟨fun hj => State.on_of_eq halive (opUrgencyRise_of_waiting hwait hq hi hk hp hj),
        fun hj => State.on_of_eq halive (opUrgencyRise_of_first hwait hq hi hk hp hj)⟩⟩,
    fun die port s k halive hk => ⟨fun p l x hp hx => ⟨fun hlate => State.on_of_eq halive (opResponseArrive_of_pending hk hp hx hlate),
        fun hlate hdie => State.on_of_eq halive (opResponseArrive_of_late hk hp hx hlate hdie)⟩,
      fun p l hdie hp hnone => State.on_of_eq halive (opResponseArrive_of_unknown hk hp hdie hnone),
      fun t x hx => ⟨fun hlate => State.on_of_eq halive (opRequestTimeout_of_late hk hx hlate),
        fun hlate => ⟨_, rfl, State.on_of_eq halive (opRequestTimeout_of_first hk hx hlate rfl)⟩⟩⟩,
    fun d s halive => ⟨fun l e back fs m1 hpeer hup hfs hm1 => ⟨fun hfew => State.on_of_eq halive (opBridgeRetry_of_few hpeer hup hfs hm1 hfew),
        fun hmany => ?_⟩, fun who hwho => ⟨State.on_of_eq halive (Mach.permit_of_ok hwho), State.on_of_eq halive (Mach.permit_of_ok hwho),
        State.on_of_eq halive (Mach.permit_of_ok hwho), ?_⟩,
      fun who run hwho => ⟨State.on_of_eq halive (Mach.permit_of_no hwho), State.on_of_eq halive (Mach.permit_of_no hwho)⟩,
      fun r l t i a p ps m1 m2 ht hstore hrun hi ha hp hmay hm1 hm2 => State.on_of_eq halive (opTraceWrite_of_oldest ht hstore hrun hi ha hp hmay hm1
        hm2)⟩⟩
  · refine State.on_of_eq halive ((opPacketInject_of_portless hni hdest fun d hd => ?_).trans (by rw [portless_of_none hblock]))
    rw [hblock] at hd
    cases hd
  · refine State.on_of_eq halive ((opPacketInject_of_portless hni hdest fun e he => ?_).trans (by rw [portless_regRead_of_block hblock]))
    rw [hblock, Option.some.injEq] at he
    exact he ▸ hwho
  · rw [Mach.niSend_of_wait hnet hk hempty hmay]
    exact ⟨Mach.niq_setNiq _ _ _, rfl, rfl⟩
  · obtain ⟨t, ts, hfree⟩ := m.freeTxns_one (niKey die port)
    exact ⟨_, t, ts, hfree, rfl, Mach.niSend_of_route hnet hk hempty hmay hdie hroute htype hurg hbase hfree rfl⟩
  · have heq := opIngressRelookup_of_route hp hk (by omega) hroute
    by_cases hfull : 8 ≤ (s.m.nq k).length
    · rw [if_pos hfull] at heq ⊢
      exact State.on_of_same heq
    · rw [if_neg hfull] at heq ⊢
      exact State.on_of_eq halive heq
  · obtain ⟨hdown, hback, hon, hoff⟩ := opBridgeRetry_of_eighth hpeer hup hfs hm1 d.isLt hmany
    exact ⟨_, State.on_of_eq halive rfl, hdown, hback, hon, hoff, by simp⟩
  · exact ⟨_, State.on_of_eq halive (Mach.permit_of_ok hwho), s.m.traceRun_on d.val⟩

end Sys2Proof.Machine
end

section
/-! The fabric's macrocells, clocks and pins (11 R246 to R259, R269 to R271). -/

namespace Sys2Proof.Machine

section
variable {m : Mach} {d r k : Nat}

theorem opRegionalClockEdge_of_pass {up : Bool} {bs : List PIn} {rs : List RamIn} {pads : List Nat} (hpass : m.clkPasses d r k up bs = true) :
    opRegionalClockEdge d r k up bs rs pads m = ((bs.foldl (fun m1 x => m1.pEdge d r k up { x with ins := m.insOf d r bs x.p })
      (if up then m.ramEdge d r k rs else m)).pinEdge m d r k up bs pads).clkAfter d r k up := by
  simp only [opRegionalClockEdge, hpass, Bool.not_true, Bool.false_eq_true, if_false]

theorem opRegionalClockEdge_of_stopped {up : Bool} {bs : List PIn} {rs : List RamIn} {pads : List Nat} (hstop : m.rgnStep d r < 2 ∨
    bitOf k (m.rd F.frClkgatedGated (rgnIx d r)) = true ∨ m.clkLow d r k = true ∨
    m.srcRuns d (m.clkSrc d r k (m.rd F.frClkselActive (rgnClk d r k))) = false) : opRegionalClockEdge d r k up bs rs pads m = m := by
  have hpass : m.clkPasses d r k up bs = false := by
    rcases hstop with h | h | h | h
    · simp [Mach.clkPasses, Nat.not_le.mpr h]
    all_goals simp [Mach.clkPasses, h]
  simp only [opRegionalClockEdge, hpass, Bool.not_false, if_true]

section
variable {p : Nat} {set reset : Bool}

theorem opAsynchronousSetReset_of_started (hstarted : 2 ≤ m.rgnStep d r) (hp : p < rgnBlocks r) :
    opAsynchronousSetReset d r p set reset m = m.setFf d r p (natOfBits ((upFrom 0 16).map (fun i =>
      if m.pcfg d r p (mcItem i 7) && m.pcfg d r p 8511 && reset then false
      else if m.pcfg d r p (mcItem i 7) && m.pcfg d r p 8510 && set then true else bitOf i (m.ff d r p)))) :=
  if_neg (by omega)

theorem opAsynchronousSetReset_of_stopped (hstop : m.rgnStep d r < 2 ∨ rgnBlocks r ≤ p) : opAsynchronousSetReset d r p set reset m = m := if_pos hstop

end

/-! Clock switching (R254 to R256) -/

theorem not_deadSource {p : Nat}
    (hleft : m.clkLow d r k = true ∨ (!m.clkLow d r k && m.srcRuns d (m.clkSrc d r k (m.rd F.frClkselActive p))) = true) :
    ¬ ((!m.clkLow d r k) = true ∧ (!m.srcRuns d (m.clkSrc d r k (m.rd F.frClkselActive p))) = true) := by
  rcases hleft with h | h
  · simp [h]
  · simp only [Bool.and_eq_true] at h
    simp [h.2]

section
variable {sig p b : Nat} {runs : Bool} (hp : p = rgnClk d r k) (hb : b = (if m.on F.frClkselSelFabric p then sig else m.rd F.frClkselSel p))
include hp hb

theorem opClockSwitch_of_same (hsame : b = m.rd F.frClkselActive p) (hdone : m.on F.frClkselSwitching p = false) : opClockSwitch d r k sig runs m = m := by
  have hgo : (if m.on F.frClkselSelFabric p then sig else m.rd F.frClkselSel p) = m.rd F.frClkselActive p ∧ (!m.on F.frClkselSwitching p) = true :=
    ⟨hb ▸ hsame, by simp [hdone]⟩
  subst hp
  simp only [opClockSwitch, if_pos hgo]

section
variable {m1 : Mach} (hswitch : b ≠ m.rd F.frClkselActive p ∨ m.on F.frClkselSwitching p = true) (hm1 : m1 = m.wr F.frClkselSwitching p 1)
include hswitch hm1

/-- A switch under way: it waits for a dead source, else takes the new input when that runs, and holds the clock low until then. -/
theorem opClockSwitch_eq : opClockSwitch d r k sig runs m =
    if !m.clkLow d r k ∧ !m.srcRuns d (m.clkSrc d r k (m.rd F.frClkselActive p)) then m1
    else if runs ∧ m.srcRuns d (m.clkSrc d r k b) then ((m1.wr F.frClkselActive p b).wr F.frClkselSwitching p 0).setClkLow d r k false
    else m1.setClkLow d r k true := by
  have hgo : ¬ ((if m.on F.frClkselSelFabric p then sig else m.rd F.frClkselSel p) = m.rd F.frClkselActive p ∧ (!m.on F.frClkselSwitching p) = true) := by
    rw [← hb]
    rcases hswitch with h | h <;> simp [h]
  subst hm1 hb hp
  simp only [opClockSwitch, if_neg hgo]

theorem opClockSwitch_of_dead (hhigh : m.clkLow d r k = false) (hdead : m.srcRuns d (m.clkSrc d r k (m.rd F.frClkselActive p)) = false) :
    opClockSwitch d r k sig runs m = m1 := by
  rw [opClockSwitch_eq hp hb hswitch hm1, if_pos (by simp [hhigh, hdead])]

section
variable (hleft : m.clkLow d r k = true ∨ (!m.clkLow d r k && m.srcRuns d (m.clkSrc d r k (m.rd F.frClkselActive p))) = true)
include hleft

theorem opClockSwitch_of_running (hruns : runs = true) (hnew : m.srcRuns d (m.clkSrc d r k b) = true) :
    opClockSwitch d r k sig runs m = ((m1.wr F.frClkselActive p b).wr F.frClkselSwitching p 0).setClkLow d r k false := by
  rw [opClockSwitch_eq hp hb hswitch hm1, if_neg (not_deadSource hleft), if_pos ⟨hruns, hnew⟩]

theorem opClockSwitch_of_waiting (hruns : runs = false) : opClockSwitch d r k sig runs m = m1.setClkLow d r k true := by
  rw [opClockSwitch_eq hp hb hswitch hm1, if_neg (not_deadSource hleft), if_neg (by simp [hruns])]

end

end

end

theorem opDeadSrc_of_switching (hswitch : m.on F.frClkselSwitching (rgnClk d r k) = true) (hhigh : m.clkLow d r k = false)
    (hnew : m.on F.frClkselSelFabric (rgnClk d r k) = true ∨ m.srcRuns d (m.clkSrc d r k (m.rd F.frClkselSel (rgnClk d r k))) = true) :
    opDeadSrc d r k m = (m.wr F.frEventsDeadSrc (rgnIx d r) 1).setClkLow d r k true := by
  have hgo : (m.on F.frClkselSwitching (rgnClk d r k) && !m.clkLow d r k &&
      (m.on F.frClkselSelFabric (rgnClk d r k) || m.srcRuns d (m.clkSrc d r k (m.rd F.frClkselSel (rgnClk d r k))))) = true := by
    simpa [hswitch, hhigh] using hnew
  exact if_pos hgo

theorem opDeadSrc_of_settled (hidle : m.on F.frClkselSwitching (rgnClk d r k) = false ∨ m.clkLow d r k = true) : opDeadSrc d r k m = m := by
  refine if_neg ?_
  rcases hidle with h | h <;> simp [h]

/-! The clock monitor and gates (R257, R258) -/

theorem opClockMonitorWindow_of_low {n : Nat} (hn : n ≤ 8396) : opClockMonitorWindow d r k n m = m.wr F.frClkmonEdges (rgnClk d r k) (min 0xFFFF n) :=
  if_pos hn

theorem opClockMonitorWindow_of_high {n : Nat} (hn : 8396 < n) : opClockMonitorWindow d r k n m =
    (((m.wr F.frClkmonEdges (rgnClk d r k) (min 0xFFFF n)).wr F.frClkgateEn (rgnIx d r) (clearBit k (m.rd F.frClkgateEn (rgnIx d r)))).wr
      F.frClkgatedGated (rgnIx d r) (setBit k (m.rd F.frClkgatedGated (rgnIx d r)))).ev F.frEventsFreqHigh (rgnIx d r) :=
  if_neg (Nat.not_le.mpr hn)

end

/-! Pins (R269 to R271) -/

section
variable {m : Mach} {b v : Nat}

theorem opVioLoss_of_wrong (hreleased : m.on F.ioBankStatusReleased (ioIx b) = true) (hwrong : v ≠ m.rd F.ioBankStatusVioDecl (ioIx b)) :
    opVioLoss b v m = ((m.holdBank b).wr F.ioBankStatusVio (ioIx b) v).ev F.ioEventsVioMismatch (ioIx b) :=
  if_neg (by simp [hreleased, hwrong])

theorem opVioLoss_of_right (hright : m.on F.ioBankStatusReleased (ioIx b) = false ∨ v = m.rd F.ioBankStatusVioDecl (ioIx b)) :
    opVioLoss b v m = m.wr F.ioBankStatusVio (ioIx b) v := by
  refine if_pos ?_
  rcases hright with h | h <;> simp [h]

theorem opIoPinSlewWrite_of_other {d i who sl : Nat} (hd : bankDie b ≠ d) : opIoPinSlewWrite d b i who sl m = m.respond who rsDecode := if_pos hd

theorem opIoPinSlewWrite_of_die {d i who sl : Nat} (hd : bankDie b = d) :
    opIoPinSlewWrite d b i who sl m = m.permit (fabricWho d who) who (fun m => m.wr F.ioPinSlew (ix d b i 0) sl) := if_neg (not_not.mpr hd)

end

/-- Settles O25, command by command. -/
theorem fabricLogicClocksAndPins : Obligations.FabricLogicClocksAndPins := by
  unfold Obligations.FabricLogicClocksAndPins
  refine ⟨fun d r k s p g halive hp hg => ?_, fun b s halive => ⟨fun v hreleased hwrong => State.on_of_eq halive (opVioLoss_of_wrong hreleased hwrong),
      fun v hright => State.on_of_eq halive (opVioLoss_of_right hright), fun d i who sl => ⟨fun hd => State.on_of_eq halive (opIoPinSlewWrite_of_other hd),
        fun hd hwho => State.on_of_eq halive ((opIoPinSlewWrite_of_die hd).trans (Mach.permit_of_ok hwho)),
        fun hd hwho => State.on_of_eq halive ((opIoPinSlewWrite_of_die hd).trans (Mach.permit_of_no hwho))⟩⟩,
    fun lv s halive => ⟨_, _, rfl, rfl, State.on_of_eq halive rfl⟩⟩
  refine ⟨fun bs rs pads up hpass => ⟨_, _, rfl, rfl, State.on_of_eq halive (opRegionalClockEdge_of_pass hpass)⟩, fun bs rs pads up hstop => ?_,
    fun b set reset hstarted hb => ⟨_, State.on_of_eq halive (opAsynchronousSetReset_of_started hstarted hb), rfl⟩,
    fun b set reset hstop => State.on_of_same (opAsynchronousSetReset_of_stopped hstop), fun sig runs b leaving hb hleaving => ⟨fun hsame hdone =>
      State.on_of_same (opClockSwitch_of_same hp hb hsame hdone), fun hswitch => ⟨_, rfl, fun ⟨hhigh, hdead⟩ => State.on_of_eq halive
        (opClockSwitch_of_dead hp hb hswitch rfl hhigh hdead), fun hleft hnew => ?_⟩⟩, fun hswitch hhigh hnew => ?_, fun hidle => ?_,
    fun who div => ⟨fun hwho => ?_, fun hwho => State.on_of_eq halive (Mach.permit_of_no hwho)⟩, fun n hn => ?_, fun n hn => ⟨_, rfl, ?_⟩,
    fun who en hwho => State.on_of_eq halive (Mach.permit_of_no hwho), fun who en hwho => ⟨_, rfl, ?_⟩⟩
  · subst hp hg
    exact State.on_of_same (opRegionalClockEdge_of_stopped hstop)
  · subst hleaving
    exact ⟨State.on_of_eq halive (opClockSwitch_of_running hp hb hswitch rfl hleft rfl hnew),
      State.on_of_eq halive (opClockSwitch_of_waiting hp hb hswitch rfl hleft rfl)⟩
  · subst hp hg
    exact State.on_of_eq halive (opDeadSrc_of_switching hswitch hhigh hnew)
  · subst hp
    exact State.on_of_same (opDeadSrc_of_settled hidle)
  · subst hp
    exact State.on_of_eq halive (Mach.permit_of_ok hwho)
  · subst hp
    exact State.on_of_eq halive (opClockMonitorWindow_of_low hn)
  · subst hp hg
    exact State.on_of_eq halive (opClockMonitorWindow_of_high hn)
  · subst hg
    refine State.on_of_eq halive ((Mach.permit_of_ok hwho).trans ?_)
    simp only [Mach.clkGate]

end Sys2Proof.Machine
end

section
/-! The fabric network interfaces (11 R261 to R267). -/

namespace Sys2Proof.Machine

/-! Requests (R261 to R264) -/

section
variable {m : Mach} {d f : Nat} {q : FniReq} {x : Fni} (hx : m.fni (32 * d + f) = x)
include hx

theorem opFniRequest_of_closed (hclosed : m.on F.fniCtrlEn (fniIx (32 * d + f)) = false ∨ m.on F.fniStatusFenced (fniIx (32 * d + f)) = true ∨
    16 ≤ x.reqs.length ∨ 256 ≤ x.tags.length ∨ ∃ t ∈ x.tags, t.1 = q.tag) : opFniRequest d f q m = m := by
  subst hx
  refine if_pos ?_
  rcases hclosed with h | h | h | h | h
  · simp [h]
  · simp [h]
  · simp [h]
  · simp [Fni.outstanding, h]
  · have hany : ((m.fni (32 * d + f)).tags.any (fun t => t.1 == q.tag)) = true := by simpa using h
    simp only [hany, Bool.or_true]

section
variable (hen : m.on F.fniCtrlEn (fniIx (32 * d + f)) = true) (hopen : m.on F.fniStatusFenced (fniIx (32 * d + f)) = false)
  (hroom : x.reqs.length < 16) (hfew : x.tags.length < 256) (hnew : ∀ t ∈ x.tags, t.1 ≠ q.tag)
include hen hopen hroom hfew hnew

/-- A request that the interface takes: one that breaks a rule of its form is answered, any other goes to the queue and on. -/
theorem opFniRequest_eq : opFniRequest d f q m =
    if q.kind = 7 ∨ q.len = 0 ∨ 256 < q.len ∨ 256 < q.addr % 256 + q.len ∨ (q.kind = 6 ∧ (q.len ≠ 64 ∨ q.data.length ≠ 64)) then
      (m.ev F.fniEventsMalformed (fniIx (32 * d + f))).send (.fniResp d f q.tag rsMalformed [] 0)
    else ((if q.kind == 6 || (q.kind == 1 && q.noAck) then m else m.setFni (32 * d + f) { x with tags := x.tags ++ [(q.tag, none)] }).setFni (32 * d + f)
      { (if q.kind == 6 || (q.kind == 1 && q.noAck) then m else m.setFni (32 * d + f) { x with tags := x.tags ++ [(q.tag, none)] }).fni (32 * d + f) with
        reqs := x.reqs ++ [q] }).fniDrain (32 * d + f) (x.reqs ++ [q]) := by
  subst hx
  have hgo : ¬ (!m.on F.fniCtrlEn (fniIx (32 * d + f)) || m.on F.fniStatusFenced (fniIx (32 * d + f)) || decide (16 ≤ (m.fni (32 * d + f)).reqs.length) ||
      decide (256 ≤ (m.fni (32 * d + f)).outstanding) || (m.fni (32 * d + f)).tags.any (fun t => t.1 == q.tag)) = true := by
    have hnone : (m.fni (32 * d + f)).tags.any (fun t => t.1 == q.tag) = false := by
      rw [List.any_eq_false]
      exact fun t ht => by simpa using hnew t ht
    simp [hen, hopen, hroom, Fni.outstanding, Nat.not_le.mpr hfew, hnone]
  exact if_neg hgo

theorem opFniRequest_of_malformed (hbad : q.len = 0 ∨ 256 < q.addr % 256 + q.len ∨ q.kind = 7 ∨ q.kind = 6 ∧ (q.len ≠ 64 ∨ q.data.length ≠ 64)) :
    opFniRequest d f q m = (m.ev F.fniEventsMalformed (fniIx (32 * d + f))).send (.fniResp d f q.tag rsMalformed [] 0) := by
  rw [opFniRequest_eq hx hen hopen hroom hfew hnew, if_pos]
  rcases hbad with h | h | h | h
  · exact Or.inr (Or.inl h)
  · exact Or.inr (Or.inr (Or.inr (Or.inl h)))
  · exact Or.inl h
  · exact Or.inr (Or.inr (Or.inr (Or.inr h)))

theorem opFniRequest_of_wellFormed (hsome : 0 < q.len) (hline : q.addr % 256 + q.len ≤ 256) (hkind : q.kind < 7)
    (hmsg : q.kind = 6 → q.len = 64 ∧ q.data.length = 64) {m1 : Mach}
    (hm1 : m1 = (if q.kind = 6 ∨ q.kind = 1 ∧ q.noAck = true then m else m.setFni (32 * d + f) { x with tags := x.tags ++ [(q.tag, none)] })) :
    opFniRequest d f q m = (m1.setFni (32 * d + f) { m1.fni (32 * d + f) with reqs := x.reqs ++ [q] }).fniDrain (32 * d + f) (x.reqs ++ [q]) := by
  have hform : ¬ (q.kind = 7 ∨ q.len = 0 ∨ 256 < q.len ∨ 256 < q.addr % 256 + q.len ∨ (q.kind = 6 ∧ (q.len ≠ 64 ∨ q.data.length ≠ 64))) := by
    rintro (h | h | h | h | ⟨h6, h⟩)
    · omega
    · omega
    · omega
    · omega
    · obtain ⟨hlen, hdata⟩ := hmsg h6
      exact h.elim (absurd hlen) (absurd hdata)
  have hquiet : (q.kind == 6 || (q.kind == 1 && q.noAck)) = true ↔ q.kind = 6 ∨ q.kind = 1 ∧ q.noAck = true := by simp
  subst hm1
  rw [opFniRequest_eq hx hen hopen hroom hfew hnew, if_neg hform]
  simp only [hquiet]

end

end

theorem Mach.fniDrain_of_none {m : Mach} {k : Nat} {q : FniReq} {l : List FniReq} (h : (m.setFni k { m.fni k with reqs := l }).fniInject k q = none) :
    m.fniDrain k (q :: l) = m := by
  rw [Mach.fniDrain, h]

/-! Target accesses and replies (R265) -/

section
variable {m : Mach} {k who kind word data : Nat}

theorem Mach.fniTarget_of_kind (hread : kind ≠ 4) (hwrite : kind ≠ 5) :
    m.fniTarget k who kind word data none = m.send (.resp who rsMalformed [] 0) := by
  simp only [Mach.fniTarget, Mach.targetAnswer, hread, hwrite, ne_eq, not_false_eq_true, and_self, if_true]

theorem Mach.fniTarget_of_closed (hkind : kind = 4 ∨ kind = 5) (hclosed : m.on F.fniCtrlAcceptTarget (fniIx k) = false ∨
    m.on F.fniStatusFenced (fniIx k) = true) : m.fniTarget k who kind word data none = m.send (.resp who rsRefused [] 0) := by
  have hform : ¬ (kind ≠ 0x04 ∧ kind ≠ 0x05) := by omega
  have hgo : (!m.on F.fniCtrlAcceptTarget (fniIx k) || m.on F.fniStatusFenced (fniIx k)) = true := by rcases hclosed with h | h <;> simp [h]
  simp only [Mach.fniTarget, Mach.targetAnswer, if_neg hform, if_pos hgo]

theorem Mach.fniTarget_of_open (hkind : kind = 4 ∨ kind = 5) (haccept : m.on F.fniCtrlAcceptTarget (fniIx k) = true)
    (hopen : m.on F.fniStatusFenced (fniIx k) = false) : m.fniTarget k who kind word data none =
      (m.setFni k { m.fni k with targets := (m.fni k).targets ++ [(who, kind == 5, none)] }).send (.fniTarget (k / 32) (k % 32) (kind == 5) word data who) := by
  have hform : ¬ (kind ≠ 0x04 ∧ kind ≠ 0x05) := by omega
  simp only [Mach.fniTarget, if_neg hform, haccept, hopen, Bool.not_true, Bool.or_self, Bool.false_eq_true, if_false]

end

section
variable {m : Mach} {d f data : Nat} {refuse : Bool} {x : Fni} (hx : m.fni (32 * d + f) = x)
include hx

theorem opFniTargetReply_of_none (hnone : x.targets = []) : opFniTargetReply d f data refuse m = m := by
  simp only [opFniTargetReply, hx, hnone]

theorem opFniTargetReply_of_target {who : Nat} {wr : Bool} {pkt : Option Packet} {l : List (Nat × Bool × Option Packet)}
    (htargets : x.targets = (who, wr, pkt) :: l) : opFniTargetReply d f data refuse m = (m.setFni (32 * d + f) { x with targets := l }).targetAnswer
      (32 * d + f) who wr pkt (if refuse then rsRefused else rsOk) (if refuse || wr then [] else leBytes 4 data) := by
  simp only [opFniTargetReply, hx, htargets]

end

/-! Messages (R266) -/

section
variable {m : Mach} {d f : Nat}

theorem opFniMessageArrive_of_none (hnone : findIdx (fun x => x.dest == 0x8000 + 32 * d + f) m.fw.mails = none) : opFniMessageArrive d f m = m := by
  simp only [opFniMessageArrive, hnone]

theorem opFniMessageArrive_of_some {i : Nat} {y : Mail} (hi : findIdx (fun x => x.dest == 0x8000 + 32 * d + f) m.fw.mails = some i)
    (hy : m.fw.mails[i]? = some y) :
    opFniMessageArrive d f m = ({ m with fw := { m.fw with mails := dropNth m.fw.mails i } } : Mach).sinkArrive (32 * d + f) y.src y.words := by
  simp only [opFniMessageArrive, hi, hy]

theorem opMessageSinkTransfer_of_idle (hidle : (m.fni (32 * d + f)).sink = [] ∨ m.on F.fniCtrlEn (fniIx (32 * d + f)) = false ∨
    m.on F.fniStatusFenced (fniIx (32 * d + f)) = true) : opMessageSinkTransfer d f m = m := by
  rw [opMessageSinkTransfer]
  cases hsink : (m.fni (32 * d + f)).sink with
  | nil => rfl
  | cons y l =>
    rcases hidle with h | h | h
    · rw [h] at hsink
      cases hsink
    all_goals exact if_pos (by simp [h])

theorem opMessageSinkTransfer_of_message {src : Nat} {words : List Nat} {l : List (Nat × List Nat)} (hsink : (m.fni (32 * d + f)).sink = (src, words) :: l)
    (hen : m.on F.fniCtrlEn (fniIx (32 * d + f)) = true) (hopen : m.on F.fniStatusFenced (fniIx (32 * d + f)) = false) :
    opMessageSinkTransfer d f m = (m.setFni (32 * d + f) { m.fni (32 * d + f) with sink := l }).send (.fniMessage d f words src) := by
  simp only [opMessageSinkTransfer, hsink, hen, hopen, Bool.not_true, Bool.or_self, Bool.false_eq_true, if_false]

end

section
variable {m : Mach} {k src : Nat} {words : List Nat}

theorem Mach.sinkArrive_of_fenced (hfenced : m.on F.fniStatusFenced (fniIx k) = true) :
    m.sinkArrive k src words = (m.cnt F.fniDiscarded (fniIx k) 1).ev F.fniEventsDiscarded (fniIx k) := if_pos hfenced

theorem Mach.sinkArrive_of_room (hopen : m.on F.fniStatusFenced (fniIx k) = false) (hroom : (m.fni k).sink.length < 16) :
    m.sinkArrive k src words = m.setFni k { m.fni k with sink := (m.fni k).sink ++ [(src, words)] } := by
  simp only [Mach.sinkArrive, hopen, hroom, Bool.false_eq_true, if_false, if_true]

theorem Mach.sinkArrive_of_full (hopen : m.on F.fniStatusFenced (fniIx k) = false) (hfull : 16 ≤ (m.fni k).sink.length) :
    m.sinkArrive k src words =
      (m.setFni k { m.fni k with sink := (m.fni k).sink.dropLast ++ [(src, words)] }).ev F.fniEventsSinkCollide (fniIx k) := by
  simp only [Mach.sinkArrive, hopen, Nat.not_lt.mpr hfull, Bool.false_eq_true, if_false]

end

/-! The row-push window (R267) -/

/-- Whether the window's byte enables name every byte from `a` on for `n` bytes. -/
def enabled (en : List Bool) (a n : Nat) : Bool := (upFrom a n).all (fun i => nth false en i)

theorem enabled_iff {en : List Bool} {a n : Nat} : enabled en a n = true ↔ ∀ i, a ≤ i → i < a + n → nth false en i = true := by
  simp [enabled, mem_upFrom]

theorem enabled_of_missing {en : List Bool} {a n i : Nat} (ha : a ≤ i) (hn : i < a + n) (h : nth false en i = false) : enabled en a n = false :=
  Bool.eq_false_iff.mpr fun hall => by simp [enabled_iff.mp hall i ha hn] at h

section
variable {m : Mach} {t who kind off : Nat} {data : List Byte} {en : List Bool}

theorem opRowPushWindow_of_other (hraw : m.isRaw (t / 16) = false) : opRowPushWindow t who kind off data en m = m.respond who rsRefused := by
  simp only [opRowPushWindow, Mach.rowWindow, hraw, Bool.not_false, if_true]

section
variable (hraw : m.isRaw (t / 16) = true)
include hraw

theorem opRowPushWindow_of_form (hform : kind ≠ 0x10 ∨ data.length ≠ 128 ∨ off % 128 ≠ 0 ∨ enabled en 96 3 = false) :
    opRowPushWindow t who kind off data en m = m.respond who rsMalformed := by
  have hwindow : m.rowWindow t kind off data en = (rsMalformed, m) := by
    by_cases hkind : kind = 0x10
    · refine (if_neg (by simp [hraw])).trans ((if_neg (not_not.mpr hkind)).trans (if_pos ?_))
      rcases hform with h | h | h | h
      · exact absurd hkind h
      · exact Or.inl h
      · exact Or.inr (Or.inl h)
      · exact Or.inr (Or.inr (Or.inr (by rw [enabled] at h; simp only [h, Bool.not_false])))
    · exact (if_neg (by simp [hraw])).trans (if_pos hkind)
  rw [opRowPushWindow, hwindow]

section
variable (hkind : kind = 0x10) (hlen : data.length = 128) (hoff : off % 128 = 0) (hheader : enabled en 96 3 = true)
include hkind hlen hoff hheader

theorem opRowPushWindow_of_none (hnone : (m.tile t).pushTarget = none) : opRowPushWindow t who kind off data en m = m.respond who rsRefused := by
  have hheader' : (upFrom 96 3).all (fun i => nth false en i) = true := hheader
  have hempty : (upFrom 0 0).all (fun i => nth false en i) = true := rfl
  simp only [opRowPushWindow, Mach.rowWindow, hraw, hkind, hlen, hoff, hheader', hnone, hempty, pushRow, Nat.mul_zero, Bool.not_true, Bool.false_eq_true,
    ne_eq, not_true_eq_false, or_self, if_false]

theorem opRowPushWindow_of_row {q : QCmd} {h : Bool} {fm : Fmt} {row : RowPush} (htarget : (m.tile t).pushTarget = some (q, h))
    (hfm : fmtOfCode (tcFmtA q.w) = some fm) (hrow : row = RowPush.mk t (off / 128) allLanes
      ⟨unpack fm.width (leNat data) 48, ((data.drop 96).take 3).map (fun b => b.toNat)⟩) (hfull : enabled en 0 (6 * fm.width) = true) :
    opRowPushWindow t who kind off data en m = (pushRow row m).2.respond who rsOk := by
  have hheader' : (upFrom 96 3).all (fun i => nth false en i) = true := hheader
  have hfull' : (upFrom 0 (6 * fm.width)).all (fun i => nth false en i) = true := hfull
  have hstaged : (pushRow row m).1 = true := by
    subst hrow
    simp only [pushRow, htarget]
    split
    · rfl
    · split <;> rfl
  subst hrow
  simp only [opRowPushWindow, Mach.rowWindow, hraw, hkind, hlen, hoff, hheader', hfull', htarget, hfm, Option.map_some, Option.getD_some, Bool.not_true,
    Bool.false_eq_true, ne_eq, not_true_eq_false, or_self, if_false, hstaged, if_true]

end

theorem opRowPushWindow_of_short {q : QCmd} {h : Bool} {fm : Fmt} (hkind : kind = 0x10) (htarget : (m.tile t).pushTarget = some (q, h))
    (hfm : fmtOfCode (tcFmtA q.w) = some fm) (hshort : enabled en 0 (6 * fm.width) = false) :
    opRowPushWindow t who kind off data en m = m.respond who rsMalformed := by
  have hshort' : (upFrom 0 (6 * fm.width)).all (fun i => nth false en i) = false := hshort
  simp only [opRowPushWindow, Mach.rowWindow, hraw, hkind, hshort', htarget, hfm, Option.map_some, Option.getD_some, Bool.not_true, Bool.not_false,
    Bool.false_eq_true, ne_eq, not_true_eq_false, true_or, or_true, if_false, if_true]

end

end

/-- Settles O26, command by command. -/
theorem fabricInterfaceCommands : Obligations.FabricInterfaceCommands := by
  unfold Obligations.FabricInterfaceCommands
  intro d f s k x halive hk hx
  subst hk
  have hdie : (32 * d.val + f.val) / 32 = d.val := by omega
  have hport : (32 * d.val + f.val) % 32 = f.val := by omega
  refine ⟨fun kind addr len tag na data en => ⟨fun hclosed => State.on_of_same (opFniRequest_of_closed hx hclosed), fun hen hopen hroom hfew hnew =>
      ⟨fun hbad => State.on_of_eq halive (opFniRequest_of_malformed hx hen hopen hroom hfew hnew hbad), fun hsome hline hkind hmsg => ⟨_, _, rfl, rfl,
        State.on_of_eq halive (opFniRequest_of_wellFormed hx hen hopen hroom hfew hnew hsome hline hkind hmsg rfl)⟩⟩⟩,
    fun q l m h => Mach.fniDrain_of_none h, fun who kind w data => ?_,
    fun data refuse hnone => State.on_of_same (opFniTargetReply_of_none hx hnone), fun data refuse who wr pkt l st dt htargets hst hdt => ⟨_, rfl, ?_, ?_⟩,
    fun hnone => State.on_of_same (opFniMessageArrive_of_none hnone), fun i y hi hy => ⟨_, rfl, State.on_of_eq halive (opFniMessageArrive_of_some hi hy)⟩,
    fun src words => ?_, fun hidle => State.on_of_same (opMessageSinkTransfer_of_idle (by rw [hx]; exact hidle)),
    fun src words l hsink hen hopen => State.on_of_eq halive ?_, fun t who kind off data en => ?_⟩
  · dsimp only [exec, execFniTargetAccess]
    exact ⟨fun hread hwrite => State.on_of_eq halive (Mach.fniTarget_of_kind hread hwrite),
      fun hkind hclosed => State.on_of_eq halive (Mach.fniTarget_of_closed hkind hclosed),
      fun hkind haccept hopen => State.on_of_eq halive ((Mach.fniTarget_of_open hkind haccept hopen).trans (by rw [hx, hdie, hport]))⟩
  · rintro rfl
    subst hst hdt
    exact State.on_of_eq halive (opFniTargetReply_of_target hx htargets)
  · rintro p port rfl rfl
    subst hst hdt
    refine State.on_of_eq halive ((opFniTargetReply_of_target hx htargets).trans ?_)
    simp only [Mach.targetAnswer, hdie, hport]
    cases refuse <;> rfl
  · subst hx
    exact ⟨fun hopen => ⟨Mach.sinkArrive_of_room hopen, Mach.sinkArrive_of_full hopen⟩, Mach.sinkArrive_of_fenced⟩
  · subst hx
    exact opMessageSinkTransfer_of_message hsink hen hopen
  · refine ⟨fun hraw => State.on_of_eq halive (opRowPushWindow_of_other hraw), fun hraw hform => State.on_of_eq halive (opRowPushWindow_of_form hraw ?_),
      fun hraw hkind hlen hoff hheader hnone => State.on_of_eq halive (opRowPushWindow_of_none hraw hkind hlen hoff (enabled_iff.mpr hheader) hnone),
      fun q h fm row hraw hkind hlen hoff hheader htarget hfm hrow => ⟨fun hshort => State.on_of_eq halive (opRowPushWindow_of_short hraw hkind htarget hfm
        ?_), fun hfull => State.on_of_eq halive (opRowPushWindow_of_row hraw hkind hlen hoff (enabled_iff.mpr hheader) htarget hfm hrow
        (enabled_iff.mpr fun i _ hi => hfull i (by omega)))⟩⟩
    · rcases hform with h | h | h | h | h | h
      · exact Or.inl h
      · exact Or.inr (Or.inl h)
      · exact Or.inr (Or.inr (Or.inl h))
      all_goals exact Or.inr (Or.inr (Or.inr (enabled_of_missing (by omega) (by omega) h)))
    · obtain ⟨i, hi, hmissing⟩ := hshort
      exact enabled_of_missing (Nat.zero_le i) (by omega) hmissing

end Sys2Proof.Machine
end

section
/-! Slots M, L and AUX of a slice's bundle (12 R279 to R283, R286 to R288, R296). -/

namespace Sys2Proof.Machine

/-- The machine in which the operation of one slot of a slice's bundle has acted. -/
def Mach.acted (m : Mach) (k slot : Nat) (b : SlIssued) : Mach :=
  m.setSl k { m.sl k with issued := some { b with todo := clearBit slot b.todo } }

theorem Mach.acted_slReg (m : Mach) (k slot : Nat) (b c : SlIssued) (x : Nat) : (m.acted k slot b).slReg k c x = m.slReg k c x := by
  simp [Mach.acted, Mach.slReg]

@[simp] theorem Mach.acted_rd (m : Mach) (k slot : Nat) (b : SlIssued) (f : Fld) (p : Nat) : (m.acted k slot b).rd f p = m.rd f p := rfl

theorem Mach.slOp_of_eq {m m1 : Mach} {k slot code : Nat} {b : SlIssued} {f : SlIssued → Mach → Mach} (hissued : (m.sl k).issued = some b)
    (htodo : bitOf slot b.todo = true) (hcode : slCode slot b.word = code) (hf : f b (m.acted k slot b) = m1) : m.slOp k slot code f = m1 :=
  (m.slOp_of_todo f hissued htodo hcode).trans hf

/-! Products (R279, R280) -/

theorem cmul_conj (x y : Nat) : cmul true x y = (cre x * cre y + cim x * cim y, cim x * cre y - cre x * cim y) := by
  simp only [cmul, if_true, Prod.mk.injEq]
  exact ⟨by ring, by ring⟩

theorem Mach.acted_slMul (m : Mach) (k slot : Nat) (b : SlIssued) (neg conj zero norm : Bool) {x y : Nat} {re im : Int}
    (hx : x = m.slReg k b (mA b.word)) (hy : y = m.slReg k b (mB b.word)) (hprod : cmul conj x y = (re, im)) :
    (m.acted k slot b).slMul k b neg conj zero norm = (m.acted k slot b).slRes k b 1 4 (.acc (mAcc b.word) zero (if neg then -re else re)
      (if neg then -im else im) (if norm then some (b.phys (mA b.word), m.rd F.slNsh (slIx k)) else none)) := by
  subst hx hy
  simp only [Mach.slMul, Mach.acted_slReg, Mach.acted_rd, hprod]

/-! Loads, stores and steps (R281 to R283) -/

section
variable {m : Mach} {k w x i : Nat} {b : SlIssued}

theorem Mach.slLoad_of_good {up : Bool} {y : Slice} (hy : y = (m.sl k).upset w up) (hgood : y.dIsBad k w = false) :
    m.slLoad k b w x up = (m.setSl k y).slRes k b 2 3 (.reg (b.phys x) (ext32 (y.dword k w))) := by
  subst hy
  simp only [Mach.slLoad, hgood, Bool.false_eq_true, if_false]

theorem Mach.slLoad_of_bad {up : Bool} {y : Slice} (hy : y = (m.sl k).upset w up) (hbad : y.dIsBad k w = true) : m.slLoad k b w x up =
    (((m.setSl k y).slRes k b 2 3 (.reg (b.phys x) (ext32 (y.dword k w)))).slEv k F.slEventsDmemParity).cnt F.slDmemErrs (slIx k) 1 := by
  subst hy
  simp only [Mach.slLoad, hbad, if_true]

theorem Slice.putWord_dword (y : Slice) (k w v : Nat) : (y.putWord w v).dword k w = v % 2 ^ 32 := by
  simp only [Slice.dword, Slice.putWord, SMap.get_put_self]

theorem Slice.putWord_dIsBad (y : Slice) (k w v : Nat) : (y.putWord w v).dIsBad k w = false := by
  simp only [Slice.dIsBad, Slice.putWord, SMap.get_put_self]
  rfl

theorem Mach.slStore_dword : ((m.slStore k b w x).sl k).dword k w = m.slReg k b x % 2 ^ 32 := by
  simp only [Mach.slStore, Mach.sl_setSl]
  exact Slice.putWord_dword (m.sl k) k w (m.slReg k b x)

theorem Mach.slStore_dIsBad : ((m.slStore k b w x).sl k).dIsBad k w = false := by
  simp only [Mach.slStore, Mach.sl_setSl]
  exact Slice.putWord_dIsBad (m.sl k) k w (m.slReg k b x)

theorem Mach.slCircStep_of_length {cl : Nat} {v : Int} (hcl : cl = m.rd F.slCl (slSub k i))
    (hv : v = (m.rd F.slCi (slSub k i) : Int) + toSigned 16 (m.rd F.slCs (slSub k i))) (hlen : cl ≠ 0) :
    m.slCircStep k b i = m.slRes k b 2 1 (.ctl (16 + i) (v % (cl : Int)).toNat) := by
  subst hcl hv
  simp only [Mach.slCircStep, Mach.slWrapCi, if_neg hlen]

theorem Mach.slCircStep_of_empty (hlen : m.rd F.slCl (slSub k i) = 0) :
    m.slCircStep k b i = (m.fresh 16).2.slRes k b 2 1 (.ctl (16 + i) (m.fresh 16).1) := by
  simp only [Mach.slCircStep, Mach.slWrapCi, if_pos hlen]

end

/-- Settles O27, command by command: each operation acts on the machine in which its slot has acted, whose registers are as they were. -/
theorem sliceMultipliesAndMemory : Obligations.SliceMultipliesAndMemory := by
  unfold Obligations.SliceMultipliesAndMemory
  intro d n s k b halive hk hissued
  subst hk
  refine ⟨fun m0 a x y re im htodo hm0 ha hx hy => ⟨fun hre him => ?_, fun hre him hcode => ?_, fun hcode => ?_⟩,
    fun m0 wp wc htodo hm0 hwp hwc => ?_, fun m w x i cl up y v hy hcl hv => ⟨Mach.slLoad_of_good hy, Mach.slLoad_of_bad hy, Mach.slStore_dword,
      Mach.slStore_dIsBad, rfl, Mach.slCircStep_of_length hcl hv, fun hlen => Mach.slCircStep_of_empty (hcl ▸ hlen)⟩, fun m0 htodo hcode hm0 => ⟨fun hkeep => ?_, fun hreset hmay => ?_⟩,
    State.on_of_same rfl⟩
  · have hprod : cmul false x y = (re, im) := by rw [hre, him]; rfl
    subst ha hm0
    exact ⟨fun hcode => State.on_of_eq halive (Mach.slOp_of_eq hissued htodo hcode (Mach.acted_slMul _ _ _ _ false false false false hx hy hprod)),
      fun hcode => State.on_of_eq halive (Mach.slOp_of_eq hissued htodo hcode (Mach.acted_slMul _ _ _ _ true false false false hx hy hprod)),
      fun hcode => State.on_of_eq halive (Mach.slOp_of_eq hissued htodo hcode (Mach.acted_slMul _ _ _ _ false false true false hx hy hprod)),
      fun hcode => State.on_of_eq halive (Mach.slOp_of_eq hissued htodo hcode (Mach.acted_slMul _ _ _ _ false false false true hx hy hprod))⟩
  · have hprod : cmul true x y = (re, im) := by rw [hre, him, cmul_conj]
    subst ha hm0
    exact State.on_of_eq halive (Mach.slOp_of_eq hissued htodo hcode (Mach.acted_slMul _ _ _ _ false true false false hx hy hprod))
  · subst ha hm0
    exact State.on_of_eq halive (Mach.slOp_of_eq hissued htodo hcode rfl)
  · subst hwp hwc hm0
    exact ⟨fun up hcode => State.on_of_eq halive (Mach.slOp_of_eq hissued htodo hcode rfl),
      fun up hcode => State.on_of_eq halive (Mach.slOp_of_eq hissued htodo hcode rfl),
      fun up upC hcode => State.on_of_eq halive (Mach.slOp_of_eq hissued htodo hcode rfl),
      fun hcode => State.on_of_eq halive (Mach.slOp_of_eq hissued htodo hcode rfl),
      fun hcode => State.on_of_eq halive (Mach.slOp_of_eq hissued htodo hcode rfl),
      fun up hcode => State.on_of_eq halive (Mach.slOp_of_eq hissued htodo hcode rfl)⟩
  · subst hm0
    refine State.on_of_eq halive (Mach.slOp_of_eq hissued htodo hcode ((if_neg ?_).trans (by rw [Mach.acted_slReg]; rfl)))
    rcases hkeep with h | h <;> simp [h]
  · subst hm0
    exact State.on_of_eq halive (Mach.slOp_of_eq hissued htodo hcode (if_pos ⟨hreset, by simp [hmay]⟩))

end Sys2Proof.Machine
end

section
/-! Slot C's arithmetic (12 R277, R282, R284 to R287). -/

namespace Sys2Proof.Machine

/-! Saturation to S40 (R284) -/

theorem clampInt_of_mem {lo hi i : Int} (hlow : lo ≤ i) (hhigh : i ≤ hi) : clampInt lo hi i = i := by
  rw [clampInt, if_neg (not_lt.mpr hlow), if_neg (not_lt.mpr hhigh)]

theorem clampInt_of_low {lo hi i : Int} (hlow : i < lo) : clampInt lo hi i = lo := if_pos hlow

theorem clampInt_of_high {lo hi i : Int} (hle : lo ≤ hi) (hhigh : hi < i) : clampInt lo hi i = hi := by
  rw [clampInt, if_neg (not_lt.mpr (hle.trans hhigh.le)), if_pos hhigh]

theorem sat40_of_range {i : Int} (hlow : lo40 ≤ i) (hhigh : i ≤ hi40) : sat40 i = (of40 i, false) := by
  simp only [sat40, clampInt_of_mem hlow hhigh, not_lt.mpr hlow, not_lt.mpr hhigh, decide_false, Bool.or_self]

theorem sat40_of_high {i : Int} (hhigh : hi40 < i) : sat40 i = (2 ^ 39 - 1, true) := by
  have hle : lo40 ≤ hi40 := by decide
  have hcode : of40 hi40 = 2 ^ 39 - 1 := by decide
  simp only [sat40, clampInt_of_high hle hhigh, hcode, hhigh, decide_true, Bool.or_true]

theorem sat40_of_low {i : Int} (hlow : i < lo40) : sat40 i = (2 ^ 39, true) := by
  have hcode : of40 lo40 = 2 ^ 39 := by decide
  simp only [sat40, clampInt_of_low hlow, hcode, hlow, decide_true, Bool.true_or]

section
variable {m : Mach} {k : Nat} {b : SlIssued} {i : Int}

theorem Mach.slSat_of_range (hlow : lo40 ≤ i) (hhigh : i ≤ hi40) : m.slSat k b i = m.slRes k b 3 1 (.reg (b.phys (cD b.word)) (of40 i)) := by
  simp only [Mach.slSat, sat40_of_range hlow hhigh, Mach.slFlag, Bool.false_eq_true, if_false, Mach.slPut]

theorem Mach.slSat_of_high (hhigh : hi40 < i) :
    m.slSat k b i = (m.slRes k b 3 1 (.reg (b.phys (cD b.word)) (2 ^ 39 - 1))).slEv k F.slEventsNsat := by
  simp only [Mach.slSat, sat40_of_high hhigh, Mach.slFlag, if_true, Mach.slPut]

theorem Mach.slSat_of_low (hlow : i < lo40) : m.slSat k b i = (m.slRes k b 3 1 (.reg (b.phys (cD b.word)) (2 ^ 39))).slEv k F.slEventsNsat := by
  simp only [Mach.slSat, sat40_of_low hlow, Mach.slFlag, if_true, Mach.slPut]

end

/-! Slot C's operation on the machine in which it has acted -/

theorem Mach.slOp_of_acted {m m0 m1 : Mach} {k slot code : Nat} {b : SlIssued} {f : SlIssued → Mach → Mach} (hissued : (m.sl k).issued = some b)
    (htodo : bitOf slot b.todo = true) (hm0 : m0 = m.acted k slot b) (hcode : slCode slot b.word = code) (hf : f b m0 = m1) : m.slOp k slot code f = m1 :=
  Mach.slOp_of_eq hissued htodo hcode (hm0 ▸ hf)

theorem Mach.acted_slAcc (m : Mach) (k slot : Nat) (b : SlIssued) (sh : Bool) (a : Nat) : (m.acted k slot b).slAcc k sh a = m.slAcc k sh a := by
  simp [Mach.acted, Mach.slAcc]

theorem Mach.acted_auxBest (m : Mach) (k slot : Nat) (b : SlIssued) : ((m.acted k slot b).sl k).auxBest = (m.sl k).auxBest := by simp [Mach.acted]

/-- AADD's result (R286): none at a reserved index, a wrapped sum at an index register, else a 32-bit sum. -/
def Mach.aaddTo (m : Mach) (k : Nat) (b : SlIssued) (i : Nat) (v : Int) : Mach :=
  if 48 ≤ i then m
  else if 16 ≤ i ∧ i < 20 then (m.slWrapCi k (i - 16) v).2.slRes k b 3 1 (.ctl i (m.slWrapCi k (i - 16) v).1)
  else m.slRes k b 3 1 (.ctl i (ofSigned 32 v))

theorem Mach.aaddTo_of_reserved (m : Mach) (k : Nat) (b : SlIssued) {i : Nat} (v : Int) (h : 48 ≤ i) : m.aaddTo k b i v = m := if_pos h

theorem Mach.aaddTo_of_plain (m : Mach) (k : Nat) (b : SlIssued) {i : Nat} (v : Int) (h : i < 16 ∨ 20 ≤ i ∧ i < 48) :
    m.aaddTo k b i v = m.slRes k b 3 1 (.ctl i (ofSigned 32 v)) := by
  rw [Mach.aaddTo, if_neg (by omega), if_neg (by omega)]

theorem Mach.aaddTo_of_index (m : Mach) (k : Nat) (b : SlIssued) {i : Nat} (v : Int) (hlow : 16 ≤ i) (hhigh : i < 20) :
    m.aaddTo k b i v = (m.slWrapCi k (i - 16) v).2.slRes k b 3 1 (.ctl i (m.slWrapCi k (i - 16) v).1) := by
  rw [Mach.aaddTo, if_neg (by omega), if_pos ⟨hlow, hhigh⟩]

/-- Settles O28, command by command: each operation acts on the machine in which slot C has acted, whose registers are as they were. -/
theorem sliceScalarResults : Obligations.SliceScalarResults := by
  unfold Obligations.SliceScalarResults
  intro d n s k b m0 xd xa xb o imm halive hk hissued htodo hm0 ho hxd hxa hxb himm
  have hact : m0 = s.m.acted k 3 b := hm0
  have hreg : ∀ x, m0.slReg k b x = s.m.slReg k b x := fun x => by rw [hact, Mach.acted_slReg]
  have hacc : ∀ sh a, m0.slAcc k sh a = s.m.slAcc k sh a := fun sh a => by rw [hact, Mach.acted_slAcc]
  have hbest : (m0.sl k).auxBest = (s.m.sl k).auxBest := by rw [hact, Mach.acted_auxBest]
  have hctl : ∀ i, m0.slCtl k i = s.m.slCtl k i := fun i => by rw [hact]; rfl
  have hevents : m0.slEvents k = s.m.slEvents k := by rw [hact]; rfl
  have hrd : ∀ f p, m0.rd f p = s.m.rd f p := fun f p => by rw [hact]; rfl
  clear hm0
  subst hk ho hxd hxa hxb himm
  refine ⟨fun hcode => State.on_of_eq halive (Mach.slOp_of_acted hissued htodo hact hcode (by simp only [hreg])),
    fun hcode => State.on_of_eq halive (Mach.slOp_of_acted hissued htodo hact hcode (by simp only [hreg])),
    fun hcode => State.on_of_eq halive (Mach.slOp_of_acted hissued htodo hact hcode (by simp only [hreg])),
    fun m i => ⟨fun hlow hhigh => Mach.slSat_of_range hlow (Int.le_sub_one_of_lt hhigh), fun hhigh => Mach.slSat_of_high (Int.sub_one_lt_of_le hhigh),
      fun hlow => Mach.slSat_of_low hlow⟩,
    fun hcode => State.on_of_eq halive (Mach.slOp_of_acted hissued htodo hact hcode (by simp only [hreg, Mach.slPut])),
    fun hcode => State.on_of_eq halive (Mach.slOp_of_acted hissued htodo hact hcode (by simp only [hreg, Mach.slPut])),
    fun hcode => State.on_of_eq halive (Mach.slOp_of_acted hissued htodo hact hcode (by simp only [hreg, Mach.slPut])),
    fun hcode sh hsh => ⟨fun hleft => ?_, fun hright => ?_⟩, fun r => ⟨fun hcode hr => ?_, fun hcode hr => ?_⟩,
    fun hcode => State.on_of_eq halive (Mach.slOp_of_acted hissued htodo hact hcode rfl),
    fun hcode => State.on_of_eq halive (Mach.slOp_of_acted hissued htodo hact hcode (by simp only [hreg, Mach.slPut])),
    fun acc q hq hp => ⟨fun r hcode hr => ?_, fun r hcode hr => ?_, fun hcode => ?_⟩,
    fun hcode => State.on_of_eq halive (Mach.slOp_of_acted hissued htodo hact hcode (by simp only [hreg])),
    fun hcode => State.on_of_eq halive (Mach.slOp_of_acted hissued htodo hact hcode (by simp only [hctl, Mach.slPut])),
    fun hcode i v hi hv => ?_,
    fun hcode => State.on_of_eq halive (Mach.slOp_of_acted hissued htodo hact hcode (by simp only [hevents, Mach.slPut])),
    fun hcode => State.on_of_eq halive (Mach.slOp_of_acted hissued htodo hact hcode rfl),
    fun hcode => State.on_of_eq halive (Mach.slOp_of_acted hissued htodo hact hcode rfl),
    fun v i hsome => ⟨fun hcode => ?_, fun hcode => ?_⟩, fun hnone => ⟨fun hcode => ?_, fun hcode => ?_⟩⟩
  · subst hsh
    exact State.on_of_eq halive (Mach.slOp_of_acted hissued htodo hact hcode (by simp only [hreg, hleft, if_true]))
  · subst hsh
    exact State.on_of_eq halive (Mach.slOp_of_acted hissued htodo hact hcode (by simp only [hreg, not_le.mpr hright, if_false, Mach.slPut]))
  · subst hr
    exact State.on_of_eq halive (Mach.slOp_of_acted hissued htodo hact hcode (by
      simp only [Mach.slLanes, hreg, Mach.slPut, Bool.false_eq_true, if_false]))
  · subst hr
    exact State.on_of_eq halive (Mach.slOp_of_acted hissued htodo hact hcode (by simp only [Mach.slLanes, hreg, Mach.slPut, if_true]))
  · subst hr hq hp
    exact State.on_of_eq halive (Mach.slOp_of_acted hissued htodo hact hcode (by simp only [Mach.slNormTo, hacc, Mach.slPut]))
  · subst hr hq hp
    exact State.on_of_eq halive (Mach.slOp_of_acted hissued htodo hact hcode (by simp only [Mach.slNormTo, hreg, hacc, Mach.slPut]))
  · subst hq hp
    exact State.on_of_eq halive (Mach.slOp_of_acted hissued htodo hact hcode (by simp only [hacc, Mach.slPut]))
  · have haadd : opSlAadd (slK d.val n.val) s.m = m0.aaddTo (slK d.val n.val) b i v := by
      subst hi hv
      exact Mach.slOp_of_acted hissued htodo hact hcode (by simp only [hctl, Mach.aaddTo])
    refine ⟨fun h => State.on_of_eq halive (haadd.trans (Mach.aaddTo_of_reserved _ _ _ _ h)),
      fun h => State.on_of_eq halive (haadd.trans (Mach.aaddTo_of_plain _ _ _ _ h)), fun cl hlow hhigh hcl => ⟨fun hlen => ?_, fun hlen => ?_⟩⟩
    · refine State.on_of_eq halive (haadd.trans ((Mach.aaddTo_of_index _ _ _ _ hlow hhigh).trans ?_))
      rw [hcl] at hlen ⊢
      simp only [Mach.slWrapCi, hrd, if_neg hlen]
    · refine State.on_of_eq halive (haadd.trans ((Mach.aaddTo_of_index _ _ _ _ hlow hhigh).trans ?_))
      rw [hcl] at hlen
      simp only [Mach.slWrapCi, hrd, if_pos hlen]
  · exact State.on_of_eq halive (Mach.slOp_of_acted hissued htodo hact hcode (by simp only [hbest, hsome, Mach.slPut]))
  · exact State.on_of_eq halive (Mach.slOp_of_acted hissued htodo hact hcode (by simp only [hbest, hsome, Mach.slPut]))
  · exact State.on_of_eq halive (Mach.slOp_of_acted hissued htodo hact hcode (by simp only [hbest, hnone, Mach.slPut]))
  · have hminus : of40 (-1) = 2 ^ 40 - 1 := by decide
    exact State.on_of_eq halive (Mach.slOp_of_acted hissued htodo hact hcode (by simp only [hbest, hnone, hminus, Mach.slPut]))

end Sys2Proof.Machine
end

section
/-! Slot C's control operations (12 R282, R289 to R291, R294, R295). -/

namespace Sys2Proof.Machine

section
variable {m m0 m1 m2 : Mach} {k slot t : Nat} {b : SlIssued}

/-- What a slice keeps beside the operation that has acted. -/
theorem Mach.acted_sl (m : Mach) (k slot : Nat) (b : SlIssued) :
    (m.acted k slot b).sl k = { m.sl k with issued := some { b with todo := clearBit slot b.todo } } := Mach.sl_setSl _ _ _

theorem Mach.slJump_eq (hm1 : m1 = m.setSl k { m.sl k with loops := loopLeave t b.loops }) : m.slJump k b t = (m1.wr F.slStatusPc (slIx k) t).slPass k 1 := by
  subst hm1
  rfl

theorem Mach.slBranch_of_taken {c : Int → Bool} (ht : t = (((b.pc : Int) + toSigned 10 (cImm b.word)) % 2048).toNat)
    (hc : c (s40 (m.slReg k b (cD b.word))) = true) : m.slBranch k b c = m.slJump k b t := by
  subst ht
  exact if_pos hc

theorem Mach.slBranch_of_untaken {c : Int → Bool} (hc : c (s40 (m.slReg k b (cD b.word))) = false) : m.slBranch k b c = m :=
  if_neg (by simp [hc])

/-- An operation that the bundle issued last does not hold in its slot, or that has acted, does nothing. -/
theorem Mach.slOp_of_absent {code : Nat} {f : SlIssued → Mach → Mach} (h : (m.sl k).issued = none ∨ (∃ c, (m.sl k).issued = some c ∧
    (bitOf slot c.todo = false ∨ slCode slot c.word ≠ code))) : m.slOp k slot code f = m := by
  rcases h with hnone | ⟨c, hsome, hc⟩
  · simp only [Mach.slOp, hnone]
  · simp only [Mach.slOp, hsome]
    refine if_neg ?_
    rcases hc with h | h <;> simp [h]

end

/-- Settles O29, command by command. -/
theorem sliceControlFlow : Obligations.SliceControlFlow := by
  unfold Obligations.SliceControlFlow
  intro d n s k p b m0 xa t halive hk hp hissued htodo hm0 hxa ht
  have hact : m0 = s.m.acted k 3 b := hm0
  have hreg : ∀ x, m0.slReg k b x = s.m.slReg k b x := fun x => by rw [hact, Mach.acted_slReg]
  have hrd : ∀ f q, m0.rd f q = s.m.rd f q := fun f q => by rw [hact]; rfl
  have hsl : m0.sl k = { s.m.sl k with issued := some { b with todo := clearBit 3 b.todo } } := by rw [hact, Mach.acted_sl]
  clear hm0
  subst hk hp
  refine ⟨fun hcode => State.on_of_eq halive (Mach.slOp_of_acted hissued htodo hact hcode rfl),
    fun hcode => State.on_of_eq halive (Mach.slOp_of_acted hissued htodo hact hcode rfl),
    fun m1 m2 hcode hm1 hm2 => ?_, fun m1 m2 hm1 hm2 => ?_, fun c l => ⟨fun hcode hc hl => ?_, fun hcode hc hl => ?_⟩,
    fun hcode => ⟨fun hfull => ?_, fun hroom => ?_⟩, fun hcode o q ho hq => ⟨fun x hbusy => ?_, fun m1 hidle hm1 => ⟨fun hmode hlen => ?_, fun hother => ?_⟩⟩,
    fun m slot code f h => Mach.slOp_of_absent h⟩
  · refine State.on_of_eq halive (Mach.slOp_of_acted hissued htodo hact hcode ?_)
    have hloops : m1 = m0.setSl (slK d.val n.val) { m0.sl (slK d.val n.val) with loops := (m0.sl (slK d.val n.val)).frozen, frozen := [] } := by
      rw [hm1, hsl]
    have hsl1 : m1.sl (slK d.val n.val) = { s.m.sl (slK d.val n.val) with
        issued := some { b with todo := clearBit 3 b.todo }, loops := (s.m.sl (slK d.val n.val)).frozen, frozen := [] } := by
      rw [hm1, Mach.sl_setSl, hsl]
    simp only [← hloops, hrd, Mach.slSwap, hsl1, ← hm2]
    rfl
  · have htaken : ∀ c : Int → Bool, c xa = true → m0.slBranch (slK d.val n.val) b c = m2 := fun c hc => by
      rw [Mach.slBranch_of_taken ht (by rw [hreg, ← hxa]; exact hc), Mach.slJump_eq hm1, hm2]
    have huntaken : ∀ c : Int → Bool, c xa = false → m0.slBranch (slK d.val n.val) b c = m0 := fun c hc =>
      Mach.slBranch_of_untaken (by rw [hreg, ← hxa]; exact hc)
    refine ⟨fun hcode => State.on_of_eq halive (Mach.slOp_of_acted hissued htodo hact hcode (htaken _ rfl)),
      fun hcode => State.on_of_eq halive (Mach.slOp_of_acted hissued htodo hact hcode ?_),
      fun hcode => State.on_of_eq halive (Mach.slOp_of_acted hissued htodo hact hcode ?_),
      fun hcode => State.on_of_eq halive (Mach.slOp_of_acted hissued htodo hact hcode ?_),
      fun hcode => State.on_of_eq halive (Mach.slOp_of_acted hissued htodo hact hcode ?_)⟩
    · split
      · exact htaken _ (by simpa)
      · exact huntaken _ (by simpa)
    · split
      · exact huntaken _ (by simpa)
      · exact htaken _ (by simpa)
    · split
      · exact htaken _ (by simpa)
      · exact huntaken _ (by simpa using ‹¬ xa < 0›)
    · split
      · exact huntaken _ (by simpa)
      · exact htaken _ (by simpa using ‹¬ xa < 0›)
  · subst hc hl
    have hloops : (m0.sl (slK d.val n.val)).loops = (s.m.sl (slK d.val n.val)).loops := by rw [hsl]
    exact ⟨fun hzero => State.on_of_eq halive (Mach.slOp_of_acted hissued htodo hact hcode (by simp only [hreg, Mach.slLoopStart, if_pos hzero])),
      fun hsome => State.on_of_eq halive (Mach.slOp_of_acted hissued htodo hact hcode (by
        simp only [hreg, Mach.slLoopStart, if_neg hsome, hloops]))⟩
  · subst hc hl
    have hloops : (m0.sl (slK d.val n.val)).loops = (s.m.sl (slK d.val n.val)).loops := by rw [hsl]
    exact ⟨fun hzero => State.on_of_eq halive (Mach.slOp_of_acted hissued htodo hact hcode (by simp only [Mach.slLoopStart, if_pos hzero])),
      fun hsome => State.on_of_eq halive (Mach.slOp_of_acted hissued htodo hact hcode (by simp only [Mach.slLoopStart, if_neg hsome, hloops]))⟩
  · have hegress : (m0.sl (slK d.val n.val)).egress = (s.m.sl (slK d.val n.val)).egress := by rw [hsl]
    exact State.on_of_eq halive (Mach.slOp_of_acted hissued htodo hact hcode (by simp only [hegress, if_pos hfull]))
  · have hegress : (m0.sl (slK d.val n.val)).egress = (s.m.sl (slK d.val n.val)).egress := by rw [hsl]
    exact State.on_of_eq halive (Mach.slOp_of_acted hissued htodo hact hcode (by simp only [hegress, hreg, if_neg (Nat.not_le.mpr hroom)]))
  · have houtbox : (m0.sl (slK d.val n.val)).outbox = some x := by rw [hsl]; exact hbusy
    exact State.on_of_eq halive (Mach.slOp_of_acted hissued htodo hact hcode (by simp only [houtbox]))
  · have houtbox : (m0.sl (slK d.val n.val)).outbox = none := by rw [hsl]; exact hidle
    subst hm1 hq ho
    exact State.on_of_eq halive (Mach.slOp_of_acted hissued htodo hact hcode (by
      simp only [houtbox, hrd, if_pos (And.intro hmode hlen)]))
  · have houtbox : (m0.sl (slK d.val n.val)).outbox = none := by rw [hsl]; exact hidle
    have hgo : ¬ (s.m.rd F.xferMode q = 1 ∧ s.m.rd F.xferLen q ≠ 1) := by omega
    subst hm1 hq ho
    exact State.on_of_eq halive (Mach.slOp_of_acted hissued htodo hact hcode (by simp only [houtbox, hrd, if_neg hgo]))

end Sys2Proof.Machine
end

section
/-! Issue, landing and interrupts of a slice (12 R276, R278, R281, R283, R288 to R291). -/

namespace Sys2Proof.Machine

theorem opSlInterrupt_of_none {m : Mach} {k : Nat} (hnone : m.slTakes k = false ∨ (m.sl k).busy = true) : opSlInterrupt k m = m := by
  refine if_pos ?_
  rcases hnone with h | h <;> simp [h]

section
variable {m : Mach} {k p : Nat} {x : Slice} (hp : p = slIx k) (hx : x = m.sl k)
include hp hx

/-! Issue (R276 to R278) -/

theorem opSlBundleIssue_of_held {up : Bool} (hheld : m.on F.slCtrlRun p = false ∨ x.busy = true ∨ (∃ r ∈ x.flight, r.due ≤ x.now) ∨ m.slTakes k = true ∨
    (m.on F.slStatusWaiting p = true ∧ (m.rd F.slIrqPending p &&& m.rd F.slIrqEnable p) = 0)) : opSlBundleIssue k up m = m := by
  subst hp hx
  refine if_pos ?_
  rcases hheld with h | h | h | h | ⟨hwait, hnone⟩
  · simp only [h, Bool.not_false, Bool.true_or]
  · simp only [h, Bool.or_true, Bool.true_or]
  · have hdue : (m.sl k).flight.any (fun r => decide (r.due ≤ (m.sl k).now)) = true := by simpa using h
    simp only [hdue, Bool.or_true, Bool.true_or]
  · simp only [h, Bool.or_true, Bool.true_or]
  · simp only [hwait, hnone, beq_self_eq_true, Bool.and_self, Bool.or_true]

section
variable {up : Bool} {pc : Nat} (hrun : m.on F.slCtrlRun p = true) (hfree : x.busy = false) (hdue : ∀ r ∈ x.flight, x.now < r.due)
  (htakes : m.slTakes k = false) (hwait : m.on F.slStatusWaiting p = true → (m.rd F.slIrqPending p &&& m.rd F.slIrqEnable p) ≠ 0)
  (hpc : pc = m.rd F.slStatusPc p)
include hrun hfree hdue htakes hwait hpc

theorem not_issueHeld : ¬ (!m.on F.slCtrlRun (slIx k) || (m.sl k).busy || (m.sl k).flight.any (fun r => decide (r.due ≤ (m.sl k).now)) || m.slTakes k ||
    (m.on F.slStatusWaiting (slIx k) && (m.rd F.slIrqPending (slIx k) &&& m.rd F.slIrqEnable (slIx k)) == 0)) = true := by
  subst hp hx
  have hnone : (m.sl k).flight.any (fun r => decide (r.due ≤ (m.sl k).now)) = false := by
    rw [List.any_eq_false]
    exact fun r hr => by simpa using hdue r hr
  have hawake : (m.on F.slStatusWaiting (slIx k) && (m.rd F.slIrqPending (slIx k) &&& m.rd F.slIrqEnable (slIx k)) == 0) = false := by
    simpa using hwait
  simp only [hrun, hfree, hnone, htakes, hawake, Bool.not_true, Bool.or_self, Bool.false_eq_true, not_false_eq_true]

theorem opSlBundleIssue_of_bad (hbad : up = true ∨ x.pIsBad k pc = true) : opSlBundleIssue k up m =
    ((((m.setSl k { x with pbad := SMap.put 0 pc 2 x.pbad }).wr F.slCtrlRun p 0).wr F.slHaltCause p 2).wr F.slHaltPc p pc).wr F.slStatusWaiting p 0 := by
  have hgo := not_issueHeld hp hx hrun hfree hdue htakes hwait hpc
  subst hpc hp hx
  simp only [opSlBundleIssue, if_neg hgo, if_pos hbad]

theorem opSlBundleIssue_of_good {w : Nat} (hup : up = false) (hgood : x.pIsBad k pc = false) (hw : w = x.pword k pc) {sh : Bool}
    {nx : Nat × List (Nat × Nat × Nat)} {b : SlIssued} {m1 m2 : Mach} (hsh : sh = m.on F.slStatusInHandler p)
    (hnx : nx = (if sh then ((pc + 1) % 2048, x.loops) else loopStep pc x.loops))
    (hb : b = ⟨pc, w, x.wbase, x.now, sh, (slTodo sh nx.2.length w).1, x.loops, []⟩)
    (hm1 : m1 = m.setSl k { x with issued := some b, wbase := rotBase sh (w % 4) x.wbase, loops := nx.2 })
    (hm2 : m2 = ((m1.wr F.slStatusPc p nx.1).wr F.slStatusWaiting p 0).slPass k 1) :
    opSlBundleIssue k up m = if (slTodo sh nx.2.length w).2 then m2.slEv k F.slEventsIllegal else m2 := by
  have hgo := not_issueHeld hp hx hrun hfree hdue htakes hwait hpc
  have hnotBad : ¬ (up = true ∨ x.pIsBad k pc = true) := by simp [hup, hgood]
  subst hm2 hm1 hb hnx hsh hw hpc hp hx
  simp only [opSlBundleIssue, if_neg hgo, if_neg hnotBad]

end

/-! Landing (R281) -/

section
variable {idle : Bool} (hidle : idle = (!m.on F.slCtrlRun p || m.on F.slStatusWaiting p))
include hidle

theorem opSlResultLand_of_none (hnone : firstDue x.flight = none ∨ x.busy = true ∨ (∃ r, firstDue x.flight = some r ∧ x.now < r.due ∧ idle = false)) :
    opSlResultLand k m = m := by
  subst hp hx hidle
  cases hfirst : firstDue (m.sl k).flight with
  | none => simp only [opSlResultLand, hfirst]
  | some r =>
    have hstay : ((m.sl k).busy || (decide ((m.sl k).now < r.due) && !(!m.on F.slCtrlRun (slIx k) || m.on F.slStatusWaiting (slIx k)))) = true := by
      rcases hnone with h | h | ⟨r', hr', hlater, hissues⟩
      · rw [hfirst] at h
        cases h
      · simp only [h, Bool.true_or]
      · rw [hfirst, Option.some.injEq] at hr'
        subst hr'
        simp only [hissues, hlater, decide_true, Bool.not_false, Bool.and_self, Bool.or_true]
    simp only [opSlResultLand, hfirst, hstay, if_true]

theorem opSlResultLand_of_first {r : SlRes} {u m1 : Mach} (hfirst : firstDue x.flight = some r) (hfree : x.busy = false)
    (hdue : r.due ≤ x.now ∨ idle = true) (hu : u = m.slUntil k r.due) (hm1 : m1 = u.setSl k { u.sl k with flight := (u.sl k).flight.erase r }) :
    opSlResultLand k m = m1.slLand k r := by
  subst hm1 hu hidle hp hx
  have hgo : ¬ ((m.sl k).busy || (decide ((m.sl k).now < r.due) && !(!m.on F.slCtrlRun (slIx k) || m.on F.slStatusWaiting (slIx k)))) = true := by
    rcases hdue with h | h
    · simp [hfree, Nat.not_lt.mpr h]
    · simp [hfree, h]
  simp only [opSlResultLand, hfirst, if_neg hgo]

end

/-! Interrupts (R289 to R291) -/

theorem opSlInterrupt_of_lowest {j : Nat} {m1 m2 : Mach} (htakes : m.slTakes k = true) (hfree : x.busy = false)
    (hj : lowestSet 8 0 (m.rd F.slIrqPending p &&& m.rd F.slIrqEnable p) = some j)
    (hm1 : m1 = (m.wr F.slIretPc p (m.rd F.slStatusPc p)).wr F.slIrqPending p (clearBit j (m.rd F.slIrqPending p)))
    (hm2 : m2 = m1.setSl k { x with frozen := x.loops, loops := [] }) :
    opSlInterrupt k m = (m2.wr F.slStatusWaiting p 0).slSwap k true (m.rd F.slIvecPc (slSub k j)) := by
  subst hm2 hm1 hp hx
  simp only [opSlInterrupt, htakes, hfree, hj, Bool.not_true, Bool.or_self, Bool.false_eq_true, if_false]
  rfl

end

/-- Where an accumulator's sum lands: saturated by component, and the event if either saturates (R283). -/
theorem sat48_of_range {i : Int} (hlow : -(2 : Int) ^ 47 ≤ i) (hhigh : i < (2 : Int) ^ 47) : sat48 i = (i, false) := by
  simp only [sat48, clampInt_of_mem hlow (Int.le_sub_one_of_lt hhigh), ne_eq, not_true_eq_false, decide_false]

theorem sat48_of_high {i : Int} (hhigh : (2 : Int) ^ 47 ≤ i) : sat48 i = ((2 : Int) ^ 47 - 1, true) := by
  have hle : -(2 : Int) ^ 47 ≤ (2 : Int) ^ 47 - 1 := by decide
  have hlt := Int.sub_one_lt_of_le hhigh
  simp only [sat48, clampInt_of_high hle hlt, ne_eq, hlt.ne, not_false_eq_true, decide_true]

theorem sat48_of_low {i : Int} (hlow : i < -(2 : Int) ^ 47) : sat48 i = (-(2 : Int) ^ 47, true) := by
  simp only [sat48, clampInt_of_low hlow, ne_eq, hlow.ne', not_false_eq_true, decide_true]

/-- Settles O30, command by command. -/
theorem sliceIssueLandingAndInterrupts : Obligations.SliceIssueLandingAndInterrupts := by
  unfold Obligations.SliceIssueLandingAndInterrupts
  intro d n s k p x idle halive hk hp hx hidle
  subst hk
  refine ⟨fun up hheld => State.on_of_same (opSlBundleIssue_of_held hp hx hheld), fun up w pc hrun hfree hdue htakes hwait hpc => ⟨fun hbad =>
      State.on_of_eq halive (opSlBundleIssue_of_bad hp hx hrun hfree hdue htakes hwait hpc hbad), fun hup hgood hw => ⟨_, _, _, _, _, rfl, rfl, rfl, rfl,
        rfl, State.on_of_eq halive (opSlBundleIssue_of_good hp hx hrun hfree hdue htakes hwait hpc hup hgood hw rfl rfl rfl rfl rfl)⟩⟩,
    fun hnone => State.on_of_same (opSlResultLand_of_none hp hx hidle hnone), fun r u m1 hfirst hfree hdue hu hm1 => ?_,
    fun i => ⟨sat48_of_range, sat48_of_high, sat48_of_low⟩, fun hnone => State.on_of_same (opSlInterrupt_of_none (hx ▸ hnone)),
    fun j m1 m2 htakes hfree hj hm1 hm2 => State.on_of_eq halive (opSlInterrupt_of_lowest hp hx htakes hfree hj hm1 hm2)⟩
  have hland := opSlResultLand_of_first hp hx hidle hfirst hfree hdue hu hm1
  refine ⟨fun g v hwhat => State.on_of_eq halive (hland.trans (by simp only [Mach.slLand, hwhat])),
    fun i v hwhat => State.on_of_eq halive (hland.trans (by simp only [Mach.slLand, hwhat])),
    fun v hwhat => State.on_of_eq halive (hland.trans (by simp only [Mach.slLand, hwhat])),
    fun mask hwhat => State.on_of_eq halive (hland.trans (by simp only [Mach.slLand, hwhat])),
    fun mode hwhat => State.on_of_eq halive (hland.trans (by simp only [Mach.slLand, hwhat])),
    fun a zero re im norm hwhat => ⟨_, _, _, _, _, rfl, rfl, rfl, rfl, rfl, fun hnorm => ?_, fun g sh hnorm => ⟨_, _, rfl, rfl, ?_⟩⟩⟩
  · exact State.on_of_eq halive (hland.trans (by simp only [Mach.slLand, hwhat, hnorm]))
  · exact State.on_of_eq halive (hland.trans (by simp only [Mach.slLand, hwhat, hnorm]))

end Sys2Proof.Machine
end

section
/-! A slice's ports, its timer and its run bit (12 R291 to R295, R297 to R299). -/

namespace Sys2Proof.Machine

section
variable {m : Mach} {k p : Nat} {x : Slice} (hp : p = slIx k) (hx : x = m.sl k)

/-! The ring's words (R292, R293) -/

section
variable {words q : List Nat} {same : Bool} (hq : q = (if m.slFenced k then x.ingress else x.ingress ++ words.take (64 - x.ingress.length)))
include hx hq

theorem opSlIngressWord_of_none (hnone : m.slFull k = true ∨ q = []) : opSlIngressWord k words same m = m := by
  subst hx
  cases hfull : m.slFull k with
  | true => simp only [opSlIngressWord, hfull, if_true]
  | false =>
    have hempty : (if m.slFenced k then (m.sl k).ingress else (m.sl k).ingress ++ words.take (64 - (m.sl k).ingress.length)) = [] :=
      hq ▸ hnone.resolve_left (by simp [hfull])
    simp only [opSlIngressWord, hfull, Bool.or_false, hempty, Bool.false_eq_true, if_false]

include hp in
theorem opSlIngressWord_of_word {v : Nat} {l : List Nat} {m1 m2 m3 : Mach} (hroom : m.slFull k = false) (hword : q = v :: l)
    (hm1 : m1 = (m.setSl k { x with ingress := l, ingCount := x.ingCount + 1 }).slExtWrite k ((m.rd F.slIngBase p + m.rd F.slIngWr p) % 65536 / 4) v same)
    (hm2 : m2 = m1.wr F.slIngWr p ((m.rd F.slIngWr p + 4) % m.rd F.slIngLen p))
    (hm3 : m3 = (if m.rd F.slIngThresh p ≤ x.ingCount + 1 then (m2.setSl k { (m2.sl k) with ingCount := 0 }).slPend k 0 else m2)) :
    opSlIngressWord k words same m = if m3.slFull k then (m3.slEv k F.slEventsIngFull).slPend k 1 else m3 := by
  subst hm3 hm2 hm1 hp hx
  have hqueue : (if m.slFenced k then (m.sl k).ingress else (m.sl k).ingress ++ words.take (64 - (m.sl k).ingress.length)) = v :: l := hq ▸ hword
  simp only [opSlIngressWord, hroom, Bool.or_false, hqueue, Bool.false_eq_true, if_false, Mach.slRing, Bool.not_false, Bool.true_and]

end

/-! The timer (R298) -/

section
variable {t : Nat} (ht : t = m.rd F.slTimer p)
include hp hx ht

theorem opSlTimerExpiry_of_none (hnone : t = 0 ∨ (m.on F.slCtrlRun p = true ∧ m.on F.slStatusWaiting p = false) ∨ (∃ r ∈ x.flight, r.due < x.now + t)) :
    opSlTimerExpiry k m = m := by
  subst ht hp hx
  refine if_pos ?_
  rcases hnone with h | ⟨hrun, hwait⟩ | h
  · exact Or.inl h
  · exact Or.inr (Or.inl (by simp [hrun, hwait]))
  · exact Or.inr (Or.inr (by simpa using h))

theorem opSlTimerExpiry_of_idle {m1 m2 : Mach} (hset : t ≠ 0) (hidle : m.on F.slCtrlRun p = false ∨ m.on F.slStatusWaiting p = true)
    (hdue : ∀ r ∈ x.flight, x.now + t ≤ r.due) (hm1 : m1 = m.setSl k { x with now := x.now + t })
    (hm2 : m2 = (if m.on F.slCtrlRun p then m1.wrap F.slCycles p t else m1)) : opSlTimerExpiry k m = (m2.wr F.slTimer p 0).slPend k 6 := by
  subst hp hx
  have hgo : ¬ (m.rd F.slTimer (slIx k) = 0 ∨ (m.on F.slCtrlRun (slIx k) && !m.on F.slStatusWaiting (slIx k)) = true ∨
      (m.sl k).flight.any (fun r => decide (r.due < (m.sl k).now + m.rd F.slTimer (slIx k))) = true) := by
    rw [← ht]
    rintro (h | h | h)
    · exact hset h
    · rcases hidle with hi | hi <;> simp [hi] at h
    · obtain ⟨r, hr, hearly⟩ := List.any_eq_true.mp h
      exact absurd (hdue r hr) (Nat.not_le.mpr (by simpa using hearly))
  have hpass : opSlTimerExpiry k m = m.slPass k t := by rw [ht]; exact if_neg hgo
  have htimer : m2.rd F.slTimer (slIx k) = t := by
    rw [hm2, hm1, ht]
    split
    · exact Mach.rd_wrap_ne _ _ _ _ _ (by decide)
    · rfl
  have hon : m1.on F.slCtrlRun (slIx k) = m.on F.slCtrlRun (slIx k) := by rw [hm1]; rfl
  rw [hpass]
  simp only [Mach.slPass, ← hm1, hon, ← hm2, htimer, hset, Nat.le_refl, if_true, if_false]

end

/-! Lines, raises and RUN (R291, R297) -/

theorem opSlFabricIrq_of_open {line : Nat} (hopen : m.slFenced k = false) : opSlFabricIrq k line m = m.slPend k (4 + line) := if_neg (by simp [hopen])

theorem opSlFabricIrq_of_fenced {line : Nat} (hfenced : m.slFenced k = true) : opSlFabricIrq k line m = m := if_pos hfenced

theorem Mach.slRun_of_early (hearly : m.rgnStep (k / 64) (slRegion k) < 3) : m.slRun k true = m := by
  simp only [Mach.slRun, hearly, Bool.not_true, Bool.false_eq_true, if_false, if_true]

section
variable (hstarted : 3 ≤ m.rgnStep (k / 64) (slRegion k))
include hstarted

theorem Mach.slRun_of_resuming (hstop : m.slStopped k = false) : m.slRun k true = m.wr F.slCtrlRun (slIx k) 1 := by
  simp only [Mach.slRun, Nat.not_lt.mpr hstarted, hstop, Bool.not_true, Bool.not_false, Bool.false_eq_true, if_false, if_true]

theorem Mach.slRun_of_stopped {m1 : Mach} (hstop : m.slStopped k = true)
    (hm1 : m1 = m.setSl k { m.sl k with wbase := 0, loops := [], frozen := [], auxMode := 0, auxBest := none, auxCount := 0, issued := none }) :
    m.slRun k true = (((m1.wr F.slStatusInHandler (slIx k) 0).wr F.slStatusWaiting (slIx k) 0).wr F.slStatusPc (slIx k) (m.rd F.slStartPc (slIx k))).wr
      F.slCtrlRun (slIx k) 1 := by
  subst hm1
  simp only [Mach.slRun, Nat.not_lt.mpr hstarted, hstop, Bool.not_true, Bool.false_eq_true, if_false]

end

/-! Egress and the outboxes (R294, R295) -/

theorem opSliceEgressTransfer_of_none (hnone : (m.sl k).egress = [] ∨ m.slFenced k = true) : opSliceEgressTransfer k m = m := by
  cases hegress : (m.sl k).egress with
  | nil => simp only [opSliceEgressTransfer, hegress]
  | cons v l =>
    have hfenced : m.slFenced k = true := hnone.resolve_left (by simp [hegress])
    simp only [opSliceEgressTransfer, hegress, hfenced, if_true]

theorem opSliceEgressTransfer_of_word {v : Nat} {l : List Nat} (hegress : (m.sl k).egress = v :: l) (hopen : m.slFenced k = false) :
    opSliceEgressTransfer k m = (m.setSl k { m.sl k with egress := l }).send (.sliceOut (k / 64) (k % 64) v) := by
  simp only [opSliceEgressTransfer, hegress, hopen, Bool.false_eq_true, if_false]

theorem opXferEnd_of_none (hnone : (m.sl k).outbox = none) : opXferEnd k m = m := by simp only [opXferEnd, hnone]

theorem opXferEnd_of_unsent {o st : Nat} (hout : (m.sl k).outbox = some (o, false, st)) : opXferEnd k m = m.slXferSend k o := by
  simp only [opXferEnd, hout, Bool.not_false, if_true]

section
variable {o st : Nat} (hout : (m.sl k).outbox = some (o, true, st))
include hout

theorem opXferEnd_of_waiting (hwaits : ∃ y ∈ m.outs (niKey (k / 64) 60), y.who = 0x3000 + k ∧ y.late = false) : opXferEnd k m = m := by
  have hany : (m.outs (niKey (k / 64) 60)).any (fun x => x.who == 0x3000 + k && !x.late) = true := by simpa using hwaits
  simp only [opXferEnd, hout, hany, Bool.not_true, Bool.false_eq_true, if_false, if_true]

theorem opXferEnd_of_answered (hcome : ∀ y ∈ m.outs (niKey (k / 64) 60), y.who = 0x3000 + k → y.late = true) : opXferEnd k m = m.slXferEnd k o st := by
  have hnone : (m.outs (niKey (k / 64) 60)).any (fun x => x.who == 0x3000 + k && !x.late) = false := by
    rw [List.any_eq_false]
    exact fun y hy => by simpa using hcome y hy
  simp only [opXferEnd, hout, hnone, Bool.not_true, Bool.false_eq_true, if_false]

end

end

/-! Accesses from outside (R299) -/

section
variable {m : Mach} {k who off len : Nat} {same : Bool} {data : List Byte} {en : List Bool}

theorem Mach.slAccess_of_outside {write : Option (List Byte × List Bool)} {n : Nat} (hn : n = (write.map (fun w => w.1.length)).getD len)
    (hprog : off < 0x4000 ∨ 0x8000 < off + n) (hdata : off < 0x10000 ∨ 0x20000 < off + n) : m.slAccess k who off len write same = (rsDecode, [], 0, m) := by
  have hgo : (!(decide (0x4000 ≤ off) && decide (off + n ≤ 0x8000)) && !(decide (0x10000 ≤ off) && decide (off + n ≤ 0x20000))) = true := by
    simp only [Bool.and_eq_true, Bool.not_eq_true', Bool.and_eq_false_iff, decide_eq_false_iff_not]
    omega
  subst hn
  cases write with
  | none => exact if_pos hgo
  | some w => exact if_pos hgo

theorem Mach.slAccess_of_read (hin : 0x4000 ≤ off ∧ off + len ≤ 0x8000 ∨ 0x10000 ≤ off ∧ off + len ≤ 0x20000) : m.slAccess k who off len none same =
    (rsOk, (m.slExtRead k off len same).1, if (m.slExtRead k off len same).2 then 2 else 0, m) := by
  refine if_neg ?_
  simp only [Bool.and_eq_true, Bool.not_eq_true', Bool.and_eq_false_iff, decide_eq_false_iff_not]
  omega

theorem Mach.slAccess_of_refused (hlow : 0x4000 ≤ off) (hhigh : off + data.length ≤ 0x8000)
    (hno : fabricWho (k / 64) who = false ∨ m.slStopped k = false) : m.slAccess k who off len (some (data, en)) same = (rsRefused, [], 0, m) := by
  refine (if_neg ?_).trans (if_pos ?_)
  · simp [hlow, hhigh]
  · rcases hno with h | h <;> simp [hlow, hhigh, h]

theorem Mach.slAccess_of_write {pad : Nat} (hpad : pad = off % 4) (hin : 0x4000 ≤ off ∧ off + data.length ≤ 0x8000 ∧ fabricWho (k / 64) who = true ∧
      m.slStopped k = true ∨ 0x10000 ≤ off ∧ off + data.length ≤ 0x20000) : m.slAccess k who off len (some (data, en)) same =
    (rsOk, [], 0, m.slExtPuts k same ((off + data.length + 3) / 4 - off / 4) (off / 4) (List.replicate pad (0 : Byte) ++ data)
      (List.replicate pad false ++ en)) := by
  subst hpad
  refine (if_neg ?_).trans (if_neg ?_)
  · simp only [Bool.and_eq_true, Bool.not_eq_true', Bool.and_eq_false_iff, decide_eq_false_iff_not]
    omega
  · rcases hin with ⟨-, -, hwho, hstop⟩ | ⟨hlow, -⟩
    · simp [hwho, hstop]
    · simp only [Bool.and_eq_true, decide_eq_true_eq]
      omega

end

/-- Settles O31, command by command. -/
theorem slicePortsAndRun : Obligations.SlicePortsAndRun := by
  unfold Obligations.SlicePortsAndRun
  intro d n s k p x halive hk hp hx
  subst hk
  refine ⟨fun len hlen => ?_, fun ws same q hq => ⟨fun hnone => State.on_of_same (opSlIngressWord_of_none hx hq hnone), fun v l hroom hword => ⟨_, _, _, rfl,
      rfl, rfl, State.on_of_eq halive (opSlIngressWord_of_word hp hx hq hroom hword rfl rfl rfl)⟩⟩,
    fun t ht => ⟨fun hnone => State.on_of_same (opSlTimerExpiry_of_none hp hx ht hnone), fun hset hidle hdue => ⟨_, _, rfl, rfl,
      State.on_of_eq halive (opSlTimerExpiry_of_idle hp hx ht hset hidle hdue rfl rfl)⟩⟩,
    fun line => ⟨fun hopen => State.on_of_eq halive (opSlFabricIrq_of_open hopen), fun hfenced => State.on_of_same (opSlFabricIrq_of_fenced hfenced)⟩,
    fun who => ⟨fun hwho => ?_, fun hwho => ⟨fun mask => State.on_of_eq halive (Mach.permit_of_no hwho),
      fun run => State.on_of_eq halive (Mach.permit_of_no hwho)⟩⟩,
    fun hnone => State.on_of_same (opSliceEgressTransfer_of_none (hx ▸ hnone)), fun v l hegress hopen => ?_,
    fun hnone => State.on_of_same (opXferEnd_of_none (hx ▸ hnone)), fun o st => ⟨fun hout => State.on_of_eq halive (opXferEnd_of_unsent (hx ▸ hout)),
      fun hout => ⟨fun hwaits => State.on_of_same (opXferEnd_of_waiting (hx ▸ hout) hwaits), fun hcome => ?_⟩⟩,
    fun who len off w same => State.on_of_eq halive rfl,
    fun who len off same data en pad hpad => ⟨fun hprog hdata => Mach.slAccess_of_outside rfl hprog hdata, Mach.slAccess_of_read,
      fun hprog hdata => Mach.slAccess_of_outside rfl hprog hdata, Mach.slAccess_of_refused, Mach.slAccess_of_write hpad⟩⟩
  · subst hp hlen
    rfl
  · subst hp hx
    refine ⟨fun mask => State.on_of_eq halive (Mach.permit_of_ok hwho), State.on_of_eq halive (Mach.permit_of_ok hwho), fun hearly => ?_,
      fun hstarted hstop => ?_, fun m1 hstarted hstop hm1 => ?_⟩
    · exact State.on_of_eq halive ((Mach.permit_of_ok hwho).trans (by rw [Mach.slRun_of_early hearly]))
    · exact State.on_of_eq halive ((Mach.permit_of_ok hwho).trans (by rw [Mach.slRun_of_resuming hstarted hstop]))
    · exact State.on_of_eq halive ((Mach.permit_of_ok hwho).trans (by rw [Mach.slRun_of_stopped hstarted hstop hm1]))
  · subst hx
    exact State.on_of_eq halive (opSliceEgressTransfer_of_word hegress hopen)
  · subst hx
    exact State.on_of_eq halive (opXferEnd_of_answered hout hcome)

end Sys2Proof.Machine
end

section
/-! A lane's bring-up (14 R330, R334 to R341). -/

namespace Sys2Proof.Machine

section
variable {m : Mach} {n : Nat}

/-! LN_CTRL (R334, R341) -/

theorem Mach.lnEnable_of_enabled (h : m.on F.lnCtrlEnable (lnIx n) = true) : m.lnEnable n = m := if_pos h

section
variable (hoff : m.on F.lnCtrlEnable (lnIx n) = false)
include hoff

theorem Mach.lnEnable_of_conflict (hconflict : m.rawConflict n = true) : m.lnEnable n = m.ev F.lnEventsCfgRefused (lnIx n) := by
  simp only [Mach.lnEnable, hoff, hconflict, Bool.false_eq_true, if_false, if_true]

theorem Mach.lnEnable_of_waiting (hfree : m.rawConflict n = false) (hwait : m.handed (n / 48) = false ∨ m.lnState n ≠ lsDisabled) :
    m.lnEnable n = m.wr F.lnCtrlEnable (lnIx n) 1 := by
  have hgo : ¬ (m.handed (n / 48) = true ∧ m.lnState n = lsDisabled) := by
    rintro ⟨hhanded, hstate⟩
    rcases hwait with h | h
    · simp [hhanded] at h
    · exact h hstate
  simp only [Mach.lnEnable, hoff, hfree, if_neg hgo, Bool.false_eq_true, if_false]

theorem Mach.lnEnable_of_handed (hfree : m.rawConflict n = false) (hhanded : m.handed (n / 48) = true) (hstate : m.lnState n = lsDisabled) :
    m.lnEnable n = (m.wr F.lnCtrlEnable (lnIx n) 1).lnDetect n := by
  simp only [Mach.lnEnable, hoff, hfree, if_pos (And.intro hhanded hstate), Bool.false_eq_true, if_false]

end

/-! Block lock (R337) -/

section
variable {bad : Nat} (hbad : bad = bitCount 64 (m.lane n).hdrs)
include hbad

theorem opBlockLockLost_of_few (hfew : m.on F.lnStatusBlockLock (lnIx n) = false ∨ bad < 16) : opBlockLockLost n m = m := by
  subst hbad
  refine if_pos ?_
  rcases hfew with h | h
  · exact Or.inl (by simp [h])
  · exact Or.inr h

section
variable (hlock : m.on F.lnStatusBlockLock (lnIx n) = true) (hmany : 16 ≤ bad)
include hlock hmany

theorem opBlockLockLost_of_many : opBlockLockLost n m = if m.lnState n = lsActive then (m.ev F.lnEventsBlockLost (lnIx n)).lnGo n lsBlockLock
    else m.wr F.lnStatusBlockLock (lnIx n) 0 := by
  subst hbad
  have hgo : ¬ ((!m.on F.lnStatusBlockLock (lnIx n)) = true ∨ bitCount 64 (m.lane n).hdrs < 16) := by
    rintro (h | h)
    · simp [hlock] at h
    · omega
  exact if_neg hgo

end

end

/-! Timeouts (R338, R339) -/

section
variable (hstate : m.lnState n = lsTrain ∨ m.lnState n = lsBitLock ∨ m.lnState n = lsBlockLock)
include hstate

theorem not_pastBringup : ¬ (m.lnState n ≠ lsTrain ∧ m.lnState n ≠ lsBitLock ∧ m.lnState n ≠ lsBlockLock) :=
  fun ⟨htrain, hbit, hblock⟩ => hstate.elim htrain (fun h => h.elim hbit hblock)

theorem opBringupTimeout_of_raw (hraw : m.lnMode n = lmRaw) : opBringupTimeout n m = m.lnGo n lsDown :=
  (if_neg (not_pastBringup hstate)).trans (if_pos hraw)

section
variable {rate : Nat} (hrate : rate = m.rd F.lnStatusRate (lnIx n)) (hmode : m.lnMode n ≠ lmRaw)
include hrate hmode

theorem opBringupTimeout_of_base (hbase : rate = m.rd F.lnCfgBaseRate (lnIx n)) :
    opBringupTimeout n m = (m.ev F.lnEventsTrainFail (lnIx n)).lnGo n lsDown :=
  (if_neg (not_pastBringup hstate)).trans ((if_neg hmode).trans (if_pos (hrate ▸ hbase)))

theorem opBringupTimeout_of_high (hhigh : rate ≠ m.rd F.lnCfgBaseRate (lnIx n)) : opBringupTimeout n m =
    ((m.wr F.lnStatusFailedMask (lnIx n) (setBit rate (m.rd F.lnStatusFailedMask (lnIx n)))).ev F.lnEventsStepDown (lnIx n)).lnTrain n
      (m.rd F.lnCfgBaseRate (lnIx n)) := by
  subst hrate
  exact (if_neg (not_pastBringup hstate)).trans ((if_neg hmode).trans (if_neg hhigh))

end

end

/-! Loss of signal and of lock (R340) -/

theorem lnUp_iff {st : Nat} : lnUp st = true ↔ lsTrain ≤ st ∧ st ≤ lsActive := by simp [lnUp]

theorem not_lnUp_of_outside {st : Nat} (h : st < lsTrain ∨ lsActive < st) : ¬ lnUp st = true := by
  rw [lnUp_iff]
  omega

theorem opLos_of_up (hup : lnUp (m.lnState n) = true) :
    opLos n m = ((m.wr F.lnStatusLos (lnIx n) 1).ev F.lnEventsLos (lnIx n)).lnGo n lsDown := if_pos hup

theorem opLos_of_down (hdown : ¬ lnUp (m.lnState n) = true) : opLos n m = m.wr F.lnStatusLos (lnIx n) 1 := if_neg hdown

theorem Mach.lnLol_of_up {ref : Bool} (hup : lnUp (m.lnState n) = true) : m.lnLol n ref =
    ((if ref then (m.wr F.lnStatusLol (lnIx n) 1).wr F.lnStatusRefOk (lnIx n) 0 else m.wr F.lnStatusLol (lnIx n) 1).ev F.lnEventsLol (lnIx n)).lnGo n
      lsDown := if_pos hup

theorem Mach.lnLol_of_down {ref : Bool} (hdown : ¬ lnUp (m.lnState n) = true) : m.lnLol n ref =
    if ref then (m.wr F.lnStatusLol (lnIx n) 1).wr F.lnStatusRefOk (lnIx n) 0 else m.wr F.lnStatusLol (lnIx n) 1 := if_neg hdown

/-! The state a lane goes to -/

theorem Mach.lnState_setLane (m : Mach) (n : Nat) (x : Lane) : (m.setLane n x).lnState n = m.lnState n := rfl

theorem Mach.lnState_wr_ne (m : Mach) {f : Fld} (n v : Nat) (h : F.lnStatusState.id ≠ f.id) : (m.wr f (lnIx n) v).lnState n = m.lnState n :=
  Mach.rd_wr_ne _ _ _ _ _ h

theorem Mach.lnState_lnGo (m : Mach) (n : Nat) {st : Nat} (hst : st < 16) : (m.lnGo n st).lnState n = st := by
  have hwritten : ∀ m1 : Mach, (m1.wr F.lnStatusState (lnIx n) st).lnState n = st := fun m1 => by
    rw [Mach.lnState, Mach.rd_wr]
    exact Nat.mod_eq_of_lt hst
  have hevent : F.lnStatusState.id ≠ F.lnEventsActive.id := by decide
  have hlock : F.lnStatusState.id ≠ F.lnStatusBlockLock.id := by decide
  unfold Mach.lnGo
  dsimp only
  split
  · rw [Mach.ev, Mach.lnState_wr_ne _ _ _ hevent, hwritten]
  · split
    · rw [Mach.lnState_wr_ne _ _ _ hlock, Mach.lnState_setLane, hwritten]
    · split
      · rw [Mach.lnState_setLane, hwritten]
      · rw [Mach.lnState_wr_ne _ _ _ hlock, hwritten]

end

/-- Settles O32, event by event: each command is a test of the lane's state. -/
theorem laneBringUp : Obligations.LaneBringUp := by
  unfold Obligations.LaneBringUp
  refine ⟨fun d i s n q halive hn hq => ?_, fun m n st hst => ⟨m.lnState_lnGo n hst, (m.lnGo_frame n st).1⟩⟩
  subst hn hq
  refine ⟨fun who hwho => ⟨fun hoff hconflict => ?_, fun hoff hfree hwait => ?_, fun hoff hfree hhanded hstate => ?_, fun hstate => ?_, fun hstate => ?_,
      fun hstate => ?_, fun hdisabled hdown => ?_⟩, fun who hwho hon => ?_, fun who hwho hoff hfree hstate => ?_,
    fun who hwho => ⟨State.on_of_eq halive (Mach.permit_of_no hwho), State.on_of_eq halive (Mach.permit_of_no hwho),
      State.on_of_eq halive (Mach.permit_of_no hwho)⟩,
    fun h => State.on_of_eq halive (if_pos h), fun h => State.on_of_same (if_neg h), fun h => State.on_of_eq halive (if_pos ⟨h, rfl⟩),
    fun found h => State.on_of_same (if_neg ?_), fun loss => ⟨fun h => State.on_of_eq halive (if_pos h), fun h => State.on_of_same (if_neg h)⟩,
    fun h => State.on_of_eq halive (if_pos h), fun h => State.on_of_same (if_neg h), fun h hrun => ⟨_, rfl, State.on_of_eq halive (if_pos ⟨h, hrun⟩)⟩,
    fun h => State.on_of_same (if_neg (by omega)), fun bad hbad => ⟨fun hlock hmany hactive => ?_, fun hlock hmany hother => ?_,
      fun hfew => State.on_of_same (opBlockLockLost_of_few hbad hfew)⟩,
    fun rate hstate hrate => ⟨fun hraw => State.on_of_eq halive (opBringupTimeout_of_raw hstate hraw),
      fun hmode hbase => State.on_of_eq halive (opBringupTimeout_of_base hstate hrate hmode hbase),
      fun hmode hhigh => State.on_of_eq halive (opBringupTimeout_of_high hstate hrate hmode hhigh)⟩,
    fun htrain hbit hblock => State.on_of_same (if_pos ⟨htrain, hbit, hblock⟩), fun h => State.on_of_eq halive (if_pos h),
    fun h => State.on_of_same (if_neg h), fun h => State.on_of_eq halive (if_pos h), fun h => State.on_of_same (if_neg h),
    fun h hauto hon => State.on_of_eq halive (if_pos ⟨h, hauto, hon⟩), fun h => State.on_of_same (if_neg ?_), fun ref => State.on_of_eq halive rfl,
    fun hlow hhigh => ?_, fun hout => ?_⟩
  · exact State.on_of_eq halive ((Mach.permit_of_ok hwho).trans (by rw [Mach.lnEnable_of_conflict hoff hconflict]))
  · exact State.on_of_eq halive ((Mach.permit_of_ok hwho).trans (by rw [Mach.lnEnable_of_waiting hoff hfree (Or.inl hwait)]))
  · exact State.on_of_eq halive ((Mach.permit_of_ok hwho).trans (by rw [Mach.lnEnable_of_handed hoff hfree hhanded hstate]))
  · exact State.on_of_eq halive ((Mach.permit_of_ok hwho).trans (by rw [Mach.lnDisable, if_neg hstate]))
  · exact State.on_of_eq halive ((Mach.permit_of_ok hwho).trans (by rw [Mach.lnDisable, if_pos hstate]))
  · exact State.on_of_eq halive ((Mach.permit_of_ok hwho).trans (by rw [Mach.lnRecal, if_pos hstate]))
  · exact State.on_of_eq halive ((Mach.permit_of_ok hwho).trans (by rw [Mach.lnRecal, if_neg (by simp [hdisabled, hdown])]))
  · exact State.on_of_eq halive ((Mach.permit_of_ok hwho).trans (by rw [Mach.lnEnable_of_enabled hon]))
  · exact State.on_of_eq halive ((Mach.permit_of_ok hwho).trans (by rw [Mach.lnEnable_of_waiting hoff hfree (Or.inr hstate)]))
  · rcases h with h | h <;> simp [h]
  · exact State.on_of_eq halive ((opBlockLockLost_of_many hbad hlock hmany).trans (if_pos hactive))
  · exact State.on_of_eq halive ((opBlockLockLost_of_many hbad hlock hmany).trans (if_neg hother))
  · rcases h with h | h | h <;> simp [h]
  · have hup := lnUp_iff.mpr ⟨hlow, hhigh⟩
    exact ⟨State.on_of_eq halive (opLos_of_up hup), Mach.lnLol_of_up hup, Mach.lnLol_of_up hup⟩
  · have hdown := not_lnUp_of_outside hout
    exact ⟨State.on_of_eq halive (opLos_of_down hdown), Mach.lnLol_of_down hdown, Mach.lnLol_of_down hdown⟩

end Sys2Proof.Machine
end

section
/-! What a lane receives and sends (14 R333, R335 to R337, R341 to R346, 18 R432). -/

namespace Sys2Proof.Machine

section
variable {m : Mach} {n : Nat}

/-! Headers (R337) -/

theorem Mach.lnHdr_of_counted {bad : Bool} (hlow : lsBlockLock ≤ m.lnState n) (hhigh : m.lnState n ≤ lsActive) (hmode : m.lnMode n ≠ lmRaw)
    (hloops : m.lnLoops n = false) : m.lnHdr n bad = m.setLane n { m.lane n with
      hdrs := (2 * (m.lane n).hdrs + b2n bad) % 2 ^ 64, run := if bad then 0 else min 64 ((m.lane n).run + 1) } :=
  if_pos ⟨hlow, hhigh, hmode, by simp [hloops]⟩

theorem Mach.lnHdr_of_uncounted {bad : Bool} (h : m.lnState n < lsBlockLock ∨ lsActive < m.lnState n ∨ m.lnMode n = lmRaw ∨ m.lnLoops n = true) :
    m.lnHdr n bad = m := by
  refine if_neg ?_
  rintro ⟨hlow, hhigh, hmode, hloops⟩
  rcases h with h | h | h | h
  · omega
  · omega
  · exact hmode h
  · simp [h] at hloops

/-! CAPABILITY (R335, R336, R341) -/

section
variable {b : Nat} {h : Mach} (hh : h = m.lnHdr n false)
include hh

theorem opCapability_of_version (hversion : bitsOf 11 8 b ≠ 1) : opCapability n b m = h := by
  subst hh
  exact if_pos hversion

theorem opCapability_of_elsewhere (hactive : h.lnState n ≠ lsActive) (hcaps : h.lnState n ≠ lsCaps) : opCapability n b m = h := by
  subst hh
  by_cases hversion : bitsOf 11 8 b = 1
  · exact (if_neg (not_not.mpr hversion)).trans ((if_neg hactive).trans (if_pos hcaps))
  · exact if_pos hversion

section
variable (hversion : bitsOf 11 8 b = 1)
include hversion

theorem opCapability_of_active (hactive : h.lnState n = lsActive) : opCapability n b m =
    if bitOf 14 b || h.lnMode n == lmRaw || h.lnLoops n then h.wr F.lnPartner (lnIx n) b else (h.wr F.lnPartner (lnIx n) b).lnGo n lsCaps := by
  subst hh
  exact (if_neg (not_not.mpr hversion)).trans (if_pos hactive)

/-- The highest rate that both ends of a lane offer (R336). -/
def Mach.commonRate (m : Mach) (n b : Nat) : Option Nat :=
  highRate ((m.rd F.lnCfgRateMask (lnIx n) - (m.rd F.lnCfgRateMask (lnIx n) &&& m.rd F.lnStatusFailedMask (lnIx n))) &&& (b % 128))

section
variable {same : Nat} {m1 : Mach} (hcaps : h.lnState n = lsCaps)
  (hsame : same = (if bitOf 14 b then (if (h.lane n).caps = b ∧ 0 < (h.lane n).same then (h.lane n).same + 1 else 1) else 0))
  (hm1 : m1 = (h.wr F.lnPartner (lnIx n) b).setLane n { (h.lane n) with ack := true, caps := b, same := same, asked := bitOf 7 b })
include hcaps hsame hm1

theorem opCapability_of_caps : opCapability n b m = if same < 3 then m1.lnCaps n else (h.commonRate n b).elim ((m1.ev F.lnEventsTrainFail (lnIx n)).lnGo n lsDown)
    (fun r => if r = h.rd F.lnStatusRate (lnIx n) then (m1.lnPrecode n (h.rd F.lnStatusRate (lnIx n))).lnGo n lsActive
      else if h.rd F.lnStatusRate (lnIx n) < r then m1.lnStep n r else m1.lnCaps n) := by
  have hactive : ¬ h.lnState n = lsActive := by
    rw [hcaps]
    decide
  subst hm1 hsame hh
  simp only [opCapability, hversion, hcaps, Mach.commonRate, ne_eq, not_true_eq_false, if_false, show ¬ lsCaps = lsActive by decide]
  cases highRate _ <;> rfl

theorem opCapability_of_few (hfew : same < 3) : opCapability n b m = m1.lnCaps n := by
  rw [opCapability_of_caps hh hversion hcaps hsame hm1, if_pos hfew]

section
variable (hthree : 3 ≤ same)
include hthree

theorem opCapability_of_noRate (hnone : h.commonRate n b = none) : opCapability n b m = (m1.ev F.lnEventsTrainFail (lnIx n)).lnGo n lsDown := by
  rw [opCapability_of_caps hh hversion hcaps hsame hm1, if_neg (Nat.not_lt.mpr hthree), hnone, Option.elim_none]

theorem opCapability_of_rate {r : Nat} (hr : h.commonRate n b = some r) : opCapability n b m =
    if r = h.rd F.lnStatusRate (lnIx n) then (m1.lnPrecode n (h.rd F.lnStatusRate (lnIx n))).lnGo n lsActive
    else if h.rd F.lnStatusRate (lnIx n) < r then m1.lnStep n r else m1.lnCaps n := by
  rw [opCapability_of_caps hh hversion hcaps hsame hm1, if_neg (Nat.not_lt.mpr hthree), hr, Option.elim_some]

end

end

end

/-! STEP blocks (R336) -/

theorem opStep_of_active {t : Nat} (hactive : m.lnState n = lsActive) (hmode : m.lnMode n ≠ lmRaw) (hloops : m.lnLoops n = false) (ht : t < 7) :
    opStep n t m = h.lnStep n t := by
  subst hh
  exact if_pos ⟨hactive, hmode, by simp [hloops], ht⟩

theorem opStep_of_other {t : Nat} (ht : t < 8) (hother : m.lnState n ≠ lsActive ∨ m.lnMode n = lmRaw ∨ m.lnLoops n = true ∨ t = 7) : opStep n t m = h := by
  subst hh
  refine if_neg ?_
  rintro ⟨hactive, hmode, hloops, hless⟩
  rcases hother with h | h | h | h
  · exact h hactive
  · exact hmode h
  · simp [h] at hloops
  · omega

end

/-! Received blocks (R342, R343, R345) -/

theorem Mach.lnBlock_of_idle {b : LnBlk} (hno : m.lnCarries n = false) : m.lnBlock n b = m := if_pos (by simp [hno])

section
variable (hcarries : m.lnCarries n = true)
include hcarries

theorem Mach.lnBlock_of_frame {b : LnBlk} (hmode : m.lnMode n = lmFrame) : m.lnBlock n b = (m.fpOf n).elim m (fun p => m.fpArrive p n b) := by
  simp only [Mach.lnBlock, hcarries, hmode, Bool.not_true, Bool.false_eq_true, if_false, if_true]
  cases m.fpOf n <;> rfl

theorem Mach.lnBlock_of_data {v : Nat} (hmode : m.lnMode n ≠ lmFrame) : m.lnBlock n (.data v) = m.lnToFabric n (false, v) := by
  simp only [Mach.lnBlock, hcarries, hmode, Bool.not_true, Bool.false_eq_true, if_false]

theorem Mach.lnBlock_of_ctrl {v : Nat} (hmode : m.lnMode n ≠ lmFrame) : m.lnBlock n (.ctrl v) = m.lnToFabric n (true, v) := by
  simp only [Mach.lnBlock, hcarries, hmode, Bool.not_true, Bool.false_eq_true, if_false]

end

theorem Mach.lnToFabric_of_fenced {c : Bool × Nat} (hfenced : m.lnFenced n = true) : m.lnToFabric n c = m := if_pos hfenced

theorem Mach.lnToFabric_of_full {c : Bool × Nat} (hopen : m.lnFenced n = false) (hfull : 256 ≤ (m.lane n).rx.length) :
    m.lnToFabric n c = m.ev F.lnEventsRxOverflow (lnIx n) := (if_neg (by simp [hopen])).trans (if_pos hfull)

theorem Mach.lnToFabric_of_room {c : Bool × Nat} (hopen : m.lnFenced n = false) (hroom : (m.lane n).rx.length < 256) :
    m.lnToFabric n c = m.setLane n { m.lane n with rx := (m.lane n).rx ++ [c] } := (if_neg (by simp [hopen])).trans (if_neg (Nat.not_le.mpr hroom))

theorem opUser_of_own {v : Nat} (hown : v % 256 ∈ [0x1E, 0x2D, 0x33, 0x3C, 0x4B, 0x55, 0x66]) : opUser n v m = m :=
  if_pos (List.contains_iff_mem.mpr hown)

theorem opUser_of_passed {v : Nat} (hpassed : v % 256 ∉ [0x1E, 0x2D, 0x33, 0x3C, 0x4B, 0x55, 0x66]) :
    opUser n v m = (m.lnHdr n false).lnBlock n (.ctrl v) := if_neg (fun h => hpassed (List.contains_iff_mem.mp h))

/-! DATA_BLOCK (R343, R432) -/

section
variable {m0 : Mach} {v e : Nat} {bad : Bool} (hm : m = m0.lnHdr n bad)
include hm

theorem opDataBlock_of_loop (hloops : m.lnLoops n = true) :
    opDataBlock n v bad e m0 = if m.lnState n = lsActive ∧ m.on F.lnLoopCheckEn (lnIx n) then m.cnt F.lnPrbsErrs (lnIx n) e else m := by
  subst hm
  exact if_pos hloops

section
variable (hloops : m.lnLoops n = false)
include hloops

theorem opDataBlock_of_raw (hmode : m.lnMode n = lmRaw) : opDataBlock n v bad e m0 = m.rawRx n v := by
  subst hm
  exact (if_neg (by simp [hloops])).trans (if_pos hmode)

section
variable (hmode : m.lnMode n ≠ lmRaw)
include hmode

theorem opDataBlock_of_good (hgood : bad = false) : opDataBlock n v bad e m0 = m.lnBlock n (.data v) := by
  subst hm
  exact (if_neg (by simp [hloops])).trans ((if_neg hmode).trans (if_neg (by simp [hgood])))

theorem opDataBlock_of_bad (hbad : bad = true) : opDataBlock n v bad e m0 = if !m.on F.lnStatusBlockLock (lnIx n) then m
    else if m.lnMode n = lmFrame then (m.cnt F.lnHdrErrs (lnIx n) 1).lnBlock n .bad else m.cnt F.lnHdrErrs (lnIx n) 1 := by
  have hkept : (m.cnt F.lnHdrErrs (lnIx n) 1).lnMode n = m.lnMode n := Mach.rd_cnt_ne _ _ _ _ _ (by decide)
  subst hm
  refine (if_neg (by simp [hloops])).trans ((if_neg hmode).trans ((if_pos hbad).trans ?_))
  simp only [hkept]

end

end

end

/-! Slips and the fabric's words (R333, R345, R346) -/

theorem opRawSlip_of_raw (hmode : m.lnMode n = lmRaw) (hactive : m.lnState n = lsActive) (hloops : m.lnLoops n = false) :
    opRawSlip n m = (m.setLane n { m.lane n with slip := true }).cnt F.lnSlips (lnIx n) 1 := if_pos ⟨hmode, hactive, by simp [hloops]⟩

theorem opRawSlip_of_other (hother : m.lnMode n ≠ lmRaw ∨ m.lnState n ≠ lsActive ∨ m.lnLoops n = true) : opRawSlip n m = m := by
  refine if_neg ?_
  rcases hother with h | h | h <;> simp [h]

section
variable {w : Nat} (hw : w = blocksPer (m.rd F.lnStatusRate (lnIx n)))
include hw

theorem opRxbTransfer_of_word (hopen : m.lnFenced n = false) (hmode : m.lnMode n = 0) (hword : w ≤ (m.lane n).rx.length) : opRxbTransfer n m =
    (m.setLane n { m.lane n with rx := (m.lane n).rx.drop w }).send (.laneRx (n / 48) (n % 48) ((m.lane n).rx.take w)) := by
  subst hw
  exact if_neg (by simp [hopen, hmode, hword])

theorem opRxbTransfer_of_none (hnone : m.lnFenced n = true ∨ m.lnMode n ≠ 0 ∨ (m.lane n).rx.length < w) : opRxbTransfer n m = m := by
  subst hw
  exact if_pos hnone

end

section
variable {bs : List (Bool × Nat)}

theorem opTxbTransfer_of_loop (hloops : m.lnLoops n = true) : opTxbTransfer n bs m = m := if_pos hloops

section
variable (hloops : m.lnLoops n = false)
include hloops

theorem opTxbTransfer_of_rawOff (hmode : m.lnMode n = lmRaw) (hoff : m.lnFenced n = true ∨ m.lnState n < lsDetect ∨ lsActive < m.lnState n) :
    opTxbTransfer n bs m = m := (if_neg (by simp [hloops])).trans ((if_pos hmode).trans (if_pos hoff))

theorem opTxbTransfer_of_raw (hmode : m.lnMode n = lmRaw) (hopen : m.lnFenced n = false) (hlow : lsDetect ≤ m.lnState n) (hhigh : m.lnState n ≤ lsActive) :
    opTxbTransfer n bs m = m.lnBits n [] (((bs.flatMap (fun b => (upFrom 0 64).map (fun i => bitOf i b.2)))).take
      (widthOf (m.rd F.lnCfgRawWidth (lnIx n)))) :=
  (if_neg (by simp [hloops])).trans ((if_pos hmode).trans (if_neg (by simp [hopen, hlow, hhigh])))

end

theorem opTxbTransfer_of_silent (hsilent : m.lnMode n ≠ lmRaw) (hother : m.lnMode n ≠ 0 ∨ m.lnCarries n = false) : opTxbTransfer n bs m = m := by
  cases hloops : m.lnLoops n with
  | true => exact opTxbTransfer_of_loop hloops
  | false =>
    refine (if_neg (by simp [hloops])).trans ((if_neg hsilent).trans (if_pos ?_))
    rcases hother with h | h
    · exact Or.inl h
    · exact Or.inr (by simp [h])

section
variable (hmode : m.lnMode n = 0) (hcarries : m.lnCarries n = true)
include hmode hcarries

/-- A BLOCK lane in ACTIVE sends the fabric's word, or IDLE blocks where there is none. -/
theorem opTxbTransfer_of_block : opTxbTransfer n bs m = if bs = [] ∨ m.lnFenced n then
      m.lnSend n (List.replicate (blocksPer (m.rd F.lnStatusRate (lnIx n))) (true, 0x1E))
    else if bs.length ≠ blocksPer (m.rd F.lnStatusRate (lnIx n)) then m else m.lnSend n (bs.map txBlock) := by
  have hloops : m.lnLoops n = false := by
    cases h : m.lnLoops n with
    | false => rfl
    | true => simp [Mach.lnCarries, h] at hcarries
  have hraw : ¬ m.lnMode n = lmRaw := by
    rw [hmode]
    decide
  exact (if_neg (by simp [hloops])).trans ((if_neg hraw).trans (if_neg (by simp [hmode, hcarries])))

end

end

end

/-- Settles O33, command by command. -/
theorem laneTraffic : Obligations.LaneTraffic := by
  unfold Obligations.LaneTraffic
  intro d i s n q w h halive hn hq hw hh
  subst hn hq
  refine ⟨fun m bad x hx => ?_, State.on_of_eq halive hh.symm, fun b => ⟨fun hversion => State.on_of_eq halive (opCapability_of_version hh hversion),
      fun hactive hcaps => State.on_of_eq halive (opCapability_of_elsewhere hh hactive hcaps), fun same r m1 hversion hcaps hsame hm1 => ?_,
      fun hversion hactive => ?_⟩,
    fun t => ⟨fun hactive hmode hloops ht => State.on_of_eq halive (opStep_of_active hh hactive hmode hloops ht),
      fun hother => State.on_of_eq halive (opStep_of_other hh t.isLt hother)⟩,
    fun ai sz => ⟨fun hmode => State.on_of_eq halive ((if_pos hmode).trans (by rw [Mach.lnGood, ← hh])),
      fun hmode => State.on_of_eq halive ((if_neg hmode).trans hh.symm)⟩,
    fun no => ?_, fun l => ?_, fun c => ?_, fun v => ⟨fun hown => State.on_of_same (opUser_of_own hown), fun hpassed => ?_⟩,
    fun v bad e m hm => ⟨fun hloops => State.on_of_eq halive (opDataBlock_of_loop hm hloops), fun hloops hmode => State.on_of_eq halive
      (opDataBlock_of_raw hm hloops hmode), fun hloops hmode hgood => State.on_of_eq halive (opDataBlock_of_good hm hloops hmode hgood),
      fun hloops hmode hbad => ?_⟩,
    fun m b v => ⟨Mach.lnBlock_of_idle, fun hcarries hmode => ?_, fun hcarries hmode => ⟨Mach.lnBlock_of_data hcarries hmode,
      Mach.lnBlock_of_ctrl hcarries hmode⟩, fun c => ⟨Mach.lnToFabric_of_fenced, Mach.lnToFabric_of_full, Mach.lnToFabric_of_room⟩⟩,
    fun hmode hactive hloops => State.on_of_eq halive (opRawSlip_of_raw hmode hactive hloops), fun hother => State.on_of_same (opRawSlip_of_other hother),
    fun hopen hmode hword => State.on_of_eq halive (opRxbTransfer_of_word hw hopen hmode hword),
    fun hnone => State.on_of_same (opRxbTransfer_of_none hw hnone), fun bs cs hcs => ?_⟩
  · subst hx
    exact ⟨Mach.lnHdr_of_counted, Mach.lnHdr_of_uncounted⟩
  · refine ⟨fun hfew => State.on_of_eq halive (opCapability_of_few hh hversion hcaps hsame hm1 hfew),
      fun hthree hnone => State.on_of_eq halive (opCapability_of_noRate hh hversion hcaps hsame hm1 hthree hnone), fun hthree hr => ?_⟩
    have hrate := opCapability_of_rate hh hversion hcaps hsame hm1 hthree hr
    refine ⟨fun heq => State.on_of_eq halive (hrate.trans ?_), fun hup => State.on_of_eq halive (hrate.trans ?_),
      fun hdown => State.on_of_eq halive (hrate.trans ?_)⟩
    · rw [if_pos heq, heq]
    · rw [if_neg hup.ne', if_pos hup]
      rfl
    · rw [if_neg hdown.ne, if_neg hdown.not_gt]
  · have hcap := opCapability_of_active hh hversion hactive
    refine ⟨fun hnack hmode hloops => State.on_of_eq halive (hcap.trans (if_neg (by simp [hnack, hmode, hloops]))),
      fun hkeep => State.on_of_eq halive (hcap.trans (if_pos ?_))⟩
    rcases hkeep with h | h | h <;> simp [h]
  · subst hh
    exact State.on_of_eq halive rfl
  · subst hh
    exact State.on_of_eq halive rfl
  · subst hh
    exact State.on_of_eq halive rfl
  · subst hh
    exact State.on_of_eq halive (opUser_of_passed hpassed)
  · have hdata := opDataBlock_of_bad (v := v.toNat) (e := e) hm hloops hmode hbad
    refine ⟨fun hlock => State.on_of_eq halive (hdata.trans (if_pos (by simp [hlock]))), fun hlock hframe => State.on_of_eq halive (hdata.trans ?_),
      fun hlock hframe => State.on_of_eq halive (hdata.trans ?_)⟩
    · exact (if_neg (by simp [hlock])).trans (if_neg hframe)
    · exact (if_neg (by simp [hlock])).trans (if_pos hframe)
  · rw [Mach.lnBlock_of_frame hcarries hmode]
    cases m.fpOf (lnK d.val i.val) <;> rfl
  · subst hw hcs
    refine ⟨fun hloops => State.on_of_same (opTxbTransfer_of_loop hloops), fun hloops hmode => ⟨fun hoff => State.on_of_same
      (opTxbTransfer_of_rawOff hloops hmode hoff), fun hopen hlow hhigh => State.on_of_eq halive (opTxbTransfer_of_raw hloops hmode hopen hlow hhigh)⟩,
      fun hsilent => State.on_of_same ?_, fun hmode hcarries => ?_⟩
    · rcases hsilent with h | h | ⟨h, hno⟩
      · exact opTxbTransfer_of_silent (by rw [h]; decide) (Or.inl (by rw [h]; decide))
      · exact opTxbTransfer_of_silent (by rw [h]; decide) (Or.inl (by rw [h]; decide))
      · exact opTxbTransfer_of_silent (by rw [h]; decide) (Or.inr hno)
    · have hblock := opTxbTransfer_of_block (bs := bs.map (fun b => (b.1, b.2.toNat))) hmode hcarries
      refine ⟨fun hidle => State.on_of_eq halive (hblock.trans (if_pos (by simpa using hidle))), fun hsome hopen hlen => ?_, fun hsome hopen hlen => ?_⟩
      · exact State.on_of_same (hblock.trans ((if_neg (by simp [hsome, hopen])).trans (if_pos (by simpa using hlen))))
      · exact State.on_of_eq halive (hblock.trans ((if_neg (by simp [hsome, hopen])).trans (if_neg (by simpa using hlen))))

end Sys2Proof.Machine
end

section
/-! The commands of a frame port (14 R345 to R351). -/

namespace Sys2Proof.Machine

section
variable {m : Mach} {p : Nat}

/-! Lines that the fabric returns (R348) -/

theorem opTapLineReturn_of_none {data : List Byte} {shape : Bool}
    (h : (m.port p).tapOut = [] ∨ m.on F.frStatusFenced (rgnIx (p / 6) (2 * (p % 6))) = true) : opTapLineReturn p data shape m = m := by
  cases hout : (m.port p).tapOut with
  | nil => simp only [opTapLineReturn, hout]
  | cons w l =>
    have hfence : m.on F.frStatusFenced (rgnIx (p / 6) (2 * (p % 6))) = true := h.resolve_left (by simp [hout])
    simp only [opTapLineReturn, hout, hfence, if_true]

section
variable {buf line : Nat} {l : List (Nat × Nat)} {data : List Byte} {m1 : Mach} (hout : (m.port p).tapOut = (buf, line) :: l)
  (hopen : m.on F.frStatusFenced (rgnIx (p / 6) (2 * (p % 6))) = false) (hm1 : m1 = m.setPort p { (m.port p) with tapOut := l })
include hout hopen hm1

theorem opTapLineReturn_of_shaped (hlen : data.length = 8 * m.rd F.fpShapeLineWords (fpIx p)) : opTapLineReturn p data false m =
    (m1.setPort p { (m1.port p) with writes := (m.port p).writes ++ [(buf, m.fpAddr p buf line 0, data)] }).fpPump p := by
  simp [opTapLineReturn, hout, hopen, hlen, hm1]

theorem opTapLineReturn_of_misshapen {sh : Bool} (hbad : data.length ≠ 8 * m.rd F.fpShapeLineWords (fpIx p) ∨ sh = true) :
    opTapLineReturn p data sh m = m1.fpFail p buf 2 := by
  simp only [opTapLineReturn, hout, hopen, if_pos hbad.symm, hm1, Bool.false_eq_true, if_false]

end

/-! The events of ended frames (R350) -/

theorem opFrameEvent_of_none (hended : ((m.fpPump p).port p).ended = []) : opFrameEvent p m = m.fpPump p := by
  simp only [opFrameEvent, hended]

section
variable {f : Frame} {l : List Frame} {m0 : Mach} {x : FramePort} (hm0 : m0 = m.fpPump p) (hx : x = m0.port p) (hended : x.ended = f :: l)
include hm0 hx hended

theorem opFrameEvent_of_unwritten (hleft : (∃ w ∈ x.writes, w.1 = f.buf) ∨ (∃ w ∈ x.tapQ, w.1 = f.buf) ∨ (∃ w ∈ x.tapOut, w.1 = f.buf)) :
    opFrameEvent p m = m0 := by
  have hany : (x.writes.any (fun w => w.1 == f.buf) || x.tapQ.any (fun w => w.1 == f.buf) || x.tapOut.any (fun w => w.1 == f.buf)) = true := by
    simpa [or_assoc] using hleft
  subst hx hm0
  simp only [opFrameEvent, hended, hany, if_true]

section
variable {bytes : List Byte} {m1 m2 : Mach}
  (hbytes : bytes = leBytes 2 (m0.rd F.fpEventTag (fpIx p)) ++ leBytes 1 0x10 ++ leBytes 1 f.status ++ leBytes 2 p ++ leBytes 2 f.buf ++ leBytes 4 f.no ++
    leBytes 4 (f.bytes / max 1 (8 * m0.rd F.fpShapeLineWords (fpIx p))) ++ leBytes 6 f.start ++ leBytes 6 f.stop ++ leBytes 4 x.overruns ++
    leBytes 4 f.bytes ++ List.replicate 28 (0 : Byte))
  (hwrites : ∀ w ∈ x.writes, w.1 ≠ f.buf) (htapQ : ∀ w ∈ x.tapQ, w.1 ≠ f.buf) (htapOut : ∀ w ∈ x.tapOut, w.1 ≠ f.buf)
  (hm1 : m1 = (m0.setPort p { x with ended := l, overruns := 0 }).mail (idFrame (p / 6) (p % 6)) (m0.rd F.fpEventMailbox (fpIx p))
    ((upFrom 0 16).map (fun i => leNat ((bytes.drop (4 * i)).take 4))))
  (hm2 : m2 = (m1.wrap F.fpWr (fpIx p) 1).wrap F.fpFrames (fpIx p) 1)
include hbytes hwrites htapQ htapOut hm1 hm2

theorem opFrameEvent_of_written :
    opFrameEvent p m = ((fpEventFld f.status).elim m2 (fun fld => (m2.ev fld (fpIx p)).cnt F.fpBad (fpIx p) 1)).fpPump p := by
  have hnone : (x.writes.any (fun w => w.1 == f.buf) || x.tapQ.any (fun w => w.1 == f.buf) || x.tapOut.any (fun w => w.1 == f.buf)) = false := by
    simp only [Bool.or_eq_false_iff, List.any_eq_false, beq_iff_eq]
    exact ⟨⟨hwrites, htapQ⟩, htapOut⟩
  subst hx hm0
  simp only [opFrameEvent, hended, hnone, Bool.false_eq_true, if_false, ← hbytes, ← hm1, ← hm2]
  cases fpEventFld f.status <;> rfl

end

end

/-! Releases and the enable (R349, R351) -/

theorem Mach.fpRdWrite_of_within {v : Nat} (h : (m.rd F.fpWr (fpIx p) + 65536 - v) % 65536 ≤ m.rd F.fpBufCount (fpIx p)) :
    m.fpRdWrite p v = m.wr F.fpRd (fpIx p) v := if_neg (Nat.not_lt.mpr h)

theorem Mach.fpRdWrite_of_beyond {v : Nat} (h : m.rd F.fpBufCount (fpIx p) < (m.rd F.fpWr (fpIx p) + 65536 - v) % 65536) : m.fpRdWrite p v = m :=
  if_pos h

theorem Mach.fpEn_off : m.fpEn p false = (m.wr F.fpCtrlEn (fpIx p) 0).fpEnd p 4 := rfl

theorem Mach.fpEn_of_on (hon : m.on F.fpCtrlEn (fpIx p) = true) : m.fpEn p true = m := by
  simp only [Mach.fpEn, hon, Bool.not_true, Bool.false_eq_true, if_false, if_true]

section
variable (hoff : m.on F.fpCtrlEn (fpIx p) = false)
include hoff

theorem Mach.fpEn_of_allowed (hlanes : ∀ n ∈ m.fpLanes p, m.lnMode n = lmFrame)
    (hfits : 8 * m.rd F.fpShapeLines (fpIx p) * m.rd F.fpShapeLineWords (fpIx p) ≤ 64 * m.rd F.fpBufStride (fpIx p))
    (hcount : m.rd F.fpBufCount (fpIx p) ≠ 0)
    (htap : m.on F.fpCtrlTapEn (fpIx p) = true → m.rd F.fpShapeLineWords (fpIx p) % 2 = 0) :
    m.fpEn p true = (m.setPort p { (m.port p) with order := [], turn := 0 }).wr F.fpCtrlEn (fpIx p) 1 := by
  have hlane : (m.fpLanes p).any (fun n => m.lnMode n != lmFrame) = false := by simpa using hlanes
  have htap' : (m.on F.fpCtrlTapEn (fpIx p) && m.rd F.fpShapeLineWords (fpIx p) % 2 == 1) = false := by
    simp only [Bool.and_eq_false_imp, beq_eq_false_iff_ne]
    exact fun h => by simp [htap h]
  simp only [Mach.fpEn, hoff, hlane, htap', decide_eq_false (Nat.not_lt.mpr hfits), beq_eq_false_iff_ne.mpr hcount, Bool.not_true, Bool.false_eq_true,
    if_false, Bool.or_false]

theorem Mach.fpEn_of_forbidden (hbad : (∃ n ∈ m.fpLanes p, m.lnMode n ≠ lmFrame) ∨ m.rd F.fpBufCount (fpIx p) = 0 ∨
      64 * m.rd F.fpBufStride (fpIx p) < 8 * m.rd F.fpShapeLines (fpIx p) * m.rd F.fpShapeLineWords (fpIx p) ∨
      (m.on F.fpCtrlTapEn (fpIx p) = true ∧ m.rd F.fpShapeLineWords (fpIx p) % 2 = 1)) :
    m.fpEn p true = m.ev F.fpEventsCfgRefused (fpIx p) := by
  have hany : ((m.fpLanes p).any (fun n => m.lnMode n != lmFrame) || decide (64 * m.rd F.fpBufStride (fpIx p) <
      8 * m.rd F.fpShapeLines (fpIx p) * m.rd F.fpShapeLineWords (fpIx p)) || m.rd F.fpBufCount (fpIx p) == 0 ||
      (m.on F.fpCtrlTapEn (fpIx p) && m.rd F.fpShapeLineWords (fpIx p) % 2 == 1)) = true := by
    rcases hbad with ⟨n, hn, hmode⟩ | h | h | ⟨h, h'⟩
    · have hlane : (m.fpLanes p).any (fun n => m.lnMode n != lmFrame) = true := List.any_eq_true.mpr ⟨n, hn, by simpa using hmode⟩
      simp [hlane]
    · simp [h]
    · simp [h]
    · simp [h, h']
  simp only [Mach.fpEn, hoff, hany, Bool.not_true, Bool.false_eq_true, if_false, if_true]

end

end

/-- Settles O34, command by command. -/
theorem framePortCommands : Obligations.FramePortCommands := by
  unfold Obligations.FramePortCommands
  rintro d k s p q halive rfl rfl
  refine ⟨fun buf line l data m1 hout hopen hm1 => ⟨fun hlen => State.on_of_eq halive (opTapLineReturn_of_shaped hout hopen hm1 hlen),
      fun sh hbad => State.on_of_eq halive (opTapLineReturn_of_misshapen hout hopen hm1 hbad)⟩,
    fun h data sh => State.on_of_same (opTapLineReturn_of_none h), fun hended => State.on_of_eq halive (opFrameEvent_of_none hended),
    fun f l m0 x bytes hm0 hx hended hbytes => ⟨fun hleft => State.on_of_eq halive (opFrameEvent_of_unwritten hm0 hx hended hleft),
      fun hw hq ho => ⟨_, _, rfl, rfl, fun hstatus => State.on_of_eq halive ?_, fun fld hfld => State.on_of_eq halive ?_⟩⟩,
    fun who hwho => ⟨fun v hin => ?_, fun v hbeyond => ?_, ?_, fun hoff hlanes hfits hcount htap => ?_, fun hon => ?_, fun hoff hbad => ?_⟩,
    fun who hwho => ⟨fun v => State.on_of_eq halive (Mach.permit_of_no hwho), fun en => State.on_of_eq halive (Mach.permit_of_no hwho)⟩⟩
  · rw [opFrameEvent_of_written hm0 hx hended hbytes hw hq ho rfl rfl, hstatus]
    rfl
  · rw [opFrameEvent_of_written hm0 hx hended hbytes hw hq ho rfl rfl, hfld]
    rfl
  · exact State.on_of_eq halive ((Mach.permit_of_ok hwho).trans (by rw [Mach.fpRdWrite_of_within hin]))
  · exact State.on_of_eq halive ((Mach.permit_of_ok hwho).trans (by rw [Mach.fpRdWrite_of_beyond hbeyond]))
  · exact State.on_of_eq halive ((Mach.permit_of_ok hwho).trans (by rw [Mach.fpEn_off]))
  · exact State.on_of_eq halive ((Mach.permit_of_ok hwho).trans (by rw [Mach.fpEn_of_allowed hoff hlanes hfits hcount htap]))
  · exact State.on_of_eq halive ((Mach.permit_of_ok hwho).trans (by rw [Mach.fpEn_of_on hon]))
  · exact State.on_of_eq halive ((Mach.permit_of_ok hwho).trans (by rw [Mach.fpEn_of_forbidden hoff hbad]))

end Sys2Proof.Machine
end

section
/-! The test port's instructions (13 R300 to R303, R308, R311 to R313, R323 to R325). -/

namespace Sys2Proof.Machine

section
variable {m : Mach}

/-! Loading an instruction (R311, R313) -/

section
variable {m1 : Mach} {code : Nat} (hm1 : m1 = m.setCfg { m.cfg with ir := code })
include hm1

theorem Mach.setIr_of_ending (hretry : m.retryWanted = true) (hresend : code ≠ 0x12) (habort : code ≠ 0x14) (hnew : code ≠ m.cfg.ir) :
    m.setIr code = m1.cfgAbortWith 3 m.cfg.failed := by
  subst hm1
  exact if_pos ⟨hretry, hresend, habort, hnew⟩

theorem Mach.setIr_of_keeping (h : m.retryWanted = false ∨ code = 0x12 ∨ code = 0x14 ∨ code = m.cfg.ir) : m.setIr code = m1 := by
  subst hm1
  refine if_neg ?_
  rintro ⟨hretry, hresend, habort, hnew⟩
  rcases h with h | h | h | h
  · rw [h] at hretry
    exact Bool.false_ne_true hretry
  · exact hresend h
  · exact habort h
  · exact hnew h

end

theorem Mach.setIr_retry : m.setIr 0x12 = m.setCfg { m.cfg with ir := 0x12 } := Mach.setIr_of_keeping rfl (Or.inr (Or.inl rfl))

theorem Mach.setIr_abort : m.setIr 0x14 = m.setCfg { m.cfg with ir := 0x14 } := Mach.setIr_of_keeping rfl (Or.inr (Or.inr (Or.inl rfl)))

/-! Shifted bits (R308, R311) -/

section
variable {enter wide : Bool} {n v : Nat}

theorem Mach.takeBits_of_late (hretry : m.retryWanted = true) (hmany : 4160 ≤ m.cfg.dropped + n) :
    m.takeBits enter wide n v = m.cfgAbortWith 3 m.cfg.failed := (if_pos hretry).trans (if_pos hmany)

theorem Mach.takeBits_of_dropped (hretry : m.retryWanted = true) (hfew : m.cfg.dropped + n < 4160) :
    m.takeBits enter wide n v = m.setCfg { m.cfg with dropped := m.cfg.dropped + n } := (if_pos hretry).trans (if_neg (Nat.not_le.mpr hfew))

section
variable (hretry : m.retryWanted = false)
include hretry

theorem Mach.takeBits_of_begin (henter : enter = true) (hstate : m.cfgState = csIdle ∨ m.cfgState = csFailed ∨ m.cfgState = csStarted) :
    m.takeBits enter wide n v = ((m.setCfg { m.cfg with buf := v, len := n, base := m.cfgState, hdr := none, seen := [], waits := [], got := [] }).wr
      F.cfgStatusWide 6 (b2n wide)).setCfgState csHeader := by
  have hbegins : (enter && (m.cfgState == csIdle || m.cfgState == csFailed || m.cfgState == csStarted)) = true := by
    simpa [henter, or_assoc] using hstate
  exact (if_neg (by simp [hretry])).trans (if_pos hbegins)

theorem Mach.takeBits_of_loading (hstate : m.cfgState = csHeader ∨ m.cfgState = csLoading ∨ m.cfgState = csPartial) (htaken : m.allTaken = false) :
    m.takeBits enter wide n v = m.setCfg { m.cfg with buf := m.cfg.buf + v * 2 ^ m.cfg.len, len := m.cfg.len + n } := by
  have hbegins : (enter && (m.cfgState == csIdle || m.cfgState == csFailed || m.cfgState == csStarted)) = false := by
    rcases hstate with h | h | h <;> simp [h, csHeader, csLoading, csPartial, csIdle, csFailed, csStarted]
  have hrefusable : ((m.cfgState == csPartial && m.allTaken) || m.cfgState == csWaitDone) = false := by
    rcases hstate with h | h | h <;> simp [h, htaken, csHeader, csLoading, csPartial, csWaitDone]
  have hload : m.cfgBusy ∧ (!m.allTaken) := by
    rcases hstate with h | h | h <;> simp [Mach.cfgBusy, h, htaken]
  simp only [Mach.takeBits, hretry, hbegins, hrefusable, Bool.false_eq_true, if_false, if_pos hload]

theorem Mach.takeBits_of_idle (henter : enter = false) (hstate : m.cfgState = csIdle ∨ m.cfgState = csFailed ∨ m.cfgState = csStarted) :
    m.takeBits enter wide n v = m := by
  have hrefusable : ((m.cfgState == csPartial && m.allTaken) || m.cfgState == csWaitDone) = false := by
    rcases hstate with h | h | h <;> simp [h, csIdle, csFailed, csStarted, csPartial, csWaitDone]
  have hbusy : m.cfgBusy = false := by
    rcases hstate with h | h | h <;> simp [Mach.cfgBusy, h, csHeader, csLoading, csRetry, csPartial, csIdle, csFailed, csStarted]
  simp only [Mach.takeBits, hretry, henter, hrefusable, hbusy, Bool.false_and, Bool.false_eq_true, false_and, if_false]

end

end

theorem opCfgWide_eq {enter : Bool} {hs : List (BitVec 16)} {m1 : Mach}
    (hm1 : m1 = (m.setIr 0x11).takeBits enter true (16 * hs.length) (halves (hs.map BitVec.toNat))) :
    opCfgWide enter (hs.map BitVec.toNat) m = m1.send (.tdo 1 (b2n m1.retryWanted)) := by
  simp only [opCfgWide, List.length_map, hm1]

/-! RETRY, an unlisted code, an abort (R301, R311, R312) -/

theorem opRetry_eq {bits : List Bool} {m1 m2 m3 : Mach} (hm1 : m1 = m.setCfg { m.cfg with ir := 0x12 })
    (hm2 : m2 = (if m.cfg.ir ≠ 0x12 ∧ m.cfgBusy ∧ m.cfgState ≠ csHeader then m1.setCfg { m1.cfg with buf := 0, len := 0, resend := m.retryWanted } else m1))
    (hm3 : m3 = (if m2.cfg.resend ∧ m2.retryWanted then
      m2.setCfg { m2.cfg with buf := m2.cfg.buf + bitsNat (bits.take (4160 - m2.cfg.len)) * 2 ^ m2.cfg.len, len := min 4160 (m2.cfg.len + bits.length) }
      else m2)) : opRetry bits m = m3.send (.tdo 1 (b2n m3.retryWanted)) := by
  simp only [opRetry, Mach.setIr_retry, ← hm1, bne_iff_ne, ← hm2, ← hm3]

theorem opBypass_of_unlisted {code : Nat} (h : code ∉ tapCodes) : opBypass code m = m.setIr code := if_neg (by simpa using h)

theorem opBypass_of_listed {code : Nat} (h : code ∈ tapCodes) : opBypass code m = m := if_pos (by simpa using h)

section
variable {m1 : Mach} (hm1 : m1 = m.setCfg { m.cfg with ir := 0x14 })
include hm1

theorem opCfgAbort_of_load (h : m.cfgBusy = true ∨ m.cfgState = csWaitDone) : opCfgAbort m = m1.cfgAbortWith 6 m.lastVerified := by
  simp only [opCfgAbort, Mach.setIr_abort, ← hm1, if_pos h]
  rw [hm1]
  rfl

theorem opCfgAbort_of_none (hbusy : m.cfgBusy = false) (hwait : m.cfgState ≠ csWaitDone) : opCfgAbort m = m1 := by
  simp only [opCfgAbort, Mach.setIr_abort, ← hm1, hbusy, hwait, Bool.false_eq_true, or_self, if_false]

end

/-! The harvest (R323 to R325) -/

section
variable {m0 : Mach} {sel d r : Nat} (hm : m = m0.setIr 0x18) (hd : d = sel / 2 ^ 29) (hr : r = bitsOf 28 24 sel)
include hm hd hr

theorem opHarvestSel_of_affected {h : CfgHdr} (hhdr : m.cfg.hdr = some h) (hpart : h.part = true) (hin : (d, r) ∈ h.regionList) :
    opHarvestSel sel m0 = m := by
  have hhit : (h.part && h.regionList.contains (d, r)) = true := by simp [hpart, hin]
  simp only [opHarvestSel, ← hm, ← hd, ← hr, hhdr, hhit, if_true]

section
variable (hfree : m.cfg.hdr = none ∨ (∃ h, m.cfg.hdr = some h ∧ (h.part = false ∨ (d, r) ∉ h.regionList)))
include hfree

theorem opHarvestSel_of_free : opHarvestSel sel m0 =
    if 6 ≤ d ∨ 24 ≤ r ∨ !m.on F.frStatusStarted (rgnIx d r) then (m.setCfg { m.cfg with harvest := some (d, r, [0, 0, 0]) }).wr F.cfgStatusHarvestReady 6 1
    else if sel % 2 = 1 then ((m.setCfg { m.cfg with harvest := some (d, r, [m.harvestFrame d r 0, m.harvestFrame d r 1, m.harvestFrame d r 2]) }).wr
        F.cfgStatusHarvestReady 6 1).clkGate d r 0
      else (m.setCfg { m.cfg with harvest := some (d, r, [m.harvestFrame d r 0, m.harvestFrame d r 1, m.harvestFrame d r 2]) }).wr
        F.cfgStatusHarvestReady 6 1 := by
  have hthree : (upFrom 0 3).map (fun i => m.harvestFrame d r i) = [m.harvestFrame d r 0, m.harvestFrame d r 1, m.harvestFrame d r 2] := rfl
  rcases hfree with hhdr | ⟨h, hhdr, hmiss⟩
  · simp only [opHarvestSel, ← hm, ← hd, ← hr, hhdr, Bool.false_eq_true, if_false, hthree]
  · have hno : (h.part && h.regionList.contains (d, r)) = false := by
      rcases hmiss with hmiss | hmiss <;> simp [hmiss]
    simp only [opHarvestSel, ← hm, ← hd, ← hr, hhdr, hno, Bool.false_eq_true, if_false, hthree]

theorem opHarvestSel_of_started {m1 : Mach} (hdie : d < 6) (hregion : r < 24) (hon : m.on F.frStatusStarted (rgnIx d r) = true)
    (hm1 : m1 = (m.setCfg { m.cfg with harvest := some (d, r, [m.harvestFrame d r 0, m.harvestFrame d r 1, m.harvestFrame d r 2]) }).wr
      F.cfgStatusHarvestReady 6 1) : opHarvestSel sel m0 = if sel % 2 = 1 then m1.clkGate d r 0 else m1 := by
  rw [opHarvestSel_of_free hm hd hr hfree, if_neg (by simp [hdie, hregion, hon]), hm1]

theorem opHarvestSel_of_stopped (hout : 6 ≤ d ∨ 24 ≤ r ∨ m.on F.frStatusStarted (rgnIx d r) = false) : opHarvestSel sel m0 =
    (m.setCfg { m.cfg with harvest := some (d, r, [0, 0, 0]) }).wr F.cfgStatusHarvestReady 6 1 := by
  rw [opHarvestSel_of_free hm hd hr hfree, if_pos (by simpa using hout)]

end

end

section
variable {m0 : Mach} (hm : m = m0.setIr 0x19)
include hm

theorem opHarvest_of_none (h : m.cfg.harvest = none) : opHarvest m0 = m.send (.tdo 12480 0) := by
  simp only [opHarvest, ← hm, h]

theorem opHarvest_of_some {d r : Nat} {vs : List Nat} (h : m.cfg.harvest = some (d, r, vs)) : opHarvest m0 =
    m.send (.tdo 12480 (harvestBits d r 0 (nth 0 vs 0) + 2 ^ 4160 * harvestBits d r 1 (nth 0 vs 1) + 2 ^ 8320 * harvestBits d r 2 (nth 0 vs 2))) := by
  simp only [opHarvest, ← hm, h]

end

end

/-- Settles O35, instruction by instruction. -/
theorem testPortInstructions : Obligations.TestPortInstructions := by
  unfold Obligations.TestPortInstructions
  refine ⟨fun m m1 code hm1 => ⟨Mach.setIr_of_ending hm1, Mach.setIr_of_keeping hm1⟩,
    fun m enter wide n v => ⟨fun hretry => ⟨Mach.takeBits_of_late hretry, Mach.takeBits_of_dropped hretry⟩,
      fun hretry henter hstate => ⟨_, rfl, Mach.takeBits_of_begin hretry henter hstate⟩, Mach.takeBits_of_loading, Mach.takeBits_of_idle⟩,
    fun s halive => ⟨State.on_of_eq halive rfl, State.on_of_eq halive rfl,
      fun shift pins m1 => ⟨fun hm1 => State.on_of_eq halive (by rw [hm1]; rfl), fun hm1 => State.on_of_eq halive (by rw [hm1]; rfl)⟩,
      State.on_of_eq halive rfl, State.on_of_eq halive rfl,
      fun code => ⟨fun h => State.on_of_eq halive (opBypass_of_unlisted h), fun h => State.on_of_same (opBypass_of_listed h)⟩,
      fun enter bits m1 hm1 => State.on_of_eq halive (by rw [hm1]; rfl), fun enter hs m1 hm1 => State.on_of_eq halive (opCfgWide_eq hm1),
      fun bits => ⟨_, _, _, rfl, rfl, rfl, State.on_of_eq halive (opRetry_eq rfl rfl rfl)⟩, fun m1 hm1 => State.on_of_eq halive (by rw [hm1]; rfl),
      fun m1 hm1 => ⟨fun h => State.on_of_eq halive (opCfgAbort_of_load hm1 h), fun hbusy hwait => State.on_of_eq halive (opCfgAbort_of_none hm1 hbusy hwait)⟩,
      fun sel d r m m1 hm hd hr => ⟨fun h hhdr hpart hin => State.on_of_eq halive (opHarvestSel_of_affected hm hd hr hhdr hpart hin),
        fun hfree => ⟨fun hdie hregion hon hm1 => State.on_of_eq halive (opHarvestSel_of_started hm hd hr hfree hdie hregion hon hm1),
          fun hout => State.on_of_eq halive (opHarvestSel_of_stopped hm hd hr hfree hout)⟩⟩⟩,
    fun s m halive hm => ⟨fun h => State.on_of_eq halive (opHarvest_of_none hm h), fun d r vs h => State.on_of_eq halive (opHarvest_of_some hm h)⟩⟩

end Sys2Proof.Machine
end

section
/-! Loading the fabric (13 R305 to R314, R317, R319 to R322). -/

namespace Sys2Proof.Machine

section
variable {m : Mach}

/-! Headers (R305 to R307, R314) -/

theorem Mach.refuseHeader_of_header {code fail : Nat} (h : m.cfgState = csHeader) : m.refuseHeader code fail = m.cfgAbortWith code fail := if_pos h

theorem Mach.refuseHeader_of_other {code fail : Nat} (h : m.cfgState ≠ csHeader) :
    m.refuseHeader code fail = (m.setCfg { m.cfg with buf := 0, len := 0 }).cfgError code fail := if_neg h

/-- The states in which a header is refused without the load that stands: R314's partial load whose frames are all taken, and waiting for DONE. -/
theorem refusable_iff : ((m.cfgState == csPartial && m.allTaken) || m.cfgState == csWaitDone) = true ↔
    (m.cfgState = csPartial ∧ m.allTaken = true) ∨ m.cfgState = csWaitDone := by simp

theorem opStreamHeader_of_none (h : m.cfg.len < 32 ∨ (m.cfgState ≠ csHeader ∧ m.cfgState ≠ csPartial ∧ m.cfgState ≠ csWaitDone) ∨
    (m.cfgState = csPartial ∧ m.allTaken = false)) : opStreamHeader m = m := by
  refine if_pos ?_
  rcases h with h | ⟨hheader, hpart, hwait⟩ | ⟨hpart, htaken⟩
  · exact Or.inr h
  · exact Or.inl ⟨hheader, by simp [hpart, hwait]⟩
  · exact Or.inl ⟨by simp [hpart, csPartial, csHeader], by simp [hpart, htaken, csPartial, csWaitDone]⟩

section
variable (hlen : 32 ≤ m.cfg.len) (hstate : m.cfgState = csHeader ∨ (m.cfgState = csPartial ∧ m.allTaken = true) ∨ m.cfgState = csWaitDone)
include hlen hstate

theorem opStreamHeader_judged :
    ¬ ((m.cfgState ≠ csHeader ∧ (!((m.cfgState == csPartial && m.allTaken) || m.cfgState == csWaitDone))) ∨ m.cfg.len < 32) := by
  rintro (⟨hheader, hrefusable⟩ | hshort)
  · rw [refusable_iff.mpr (hstate.resolve_left hheader)] at hrefusable
    exact Bool.false_ne_true hrefusable
  · exact Nat.not_lt.mpr hlen hshort

theorem opStreamHeader_of_noSync (hsync : cfgWord m.cfg.buf 0 ≠ 0xC0F6A55A) : opStreamHeader m = m.refuseHeader 2 0 :=
  (if_neg (opStreamHeader_judged hlen hstate)).trans (if_pos hsync)

section
variable (hsync : cfgWord m.cfg.buf 0 = 0xC0F6A55A)
include hsync

theorem opStreamHeader_of_sync (hshort : m.cfg.len < 64) : opStreamHeader m = m.cfgError 0 0 :=
  (if_neg (opStreamHeader_judged hlen hstate)).trans ((if_neg (not_not.mpr hsync)).trans (if_pos hshort))

theorem opStreamHeader_of_otherPart (hlong : 64 ≤ m.cfg.len) (hid : cfgWord m.cfg.buf 1 % 2 ^ 28 ≠ 0xA006BC7 ∨ 1 < cfgWord m.cfg.buf 1 / 2 ^ 28) :
    opStreamHeader m = (m.cfgError 0 0).refuseHeader 1 (cfgWord m.cfg.buf 1) :=
  (if_neg (opStreamHeader_judged hlen hstate)).trans ((if_neg (not_not.mpr hsync)).trans ((if_neg (Nat.not_lt.mpr hlong)).trans (if_pos hid)))

section
variable (hpart : cfgWord m.cfg.buf 1 % 2 ^ 28 = 0xA006BC7) (hrev : cfgWord m.cfg.buf 1 / 2 ^ 28 ≤ 1)
include hpart hrev

omit hlen hstate hsync in
theorem idcode_good : ¬ (cfgWord m.cfg.buf 1 % 2 ^ 28 ≠ idcodeValue % 2 ^ 28 ∨ idcodeValue / 2 ^ 28 < cfgWord m.cfg.buf 1 / 2 ^ 28) := by
  rintro (h | h)
  · exact h hpart
  · exact Nat.not_lt.mpr hrev h

theorem opStreamHeader_of_begun (hlong : 64 ≤ m.cfg.len) (hshort : m.cfg.len < 512) : opStreamHeader m = m.cfgError 0 0 :=
  (if_neg (opStreamHeader_judged hlen hstate)).trans ((if_neg (not_not.mpr hsync)).trans ((if_neg (Nat.not_lt.mpr hlong)).trans
    ((if_neg (idcode_good hpart hrev)).trans (if_pos hshort))))

theorem opStreamHeader_of_whole (hlong : 512 ≤ m.cfg.len) : opStreamHeader m = (headerCheck m m.cfg.buf).elim
    (fun e => (m.cfgError 0 0).refuseHeader e.1 e.2)
    (fun h => if h.part then
        (((m.cfgError 0 0).setCfg { m.cfg with
          buf := m.cfg.buf / 2 ^ 512, len := m.cfg.len - 512, hdr := some h, seen := [], waits := [], got := [], lastOk := none, dropped := 0 }).wr F.cfgFramesOkCount 6 0).acceptPart h
      else
        (((m.cfgError 0 0).setCfg { m.cfg with
          buf := m.cfg.buf / 2 ^ 512, len := m.cfg.len - 512, hdr := some h, seen := [], waits := [], got := [], lastOk := none, dropped := 0 }).wr F.cfgFramesOkCount 6 0).acceptFull h) := by
  have hbegun : 64 ≤ m.cfg.len := Nat.le_trans (by decide) hlong
  refine (if_neg (opStreamHeader_judged hlen hstate)).trans ((if_neg (not_not.mpr hsync)).trans ((if_neg (Nat.not_lt.mpr hbegun)).trans
    ((if_neg (idcode_good hpart hrev)).trans ((if_neg (Nat.not_lt.mpr hlong)).trans ?_))))
  cases headerCheck m m.cfg.buf <;> rfl

end

end

end

/-! Frames (R308 to R312) -/

theorem opConfigFrame_of_none (h : m.cfg.hdr = none ∨ m.cfg.len < 4160 ∨ m.allTaken = true ∨ (m.retryWanted = true ∧ m.cfg.resend = false)) :
    opConfigFrame m = m := by
  cases hhdr : m.cfg.hdr with
  | none => simp only [opConfigFrame, hhdr]
  | some x =>
    have hstop := h.resolve_left (by simp [hhdr])
    rw [opConfigFrame, hhdr]
    by_cases hshort : m.cfg.len < 4160 ∨ m.allTaken = true
    · exact if_pos hshort
    · obtain ⟨hretry, hresend⟩ := (or_assoc.mpr hstop).resolve_left hshort
      exact (if_neg hshort).trans ((if_pos hretry).trans (if_pos (by simp [hresend])))

section
variable {h : CfgHdr} {w a data : Nat} {rest : Mach} (hhdr : m.cfg.hdr = some h) (hlen : 4160 ≤ m.cfg.len) (htaken : m.allTaken = false)
  (hw : w = m.cfg.buf % 2 ^ 4160) (ha : a = w % 2 ^ 32) (hdata : data = w / 2 ^ 32 % 2 ^ 4096)
  (hrest : rest = m.setCfg { m.cfg with buf := m.cfg.buf / 2 ^ 4160, len := m.cfg.len - 4160 })
include hhdr hlen htaken hw ha hdata hrest

/-- A whole frame: the frame resent while a retry is wanted, and the next frame else. -/
theorem opConfigFrame_of_whole : opConfigFrame m =
    if m.retryWanted then
      if !m.cfg.resend then m
      else if !(frameCrc w == w / 2 ^ 4128) ∨ a ≠ m.cfg.failed then m.cfgAbortWith 3 m.cfg.failed
      else if !h.covers a ∨ SMap.get 0 a m.cfg.seen ≠ 0 then
        (((rest.setCfg { rest.cfg with resend := false, dropped := 0 }).wr F.cfgStatusRetryWanted 6 0).setCfgState
          (if h.part then csPartial else csLoading)).cfgAbortWith 5 a
      else (((rest.setCfg { rest.cfg with resend := false, dropped := 0 }).wr F.cfgStatusRetryWanted 6 0).setCfgState
        (if h.part then csPartial else csLoading)).putFrame a data true
    else if !(frameCrc w == w / 2 ^ 4128) then
      if 4160 ≤ rest.cfg.len then
        (((rest.setCfg { rest.cfg with failed := a, dropped := rest.cfg.len, buf := 0, len := 0, resend := false }).wr F.cfgStatusRetryWanted 6 1).setCfgState
          csRetry).cfgAbortWith 3 a
      else ((rest.setCfg { rest.cfg with failed := a, dropped := rest.cfg.len, buf := 0, len := 0, resend := false }).wr F.cfgStatusRetryWanted 6 1).setCfgState
        csRetry
    else if !h.covers a ∨ SMap.get 0 a m.cfg.seen ≠ 0 then m.cfgAbortWith 5 a
    else rest.putFrame a data false := by
  have hwhole : ¬ (m.cfg.len < 4160 ∨ m.allTaken = true) := by
    rintro (hshort | hall)
    · exact Nat.not_lt.mpr hlen hshort
    · rw [htaken] at hall
      exact Bool.false_ne_true hall
  rw [hdata, ha, hw, hrest, opConfigFrame, hhdr]
  exact if_neg hwhole

section
variable (hretry : m.retryWanted = false)
include hretry

section
variable (hcrc : frameCrc w = w / 2 ^ 4128)
include hcrc

theorem opConfigFrame_of_good (hcovers : h.covers a = true) (hnew : SMap.get 0 a m.cfg.seen = 0) : opConfigFrame m = rest.putFrame a data false := by
  rw [opConfigFrame_of_whole hhdr hlen htaken hw ha hdata hrest, if_neg (by rw [hretry]; exact Bool.false_ne_true), if_neg (by rw [beq_iff_eq.mpr hcrc]; decide),
    if_neg (by rw [hcovers, hnew]; decide)]

theorem opConfigFrame_of_misplaced (hbad : h.covers a = false ∨ SMap.get 0 a m.cfg.seen ≠ 0) : opConfigFrame m = m.cfgAbortWith 5 a := by
  rw [opConfigFrame_of_whole hhdr hlen htaken hw ha hdata hrest, if_neg (by rw [hretry]; exact Bool.false_ne_true), if_neg (by rw [beq_iff_eq.mpr hcrc]; decide),
    if_pos (hbad.imp_left fun hcovers => by rw [hcovers]; rfl)]

end

theorem opConfigFrame_of_bad {m1 : Mach} (hcrc : frameCrc w ≠ w / 2 ^ 4128)
    (hm1 : m1 = ((rest.setCfg { rest.cfg with failed := a, dropped := rest.cfg.len, buf := 0, len := 0, resend := false }).wr
      F.cfgStatusRetryWanted 6 1).setCfgState csRetry) : opConfigFrame m = if 8320 ≤ m.cfg.len then m1.cfgAbortWith 3 a else m1 := by
  have hmany : 4160 ≤ rest.cfg.len ↔ 8320 ≤ m.cfg.len := by
    have hleft : rest.cfg.len = m.cfg.len - 4160 := by rw [hrest]; rfl
    rw [hleft]
    omega
  rw [opConfigFrame_of_whole hhdr hlen htaken hw ha hdata hrest, if_neg (by rw [hretry]; exact Bool.false_ne_true),
    if_pos (by rw [beq_eq_false_iff_ne.mpr hcrc]; rfl), ← hm1, if_congr hmany rfl rfl]

end

section
variable (hretry : m.retryWanted = true) (hresend : m.cfg.resend = true)
include hretry hresend

theorem opConfigFrame_of_resentBad (hbad : frameCrc w ≠ w / 2 ^ 4128 ∨ a ≠ m.cfg.failed) : opConfigFrame m = m.cfgAbortWith 3 m.cfg.failed := by
  rw [opConfigFrame_of_whole hhdr hlen htaken hw ha hdata hrest, if_pos hretry, if_neg (by rw [hresend]; decide),
    if_pos (hbad.imp_left fun hcrc => by rw [beq_eq_false_iff_ne.mpr hcrc]; rfl)]

section
variable {m1 : Mach} (hcrc : frameCrc w = w / 2 ^ 4128) (hsame : a = m.cfg.failed)
  (hm1 : m1 = ((rest.setCfg { rest.cfg with resend := false, dropped := 0 }).wr F.cfgStatusRetryWanted 6 0).setCfgState
    (if h.part then csPartial else csLoading))
include hcrc hsame hm1

theorem opConfigFrame_of_resent : opConfigFrame m =
    if !h.covers a ∨ SMap.get 0 a m.cfg.seen ≠ 0 then m1.cfgAbortWith 5 a else m1.putFrame a data true := by
  have hgood : ¬ ((!(frameCrc w == w / 2 ^ 4128)) = true ∨ a ≠ m.cfg.failed) := by
    rintro (h | h)
    · rw [beq_iff_eq.mpr hcrc] at h
      exact Bool.false_ne_true h
    · exact h hsame
  rw [opConfigFrame_of_whole hhdr hlen htaken hw ha hdata hrest, if_pos hretry, if_neg (by rw [hresend]; decide), if_neg hgood, ← hm1]

theorem opConfigFrame_of_resentGood (hcovers : h.covers a = true) (hnew : SMap.get 0 a m.cfg.seen = 0) : opConfigFrame m = m1.putFrame a data true := by
  rw [opConfigFrame_of_resent hhdr hlen htaken hw ha hdata hrest hretry hresend hcrc hsame hm1, if_neg (by rw [hcovers, hnew]; decide)]

theorem opConfigFrame_of_resentMisplaced (hbad : h.covers a = false ∨ SMap.get 0 a m.cfg.seen ≠ 0) : opConfigFrame m = m1.cfgAbortWith 5 a := by
  rw [opConfigFrame_of_resent hhdr hlen htaken hw ha hdata hrest hretry hresend hcrc hsame hm1,
    if_pos (hbad.imp_left fun hcovers => by rw [hcovers]; rfl)]

end

end

end

/-! Verified frames (R309) -/

theorem opFrameVerified_of_none (h : m.cfg.hdr = none ∨ m.cfg.waits = []) : opFrameVerified m = m := by
  rcases h with h | h
  · simp only [opFrameVerified, h]
  · cases hhdr : m.cfg.hdr <;> simp only [opFrameVerified, h, hhdr]

section
variable {h : CfgHdr} {a n : Nat} {re : Bool} {l : List (Nat × Bool)} {m1 m2 m3 : Mach} (hhdr : m.cfg.hdr = some h) (hwaits : m.cfg.waits = (a, re) :: l)
  (hn : n = SMap.get 0 (a / 2 ^ 24) m.cfg.got + 1)
  (hm1 : m1 = (m.setCfg { m.cfg with waits := l, got := SMap.put 0 (a / 2 ^ 24) n m.cfg.got, lastOk := some a }).wrap F.cfgFramesOkCount 6 1)
  (hm2 : m2 = (if re then m1.cnt F.cfgRetries 6 1 else m1))
  (hm3 : m3 = (if a / 2 ^ 24 % 32 < 24 ∧ n = regionFrames (a / 2 ^ 24 % 32) then
    m2.wr F.frStatusConfigured (rgnIx (a / 2 ^ 24 / 32) (a / 2 ^ 24 % 32)) 1 else m2))
include hhdr hwaits hn hm1 hm2 hm3

theorem opFrameVerified_of_oldest : opFrameVerified m = if m3.rd F.cfgFramesOkCount 6 = h.count ∧ !h.part then
    ((m3.wr F.cfgStatusDoneOut 6 1).wr F.cfgStatusDiesConfigured 6 (m3.rd F.cfgStatusDiesConfigured 6 ||| h.dies)).setCfgState csWaitDone else m3 := by
  rw [hm3, hm2, hm1, hn, opFrameVerified, hhdr, hwaits]

theorem opFrameVerified_of_more (hmore : m3.rd F.cfgFramesOkCount 6 ≠ h.count ∨ h.part = true) : opFrameVerified m = m3 := by
  rw [opFrameVerified_of_oldest hhdr hwaits hn hm1 hm2 hm3, if_neg]
  rintro ⟨hcount, hfull⟩
  rcases hmore with hmore | hpart
  · exact hmore hcount
  · rw [hpart] at hfull
    exact Bool.false_ne_true hfull

theorem opFrameVerified_of_last (hcount : m3.rd F.cfgFramesOkCount 6 = h.count) (hpart : h.part = false) : opFrameVerified m =
    ((m3.wr F.cfgStatusDoneOut 6 1).wr F.cfgStatusDiesConfigured 6 (m3.rd F.cfgStatusDiesConfigured 6 ||| h.dies)).setCfgState csWaitDone := by
  rw [opFrameVerified_of_oldest hhdr hwaits hn hm1 hm2 hm3, if_pos ⟨hcount, by rw [hpart]; rfl⟩]

end

/-! Start-up (R317, R319 to R322) -/

section
variable {vio : List Nat} {loads : List (Nat × Nat × Nat)}

theorem opConfigStartup_of_none (h : m.cfg.hdr = none ∨ m.cfgState ≠ csWaitDone) : opConfigStartup vio loads m = m := by
  cases hhdr : m.cfg.hdr with
  | none => simp only [opConfigStartup, hhdr]
  | some x => simp only [opConfigStartup, hhdr, if_pos (h.resolve_left (by simp [hhdr]))]

theorem opConfigStartup_of_done {h : CfgHdr} {m0 m1 : Mach} (hhdr : m.cfg.hdr = some h) (hstate : m.cfgState = csWaitDone)
    (hm0 : m0 = (diesOf h.dies).foldl (fun m d => (upFrom 0 8).foldl (fun m b => if bankDie b = d then
      m.wr F.ioBankStatusVioDecl (ioIx b) (m.cfgNum d 31 5 0 8 (100 + 2 * b) 2) else m) (m.startPll d)) (m.wr F.cfgStatusDoneIn 6 1))
    (hm1 : m1 = (diesOf h.dies).foldl (fun m d => m.dieHand d) (m0.startRegions h.regionList vio loads)) :
    opConfigStartup vio loads m = (m1.wr F.cfgDesignId 6 h.design).cfgDrop.setCfgState csStarted := by
  simp only [opConfigStartup, hhdr, if_neg (not_not.mpr hstate), ← hm0, ← hm1]

section
variable {h : CfgHdr} (hhdr : m.cfg.hdr = some h)
include hhdr

theorem opPartialRegionStart_eq : opPartialRegionStart vio loads m =
    if m.cfgState ≠ csPartial ∨ m.rd F.cfgFramesOkCount 6 < h.count ∨
      h.regionList.any (fun x => (rgnFnis x.2).any (fun f => !(m.fni (32 * x.1 + f)).tags.isEmpty)) then m
    else (m.startRegions h.regionList vio loads).cfgDrop.setCfgState csStarted := by
  simp only [opPartialRegionStart, hhdr]

omit hhdr in
theorem fnisOpen_iff : h.regionList.any (fun x => (rgnFnis x.2).any (fun f => !(m.fni (32 * x.1 + f)).tags.isEmpty)) = true ↔
    ∃ x ∈ h.regionList, ∃ f ∈ rgnFnis x.2, (m.fni (32 * x.1 + f)).tags ≠ [] := by
  simp

theorem opPartialRegionStart_of_done (hstate : m.cfgState = csPartial) (hcount : h.count ≤ m.rd F.cfgFramesOkCount 6)
    (hfnis : ∀ x ∈ h.regionList, ∀ f ∈ rgnFnis x.2, (m.fni (32 * x.1 + f)).tags = []) :
    opPartialRegionStart vio loads m = (m.startRegions h.regionList vio loads).cfgDrop.setCfgState csStarted := by
  rw [opPartialRegionStart_eq hhdr, if_neg]
  rintro (hother | hmore | hopen)
  · exact hother hstate
  · exact Nat.not_lt.mpr hcount hmore
  · obtain ⟨x, hx, f, hf, htags⟩ := fnisOpen_iff.mp hopen
    exact htags (hfnis x hx f hf)

end

theorem opPartialRegionStart_of_none (hwait : m.cfg.hdr = none ∨ m.cfgState ≠ csPartial ∨ (∃ h, m.cfg.hdr = some h ∧
      (m.rd F.cfgFramesOkCount 6 < h.count ∨ ∃ x ∈ h.regionList, ∃ f ∈ rgnFnis x.2, (m.fni (32 * x.1 + f)).tags ≠ []))) :
    opPartialRegionStart vio loads m = m := by
  cases hhdr : m.cfg.hdr with
  | none => simp only [opPartialRegionStart, hhdr]
  | some x =>
    rw [opPartialRegionStart_eq hhdr]
    rw [hhdr] at hwait
    rcases hwait with hnone | hother | ⟨h, hh, hmore⟩
    · cases hnone
    · exact if_pos (Or.inl hother)
    · cases hh
      exact if_pos (Or.inr (hmore.imp_right fnisOpen_iff.mpr))

end

/-! The gap and the backstop (R310, R313) -/

section
variable {missing : Prop} (hmissing : missing ↔ (m.cfg.hdr = none ∨ ∃ h, m.cfg.hdr = some h ∧ m.rd F.cfgFramesOkCount 6 < h.count))
include hmissing

theorem framesMissing_iff : (m.cfg.hdr.elim true fun h => decide (m.rd F.cfgFramesOkCount 6 < h.count)) = true ↔ missing := by
  rw [hmissing]
  cases m.cfg.hdr <;> simp

omit hmissing in
theorem opGapTimeout_eq : opGapTimeout m = if !m.cfgBusy ∨ !(m.cfg.hdr.elim true fun h => decide (m.rd F.cfgFramesOkCount 6 < h.count)) then m
    else if m.retryWanted then m.cfgAbortWith 3 m.cfg.failed else m.cfgAbortWith 4 m.lastVerified := by
  rw [opGapTimeout]
  cases m.cfg.hdr <;> rfl

theorem opGapTimeout_of_missing (hbusy : m.cfgBusy = true) (hmiss : missing) :
    opGapTimeout m = if m.retryWanted then m.cfgAbortWith 3 m.cfg.failed else m.cfgAbortWith 4 m.lastVerified := by
  rw [opGapTimeout_eq, hbusy, (framesMissing_iff hmissing).mpr hmiss]
  exact if_neg (by decide)

theorem opGapTimeout_of_none (h : m.cfgBusy = false ∨ ¬missing) : opGapTimeout m = m := by
  rw [opGapTimeout_eq]
  refine if_pos (h.imp (fun h => by rw [h]; rfl) fun h => ?_)
  rw [Bool.eq_false_iff.mpr (fun heq => h ((framesMissing_iff hmissing).mp heq))]
  rfl

end

theorem opTckBackstop_of_load (h : m.cfgBusy = true ∨ m.cfgState = csWaitDone) : opTckBackstop m = m.cfgAbortWith 4 m.lastVerified := if_pos h

theorem opTckBackstop_of_none (hbusy : m.cfgBusy = false) (hwait : m.cfgState ≠ csWaitDone) : opTckBackstop m = m := by
  refine if_neg ?_
  rintro (h | h)
  · rw [hbusy] at h
    exact Bool.false_ne_true h
  · exact hwait h

end

/-- Settles O36, command by command. -/
theorem fabricLoading : Obligations.FabricLoading := by
  unfold Obligations.FabricLoading
  constructor
  · rintro s v halive rfl
    refine ⟨fun m code fail => ⟨Mach.refuseHeader_of_header, Mach.refuseHeader_of_other⟩, fun h => State.on_of_same (opStreamHeader_of_none h),
      fun hlen hstate => ⟨fun hsync => State.on_of_eq halive (opStreamHeader_of_noSync hlen hstate hsync), fun hsync => ⟨_, rfl,
        fun hshort => State.on_of_eq halive (opStreamHeader_of_sync hlen hstate hsync hshort),
        fun hlong hid => State.on_of_eq halive (opStreamHeader_of_otherPart hlen hstate hsync hlong hid),
        fun hpart hrev => ⟨fun hlong hshort => State.on_of_eq halive (opStreamHeader_of_begun hlen hstate hsync hpart hrev hlong hshort),
          fun e hlong hcheck => State.on_of_eq halive ?_, fun h hlong hcheck => ⟨_, rfl, State.on_of_eq halive ?_⟩⟩⟩⟩,
      fun h => State.on_of_same (opConfigFrame_of_none h),
      fun h w a data rest hhdr hlen htaken hw ha hdata hrest => ⟨fun hretry hcrc => ⟨
          fun hcovers hnew => State.on_of_eq halive (opConfigFrame_of_good hhdr hlen htaken hw ha hdata hrest hretry hcrc hcovers hnew),
          fun hbad => State.on_of_eq halive (opConfigFrame_of_misplaced hhdr hlen htaken hw ha hdata hrest hretry hcrc hbad)⟩,
        fun hretry hcrc => ⟨_, rfl, State.on_of_eq halive (opConfigFrame_of_bad hhdr hlen htaken hw ha hdata hrest hretry hcrc rfl)⟩,
        fun hretry hresend => ⟨
          fun hbad => State.on_of_eq halive (opConfigFrame_of_resentBad hhdr hlen htaken hw ha hdata hrest hretry hresend hbad),
          fun hcrc hsame => ⟨_, rfl,
            fun hcovers hnew => State.on_of_eq halive
              (opConfigFrame_of_resentGood hhdr hlen htaken hw ha hdata hrest hretry hresend hcrc hsame rfl hcovers hnew),
            fun hbad => State.on_of_eq halive
              (opConfigFrame_of_resentMisplaced hhdr hlen htaken hw ha hdata hrest hretry hresend hcrc hsame rfl hbad)⟩⟩⟩,
      fun h => State.on_of_same (opFrameVerified_of_none h),
      fun h a re l n hhdr hwaits hn => ⟨_, _, _, rfl, rfl, rfl,
        fun hmore => State.on_of_eq halive (opFrameVerified_of_more hhdr hwaits hn rfl rfl rfl hmore),
        fun hcount hpart => State.on_of_eq halive (opFrameVerified_of_last hhdr hwaits hn rfl rfl rfl hcount hpart)⟩,
      fun vio loads h => State.on_of_same (opConfigStartup_of_none h),
      fun h vio loads m0 m1 hhdr hstate hm0 hm1 => State.on_of_eq halive (opConfigStartup_of_done hhdr hstate hm0 hm1),
      fun vio loads h => State.on_of_same (opPartialRegionStart_of_none h),
      fun h vio loads hhdr hstate hcount hfnis => State.on_of_eq halive (opPartialRegionStart_of_done hhdr hstate hcount hfnis)⟩
    · rw [opStreamHeader_of_whole hlen hstate hsync hpart hrev hlong, hcheck]
      rfl
    · rw [opStreamHeader_of_whole hlen hstate hsync hpart hrev hlong, hcheck]
      rfl
  · exact fun s missing halive hmissing => ⟨
      fun hbusy hmiss hretry => State.on_of_eq halive ((opGapTimeout_of_missing hmissing hbusy hmiss).trans (if_neg (by rw [hretry]; exact Bool.false_ne_true))),
      fun hbusy hmiss hretry => State.on_of_eq halive ((opGapTimeout_of_missing hmissing hbusy hmiss).trans (if_pos hretry)),
      fun h => State.on_of_same (opGapTimeout_of_none hmissing h), fun h => State.on_of_eq halive (opTckBackstop_of_load h),
      fun hbusy hwait => State.on_of_same (opTckBackstop_of_none hbusy hwait)⟩

end Sys2Proof.Machine
end

section
/-! Messages on the host link (15 R357, R358, R360 to R363, R365, R371, R372, R374). -/

namespace Sys2Proof.Machine

section
variable {m : Mach}

/-! While nothing is attached no message arrives (R357) -/

section
variable (hoff : m.attached = false)
include hoff

theorem opWindowSet_of_detached {w size tag : Nat} {r wr : Bool} : opWindowSet w size r wr tag m = m := if_pos (by simp [hoff])

theorem opWindowClear_of_detached {w tag : Nat} : opWindowClear w tag m = m := if_pos (by simp [hoff])

theorem opSqDoorbell_of_detached {r i tag : Nat} : opSqDoorbell r i tag m = m := if_pos (by simp [hoff])

theorem opCqDoorbell_of_detached {r i tag : Nat} : opCqDoorbell r i tag m = m := if_pos (by simp [hoff])

theorem opHello_of_detached {v tag : Nat} : opHello v tag m = m := if_pos (by simp [hoff])

theorem opHeldRead_of_detached {n tag : Nat} : opHeldRead n tag m = m := if_pos (by simp [hoff])

theorem opEvent_of_detached : opEvent m = m := if_pos (by simp [hoff])

theorem opKeepalive_of_detached {ok : Bool} : opKeepalive ok m = m := if_neg (by simp [hoff])

theorem Mach.hostAnswer_of_detached {write ok : Bool} {tag st : Nat} {data : List Byte} : m.hostAnswer write tag st data ok = m := if_pos (by simp [hoff])

end

section
variable (hatt : m.attached = true)
include hatt

theorem Mach.not_detached : ¬ ((!m.attached) = true) := by simp [hatt]

/-! Windows (R360, R361) -/

section
variable {w size tag : Nat} {r wr : Bool}

theorem opWindowSet_of_bad (hbad : size < 4096 ∨ 2 ^ 32 < size ∨ size % 4096 ≠ 0 ∨ (r = false ∧ wr = false)) :
    opWindowSet w size r wr tag m = m.regAck tag w (size + 2 ^ 33 * b2n r + 2 ^ 34 * b2n wr) 1 := by
  refine (if_neg (Mach.not_detached hatt)).trans (if_pos (hbad.imp_right (Or.imp_right (Or.imp_right ?_))))
  rintro ⟨rfl, rfl⟩
  rfl

theorem opWindowSet_of_good (hsmall : 4096 ≤ size) (hlarge : size ≤ 2 ^ 32) (hpages : size % 4096 = 0) (hdir : r = true ∨ wr = true) :
    opWindowSet w size r wr tag m = ((((m.wr F.hlWinValid (winIx w) 1).wr F.hlWinRead (winIx w) (b2n r)).wr F.hlWinWrite (winIx w) (b2n wr)).wr F.hlWinSize4k
      (winIx w) (size / 4096)).regAck tag w (size + 2 ^ 33 * b2n r + 2 ^ 34 * b2n wr) 0 := by
  refine (if_neg (Mach.not_detached hatt)).trans (if_neg ?_)
  rintro (h | h | h | h)
  · exact Nat.not_lt.mpr hsmall h
  · exact Nat.not_lt.mpr hlarge h
  · exact h hpages
  · rcases hdir with hdir | hdir <;> simp [hdir] at h

theorem opWindowClear_of_attached : opWindowClear w tag m = ((m.clearWindow w).stopRings w).regAck tag w 0 0 := if_neg (Mach.not_detached hatt)

end

/-! Doorbells (R357, R365, R371, R372) -/

section
variable {r i tag : Nat}

omit hatt in
theorem bellArg_sq : bellArg 0 r i = i + 2 ^ 32 * r := rfl

omit hatt in
theorem bellArg_cq : bellArg 1 r i = i + 2 ^ 32 * r + 2 ^ 40 := rfl

theorem opSqDoorbell_of_good (hspeed : m.highSpeed = false) (hroom : sub32 i (m.rd F.sqHead (ringIx r)) ≤ sqSize m r)
    (hfront : sub32 i (m.rd F.sqTail (ringIx r)) < 2 ^ 31) :
    opSqDoorbell r i tag m = (m.wr F.sqTail (ringIx r) i).regAck tag 0 (i + 2 ^ 32 * r) 0 := by
  refine (if_neg (Mach.not_detached hatt)).trans ((if_neg ?_).trans (by rw [bellArg_sq]))
  rw [hspeed, decide_eq_false (Nat.not_lt.mpr hroom), decide_eq_false (Nat.not_le.mpr hfront)]
  exact Bool.false_ne_true

theorem opSqDoorbell_of_bad (hbad : m.highSpeed = true ∨ sqSize m r < sub32 i (m.rd F.sqHead (ringIx r)) ∨
      2 ^ 31 ≤ sub32 i (m.rd F.sqTail (ringIx r))) :
    opSqDoorbell r i tag m = (m.ev F.hlEventsBadDoorbell kp).regAck tag 0 (i + 2 ^ 32 * r) 1 := by
  refine (if_neg (Mach.not_detached hatt)).trans ((if_pos ?_).trans (by rw [bellArg_sq]))
  rcases hbad with h | h | h
  · rw [h]
    rfl
  · rw [decide_eq_true h, Bool.or_true, Bool.true_or]
  · rw [decide_eq_true h, Bool.or_true]

theorem opCqDoorbell_of_good {m1 : Mach} (hspeed : m.highSpeed = false) (hroom : sub32 (m.rd F.cqTail (ringIx r)) i ≤ cqSize m r)
    (hm1 : m1 = { m with hl := { m.hl with evSent := clearBit r m.hl.evSent } }) :
    opCqDoorbell r i tag m = (m1.wr F.cqHead (ringIx r) i).regAck tag 0 (i + 2 ^ 32 * r + 2 ^ 40) 0 := by
  refine (if_neg (Mach.not_detached hatt)).trans ((if_neg ?_).trans (by rw [bellArg_cq, hm1]))
  rw [hspeed, decide_eq_false (Nat.not_lt.mpr hroom)]
  exact Bool.false_ne_true

theorem opCqDoorbell_of_bad (hbad : m.highSpeed = true ∨ cqSize m r < sub32 (m.rd F.cqTail (ringIx r)) i) :
    opCqDoorbell r i tag m = (m.ev F.hlEventsBadDoorbell kp).regAck tag 0 (i + 2 ^ 32 * r + 2 ^ 40) 1 := by
  refine (if_neg (Mach.not_detached hatt)).trans ((if_pos ?_).trans (by rw [bellArg_cq]))
  rcases hbad with h | h
  · rw [h]
    rfl
  · rw [decide_eq_true h, Bool.or_true]

end

/-! HELLO and HELD_READ (R374) -/

theorem opHello_of_attached {v tag ms rel : Nat} {m1 m2 m3 : Mach} (hms : ms = m.hl.absentAt.elim 0 (fun t => (m.usec - t) / 1000))
    (hrel : rel = m.rd F.fwReleaseRef 6) (hm1 : m1 = m.wr F.hostVersion 6 v)
    (hm2 : m2 = { m1 with
      hl := { m1.hl with absentAt := none }, alm := { m1.alm with jobs := m1.alm.jobs.map (fun (j : Job) => { j with grace := none }) } })
    (hm3 : m3 = (if m.absent then (m2.wr F.hlStatusHostAbsent 6 0).wr F.hlAbsentMs 6 ms else m1)) : opHello v tag m =
      m3.send (.peneb 0xA0 0 tag 0 rel (leBytes 4 ms ++ leBytes 4 m.hl.held.length ++ leBytes 4 (m.rd F.hlHeldLost 6) ++ leBytes 4 rel ++
        List.replicate 16 0)) := by
  rw [hm3, hm2, hm1, hrel, hms]
  refine (if_neg (Mach.not_detached hatt)).trans ?_
  cases m.hl.absentAt <;> rfl

section
variable {n tag : Nat}

theorem opHeldRead_of_some (hpos : 0 < n) (hfew : n ≤ 64) : opHeldRead n tag m = ({ m with hl := { m.hl with held := m.hl.held.drop n } } : Mach).send
    (.peneb 0xA6 0 tag 0 (m.hl.held.take n).length ((m.hl.held.take n).flatMap (fun c => c.bytes))) := by
  refine (if_neg (Mach.not_detached hatt)).trans (if_neg ?_)
  omega

theorem opHeldRead_of_bad (hbad : n = 0 ∨ 64 < n) : opHeldRead n tag m = m.send (.peneb 0xA6 1 tag 0 0 []) :=
  (if_neg (Mach.not_detached hatt)).trans (if_pos hbad)

end

/-! Events and the keep-alive -/

theorem opEvent_of_oldest {e : HostEvent} {l : List HostEvent} (hevents : m.hl.events = e :: l) :
    opEvent m = ({ m with hl := { m.hl with events := l } } : Mach).send (.peneb 0xC0 e.kind e.tag 0 e.arg []) := by
  refine (if_neg (Mach.not_detached hatt)).trans ?_
  rw [hevents]
  rfl

omit hatt in
theorem opKeepalive_good : opKeepalive true m = m := if_neg (by simp)

theorem opKeepalive_bad : opKeepalive false m = m.ev F.hlEventsBadResponse 6 := if_pos (by simp [hatt])

/-! Responses (R358, R363) -/

section
variable {tag st g : Nat} {data : List Byte} {write : Bool}

theorem Mach.hostAnswer_of_none {ok : Bool} (hnone : m.hl.outst = [] ∨ ok = false) :
    m.hostAnswer write tag st data ok = m.ev F.hlEventsBadResponse 6 := by
  refine (if_neg (Mach.not_detached hatt)).trans ?_
  cases ok with
  | false => rfl
  | true =>
    rw [hnone.resolve_right (by decide)]
    rfl

section
variable {r : HostReq} {l : List (Nat × HostReq)} (hout : m.hl.outst = (tag, r) :: l)
include hout

theorem Mach.hostAnswer_of_oldest {m1 : Mach} (hm1 : m1 = { m with hl := { m.hl with outst := l } }) (hkind : r.write.isSome = write) :
    m.hostAnswer write tag st data true = if st = 0 then m1.reqDone r data else m1.reqFail r := by
  refine (if_neg (Mach.not_detached hatt)).trans ((if_neg (by decide)).trans ?_)
  rw [hout, hm1]
  exact if_neg (by simp [hkind])

theorem Mach.hostAnswer_of_other {m2 : Mach} (hm2 : m2 = { m with hl := { m.hl with outst := [] } }) (hother : g ≠ tag ∨ r.write.isSome ≠ write) :
    m.hostAnswer write g st data true = (m2.reqFails (r :: l.map (fun x => x.2))).ev F.hlEventsBadResponse 6 := by
  refine (if_neg (Mach.not_detached hatt)).trans ((if_neg (by decide)).trans ?_)
  simp only [hout, hm2, if_pos (hother.imp_left Ne.symm), List.map_cons]
  rfl

end

end

end

/-! Requests (R358, R362) -/

section
variable {i : Nat} {write : Bool}

theorem Mach.reqSend_of_none (hnone : m.hl.waiting.find? (fun r => r.idx == i) = none ∨ (m.arb .proxy).holder.map (fun h => h.idx) ≠ some i ∨
      64 ≤ m.hl.outst.length) : m.reqSend i write = m := by
  cases hfind : m.hl.waiting.find? (fun r => r.idx == i) with
  | none => simp only [Mach.reqSend, hfind]
  | some r =>
    rw [Mach.reqSend, hfind]
    refine if_pos ?_
    rcases hnone with h | h | h
    · rw [hfind] at h
      cases h
    · simp [h]
    · simp [h]

section
variable {r : HostReq} {hh : Holder} {m2 : Mach} (hfind : m.hl.waiting.find? (fun r => r.idx == i) = some r) (hholder : (m.arb .proxy).holder = some hh)
  (hidx : hh.idx = i) (hroom : m.hl.outst.length < 64)
  (hm2 : m2 = ({ m with hl := { m.hl with waiting := m.hl.waiting.erase r } } : Mach).setArb .proxy { (m.arb .proxy) with holder := none })
include hfind

theorem Mach.reqSend_of_otherKind (hkind : r.write.isSome ≠ write) : m.reqSend i write = m := by
  rw [Mach.reqSend, hfind]
  exact if_pos (by simp [hkind])

include hholder hidx hroom hm2

theorem Mach.reqSend_of_granted (hkind : r.write.isSome = write) : m.reqSend i write = m2.pipe r := by
  rw [Mach.reqSend, hfind, hm2]
  exact if_neg (by simp [hkind, hholder, hidx, hroom])

end

section
variable {r : HostReq}

theorem Mach.pipe_of_closed (hclosed : m.absent = true ∨ m.attached = false ∨ m.highSpeed = true ∨ m.winTakes r = false) : m.pipe r = m.reqFail r := by
  refine if_pos ?_
  rcases hclosed with h | h | h | h <;> simp [h]

section
variable {m1 : Mach} (hpresent : m.absent = false) (hatt : m.attached = true) (hspeed : m.highSpeed = false) (htakes : m.winTakes r = true)
  (hm1 : m1 = { m with hl := { m.hl with outst := m.hl.outst ++ [(m.hl.nextTag, r)], nextTag := (m.hl.nextTag + 1) % 65536 } })
include hpresent hatt hspeed htakes hm1

theorem Mach.pipe_of_open : m.pipe r = m1.peneb (if r.write.isSome then 0x02 else 0x01) 0 m.hl.nextTag r.win
    (if r.write.isSome then r.off else r.off + r.len * 2 ^ 48) (r.write.getD []) := by
  rw [hm1]
  exact if_neg (by simp [hpresent, hatt, hspeed, htakes])

theorem Mach.pipe_of_read (hread : r.write = none) : m.pipe r = m1.send (.peneb 0x01 0 m.hl.nextTag r.win (r.off + r.len * 2 ^ 48) []) := by
  rw [Mach.pipe_of_open hpresent hatt hspeed htakes hm1, hread]
  rfl

theorem Mach.pipe_of_write {data : List Byte} (hwrite : r.write = some data) :
    m.pipe r = m1.send (.peneb 0x02 0 m.hl.nextTag r.win r.off data) := by
  rw [Mach.pipe_of_open hpresent hatt hspeed htakes hm1, hwrite]
  rfl

end

end

end

end

/-- Settles O37, message by message. -/
theorem hostLinkMessages : Obligations.HostLinkMessages := by
  unfold Obligations.HostLinkMessages
  intro s halive
  refine ⟨fun hatt g => ⟨?_, fun w => State.on_of_eq halive (opWindowClear_of_attached hatt), ?_, ?_,
      fun n hpos hfew => ⟨_, rfl, State.on_of_eq halive (opHeldRead_of_some hatt hpos hfew)⟩,
      fun n hbad => State.on_of_eq halive (opHeldRead_of_bad hatt hbad)⟩,
    fun hatt => ⟨fun e l hevents => ⟨_, rfl, State.on_of_eq halive (opEvent_of_oldest hatt hevents)⟩, State.on_of_same opKeepalive_good,
      State.on_of_eq halive (opKeepalive_bad hatt), ?_,
      fun tag st data ok hnone => ⟨State.on_of_eq halive (Mach.hostAnswer_of_none hatt hnone), State.on_of_eq halive (Mach.hostAnswer_of_none hatt hnone)⟩⟩,
    fun hoff => ⟨fun w size r wr g => State.on_of_same (opWindowSet_of_detached hoff), fun w g => State.on_of_same (opWindowClear_of_detached hoff),
      fun r i g => ⟨State.on_of_same (opSqDoorbell_of_detached hoff), State.on_of_same (opCqDoorbell_of_detached hoff)⟩,
      fun v g => State.on_of_same (opHello_of_detached hoff), fun n g => State.on_of_same (opHeldRead_of_detached hoff),
      State.on_of_same (opEvent_of_detached hoff), fun ok => State.on_of_same (opKeepalive_of_detached hoff),
      fun tag st data ok => ⟨State.on_of_same (Mach.hostAnswer_of_detached hoff), State.on_of_same (Mach.hostAnswer_of_detached hoff)⟩⟩,
    fun i hnone => ⟨State.on_of_same (Mach.reqSend_of_none hnone), State.on_of_same (Mach.reqSend_of_none hnone)⟩, ?_,
    fun m r => ⟨Mach.pipe_of_closed, fun m1 hpresent hatt hspeed htakes hm1 => ⟨Mach.pipe_of_read hpresent hatt hspeed htakes hm1,
      fun data => Mach.pipe_of_write hpresent hatt hspeed htakes hm1⟩⟩⟩
  · rintro w size r wr arg rfl
    exact ⟨fun hbad => State.on_of_eq halive (opWindowSet_of_bad hatt hbad),
      fun hsmall hlarge hpages hdir => State.on_of_eq halive (opWindowSet_of_good hatt hsmall hlarge hpages hdir)⟩
  · rintro r i q rfl
    exact ⟨fun hspeed hroom hfront => State.on_of_eq halive (opSqDoorbell_of_good hatt hspeed hroom hfront),
      fun hbad => State.on_of_eq halive (opSqDoorbell_of_bad hatt hbad),
      fun m1 hspeed hroom hm1 => State.on_of_eq halive (opCqDoorbell_of_good hatt hspeed hroom hm1),
      fun hbad => State.on_of_eq halive (opCqDoorbell_of_bad hatt hbad)⟩
  · intro v ms rel hms hrel
    have hms' : ms = s.m.hl.absentAt.elim 0 (fun t => (s.m.usec - t) / 1000) := by
      rw [hms]
      cases s.m.hl.absentAt <;> rfl
    exact ⟨_, _, _, rfl, rfl, rfl, State.on_of_eq halive (opHello_of_attached hatt hms' hrel rfl rfl rfl)⟩
  · intro tag st data r l m1 m2 hout hm1 hm2
    exact ⟨fun hread => State.on_of_eq halive (Mach.hostAnswer_of_oldest hatt hout hm1 (by rw [hread]; rfl)),
      fun hwrite => State.on_of_eq halive (Mach.hostAnswer_of_oldest hatt hout hm1 hwrite),
      fun g hother => State.on_of_eq halive (Mach.hostAnswer_of_other hatt hout hm2 (hother.imp_right fun hread => by simp [hread])),
      fun g hother => State.on_of_eq halive (Mach.hostAnswer_of_other hatt hout hm2 (hother.imp_right fun hwrite => by simp [hwrite]))⟩
  · rintro i r hh m1 m2 hfind hholder hidx hroom rfl hm2
    exact ⟨fun hread => ⟨State.on_of_eq halive (Mach.reqSend_of_granted hfind hholder hidx hroom hm2 (by rw [hread]; rfl)),
        State.on_of_same (Mach.reqSend_of_otherKind hfind (by simp [hread]))⟩,
      fun hwrite => ⟨State.on_of_eq halive (Mach.reqSend_of_granted hfind hholder hidx hroom hm2 hwrite),
        State.on_of_same (Mach.reqSend_of_otherKind hfind (by simp [hwrite]))⟩⟩

end Sys2Proof.Machine
end

section
/-! The host's presence and the rings (15 R354, R356, R365, R369 to R371, R373). -/

namespace Sys2Proof.Machine

section
variable {m : Mach}

/-! What failing requests, holding records and clearing windows leave (R373) -/

/-- The parts of the link that a failed request and a held record leave: the requests themselves, the records formed and the time. -/
def Mach.linkView (m : Mach) : List (Nat × HostReq) × List HostReq × List CRec × Nat := (m.hl.outst, m.hl.waiting, m.hl.formed, m.ticks)

@[simp] theorem Mach.holdRec_linkView (m : Mach) (c : CRec) : (m.holdRec c).linkView = m.linkView := by
  unfold Mach.holdRec
  split <;> rfl

theorem Mach.clearWindow_linkView (m : Mach) (w : Nat) : (m.clearWindow w).linkView = m.linkView := rfl

theorem Mach.reqFail_linkView (m : Mach) (r : HostReq) : (m.reqFail r).linkView = m.linkView := by
  cases hwhy : r.why with
  | fetch k => simp only [Mach.reqFail, hwhy]
  | io k =>
    simp only [Mach.reqFail, hwhy]
    rfl
  | record ring =>
    cases hrec : m.hl.recs.find? (fun c => c.ring == ring) with
    | none => simp only [Mach.reqFail, hwhy, hrec]
    | some c =>
      simp only [Mach.reqFail, hwhy, hrec, Mach.holdRec_linkView]
      rfl

theorem Mach.reqFails_linkView (m : Mach) (l : List HostReq) : (m.reqFails l).linkView = m.linkView := by
  induction l generalizing m with
  | nil => rfl
  | cons r l ih => rw [Mach.reqFails, ih, Mach.reqFail_linkView]

theorem winIx_lt {w : Nat} (h : w < 16) : winIx w < 2 ^ 24 := by
  simp only [winIx, ix]
  omega

theorem winIx_inj {v w : Nat} (h : winIx v = winIx w) : v = w := by
  simp only [winIx, ix] at h
  omega

theorem Mach.clearWindow_valid (m : Mach) (w : Nat) : (m.clearWindow w).rd F.hlWinValid (winIx w) = 0 := by
  simp (disch := decide) [Mach.clearWindow, Mach.rd_wr_ne]

theorem Mach.clearWindow_valid_other (m : Mach) {v w : Nat} (hv : v < 16) (hw : w < 16) (hne : v ≠ w) :
    (m.clearWindow w).rd F.hlWinValid (winIx v) = m.rd F.hlWinValid (winIx v) := by
  have hvp := winIx_lt hv
  have hwp := winIx_lt hw
  simp only [Mach.clearWindow]
  rw [Mach.rd_wr_of_id_ne _ _ (by decide) hvp hwp, Mach.rd_wr_of_id_ne _ _ (by decide) hvp hwp, Mach.rd_wr_of_id_ne _ _ (by decide) hvp hwp,
    Mach.rd_wr_of_place_ne _ _ _ (fun h => hne (winIx_inj h)) hvp hwp]

/-- Clearing windows one after another: each that the list names is not valid after it. -/
theorem Mach.clearWindows_valid (l : List Nat) (hl : ∀ w ∈ l, w < 16) (m : Mach) {v : Nat} (hv : v < 16) (h : v ∈ l ∨ m.rd F.hlWinValid (winIx v) = 0) :
    (l.foldl (fun m w => m.clearWindow w) m).rd F.hlWinValid (winIx v) = 0 := by
  induction l generalizing m with
  | nil => exact h.resolve_left (by simp)
  | cons w l ih =>
    refine ih (fun x hx => hl x (List.mem_cons_of_mem _ hx)) (m.clearWindow w) ?_
    by_cases hvw : v = w
    · exact Or.inr (hvw ▸ m.clearWindow_valid w)
    · rw [m.clearWindow_valid_other hv (hl w List.mem_cons_self) hvw]
      exact h.imp_left fun hmem => (List.mem_cons.mp hmem).resolve_left hvw

/-- The link once what was outstanding has failed, what was formed is held and the windows are cleared. -/
def Mach.linkEnded (m : Mach) : Mach :=
  let m1 : Mach := ({ m.setArb .proxy { m.arb .proxy with holder := none, suspended := none } with
    hl := { m.hl with outst := [], waiting := [] } } : Mach).reqFails (m.hl.outst.map (fun x => x.2) ++ m.hl.waiting)
  (upFrom 0 16).foldl (fun m w => m.clearWindow w)
    (m1.hl.formed.foldl (fun m c => m.holdRec c) ({ m1 with hl := { m1.hl with formed := [] } } : Mach))

/-- The marks of an absent host: RUN clears, grace begins, the time and the event are kept. -/
def Mach.markAbsent (m : Mach) : Mach :=
  let m4 := (m.wr F.hlCtrlRun kp 0).graceStart
  (({ m4 with hl := { m4.hl with absentAt := some m4.usec } } : Mach).wr F.hlStatusHostAbsent kp 1).ev F.hlEventsHostAbsent kp

theorem Mach.markAbsent_rd (m : Mach) {f : Fld} {p : Nat} (hp : p < 2 ^ 24) (hrun : f.id ≠ F.hlCtrlRun.id) (habsent : f.id ≠ F.hlStatusHostAbsent.id)
    (hevent : f.id ≠ F.hlEventsHostAbsent.id) : m.markAbsent.rd f p = m.rd f p := by
  rw [Mach.markAbsent, Mach.ev, Mach.rd_wr_of_id_ne _ _ hevent hp (by decide), Mach.rd_wr_of_id_ne _ _ habsent hp (by decide)]
  exact (Mach.rd_of_fields (m := m.wr F.hlCtrlRun kp 0) rfl rfl f p).trans (m.rd_wr_of_id_ne (f := F.hlCtrlRun) (p := kp) 0 hrun hp (by decide))

theorem Mach.markAbsent_absent (m : Mach) : m.markAbsent.absent = true := by
  rw [Mach.markAbsent, Mach.absent, Mach.on_ev_ne _ _ _ _ (by decide), Mach.on_wr]
  decide

theorem Mach.markAbsent_run (m : Mach) : m.markAbsent.on F.hlCtrlRun 6 = false := by
  rw [Mach.markAbsent, kp, Mach.on_ev_ne _ _ _ _ (by decide), Mach.on_wr_ne _ _ _ _ _ (by decide)]
  exact m.on_wr F.hlCtrlRun 6 0

theorem Mach.markAbsent_event (m : Mach) : m.markAbsent.on F.hlEventsHostAbsent 6 = true := by
  rw [Mach.markAbsent, Mach.ev, kp, Mach.on_wr]
  decide

theorem Mach.markAbsent_hl (m : Mach) : m.markAbsent.hl = { m.hl with absentAt := some m.usec } := rfl

theorem Mach.linkEnded_linkView (m : Mach) : m.linkEnded.linkView = ([], [], [], m.ticks) := by
  rw [Mach.linkEnded, foldl_kept Mach.linkView Mach.clearWindow_linkView, foldl_kept Mach.linkView Mach.holdRec_linkView]
  have hkept := Mach.reqFails_linkView ({ m.setArb .proxy { m.arb .proxy with holder := none, suspended := none } with
    hl := { m.hl with outst := [], waiting := [] } } : Mach) (m.hl.outst.map (fun x => x.2) ++ m.hl.waiting)
  simp only [Mach.linkView, Prod.mk.injEq] at hkept ⊢
  obtain ⟨hout, hwaiting, -, hticks⟩ := hkept
  exact ⟨hout, hwaiting, trivial, hticks⟩

theorem Mach.linkEnded_windows (m : Mach) {w : Nat} (hw : w < 16) : m.linkEnded.rd F.hlWinValid (winIx w) = 0 :=
  Mach.clearWindows_valid _ (fun v hv => by have := mem_upFrom.mp hv; omega) _ hw (Or.inl (mem_upFrom.mpr ⟨Nat.zero_le w, by omega⟩))

/-! The host's absence (R356, R373) -/

theorem Mach.goAbsent_of_absent (h : m.absent = true) : m.goAbsent = m := if_pos h

section
variable (hpresent : m.absent = false)
include hpresent

theorem Mach.goAbsent_of_present : m.goAbsent = m.linkEnded.markAbsent := by
  rw [Mach.goAbsent, if_neg (by simp [hpresent])]
  rfl

theorem Mach.goAbsent_lists : m.goAbsent.hl.outst = [] ∧ m.goAbsent.hl.waiting = [] ∧ m.goAbsent.hl.formed = [] ∧
    m.goAbsent.hl.absentAt = some m.usec := by
  have hview := m.linkEnded_linkView
  simp only [Mach.linkView, Prod.mk.injEq] at hview
  obtain ⟨hout, hwaiting, hformed, hticks⟩ := hview
  rw [Mach.goAbsent_of_present hpresent, Mach.markAbsent_hl, Mach.usec, Mach.usec, hticks]
  exact ⟨hout, hwaiting, hformed, rfl⟩

theorem Mach.goAbsent_windows {w : Nat} (hw : w < 16) : m.goAbsent.on F.hlWinValid (winIx w) = false := by
  rw [Mach.goAbsent_of_present hpresent, Mach.on, Mach.markAbsent_rd _ (winIx_lt hw) (by decide) (by decide) (by decide), m.linkEnded_windows hw]
  rfl

end

/-! Descriptors (R354, R365) -/

section
variable {r : Nat} (hposts : m.ringPosts = true)
include hposts

theorem opDescriptorFetch_of_ring {q : HostReq} (hfind : ((upFrom (m.hl.lastRing + 1) 64).map (fun i => i % 64)).find? m.sqPending = some r)
    (hq : q = ⟨0, m.rd F.sqWin (ringIx r), 64 * m.rd F.sqOff (ringIx r) + 64 * (m.rd F.sqHead (ringIx r) % sqSize m r), none, 64, .fetch r⟩) :
    opDescriptorFetch m = { m with hl := { m.hl with lastRing := r, waiting := m.hl.waiting ++ [q] } } := by
  simp only [opDescriptorFetch, hposts, hfind, hq, Bool.not_true, Bool.false_eq_true, if_false]

end

theorem opDescriptorFetch_of_none (hnone : m.ringPosts = false ∨ ((upFrom (m.hl.lastRing + 1) 64).map (fun i => i % 64)).find? m.sqPending = none) :
    opDescriptorFetch m = m := by
  cases hposts : m.ringPosts with
  | false => exact if_pos (by simp [hposts])
  | true =>
    have hfind := hnone.resolve_left (by simp [hposts])
    simp only [opDescriptorFetch, hposts, hfind, Bool.not_true, Bool.false_eq_true, if_false]

theorem opNop_of_some {t : Ticket} (h : m.ticketOf 0 = some t) : opNop m = m.endTicket t 0 stOk 0 := by
  simp only [opNop, h]

theorem opNop_of_none (h : m.ticketOf 0 = none) : opNop m = m := by
  simp only [opNop, h]

/-! Records (R369 to R371) -/

theorem opCompletionRecordWrite_of_held {c : CRec} (hheld : m.hl.held.find? (fun c => m.ringPosts && m.cqRoom c.ring) = some c) :
    opCompletionRecordWrite m = ({ m with hl := { m.hl with held := m.hl.held.erase c } } : Mach).writeRec c := by
  simp only [opCompletionRecordWrite, hheld]

section
variable (hheld : m.hl.held.find? (fun c => m.ringPosts && m.cqRoom c.ring) = none)
include hheld

theorem opCompletionRecordWrite_of_none (hformed : m.hl.formed = []) : opCompletionRecordWrite m = m := by
  simp only [opCompletionRecordWrite, hheld, hformed]

section
variable {c : CRec} {l : List CRec} {m1 : Mach} (hformed : m.hl.formed = c :: l) (hm1 : m1 = { m with hl := { m.hl with formed := l } })
include hformed hm1

theorem opCompletionRecordWrite_of_formed : opCompletionRecordWrite m =
    if (m.ringPosts && m.cqRoom c.ring) && !m.hl.held.any (fun h => h.ring == c.ring) then m1.writeRec c else m1.holdRec c := by
  simp only [opCompletionRecordWrite, hheld, hformed]
  rw [hm1]
  rfl

theorem opCompletionRecordWrite_of_room (hposts : m.ringPosts = true) (hroom : m.cqRoom c.ring = true) (hfirst : ∀ h ∈ m.hl.held, h.ring ≠ c.ring) :
    opCompletionRecordWrite m = m1.writeRec c := by
  rw [opCompletionRecordWrite_of_formed hheld hformed hm1, if_pos]
  simpa [hposts, hroom] using hfirst

theorem opCompletionRecordWrite_of_full (hno : m.ringPosts = false ∨ m.cqRoom c.ring = false ∨ ∃ h ∈ m.hl.held, h.ring = c.ring) :
    opCompletionRecordWrite m = m1.holdRec c := by
  rw [opCompletionRecordWrite_of_formed hheld hformed hm1, if_neg]
  rcases hno with h | h | ⟨h, hin, hring⟩
  · simp [h]
  · simp [h]
  · have hany : m.hl.held.any (fun h => h.ring == c.ring) = true := List.any_eq_true.mpr ⟨h, hin, by simpa using hring⟩
    simp [hany]

end

end

theorem Mach.holdRec_of_room {c : CRec} (h : m.hl.held.length < 4096) : m.holdRec c = { m with hl := { m.hl with held := m.hl.held ++ [c] } } :=
  if_neg (Nat.not_le.mpr h)

theorem Mach.holdRec_of_full {c : CRec} (h : 4096 ≤ m.hl.held.length) :
    m.holdRec c = (m.cnt F.hlHeldLost 6 1).ev F.hlEventsHeldOverflow 6 := if_pos h

end

/-- Settles O38, command by command. -/
theorem hostPresenceAndRings : Obligations.HostPresenceAndRings := by
  unfold Obligations.HostPresenceAndRings
  intro s halive
  refine ⟨fun sp hsp => State.on_of_eq halive (if_neg fun h => hsp (Fin.ext h)), State.on_of_same (if_pos rfl), State.on_of_eq halive rfl,
    State.on_of_eq halive rfl, Mach.goAbsent_of_absent, fun hpresent => ?_,
    fun r hposts hfind => ⟨_, rfl, State.on_of_eq halive (opDescriptorFetch_of_ring hposts hfind rfl)⟩,
    fun hnone => State.on_of_same (opDescriptorFetch_of_none hnone), fun t h => State.on_of_eq halive (opNop_of_some h),
    fun h => State.on_of_same (opNop_of_none h),
    fun hheld => ⟨fun hformed => State.on_of_same (opCompletionRecordWrite_of_none hheld hformed),
      fun c l m1 hformed hm1 => ⟨fun hposts hroom hfirst => State.on_of_eq halive (opCompletionRecordWrite_of_room hheld hformed hm1 hposts hroom hfirst),
        fun hno => ⟨fun hroom => State.on_of_eq halive ((opCompletionRecordWrite_of_full hheld hformed hm1 hno).trans ?_),
          fun hfull => State.on_of_eq halive ((opCompletionRecordWrite_of_full hheld hformed hm1 hno).trans ?_)⟩⟩⟩,
    fun c hheld => ⟨_, rfl, State.on_of_eq halive (opCompletionRecordWrite_of_held hheld)⟩⟩
  · obtain ⟨hout, hwaiting, hformed, habsentAt⟩ := Mach.goAbsent_lists hpresent
    have hmark := Mach.goAbsent_of_present hpresent
    exact ⟨hmark ▸ Mach.markAbsent_absent _, hout, hwaiting, hformed, hmark ▸ Mach.markAbsent_run _, hmark ▸ Mach.markAbsent_event _, habsentAt,
      fun w hw => Mach.goAbsent_windows hpresent hw, s.m.goAbsent_frame.1⟩
  · rw [Mach.holdRec_of_room (by rw [hm1]; exact hroom), hm1]
  · exact Mach.holdRec_of_full (by rw [hm1]; exact hfull)

end Sys2Proof.Machine
end

section
/-! Processors: boot, crash, watchdog, restart and hold (16 R378 to R382, R393). -/

namespace Sys2Proof.Machine

section
variable {m : Mach} {p : Nat}

/-! Boot (R378 to R380) -/

theorem bootProc_of_idle (hstate : m.rd F.fwStatusState (procIx p) ≠ 1) (hturn : m.rd F.fwStatusState (procIx p) ≠ 0 ∨ m.bootTurn p = false) :
    bootProc p m = m := by
  refine if_pos ?_
  rw [Bool.not_eq_true', decide_eq_false_iff_not]
  rintro (⟨hzero, hnext⟩ | hbooting)
  · rcases hturn with h | h
    · exact h hzero
    · rw [h] at hnext
      exact Bool.false_ne_true hnext
  · exact hstate hbooting

theorem bootProc_not_idle (hdue : (m.rd F.fwStatusState (procIx p) = 0 ∧ m.bootTurn p = true) ∨ m.rd F.fwStatusState (procIx p) = 1) :
    ¬ ((!decide ((m.rd F.fwStatusState (procIx p) = 0 ∧ m.bootTurn p = true) ∨ m.rd F.fwStatusState (procIx p) = stBooting)) = true) := by
  rw [Bool.not_eq_true', decide_eq_false_iff_not, not_not]
  exact hdue

section
variable {role first f1 f2 : Nat} {ref : Option Nat} (hrole : role = procRole p)
  (hfirst : first = (if (m.proc p).useLast then m.rd F.fwStatusSlot (procIx p) else SMap.get 0 role m.fw.prefer))
  (href : ref = (if m.fw.refLatched then some (m.rd F.fwReleaseRef 6) else none)) (hf1 : f1 = m.imageFault p ref (m.slot role first))
  (hf2 : f2 = m.imageFault p ref (m.slot role (1 - first)))
  (hdue : (m.rd F.fwStatusState (procIx p) = 0 ∧ m.bootTurn p = true) ∨ m.rd F.fwStatusState (procIx p) = 1)
include hrole hfirst href hf1 hf2 hdue

theorem bootProc_of_image {sl : Nat} {x : FwImage} (hslot : (sl = first ∧ f1 = 0) ∨ (sl = 1 - first ∧ f1 ≠ 0 ∧ f2 = 0)) (hx : m.slot role sl = some x) :
    bootProc p m = if p = 3 ∧ !m.fw.refLatched then (bootOrder.drop 1).foldl (fun m r => m.wr F.fwStatusState (procIx r) 0)
      (({ m.startImage p sl x with fw := { (m.startImage p sl x).fw with refLatched := true } } : Mach).wr F.fwReleaseRef 6 x.release)
      else m.startImage p sl x := by
  refine (if_neg (bootProc_not_idle hdue)).trans ?_
  simp only [← hrole, ← hfirst, ← href, ← hf1, ← hf2]
  rcases hslot with ⟨rfl, hgood⟩ | ⟨rfl, hbad, hgood⟩
  · rw [if_pos hgood, hx]
  · rw [if_neg hbad, if_pos hgood, hx]

theorem bootProc_of_none (hbad1 : f1 ≠ 0) (hbad2 : f2 ≠ 0) : bootProc p m =
    if p = 3 ∧ !m.fw.refLatched then (bootOrder.drop 1).foldl (fun m r => m.bootFailed r 3) (m.bootFailed p f2) else m.bootFailed p f2 := by
  refine (if_neg (bootProc_not_idle hdue)).trans ?_
  simp only [← hrole, ← hfirst, ← href, ← hf1, ← hf2, if_neg hbad1, if_neg hbad2]

end

theorem opBoot_of_other {m1 : Mach} (hm1 : m1 = bootProc p m) (hother : p ≠ 1 ∨ m1.procUp 1 = false ∨ m.procUp 1 = true) : opBoot p m = m1 := by
  rw [hm1] at hother ⊢
  refine if_neg ?_
  rintro ⟨hp, hup, hdown⟩
  rcases hother with h | h | h
  · exact h hp
  · rw [h] at hup
    exact Bool.false_ne_true hup
  · rw [h] at hdown
    exact Bool.false_ne_true hdown

/-! Crashes (R381, R382) -/

theorem Mach.crash_of_down (h : m.procUp p = false) {cause pc addr : Nat} : m.crash p cause pc addr = m := if_pos (by simp [h])

section
variable (hp : p < 10)
include hp

theorem Mach.mbArrive_state (n src : Nat) {words : List Nat} (hwords : words.length ≤ 128) :
    (m.mbArrive n src words).1.rd F.fwStatusState (procIx p) = m.rd F.fwStatusState (procIx p) :=
  m.mbArrive_rd n src words (procIx_lt hp) hwords (by decide) fun _ _ _ hbox _ hkey =>
    absurd (fkey_inj (procIx_lt hp) (mbPlace_lt (mbOf_spec hbox).1 (mbOf_spec hbox).2.1) hkey).1 (by decide)

theorem Mach.notice_state (n receiver cause src : Nat) (words : List Nat) :
    (m.notice n receiver cause src words).rd F.fwStatusState (procIx p) = m.rd F.fwStatusState (procIx p) := by
  obtain h | ⟨q, hq, h⟩ | ⟨x, h⟩ | ⟨b, ws, hws, h⟩ := m.notice_cases n receiver cause src words
  · rw [h]
  · rw [h, m.rd_wr_of_id_ne 2 (by decide) (procIx_lt hp) (sendState_place_lt hq)]
  · rw [h, Mach.rd_withFw]
  · rw [h, Mach.mbArrive_state hp b receiver hws]

theorem Mach.clearBoxes_state (p' : Nat) (l : List Nat) (k : Nat) :
    (m.clearBoxes p' l k).1.rd F.fwStatusState (procIx p) = m.rd F.fwStatusState (procIx p) := by
  induction l generalizing m k with
  | nil => rfl
  | cons n l ih =>
    cases hbox : mbOf n with
    | none => rw [Mach.clearBoxes, hbox, ih]
    | some y =>
      obtain ⟨die, j, owner⟩ := y
      obtain ⟨hd, hj, -⟩ := mbOf_spec hbox
      obtain ⟨m1, k1, hstep, ⟨rfl, -⟩ | ⟨src, words, rfl⟩⟩ := m.clearBoxes_cons p' n l k hbox
      · rw [hstep, ih]
      · rw [hstep, ih, Mach.notice_state hp, m.rd_wr_of_id_ne 0 (by decide) (procIx_lt hp) (mbPlace_lt hd hj)]

omit hp in
theorem Mach.putDigest_fw (d : List Byte) : (m.putDigest p d).fw = m.fw := by
  unfold Mach.putDigest
  exact foldl_kept Mach.fw (fun m w => m.wr_fw F.digest (ix 6 p w 0) (leNat ((d.drop (4 * w)).take 4))) (upFrom 0 16) m

omit hp in
theorem Mach.hostEvent_fw (kind tag arg : Nat) : (m.hostEvent kind tag arg).fw = m.fw := by
  unfold Mach.hostEvent
  split <;> rfl

omit hp in
theorem Mach.setProc_crashSeq (m : Mach) (p : Nat) (x : Proc) : (m.setProc p x).fw.crashSeq = m.fw.crashSeq := rfl

/-- A crash leaves the processor booting, or held once it has crashed four times in ten seconds, and counts itself. -/
theorem Mach.crash_state (hup : m.procUp p = true) {cause pc addr : Nat} {recent : List Nat}
    (hrecent : recent = (m.usec :: (m.proc p).crashes).filter (fun t => decide (m.usec < t + 10000000))) :
    (m.crash p cause pc addr).rd F.fwStatusState (procIx p) = (if 4 ≤ recent.length then 3 else 1) ∧
    (m.crash p cause pc addr).fw.crashSeq = m.fw.crashSeq + 1 := by
  have hq := procIx_lt hp
  subst hrecent
  unfold Mach.crash
  rw [if_neg (by simp [hup])]
  extract_lets q x open0 m0 c trace rec_ m1 fw m2 m3 recent m4
  have hm0 : m0.rd F.fwStatusState q = 1 := by
    rw [Mach.rd_wr_ne _ _ _ _ _ (by decide), Mach.rd_wr]
    decide
  have hm4 : m4.rd F.fwStatusState q = 1 := by
    refine (Mach.setProc_rd m3 _ _ _ _).trans ((Mach.putDigest_rd _ hp [] (by decide) hq).trans ?_)
    have hevent : (m2.hostEvent 2 p m.fw.crashSeq).rd F.fwStatusState q = m2.rd F.fwStatusState q := by unfold Mach.hostEvent; split <;> rfl
    refine hevent.trans ((m1.rd_withFw _ _ _).trans ((Mach.rd_wr_of_id_ne c.1 _ (by decide) hq hq).trans ?_))
    exact (Mach.clearBoxes_state hp p (boxesOf p) 0).trans hm0
  have hseq : m4.fw.crashSeq = m.fw.crashSeq + 1 := by
    have hkept : m3.fw = m2.fw := (Mach.putDigest_fw []).trans (Mach.hostEvent_fw 2 p m.fw.crashSeq)
    have hcount : m2.fw.crashSeq = m.fw.crashSeq + 1 := rfl
    rw [← hcount, ← hkept]
    exact m3.setProc_crashSeq p _
  by_cases hmany : 4 ≤ recent.length
  · rw [if_pos hmany, if_pos hmany]
    exact ⟨(m4.rd_wr _ _ _).trans (by decide), (congrArg FwSt.crashSeq (m4.wr_fw _ _ _)).trans hseq⟩
  · rw [if_neg hmany, if_neg hmany]
    exact ⟨hm4, hseq⟩

end

/-! The watchdog, restarts, holds and kicks (R381, R382, R393) -/

section
variable {pc : Nat}

theorem opWatchdogExpiry_of_late (h : (m.proc p).kicked + 1000 * m.rd F.fwWdtMs (procIx p) ≤ m.procUsec p) : opWatchdogExpiry p pc m = m.crash p 1 pc 0 :=
  if_neg (Nat.not_lt.mpr h)

theorem opWatchdogExpiry_of_kicked (h : m.procUsec p < (m.proc p).kicked + 1000 * m.rd F.fwWdtMs (procIx p)) : opWatchdogExpiry p pc m = m := if_pos h

end

theorem opProcessorCrash_eq {c : Fin 3} {pc addr : Nat} : opProcessorCrash p (c.val + 2) pc addr m = m.crash p (c.val + 2) pc (if c.val = 1 then addr else 0) := by
  rw [opProcessorCrash, if_congr (show c.val + 2 = 3 ↔ c.val = 1 by omega) rfl rfl]

section
variable {who pc : Nat}

theorem opFwCtrlRestart_of_writer (h : fwWriter who = true) : opFwCtrlRestart p who pc m = (m.crash p 5 pc 0).respond who rsOk := if_pos h

theorem opFwCtrlRestart_of_other (h : fwWriter who = false) : opFwCtrlRestart p who pc m = m.respond who rsRefused := if_neg (by simp [h])

theorem opFwCtrlReleaseHold_of_other (h : fwWriter who = false) : opFwCtrlReleaseHold p who m = m.respond who rsRefused := if_pos (by simp [h])

section
variable (hwho : fwWriter who = true)
include hwho

theorem opFwCtrlReleaseHold_of_held (hheld : m.rd F.fwStatusState (procIx p) = 3) : opFwCtrlReleaseHold p who m =
    ((m.respond who rsOk).wr F.fwStatusState (procIx p) 1).setProc p { m.proc p with crashes := [], useLast := false } :=
  (if_neg (by simp [hwho])).trans (if_pos hheld)

theorem opFwCtrlReleaseHold_of_free (hfree : m.rd F.fwStatusState (procIx p) ≠ 3) : opFwCtrlReleaseHold p who m =
    if p = 3 ∧ m.rd F.fwStatusState (procIx p) = 4 then (m.respond who rsOk).wr F.fwStatusState (procIx p) 1 else m.respond who rsOk :=
  (if_neg (by simp [hwho])).trans (if_neg hfree)

end

theorem opFwKick_of_own (h : who = procId p) : opFwKick p who m = (m.setProc p { m.proc p with kicked := m.procUsec p }).respond who rsOk := if_pos h

theorem opFwKick_of_other (h : who ≠ procId p) : opFwKick p who m = m.respond who rsRefused := if_neg h

end

end

end Sys2Proof.Machine
end

section
/-! Updates, attestation and the integrator key (16 R391, R392, R395), and the settlement of the firmware's commands. -/

namespace Sys2Proof.Machine

section
variable {m : Mach}

/-- How far a migration's copied parts stand once ALMANAC has restarted: all of them copied, or the copy begins again (R380). -/
theorem migrationsAgain_eq (m : Mach) : m.alm.migs.map (fun g =>
      match m.tensorOfSlot g.slot with
      | some (_, t) => if (m.partsOf (m.pteEntry 0 (t.ptBase + g.page)) g).all (fun k => g.copied.contains k) then g else { g with copied := [] }
      | none => g) =
    m.alm.migs.map (fun g => (m.tensorOfSlot g.slot).elim g fun x =>
      if (m.partsOf (m.pteEntry 0 (x.2.ptBase + g.page)) g).all (fun k => g.copied.contains k) then g else { g with copied := [] }) := by
  refine List.map_congr_left fun g _ => ?_
  cases m.tensorOfSlot g.slot <;> rfl

theorem opBoot_of_almanac {m1 : Mach} (hm1 : m1 = bootProc 1 m) (hup : m1.procUp 1 = true) (hdown : m.procUp 1 = false) {m2 : Mach}
    (hm2 : m2 = { m1 with alm := { m1.alm with migs := m1.alm.migs.map (fun g => (m1.tensorOfSlot g.slot).elim g fun x =>
      if (m1.partsOf (m1.pteEntry 0 (x.2.ptBase + g.page)) g).all (fun k => g.copied.contains k) then g else { g with copied := [] }) } }) :
    opBoot 1 m = if m2.on F.almCtrlRun 6 then m2.catchUp else m2 := by
  rw [hm2, ← migrationsAgain_eq, hm1]
  rw [hm1] at hup
  exact if_pos ⟨rfl, hup, by simp [hdown]⟩

/-! Updates (R391) -/

section
variable {role win off len : Nat}

theorem opFwUpdate_of_down (h : m.procUp 3 = false) : opFwUpdate role win off len m = m := if_pos (by simp [h])

section
variable (hup : m.procUp 3 = true)
include hup

theorem Mach.health_not_down : ¬ ((!m.procUp 3) = true) := by simp [hup]

theorem opFwUpdate_of_first (hstate : m.rd F.fwUpdateStatusState 6 ≠ 1) : opFwUpdate role win off len m =
    ((m.wr F.fwUpdateStatusState 6 1).setIo (updKey role) Io.none).askRead 3 (updKey role) win off len :=
  (if_neg (Mach.health_not_down hup)).trans (if_pos hstate)

section
variable {x : Io} (hstate : m.rd F.fwUpdateStatusState 6 = 1) (hx : x = m.io (updKey role))
include hstate hx

theorem opFwUpdate_of_waiting (hwaits : x.waits ≠ 0) : opFwUpdate role win off len m = m := by
  subst hx
  exact (if_neg (Mach.health_not_down hup)).trans ((if_neg (not_not.mpr hstate)).trans (if_pos hwaits))

section
variable (hwaits : x.waits = 0)
include hwaits

theorem opFwUpdate_of_failed (hfail : x.fail = true ∨ x.buf.length < 256) : opFwUpdate role win off len m =
    ((m.setIo (updKey role) Io.none).wr F.fwUpdateStatusState 6 3).wr F.fwUpdateStatusReason 6 3 := by
  subst hx
  refine (if_neg (Mach.health_not_down hup)).trans ((if_neg (not_not.mpr hstate)).trans ((if_neg (not_not.mpr hwaits)).trans (if_pos ?_)))
  rcases hfail with h | h
  · rw [h]
    rfl
  · rw [decide_eq_true h, Bool.or_true]

section
variable {img : FwImage} {m0 : Mach} (hgood : x.fail = false) (hlong : 256 ≤ x.buf.length) (hm0 : m0 = m.setIo (updKey role) Io.none)
  (himg : img = ⟨x.buf.take 24 ++ x.buf.drop 256,
    Config.verify (leBytes 32 Config.vendorKey.toNat) (x.buf.take 24 ++ x.buf.drop 256) ((x.buf.drop 24).take 64) == 1, (x.buf.drop 88).take 64⟩)
include hgood hlong hm0 himg

theorem opFwUpdate_of_come : opFwUpdate role win off len m =
    if !(img.headerOk role (if role < 4 then procMem 0 else procMem 4) && img.len == x.buf.length - 256) then
      (m0.wr F.fwUpdateStatusState 6 3).wr F.fwUpdateStatusReason 6 1
    else if !m0.sigOk img then (m0.wr F.fwUpdateStatusState 6 3).wr F.fwUpdateStatusReason 6 2
    else ({ m0 with fw := { m0.fw with
        flash := SMap.put none (2 * role + (1 - SMap.get 0 role m0.fw.lastSlot)) (some img) m0.fw.flash,
        prefer := SMap.put 0 role (1 - SMap.get 0 role m0.fw.lastSlot) m0.fw.prefer } } : Mach).wr F.fwUpdateStatusState 6 2 := by
  have hread : ¬ ((x.fail || decide (x.buf.length < 256)) = true) := by
    rw [hgood, decide_eq_false (Nat.not_lt.mpr hlong)]
    exact Bool.false_ne_true
  rw [himg, hm0, ← List.length_drop]
  subst hx
  exact (if_neg (Mach.health_not_down hup)).trans ((if_neg (not_not.mpr hstate)).trans ((if_neg (not_not.mpr hwaits)).trans (if_neg hread)))

theorem opFwUpdate_of_badHeader (hbad : img.headerOk role (if role < 4 then procMem 0 else procMem 4) = false ∨ img.len ≠ x.buf.length - 256) :
    opFwUpdate role win off len m = (m0.wr F.fwUpdateStatusState 6 3).wr F.fwUpdateStatusReason 6 1 := by
  rw [opFwUpdate_of_come hup hstate hx hwaits hgood hlong hm0 himg, if_pos]
  rcases hbad with h | h
  · rw [h]
    rfl
  · rw [beq_eq_false_iff_ne.mpr h, Bool.and_false]
    rfl

section
variable (hheader : img.headerOk role (if role < 4 then procMem 0 else procMem 4) = true) (hlen : img.len = x.buf.length - 256)
include hheader hlen

omit hup hstate hx hwaits hgood hlong hm0 himg in
theorem FwImage.header_good : ¬ ((!(img.headerOk role (if role < 4 then procMem 0 else procMem 4) && img.len == x.buf.length - 256)) = true) := by
  rw [hheader, beq_iff_eq.mpr hlen]
  decide

theorem opFwUpdate_of_badSignature (hbad : m0.sigOk img = false) :
    opFwUpdate role win off len m = (m0.wr F.fwUpdateStatusState 6 3).wr F.fwUpdateStatusReason 6 2 := by
  rw [opFwUpdate_of_come hup hstate hx hwaits hgood hlong hm0 himg, if_neg (FwImage.header_good hheader hlen), if_pos (by rw [hbad]; rfl)]

theorem opFwUpdate_of_good {sl : Nat} {m1 : Mach} (hsig : m0.sigOk img = true) (hsl : sl = 1 - SMap.get 0 role m0.fw.lastSlot)
    (hm1 : m1 = { m0 with fw := { m0.fw with
      flash := SMap.put none (2 * role + sl) (some img) m0.fw.flash, prefer := SMap.put 0 role sl m0.fw.prefer } }) :
    opFwUpdate role win off len m = m1.wr F.fwUpdateStatusState 6 2 := by
  rw [opFwUpdate_of_come hup hstate hx hwaits hgood hlong hm0 himg, if_neg (FwImage.header_good hheader hlen),
    if_neg (by rw [hsig]; decide), ← hsl, ← hm1]

end

end

end

end

end

end

/-! Attestation (R392) -/

section
variable {who : Nat}

theorem opAttestGo_of_busy (hbusy : m.on F.attestStatusBusy 6 = true) : opAttestGo who m = m.respond who rsOk := if_pos hbusy

theorem opAttestGo_of_ready {m1 m2 : Mach} {n : List Nat} (hready : m.on F.attestStatusBusy 6 = false)
    (hn : n = (upFrom 0 8).map (fun w => m.rd F.attestNonce (ix 6 w 0 0))) (hm1 : m1 = m.respond who rsOk)
    (hm2 : m2 = { m1 with fw := { m1.fw with nonce := n } }) : opAttestGo who m = (m2.wr F.attestStatusBusy 6 1).wr F.attestStatusReady 6 0 := by
  have hfree : ¬ (m.respond who rsOk).on F.attestStatusBusy 6 = true := by
    rw [show (m.respond who rsOk).on F.attestStatusBusy 6 = false from hready]
    exact Bool.false_ne_true
  rw [hm2, hm1, hn]
  exact if_neg hfree

end

theorem opAttestReady_of_busy {all : List Byte} {ws : List Nat} {m1 : Mach} (hbusy : m.on F.attestStatusBusy 6 = true)
    (hall : all = attestBody m ++ leBytes 64 (Config.identitySign (attestBody m)).toNat)
    (hws : ws = (upFrom 0 200).map (fun i => leNat ((all.drop (4 * i)).take 4))) (hm1 : m1 = { m with fw := { m.fw with report := ws } }) :
    opAttestReady m = (m1.wr F.attestStatusBusy 6 0).wr F.attestStatusReady 6 1 := by
  rw [hm1, hws, hall]
  exact if_neg (by rw [hbusy]; decide)

theorem opAttestReady_of_free (h : m.on F.attestStatusBusy 6 = false) : opAttestReady m = m := if_pos (by rw [h]; rfl)

/-! The integrator key (R395) -/

theorem opIntKeyFuse_of_refused {who : Nat} (h : who ≠ idTest ∨ m.fuses.intKey.isSome = true) : opIntKeyFuse who m = m.respond who rsRefused := if_pos h

theorem opIntKeyFuse_of_test {k : List Nat} {m1 : Mach} (hnone : m.fuses.intKey = none)
    (hk : k = (upFrom 0 8).map (fun w => m.rd F.intKey (ix 6 w 0 0))) (hm1 : m1 = { m with fuses := { m.fuses with intKey := some k } }) :
    opIntKeyFuse idTest m = (m1.wr F.keyStatusIntKeyPresent 6 1).respond idTest rsOk := by
  rw [hm1, hk]
  exact if_neg (by simp [hnone])

end

/-- Settles O39, command by command. -/
theorem firmwareCommands : Obligations.FirmwareCommands := by
  unfold Obligations.FirmwareCommands
  constructor
  · rintro p s q halive rfl
    refine ⟨?_, ?_, fun pc => ⟨fun h => State.on_of_eq halive (opWatchdogExpiry_of_late h), fun h => State.on_of_same (opWatchdogExpiry_of_kicked h)⟩,
      fun c pc addr => State.on_of_eq halive opProcessorCrash_eq, fun hdown cause pc addr => Mach.crash_of_down hdown, fun hup cause pc addr => ?_,
      fun who pc => ⟨fun hwho => State.on_of_eq halive (opFwCtrlRestart_of_writer hwho),
        fun hwho => ⟨State.on_of_eq halive (opFwCtrlRestart_of_other hwho), State.on_of_eq halive (opFwCtrlReleaseHold_of_other hwho)⟩,
        fun hwho => ⟨fun hheld => State.on_of_eq halive (opFwCtrlReleaseHold_of_held hwho hheld),
          fun hfree => State.on_of_eq halive (opFwCtrlReleaseHold_of_free hwho hfree)⟩⟩,
      fun who => ⟨fun h => State.on_of_eq halive (opFwKick_of_own h), fun h => State.on_of_eq halive (opFwKick_of_other h)⟩⟩
    · intro m role first f1 f2 ref hrole hfirst href hf1 hf2
      refine ⟨bootProc_of_idle, fun hdue => ⟨fun sl x m1 hslot hx hm1 => ?_, fun hbad1 hbad2 => ⟨_, rfl, ?_⟩⟩⟩
      · rw [bootProc_of_image hrole hfirst href hf1 hf2 hdue hslot hx, ← hm1]
        refine ⟨fun hother => if_neg ?_, fun hp hlatched => ⟨_, rfl, if_pos ⟨hp, by rw [hlatched]; rfl⟩⟩⟩
        rintro ⟨hp, hlatched⟩
        rw [hother.resolve_left (not_not.mpr hp)] at hlatched
        exact Bool.false_ne_true hlatched
      · rw [bootProc_of_none hrole hfirst href hf1 hf2 hdue hbad1 hbad2]
        exact if_congr (by rw [Bool.not_eq_true']) rfl rfl
    · rintro m1 hm1
      refine ⟨fun hother => State.on_of_eq halive (opBoot_of_other hm1 hother), fun hp hup hdown => ⟨_, _, rfl, State.on_of_eq halive ?_,
        (migrationsAgain_eq m1).symm.trans (List.map_congr_left fun g _ => by cases m1.tensorOfSlot g.slot <;> rfl)⟩⟩
      rw [hp] at hm1 ⊢
      exact opBoot_of_almanac hm1 hup hdown rfl
    · obtain ⟨hstate, hseq⟩ := s.m.crash_state p.isLt hup (cause := cause) (pc := pc) (addr := addr) rfl
      exact ⟨_, rfl, hstate, hseq, (s.m.crash_frame ..).1⟩
  · intro s halive
    refine ⟨?_, fun who hbusy => State.on_of_eq halive (opAttestGo_of_busy hbusy),
      fun who m1 m2 n hready hn hm1 hm2 => State.on_of_eq halive (opAttestGo_of_ready hready hn hm1 hm2),
      fun hbusy => ⟨_, _, _, rfl, rfl, rfl, State.on_of_eq halive (opAttestReady_of_busy hbusy rfl rfl rfl)⟩,
      fun h => State.on_of_same (opAttestReady_of_free h), fun who h => State.on_of_eq halive (opIntKeyFuse_of_refused h),
      fun k m1 hnone hk hm1 => State.on_of_eq halive (opIntKeyFuse_of_test hnone hk hm1)⟩
    intro r w off len x hx
    exact ⟨fun hdown => State.on_of_same (opFwUpdate_of_down hdown), fun hup hstate => State.on_of_eq halive (opFwUpdate_of_first hup hstate),
      fun hup hstate hwaits => State.on_of_same (opFwUpdate_of_waiting hup hstate hx hwaits),
      fun hup hstate hwaits => ⟨fun hfail => State.on_of_eq halive (opFwUpdate_of_failed hup hstate hx hwaits hfail),
        fun img m0 hgood hlong hm0 himg => ⟨
          fun hbad => State.on_of_eq halive (opFwUpdate_of_badHeader hup hstate hx hwaits hgood hlong hm0 himg hbad),
          fun hheader hlen => ⟨
            fun hbad => State.on_of_eq halive (opFwUpdate_of_badSignature hup hstate hx hwaits hgood hlong hm0 himg hheader hlen hbad),
            fun hsig => ⟨_, _, rfl, rfl,
              State.on_of_eq halive (opFwUpdate_of_good hup hstate hx hwaits hgood hlong hm0 himg hheader hlen hsig rfl rfl)⟩⟩⟩⟩⟩

end Sys2Proof.Machine
end

section
/-! Mailboxes and send ports (16 R383 to R389, 17 R402, 10 R238). -/

namespace Sys2Proof.Machine

section
variable {m : Mach}

/-! Arrival (R383 to R387) -/

section
variable {n die j owner src : Nat} {words : List Nat} (hbox : mbOf n = some (die, j, owner))
include hbox

theorem Mach.mbArrive_of_open (hopen : m.mbOpen die j owner = true) : (m.mbArrive n src words).2 = true := by
  simp only [Mach.mbArrive, hbox, hopen, Bool.not_true, Bool.false_eq_true, if_false]

theorem Mach.mbArrive_of_closed (hclosed : m.mbOpen die j owner = false) : m.mbArrive n src words = (m, false) := by
  simp only [Mach.mbArrive, hbox, hclosed, Bool.not_false, if_true]

end

section
variable {i : Nat}

theorem opMailbox_of_waiting (h : mayArrive m.fw.mails i = false) : opMailbox i m = m := if_pos (by simp [h])

section
variable {x : Mail} (hx : m.fw.mails[i]? = some x)
include hx

theorem opMailbox_of_boxless (hbox : mbOf x.dest = none) : opMailbox i m = m := by
  simp only [opMailbox, hx, hbox, ite_self]

section
variable {die j owner : Nat} {m1 : Mach} (hmay : mayArrive m.fw.mails i = true) (hbox : mbOf x.dest = some (die, j, owner))
  (hm1 : m1 = { m with fw := { m.fw with mails := dropNth m.fw.mails i } })
include hmay hbox hm1

theorem opMailbox_of_box : opMailbox i m = if (m1.mbArrive x.dest x.src x.words).2 || x.notice then (m1.mbArrive x.dest x.src x.words).1
    else (m1.mbArrive x.dest x.src x.words).1.notice x.dest (procId owner) 2 x.src x.words := by
  simp only [opMailbox, hmay, hx, hbox, hm1, Bool.not_true, Bool.false_eq_true, if_false]

theorem opMailbox_of_open (hopen : m1.mbOpen die j owner = true) : opMailbox i m = (m1.mbArrive x.dest x.src x.words).1 := by
  rw [opMailbox_of_box hx hmay hbox hm1, Mach.mbArrive_of_open hbox hopen]
  rfl

theorem opMailbox_of_closed (hclosed : m1.mbOpen die j owner = false) :
    opMailbox i m = if x.notice then m1 else m1.notice x.dest (procId owner) 2 x.src x.words := by
  rw [opMailbox_of_box hx hmay hbox hm1, Mach.mbArrive_of_closed hbox hclosed]
  rfl

end

end

end

/-! What an open mailbox stores (R384, R385) -/

/-- The mailbox's own marks once a full one is overwritten and counted. -/
def Mach.mbMarked (m : Mach) (p : Nat) : Mach := if m.on F.mbStatusFull p then (m.wr F.mbStatusCollide p 1).cnt F.mbOverwrites p 1 else m

section
variable {n src die j owner : Nat} {ws : List Nat} (hbox : mbOf n = some (die, j, owner)) (hopen : m.mbOpen die j owner = true)
include hbox hopen

theorem Mach.mbArrive_rd_of_box (g : Fld) (q : Nat) : (m.mbArrive n src ws).1.rd g q =
    (((((m.mbMarked (mbPlace die j)).mbStore die j 0 ws).wr F.mbStatusSender (mbPlace die j) src).wr F.mbStatusFull (mbPlace die j) 1).orIn F.mbDoorbell die
      (2 ^ j)).rd g q := by
  simp only [Mach.mbArrive, hbox, hopen, Bool.not_true, Bool.false_eq_true, if_false, Mach.mbMarked]
  rfl

theorem Mach.mbArrive_full_of_box : (m.mbArrive n src ws).1.on F.mbStatusFull (mbPlace die j) = true := by
  obtain ⟨hd, hj, -⟩ := mbOf_spec hbox
  have hplace := mbPlace_lt hd hj
  rw [Mach.on, Mach.mbArrive_rd_of_box hbox hopen, Mach.orIn, Mach.rd_wr_of_id_ne _ _ (by decide) hplace (by omega), Mach.rd_wr]
  decide

theorem Mach.mbArrive_sender_of_box : (m.mbArrive n src ws).1.rd F.mbStatusSender (mbPlace die j) = src % 65536 := by
  obtain ⟨hd, hj, -⟩ := mbOf_spec hbox
  have hplace := mbPlace_lt hd hj
  rw [Mach.mbArrive_rd_of_box hbox hopen, Mach.orIn, Mach.rd_wr_of_id_ne _ _ (by decide) hplace (by omega), Mach.rd_wr_ne _ _ _ _ _ (by decide), Mach.rd_wr]
  rfl

/-- The marks of an overwrite stay through the arrival. -/
theorem Mach.mbArrive_mark_of_box {g : Fld} (hdata : g.id ≠ F.mbData.id) (hsender : g.id ≠ F.mbStatusSender.id) (hfull : g.id ≠ F.mbStatusFull.id)
    (hbell : g.id ≠ F.mbDoorbell.id) (hwords : ws.length ≤ 128) :
    (m.mbArrive n src ws).1.rd g (mbPlace die j) = (m.mbMarked (mbPlace die j)).rd g (mbPlace die j) := by
  obtain ⟨hd, hj, -⟩ := mbOf_spec hbox
  have hplace := mbPlace_lt hd hj
  rw [Mach.mbArrive_rd_of_box hbox hopen, Mach.orIn, Mach.rd_wr_of_id_ne _ _ hbell hplace (by omega), Mach.rd_wr_ne _ _ _ _ _ hfull,
    Mach.rd_wr_ne _ _ _ _ _ hsender, Mach.mbStore_rd die j hd hj hdata hplace ws _ 0 (by omega)]

end

theorem satAdd32_lt (a b : Nat) : satAdd32 a b < 2 ^ 32 := by
  unfold satAdd32
  split <;> omega

section
variable {p : Nat} (hfull : m.on F.mbStatusFull p = true)
include hfull

theorem Mach.mbMarked_collide : (m.mbMarked p).on F.mbStatusCollide p = true := by
  rw [Mach.mbMarked, if_pos hfull, Mach.on_cnt_ne _ _ _ _ _ (by decide), Mach.on_wr]
  decide

theorem Mach.mbMarked_overwrites : (m.mbMarked p).rd F.mbOverwrites p = satAdd32 (m.rd F.mbOverwrites p) 1 := by
  rw [Mach.mbMarked, if_pos hfull, Mach.rd_cnt, Mach.rd_wr_ne _ _ _ _ _ (by decide)]
  exact Nat.mod_eq_of_lt (satAdd32_lt _ _)

end

/-! Reading (R388) -/

section
variable {n who : Nat}

theorem opMailboxReadWord0_of_none (hbox : mbOf n = none) : opMailboxReadWord0 n who m = m := by
  simp only [opMailboxReadWord0, hbox]

theorem opMailboxReadWord15_of_none (hbox : mbOf n = none) : opMailboxReadWord15 n who m = m := by
  simp only [opMailboxReadWord15, hbox]

section
variable {die j owner : Nat} {l : MbLatch} {m1 : Mach} (hbox : mbOf n = some (die, j, owner))
include hbox

section
variable (hm1 : m1 = m.send (.resp who rsOk (leBytes 4 (m.rd F.mbData (mbWordPlace die j 0))) 0))
include hm1

theorem opMailboxReadWord0_of_other (hwho : who ≠ procId owner) : opMailboxReadWord0 n who m = m1 := by
  simp only [opMailboxReadWord0, hbox, if_neg hwho, hm1]

theorem opMailboxReadWord0_of_owner (hwho : who = procId owner)
    (hl : l = ⟨(upFrom 0 16).map (fun w => m.rd F.mbData (mbWordPlace die j w)), m.rd F.mbStatusSender (mbPlace die j), false⟩) :
    opMailboxReadWord0 n who m = { m1 with fw := { m1.fw with latches := SMap.put (MbLatch.mk [] 0 false) n l m1.fw.latches } } := by
  simp only [opMailboxReadWord0, hbox, if_pos hwho, hm1, hl]

end

theorem opMailboxReadWord15_of_other (hwho : who ≠ procId owner) :
    opMailboxReadWord15 n who m = m.send (.resp who rsOk (leBytes 4 (m.rd F.mbData (mbWordPlace die j 15))) 0) := by
  simp only [opMailboxReadWord15, hbox, if_neg hwho]

theorem opMailboxReadWord15_of_owner (hwho : who = procId owner) (hl : l = SMap.get (MbLatch.mk [] 0 false) n m.fw.latches)
    (hm1 : m1 = (m.send (.resp who rsOk (leBytes 4 (nth 0 l.words 15)) 0)).kindRead n (nth 0 l.words 0 % 256)) :
    opMailboxReadWord15 n who m = if l.since then m1 else m1.wr F.mbStatusFull (mbPlace die j) 0 := by
  simp only [opMailboxReadWord15, hbox, if_pos hwho, hm1, hl]

end

theorem Mach.kindRead_of_request {kind : Nat} (hn : n = 24) (hlow : 4 ≤ kind) (hhigh : kind < 16) :
    m.kindRead n kind = (m.wr F.vigilReqResultCode 6 2).wr F.vigilReqResultKind 6 kind := if_pos ⟨hn, hlow, hhigh⟩

theorem Mach.kindRead_of_other {kind : Nat} (h : n ≠ 24 ∨ kind < 4 ∨ 16 ≤ kind) : m.kindRead n kind = m := by
  refine if_neg ?_
  rintro ⟨hn, hlow, hhigh⟩
  omega

end

/-! Send ports (R389) -/

section
variable {port src w dest : Nat} {m0 : Mach} {ws : List Nat} (hsrc : src = (if port = 0 then idHost else idTest))
include hsrc

theorem opSendPortSend_of_other {who : Nat} (hwho : who ≠ src) : opSendPortSend port who w m = m.respond who rsRefused := by
  subst hsrc
  exact if_pos hwho

variable (hm0 : m0 = m.wr F.mbSendData (ix 6 port 15 0) w) (hws : ws = (upFrom 0 16).map (fun i => m0.rd F.mbSendData (ix 6 port i 0)))
include hm0 hws

theorem opSendPortSend_of_held (hwaits : m0.mailWaits src = true) : opSendPortSend port src w m =
    { m0 with fw := { m0.fw with sendHeld := SMap.put [] port ws m0.fw.sendHeld } } := by
  subst hsrc hm0 hws
  exact (if_neg (not_not.mpr rfl)).trans (if_pos hwaits)

theorem opSendPortSend_of_free (hdest : dest = m0.rd F.mbSendDest (ix 6 port 0 0)) (hfree : m0.mailWaits src = false) : opSendPortSend port src w m =
    ((m0.mail src dest ws).wr F.mbSendState (ix 6 port 0 0) (if (mbOf dest).isSome || isSink dest then 1 else 3)).respond src rsOk := by
  subst hdest hsrc hm0 hws
  exact (if_neg (not_not.mpr rfl)).trans (if_neg (by rw [hfree]; exact Bool.false_ne_true))

end

end

/-- Settles O40, command by command. -/
theorem mailboxCommands : Obligations.MailboxCommands := by
  unfold Obligations.MailboxCommands
  refine ⟨fun i s halive hwait => State.on_of_same (opMailbox_of_waiting hwait), fun i s x halive hx hbox => State.on_of_same (opMailbox_of_boxless hx hbox),
    fun i s x die j owner m1 halive hmay hx hbox hm1 => ⟨fun hopen => State.on_of_eq halive (opMailbox_of_open hx hmay hbox hm1 hopen),
      fun hclosed hnotice => State.on_of_eq halive ((opMailbox_of_closed hx hmay hbox hm1 hclosed).trans (if_neg (by rw [hnotice]; exact Bool.false_ne_true))),
      fun hclosed hnotice => State.on_of_eq halive ((opMailbox_of_closed hx hmay hbox hm1 hclosed).trans (if_pos hnotice))⟩,
    fun m n src die j owner ws hbox hopen hwords => ⟨Mach.mbArrive_of_open hbox hopen, Mach.mbArrive_full_of_box hbox hopen,
      Mach.mbArrive_sender_of_box hbox hopen, (m.mbArrive_frame n src ws).1, fun hfull => ⟨?_, ?_⟩⟩,
    fun n who s halive hbox => ⟨State.on_of_same (opMailboxReadWord0_of_none hbox), State.on_of_same (opMailboxReadWord15_of_none hbox)⟩,
    fun n who s die j owner l m1 halive hbox hm1 => ⟨fun hwho => State.on_of_eq halive (opMailboxReadWord0_of_other hbox hm1 hwho),
      fun hwho hl => State.on_of_eq halive (opMailboxReadWord0_of_owner hbox hm1 hwho hl)⟩,
    fun n who s die j owner l m1 halive hbox hl hm1 => ⟨fun hwho => State.on_of_eq halive (opMailboxReadWord15_of_other hbox hwho),
      fun hwho hsince => State.on_of_eq halive ((opMailboxReadWord15_of_owner hbox hwho hl hm1).trans (if_neg (by rw [hsince]; exact Bool.false_ne_true))),
      fun hwho hsince => State.on_of_eq halive ((opMailboxReadWord15_of_owner hbox hwho hl hm1).trans (if_pos hsince))⟩,
    fun m n kind => ⟨Mach.kindRead_of_request, Mach.kindRead_of_other⟩,
    fun port w s src dest m0 ws halive hsrc hm0 hws hdest => ⟨fun who hwho => State.on_of_eq halive (opSendPortSend_of_other hsrc hwho),
      fun hwaits => State.on_of_eq halive (opSendPortSend_of_held hsrc hm0 hws hwaits),
      fun hfree => State.on_of_eq halive (opSendPortSend_of_free hsrc hm0 hws hdest hfree)⟩⟩
  · rw [Mach.on, Mach.mbArrive_mark_of_box hbox hopen (by decide) (by decide) (by decide) (by decide) (by omega)]
    exact Mach.mbMarked_collide hfull
  · rw [Mach.mbArrive_mark_of_box hbox hopen (by decide) (by decide) (by decide) (by decide) (by omega), Mach.mbMarked_overwrites hfull]

end Sys2Proof.Machine
end

section
/-! Supplies, resets, power states and wakes (17 R398, R399, R402 to R406, R410, R418, 14 R344, 15 R356). -/

namespace Sys2Proof.Machine

section
variable {m : Mach}

/-! Supplies and resets (R398, R399, R402) -/

theorem opRailPowerUp_of_standby (h : m.pow.rails = 1) : opRailPowerUp m = m.setPow { m.pow with rails := 2 } := if_pos h

theorem opRailPowerUp_of_other (h : m.pow.rails ≠ 1) : opRailPowerUp m = m := if_neg h

theorem opBrownOut_of_rails {m1 : Mach} (h : m.pow.rails = 2) (hm1 : m1 = m.moduleReset 3) :
    opBrownOut 0 m = m1.setPow { m1.pow with browned := some 0, rails := 1 } := by
  subst hm1
  exact (if_neg (by decide)).trans (if_pos h)

theorem opBrownOut_of_down (h : m.pow.rails ≠ 2) : opBrownOut 0 m = m := (if_neg (by decide)).trans (if_neg h)

theorem vigilWho_eq_true {who : Nat} : vigilWho who = true ↔ who = idHealth ∨ who = idTest := by simp [vigilWho]

theorem resetWho_eq_true {who : Nat} : (vigilWho who || who == idHost) = true ↔ who = idHealth ∨ who = idTest ∨ who = idHost := by
  rw [Bool.or_eq_true, vigilWho_eq_true, beq_iff_eq, or_assoc]

section
variable {who key : Nat}

theorem opSwReset_of_key (hwho : who = idHealth ∨ who = idTest ∨ who = idHost) (hkey : key = 0x5EED) :
    opSwReset who key m = (m.moduleReset 5).respond who rsOk := (Mach.permit_of_ok (resetWho_eq_true.mpr hwho)).trans (by rw [if_pos hkey])

theorem opSwReset_of_noKey (hwho : who = idHealth ∨ who = idTest ∨ who = idHost) (hkey : key ≠ 0x5EED) : opSwReset who key m = m.respond who rsOk :=
  (Mach.permit_of_ok (resetWho_eq_true.mpr hwho)).trans (by rw [if_neg hkey])

theorem opSwReset_of_other (hhealth : who ≠ idHealth) (htest : who ≠ idTest) (hhost : who ≠ idHost) : opSwReset who key m = m.respond who rsRefused := by
  refine Mach.permit_of_no (Bool.eq_false_iff.mpr fun h => ?_)
  rcases resetWho_eq_true.mp h with h | h | h
  · exact hhealth h
  · exact htest h
  · exact hhost h

end

/-! Wakes (R404 to R406) -/

section
variable {mask act : Nat} (hact : act = mask % 64 &&& (if m.pow.tripped then clearBit 4 (m.rd F.vigilModeWakeEn 6) else m.rd F.vigilModeWakeEn 6))
include hact

theorem Mach.wake_of_disabled (hnone : act = 0) : m.wake mask = m := by
  subst hact
  exact if_pos hnone

section
variable (hsome : act ≠ 0)
include hsome

theorem Mach.wake_of_active (hpower : m.power = 0) : m.wake mask = m.setPow { m.pow with pending := m.pow.pending ||| act } := by
  subst hact
  refine (if_neg hsome).trans ?_
  rw [hpower]
  rfl

theorem Mach.wake_of_shallow (hpower : m.power = 1 ∨ m.power = 2) : m.wake mask = (m.recordWake act).restored := by
  subst hact
  refine (if_neg hsome).trans ?_
  rcases hpower with h | h
  · rw [h]
    rfl
  · rw [h]
    rfl

theorem Mach.wake_of_solstice (hpower : m.power = 3) : m.wake mask = (m.recordWake act).moduleReset (if m.pow.tripped then 4 else 6) := by
  subst hact
  refine (if_neg hsome).trans ?_
  rw [hpower]
  rfl

end

end

section
variable {ms : Nat} (hms : ms = m.rd F.vigilWakeMs 6)
include hms

theorem opWakeCounterExpiry_of_due (hpower : m.power ≠ 0) (hset : ms ≠ 0) (hdue : m.pow.wakeAt + 1000 * ms ≤ m.usec) :
    opWakeCounterExpiry m = m.wake 8 := by
  subst hms
  refine if_neg ?_
  rintro (h | h | h)
  · exact hpower h
  · exact hset h
  · exact Nat.not_lt.mpr hdue h

theorem opWakeCounterExpiry_of_none (h : m.power = 0 ∨ ms = 0 ∨ m.usec < m.pow.wakeAt + 1000 * ms) : opWakeCounterExpiry m = m := by
  subst hms
  exact if_pos h

end

/-! Trips (R410) -/

section
variable {sensor temp : Nat} {lvl : Int} (hlvl : lvl = 8 * (if sensor < 7 then 110 else 100))
include hlvl

theorem opThermalTrip_of_hot (hpower : m.power ≠ 3) (hvalid : temp ≠ 0x8000) (hhot : lvl ≤ toSigned 16 temp) :
    opThermalTrip sensor temp m = ((m.wr F.vigilResetCauseTripped 6 1).setPow { m.pow with tripped := true, tripBy := sensor }).solstice := by
  refine if_neg ?_
  rw [← hlvl]
  rintro (h | h | h)
  · exact hvalid h
  · exact Int.not_lt.mpr hhot h
  · exact hpower h

theorem opThermalTrip_of_none (h : m.power = 3 ∨ temp = 0x8000 ∨ toSigned 16 temp < lvl) : opThermalTrip sensor temp m = m := by
  refine if_pos ?_
  rw [← hlvl]
  rcases h with h | h | h
  · exact Or.inr (Or.inr h)
  · exact Or.inl h
  · exact Or.inr (Or.inl h)

end

/-! HEALTH's requests (R403, R408, R418) -/

section
variable {st w ms : Nat}

theorem opSetState_of_none (h : m.procUp 3 = false ∨ m.on F.vigilStatusWaiting 6 = true) : opSetState st w ms m = m := by
  refine if_pos ?_
  rcases h with h | h
  · rw [h]
    rfl
  · exact Bool.or_eq_true_iff.mpr (Or.inr h)

section
variable {ok : Prop} (hst : st < 4) (hup : m.procUp 3 = true) (hfree : m.on F.vigilStatusWaiting 6 = false)
  (hok : ok = (st = 0 ∨ (st = 1 ∧ m.mayIdle = true) ∨ (st = 2 ∧ m.mayNap = true) ∨ (st = 3 ∧ m.mayNap = true ∧ m.alm.plans = [])))
include hst hup hfree hok

omit hst hok in
theorem opSetState_asked : ¬ ((!m.procUp 3 || m.on F.vigilStatusWaiting 6) = true) := by
  rw [hup, hfree]
  decide

omit hup hfree in
theorem stateAllowed_iff :
    (if st = 0 then true else if st = 1 then m.mayIdle else if st = 2 then m.mayNap else m.mayNap && m.alm.plans.isEmpty) = true ↔ ok := by
  rw [hok]
  obtain rfl | rfl | rfl | rfl : st = 0 ∨ st = 1 ∨ st = 2 ∨ st = 3 := by omega
  · simp
  · simp
  · simp
  · simp

theorem opSetState_of_allowed (h : ok) : opSetState st w ms m = ((((m.reqResult 1 0).wr F.vigilModeState 6 st).wr F.vigilModeWakeEn 6 w).wr F.vigilWakeMs 6
    ms).wr F.vigilStatusWaiting 6 1 :=
  (if_neg (opSetState_asked hup hfree)).trans (if_neg (by rw [(stateAllowed_iff hst hok).mpr h]; decide))

theorem opSetState_of_forbidden (h : ¬ ok) : opSetState st w ms m = m.reqResult 1 1 :=
  (if_neg (opSetState_asked hup hfree)).trans
    (if_pos (by rw [Bool.eq_false_iff.mpr fun heq => h ((stateAllowed_iff hst hok).mp heq)]; rfl))

end

end

section
variable {limit n : Nat}

theorem opSetCap_of_down (h : m.procUp 3 = false) : opSetCap limit n m = m := if_pos (by rw [h]; rfl)

section
variable (hup : m.procUp 3 = true)
include hup

theorem opSetCap_of_within (hlow : 1600 ≤ limit) (hhigh : limit ≤ 2500) (hmin : 1 ≤ n) (hmax : n ≤ 16) :
    opSetCap limit n m = ((m.wr F.vigilCapLimit 6 limit).wr F.vigilCapNMax 6 n).reqResult 2 0 := by
  refine (if_neg (by rw [hup]; decide)).trans (if_neg ?_)
  omega

theorem opSetCap_of_outside (h : limit < 1600 ∨ 2500 < limit ∨ n < 1 ∨ 16 < n) : opSetCap limit n m = m.reqResult 2 1 :=
  (if_neg (by rw [hup]; decide)).trans (if_pos h)

theorem opReleaseHold_of_up : opReleaseHold n m = (m.releaseBanks n).reqResult 3 0 := if_neg (by rw [hup]; decide)

end

theorem opReleaseHold_of_down (h : m.procUp 3 = false) : opReleaseHold n m = m := if_pos (by rw [h]; rfl)

theorem opIoHoldRelease_of_writer {who : Nat} (h : who = idHealth ∨ who = idTest) :
    opIoHoldRelease who n m = (m.releaseBanks n).respond who rsOk := Mach.permit_of_ok (vigilWho_eq_true.mpr h)

theorem opIoHoldRelease_of_other {who : Nat} (hhealth : who ≠ idHealth) (htest : who ≠ idTest) : opIoHoldRelease who n m = m.respond who rsRefused :=
  Mach.permit_of_no (Bool.eq_false_iff.mpr fun h => (vigilWho_eq_true.mp h).elim hhealth htest)

end

/-! Entering a state (R403, R404) -/

theorem opPowerStateEnter_of_none (h : m.on F.vigilStatusWaiting 6 = false ∨ m.power ≠ 0) : opPowerStateEnter m = m := by
  refine if_pos ?_
  rcases h with h | h
  · rw [show m.on F.vigilStatusWaiting kp = false from h]
    rfl
  · rw [bne_iff_ne.mpr h, Bool.or_true]

section
variable {woke st : Nat} {m1 : Mach} (hwaits : m.on F.vigilStatusWaiting 6 = true) (hpower : m.power = 0)
  (hwoke : woke = m.pow.pending &&& m.rd F.vigilModeWakeEn 6) (hst : st = m.rd F.vigilModeState 6)
  (hm1 : m1 = m.setPow { m.pow with wakeAt := m.usec })
include hwaits hpower

theorem opPowerStateEnter_asked : ¬ ((!m.on F.vigilStatusWaiting kp || m.power != 0) = true) := by
  rw [show m.on F.vigilStatusWaiting kp = true from hwaits, hpower]
  decide

include hst

theorem opPowerStateEnter_of_active (hzero : st = 0) : opPowerStateEnter m = m.wr F.vigilStatusWaiting 6 0 := by
  refine (if_neg (opPowerStateEnter_asked hwaits hpower)).trans ?_
  rw [show m.rd F.vigilModeState kp = 0 from hst.symm.trans hzero]
  rfl

include hwoke

theorem opPowerStateEnter_of_deeper (hnonzero : st ≠ 0) : opPowerStateEnter m =
    if woke ≠ 0 then (((m.recordWake woke).wr F.vigilStatusWaiting 6 0).reqResult 1 3).setPow { m.pow with pending := 0 }
    else if st = 1 then (m.setPow { m.pow with wakeAt := m.usec }).wr F.vigilStatusState 6 1
    else if st = 2 then (m.setPow { m.pow with wakeAt := m.usec }).nap else (m.setPow { m.pow with wakeAt := m.usec }).solstice := by
  obtain ⟨k, hk⟩ := Nat.exists_eq_succ_of_ne_zero hnonzero
  refine (if_neg (opPowerStateEnter_asked hwaits hpower)).trans ?_
  rw [show m.rd F.vigilModeState kp = k + 1 from hst.symm.trans hk, hwoke, hk]
  rfl

theorem opPowerStateEnter_of_woken (hnonzero : st ≠ 0) (hsome : woke ≠ 0) : opPowerStateEnter m =
    (((m.recordWake woke).wr F.vigilStatusWaiting 6 0).reqResult 1 3).setPow { m.pow with pending := 0 } :=
  (opPowerStateEnter_of_deeper hwaits hpower hwoke hst hnonzero).trans (if_pos hsome)

include hm1

theorem opPowerStateEnter_of_quiet (hnonzero : st ≠ 0) (hnone : woke = 0) : opPowerStateEnter m =
    if st = 1 then m1.wr F.vigilStatusState 6 1 else if st = 2 then m1.nap else m1.solstice := by
  rw [opPowerStateEnter_of_deeper hwaits hpower hwoke hst hnonzero, if_neg (not_not.mpr hnone), hm1]

end

end

/-- Settles O41, command by command. -/
theorem powerStateCommands : Obligations.PowerStateCommands := by
  unfold Obligations.PowerStateCommands
  refine ⟨fun s => ⟨fun hoff => ⟨_, rfl, ?_⟩, fun hon => ?_⟩, fun s halive => ?_,
    fun m mask act hact => ⟨Mach.wake_of_disabled hact, Mach.wake_of_active hact, Mach.wake_of_shallow hact, Mach.wake_of_solstice hact⟩, fun s halive => ?_⟩
  · rw [show opStandbyPowerOn s.m = _ from if_pos hoff]
    exact ⟨rfl, rfl, rfl, rfl, rfl, rfl⟩
  · change Host.Outcome.next { s with m := opStandbyPowerOn s.m } = _
    rw [show opStandbyPowerOn s.m = s.m from if_neg hon]
  · refine ⟨fun h => State.on_of_eq halive (opRailPowerUp_of_standby h), fun h => State.on_of_same (opRailPowerUp_of_other h), State.on_of_eq halive rfl,
      ⟨_, State.on_of_eq halive rfl, rfl, rfl, rfl⟩, fun h => ⟨_, rfl, State.on_of_eq halive (opBrownOut_of_rails h rfl)⟩,
      fun h => State.on_of_same (opBrownOut_of_down h), fun also => State.on_of_eq halive rfl, State.on_of_eq halive rfl, State.on_of_eq halive rfl,
      fun d i => ?_,
      fun ms hms => ⟨fun hpower hset hdue => State.on_of_eq halive (opWakeCounterExpiry_of_due hms hpower hset hdue),
        fun h => State.on_of_same (opWakeCounterExpiry_of_none hms h)⟩,
      fun j t lvl hlvl => ⟨fun hpower hvalid hhot => State.on_of_eq halive (opThermalTrip_of_hot hlvl hpower hvalid hhot),
        fun h => State.on_of_same (opThermalTrip_of_none hlvl h)⟩⟩
    by_cases hwake : s.m.on F.lnCfgWake (lnIx (48 * d.val + i.val)) = true
    · rw [if_pos hwake]
      exact State.on_of_eq halive (if_pos hwake)
    · rw [if_neg hwake]
      exact State.on_of_same (if_neg hwake)
  · exact ⟨fun who key => ⟨fun hwho hkey => State.on_of_eq halive (opSwReset_of_key hwho hkey),
        fun hwho hkey => State.on_of_eq halive (opSwReset_of_noKey hwho hkey),
        fun hhealth htest hhost => State.on_of_eq halive (opSwReset_of_other hhealth htest hhost)⟩,
      fun st w ms ok hok => ⟨fun h => State.on_of_same (opSetState_of_none h), fun hup hfree => ⟨
        fun h => State.on_of_eq halive (opSetState_of_allowed st.isLt hup hfree hok h),
        fun h => State.on_of_eq halive (opSetState_of_forbidden st.isLt hup hfree hok h)⟩⟩,
      fun l n => ⟨fun hdown => State.on_of_same (opSetCap_of_down hdown),
        fun hup hlow hhigh hmin hmax => State.on_of_eq halive (opSetCap_of_within hup hlow hhigh hmin hmax),
        fun hup h => State.on_of_eq halive (opSetCap_of_outside hup h)⟩,
      fun b => ⟨fun hup => State.on_of_eq halive (opReleaseHold_of_up hup), fun hdown => State.on_of_same (opReleaseHold_of_down hdown)⟩,
      fun who b => ⟨fun h => State.on_of_eq halive (opIoHoldRelease_of_writer h),
        fun hhealth htest => State.on_of_eq halive (opIoHoldRelease_of_other hhealth htest)⟩,
      fun h => State.on_of_same (opPowerStateEnter_of_none h),
      fun hwaits hpower woke st m1 hwoke hst hm1 => ⟨fun hzero => State.on_of_eq halive (opPowerStateEnter_of_active hwaits hpower hst hzero),
        fun hnonzero hsome => State.on_of_eq halive (opPowerStateEnter_of_woken hwaits hpower hwoke hst hnonzero hsome),
        fun hnonzero hnone => State.on_of_eq halive (opPowerStateEnter_of_quiet hwaits hpower hwoke hst hm1 hnonzero hnone)⟩⟩

end Sys2Proof.Machine
end

section
/-! Capping, clocks, start-up and sensors (17 R407 to R409, R412 to R417, 19 R439). -/

namespace Sys2Proof.Machine

section
variable {m : Mach}

/-! The capping window (R407 to R409) -/

section
variable {watts n : Nat} {warm above : Bool} {a b : Mach} (hwarm : warm = (m.pow.warm || !m.capCool))
  (ha : a = ((m.wr F.sensPowerW 6 watts).setPow
    { m.pow with warm := false, watts := m.pow.watts + watts, wattsN := m.pow.wattsN + 1 }).flowEnds)
  (hn : n = a.rd F.vigilCapN 6) (habove : above = decide (a.rd F.vigilCapLimit 6 < watts)) (hb : b = a.setPow { a.pow with windows := 0 })
include hwarm ha hn habove hb

/-- A window's end by its three cases: above the limit or at a cap, cool enough for a step up, between them. -/
theorem opCapWindowEnd_eq : opCapWindowEnd watts m =
    if above || !a.capSensors.isEmpty then
      if n ≤ 1 then b
      else
        (if above then ((((b.wr F.vigilCapN 6 (n - 1)).wr F.vigilCapPower 6 (b2n above)).wr F.vigilCapThermal 6 (b2n (!a.capSensors.isEmpty))).cnt
            F.vigilCapSteps 6 1).alert 5 0
          else (((b.wr F.vigilCapN 6 (n - 1)).wr F.vigilCapPower 6 (b2n above)).wr F.vigilCapThermal 6 (b2n (!a.capSensors.isEmpty))).cnt
            F.vigilCapSteps 6 1).alertFirst 6 a.capSensors
    else if watts + a.rd F.vigilCapCfgHyst 6 < a.rd F.vigilCapLimit 6 ∧ !warm then
      if 10 ≤ a.pow.windows + 1 ∧ n < a.rd F.vigilCapNMax 6 then (a.setPow { a.pow with windows := a.pow.windows + 1 }).wr F.vigilCapN 6 (n + 1)
      else a.setPow { a.pow with windows := a.pow.windows + 1 }
    else b := by
  rw [hb, habove, hn, hwarm, ha]
  rfl

section
variable (hhot : above = true ∨ a.capSensors ≠ [])
include hhot

omit hwarm ha hn habove hb in
theorem capWindow_hot : (above || !a.capSensors.isEmpty) = true := by
  rcases hhot with h | h
  · rw [h]
    rfl
  · rw [List.isEmpty_eq_false_iff.mpr h, Bool.not_false, Bool.or_true]

theorem opCapWindowEnd_of_lowest (hlow : n ≤ 1) : opCapWindowEnd watts m = b := by
  rw [opCapWindowEnd_eq hwarm ha hn habove hb, if_pos (capWindow_hot hhot), if_pos hlow]

theorem opCapWindowEnd_of_stepDown {c : Mach} (hmore : 1 < n)
    (hc : c = (((b.wr F.vigilCapN 6 (n - 1)).wr F.vigilCapPower 6 (b2n above)).wr F.vigilCapThermal 6 (b2n (!a.capSensors.isEmpty))).cnt F.vigilCapSteps 6 1) :
    opCapWindowEnd watts m = (if above then c.alert 5 0 else c).alertFirst 6 a.capSensors := by
  rw [opCapWindowEnd_eq hwarm ha hn habove hb, if_pos (capWindow_hot hhot), if_neg (Nat.not_le.mpr hmore), ← hc]

end

section
variable (hbelow : above = false) (hnone : a.capSensors = [])
include hbelow hnone

theorem opCapWindowEnd_of_below : opCapWindowEnd watts m =
    if watts + a.rd F.vigilCapCfgHyst 6 < a.rd F.vigilCapLimit 6 ∧ !warm then
      if 10 ≤ a.pow.windows + 1 ∧ n < a.rd F.vigilCapNMax 6 then (a.setPow { a.pow with windows := a.pow.windows + 1 }).wr F.vigilCapN 6 (n + 1)
      else a.setPow { a.pow with windows := a.pow.windows + 1 }
    else b := by
  rw [opCapWindowEnd_eq hwarm ha hn habove hb, if_neg (by rw [hbelow, hnone]; decide)]

theorem opCapWindowEnd_of_cool {k : Nat} {c : Mach} (hk : k = a.pow.windows + 1) (hc : c = a.setPow { a.pow with windows := k })
    (hroom : watts + a.rd F.vigilCapCfgHyst 6 < a.rd F.vigilCapLimit 6) (hcool : warm = false) :
    opCapWindowEnd watts m = if 10 ≤ k ∧ n < a.rd F.vigilCapNMax 6 then c.wr F.vigilCapN 6 (n + 1) else c := by
  rw [opCapWindowEnd_of_below hwarm ha hn habove hb hbelow hnone, if_pos ⟨hroom, by rw [hcool]; rfl⟩, hc, hk]

theorem opCapWindowEnd_of_between (hbetween : a.rd F.vigilCapLimit 6 ≤ watts + a.rd F.vigilCapCfgHyst 6 ∨ warm = true) : opCapWindowEnd watts m = b := by
  rw [opCapWindowEnd_of_below hwarm ha hn habove hb hbelow hnone, if_neg]
  rintro ⟨hroom, hcool⟩
  rcases hbetween with h | h
  · exact Nat.not_lt.mpr h hroom
  · rw [h] at hcool
    exact Bool.false_ne_true hcool

end

end

/-! Samples, the I2C target, REFCLK_M (R414 to R417, 19 R439) -/

theorem opSensorSample_eq {rails : List (Nat × Nat)} {temps : List Nat} {m0 m1 : Mach} {hot : Bool} (hm0 : m0 = m.sampled rails temps m.pow.check)
    (hm1 : m1 = m0.setPow { m0.pow with check := false, warm := m0.pow.warm || !m0.capCool })
    (hhot : hot = (m1.tempGt 32 (m1.rd F.vigilThermWakeWake 6) || (m1.power == 2 && !m1.hotSensors.isEmpty))) :
    opSensorSample rails temps m = if hot then m1.wake 16 else m1.setPow { m1.pow with pending := clearBit 4 m1.pow.pending } := by
  rw [hhot, hm1, hm0]
  rfl

theorem opI2cWrite_cons {b : Byte} {l : List Byte} : opI2cWrite ((b :: l).map BitVec.toNat) m =
    l.foldl (fun m _ => m.send (.i2cAck false)) ((m.setPow { m.pow with i2c := b.toNat }).send (.i2cAck true)) := by
  have hbyte : b.toNat % 256 = b.toNat := Nat.mod_eq_of_lt b.isLt
  rw [List.map_cons, opI2cWrite, List.foldl_map, hbyte]

theorem opI2cRead_of_word {v : Nat} (hsome : ∀ o, i2cReg m.pow.i2c = some o → v = m.rawWord 6 o) (hnone : i2cReg m.pow.i2c = none → v = 0) :
    opI2cRead m = (m.setPow { m.pow with i2c := (m.pow.i2c + 1) % 256 }).send (.i2cWord v) := by
  cases hreg : i2cReg m.pow.i2c with
  | none => simp only [opI2cRead, hreg, hnone hreg]
  | some o => simp only [opI2cRead, hreg, hsome o hreg]

/-! Clocks (R412, R413) -/

section
variable {d i : Nat}

theorem opPllLockLost_of_locked {m1 : Mach} (hlocked : bitOf i (m.rd F.clkStatusLocked d) = true)
    (hm1 : m1 = (m.wr F.clkStatusLocked d (clearBit i (m.rd F.clkStatusLocked d))).orIn F.clkEventsLockLost d (2 ^ i)) :
    opPllLockLost d i m = if m1.procUp 3 then m1.alert 9 d else m1 := by
  subst hm1
  exact if_neg (by rw [hlocked]; decide)

theorem opPllLockLost_of_unlocked (h : bitOf i (m.rd F.clkStatusLocked d) = false) : opPllLockLost d i m = m := if_pos (by rw [h]; rfl)

theorem opPllLockReturn_of_enabled (hen : bitOf i (m.rd F.clkCtrlPllEn d) = true) (hpower : m.power < 2) :
    opPllLockReturn d i m = m.wr F.clkStatusLocked d (setBit i (m.rd F.clkStatusLocked d)) :=
  if_neg (by rw [hen, decide_eq_false (Nat.not_le.mpr hpower)]; decide)

theorem opPllLockReturn_of_none (h : bitOf i (m.rd F.clkCtrlPllEn d) = false ∨ 2 ≤ m.power) : opPllLockReturn d i m = m := by
  refine if_pos ?_
  rcases h with h | h
  · rw [h]
    rfl
  · rw [decide_eq_true h, Bool.or_true]

theorem opPllEnable_of_writer {who v : Nat} (h : who = idHealth ∨ who = idTest) : opPllEnable d who v m = (m.pllEnable d v).respond who rsOk :=
  Mach.permit_of_ok (vigilWho_eq_true.mpr h)

theorem opPllEnable_of_other {who v : Nat} (hhealth : who ≠ idHealth) (htest : who ≠ idTest) : opPllEnable d who v m = m.respond who rsRefused :=
  Mach.permit_of_no (Bool.eq_false_iff.mpr fun h => (vigilWho_eq_true.mp h).elim hhealth htest)

section
variable {v : Nat} (hfine : ∀ f ∈ [F.fpllOdivOdiv0, F.fpllOdivOdiv1, F.fpllOdivOdiv2, F.fpllOdivOdiv3], m.rd F.fpllCfgFb d ≤ 8 * m.rd f d)
include hfine

/-- A fabric PLL within 800 MHz is enabled as it is asked for. -/
theorem Mach.pllEnable_of_within : m.pllEnable d v = if bitOf 5 v then ((m.wr F.clkCtrlPllEn d v).wr F.clkStatusLocked d v).wr F.clkStatusFpllBad d 0
    else (m.wr F.clkCtrlPllEn d v).wr F.clkStatusLocked d v := by
  have hgood : ([F.fpllOdivOdiv0, F.fpllOdivOdiv1, F.fpllOdivOdiv2, F.fpllOdivOdiv3].any (fun f => decide (8 * m.rd f d < m.rd F.fpllCfgFb d))) = false :=
    List.any_eq_false.mpr fun f hf => by
      rw [decide_eq_true_eq]
      exact Nat.not_lt.mpr (hfine f hf)
  rw [Mach.pllEnable, hgood]
  rfl

variable (hv : v < 64)
include hv

theorem Mach.pllEnable_enabled : (m.pllEnable d v).rd F.clkCtrlPllEn d = v := by
  have hwidth : v % 2 ^ F.clkCtrlPllEn.width = v := Nat.mod_eq_of_lt hv
  rw [Mach.pllEnable_of_within hfine]
  split
  · rw [Mach.rd_wr_ne _ _ _ _ _ (by decide), Mach.rd_wr_ne _ _ _ _ _ (by decide), Mach.rd_wr, hwidth]
  · rw [Mach.rd_wr_ne _ _ _ _ _ (by decide), Mach.rd_wr, hwidth]

theorem Mach.pllEnable_locked : (m.pllEnable d v).rd F.clkStatusLocked d = v := by
  have hwidth : v % 2 ^ F.clkStatusLocked.width = v := Nat.mod_eq_of_lt hv
  rw [Mach.pllEnable_of_within hfine]
  split
  · rw [Mach.rd_wr_ne _ _ _ _ _ (by decide), Mach.rd_wr, hwidth]
  · rw [Mach.rd_wr, hwidth]

end

end

/-! Start-up (R415) -/

section
variable {rails : List (Nat × Nat)} {temps : List Nat} {plls : List (Nat × Nat)} {nears : List Nat} {fars : List (Nat × Nat × Bool)}

theorem opStartupSequence_of_first {m1 m2 : Mach} (hup : m.procUp 3 = true) (hpower : m.power = 0) (hfirst : m.pow.started = false)
    (hm1 : m1 = ((m.reports.sampled rails temps true).pllsStart plls).nearStart nears)
    (hm2 : m2 = ((((m1.farStart fars).nocStart).tilesSetUp).banksStart).runStart) :
    opStartupSequence rails temps plls nears fars m = m2.setPow { m2.pow with started := true } := by
  rw [hm2, hm1]
  exact if_neg (by rw [hup, hpower, hfirst]; decide)

theorem opStartupSequence_of_none (h : m.procUp 3 = false ∨ m.power ≠ 0 ∨ m.pow.started = true) : opStartupSequence rails temps plls nears fars m = m := by
  refine if_pos ?_
  rcases h with h | h | h
  · rw [h]
    rfl
  · rw [bne_iff_ne.mpr h, Bool.or_true, Bool.true_or]
  · rw [h, Bool.or_true]

end

end

/-- Settles O42, command by command. -/
theorem powerClockAndSensorCommands : Obligations.PowerClockAndSensorCommands := by
  unfold Obligations.PowerClockAndSensorCommands
  refine ⟨fun s halive => ⟨fun w n warm above a b hwarm ha hn habove hb => ⟨
        fun hhot hlow => State.on_of_eq halive (opCapWindowEnd_of_lowest hwarm ha hn habove hb hhot hlow),
        fun hhot hmore => ⟨_, rfl, State.on_of_eq halive (opCapWindowEnd_of_stepDown hwarm ha hn habove hb hhot hmore rfl)⟩,
        fun hbelow hnone k c hk hc => ⟨
          fun hroom hcool => State.on_of_eq halive (opCapWindowEnd_of_cool hwarm ha hn habove hb hbelow hnone hk hc hroom hcool),
          fun hbetween => State.on_of_eq halive (opCapWindowEnd_of_between hwarm ha hn habove hb hbelow hnone hbetween)⟩⟩,
      fun rails temps m0 m1 hot hm0 hm1 hhot => State.on_of_eq halive (opSensorSample_eq hm0 hm1 hhot), State.on_of_same rfl,
      fun b l => State.on_of_eq halive opI2cWrite_cons, fun v hsome hnone => State.on_of_eq halive (opI2cRead_of_word hsome hnone),
      State.on_of_eq halive rfl, ⟨_, State.on_of_eq halive rfl, rfl, rfl, rfl⟩⟩,
    fun d i s halive => ⟨fun hlocked m1 hm1 => State.on_of_eq halive (opPllLockLost_of_locked hlocked hm1),
      fun h => State.on_of_same (opPllLockLost_of_unlocked h), fun hen hpower => State.on_of_eq halive (opPllLockReturn_of_enabled hen hpower),
      fun h => State.on_of_same (opPllLockReturn_of_none h), fun who v h => State.on_of_eq halive (opPllEnable_of_writer h),
      fun who v hhealth htest => State.on_of_eq halive (opPllEnable_of_other hhealth htest)⟩,
    fun m d v hfine hv => ⟨Mach.pllEnable_enabled hfine hv, Mach.pllEnable_locked hfine hv⟩,
    fun rails temps plls nears fars s halive => ⟨
      fun hup hpower hfirst m1 m2 hm1 hm2 => State.on_of_eq halive (opStartupSequence_of_first hup hpower hfirst hm1 hm2),
      fun h => State.on_of_same (opStartupSequence_of_none h)⟩⟩

end Sys2Proof.Machine
end

section
/-! Register accesses: what each meets first, and how it is answered (00 R4, R6, R8, 10 R239, R19, 13 R326, 15 R359). -/

namespace Sys2Proof.Machine

section
variable {m : Mach}

/-! The gate (00 R4) -/

section
variable {die o size who : Nat} {write : Bool}

theorem Mach.gate_of_unpopulated (h : regPopulated die o = false) : m.gate die o size who write = (some rsDecode, false) := if_pos (by simp [h])

section
variable (hpop : regPopulated die o = true) (hrow : rowWindowAt die o = none)
include hpop hrow

theorem Mach.gate_of_malformed (hbad : size ≠ 4 ∨ o % 4 ≠ 0) : m.gate die o size who write = (some rsMalformed, false) :=
  (if_neg (by simp [hpop])).trans ((if_neg (by simp [hrow])).trans (if_pos hbad))

theorem Mach.gate_of_notAdmitted (hword : o % 4 = 0) (halive : m.alive (blockDom die o) = true) (hslice : sliceMemAt die o = none)
    (hfni : fniWindowAt die o = none) (hwho : m.mayWriteReg die o who = false) : m.gate die o 4 who true = (some rsRefused, false) :=
  (if_neg (by simp [hpop])).trans ((if_neg (by simp [hrow])).trans ((if_neg (by simp [hword])).trans
    ((if_neg (by simp [halive])).trans (if_pos (by simp [hslice, hfni, hwho])))))

end

end

section
variable {addr size who data hw ev : Nat} {pkt : Option Packet}

theorem Mach.busWrite_of_elsewhere (h : ∀ d x, placeOf m.fuses addr ≠ .reg d x) : m.busWrite who addr size data hw pkt = (some rsDecode, m) := by
  unfold Mach.busWrite
  split
  · next d x hplace => exact absurd hplace (h d x)
  · rfl

theorem Mach.busRead_of_elsewhere (h : ∀ d x, placeOf m.fuses addr ≠ .reg d x) : m.busRead who addr size ev pkt = ⟨some rsDecode, [], 0, m⟩ := by
  unfold Mach.busRead
  split
  · next d x hplace => exact absurd hplace (h d x)
  · rfl

section
variable {die o : Nat} (hplace : placeOf m.fuses addr = .reg die o)
include hplace

theorem Mach.busWrite_of_stopped {st : Nat} (hgate : m.gate die o size who true = (some st, false)) :
    m.busWrite who addr size data hw pkt = (some st, m) := by
  simp only [Mach.busWrite, hplace, hgate]

theorem Mach.busRead_of_stopped {st : Nat} (hgate : m.gate die o size who false = (some st, false)) :
    m.busRead who addr size ev pkt = ⟨some st, [], 0, m⟩ := by
  simp only [Mach.busRead, hplace, hgate]

theorem Mach.busWrite_of_gate (hgate : m.gate die o size who true = (none, false)) :
    m.busWrite who addr size data hw pkt = m.regPut die o who data hw pkt := by
  simp only [Mach.busWrite, hplace, hgate]

end

/-! The answer of each command -/

section
variable {m1 : Mach} {st : Nat}

theorem opRegisterWrite_of_answered (h : m.busWrite who addr size data hw none = (some st, m1)) :
    opRegisterWrite who addr size data hw m = m1.respond who st := by
  simp only [opRegisterWrite, h]

theorem opRegisterWrite_of_held (h : m.busWrite who addr size data hw none = (none, m1)) : opRegisterWrite who addr size data hw m = m1 := by
  simp only [opRegisterWrite, h]

section
variable {d : List Byte} {marks : Nat}

theorem opReadClear_of_answered (h : m.busRead who addr 4 ev none = ⟨some st, d, marks, m1⟩) :
    opReadClear who addr ev m = m1.send (.resp who st d marks) := by
  simp only [opReadClear, h]

theorem opReadClear_of_held (h : m.busRead who addr 4 ev none = ⟨none, d, marks, m1⟩) : opReadClear who addr ev m = m1 := by
  simp only [opReadClear, h]

end

/-! The host's accesses (15 R359) -/

section
variable {tag : Nat}

theorem opRegRead_of_detached (h : m.attached = false) : opRegRead addr tag m = m := if_pos (by simp [h])

theorem opRegWrite_of_detached (h : m.attached = false) : opRegWrite addr data tag m = m := if_pos (by simp [h])

section
variable (hatt : m.attached = true)
include hatt

section
variable {d : List Byte} {marks : Nat}

theorem opRegRead_of_answered (h : m.busRead idHost addr 4 0 none = ⟨some st, d, marks, m1⟩) :
    opRegRead addr tag m = m1.peneb 0xA4 (penebStatus st) tag 0 addr (if st = rsOk then d else []) := by
  simp only [opRegRead, hatt, h, Bool.not_true, Bool.false_eq_true, if_false]

theorem opRegRead_of_held (h : m.busRead idHost addr 4 0 none = ⟨none, d, marks, m1⟩) : opRegRead addr tag m = m1 := by
  simp only [opRegRead, hatt, h, Bool.not_true, Bool.false_eq_true, if_false]

end

theorem opRegWrite_of_answered (h : m.busWrite idHost addr 4 data 0 none = (some st, m1)) :
    opRegWrite addr data tag m = m1.peneb 0xA5 (penebStatus st) tag 0 addr [] := by
  simp only [opRegWrite, hatt, h, Bool.not_true, Bool.false_eq_true, if_false]

theorem opRegWrite_of_held (h : m.busWrite idHost addr 4 data 0 none = (none, m1)) : opRegWrite addr data tag m = m1 := by
  simp only [opRegWrite, hatt, h, Bool.not_true, Bool.false_eq_true, if_false]

end

end

/-! The test port's accesses (13 R326) -/

section
variable {m0 : Mach} (hm : m = (m0.netSettle.setIr 0x20).send (.tdo 120 m0.netSettle.cfg.netCapture))
include hm

theorem opNetAccess_of_busy {write : Bool} (hbusy : m.cfg.netBusy = true) : opNetAccess addr data write m0 = m := by
  simp only [opNetAccess, ← hm, hbusy, if_true]

section
variable (hfree : m.cfg.netBusy = false)
include hfree

theorem opNetAccess_of_write (h : m.busWrite idTest addr 4 data 0 none = (some st, m1)) : opNetAccess addr data true m0 =
    m1.setCfg { m1.cfg with netBusy := false, netData := m.cfg.netData, netStatus := st, netDone := true } := by
  simp only [opNetAccess, ← hm, hfree, h, Bool.false_eq_true, if_false, if_true]

theorem opNetAccess_of_writeHeld (h : m.busWrite idTest addr 4 data 0 none = (none, m1)) : opNetAccess addr data true m0 =
    m1.setCfg { m1.cfg with netBusy := true, netAt := m1.out.length, netDone := false } := by
  simp only [opNetAccess, ← hm, hfree, h, Bool.false_eq_true, if_false, if_true]

section
variable {d : List Byte} {marks : Nat}

theorem opNetAccess_of_read (h : m.busRead idTest addr 4 0 none = ⟨some st, d, marks, m1⟩) : opNetAccess addr data false m0 =
    m1.setCfg { m1.cfg with netBusy := false, netData := leNat d, netStatus := st, netDone := true } := by
  simp only [opNetAccess, ← hm, hfree, h, Bool.false_eq_true, if_false]

theorem opNetAccess_of_readHeld (h : m.busRead idTest addr 4 0 none = ⟨none, d, marks, m1⟩) : opNetAccess addr data false m0 =
    m1.setCfg { m1.cfg with netBusy := true, netAt := m1.out.length, netDone := false } := by
  simp only [opNetAccess, ← hm, hfree, h, Bool.false_eq_true, if_false]

end

end

end

end

/-! The keeper's plain blocks (00 R6, R8) -/

theorem keeper_no_window (o : Nat) : rowWindowAt 6 o = none ∧ fniWindowAt 6 o = none ∧ sliceMemAt 6 o = none := ⟨rfl, rfl, rfl⟩

section
variable {o : Nat} (hplace : placeOf m.fuses addr = .reg 6 o)
include hplace

theorem Mach.busWrite_of_keeperPlain (hgate : m.gate 6 o 4 who true = (none, false)) (hblock : blockOf o = 0 ∨ blockOf o = 4 ∨ blockOf o = 6) :
    m.busWrite who addr 4 data hw none = (some rsOk, m.putWord 6 o data hw) := by
  rw [Mach.busWrite_of_gate hplace hgate, Mach.regPut, (keeper_no_window o).1]
  simp only [if_true, Mach.writeKeeper]
  rcases hblock with h | h | h
  · rw [h]
    rfl
  · rw [h]
    rfl
  · rw [h]
    rfl

theorem Mach.busRead_of_keeperPlain (hgate : m.gate 6 o 4 who false = (none, false)) (hfw : blockOf o ≠ 2) (hmail : blockOf o ≠ 3) :
    m.busRead who addr 4 ev none = ⟨some rsOk, leBytes 4 (m.lookAll (fldsAt 6 o)), 0, m.clearRead ev (fldsAt 6 o)⟩ := by
  obtain ⟨hrow, hfni, hslice⟩ := keeper_no_window o
  have hbox : mailWordAt 6 o = none := (if_neg (fun h => hmail h.2.1)).trans (if_neg (fun h => absurd h.1 (by decide)))
  have hlog : m.crashWord o = none := by
    have hblock : o / 0x1000000 ≠ 2 := hfw
    exact (if_neg (by omega)).trans (if_neg (by omega))
  rw [m.busRead_of_gate ev none hplace hgate, m.regGet_of_no_window who ev none hrow hfni hslice, m.readReg_of_plain who ev hbox fun _ => hlog]

end

end

end

/-- Settles O45: the gate answers before anything of a register is touched. -/
theorem registerAccessesAreGated : Obligations.RegisterAccessesAreGated := by
  unfold Obligations.RegisterAccessesAreGated
  intro s who addr size die o data hw halive
  refine ⟨fun helse => ⟨State.on_of_eq halive (opRegisterWrite_of_answered (Mach.busWrite_of_elsewhere helse)),
      fun ev => State.on_of_eq halive (opReadClear_of_answered (Mach.busRead_of_elsewhere helse))⟩,
    fun hplace => ⟨fun hpop => ⟨
        State.on_of_eq halive (opRegisterWrite_of_answered (Mach.busWrite_of_stopped hplace (Mach.gate_of_unpopulated hpop))),
        fun ev => State.on_of_eq halive (opReadClear_of_answered (Mach.busRead_of_stopped hplace (Mach.gate_of_unpopulated hpop)))⟩,
      fun hpop hrow hbad => State.on_of_eq halive
        (opRegisterWrite_of_answered (Mach.busWrite_of_stopped hplace (Mach.gate_of_malformed hpop hrow hbad))),
      fun hpop hrow hword hdom hslice hfni hwho => State.on_of_eq halive
        (opRegisterWrite_of_answered (Mach.busWrite_of_stopped hplace (Mach.gate_of_notAdmitted hpop hrow hword hdom hslice hfni hwho)))⟩⟩

/-- Settles O46, command by command. -/
theorem registerCommands : Obligations.RegisterCommands := by
  unfold Obligations.RegisterCommands
  refine ⟨fun s halive => ⟨
      fun who addr size data hw m1 st => ⟨fun h => State.on_of_eq halive (opRegisterWrite_of_answered h),
        fun h => State.on_of_eq halive (opRegisterWrite_of_held h)⟩,
      fun who addr ev st marks d m1 => ⟨fun h => State.on_of_eq halive (opReadClear_of_answered h), fun h => State.on_of_eq halive (opReadClear_of_held h)⟩,
      fun addr data tag hoff => ⟨State.on_of_same (opRegRead_of_detached hoff), State.on_of_same (opRegWrite_of_detached hoff)⟩,
      fun addr tag st marks d m1 hatt => ⟨fun h => State.on_of_eq halive (opRegRead_of_answered hatt h),
        fun h => State.on_of_eq halive (opRegRead_of_held hatt h)⟩,
      fun addr data tag st m1 hatt => ⟨fun h => State.on_of_eq halive (opRegWrite_of_answered hatt h),
        fun h => State.on_of_eq halive (opRegWrite_of_held hatt h)⟩,
      fun a data m m1 st marks d hm => ⟨fun hbusy write => State.on_of_eq halive (opNetAccess_of_busy hm hbusy),
        fun hfree => ⟨fun h => State.on_of_eq halive (opNetAccess_of_write hm hfree h), fun h => State.on_of_eq halive (opNetAccess_of_writeHeld hm hfree h),
          fun h => State.on_of_eq halive (opNetAccess_of_read hm hfree h), fun h => State.on_of_eq halive (opNetAccess_of_readHeld hm hfree h)⟩⟩⟩,
    fun m addr o who hplace => ⟨fun data hw hgate hblock => Mach.busWrite_of_keeperPlain hplace hgate hblock,
      fun ev hgate hfw hmail => Mach.busRead_of_keeperPlain hplace hgate hfw hmail⟩⟩

end Sys2Proof.Machine
end

section
/-! March runs (18 R421 to R426). -/

namespace Sys2Proof.Machine

section
variable {m : Mach} {c : Nat}

/-! Starting and aborting a run (R421, R422) -/

section
variable {who d : Nat}

theorem opMarchGo_of_other (h : exempt who = false) : opMarchGo c who d m = m.respond who rsRefused := if_pos (by rw [h]; rfl)

theorem opMarchAbort_of_other (h : exempt who = false) : opMarchAbort c who m = m.respond who rsRefused := if_pos (by rw [h]; rfl)

section
variable (hwho : exempt who = true)
include hwho

theorem exempt_not_refused : ¬ ((!exempt who) = true) := by
  rw [hwho]
  decide

section
variable {put : Mach → Fld → Nat → Mach} {m1 : Mach} (hput : put = (fun m f v => if f.isLegal v then m.wr f (clIx c) v else m))
  (hm1 : m1 = (put (put (put (put m F.marchCtrlMode (bitsOf 3 2 d)) F.marchCtrlAlg (bitsOf 5 4 d)) F.marchCtrlBg (bitsOf 7 6 d)) F.marchCtrlBanks
    (bitsOf 31 16 d)).respond who rsOk)
include hput hm1

theorem opMarchGo_of_busy (hbusy : m1.on F.marchStatusBusy (clIx c) = true) : opMarchGo c who d m = m1 := by
  subst hm1 hput
  exact (if_neg (exempt_not_refused hwho)).trans (if_pos hbusy)

theorem opMarchGo_of_idle (hidle : m1.on F.marchStatusBusy (clIx c) = false) {r : March}
    (hr : r = { March.idle with mode := m1.rd F.marchCtrlMode (clIx c), alg := m1.rd F.marchCtrlAlg (clIx c), bg := m1.rd F.marchCtrlBg (clIx c) }) :
    opMarchGo c who d m = (((m1.wr F.marchStatusBusy (clIx c) 1).wr F.marchStatusNotPassed (clIx c) 0).setMarch c r).marchReach c
      ((upFrom 0 16).filter (fun b => bitOf b (m1.rd F.marchCtrlBanks (clIx c)))) := by
  have hfree : ¬ m1.on F.marchStatusBusy (clIx c) = true := by
    rw [hidle]
    exact Bool.false_ne_true
  subst hr hm1 hput
  exact (if_neg (exempt_not_refused hwho)).trans (if_neg hfree)

end

section
variable {m1 : Mach} (hm1 : m1 = m.respond who rsOk)
include hm1

theorem opMarchAbort_of_idle (hbanks : (m.march c).banks = []) : opMarchAbort c who m = m1 := by
  have hsame : ((m.respond who rsOk).march c).banks = [] := hbanks
  simp only [opMarchAbort, if_neg (exempt_not_refused hwho), hsame, hm1]

theorem opMarchAbort_of_running {b : Nat} {l : List Nat} (hbanks : (m.march c).banks = b :: l) :
    opMarchAbort c who m = ((m1.marchEarly c).marchStatus c b 4).marchReach c [] := by
  have hsame : ((m.respond who rsOk).march c).banks = b :: l := hbanks
  simp only [opMarchAbort, if_neg (exempt_not_refused hwho), hsame, hm1]

end

end

end

/-! Transfers (R423 to R426) -/

/-- What a granted transfer leaves of the run: the failures that stand, the cycles it took, and the next bank where this one is done. -/
def Mach.marchOn (c : Nat) (m : Mach) (x : March) (cy : Nat) (fin : Bool) : Mach :=
  let m1 := m.setMarch c { x with failed := (m.march c).failed, recorded := (m.march c).recorded, cycles := x.cycles + cy }
  if fin then m1.marchBankEnd c (m1.march c).verdict else m1

section
variable {u : List Nat}

theorem opMarchTransfer_of_idle (h : (m.march c).banks = []) : opMarchTransfer c u m = m := by
  simp only [opMarchTransfer, h]

section
variable {b g : Nat} {l : List Nat} {r : March} (hr : r = m.march c) (hbanks : r.banks = b :: l) (hg : g = c * 16 + b)
include hr hbanks hg

theorem opMarchTransfer_of_lost (h : m.portBusy g 17 = true ∨ bankAdm m g (.local 17) = .held) : opMarchTransfer c u m = m.marchLost c := by
  cases hport : m.portBusy g 17 with
  | true => simp only [opMarchTransfer, ← hr, hbanks, ← hg, hport, if_true]
  | false =>
    have hheld := h.resolve_left (by simp [hport])
    simp only [opMarchTransfer, ← hr, hbanks, ← hg, hport, hheld, Bool.false_eq_true, if_false]

section
variable (hport : m.portBusy g 17 = false)
include hport

theorem opMarchTransfer_of_refused (hadm : bankAdm m g (.local 17) = .refused) :
    opMarchTransfer c u m = ((m.bankRefuse g (.local 17)).marchEarly c).marchBankEnd c 5 := by
  simp only [opMarchTransfer, ← hr, hbanks, ← hg, hport, hadm, Bool.false_eq_true, if_false]

section
variable {m0 : Mach} {w a : Nat} (hadm : bankAdm m g (.local 17) = .ok) (hm0 : m0 = m.upsetLanes c u)
include hadm hm0

theorem opMarchTransfer_of_fast (hmode : r.mode = 0) : opMarchTransfer c u m =
    Mach.marchOn c ((m0.marchWrite c b (2 * r.pos) (marchWord 0 0 false [])).marchWrite c b (2 * r.pos + 1) (marchWord 0 0 false []))
      { r with pos := r.pos + 1 } 1 (decide (10240 ≤ r.pos + 1)) := by
  simp only [opMarchTransfer, ← hr, hbanks, ← hg, hport, hadm, Bool.false_eq_true, if_false, if_pos hmode, ← hm0]
  rfl

theorem opMarchTransfer_of_full (hmode : r.mode = 1) : opMarchTransfer c u m =
    Mach.marchOn c (m0.marchElem c b 0 20480 []).1 (marchNext r 20480).1 (m0.marchElem c b 0 20480 []).2 (marchNext r 20480).2 := by
  have hnot : ¬ r.mode = 0 := by
    rw [hmode]
    decide
  simp only [opMarchTransfer, ← hr, hbanks, ← hg, hport, hadm, Bool.false_eq_true, if_false, if_neg hnot, if_pos hmode, ← hm0]
  rfl

section
variable (hw : w = 256 * r.seg + r.pos) (ha : a = bankBase g + 64 * w) (hmode0 : r.mode ≠ 0) (hmode1 : r.mode ≠ 1)
include hmode0 hmode1

section
include hw

section
include ha

/-- The first step of a segment saves its words (R425). -/
theorem opMarchTransfer_of_save {bad : List Nat} {rd : List Byte × Bool × Mach} {m1 : Mach} {r1 : March} (hstep : r.step = 1)
    (hbad : bad = Sys2Proof.Machine.badLanes m0 a 0 16) (hrd : rd = m0.readWord g a)
    (hm1 : m1 = bad.head?.elim rd.2.2 (fun x => rd.2.2.marchFail c b w x 0x1F))
    (hr1 : r1 = { r with save := r.save ++ [rd.1], saveBad := r.saveBad ++ [bad], pos := r.pos + 1 }) : opMarchTransfer c u m =
    Mach.marchOn c m1 (if r.pos + 1 = 256 then { r1 with pos := 0, step := 2 } else r1) 1 false := by
  simp only [opMarchTransfer, ← hr, hbanks, ← hg, hport, hadm, Bool.false_eq_true, if_false, if_neg hmode0, if_neg hmode1, if_pos hstep, ← hm0, ← hw, ← ha,
    ← hbad, ← hrd, -Nat.reduceEqDiff]
  simp only [hr1, hm1, hbanks, -Nat.reduceEqDiff]
  cases bad <;> rfl

end

/-- The third step writes the saved words back, with their bad lanes. -/
theorem opMarchTransfer_of_restore (hstep : r.step = 3) : opMarchTransfer c u m =
    Mach.marchOn c ((nth [] r.saveBad r.pos).foldl (fun m l => m.setLaneBad (laneOf (bankBase g + 64 * w) + l) true)
      (m0.marchWrite c b w (nth [] r.save r.pos)))
      (if r.pos + 1 = 256 then { r with pos := 0, step := 4 } else { r with pos := r.pos + 1 }) 1 false := by
  have hstep1 : ¬ r.step = 1 := by
    rw [hstep]
    decide
  have hstep2 : ¬ r.step = 2 := by
    rw [hstep]
    decide
  simp only [opMarchTransfer, ← hr, hbanks, ← hg, hport, hadm, Bool.false_eq_true, if_false, if_neg hmode0, if_neg hmode1, if_neg hstep1, if_neg hstep2,
    if_pos hstep, ← hm0, ← hw, -Nat.reduceEqDiff]
  rfl

section
variable {m1 : Mach} (hstep1 : r.step ≠ 1) (hstep2 : r.step ≠ 2) (hstep3 : r.step ≠ 3) (hm1 : m1 = m0.marchRead c b w (nth [] r.save r.pos) 0x1E)
include hstep1 hstep2 hstep3 hm1

/-- The fourth step reads the words that were written back. -/
theorem opMarchTransfer_of_verify : opMarchTransfer c u m =
    if r.pos + 1 = 256 then Mach.marchOn c m1 { r with pos := 0, step := 1, seg := r.seg + 1, save := [], saveBad := [] } 1 (r.seg + 1 == 80)
    else Mach.marchOn c m1 { r with pos := r.pos + 1 } 1 false := by
  simp only [opMarchTransfer, ← hr, hbanks, ← hg, hport, hadm, Bool.false_eq_true, if_false, if_neg hmode0, if_neg hmode1, if_neg hstep1, if_neg hstep2,
    if_neg hstep3, ← hm0, ← hw, ← hm1, -Nat.reduceEqDiff]
  rfl

end

end

/-- The second step tests the segment. -/
theorem opMarchTransfer_of_test (hstep : r.step = 2) : opMarchTransfer c u m =
    Mach.marchOn c (m0.marchElem c b (256 * r.seg) 256 r.save).1
      (if (marchNext r 256).2 then { (marchNext r 256).1 with step := 3 } else (marchNext r 256).1)
      (2 * (m0.marchElem c b (256 * r.seg) 256 r.save).2) false := by
  have hstep1 : ¬ r.step = 1 := by
    rw [hstep]
    decide
  simp only [opMarchTransfer, ← hr, hbanks, ← hg, hport, hadm, Bool.false_eq_true, if_false, if_neg hmode0, if_neg hmode1, if_neg hstep1,
    if_pos hstep, ← hm0]
  rfl

end

end

end

end

end

end

end Sys2Proof.Machine
end

section
/-! Tile self-test, repair and retirement (18 R427 to R433), and the settlement of the self-test's commands. -/

namespace Sys2Proof.Machine

section
variable {m : Mach} {t : Nat}

/-! Fences (R427) -/

section
variable {who : Nat} {on : Bool}

theorem opTileFenceWrite_of_other (halm : who ≠ idAlmanac) (htest : who ≠ idTest) : opTileFenceWrite t who on m = m.respond who rsRefused :=
  if_pos ⟨halm, htest⟩

theorem opTileFenceWrite_of_unready (h : m.tileStopped t = false ∨ m.tileHasShare t = true) :
    opTileFenceWrite t idAlmanac true m = m.respond idAlmanac rsOk := by
  refine (if_neg fun hother => hother.1 rfl).trans (if_pos ⟨rfl, rfl, h.imp_left fun hrun => ?_⟩)
  rw [hrun]
  rfl

section
variable (hwho : who = idTest ∨ (who = idAlmanac ∧ (on = false ∨ (m.tileStopped t = true ∧ m.tileHasShare t = false))))
include hwho

theorem opTileFenceWrite_of_admitted : opTileFenceWrite t who on m =
    if (m.tile t).testing && !on then (m.setTile t { m.tile t with unfence := true }).respond who rsOk
    else ((m.setTile t { m.tile t with unfence := false }).wr F.tileFenceFenced (tileIx t) (b2n on)).respond who rsOk := by
  have hadmitted : ¬ (who ≠ idAlmanac ∧ who ≠ idTest) := fun h => hwho.elim h.2 fun halm => h.1 halm.1
  refine (if_neg hadmitted).trans (if_neg ?_)
  rintro ⟨halm, hon, hbusy⟩
  rcases hwho with htest | ⟨-, hoff | ⟨hstopped, hshare⟩⟩
  · exact absurd (halm.symm.trans htest) (by decide)
  · rw [hoff] at hon
    exact Bool.false_ne_true hon
  · rw [hstopped, hshare] at hbusy
    exact hbusy.elim Bool.false_ne_true Bool.false_ne_true

theorem opTileFenceWrite_of_later (h : (m.tile t).testing = true ∧ on = false) :
    opTileFenceWrite t who on m = (m.setTile t { m.tile t with unfence := true }).respond who rsOk := by
  rw [opTileFenceWrite_of_admitted hwho, if_pos (by rw [h.1, h.2]; rfl)]

theorem opTileFenceWrite_of_now (h : (m.tile t).testing = false ∨ on = true) : opTileFenceWrite t who on m =
    ((m.setTile t { m.tile t with unfence := false }).wr F.tileFenceFenced (tileIx t) (b2n on)).respond who rsOk := by
  rw [opTileFenceWrite_of_admitted hwho, if_neg]
  rcases h with h | h
  · rw [h]
    exact Bool.false_ne_true
  · rw [h, Bool.not_true, Bool.and_false]
    exact Bool.false_ne_true

end

end

/-! The self-test (R427, R428) -/

section
variable {who : Nat} {rep : Bool}

theorem opTileSelftestGo_of_other (h : exempt who = false) : opTileSelftestGo t who rep m = m.respond who rsRefused := if_pos (by rw [h]; rfl)

section
variable (hwho : exempt who = true)
include hwho

theorem opTileSelftestGo_of_testing (h : (m.tile t).testing = true) : opTileSelftestGo t who rep m = m.respond who rsOk :=
  (if_neg (exempt_not_refused hwho)).trans (if_pos h)

section
variable {m1 : Mach} (hfree : (m.tile t).testing = false) (hm1 : m1 = (m.wr F.tileSelftestUseRepair (tileIx t) (b2n rep)).respond who rsOk)
include hfree hm1

theorem opTileSelftestGo_of_free : opTileSelftestGo t who rep m = if m1.on F.tileFenceFenced (tileIx t) && m1.tileStopped t then
    (m1.setTile t { m1.tile t with testing := true, testRepair := rep, tester := who }).wr F.tileSelftestResult (tileIx t) 1
    else m1.wr F.tileSelftestResult (tileIx t) 4 := by
  subst hm1
  exact (if_neg (exempt_not_refused hwho)).trans (if_neg (by rw [hfree]; exact Bool.false_ne_true))

theorem opTileSelftestGo_of_ready (hfence : m1.on F.tileFenceFenced (tileIx t) = true) (hstopped : m1.tileStopped t = true) :
    opTileSelftestGo t who rep m =
    (m1.setTile t { m1.tile t with testing := true, testRepair := rep, tester := who }).wr F.tileSelftestResult (tileIx t) 1 := by
  rw [opTileSelftestGo_of_free hwho hfree hm1, if_pos (by rw [hfence, hstopped]; rfl)]

theorem opTileSelftestGo_of_unready (h : m1.on F.tileFenceFenced (tileIx t) = false ∨ m1.tileStopped t = false) :
    opTileSelftestGo t who rep m = m1.wr F.tileSelftestResult (tileIx t) 4 := by
  rw [opTileSelftestGo_of_free hwho hfree hm1, if_neg]
  rcases h with h | h
  · rw [h]
    exact Bool.false_ne_true
  · rw [h, Bool.and_false]
    exact Bool.false_ne_true

end

end

end

theorem tileIx_lt (ht : t < 960) : tileIx t < 2 ^ 24 := by
  simp only [tileIx, ix]
  omega

/-- Writing a tile's register leaves HEALTH's state. -/
theorem Mach.healthUp_wr (ht : t < 960) {f : Fld} (v : Nat) (hid : F.fwStatusState.id ≠ f.id) : (m.wr f (tileIx t) v).healthUp = m.healthUp := by
  rw [Mach.healthUp, m.rd_wr_of_id_ne v hid (by decide) (tileIx_lt ht)]
  rfl

theorem Mach.healthUp_setTile (x : Tile) : (m.setTile t x).healthUp = m.healthUp := rfl

theorem opTileSelftestEnd_of_none {rows : Nat} {j : Bool} (h : (m.tile t).testing = false) : opTileSelftestEnd t rows j m = m :=
  if_pos (by rw [h]; rfl)

section
variable {rows : Nat} {j rep fail : Bool} {used : List Nat} {m1 m2 m3 m4 : Mach} {x : Tile} (hx : x = m.tile t) (htesting : x.testing = true)
  (hrep : rep = x.testRepair)
  (hused : used = (if rep then usedRows (m.rd F.tileRepairSpare0Phys (tileIx t)) (m.rd F.tileRepairSpare1Phys (tileIx t)) else upFrom 0 50))
  (hfail : fail = (j || used.any (fun r => bitOf r rows))) (hm1 : m1 = m.wr F.tileSelftestResult (tileIx t) (if fail then 3 else 2))
  (hm2 : m2 = (if rep then m1 else ((m1.wr F.tileStRowsLo (tileIx t) (rows % 2 ^ 32)).wr F.tileStRowsHiRows (tileIx t) (rows / 2 ^ 32)).wr
    F.tileStRowsHiJunctionFail (tileIx t) (b2n j)))
  (hm3 : m3 = m2.setTile t { x with testing := false, unfence := false, acc := [], epoch := x.epoch + 1, poison := 0 })
  (hm4 : m4 = (if x.unfence then m3.wr F.tileFenceFenced (tileIx t) 0 else m3))
include hx htesting hrep hused hfail hm1 hm2 hm3 hm4

theorem opTileSelftestEnd_of_testing : opTileSelftestEnd t rows j m =
    if rep && !fail && x.tester == idHealth && m.healthUp then m4.send (.tell (.clearFence t)) else m4 := by
  subst hm4 hm3 hm2 hm1 hfail hused hrep hx
  exact if_neg (by rw [htesting]; decide)

omit htesting hx hrep hused hfail in
/-- A test of the repair leaves HEALTH's state as it found it. -/
theorem Mach.healthUp_of_test (ht : t < 960) : m4.healthUp = m.healthUp := by
  have h1 : m1.healthUp = m.healthUp := by
    rw [hm1]
    exact Mach.healthUp_wr ht _ (by decide)
  have h2 : m2.healthUp = m.healthUp := by
    rw [hm2]
    split
    · exact h1
    · rw [Mach.healthUp_wr ht _ (by decide), Mach.healthUp_wr ht _ (by decide), Mach.healthUp_wr ht _ (by decide), h1]
  have h3 : m3.healthUp = m.healthUp := by
    rw [hm3, Mach.healthUp_setTile, h2]
  rw [hm4]
  split
  · rw [Mach.healthUp_wr ht _ (by decide), h3]
  · exact h3

end

/-! Retirement (R431, R433) -/

section
variable {ended why : Bool} (hended : ended = (m.rd F.tileSelftestResult (tileIx t) == 2 || m.rd F.tileSelftestResult (tileIx t) == 3))
  (hwhy : why = (ended && ((assignSpares (faultySet m t)).isNone || m.on F.tileStRowsHiJunctionFail (tileIx t) ||
    ((m.tile t).testRepair && m.rd F.tileSelftestResult (tileIx t) == 3))))
include hended hwhy

theorem opTileRetire_eq : opTileRetire t m =
    if m.on F.tileFenceFenced (tileIx t) && !(m.tile t).testing && why then m.retireTile t else m := by
  rw [hwhy, hended]
  rfl

theorem opTileRetire_of_due (hfence : m.on F.tileFenceFenced (tileIx t) = true) (hfree : (m.tile t).testing = false) (hdue : why = true) :
    opTileRetire t m = m.retireTile t := by
  rw [opTileRetire_eq hended hwhy, if_pos (by rw [hfence, hfree, hdue]; rfl)]

theorem opTileRetire_of_none (h : m.on F.tileFenceFenced (tileIx t) = false ∨ (m.tile t).testing = true ∨ why = false) : opTileRetire t m = m := by
  rw [opTileRetire_eq hended hwhy, if_neg]
  rcases h with h | h | h
  · rw [h]
    exact Bool.false_ne_true
  · rw [h, Bool.not_true, Bool.and_false]
    exact Bool.false_ne_true
  · rw [h, Bool.and_false]
    exact Bool.false_ne_true

end

/-! Repair (R429 to R432) -/

section
variable {ok : Bool} {f : Nat} (hok : ok = ((m.rd F.tileSelftestResult (tileIx t) == 2 || m.rd F.tileSelftestResult (tileIx t) == 3) &&
    !(m.tile t).testRepair && m.on F.tileFenceFenced (tileIx t) && !(m.tile t).testing && m.tileStopped t &&
    !m.on F.tileStRowsHiJunctionFail (tileIx t))) (hf : f = faultySet m t)
include hok hf

theorem opRepairAssign_of_none (h : ok = false ∨ assignSpares f = none) : opRepairAssign t m = m := by
  rcases h with h | h
  · exact if_pos (by rw [← hok, h]; rfl)
  · simp only [opRepairAssign, ← hf, h, ite_self]

section
variable {s0 s1 : Nat} (hdue : ok = true) (hspares : assignSpares f = some (s0, s1))
include hdue hspares

/-- A repair by the table: a tile whose faulty rows are as they were goes back to service or into retirement, any other is repaired and tested. -/
theorem opRepairAssign_of_spares : opRepairAssign t m =
    if SMap.get 0 t m.test.reported ≠ 0 ∧ f = lastFaulty m t then
      let n := SMap.get 0 t ((m.test.record).getD RepairRec.empty).returns + 1
      let m1 := m.writeRecord (fun r => { r with returns := SMap.put 0 t n r.returns })
      let m2 : Mach := { m1 with test := { m1.test with reported := SMap.put 0 t 0 m1.test.reported } }
      if 3 ≤ n then m2.retireTile t else m2.send (.tell (.clearFence t))
    else
      let m1 := m.writeRecord (fun r => { r with tiles := SMap.put 0x3F3F t (entryOf s0 s1 false) r.tiles })
      let m2 : Mach := { m1 with test := { m1.test with lastF := SMap.put 0 t (f + 1) m1.test.lastF,
                                                        reported := SMap.put 0 t 0 m1.test.reported } }
      opTileSelftestGo t idHealth true (opTileRepairWrite t (s0 + 256 * s1) m2) := by
  refine (if_neg (by rw [← hok, hdue]; decide)).trans ?_
  simp only [← hf, hspares]

theorem opRepairAssign_of_same {n : Nat} {m1 m2 : Mach} (hreported : SMap.get 0 t m.test.reported ≠ 0) (hsame : f = lastFaulty m t)
    (hn : n = SMap.get 0 t ((m.test.record).getD RepairRec.empty).returns + 1)
    (hm1 : m1 = m.writeRecord (fun r => { r with returns := SMap.put 0 t n r.returns }))
    (hm2 : m2 = { m1 with test := { m1.test with reported := SMap.put 0 t 0 m1.test.reported } }) :
    opRepairAssign t m = if 3 ≤ n then m2.retireTile t else m2.send (.tell (.clearFence t)) := by
  subst hm2 hm1 hn
  exact (opRepairAssign_of_spares hok hf hdue hspares).trans (if_pos ⟨hreported, hsame⟩)

theorem opRepairAssign_of_new {m1 m2 : Mach} (hnew : SMap.get 0 t m.test.reported = 0 ∨ f ≠ lastFaulty m t)
    (hm1 : m1 = m.writeRecord (fun r => { r with tiles := SMap.put 0x3F3F t (entryOf s0 s1 false) r.tiles }))
    (hm2 : m2 = { m1 with test := { m1.test with
      lastF := SMap.put 0 t (f + 1) m1.test.lastF, reported := SMap.put 0 t 0 m1.test.reported } }) :
    opRepairAssign t m = opTileSelftestGo t idHealth true (opTileRepairWrite t (s0 + 256 * s1) m2) := by
  subst hm2 hm1
  exact (opRepairAssign_of_spares hok hf hdue hspares).trans (if_neg fun h => hnew.elim h.1 fun hother => hother h.2)

end

end

end

/-- Settles O47, command by command: the runs of a cluster, then the tests and repairs of a tile. -/
theorem selfTestAndRepair : Obligations.SelfTestAndRepair := by
  unfold Obligations.SelfTestAndRepair
  constructor
  · rintro c s p halive rfl
    refine ⟨fun who d hwho => ⟨State.on_of_eq halive (opMarchGo_of_other hwho), State.on_of_eq halive (opMarchAbort_of_other hwho)⟩,
      fun who d put m1 hwho hput hm1 => ⟨fun hbusy => State.on_of_eq halive (opMarchGo_of_busy hwho hput hm1 hbusy),
        fun hidle r hr => State.on_of_eq halive (opMarchGo_of_idle hwho hput hm1 hidle hr)⟩,
      fun who m1 hwho hm1 => ⟨fun hbanks => State.on_of_eq halive (opMarchAbort_of_idle hwho hm1 hbanks),
        fun b l hbanks => State.on_of_eq halive (opMarchAbort_of_running hwho hm1 hbanks)⟩,
      fun hbanks u => State.on_of_same (opMarchTransfer_of_idle hbanks), fun b l u g r hr hbanks hg => ⟨
        fun hlost => State.on_of_eq halive (opMarchTransfer_of_lost hr hbanks hg hlost),
        fun hport hadm => State.on_of_eq halive (opMarchTransfer_of_refused hr hbanks hg hport hadm), fun hport hadm m0 w a go hm0 hw ha hgo => ?_⟩⟩
    obtain rfl : go = Mach.marchOn c.val := hgo
    refine ⟨fun hmode => State.on_of_eq halive (opMarchTransfer_of_fast hr hbanks hg hport hadm hm0 hmode),
      fun hmode => State.on_of_eq halive (opMarchTransfer_of_full hr hbanks hg hport hadm hm0 hmode), fun hmode0 hmode1 => ⟨
        fun hstep bad rd m1 r1 hbad hrd hm1 hr1 => State.on_of_eq halive
          (opMarchTransfer_of_save hr hbanks hg hport hadm hm0 hw ha hmode0 hmode1 hstep hbad hrd (hm1.trans (by cases bad <;> rfl)) hr1),
        fun hstep => State.on_of_eq halive (opMarchTransfer_of_test hr hbanks hg hport hadm hm0 hmode0 hmode1 hstep),
        fun hstep => State.on_of_eq halive ((opMarchTransfer_of_restore hr hbanks hg hport hadm hm0 hw hmode0 hmode1 hstep).trans (by rw [← ha])),
        fun hstep1 hstep2 hstep3 m1 hm1 => ⟨fun hlast => State.on_of_eq halive
            ((opMarchTransfer_of_verify hr hbanks hg hport hadm hm0 hw hmode0 hmode1 hstep1 hstep2 hstep3 hm1).trans (if_pos hlast)),
          fun hmore => State.on_of_eq halive
            ((opMarchTransfer_of_verify hr hbanks hg hport hadm hm0 hw hmode0 hmode1 hstep1 hstep2 hstep3 hm1).trans (if_neg hmore))⟩⟩⟩
  · rintro t s p halive rfl
    exact ⟨fun who on halm htest => State.on_of_eq halive (opTileFenceWrite_of_other halm htest),
      fun h => State.on_of_eq halive (opTileFenceWrite_of_unready h),
      fun who on hwho => ⟨fun h => State.on_of_eq halive (opTileFenceWrite_of_later hwho h),
        fun h => State.on_of_eq halive (opTileFenceWrite_of_now hwho h)⟩,
      fun who r hwho => State.on_of_eq halive (opTileSelftestGo_of_other hwho),
      fun who r hwho h => State.on_of_eq halive (opTileSelftestGo_of_testing hwho h),
      fun who r m1 hwho hfree hm1 => ⟨
        fun hfence hstopped => State.on_of_eq halive (opTileSelftestGo_of_ready hwho hfree hm1 hfence hstopped),
        fun h => State.on_of_eq halive (opTileSelftestGo_of_unready hwho hfree hm1 h)⟩,
      fun rows j h => State.on_of_same (opTileSelftestEnd_of_none h),
      fun rows j rep fail used m1 m2 m3 m4 x hx htesting hrep hused hfail hm1 hm2 hm3 hm4 => State.on_of_eq halive
        ((opTileSelftestEnd_of_testing hx htesting hrep hused hfail hm1 hm2 hm3 hm4).trans
          (by rw [Mach.healthUp_of_test hm1 hm2 hm3 hm4 t.isLt])),
      fun ended why hended hwhy => ⟨fun hfence hfree hdue => State.on_of_eq halive (opTileRetire_of_due hended hwhy hfence hfree hdue),
        fun h => State.on_of_same (opTileRetire_of_none hended hwhy h)⟩,
      fun ok f hok hf => ⟨fun h => State.on_of_same (opRepairAssign_of_none hok hf h), fun s0 s1 hdue hspares => ⟨
        fun hreported hsame n m1 m2 hn hm1 hm2 => State.on_of_eq halive
          (opRepairAssign_of_same hok hf hdue hspares hreported hsame hn hm1 hm2),
        fun hnew m1 m2 hm1 hm2 => State.on_of_eq halive (opRepairAssign_of_new hok hf hdue hspares hnew hm1 hm2)⟩⟩⟩

end Sys2Proof.Machine
end
